-- ==== Sys2Proof/Word.lean ====
section
/-! DEFINITION. The machine's words: the widths that 00_scope.md (R4, R5) and 01_machine_model.md (R21) name. -/

namespace Sys2Proof

/-- One byte of memory (R280: a location is one byte). -/
abbrev Byte := BitVec 8
/-- A half word: an aperture (R29), a 16-bit element (R53). -/
abbrev Half := BitVec 16
/-- A 32-bit word: an instruction word (R79), the DATA of an image (R21). -/
abbrev Word := BitVec 32
/-- A 64-bit word: a lane PC (R13), a register pair (R5). -/
abbrev DWord := BitVec 64

end Sys2Proof
end

