-- ==== Sys2Proof/Config.lean ====
section
/-! DEFINITION. What the spec leaves open: the free values. Each is an opaque constant, so that no
proof can see its value, and a statement about it holds for every value. -/

namespace Sys2Proof.Config

/-- The approximation y' of `frcp` and `fsfu` (R147, R148): function, carrier, the bits of the source
image (data, then glaze); sign, significand, exponent. It is used only within the bound the spec
states. Log 10. -/
opaque approx : Nat → Nat → Nat → Bool × Nat × Int

/-- Data that the spec calls unpredictable (R8): the draw number and the byte's place in the draw.
Log 11. -/
opaque freeByte : Nat → Nat → BitVec 8

/-- Numbers that the spec leaves to the implementation (signatures, keys, certificates, counter
increments): the draw number. Log 12. -/
opaque freeNat : Nat → Nat

/-- A signature verifies (R459): which algorithm (0 ECDSA P-384, 1 LMS), the public key, the bytes signed, the signature.
Log 105. -/
opaque sigOk : Nat → List (BitVec 8) → List (BitVec 8) → List (BitVec 8) → Bool

/-- The Seori vendor identifier, and the place of the next capability after a DVSEC (R445, R464): log 107. -/
opaque vendorId : BitVec 16
opaque nextCap : Nat → BitVec 12

/-- Digests that firmware measures (R470): which (0 the ROM, 1 copy A, 2 copy B), and the byte. Log 35. -/
opaque digest : Nat → Nat → BitVec 8

/-- Bits [13:5] of the remap entry of a slot of a compacted group that holds no lane (R183): the slot.
Log 13. -/
opaque emptySlot : Nat → BitVec 9

end Sys2Proof.Config
end

