-- ==== Sys2Proof/Syntax.lean ====
section
/-! DEFINITION. The instruction set: one constructor of `Instr` for each row of the opcode table
(spec/opcode_table.json). An encoded instruction's constructor holds its decoded operands
(03_encoding_assembly.md R82-R91); a device step's constructor holds the operands of the step
(95_what_each_step_holds.md), which has no encoding. -/

namespace Sys2Proof

/-- LEN of word 0 (R82). -/
inductive Len | two | three | four
deriving DecidableEq, Repr

/-- The fields every encoded instruction has: U, SW, the guard, the length and the literal words
(R82, R83, R90); an absent literal word is zero (R84). -/
structure Com where
  u : Bool
  sw : Bool
  gn : Bool
  gp : BitVec 3
  len : Len
  imm : Word
  ext : Word
deriving DecidableEq, Repr

/-- An operand byte (R85); `none` is 0xFF (unused or discard, R85, R86). -/
inductive Opnd
  | v (n : Fin 192)
  | s (n : Fin 60)
  | lane
  | zero
  | lit
  | none
deriving DecidableEq, Repr

/-- A predicate source field with negate bit (R117). -/
structure PF where
  neg : Bool
  p : BitVec 3
deriving DecidableEq, Repr

/-- Integer element types (R115). -/
inductive ITy | u32 | i32 | u64 | i64 | u16x2 | i16x2 | u8x4 | i8x4
deriving DecidableEq, Repr

/-- Carriers (R141). -/
inductive FTy | f32 | f64 | f16x2 | bf16x2
deriving DecidableEq, Repr

/-- Rounding field (R142); `dyn` is code 7, "use %rmode". -/
inductive RM | rne | rtz | rup | rdn | rna | sr | dyn
deriving DecidableEq, Repr

/-- The combine of a compare (R135, R153). -/
inductive Comb | and | or | xor
deriving DecidableEq, Repr

/-- Integer conditions (R135). -/
inductive ICc | eq | ne | lt | le | gt | ge | tnz | tz
deriving DecidableEq, Repr

/-- Floating-point conditions (R153). -/
inductive FCc | eq | ne | lt | le | gt | ge | un | ord
deriving DecidableEq, Repr

/-- Scopes (R192). -/
inductive Scope | grp | team | clus | die | mod | sys
deriving DecidableEq, Repr

/-- Orders (R192). -/
inductive MOrd | rlx | acq | rel | ar | sc
deriving DecidableEq, Repr

/-- Cache policies (R191). -/
inductive Pol | nrm | str | na | ms
deriving DecidableEq, Repr

/-- Widths of `ld` and `st` (R198, R199). -/
inductive LdW | u8 | i8 | u16 | i16 | w32 | w64 | w128
deriving DecidableEq, Repr

/-- Formats of `ldc` (R200). -/
inductive LdcF | bf16 | f16 | e4m3 | e5m2 | f64f32
deriving DecidableEq, Repr

/-- Formats of `stc` (R201). -/
inductive StcF | bf16 | f16 | e4m3 | e5m2 | f32 | f64 | f32f64
deriving DecidableEq, Repr

/-- Formats of `cnld` and `cnst` (R232). -/
inductive CnF | bf16 | f16 | e4m3 | e5m2 | f32 | f64 | i32
deriving DecidableEq, Repr

/-- Types of atomics (R204). -/
inductive ATy | u32 | i32 | u64 | i64 | f32 | f64
deriving DecidableEq, Repr

/-- Element types of `mred` (R208). -/
inductive MredTy | f32 | i32 | f64
deriving DecidableEq, Repr

/-- Narrow element formats (R160). -/
inductive EF | e4m3 | e5m2 | e3m2 | e2m3 | e2m1
deriving DecidableEq, Repr

/-- Matrix formats (R224), in the order of FN[6:0]. -/
inductive MFmt
  | f64 | f32 | bf16 | f16 | e4m3 | e5m2 | e4m3e5m2 | e5m2e4m3 | e3m2 | e2m3 | e2m1
  | s8 | u8 | s8u8 | u8s8 | s4 | u4 | s4u4
deriving DecidableEq, Repr

/-- Canvas types (R216). -/
inductive CTy | f32 | i32 | f64 | lut1 | lut2 | lut3 | lut4
deriving DecidableEq, Repr

/-- Levels of `cmnt` (R211). -/
inductive CLvl | l1 | l2 | msc | all
deriving DecidableEq, Repr

/-- Barrier levels (R253). -/
inductive BLvl | team | clus | grid
deriving DecidableEq, Repr

/-- Key types of `vsort` (R188). -/
inductive Kt | u32 | i32 | f32
deriving DecidableEq, Repr

/-- Reductions of `redux` and `scan` (R186). -/
inductive RedOp
  | addU32 | addU64 | minU32 | maxU32 | minI32 | maxI32 | and | or | xor
  | faddF32 | faddF64 | fminF32 | fmaxF32
deriving DecidableEq, Repr

/-- Element types of `acol` (R250). -/
inductive AcTy | f32 | f64 | i32 | u32max | bf16
deriving DecidableEq, Repr

/-- A canvas field (R218). -/
structure CF where
  wh : Bool
  q : BitVec 2
  m : BitVec 4
deriving DecidableEq, Repr

/-- Operands of the integer, shift, bit and move instructions (R115). -/
structure IArgs where
  k : Com
  ty : ITy
  sat : Bool
  d : Opnd
  a : Opnd
  b : Opnd
  c : Opnd
deriving DecidableEq, Repr

/-- Operands of `addc` and `subb` (R123); `pI` is present when CI is set. -/
structure CarryArgs where
  k : Com
  pO : BitVec 3
  pI : Option PF
  d : Opnd
  a : Opnd
  b : Opnd
deriving DecidableEq, Repr

/-- Operands of a compare into a predicate (R135, R153). -/
structure CmpArgs where
  k : Com
  pD : BitVec 3
  cb : Option (Comb × PF)
  a : Opnd
  b : Opnd
deriving DecidableEq, Repr

/-- Source modifiers of one operand (R141). -/
structure FMod where
  abs : Bool
  neg : Bool
deriving DecidableEq, Repr

/-- Operands of the floating-point arithmetic instructions (R141). -/
structure FArgs where
  k : Com
  ft : FTy
  ma : FMod
  mb : FMod
  mc : FMod
  d : Opnd
  a : Opnd
  b : Opnd
  c : Opnd
deriving DecidableEq, Repr

/-- Operands of `frnd`, `fin` and `fcvti` (R152, R157, R158). -/
structure RArgs where
  k : Com
  ft : FTy
  rm : RM
  d : Opnd
  a : Opnd
deriving DecidableEq, Repr

/-- Operands of `vote` (R137). -/
structure VoteArgs where
  k : Com
  d : Opnd
  p : PF
deriving DecidableEq, Repr

/-- Operands of `shfl` (R185). -/
structure ShArgs where
  k : Com
  w64 : Bool
  mm : Bool
  seg : Fin 5
  d : Opnd
  a : Opnd
  b : Opnd
  c : Opnd
deriving DecidableEq, Repr

/-- Operands of `ld`, `st` and `ldc` (R191, R192): `d` the destination or data register. -/
structure MArgs where
  k : Com
  pol : Pol
  ap : BitVec 3
  scope : Scope
  ord : MOrd
  d : Opnd
  a : Opnd
deriving DecidableEq, Repr

/-- Operands of `stc` (R201). -/
structure StcArgs where
  k : Com
  pol : Pol
  ap : BitVec 3
  f : StcF
  rm : RM
  sat : Bool
  rel : Bool
  scope : Scope
  a : Opnd
  b : Opnd
deriving DecidableEq, Repr

/-- Operands of `spill` and `fill` (R202): `n1` is n - 1, `r` the first register. -/
structure SpArgs where
  k : Com
  pol : Pol
  ap : BitVec 3
  n1 : BitVec 8
  r : Opnd
  a : Opnd
deriving DecidableEq, Repr

/-- Operands of `atom`, `cas` and `atms` (R204, R205, R207). -/
structure AtArgs where
  k : Com
  ap : BitVec 3
  ty : ATy
  scope : Scope
  ord : MOrd
  d : Opnd
  a : Opnd
  b : Opnd
  c : Opnd
deriving DecidableEq, Repr

/-- Operands of `mred` (R208). -/
structure MredArgs where
  k : Com
  ty : MredTy
  ap : BitVec 3
  tok : Option (BitVec 4)
  a : Opnd
  b : Opnd
  c : Opnd
deriving DecidableEq, Repr

/-- Operands of `pf` and `cmnt` (R210, R211). -/
structure LnArgs where
  k : Com
  pol : Pol
  ap : BitVec 3
  lvl : CLvl
  a : Opnd
deriving DecidableEq, Repr

/-- Operands of `tier` (R213). -/
structure TierArgs where
  k : Com
  ap : BitVec 3
  d : Opnd
  a : Opnd
  b : Opnd
deriving DecidableEq, Repr

/-- Operands of `mma` (R223). -/
structure MmaArgs where
  k : Com
  mx : Bool
  fmt : MFmt
  za : Bool
  dk : Bool
  sat : Bool
  tr : Bool
  kn : BitVec 2
  gam : Opnd
  cf : CF
  a : Opnd
  b : Opnd
  c : Opnd
deriving DecidableEq, Repr

/-- Operands of `mlut.a` (R230). -/
structure LutArgs where
  k : Com
  n1 : BitVec 2
  za : Bool
  dk : Bool
  gam : Opnd
  cf : CF
  mt : BitVec 4
  b : Opnd
deriving DecidableEq, Repr

/-- Operands of the memory forms of `cnld` and `cnst` (R232, R233). -/
structure CnMemArgs where
  k : Com
  f : CnF
  pol : Pol
  ap : BitVec 3
  rm : RM
  sat : Bool
  cf : CF
  a : Opnd
deriving DecidableEq, Repr

/-- Operands of the register forms of `cnld`, `cnst` and of `cnrow` (R232, R233, R236). -/
structure CnRegArgs where
  k : Com
  f : CnF
  rm : RM
  cf : CF
  r : Opnd
deriving DecidableEq, Repr

/-- Operands of `acpy` (R243): `dir` 0 g2t, 1 t2g, 2 g2g, 3 t2t; `dims` is the number less one. -/
structure AcpyArgs where
  k : Com
  dims : Fin 3
  dir : BitVec 2
  pol : Pol
  dap : BitVec 3
  sap : BitVec 3
  tok : Option (BitVec 4)
  a : Opnd
  b : Opnd
  c : Opnd
deriving DecidableEq, Repr

/-- Operands of `agth` and `asct` (R246). -/
structure GthArgs where
  k : Com
  pol : Pol
  ap : BitVec 3
  tok : Option (BitVec 4)
  a : Opnd
  b : Opnd
  c : Opnd
deriving DecidableEq, Repr

/-- Operands of `acol` (R250). -/
structure AcolArgs where
  k : Com
  pol : Pol
  ty : AcTy
  ap : BitVec 3
  tok : Option (BitVec 4)
  a : Opnd
  b : Opnd
  c : Opnd
deriving DecidableEq, Repr

/-- Operands of `bar` (R253). -/
structure BarArgs where
  k : Com
  lvl : BLvl
  eng : Bool
  n : BitVec 4
deriving DecidableEq, Repr

/-- Operands of `csr` (R273). -/
structure CsrArgs where
  k : Com
  num : BitVec 12
  d : Opnd
  a : Opnd
deriving DecidableEq, Repr

/-- A base-die request packet (R362) as the base die of a stack receives it. `write`, `lanes` and
`rows` are the payload of WRITE, ATOMIC and REDUCE; `team` names the team whose access to a memory-side page it is, 0 for
any other; `done` marks a request whose data the home has already applied when it received it (R363), which then only drives
the bank; `die` is the die that issued it (R378). -/
structure BasePkt where
  kind : BitVec 8
  mask : BitVec 8
  tag : BitVec 12
  vd : Nat
  ctx : Nat
  opc : BitVec 8
  pmask : BitVec 8
  line : Nat
  write : List Byte
  lanes : List (Nat × DWord × DWord)
  rows : List Nat
  team : Nat
  done : Bool
  die : Nat
deriving DecidableEq, Repr

/-- A write that reaches a notify page (R387, R420): the function (0 the PF, n the VF n), the BAR2
offset, whether it is one aligned 64-byte posted write, its PASID prefix and its bytes. -/
structure NotifyWr where
  fn : Nat
  off : Nat
  whole : Bool
  pasid : Option Nat
  bytes : List Byte
deriving DecidableEq, Repr

/-- What becomes of a report before its release (R437, R468): it is released; its flash write fails; or the leader's lease
lapses once that write has completed. -/
inductive RepEnd | released | noFlash | lapsed
deriving DecidableEq, Repr

/-- An owner-window command (R424) less its opcode: the window's VD and the fields read, and how the work on it ends where it
is a REPORT. -/
structure OwnCmd where
  win : Nat
  vd : Nat
  ctx : Nat
  seq : Word
  a : DWord
  b : DWord
  st : DWord
  rep : RepEnd
deriving DecidableEq, Repr

/-- A transport packet (R452) as a port receives it: its bytes from the header to the CRC, and, over CXL, the poison of its
32-byte units as a mask (R460). -/
structure NetPkt where
  bytes : List Byte
  psn : Nat
deriving DecidableEq, Repr

/-- Data of a line with the poison of its 32-byte units as a mask (R460). -/
structure LineData where
  bytes : List Byte
  psn : Nat
deriving DecidableEq, Repr

/-- The store that detects an error in a 32-byte unit (R355): the memory itself, the home's L2, the memory-side cache, the L1
of a core, or the copy of a guest line or of a far line on a die. -/
inductive ErrLoc
  | memory | l2 | msc
  | l1 (core : Nat)
  | guest (die : Nat)
  | far (die : Nat)
deriving DecidableEq, Repr

/-- An error in a unit: where it is detected, and whether its code corrects it (R355). -/
structure UnitErr where
  loc : ErrLoc
  corrected : Bool
deriving DecidableEq, Repr

/-- An error in group state without a poison bit: corrected in place, or uncorrectable in the predicate, token, aperture or other
part of a number (R303). -/
inductive LostErr
  | corrected
  | lost (num : Byte)
deriving DecidableEq, Repr

/-- Registers that a REGISTER_WRITE reaches (R7): those whose write has no behaviour of its own, and CMD of an owner window with
an OP (R424); a function-level reset of a VF (R435); 8 bytes at an offset of a function's BAR0 (R417), and 4 bytes of
configuration space at an offset of the fabric DVSEC or, with `boot` not 0, of the boot DVSEC, as a port receives them (R443). -/
inductive DevReg
  | fsw (die vd : Nat)
  | mscPart (die idx : Nat)
  | vdField (vd : Nat) (field : Nat)
  | aqi (i : Nat) (hi : Bool)
  | owner (vd : Nat) (field : Nat)
  | remap (vd i : Nat) (field : Nat)
  | fctl
  | fwtBase
  | commBase
  | netBase
  | taccBase
  | featSel (i : Fin 4)
  | rlSize
  | cmd (c : OwnCmd) (op : Byte)
  | flr (vf : Nat)
  | bar0 (fn off : Nat)
  | cfg (port boot off : Nat)
deriving DecidableEq, Repr

/-- An extent by its base, and the holder that releases it (R455). -/
structure ExtHold where
  base : Nat
  holder : Nat
deriving DecidableEq, Repr

/-- A firmware image copy as the ROM judges it (R463). -/
structure FwCopy where
  svn : Nat
  digest : Bool
  ecdsa : Bool
  lms : Bool
deriving DecidableEq, Repr

/-- CXL.mem requests to memory of the module (R444, R448, R457), with the requester's PBR ID: a read, a write with the poison of
its 32-byte units as a mask, and an atomic with its operation and operands as in the header of R362. -/
inductive HostReq
  | read (pa n req : Nat)
  | write (pa : Nat) (d : LineData) (req : Nat)
  | atomic (pa opc : Nat) (b c : DWord) (req : Nat)
deriving DecidableEq, Repr

/-- The instruction set: one constructor for each row of spec/opcode_table.json. -/
inductive Instr
  -- integer, address, move and predicate (04_isa_integer.md)
  | iadd (x : IArgs) | isub (x : IArgs)
  | imulLo (x : IArgs) | imulHi (x : IArgs) | imulWide (x : IArgs)
  | imad (x : IArgs) | imadWide (x : IArgs)
  | idiv (x : IArgs) | irem (x : IArgs)
  | imin (x : IArgs) | imax (x : IArgs) | iabs (x : IArgs) | ineg (x : IArgs)
  | addc (x : CarryArgs) | subb (x : CarryArgs)
  | lop (x : IArgs) (tt : Byte)
  | shl (x : IArgs) | shr (x : IArgs) | sra (x : IArgs) | rotl (x : IArgs) | rotr (x : IArgs)
  | shfWin (x : IArgs) | shfRot (x : IArgs)
  | clz (x : IArgs) | ctz (x : IArgs) | popc (x : IArgs) | brev (x : IArgs) | bswap (x : IArgs)
  | cls (x : IArgs)
  | bfxU (x : IArgs) | bfxS (x : IArgs) | bfi (x : IArgs)
  | prmt (x : IArgs)
  | lea (x : IArgs) (n : BitVec 3)
  | idpDp4 (x : IArgs) (sa sb : Bool) | idpDp2 (x : IArgs) | sad (x : IArgs)
  | cvti (x : IArgs) (dt : ITy) (e : BitVec 2)
  | mov (x : IArgs) | mov64 (x : IArgs) | movl (x : IArgs) | movl64 (x : IArgs)
  | sel (x : IArgs) (p : PF) | sel64 (x : IArgs) (p : PF)
  | icmp (x : CmpArgs) (ty : ITy) (cc : ICc)
  | plop (k : Com) (tt : Byte) (pD pA pB pC : BitVec 3)
  | voteSome (x : VoteArgs) | voteEvery (x : VoteArgs) | voteSame (x : VoteArgs)
  | voteMask (x : VoteArgs) | voteCount (x : VoteArgs) | voteFirst (x : VoteArgs)
  | pmovGet (k : Com) (d : Opnd) | pmovSet (k : Com) (mask : BitVec 7) (a : Opnd)
  | bcast (x : IArgs) | rdlane (x : IArgs) | bcast64 (x : IArgs) | rdlane64 (x : IArgs)
  -- floating point and conversion (05_isa_float.md)
  | fadd (x : FArgs) | fsub (x : FArgs) | fmul (x : FArgs) | ffma (x : FArgs)
  | fmin (x : FArgs) | fmax (x : FArgs) | fminnum (x : FArgs) | fmaxnum (x : FArgs)
  | fdiv (x : FArgs) | fsqrt (x : FArgs)
  | frcpRcp (x : FArgs) | frcpRsq (x : FArgs)
  | fsfuExp2 (x : FArgs) | fsfuLog2 (x : FArgs) | fsfuSin (x : FArgs) | fsfuCos (x : FArgs)
  | fsfuTanh (x : FArgs)
  | hdot2F16 (x : FArgs) | hdot2Bf16 (x : FArgs)
  | fscale (x : FArgs) | fxtrExp (x : FArgs) | fxtrSig (x : FArgs)
  | frnd (x : RArgs)
  | fcmpX (x : CmpArgs) (ft : FTy) (ma mb : FMod) (cc : FCc)
  | fcmpR (x : CmpArgs) (ft : FTy) (ma mb : FMod) (cc : FCc) (rm : RM)
  | fclass (x : FArgs) | fclassP (k : Com) (ft : FTy) (pD : BitVec 3) (a b : Opnd)
  | fcvt (k : Com) (df sf : FTy) (e : Bool) (d a b : Opnd)
  | icvtf (k : Com) (df : FTy) (st : BitVec 2) (d a b : Opnd)
  | fcvti (x : RArgs) (dt : BitVec 2) (sat e : Bool)
  | fin (x : RArgs)
  | glzGet (x : FArgs) | glzSet (x : FArgs) | glzClr (x : FArgs)
  | glzTest (k : Com) (ft : FTy) (pD : BitVec 3) (a : Opnd)
  | mxsc (k : Com) (ef : EF) (d a : Opnd)
  | fpk (k : Com) (ef : EF) (rm : RM) (sat : Bool) (scm : Fin 3) (d a b c : Opnd)
  | fupk (k : Com) (ef : EF) (scm : Fin 2) (d a b : Opnd)
  | rng (k : Com) (d : Opnd)
  -- control flow, the prism and cross-lane (06_isa_control_lanes.md)
  | braWhole (k : Com) | braD (k : Com) | braEj (k : Com)
  | brxD (k : Com) (a : Opnd) | brxWhole (k : Com) (a : Opnd)
  | call (k : Com) (d : Opnd) | callX (k : Com) (d a : Opnd) | ret (k : Com) (a : Opnd)
  | fcs (k : Com) | exit (k : Com) | pswp (k : Com)
  | compactReturn (gid : Nat)
  | lmap (k : Com) (d : Opnd) | lmapRd (k : Com) (d b : Opnd)
  | shflSel (x : ShArgs) | shflSlide (x : ShArgs) | shflRot (x : ShArgs) | shflFlip (x : ShArgs)
  | redux (k : Com) (op : RedOp) (d a : Opnd) | scan (k : Com) (op : RedOp) (ex : Bool) (d a : Opnd)
  | isectM (k : Com) (pD : BitVec 3) (a b : Opnd) | isectIx (k : Com) (d a b : Opnd)
  | isectAdv (k : Com) (d a b : Opnd)
  | vsortAsc (k : Com) (kt : Kt) (d a b : Opnd) | vsortDesc (k : Com) (kt : Kt) (d a b : Opnd)
  | matchPeers (k : Com) (w64 : Bool) (d a : Opnd) | matchUni (k : Com) (w64 : Bool) (d a : Opnd)
  | matchLead (k : Com) (w64 : Bool) (d a : Opnd)
  -- memory, atomic and memory-side (07_isa_memory.md)
  | ld (x : MArgs) (w : LdW) | st (x : MArgs) (w : LdW) | ldc (x : MArgs) (f : LdcF)
  | stc (x : StcArgs)
  | spill (x : SpArgs) | fill (x : SpArgs)
  | atomXchg (x : AtArgs) | atomAdd (x : AtArgs) | atomAnd (x : AtArgs) | atomOr (x : AtArgs)
  | atomXor (x : AtArgs) | atomMin (x : AtArgs) | atomMax (x : AtArgs) | atomFadd (x : AtArgs)
  | atomFmin (x : AtArgs) | atomFmax (x : AtArgs)
  | cas (x : AtArgs)
  | atmsAdd (x : AtArgs) | atmsMin (x : AtArgs) | atmsMax (x : AtArgs) | atmsXchg (x : AtArgs)
  | atmsFadd (x : AtArgs) | atmsCas (x : AtArgs)
  | mredLine (x : MredArgs) | mredRet (x : MredArgs)
  | pfL1 (x : LnArgs) | pfL2 (x : LnArgs) | pfMsc (x : LnArgs)
  | cmntWb (x : LnArgs) | cmntInv (x : LnArgs) | cmntIc (x : LnArgs)
  | tierPin (x : TierArgs) | tierUnpin (x : TierArgs) | tierPromoteHint (x : TierArgs)
  | tierDemote (x : TierArgs)
  | tierStatusReturn (op : Nat)
  | fnc (k : Com) (scope : Scope) (pred succ : Byte)
  -- the easel (08_isa_matrix.md)
  | mma (x : MmaArgs)
  | mlutB (k : Com) (n1 : BitVec 2) (cf : CF) (a b : Opnd) | mlutA (x : LutArgs)
  | cnalAlloc (k : Com) (pD : BitVec 3) (ty : CTy) (cf : CF)
  | cnalGrow (k : Com) (pD : BitVec 3) (b : Opnd) | cnalGrowW (k : Com) (pD : BitVec 3) (b : Opnd)
  | canvasGrowGrant (cl : Nat)
  | cnalFree (k : Com) (cf : CF) | cnalTrim (k : Com) (b : Opnd)
  | cnz (k : Com) (cf : CF)
  | cnldMem (x : CnMemArgs) | cnldReg (x : CnRegArgs)
  | cnstMem (x : CnMemArgs) | cnstReg (x : CnRegArgs)
  | cnrowMax (k : Com) (cf : CF) (r : Opnd) | cnrowSum (k : Com) (cf : CF) (r : Opnd)
  | cnrowScl (k : Com) (cf : CF) (r : Opnd) | cnrowCscl (k : Com) (cf : CF) (r : Opnd)
  | mwait (k : Com) | mwaitM (k : Com) (cf : CF)
  | easelGrant (cl : Nat) | easelOpComplete (cl : Nat)
  -- asynchronous, synchronisation, task and system (09_isa_async_sync_system.md)
  | acpy (x : AcpyArgs) | agth (x : GthArgs) | asct (x : GthArgs)
  | copyComplete (op : Nat)
  | tkwAll (k : Com) (clr : Bool) (a : Opnd) | tkwAny (k : Com) (clr : Bool) (d a : Opnd)
  | tkt (k : Com) (pD : BitVec 3) (t : BitVec 4) | tktErr (k : Com) (pD : BitVec 3) (t : BitVec 4)
  | tktSt (k : Com) (d : Opnd) (t : BitVec 4)
  | evq (k : Com) (eng : Bool) (a : Opnd)
  | eventRecordTake (cl : Nat)
  | acolAllred (x : AcolArgs) | acolAllgath (x : AcolArgs) | acolRedscat (x : AcolArgs)
  | collectiveComplete (comm rank : Nat)
  | barArrive (x : BarArgs) | barWait (x : BarArgs) | barSync (x : BarArgs)
  | barrierArrivalForward (grid n : Nat)
  | gate (k : Com) | rels (k : Com) (eng : Bool)
  | rtskSpawn (k : Com) (ap : BitVec 3) (t : Option (BitVec 4)) (a : Opnd) | rtskDone (k : Com)
  | susp (k : Com) (scope : Scope) (rights : BitVec 4) (ap : BitVec 3) (a b : Opnd)
  | resm (k : Com) (scope : Scope) (ap : BitVec 3) (pD : BitVec 3) (a : Opnd)
  | resmJoin (k : Com) (scope : Scope) (ap : BitVec 3) (pD : BitVec 3) (a : Opnd)
  | ccpy (k : Com) (rights : BitVec 4) (sap dap : BitVec 3) (a b c : Opnd)
  | cdsc (k : Com) (ap : BitVec 3) (a : Opnd)
  | nop (k : Com)
  | csrRd (x : CsrArgs) | csrWr (x : CsrArgs) | csrSet (x : CsrArgs) | csrClr (x : CsrArgs)
  | trap (k : Com) | brkp (k : Com) | rte (k : Com) | rteNx (k : Com) | stop (k : Com)
  | unassignedOpcode (w0 w1 : Word)
  -- messages of the leader (19)
  | renewReceive (die : Nat) (term : Nat) | claimReceive (die : Nat) (src term : Nat)
  -- results, traps and errors of a group (03, 11)
  | resultReturn (gid idx : Nat) (lanes : Word)
  | trapEntry (gid : Nat) (cause : Byte) (tval : DWord) (tvalh : Half)
  | groupStateLost (gid : Nat) (part : Byte) (num : LostErr)
  | regfileError (gid : Nat) (reg : Opnd) (lane : Nat) (corrected : Bool)
  | memoryUnitError (pa : Nat) (corrected : UnitErr)
  | groupRetire (gid : Nat)
  -- launch, dispatch and cuts (16_scheduling.md, 11)
  | launch (w : NotifyWr) | destroy (w : NotifyWr) | destroyF (w : NotifyWr)
  | preempt (w : NotifyWr) | cutWrite (ctx : Nat) | restore (w : NotifyWr)
  | gridDispatchStart (grid : Nat) | fairShareCharge (die : Nat) | workRequest (req : Nat)
  | teamPrepare (core : Nat) | teamRunnable (core : Nat) | gridComplete (grid : Nat)
  -- memory-side commands and tiers (07, 14)
  | mredPacketApply (op idx : Nat)
  | tierPromote (vd obj : Nat) | tierPromotionComplete (vd obj : Nat)
  | tierDemotionComplete (vd obj : Nat) | tierFailure (vd obj : Nat) (lost : Bool)
  | read (die stack : Nat) (p : BasePkt) | write (die stack : Nat) (p : BasePkt)
  | atomic (die stack : Nat) (p : BasePkt) | reduce (die stack : Nat) (p : BasePkt)
  | status (die stack : Nat) (p : BasePkt)
  | packetReply (die stack : Nat) (tag : BitVec 12)
  | backoffWindowEnd (die stack bank : Nat)
  | rgctlWrite (die stack : Nat) (val : Word)
  | watchWrite (die stack : Nat) (w : Fin 16) (val : Word)
  | registerWrite (r : DevReg) (val : DWord)
  -- fabric (18_fabric_expander.md)
  | meshFlitRetry (a b : Nat) | updateApply (die idx : Nat) | guestInvalidate (die line : Nat)
  | linkFail (a b : Nat) | meshLaneSpare (a b : Nat)
  | hostSnoop (line : Nat) | hostMemRequest (r : HostReq)
  | backInvalidate (line : Nat) (req : Nat) (data : LineData)
  | targetLost (target : Nat) (ext : Option (Nat × Nat))
  | fwtcntWrite (val : Word) | commcntWrite (val : Word) | netcntWrite (val : Word)
  | tacccntWrite (val : Word)
  | data (p : NetPkt) | ack (p : NetPkt) | nack (p : NetPkt) | abort (p : NetPkt)
  | resendTimeout (comm src dst : Nat)
  | doorbell (vd die slot : Nat) | taskSigned (vd die slot : Nat) | taskAck (vd die slot : Nat)
  | taskPacket (bytes : List Byte) (ecdsa lms : List Byte)
  | extentGrant (base size : Nat) (tag holder : Nat) | extentRelease (base : ExtHold)
  -- tenants (17_tenancy_translation.md)
  | tlbiCtx (c : OwnCmd) | tlbiVa (c : OwnCmd) | ctxsync (c : OwnCmd) | dbgrel (c : OwnCmd)
  | report (c : OwnCmd) | tlbiS2 (c : OwnCmd) | vdreset (c : OwnCmd) | vdsave (c : OwnCmd)
  | vdload (c : OwnCmd) | keygen (c : OwnCmd)
  | vdEnable (vd : Nat) | remapUnmask (vd i : Nat)
  -- start-up, firmware, reliability (19_firmware_ras_security.md)
  | powerOn | trainingComplete (die : Nat) (ok : Bool) | neg
  | recoveryImage (img : FwCopy) (which : Bool) | svnRaise (die : Nat)
  | rlbaseWrite (val : DWord)
  | renew (die : Nat) | leaseLapse (die : Nat)
  | claim (die : Nat)
  | viral (die : Nat)
  | clusterRepair (die cl : Nat) | rowRepair (die stack bank row : Nat)
  | pseudoChannelRepair (die stack pc : Nat)
  | dataRateChange (die stack : Nat)
  | getCertificate (slot : Nat) | challenge (nonce : List Byte) | getMeasurements (nonce : List Byte)
  | lmsTranscriptSignature (msg : List Byte)
  -- power and cooling (20_physical.md)
  | powerCapSet (pct : Nat) | powerSample (watts : Nat) | supplyOutOfRange (millivolt : Nat)
  | thermalSample (die : Nat) (celsius : Int)
  | cxlPortDown (port : Nat) | cxlPortUp (port : Nat)
  | leaderLeaseEnd (die : Nat)
  | backInvalidateResponse (line holder : Nat)
  | notifyWrite (w : NotifyWr)
  | canvasEntryError (team cid idx : Nat) (corrected : Bool)
  | teamStoreError (team addr : Nat) (corrected : Bool)
deriving DecidableEq, Repr

end Sys2Proof
end

