-- ==== Sys2Proof/Machine/Num.lean ====
section
/-! DEFINITION. Numbers (02_numbers.md): formats, exact values, the glaze, `RoundOdd`, `Final`, and
the exact operations of 05_isa_float.md. Every finite value is a sign, a natural significand and an
exponent of two; a quotient or a root carries one sticky bit far below every rounding point, which
no rounding can tell from the exact value. -/

namespace Sys2Proof.Machine

/-- Which special codes a format has (R55). -/
inductive FKind | ieee | e5m2 | e4m3 | finite
deriving DecidableEq, Repr

/-- A floating-point format (R55). -/
structure Fmt where
  p : Nat
  w : Nat
  emin : Int
  emax : Int
  kind : FKind
deriving DecidableEq, Repr

def Fmt.f64 : Fmt := ⟨53, 64, -1022, 1023, .ieee⟩
def Fmt.f32 : Fmt := ⟨24, 32, -126, 127, .ieee⟩
def Fmt.f16 : Fmt := ⟨11, 16, -14, 15, .ieee⟩
def Fmt.bf16 : Fmt := ⟨8, 16, -126, 127, .ieee⟩
def Fmt.e4m3 : Fmt := ⟨4, 8, -6, 8, .e4m3⟩
def Fmt.e5m2 : Fmt := ⟨3, 8, -14, 15, .e5m2⟩
def Fmt.e3m2 : Fmt := ⟨3, 6, -2, 4, .finite⟩
def Fmt.e2m3 : Fmt := ⟨4, 6, 0, 2, .finite⟩
def Fmt.e2m1 : Fmt := ⟨2, 4, 0, 2, .finite⟩

/-- A value: NaN (signalling or not), infinity, or ±m·2^e; a zero keeps its sign. -/
inductive FV
  | nan (sig : Bool)
  | inf (neg : Bool)
  | fin (neg : Bool) (m : Nat) (e : Int)
deriving DecidableEq, Repr

/-- Flag bits of `%fflags` (R38). -/
abbrev Flags := BitVec 5
def NV : Flags := 16
def DZ : Flags := 8
def OF : Flags := 4
def UF : Flags := 2
def NX : Flags := 1

/-- Rounding modes (R69). -/
inductive Mode | rne | rtz | rup | rdn | rna | sr
deriving DecidableEq, Repr

namespace Fmt

/-- Fraction bits. -/
def fb (f : Fmt) : Nat := f.p - 1
/-- Exponent bits. -/
def eb (f : Fmt) : Nat := f.w - f.p
/-- The sign bit in place. -/
def sign (f : Fmt) (neg : Bool) : Nat := if neg then 2 ^ (f.w - 1) else 0
/-- Significand and exponent field of the largest finite value (R55). -/
def maxSig (f : Fmt) : Nat := match f.kind with | .e4m3 => 14 | _ => 2 ^ f.p - 1

/-- Bits of significand `n` < 2^p at exponent `e` ≥ emin; a subnormal when n < 2^(p-1). -/
def enc (f : Fmt) (neg : Bool) (n : Nat) (e : Int) : Nat :=
  f.sign neg + (if n < 2 ^ f.fb then n else (e - f.emin + 1).toNat * 2 ^ f.fb + (n - 2 ^ f.fb))

def maxFin (f : Fmt) (neg : Bool) : Nat := f.enc neg f.maxSig f.emax

/-- The infinity, or what overflow gives in its place (R70). -/
def infBits (f : Fmt) (neg : Bool) : Nat :=
  match f.kind with
  | .ieee | .e5m2 => f.sign neg + (2 ^ f.eb - 1) * 2 ^ f.fb
  | .e4m3 => f.sign neg + 0x7F
  | .finite => f.maxFin neg

/-- The canonical NaN (R56, R70). -/
def qnan (f : Fmt) : Nat :=
  match f.kind with
  | .ieee => (2 ^ f.eb - 1) * 2 ^ f.fb + 2 ^ (f.fb - 1)
  | .e5m2 => 0x7E
  | .e4m3 => 0x7F
  | .finite => 0

/-- The value of an encoding with a glaze `g` (R55, R62). -/
def ext (f : Fmt) (x g : Nat) : FV :=
  let neg := x / 2 ^ (f.w - 1) % 2 == 1
  let ex := x / 2 ^ f.fb % 2 ^ f.eb
  let fr := x % 2 ^ f.fb
  let top := ex == 2 ^ f.eb - 1
  let e0 := f.emin - f.fb - 2
  let num := if ex == 0 then FV.fin neg (4 * fr + g) e0
    else FV.fin neg (4 * (fr + 2 ^ f.fb) + g) (e0 + ex - 1)
  match f.kind with
  | .ieee => if top then (if fr == 0 then .inf neg else .nan (fr < 2 ^ (f.fb - 1))) else num
  | .e5m2 => if top then (if fr == 0 then .inf neg else .nan false) else num
  | .e4m3 => if top && fr == 7 then .nan false else num
  | .finite => num

/-- The value of an encoding held in memory, which has no glaze. -/
def dec (f : Fmt) (x : Nat) : FV := f.ext x 0

end Fmt

/-- floor(log2 (m·2^e)) for m ≠ 0. -/
def ilog (m : Nat) (e : Int) : Int := e + m.log2

/-- Sign, or false for a NaN. -/
def FV.neg : FV → Bool
  | .nan _ => false
  | .inf n => n
  | .fin n _ _ => n

def FV.isNan : FV → Bool
  | .nan _ => true
  | _ => false

/-- Zero data with zero glaze (R143). -/
def FV.isZero : FV → Bool
  | .fin _ 0 _ => true
  | _ => false

/-- `-x`, `|x|` (R141). -/
def FV.setNeg (b : Bool) : FV → FV
  | .nan s => .nan s
  | .inf _ => .inf b
  | .fin _ m e => .fin b m e

/-- ⌊m·2^e / 2^q⌋ and whether anything was discarded. -/
def quant (m : Nat) (e q : Int) : Nat × Bool :=
  if q ≤ e then (m * 2 ^ (e - q).toNat, false)
  else
    let k := (q - e).toNat
    (m / 2 ^ k, m % 2 ^ k != 0)

/-- A carrier element: data bits and its two glaze bits (G above S). -/
structure Car where
  bits : Nat
  g : Nat
deriving DecidableEq, Repr

/-- `RoundOdd` (R64). -/
def roundOdd (f : Fmt) : FV → Car
  | .nan _ => ⟨f.qnan, 0⟩
  | .inf n => ⟨f.infBits n, 0⟩
  | .fin neg m e =>
    if m == 0 then ⟨f.sign neg, 0⟩
    else if f.emax + 1 ≤ ilog m e then ⟨f.maxFin neg, 3⟩
    else
      let x := max (ilog m e) f.emin
      let tq := quant m e (x - f.p - 1)
      let t := if tq.2 then tq.1 ||| 1 else tq.1
      ⟨f.enc neg (t / 4) x, t % 4⟩

/-- The outcome of a final rounding: bits, flags, and whether `%rng` steps. -/
structure FinR where
  bits : Nat
  fl : Flags
  step : Bool
deriving DecidableEq, Repr

/-- The mode rounds a magnitude with discarded part away from zero; `half` compares the discarded part
with one half (R69). -/
def awayFixed (md : Mode) (neg odd : Bool) (inexact : Bool) (half : Ordering) : Bool :=
  match md with
  | .rne => half == .gt || (half == .eq && odd)
  | .rna => half != .lt
  | .rtz => false
  | .rup => inexact && !neg
  | .rdn => inexact && neg
  | .sr => false

/-- The discarded part of m·2^e below 2^q against one half of 2^q. -/
def halfCmp (m : Nat) (e q : Int) : Ordering :=
  if q ≤ e then .lt
  else
    let k := (q - e).toNat
    compare (m % 2 ^ k * 2) (2 ^ k)

/-- The first 16 bits of the discarded part, the last of them sticky (R72). -/
def frac16 (m : Nat) (e q : Int) : Nat :=
  if q ≤ e then 0
  else
    let k := (q - e).toNat
    let r := m % 2 ^ k * 2 ^ 16
    if r % 2 ^ k != 0 then (r / 2 ^ k) ||| 1 else r / 2 ^ k

/-- `Final` (R69-R72). `r` is `%rng`[31:16] of the lane; `sat` is `.sat`, or the saturation of R59. -/
def final (f : Fmt) (md : Mode) (sat : Bool) (r : Nat) : FV → FinR
  | .nan s => ⟨f.qnan, if f.kind != .ieee || s then NV else 0, false⟩
  | .inf n =>
    match f.kind with
    | .ieee => ⟨f.infBits n, 0, false⟩
    | .e5m2 => if sat then ⟨f.maxFin n, NV, false⟩ else ⟨f.infBits n, 0, false⟩
    | .e4m3 => if sat then ⟨f.maxFin n, NV, false⟩ else ⟨f.infBits n, NV, false⟩
    | .finite => ⟨f.maxFin n, NV, false⟩
  | .fin neg m e =>
    if m == 0 then ⟨f.sign neg, 0, false⟩
    else
      let l := ilog m e
      let x := max l f.emin
      let q := x - f.fb
      let lo := quant m e q
      let over0 := f.emax < x || (x == f.emax && f.maxSig < lo.1)
      if !lo.2 && !over0 then ⟨f.enc neg lo.1 x, 0, false⟩
      else
        let away := if md == .sr then 2 ^ 16 ≤ frac16 m e q + r
          else awayFixed md neg (lo.1 % 2 == 1) lo.2 (halfCmp m e q)
        let n := if away then lo.1 + 1 else lo.1
        let y := if n == 2 ^ f.p then x + 1 else x
        let sig := if n == 2 ^ f.p then 2 ^ f.fb else n
        let ovf := f.emax < y || (y == f.emax && f.maxSig < sig)
        let up := match md with
          | .rne | .rna => true
          | .rtz => false
          | .rup => !neg
          | .rdn => neg
          | .sr => away
        let bits := if ovf then (if up && !sat then f.infBits neg else f.maxFin neg)
          else f.enc neg sig y
        let uf : Flags := if l < f.emin && lo.2 then UF else 0
        ⟨bits, NX ||| (if ovf then OF else 0) ||| uf, md == .sr⟩

/-- `RngStep` (R73). -/
def rngStep (s : Word) : Word :=
  let a := s ^^^ (s <<< 13)
  let b := a ^^^ (a >>> 17)
  b ^^^ (b <<< 5)

/-- Rounding to an integer: the value, whether it is inexact, and whether `%rng` steps (R157). -/
def roundInt (md : Mode) (r : Nat) (neg : Bool) (m : Nat) (e : Int) : Int × Bool × Bool :=
  let lo := quant m e 0
  let away := if md == .sr then lo.2 && 2 ^ 16 ≤ frac16 m e 0 + r
    else awayFixed md neg (lo.1 % 2 == 1) lo.2 (halfCmp m e 0)
  let n := if away then lo.1 + 1 else lo.1
  (if neg then -(n : Int) else n, lo.2, md == .sr && lo.2)

-- Exact operations. A pair of a value and the flags it raises (R143).

/-- NV for a signalling NaN among the operands. -/
def sigFlag (xs : List FV) : Flags := if xs.contains (.nan true) then NV else 0

def anyNan (xs : List FV) : Bool := xs.any FV.isNan

/-- A signed integer at exponent `e0` ≤ e. -/
def scaled (e0 : Int) : Bool × Nat × Int → Int
  | (neg, m, e) =>
    let v : Int := m * 2 ^ (e - e0).toNat
    if neg then -v else v

/-- The value of an integer at exponent `e`, a zero taking sign `z`. -/
def ofInt (z : Bool) (v e : Int) : FV :=
  if v == 0 then .fin z 0 0 else .fin (v < 0) v.natAbs e

/-- The exact sum of finite terms. An exact zero is −0 when every term is a zero of negative sign, or
when the terms differ in sign and the mode is RDN (R63, R78); with all terms +0 it is +0. -/
def sumFin (rdn : Bool) (ts : List (Bool × Nat × Int)) : FV :=
  let e0 := ts.foldl (fun a t => min a t.2.2) 0
  let v := ts.foldl (fun a t => a + scaled e0 t) 0
  let z := if ts.all (fun t => t.2.1 == 0 && t.1) then true
    else if ts.all (fun t => t.2.1 == 0 && !t.1) then false else rdn
  ofInt z v e0

/-- The finite terms of a list without NaN or infinity. -/
def finTerms (xs : List FV) : List (Bool × Nat × Int) :=
  xs.filterMap fun x => match x with
    | .fin n m e => some (n, m, e)
    | _ => none

/-- The exact sum of values; ∞ − ∞ is NaN (R143, R227). -/
def sumFV (rdn : Bool) (xs : List FV) : FV × Flags :=
  if anyNan xs then (.nan false, sigFlag xs)
  else
    let p := xs.contains (.inf false)
    let n := xs.contains (.inf true)
    if p && n then (.nan false, NV)
    else if p then (.inf false, 0)
    else if n then (.inf true, 0)
    else (sumFin rdn (finTerms xs), 0)

/-- The exact product (R143). -/
def mulFV (x y : FV) : FV × Flags :=
  if anyNan [x, y] then (.nan false, sigFlag [x, y])
  else
    let s := x.neg != y.neg
    match x, y with
    | .fin _ a e, .fin _ b g => (.fin s (a * b) (e + g), 0)
    | _, _ => if x.isZero || y.isZero then (.nan false, NV) else (.inf s, 0)

/-- x·y + z of exact values, for `ffma` and `hdot2`: products first, their flags kept (R143). -/
def dotFV (rdn : Bool) (ps : List (FV × FV)) (z : FV) : FV × Flags :=
  let srcs := z :: ps.flatMap (fun p => [p.1, p.2])
  let prods := ps.map (fun p => mulFV p.1 p.2)
  let nv := (prods.foldl (fun a p => a ||| p.2) (sigFlag srcs))
  let r := sumFV rdn (prods.map (fun p => p.1) ++ [z])
  (r.1, r.2 ||| nv)

/-- Bits kept by a quotient or a root beyond every rounding point. -/
def extraBits : Nat := 160

/-- The exact quotient with a sticky bit (R143, R146). -/
def divFV (x y : FV) : FV × Flags :=
  if anyNan [x, y] then (.nan false, sigFlag [x, y])
  else
    let s := x.neg != y.neg
    match x, y with
    | .inf _, .inf _ => (.nan false, NV)
    | .inf _, .fin .. => (.inf s, 0)
    | .fin .., .inf _ => (.fin s 0 0, 0)
    | .fin _ a e, .fin _ b g =>
      if b == 0 then (if a == 0 then (.nan false, NV) else (.inf s, DZ))
      else if a == 0 then (.fin s 0 0, 0)
      else
        let n := a * 2 ^ (extraBits + b.log2)
        let q := 2 * (n / b) + (if n % b != 0 then 1 else 0)
        (.fin s q (e - g - (extraBits + b.log2 : Nat) - 1), 0)
    | .nan _, _ | _, .nan _ => (.nan false, 0)

/-- Integer square root: `k` result bits, from the top down. -/
def isqrtGo (n : Nat) : Nat → Nat → Nat
  | 0, r => r
  | k + 1, r =>
    let t := r + 2 ^ k
    isqrtGo n k (if t * t ≤ n then t else r)

/-- ⌊√n⌋. -/
def isqrt (n : Nat) : Nat := isqrtGo n (n.log2 / 2 + 1) 0

/-- The exact root with a sticky bit (R146). -/
def sqrtFV (x : FV) : FV × Flags :=
  match x with
  | .nan s => (.nan false, if s then NV else 0)
  | .inf n => if n then (.nan false, NV) else (.inf false, 0)
  | .fin n m e =>
    if m == 0 then (.fin n 0 0, 0)
    else if n then (.nan false, NV)
    else
      let odd := e % 2 != 0
      let m1 := if odd then 2 * m else m
      let e1 := if odd then e - 1 else e
      let v := m1 * 4 ^ extraBits
      let r := isqrt v
      (.fin false (2 * r + (if r * r != v then 1 else 0)) (e1 / 2 - extraBits - 1), 0)

/-- The exact order of two values that are not NaN; −0 and +0 are equal (R76). -/
def cmpFV (x y : FV) : Ordering :=
  match x, y with
  | .inf a, .inf b => compare (if a then 0 else 1) (if b then 0 else 1)
  | .inf a, _ => if a then .lt else .gt
  | _, .inf b => if b then .gt else .lt
  | .fin a m e, .fin b n g =>
    let e0 := min e g
    compare (scaled e0 (a, m, e)) (scaled e0 (b, n, g))
  | _, _ => .eq

/-- The order of `fminmax` and `vsort`, in which −0 lies below +0 (R145, R188). -/
def cmpZ (x y : FV) : Ordering :=
  match cmpFV x y with
  | .eq => if x.isZero && y.isZero then compare (if x.neg then 0 else 1) (if y.neg then 0 else 1) else .eq
  | o => o

/-- x·2^n (R150). -/
def FV.scale (n : Int) : FV → FV
  | .fin s m e => .fin s m (e + n)
  | x => x

end Sys2Proof.Machine
end

