-- ==== Sys2Proof/Machine/GroupState.lean ====
section
/-! DEFINITION. The state of lanes, groups, teams and canvases (01_machine_model.md R13-R42,
06 R170-R178, 08 R216-R220, 09 R241-R259, 11 R303-R318), as plain data. -/

namespace Sys2Proof.Machine

/-- Sparse data by key: keys strictly rising, no entry equal to the default that its user names. -/
abbrev SMap (α : Type) := List (Nat × α)

/-- A register image (R21). -/
structure Image where
  p : Bool
  g : BitVec 8
  d : Word
deriving DecidableEq, Repr

/-- The zero image (R26). -/
def Image.zero : Image := ⟨false, 0, 0⟩

/-- Lane states (R32). -/
inductive LaneSt | active | deferred | ejected | exited
deriving DecidableEq, Repr

/-- The home of a lane in a compacted group: home group, its index and virtual lane number (R183). -/
structure Home where
  gid : Nat
  grp : Nat
  lane : Nat
deriving DecidableEq, Repr

/-- One lane slot of a group. `pc` of an exited lane is the PC at which it exited (R305). `foc` is the
return focal of an ejected lane, or of a compacted lane's ejection (R175, R177). `home` is set in a
compacted group only (R183). `hnd` and `ret` are the handler path and its
return PC (R304). -/
structure Lane where
  st : LaneSt
  pc : DWord
  pr : BitVec 7
  v : SMap Image
  rng : Word
  foc : DWord
  home : Option Home
  hnd : Bool
  ret : DWord
deriving DecidableEq, Repr

/-- An entry of the path stack (R34, R170). -/
structure Entry where
  mask : Word
  pc : DWord
  focal : DWord
  join : Nat
deriving DecidableEq, Repr

/-- The null focal (R170). -/
def nullFocal : DWord := 0xFFFFFFFFFFFFFFFF

/-- Token states (R30). -/
inductive TokSt | free | pending | complete
deriving DecidableEq, Repr

/-- Engines whose commands complete tokens (R292). -/
inductive Eng | none | copy | mred | coll | spawn
deriving DecidableEq, Repr

/-- A token: its state, status, engine and the operation that completes it (R30, R241, R263), and the scope named in `susp` for
a token that a resumed object listed (R296). -/
structure Tok where
  st : TokSt
  status : Byte
  eng : Eng
  op : Nat
  sc : Option Scope
deriving DecidableEq, Repr

def Tok.init : Tok := ⟨.free, 0, .none, 0, none⟩

/-- The identity registers and the team shape (R37, R263). -/
structure Ident where
  grp : Nat
  role : Nat
  teamX : Nat
  teamY : Nat
  teamZ : Nat
  gridX : Nat
  gridY : Nat
  gridZ : Nat
  shX : Nat
  shY : Nat
  shZ : Nat
deriving DecidableEq, Repr

/-- A write to a register or predicate that is outstanding (R94). `o` is the write of a scalar register whose image is
not known yet: the status of the `tier` operation `op` (R213). -/
inductive RegW
  | v (lane r : Nat) (i : Image)
  | s (r : Nat) (i : Image)
  | p (lane k : Nat) (b : Bool)
  | o (op r : Nat)
deriving DecidableEq, Repr

/-- Why a group waits (R48, R50). `raise` is a cause raised that waits for `tier` statuses before its entry (R97). -/
inductive Wait
  | no
  | token (t : Nat)
  | tkw
  | mwait
  | grow
  | gate
  | evq
  | spawn
  | bar (lvl : BLvl) (n : Nat) (side : Nat) (sync : Bool)
  | fence
  | table
  | canvas
  | susp
  | ccpy
  | tier (vd obj : Nat)
  | results
  | arrivals
  | step
  | raise (cause : Byte) (tval : DWord) (tvalh : Half)
deriving DecidableEq, Repr

/-- Sources and guards of an instruction that has issued and waits to complete (R93): the scalar registers, and by lane
the vector registers and the predicates, as they stood at its issue; and the canvases it names (R226). -/
structure Held where
  s : SMap Image
  v : List (SMap Image)
  pr : List (BitVec 7)
  cvs : List Nat
deriving DecidableEq, Repr

/-- A group (R14, R20). `desc` is the offset of its kernel's descriptor (R262). `vb` and `sn` are the vector budget and the scalar count. `stack` has its top
first. `wT` holds the W count of team barrier n, side k, at 2n + k (R255); `wC` and `wG` those of the
cluster and grid barriers. `key` is the (pc, F) key of a compacted group and `fresh` says that it has
issued no instruction (R175). `pend` holds the outstanding results, oldest first, one list of writes for
each instruction (R94), and `eres` those that easel operations gave, with their canvases (R237). `held` is what an instruction that has issued and waits has read (R93). -/
structure Group where
  team : Nat
  slot : Nat
  core : Nat
  ctx : Nat
  id : Ident
  vb : Nat
  sn : Nat
  lanes : List Lane
  s : SMap Image
  ap : List Half
  toks : List Tok
  stack : List Entry
  prog : Word
  tvec : DWord
  tcause : Byte
  tpc : DWord
  tval : DWord
  tvalh : Half
  code : Half
  desc : DWord
  rmode : BitVec 3
  fflags : BitVec 5
  lsel : BitVec 5
  inH : Bool
  hDepth : Nat
  wT : SMap Half
  wC : SMap Half
  wG : SMap Half
  released : Bool
  pend : List (List RegW)
  eres : List (Nat × RegW)
  parked : Bool
  wait : Wait
  held : Option Held
  halted : Option Word
  key : Option (DWord × DWord)
  fresh : Bool
  born : Nat
deriving DecidableEq, Repr

/-- One side of a barrier (R254). -/
structure BarSide where
  tgt : Nat
  cnt : Nat
  gen : Half
deriving DecidableEq, Repr

/-- A declared team barrier; a plain one uses its FULL side only (R254). -/
structure TBar where
  role : Bool
  full : BarSide
  empty : BarSide
deriving DecidableEq, Repr

/-- A canvas element: DATA (both halves of an FP64 element), G and S as GLAZE[1:0], and P (R217). -/
structure CElem where
  p : Bool
  g : Nat
  d : Nat
deriving DecidableEq, Repr

def CElem.zero : CElem := ⟨false, 0, 0⟩

/-- A canvas bound to a name, or unbound and still draining (R216, R221): its cluster, team, type and
elements by index 64·row + column, or by table index. -/
structure Canvas where
  team : Nat
  ty : CTy
  bound : Bool
  elems : SMap CElem
deriving DecidableEq, Repr

/-- A team (R15, R112, R220, R254). `pool` is the canvas pool's size; `binds` maps names to canvases. `rel` says that its release has been counted (R259), `det` that it holds
a detached group (R267), `suspd` how many launch groups left it by `susp` without `rels` (R259, R266). -/
structure Team where
  grid : Nat
  lin : Nat
  curve : Nat
  rank : Nat
  block : Nat
  core : Nat
  g : Nat
  sp : Nat
  p : Nat
  c : Nat
  vbN : Nat
  vbP : Nat
  vbC : Nat
  sregs : Nat
  scratch : Nat
  canvas : Nat
  shX : Nat
  shY : Nat
  shZ : Nat
  span : Nat
  fuse : Bool
  cores : List Nat
  tsBase : Nat
  bars : SMap TBar
  pool : Nat
  binds : SMap Nat
  det : Bool
  rel : Bool
  suspd : Nat
deriving DecidableEq, Repr

end Sys2Proof.Machine
end

