-- ==== Sys2Proof/Machine/Store.lean ====
section
/-! DEFINITION. Sparse maps in canonical form: keys strictly rising, no entry equal to the default. -/

namespace Sys2Proof.Machine

/-- The entry at a key. -/
def SMap.get? {α : Type} : SMap α → Nat → Option α
  | [], _ => none
  | (k, v) :: m, n => if n == k then some v else if n < k then none else SMap.get? m n

/-- The entry at a key, or the default. -/
def SMap.getD {α : Type} (m : SMap α) (d : α) (n : Nat) : α := (SMap.get? m n).getD d

/-- Replace or insert the entry at a key. -/
def SMap.put {α : Type} : SMap α → Nat → α → SMap α
  | [], n, x => [(n, x)]
  | (k, v) :: m, n, x =>
    if n == k then (k, x) :: m
    else if n < k then (n, x) :: (k, v) :: m
    else (k, v) :: SMap.put m n x

/-- Remove the entry at a key. -/
def SMap.del {α : Type} : SMap α → Nat → SMap α
  | [], _ => []
  | (k, v) :: m, n =>
    if n == k then m else if n < k then (k, v) :: m else (k, v) :: SMap.del m n

/-- Write a value; the default removes the entry, so that equal contents are equal data. -/
def SMap.set {α : Type} [DecidableEq α] (m : SMap α) (d : α) (n : Nat) (x : α) : SMap α :=
  if x = d then SMap.del m n else SMap.put m n x

/-- Change the entry at a key, if there is one. -/
def SMap.upd {α : Type} (m : SMap α) (n : Nat) (f : α → α) : SMap α :=
  match SMap.get? m n with
  | some x => SMap.put m n (f x)
  | none => m

/-- The keys. -/
def SMap.keys {α : Type} (m : SMap α) : List Nat := m.map (fun e => e.1)

/-- The values. -/
def SMap.vals {α : Type} (m : SMap α) : List α := m.map (fun e => e.2)

/-- Change every value. -/
def SMap.mapV {α β : Type} (f : α → β) (m : SMap α) : SMap β := m.map (fun e => (e.1, f e.2))

/-- Keys strictly above `lo`, in rising order, and no entry equal to the default. -/
def SMap.wfFrom {α : Type} [DecidableEq α] (d : α) : Option Nat → SMap α → Bool
  | _, [] => true
  | lo, (k, v) :: m =>
    (match lo with | none => true | some l => decide (l < k)) && decide (v ≠ d) && SMap.wfFrom d (some k) m

/-- The canonical form. -/
def SMap.wf {α : Type} [DecidableEq α] (d : α) (m : SMap α) : Bool := SMap.wfFrom d none m

/-- Replace the entry at an index of a list. -/
def setAt {α : Type} : List α → Nat → α → List α
  | [], _, _ => []
  | _ :: xs, 0, y => y :: xs
  | x :: xs, n + 1, y => x :: setAt xs n y

/-- Change the entry at an index of a list. -/
def updAt {α : Type} : List α → Nat → (α → α) → List α
  | [], _, _ => []
  | x :: xs, 0, f => f x :: xs
  | x :: xs, n + 1, f => x :: updAt xs n f

/-- 0, 1, ..., 31. -/
def lanes32 : List Nat := List.range 32

/-- Lane `l` is in the mask. -/
def inMask (m : Word) (l : Nat) : Bool := m.getLsbD l

/-- The lanes of a mask, ascending. -/
def maskLanes (m : Word) : List Nat := lanes32.filter (inMask m)

/-- The mask of the lanes that satisfy a test. -/
def maskOf (f : Nat → Bool) : Word :=
  lanes32.foldl (fun m l => if f l then m ||| (1#32 <<< l) else m) 0

/-- The number of lanes in a mask. -/
def maskCount (m : Word) : Nat := (maskLanes m).length

/-- The lowest lane of a mask; 32 when it is empty. -/
def maskLow (m : Word) : Nat := (maskLanes m).headD 32

end Sys2Proof.Machine
end

