-- ==== Sys2Proof/WellFormed.lean ====
section
/-! DEFINITION. Static legality of a decoded instruction: the rules that decode itself can check
(03_encoding_assembly.md R84-R89, R92) and the restrictions each family's chapter names. Register
budgets, which belong to the issuing group, are checked at issue. -/

namespace Sys2Proof

/-- How a form uses word 2 or word 3: it does not use it, it may, or it must (R84). -/
inductive Need | no | may | must
deriving DecidableEq, Repr

/-- Absent words read zero, a used word is present, an unused present word is zero (R84). -/
def Com.words (k : Com) (imm ext : Need) : Bool :=
  (match k.len with
   | .two => k.imm == 0 && k.ext == 0
   | .three => k.ext == 0
   | .four => true) &&
  (match imm with
   | .no => k.imm == 0
   | .may => true
   | .must => k.len != .two) &&
  (match ext with
   | .no => k.ext == 0
   | .may => true
   | .must => k.len == .four)

/-- The operand byte is the literal 0xFE (R87). -/
def Opnd.isLit (o : Opnd) : Bool := o == .lit

/-- A general source of `n` registers, `n` 0 meaning that the form does not take it (R85, R86, R88, R89). -/
def Opnd.src (u : Bool) (n : Nat) (o : Opnd) : Bool :=
  if n == 0 then o == .none
  else match o with
    | .v r => !u && r.val % n == 0
    | .s r => r.val % n == 0
    | .lane => !u
    | .zero => true
    | .lit => true
    | .none => false

/-- A destination of `n` registers: a vector under U=0, a scalar under U=1, or discard (R85, R89). -/
def Opnd.dst (u : Bool) (n : Nat) (o : Opnd) : Bool :=
  if n == 0 then o == .none
  else match o with
    | .v r => !u && r.val % n == 0
    | .s r => u && r.val % n == 0
    | .none => true
    | _ => false

/-- A vector register with a base that is a multiple of `n`. -/
def Opnd.vec (n : Nat) (o : Opnd) : Bool :=
  match o with
  | .v r => r.val % n == 0
  | _ => false

/-- A scalar register with a base that is a multiple of `n`. -/
def Opnd.sca (n : Nat) (o : Opnd) : Bool :=
  match o with
  | .s r => r.val % n == 0
  | _ => false

/-- A register of either kind: a scalar, or under U=0 also a vector (R89, R191). -/
def Opnd.reg (u : Bool) (n : Nat) (o : Opnd) : Bool :=
  o.sca n || (!u && o.vec n)

/-- A scalar register, zero or the literal: a source of a form that always has U=1 (R89). -/
def Opnd.usrc (o : Opnd) : Bool := o.src true 1

/-- Word use of a form whose sources may name the literal: `l` says a source does, `w` that a
64-bit source does (R87, R140, R166). -/
def Com.litWords (k : Com) (l w : Bool) : Bool :=
  k.words (if l then .must else .no) (if w then .may else .no)

/-- A list of general sources with their register counts, and the word use they imply. -/
def Com.srcs (k : Com) (os : List (Opnd × Nat)) : Bool :=
  os.all (fun o => o.1.src k.u o.2) &&
  k.litWords (os.any (fun o => o.1.isLit)) (os.any (fun o => o.1.isLit && o.2 == 2))

/-- A form with no operand bytes: words 2 and 3 unused (R84, R86). -/
def Com.bare (k : Com) (u : Bool) : Bool := k.u == u && k.words .no .no

namespace ITy

/-- Registers that an operand of the type takes (R115). -/
def regs : ITy → Nat
  | .u64 | .i64 => 2
  | _ => 1

/-- The type is signed. -/
def signed : ITy → Bool
  | .i32 | .i64 | .i16x2 | .i8x4 => true
  | _ => false

/-- Element width in bits (R115). -/
def width : ITy → Nat
  | .u32 | .i32 => 32
  | .u64 | .i64 => 64
  | .u16x2 | .i16x2 => 16
  | .u8x4 | .i8x4 => 8

/-- Elements per operand (R115). -/
def elems : ITy → Nat
  | .u16x2 | .i16x2 => 2
  | .u8x4 | .i8x4 => 4
  | _ => 1

/-- TY 0 to 3. -/
def single : ITy → Bool
  | .u32 | .i32 | .u64 | .i64 => true
  | _ => false

end ITy

/-- Registers that an operand of a carrier takes (R141). -/
def FTy.regs : FTy → Nat
  | .f64 => 2
  | _ => 1

/-- The carrier packs two 16-bit elements (R141). -/
def FTy.packed : FTy → Bool
  | .f16x2 | .bf16x2 => true
  | _ => false

/-- No source modifier. -/
def FMod.off : FMod := ⟨false, false⟩

/-- An integer form: SAT accepted or not, and the registers of d, a, b, c (R115, R140). -/
def IArgs.ok (x : IArgs) (sat : Bool) (d a b c : Nat) : Bool :=
  (sat || !x.sat) && x.d.dst x.k.u d && x.k.srcs [(x.a, a), (x.b, b), (x.c, c)]

/-- A form of OP 0x20 to 0x27 whose MOD is 0 and whose sources read whole images (R133, R134). -/
def IArgs.plain (x : IArgs) : Bool := x.ty == .u32 && !x.sat

/-- A floating-point form: which modifiers it accepts and the registers of d, a, b, c (R141, R166). -/
def FArgs.ok (x : FArgs) (ma mb mc : Bool) (d a b c : Nat) : Bool :=
  (ma || x.ma == FMod.off) && (mb || x.mb == FMod.off) && (mc || x.mc == FMod.off) &&
  x.d.dst x.k.u d && x.k.srcs [(x.a, a), (x.b, b), (x.c, c)]

/-- A two-source arithmetic form (R144). -/
def FArgs.two (x : FArgs) : Bool := x.ok true true false x.ft.regs x.ft.regs x.ft.regs 0

/-- A one-source arithmetic form. -/
def FArgs.one (x : FArgs) : Bool := x.ok true false false x.ft.regs x.ft.regs 0 0

/-- Sources of a compare (R135, R153). -/
def CmpArgs.ok (x : CmpArgs) (n : Nat) : Bool := x.k.srcs [(x.a, n), (x.b, n)]

/-- `vote`: U=1, a scalar destination (R137). -/
def VoteArgs.ok (x : VoteArgs) : Bool := x.d.dst true 1 && x.k.bare true

/-- The base of a memory operand: a pair for apertures 0 to 6, one register for the team store (R191). -/
def baseOk (u : Bool) (ap : BitVec 3) (a : Opnd) : Bool := a.reg u (if ap == 7 then 1 else 2)

/-- The team store takes no policy (R191). -/
def polOk (pol : Pol) (ap : BitVec 3) : Bool := ap != 7 || pol == .nrm

/-- Registers of a load's destination (R198). -/
def LdW.regs : LdW → Nat
  | .w64 => 2
  | .w128 => 4
  | _ => 1

/-- Bytes of an access (R198). -/
def LdW.bytes : LdW → Nat
  | .u8 | .i8 => 1
  | .u16 | .i16 => 2
  | .w32 => 4
  | .w64 => 8
  | .w128 => 16

/-- A data source of a store or an atomic: no literal, since IMM32 is the offset (R87, R191). -/
def Opnd.data (u : Bool) (n : Nat) (o : Opnd) : Bool :=
  !o.isLit && (if n == 4 then o.reg u 4 else o.src u n)

/-- A load form (R192, R198). -/
def MArgs.loadOk (x : MArgs) (n : Nat) : Bool :=
  x.ord != .rel && x.ord != .ar && polOk x.pol x.ap && baseOk x.k.u x.ap x.a &&
  x.d.dst x.k.u n && x.k.words .may .no

/-- A store form (R192, R199). -/
def MArgs.storeOk (x : MArgs) (n : Nat) : Bool :=
  x.ord != .acq && x.ord != .ar && polOk x.pol x.ap && baseOk x.k.u x.ap x.a &&
  x.d.data x.k.u n && x.k.words .may .no

/-- SAT goes with E4M3 and E5M2 only (R201, R233). -/
def StcF.narrow : StcF → Bool
  | .e4m3 | .e5m2 => true
  | _ => false

/-- Registers of the source carrier of `stc` (R201). -/
def StcF.regs : StcF → Nat
  | .f64 | .f32f64 => 2
  | _ => 1

/-- Element formats of the canvas forms that take SAT (R233). -/
def CnF.narrow : CnF → Bool
  | .e4m3 | .e5m2 => true
  | _ => false

/-- Element size in memory of a canvas form's format (R232, R235). -/
def CnF.bytes : CnF → Nat
  | .bf16 | .f16 => 2
  | .e4m3 | .e5m2 => 1
  | .f32 | .i32 => 4
  | .f64 => 8

/-- Registers of an atomic's operands (R204). -/
def ATy.regs : ATy → Nat
  | .u64 | .i64 | .f64 => 2
  | _ => 1

/-- EXT32 of an atomic: order and scope, the other bits zero (R192). -/
def AtArgs.ext (x : AtArgs) : Word :=
  (0 : BitVec 26) ++ BitVec.ofNat 3 x.scope.ctorIdx ++ BitVec.ofNat 3 x.ord.ctorIdx

/-- An atomic form; `c` says that C holds the new value (R204, R205, R207). -/
def AtArgs.ok (x : AtArgs) (tys : List ATy) (c : Bool) : Bool :=
  tys.contains x.ty && baseOk x.k.u x.ap x.a && x.d.dst x.k.u x.ty.regs &&
  x.b.data x.k.u x.ty.regs && (if c then x.c.data x.k.u x.ty.regs else x.c == .none) &&
  x.k.ext == x.ext && x.k.words .may .may

/-- TY 5 is not accepted on the team store (R204). -/
def AtArgs.tsOk (x : AtArgs) : Bool := x.ap != 7 || x.ty != .f64

def ATy.ints : List ATy := [.u32, .i32, .u64, .i64]
def ATy.uns : List ATy := [.u32, .u64]
def ATy.flts : List ATy := [.f32, .f64]
def ATy.every : List ATy := ATy.ints ++ ATy.flts

/-- `mred` (R208). -/
def MredArgs.ok (x : MredArgs) (line : Bool) : Bool :=
  !x.k.u && x.ap != 7 && x.a.vec 1 && x.b.sca 2 && x.c.sca (if line then 2 else 1) &&
  x.k.words .must .no && x.k.imm != 0 && x.k.imm.toNat % 256 == 0

/-- A quarter: WH = 0 (R218). -/
def CF.quarter (c : CF) : Bool := !c.wh
/-- A form that takes only whole canvases refuses WH=0 with Q≠0 (R218). -/
def CF.wholeOnly (c : CF) : Bool := c.q == 0
/-- A form that takes either: Q must be 0 under WH=1 (R218). -/
def CF.any (c : CF) : Bool := !c.wh || c.q == 0

namespace MFmt

/-- FN[6:0] 0x0B and above: integer formats on an `.i32` canvas (R224). -/
def isInt : MFmt → Bool
  | .s8 | .u8 | .s8u8 | .u8s8 | .s4 | .u4 | .s4u4 => true
  | _ => false
/-- Formats that take `.mx`: 0x04 to 0x0A (R223). -/
def mxOk : MFmt → Bool
  | .e4m3 | .e5m2 | .e4m3e5m2 | .e5m2e4m3 | .e3m2 | .e2m3 | .e2m1 => true
  | _ => false
/-- Formats that take `.tr`: 0x04 to 0x07 and 0x0B to 0x0E (R223). -/
def trOk : MFmt → Bool
  | .e4m3 | .e5m2 | .e4m3e5m2 | .e5m2e4m3 | .s8 | .u8 | .s8u8 | .u8s8 => true
  | _ => false

end MFmt

/-- The byte of an operand (R85). -/
def Opnd.byte : Opnd → BitVec 8
  | .v n => BitVec.ofNat 8 n.val
  | .s n => BitVec.ofNat 8 (0xC0 + n.val)
  | .lane => 0xFC
  | .zero => 0xFD
  | .lit => 0xFE
  | .none => 0xFF

/-- IMM32 of `mma` and `mlut.a`: KN and GAM, the other bits zero (R223, R230). -/
def mmaImm (kn : BitVec 2) (gam : Opnd) : Word :=
  (0 : BitVec 14) ++ kn ++ (0 : BitVec 8) ++ gam.byte

/-- GAM names a scalar register when DK is set, the even base of a pair for an `.f64` canvas (R223). -/
def gamOk (dk : Bool) (n : Nat) (gam : Opnd) : Bool := if dk then gam.sca n else gam == .none

/-- `mma` (R223, R224). -/
def MmaArgs.ok (x : MmaArgs) : Bool :=
  !x.k.u && x.cf.quarter && x.a.vec (if x.fmt == .f64 then 2 else 1) &&
  x.b.vec (if x.fmt == .f64 then 2 else 1) && (if x.mx then x.c.vec 1 else x.c == .none) &&
  (!x.mx || x.fmt.mxOk) && (!x.dk || (!x.za && !x.fmt.isInt)) && (!x.sat || x.fmt.isInt) &&
  (!x.tr || x.fmt.trOk) && gamOk x.dk (if x.fmt == .f64 then 2 else 1) x.gam &&
  x.k.imm == mmaImm x.kn x.gam && x.k.words .must .no

/-- Memory form of `cnld` and `cnst` (R232, R233, R235). -/
def CnMemArgs.ok (x : CnMemArgs) : Bool :=
  x.k.u && x.cf.any && x.pol != .ms && polOk x.pol x.ap && baseOk true x.ap x.a &&
  x.k.imm.toNat % x.f.bytes == 0 &&
  (if x.cf.wh then 64 else 32) * x.f.bytes ≤ x.k.imm.toNat && x.k.words .must .no

/-- The register forms of `cnld` and `cnst` name a quarter (R232, R233). -/
def CnRegArgs.ok (x : CnRegArgs) : Bool :=
  !x.k.u && x.cf.quarter && x.k.words .no .no

/-- Width in registers of an element in the register forms (R232). -/
def CnF.regs : CnF → Nat
  | .f64 => 2
  | _ => 1

/-- Apertures that a direction fixes: the team side is code 7, a global side is not (R243). -/
def AcpyArgs.apsOk (x : AcpyArgs) : Bool :=
  let d7 := x.dap == 7
  let s7 := x.sap == 7
  if x.dir == 0 then d7 && !s7
  else if x.dir == 1 then !d7 && s7
  else if x.dir == 2 then !d7 && !s7
  else d7 && s7

/-- `acpy` (R243). -/
def AcpyArgs.ok (x : AcpyArgs) : Bool :=
  x.k.u && x.pol != .ms && x.apsOk && baseOk true x.dap x.a && baseOk true x.sap x.b &&
  x.c.sca 1 && x.k.imm == 0 && x.k.ext &&& 0xFFFF00FE == 0 && x.k.words .no .may

/-- `agth` and `asct` (R246). -/
def GthArgs.ok (x : GthArgs) : Bool :=
  !x.k.u && x.pol != .ms && x.ap != 7 && x.a.sca 1 && x.b.sca 2 && x.c.vec 1 &&
  x.k.imm.toNat % 4 == 0 && 4 ≤ x.k.imm.toNat && x.k.imm.toNat ≤ 65532 && x.k.words .must .no

/-- `acol` (R250). -/
def AcolArgs.ok (x : AcolArgs) : Bool :=
  x.k.u && x.pol != .ms && x.ap != 7 && x.a.sca 2 && x.b.sca 2 && x.c.sca 1 &&
  x.k.ext &&& 0xFFFF0000 == 0 && x.k.words .may .must

/-- `acol` also uses IMM32, which a four-word form always has. -/
def BarArgs.ok (x : BarArgs) : Bool := x.k.bare true && (x.lvl == .team || x.n.toNat < 4)

/-- Scopes that `susp` and `resm` take: `.die`, `.mod`, `.sys` (R266). -/
def Scope.wide : Scope → Bool
  | .die | .mod | .sys => true
  | _ => false

/-- The control registers by number (R37). -/
inductive Csr
  | lane | grp | role | teamX | teamY | teamZ | tidX | tidY | tidZ | gridX | gridY | gridZ
  | core | die | cyc | prog | tvec | tcause | tpc | tval | tvalh | code | rmode | fflags
  | lsel | lpc | lst | rng
deriving DecidableEq, Repr

/-- The register a number names; none for a number that R37 does not list. -/
def Csr.ofNum (num : BitVec 12) : Option Csr :=
  match num.toNat with
  | 0x000 => some .lane | 0x001 => some .grp | 0x002 => some .role
  | 0x004 => some .teamX | 0x005 => some .teamY | 0x006 => some .teamZ
  | 0x008 => some .tidX | 0x009 => some .tidY | 0x00A => some .tidZ
  | 0x00C => some .gridX | 0x00D => some .gridY | 0x00E => some .gridZ
  | 0x010 => some .core | 0x011 => some .die | 0x020 => some .cyc | 0x021 => some .prog
  | 0x030 => some .tvec | 0x031 => some .tcause | 0x032 => some .tpc | 0x033 => some .tval
  | 0x034 => some .tvalh | 0x036 => some .code | 0x040 => some .rmode | 0x041 => some .fflags
  | 0x050 => some .lsel | 0x051 => some .lpc | 0x052 => some .lst | 0x060 => some .rng
  | _ => none

/-- Held per lane (R37). -/
def Csr.perLane : Csr → Bool
  | .lane | .tidX | .tidY | .tidZ | .rng => true
  | _ => false

/-- Registers that the value takes: a pair for the 64-bit ones (R36, R37). -/
def Csr.regs : Csr → Nat
  | .cyc | .tvec | .tpc | .tval | .lpc => 2
  | _ => 1

/-- A `csr` form: the number is listed, and a per-lane register is not read into a scalar (R36, R273). -/
def CsrArgs.ok (x : CsrArgs) (wr : Bool) : Bool :=
  match Csr.ofNum x.num with
  | some r =>
    x.d.dst x.k.u r.regs && !(r.perLane && x.d.sca 1) &&
    (if wr then x.k.srcs [(x.a, r.regs)] else x.a == .none && x.k.words .no .no)
  | none => false

/-- A branch displacement is a multiple of 4 (R168). -/
def disp4 (w : Word) : Bool := w.toNat % 4 == 0

/-- Static legality (R84-R92). A device step has no encoding and carries no condition here. A source of `bcast` and `rdlane`
is a scalar register or a literal, and not 0xFD (R139), and a source of `mxsc` a vector register (R161): DEDUCED, log 76. -/
def Instr.wf : Instr → Bool
  | .iadd x | .isub x => x.ok true x.ty.regs x.ty.regs x.ty.regs 0
  | .imulLo x | .imulHi x => x.ok false x.ty.regs x.ty.regs x.ty.regs 0
  | .imulWide x => [ITy.u32, .i32].contains x.ty && x.ok false 2 1 1 0
  | .imad x => x.ok true x.ty.regs x.ty.regs x.ty.regs x.ty.regs
  | .imadWide x => [ITy.u32, .i32].contains x.ty && x.ok true 2 1 1 2
  | .idiv x | .irem x => x.ty.single && x.ok false x.ty.regs x.ty.regs x.ty.regs 0
  | .imin x | .imax x => x.ok false x.ty.regs x.ty.regs x.ty.regs 0
  | .iabs x | .ineg x => x.ty.signed && x.ok true x.ty.regs x.ty.regs 0 0
  | .addc x | .subb x => x.d.dst x.k.u 1 && x.k.srcs [(x.a, 1), (x.b, 1)]
  | .lop x _ => [ITy.u32, .u64].contains x.ty && x.ok false x.ty.regs x.ty.regs x.ty.regs x.ty.regs
  | .shl x | .shr x | .sra x | .rotl x | .rotr x => x.ok false x.ty.regs x.ty.regs x.ty.regs 0
  | .shfWin x | .shfRot x | .prmt x => x.plain && x.ok false 1 1 1 1
  | .clz x | .ctz x | .popc x | .cls x => [ITy.u32, .u64].contains x.ty && x.ok false 1 x.ty.regs 0 0
  | .brev x | .bswap x => [ITy.u32, .u64].contains x.ty && x.ok false x.ty.regs x.ty.regs 0 0
  | .bfxU x | .bfxS x => [ITy.u32, .u64].contains x.ty && x.ok false x.ty.regs x.ty.regs x.ty.regs 0
  | .bfi x => [ITy.u32, .u64].contains x.ty && x.ok false x.ty.regs x.ty.regs x.ty.regs x.ty.regs
  | .lea x _ => x.ty.single && x.ok false 2 2 x.ty.regs 1
  | .idpDp4 x _ _ | .idpDp2 x => x.ty == .i32 && x.ok true 1 1 1 1
  | .sad x => x.ty != .u64 && x.ty != .i64 && x.ok false 1 1 1 1
  | .cvti x dt e =>
      x.ok true dt.regs x.ty.regs 0 0 &&
      e.toNat < (if x.ty.width == 8 then 4 else if x.ty.width == 16 then 2 else 1)
  | .mov x => x.plain && x.ok false 1 1 0 0
  | .mov64 x => x.plain && x.ok false 2 2 0 0
  | .movl x => x.plain && x.d.dst x.k.u 1 && x.a == .none && x.b == .none && x.c == .none &&
      x.k.words .must .no
  | .movl64 x => x.plain && x.d.dst x.k.u 2 && x.a == .none && x.b == .none && x.c == .none &&
      x.k.words .must .may
  | .sel x _ => x.plain && x.c == .none && x.ok false 1 1 1 0
  | .sel64 x _ => x.plain && x.c == .none && x.ok false 2 2 2 0
  | .icmp x ty _ => ty.single && x.ok ty.regs
  | .plop k _ _ _ _ _ => k.words .no .no
  | .voteSome x | .voteEvery x | .voteSame x | .voteMask x | .voteCount x | .voteFirst x => x.ok
  | .pmovGet k d => d.dst k.u 1 && k.words .no .no
  | .pmovSet k _ a => !k.u && k.srcs [(a, 1)]
  | .bcast x => x.plain && !x.k.u && (x.a.sca 1 || x.a.isLit) && x.ok false 1 1 0 0
  | .bcast64 x => x.plain && !x.k.u && (x.a.sca 2 || x.a.isLit) && x.ok false 2 2 0 0
  | .rdlane x => x.plain && !x.sat && x.k.u && x.d.dst true 1 && x.a.vec 1 &&
      (x.b.sca 1 || x.b.isLit) && (x.c.sca 1 || x.c.isLit || x.c == .none) &&
      x.k.litWords (x.b.isLit || x.c.isLit) false
  | .rdlane64 x => x.plain && !x.sat && x.k.u && x.d.dst true 2 && x.a.vec 2 &&
      (x.b.sca 1 || x.b.isLit) && (x.c.sca 2 || x.c.isLit || x.c == .none) &&
      x.k.litWords (x.b.isLit || x.c.isLit) x.c.isLit
  -- floating point
  | .fadd x | .fsub x | .fmul x | .fmin x | .fmax x | .fminnum x | .fmaxnum x | .fdiv x => x.two
  | .ffma x => x.ok true true true x.ft.regs x.ft.regs x.ft.regs x.ft.regs
  | .fsqrt x | .frcpRcp x | .frcpRsq x | .fxtrSig x => x.one
  | .fsfuExp2 x | .fsfuLog2 x | .fsfuSin x | .fsfuCos x | .fsfuTanh x => x.ft != .f64 && x.one
  | .hdot2F16 x | .hdot2Bf16 x => x.ft == .f32 && x.ok true true true 1 1 1 1
  | .fscale x => x.ok true false false x.ft.regs x.ft.regs x.ft.regs 0
  | .fxtrExp x => x.ok true false false 1 x.ft.regs 0 0
  | .frnd x | .fin x => x.d.dst x.k.u x.ft.regs && x.k.srcs [(x.a, x.ft.regs)]
  | .fcmpX x ft _ _ _ | .fcmpR x ft _ _ _ _ => !ft.packed && x.ok ft.regs
  | .fclass x => x.ok false false false 1 x.ft.regs 0 0
  | .fclassP k ft _ a b => !ft.packed && k.srcs [(a, ft.regs), (b, 1)]
  | .fcvt k df sf e d a b =>
      df != sf && d.dst k.u df.regs && (!e || (sf.packed && !df.packed)) &&
      k.srcs [(a, sf.regs), (b, if df.packed && !sf.packed then sf.regs else 0)]
  | .icvtf k df sty d a b =>
      let n := if sty.toNat < 2 then 1 else 2
      d.dst k.u df.regs && k.srcs [(a, n), (b, if df.packed then n else 0)]
  | .fcvti x dt _ e =>
      x.d.dst x.k.u (if dt.toNat < 2 then 1 else 2) && (!e || x.ft.packed) &&
      x.k.srcs [(x.a, x.ft.regs)]
  | .glzGet x => x.ok false false false 1 x.ft.regs 0 0
  | .glzSet x => x.ok false false false x.ft.regs x.ft.regs 1 0
  | .glzClr x => x.ok false false false x.ft.regs x.ft.regs 0 0
  | .glzTest k ft _ a => k.srcs [(a, ft.regs)]
  | .mxsc k _ d a => k.u && d.dst true 1 && a.vec 1 && k.words .no .no
  | .fpk k ef _ sat scm d a b c =>
      !k.u && d.dst false 1 && (!sat || ef == .e4m3 || ef == .e5m2) &&
      (if scm == 2 then c.sca 1 else c == .none) && k.srcs [(a, 1), (b, if scm == 1 then 1 else 0)]
  | .fupk k _ scm d a b => !k.u && d.dst false 1 && k.srcs [(a, 1), (b, if scm == 1 then 1 else 0)]
  | .rng k d => !k.u && d.dst false 1 && k.words .no .no
  -- control and lanes
  | .braWhole k => !k.u && disp4 k.imm && k.words .must .no
  | .braD k | .braEj k => !k.u && disp4 k.imm && disp4 k.ext && k.words .must .must
  | .brxD k a => !k.u && a.reg false 2 && disp4 k.imm && k.words .must .no
  | .brxWhole k a | .ret k a => !k.u && a.reg false 2 && k.words .no .no
  | .call k d => !k.u && d.dst false 2 && disp4 k.imm && k.words .must .no
  | .callX k d a => !k.u && d.dst false 2 && a.reg false 2 && k.words .no .no
  | .fcs k | .exit k | .pswp k => k.bare false
  | .lmap k d => !k.u && d.dst false 1 && k.words .no .no
  | .lmapRd k d b => k.u && d.dst true 1 && k.srcs [(b, 1)]
  | .shflSel x | .shflSlide x | .shflRot x | .shflFlip x =>
      let n := if x.w64 then 2 else 1
      let w := x.w64 && (x.a.isLit || x.c.isLit)
      !x.k.u && x.d.dst false n && x.a.src false n && x.b.src false 1 &&
      (x.c == .none || x.c.src false n) && !(x.mm && w) &&
      x.k.words (if x.a.isLit || x.b.isLit || x.c.isLit then .must else if x.mm then .may else .no)
        (if x.mm then .must else .no) &&
      (x.a.isLit || x.b.isLit || x.c.isLit || x.k.imm == 0)
  | .redux k op d a =>
      let n := if op == .addU64 || op == .faddF64 then 2 else 1
      d.dst k.u n && !a.isLit && (if k.u then a.vec n else a.src false n) && k.words .no .no
  | .scan k op _ d a =>
      let n := if op == .addU64 || op == .faddF64 then 2 else 1
      !k.u && d.dst false n && !a.isLit && a.src false n && k.words .no .no
  | .isectM k _ a b => !k.u && !a.isLit && a.src false 1 && !b.isLit && b.src false 1 && k.words .no .no
  | .isectIx k d a b =>
      !k.u && d.dst false 1 && !a.isLit && a.src false 1 && !b.isLit && b.src false 1 && k.words .no .no
  | .isectAdv k d a b =>
      k.u && d.dst true 1 && (a.reg false 1 || a == .zero) && (b.reg false 1 || b == .zero) &&
      k.words .no .no
  | .vsortAsc k _ d a b | .vsortDesc k _ d a b =>
      !k.u && d.dst false 2 && !a.isLit && a.src false 1 && (b == .none || (!b.isLit && b.src false 1)) &&
      (match d with
       | .v r => (match a with | .v q => q.val != r.val && q.val != r.val + 1 | _ => true) &&
                 (match b with | .v q => q.val != r.val && q.val != r.val + 1 | _ => true)
       | _ => true) && k.words .no .no
  | .matchPeers k w d a | .matchUni k w d a | .matchLead k w d a =>
      !k.u && d.dst false 1 && !a.isLit && a.src false (if w then 2 else 1) && k.words .no .no
  -- memory
  | .ld x w => x.loadOk w.regs
  | .st x w => w != .i8 && w != .i16 && x.storeOk w.regs
  | .ldc x f => !x.k.u && x.loadOk (if f == .f64f32 then 2 else 1)
  | .stc x =>
      !x.k.u && (!x.sat || x.f.narrow) && polOk x.pol x.ap && baseOk false x.ap x.a &&
      x.b.data false x.f.regs && x.k.words .may .no
  | .spill x | .fill x =>
      x.n1.toNat < 192 && polOk x.pol x.ap && x.a.sca (if x.ap == 7 then 1 else 2) &&
      (if x.k.u then x.r.sca 1 else x.r.vec 1) && x.k.words .may .no
  | .atomXchg x => x.tsOk && x.ok ATy.every false
  | .atomAdd x | .atomMin x | .atomMax x => x.ok ATy.ints false
  | .atomAnd x | .atomOr x | .atomXor x => x.ok ATy.uns false
  | .atomFadd x | .atomFmin x | .atomFmax x => x.tsOk && x.ok ATy.flts false
  | .cas x => x.ok ATy.uns true
  | .atmsAdd x | .atmsMin x | .atmsMax x => x.ap != 7 && x.ok ATy.ints false
  | .atmsXchg x => x.ap != 7 && x.ok ATy.every false
  | .atmsFadd x => x.ap != 7 && x.ok ATy.flts false
  | .atmsCas x => x.ap != 7 && x.ok ATy.uns true
  | .mredLine x => x.ok true
  | .mredRet x => x.ok false
  | .pfL1 x | .pfL2 x | .pfMsc x =>
      x.lvl == .l1 && polOk x.pol x.ap && baseOk x.k.u x.ap x.a && x.k.words .may .no
  | .cmntWb x | .cmntInv x => x.pol == .nrm && baseOk x.k.u x.ap x.a && x.k.words .may .no
  | .cmntIc x => x.lvl == .l1 && x.pol == .nrm && baseOk x.k.u x.ap x.a && x.k.words .may .no
  | .tierPin x | .tierUnpin x | .tierPromoteHint x | .tierDemote x =>
      x.k.u && x.ap != 7 && x.d.dst true 1 && x.a.sca 2 && x.b.sca 1 && x.k.words .may .no
  | .fnc k _ _ _ => k.bare false
  -- the easel
  | .mma x => x.ok
  | .mlutB k _ cf a b => !k.u && cf.wholeOnly && a.vec 1 && b.sca 1 && k.words .no .no
  | .mlutA x =>
      !x.k.u && x.cf.quarter && x.b.vec 1 && (!x.dk || !x.za) && gamOk x.dk 1 x.gam &&
      x.k.imm == mmaImm 0 x.gam && x.k.words .must .no
  | .cnalAlloc k _ _ cf => k.bare false && cf.wholeOnly
  | .cnalGrow k _ b | .cnalGrowW k _ b => !k.u && (b.sca 1 || b.isLit) && k.litWords b.isLit false
  | .cnalFree k cf => k.bare true && cf.wholeOnly
  | .cnalTrim k b => k.u && (b.sca 1 || b.isLit) && k.litWords b.isLit false
  | .cnz k cf => k.bare true && cf.any
  | .cnldMem x => x.rm == .rne && !x.sat && x.ok
  | .cnldReg x => x.rm == .rne && x.r.vec x.f.regs && x.ok
  | .cnstMem x => (!x.sat || x.f.narrow) && x.ok
  | .cnstReg x => x.r.dst false x.f.regs && x.ok
  | .cnrowMax k cf r | .cnrowSum k cf r => k.bare false && cf.any && r.dst false 1
  | .cnrowScl k cf r => k.bare false && cf.any && r.vec 1
  | .cnrowCscl k cf r => k.bare true && cf.any && r.sca 1
  | .mwait k => k.bare true
  | .mwaitM k cf => k.bare true && cf.wholeOnly
  -- asynchronous, synchronisation, task, system
  | .acpy x => x.ok
  | .agth x | .asct x => x.ok
  | .tkwAll k _ a => k.u && (a.sca 1 || a.isLit) && k.litWords a.isLit false
  | .tkwAny k _ d a => k.u && d.dst true 1 && (a.sca 1 || a.isLit) && k.litWords a.isLit false
  | .tkt k _ _ | .tktErr k _ _ => k.bare false
  | .tktSt k d _ => k.bare true && d.dst true 1
  | .evq k _ a => k.u && (a.sca 1 || a == .zero) && k.imm &&& 0xFFFF0000 == 0 && k.words .must .no
  | .acolAllred x | .acolAllgath x | .acolRedscat x => x.ok
  | .barArrive x | .barWait x | .barSync x => x.ok
  | .gate k | .rels k _ => k.bare true
  | .rtskSpawn k ap _ a => k.u && ap != 7 && a.sca 2 && k.words .may .no
  | .rtskDone k => k.bare true
  | .susp k sc _ ap a b => k.bare true && sc.wide && ap != 7 && a.sca 2 && b.sca 1
  | .resm k sc ap _ a | .resmJoin k sc ap _ a => k.bare true && sc.wide && ap != 7 && a.sca 2
  | .ccpy k _ sap dap a b c =>
      k.bare true && sap != 7 && dap != 7 && a.sca 2 && b.sca 2 && c.sca 1
  | .cdsc k ap a => k.bare true && ap != 7 && a.sca 2
  | .nop k => k.bare true
  | .csrRd x => x.ok false
  | .csrWr x | .csrSet x | .csrClr x => x.ok true
  | .trap k | .brkp k | .stop k => k.u && k.words .may .no
  | .rte k | .rteNx k => k.bare true
  -- no encoding
  | .unassignedOpcode .. | .compactReturn .. | .tierStatusReturn .. | .canvasGrowGrant ..
  | .easelGrant .. | .easelOpComplete .. | .copyComplete .. | .eventRecordTake ..
  | .collectiveComplete .. | .barrierArrivalForward .. | .resultReturn .. | .trapEntry ..
  | .groupStateLost .. | .regfileError .. | .memoryUnitError .. | .groupRetire ..
  | .launch .. | .destroy .. | .destroyF .. | .preempt .. | .cutWrite .. | .restore ..
  | .gridDispatchStart .. | .fairShareCharge .. | .workRequest .. | .teamPrepare ..
  | .teamRunnable .. | .gridComplete .. | .mredPacketApply .. | .tierPromote ..
  | .tierPromotionComplete .. | .tierDemotionComplete .. | .tierFailure .. | .read .. | .write ..
  | .atomic .. | .reduce .. | .status .. | .packetReply .. | .backoffWindowEnd ..
  | .rgctlWrite .. | .watchWrite .. | .registerWrite .. | .meshFlitRetry .. | .updateApply ..
  | .guestInvalidate .. | .linkFail .. | .meshLaneSpare .. | .hostSnoop .. | .hostMemRequest ..
  | .backInvalidate .. | .targetLost .. | .fwtcntWrite .. | .commcntWrite .. | .netcntWrite ..
  | .tacccntWrite .. | .data .. | .ack .. | .nack .. | .abort .. | .resendTimeout ..
  | .doorbell .. | .taskSigned .. | .taskAck .. | .taskPacket .. | .extentGrant ..
  | .extentRelease .. | .tlbiCtx .. | .tlbiVa .. | .ctxsync .. | .dbgrel .. | .report ..
  | .tlbiS2 .. | .vdreset .. | .vdsave .. | .vdload .. | .keygen .. | .vdEnable ..
  | .remapUnmask .. | .powerOn .. | .trainingComplete .. | .neg .. | .recoveryImage ..
  | .svnRaise .. | .rlbaseWrite .. | .renew .. | .renewReceive .. | .leaseLapse .. | .claim ..
  | .claimReceive .. | .viral .. | .clusterRepair .. | .rowRepair .. | .pseudoChannelRepair ..
  | .dataRateChange .. | .getCertificate .. | .challenge .. | .getMeasurements ..
  | .lmsTranscriptSignature .. | .powerCapSet .. | .powerSample .. | .supplyOutOfRange ..
  | .thermalSample .. | .cxlPortDown .. | .cxlPortUp .. | .leaderLeaseEnd ..
  | .backInvalidateResponse .. | .notifyWrite .. | .canvasEntryError .. | .teamStoreError .. => true

end Sys2Proof
end

