-- ==== Sys2Proof/Machine/Operands.lean ====
section
/-! DEFINITION. Operands of an instruction at issue (03 R85-R90, 01 R21-R28, 04 R117) and what a register
instruction answers: writes, flags and `%rng` steps, or the trap it raises. -/

namespace Sys2Proof.Machine

/-- A cause with what trap entry writes to `%tval` and `%tvalh` (R300). -/
structure Trap where
  cause : Byte
  tval : DWord
  tvalh : Half
deriving DecidableEq, Repr

/-- The issuing group, its running path, `Active(g)` (R9, R33) and the instruction's address. -/
structure GCtx where
  g : Group
  k : Com
  run : Word
  act : Word
  pc0 : DWord

/-- What a register instruction does: register and predicate writes, flags raised by lane, and new
`%rng` values by lane. -/
structure Out where
  w : List RegW
  fl : List (Nat × Flags)
  rng : List (Nat × Word)

/-- The meaning of a register instruction over its group. -/
abbrev GBody := GCtx → Except Trap Out

def Out.of (w : List RegW) : Out := ⟨w, [], []⟩

/-- A lane slot that holds nothing. -/
def Lane.none : Lane := ⟨.exited, 0, 0, [], 1, 0, Option.none, false, 0⟩

namespace Group

def lane (g : Group) (l : Nat) : Lane := g.lanes.getD l Lane.none

/-- Lanes in state active: the running path (R33). -/
def runMask (g : Group) : Word := maskOf (fun l => (g.lane l).st == .active)

/-- A vector register image of a lane. -/
def vImg (g : Group) (l r : Nat) : Image := SMap.getD (g.lane l).v Image.zero r

/-- A scalar register image. -/
def sImg (g : Group) (r : Nat) : Image := SMap.getD g.s Image.zero r

/-- A predicate of a lane; p7 reads 1 (R20). -/
def pred (g : Group) (l : Nat) (k : BitVec 3) : Bool := k == 7 || (g.lane l).pr.getLsbD k.toNat

/-- `%lane`: the virtual lane number, the home lane number in a compacted group (R88). -/
def vlane (g : Group) (l : Nat) : Nat := match (g.lane l).home with | some h => h.lane | none => l

/-- The group is compacted (R175). -/
def compacted (g : Group) : Bool := g.key.isSome

/-- The PC of the running path. -/
def runPc (g : Group) : DWord := (g.lane (maskLow g.runMask)).pc

/-- Put a slot before the first slot of a higher virtual lane number. -/
def seat (g : Group) (l : Nat) : List Nat → List Nat
  | [] => [l]
  | j :: r => if g.vlane l < g.vlane j then l :: j :: r else j :: g.seat l r

/-- The lanes of a mask in ascending virtual lane number (R9). Of two slots of a compacted group that share one home lane
number the lower comes first: DESIGN CHOICE, log 73. -/
def byLane (g : Group) (m : Word) : List Nat :=
  if g.compacted then (maskLanes m).foldl (fun a l => g.seat l a) [] else maskLanes m

/-- Change one lane. -/
def updLane (g : Group) (l : Nat) (f : Lane → Lane) : Group := { g with lanes := updAt g.lanes l f }

/-- Change every lane of a mask. -/
def mapMask (g : Group) (m : Word) (f : Lane → Lane) : Group :=
  (maskLanes m).foldl (fun a l => a.updLane l f) g

/-- A register range lies within the budget or the scalar count (R24, R27). -/
def inRange (g : Group) (o : Opnd × Nat) : Bool :=
  match o.1 with
  | .v n => n.val + o.2 ≤ g.vb
  | .s n => n.val + o.2 ≤ g.sn
  | _ => true

end Group

/-- A predicate write; writes to p7 are discarded (R28). -/
def setPred (pr : BitVec 7) (k : Nat) (b : Bool) : BitVec 7 :=
  if 7 ≤ k then pr
  else if b then pr ||| (1#7 <<< k) else pr &&& ~~~(1#7 <<< k)

/-- A vector or scalar register or predicate write takes effect (R95). -/
def RegW.apply (g : Group) : RegW → Group
  | .v l r i => g.updLane l (fun x => { x with v := SMap.set x.v Image.zero r i })
  | .s r i => { g with s := SMap.set g.s Image.zero r i }
  | .p l k b => g.updLane l (fun x => { x with pr := setPred x.pr k b })
  | .o .. => g

/-- Two writes name one target. -/
def RegW.same : RegW → RegW → Bool
  | .v l r _, .v l' r' _ => l == l' && r == r'
  | .s r _, .s r' _ | .s r _, .o _ r' | .o _ r, .s r' _ | .o _ r, .o _ r' => r == r'
  | .p l k _, .p l' k' _ => l == l' && k == k'
  | _, _ => false

namespace GCtx

/-- The guard of a lane (R90). -/
def guard (c : GCtx) (l : Nat) : Bool := c.g.pred l c.k.gp != c.k.gn

/-- The lowest-numbered lane of the running path (R27). -/
def low (c : GCtx) : Nat := (c.g.byLane c.run).headD 32

/-- The lowest slot of the running path (R171, R172). -/
def lowSlot (c : GCtx) : Nat := maskLow c.run

/-- The lanes for which the instruction executes: `Active(g)` in ascending lane number, or once under U=1 (R9, R27). -/
def ls (c : GCtx) : List Nat := if c.k.u then [c.low] else c.g.byLane c.act

/-- The `i`-th image of an operand in a lane (R85, R87, R88). -/
def img (c : GCtx) (o : Opnd) (l i : Nat) : Image :=
  match o with
  | .v n => c.g.vImg l (n.val + i)
  | .s n => c.g.sImg (n.val + i)
  | .lane => if i == 0 then ⟨false, 0, BitVec.ofNat 32 (c.g.vlane l)⟩ else Image.zero
  | .lit => ⟨false, 0, if i == 0 then c.k.imm else if i == 1 then c.k.ext else 0⟩
  | .zero | .none => Image.zero

/-- The DATA of `n` images as a number, the lowest register least significant (R5). -/
def data (c : GCtx) (o : Opnd) (l n : Nat) : Nat :=
  (List.range n).foldl (fun a i => a + (c.img o l i).d.toNat * 2 ^ (32 * i)) 0

/-- P of any of `n` images. -/
def pois (c : GCtx) (o : Opnd) (l n : Nat) : Bool := (List.range n).any (fun i => (c.img o l i).p)

/-- All `n` images. -/
def imgs (c : GCtx) (o : Opnd) (l n : Nat) : List Image := (List.range n).map (c.img o l)

/-- A predicate field with negate in a lane (R117). -/
def pf (c : GCtx) (l : Nat) (x : PF) : Bool := c.g.pred l x.p != x.neg

/-- Writes of images to a destination. -/
def wr (_ : GCtx) (d : Opnd) (l : Nat) (is : List Image) : List RegW :=
  is.zipIdx.filterMap fun x => match d with
    | .v n => some (.v l (n.val + x.2) x.1)
    | .s n => some (.s (n.val + x.2) x.1)
    | _ => Option.none

/-- A predicate write: the lane, or under U=1 every lane of the running path (R117). -/
def wrP (c : GCtx) (pD : BitVec 3) (l : Nat) (b : Bool) : List RegW :=
  if c.k.u then (maskLanes c.run).map (fun j => .p j pD.toNat b) else [.p l pD.toNat b]

/-- `%tval` of Poison Consumed for a register (R302). -/
def poisonTval (o : Opnd) (i l : Nat) : DWord :=
  match o with
  | .s n => (1#64 <<< 62) ||| BitVec.ofNat 64 (0xC0 + n.val + i)
  | .v n => BitVec.ofNat 64 (l * 256 + (n.val + i))
  | _ => 0

/-- Lanes in the order in which a trap names them: by virtual lane number, or by slot in a compacted group (R195, R302). -/
def bySlot (c : GCtx) (ls : List Nat) : List Nat := if c.g.compacted then lanes32.filter (fun l => ls.contains l) else ls

/-- Poison Consumed for the first poisoned image, in the order of the operands given, the lower register
first, the lowest lane first (R302). -/
def consume (c : GCtx) (os : List (Opnd × Nat)) (ls : List Nat) : Option Trap :=
  os.findSome? fun o => (List.range o.2).findSome? fun i => (c.bySlot ls).findSome? fun l =>
    if (c.img o.1 l i).p then some ⟨7, poisonTval o.1 i l, 0⟩ else Option.none

/-- Continue unless an operand is consumed poisoned (R117). -/
def unpoisoned (c : GCtx) (os : List (Opnd × Nat)) (f : Out) : Except Trap Out :=
  match c.consume os c.ls with
  | some t => .error t
  | Option.none => .ok f

/-- `%rmode`.MODE in force, or the instruction's own (R142). -/
def mode (c : GCtx) (rm : RM) : Mode :=
  match rm with
  | .rne => .rne | .rtz => .rtz | .rup => .rup | .rdn => .rdn | .rna => .rna | .sr => .sr
  | .dyn =>
    match c.g.rmode.toNat with
    | 0 => .rne | 1 => .rtz | 2 => .rup | 3 => .rdn | 4 => .rna | _ => .sr

/-- The mode is RDN, which gives an exact zero sum its sign (R63). -/
def rdn (c : GCtx) : Bool := c.mode .dyn == .rdn

end GCtx

/-- Images of an integer, bit or predicate-derived result of `n` registers: zero glaze (R23, R116). -/
def plainImgs (n : Nat) (p : Bool) (v : Nat) : List Image :=
  (List.range n).map (fun i => ⟨p, 0, BitVec.ofNat 32 (v / 2 ^ (32 * i))⟩)

/-- A per-lane computation of images into a destination. -/
def perLane (c : GCtx) (d : Opnd) (f : Nat → List Image) : Out :=
  Out.of (c.ls.flatMap (fun l => c.wr d l (f l)))

/-- An integer form whose result in a lane is computed from the DATA of its sources; P is the OR over the
images read (R116). `na`, `nb`, `nc` are the registers read. -/
def intLane (x : IArgs) (nd na nb nc : Nat) (f : Nat → Nat → Nat → Nat) : GBody := fun c =>
  .ok (perLane c x.d fun l =>
    plainImgs nd (c.pois x.a l na || c.pois x.b l nb || c.pois x.c l nc)
      (f (c.data x.a l na) (c.data x.b l nb) (c.data x.c l nc)))

/-- A source operand that the form reads as `n` whole images. -/
def copyLane (d a : Opnd) (n : Nat) : GBody := fun c => .ok (perLane c d fun l => c.imgs a l n)

end Sys2Proof.Machine
end

