-- ==== Sys2Proof/Machine/MemState.lean ====
section
/-! DEFINITION. The state of the memory system: caches and team stores of cores, die-level lines,
memory-side cache, base dies, tier objects and engine operations (14_memory_tiers.md, 08, 09 R242-R252,
17 R425-R432), as plain data. -/

namespace Sys2Proof.Machine

/-- A cached copy of a 256-byte line: in an L1, a guest line or a far line (R348, R353, R354). `fill` marks the 64-byte
sectors that are filled, `wm` the written bytes and `own` the same by the team that wrote them, `p` the poisoned 32-byte
units, `key` the key it was filled under, `team` the team that last wrote it (R349), `first` a mark for first eviction, `bad` the
units whose written bytes met an error, which their write-back takes along (R355), `ctx` the context that last used a far line
(R436). -/
structure Line where
  data : List Byte
  fill : Nat
  p : Nat
  wm : Nat
  own : SMap Nat
  key : Nat
  team : Nat
  first : Bool
  bad : Nat
  ctx : Nat
deriving DecidableEq, Repr

/-- A cached translation (R426): virtual device, context, first address, size, and where it leads. -/
structure TlbE where
  ctx : Nat
  va : Nat
  size : Nat
  pa : Nat
  ipa : Nat
  r : Bool
  w : Bool
  x : Bool
  ms : Bool
  diag : Bool
  key : Nat
  obj : Option Nat
deriving DecidableEq, Repr

/-- What unlisted bytes of a stretch of a team store read as (R347): zero, or unpredictable bytes of a draw. -/
structure TsDef where
  base : Nat
  size : Nat
  ctx : Nat
  draw : Option Nat
deriving DecidableEq, Repr

/-- A shadow slot: the team it holds, the prepared launch arguments, and the TSINIT bytes with the poison of their units
(R405). -/
structure Shadow where
  team : Nat
  ready : Bool
  args : List Word
  init : List Byte
  initP : List Bool
deriving DecidableEq, Repr

/-- A core (R346-R351, R405, R410). `l1` is keyed by PA/256, `ic` by PA/32, `ts` and `tsP` by byte and word. The pointer of R410 stands
at the group `ptr`, or where that has left the list at the one after it; `pair` is the group that issues still in the
clock. -/
structure Core where
  l1 : SMap Line
  ic : SMap (List Word × Bool)
  tlb : List TlbE
  ts : SMap Byte
  tsP : SMap Bool
  tsDef : List TsDef
  ptr : Nat
  pair : Option Nat
  shadow : List Shadow
deriving DecidableEq, Repr

def Core.init : Core := ⟨[], [], [], [], [], [], 0, none, []⟩

/-- A stretch of one side of an engine access after translation. -/
structure Seg where
  ts : Bool
  pa : Nat
  ms : Bool
  key : Nat
  len : Nat
deriving DecidableEq, Repr

/-- A row or block of a copy: source and destination stretches (R244, R246). -/
structure CopyRow where
  src : List Seg
  dst : List Seg
deriving DecidableEq, Repr

/-- A packet of `mred`: the rows it sums, by address, and whether it has been applied (R208). -/
structure MredPkt where
  rows : List (Nat × Nat)
  applied : Bool
deriving DecidableEq, Repr

/-- A record of a cluster event queue (R249). -/
structure EvRec where
  tag : Nat
  vd : Nat
  kind : Nat
  value : Word
  qslot : Nat
  core : Nat
  grp : Nat
  team : Nat
  stamp : Nat
deriving DecidableEq, Repr

/-- Operations of the copy engine and of the memory-side adders (R242, R208). `ev` is the record that completion posts. -/
inductive AKind
  | copy (rows : List CopyRow) (ev : Option EvRec)
  | mredLine (ty : MredTy) (dst : Nat) (pkts : List MredPkt)
  | mredRet (ty : MredTy) (dst : Nat) (pkts : List MredPkt)
deriving DecidableEq, Repr

/-- An engine operation in flight: its group, place and token. `also` are further groups in whose program order it stands
(R279): the home groups of the lanes that a compacted group held at issue, and a group resumed from an object that lists it
(R332). `err` says that an access was discarded, `ran` that a copy's accesses are performed and only its completion is
outstanding, `part` that its instruction stopped part-way: its reissue adds to it (R209, R245). -/
structure AOp where
  gid : Nat
  also : List Nat
  core : Nat
  ctx : Nat
  team : Nat
  chain : Nat
  grid : Nat
  tok : Option Nat
  kind : AKind
  err : Bool
  ran : Bool
  part : Bool
deriving DecidableEq, Repr

/-- What the device holds about an operation that a continuation object lists as pending (R332): its context, whether it is in
flight, else its status, and the scope named in `susp` (R296). -/
structure Done where
  ctx : Nat
  live : Bool
  status : Byte
  sc : Scope
deriving DecidableEq, Repr

/-- Easel operations (R223-R236). Operand images are those at issue (R226): 32 lanes of images. -/
inductive EKind
  | pass (fmt : MFmt) (mx za dk sat tr : Bool) (q : Nat) (a b : List (List Image)) (sc gam : List Image)
  | lutB (n : Nat) (a : List (List Image)) (code : List Image) (act : Word)
  | lutA (n : Nat) (za dk : Bool) (q : Nat) (tbl : Nat) (b : List (List Image)) (gam : List Image) (act : Word)
  | zero (wh : Bool) (q : Nat)
  | loadMem (f : CnF) (wh : Bool) (q : Nat) (rows : List (List Seg))
  | loadReg (f : CnF) (q : Nat) (rows : List (Nat × List Image))
  | scale (wh : Bool) (q : Nat) (rows : List (Nat × List Image))
  | storeMem (segs : List Seg) (bytes : List (List Byte))
deriving DecidableEq, Repr

/-- A posted easel operation. `also` are the home groups of the lanes that a compacted group held at issue (R279). `done` says that its canvas entries are written and only its completion is
outstanding (R237). `bBase` and `ver` identify the B fragment for fusion (R412). -/
structure EOp where
  id : Nat
  gid : Nat
  also : List Nat
  core : Nat
  team : Nat
  ctx : Nat
  cv : Nat
  cv2 : Option Nat
  kind : EKind
  posted : Nat
  prio : Nat
  kb : Nat
  kn : Nat
  bBase : Nat
  bRegs : Nat
  ver : Nat
  bw : Bool
  done : Bool
deriving DecidableEq, Repr

/-- A `cnal.grow.w` that waits (R222): its group, its n, and what completes the instruction: its common fields, its
predicate and its `Active(g)`. -/
structure Grow where
  gid : Nat
  n : Nat
  k : Com
  pD : BitVec 3
  act : Word
deriving DecidableEq, Repr

/-- A cluster: easel slots, posted operations in acceptance order, waiting grows in issue order, event
queue, cluster TLB, and the physical cluster that serves it (R216, R222, R249, R411, R426, R473). `corr` are the cycles of its
corrected errors of the last second (R473). -/
structure Cluster where
  free : Nat
  ops : List EOp
  grows : List Grow
  evq : List EvRec
  tlb : List TlbE
  phys : Nat
  retired : Bool
  corr : List Nat
deriving DecidableEq, Repr

def Cluster.init (n : Nat) : Cluster := ⟨32, [], [], [], [], n, false, []⟩

/-- An update packet (R353, R440): the die `src` whose write it carries, that write's number there and its clock, and the
bytes of one line. `home` says that it goes to the home, and not to a guest copy; `cls`, `ctx` and `chain` are those of the
access; `clr` are units that it clears of poison, `psn` units that it marks (R355). `snd` is the die that sent it, and `old` says
that a link of the route on which it was sent has failed (R441). -/
structure UpdPkt where
  src : Nat
  seq : Nat
  clock : List Nat
  home : Bool
  line : Nat
  bytes : List (Nat × Byte)
  clr : Nat
  key : Nat
  cls : Nat
  ctx : Nat
  chain : Nat
  psn : Nat
  snd : Nat
  old : Bool
deriving DecidableEq, Repr

/-- A line of the memory-side cache (R356-R360): the context that allocated it, its class and chain, and its valid,
written and poisoned 32-byte units. The bytes stand in `mem`. -/
structure MscLine where
  line : Nat
  ctx : Nat
  cls : Nat
  chain : Nat
  epoch : Nat
  prot : Bool
  first : Bool
  val : Nat
  wr : Nat
  p : Nat
  used : Nat
deriving DecidableEq, Repr

/-- A line resident in its home L2: the context and class that allocated it, and its valid, written and poisoned units
(R352, R356). `p` marks the errors of this copy alone. The bytes stand in `mem`. -/
structure L2Line where
  ctx : Nat
  cls : Nat
  chain : Nat
  val : Nat
  wr : Nat
  p : Nat
deriving DecidableEq, Repr

/-- A base die or bridge die (R361-R371). Rows are keyed `bank·8192 + row`, with banks numbered across
channels, pseudo-channels and banks. `q` holds requests not yet served with their KIND, `replies` replies
not delivered with their KIND, HELD and ERR, `wins` the open back-off windows by bank with the requests they
hold, `rowCorr` the corrected errors of a row and `rowBad` the rows with uncorrectable ones (R473), `waitq` requests that wait in
the MSC for a tag, `cols` the column commands of the request served last, by unit and
size in units, with its line (R364). -/
structure Stack where
  q : List (Nat × BasePkt)
  replies : List (Nat × BasePkt × Bool × Bool)
  thresh : Nat
  cnt : SMap Nat
  watch : SMap Nat
  walerts : SMap Nat
  alerts : Nat
  rfmseq : Nat
  heldN : Nat
  lastagg : Nat
  openRow : SMap Nat
  wins : SMap (List (Nat × BasePkt))
  rowCorr : SMap Nat
  rowBad : List Nat
  rowMap : SMap Nat
  spareRows : SMap Nat
  pcMap : SMap Nat
  sparePcs : Nat
  waitq : List (Nat × BasePkt)
  cols : List (Nat × Nat × Nat)
deriving DecidableEq, Repr

def Stack.init : Stack :=
  ⟨[], [], 0x03E8, [], [], [], 0, 0, 0, 0, [], [], [], [], [], [], [], 2, [], []⟩

/-- States of a tier object (R372). -/
inductive TierSt | low | promoting | hbm | demoting
deriving DecidableEq, Repr

/-- A tier object of a VD (R372-R376, R429). `pins` are contexts. `order` is the promotion order. `waiters` are groups
whose access waits, `failed` those whose access the failure of the lower tier ends, `queue` the `tier` operations on it in arrival
order, `wrote` the units of its frames written since promotion (R374). -/
structure TObj where
  st : TierSt
  frames : List Nat
  pins : List Nat
  order : Nat
  chain : Nat
  lost : Bool
  waiters : List Nat
  failed : List Nat
  queue : List Nat
  wrote : List Nat
deriving DecidableEq, Repr

def TObj.init : TObj := ⟨.low, [], [], 0, 0, false, [], [], [], []⟩

/-- A `tier` instruction in flight (R213): its group, destination register, function code, objects still to do and the status bits so far. -/
structure TierOp where
  gid : Nat
  ctx : Nat
  d : Option Nat
  kind : Nat
  objs : List Nat
  status : Nat
deriving DecidableEq, Repr

end Sys2Proof.Machine
end

