-- ==== Sys2Proof/Machine/DevState.lean ====
section
/-! DEFINITION. The state of dispatchers, tenants, fabric and firmware (11 R310-R320, 16, 17, 18, 19, 20),
as plain data. -/

namespace Sys2Proof.Machine

/-- Metering counters of a VD on a die (R436). -/
structure Meter where
  issue : Nat
  pass64 : Nat
  pass32 : Nat
  passlo : Nat
  bhbm : Nat
  bcxl : Nat
  bflash : Nat
  lanecyc : Nat
  qwait : Nat
deriving DecidableEq, Repr

def Meter.init : Meter := ⟨0, 0, 0, 0, 0, 0, 0, 0, 0⟩

/-- Counters of a context on a die (R377, R415): `ev` and `cy` by cause code. -/
structure CtxCtr where
  ev : SMap Nat
  cy : SMap Nat
  cdead : Nat
  launches : Nat
  refusals : Nat
  qwait : Nat
  trunc : Nat
deriving DecidableEq, Repr

def CtxCtr.init : CtxCtr := ⟨[], [], 0, 0, 0, 0, 0⟩

/-- A reliability record (R471). -/
structure RelRec where
  src : Nat
  sev : Nat
  die : Nat
  unit : Nat
  ctx : Nat
  loc : Nat
  cyc : Nat
  count : Nat
deriving DecidableEq, Repr

/-- A die (R289, R353, R354, R356-R360, R396-R398, R436, R462-R469, R477, R481). `clock` is the vector
clock, `upd` the received updates, `holders` the guest holders of home lines, `hostHeld` the home lines
that a host may hold. `chains` are the live chains with their epochs. `part`, `fsw` are raw registers.
`relBuf` holds records kept while RLBASE is 0, and `relOpen` those of corrected errors that later errors of their unit may join,
each with its place in the log or none in the buffer (R471). `term` to `granted` are the lease of R467: the term known, whether it
has lapsed, the term it leads, the grants received, the highest term claimed that it saw, whether it has claimed, and its own
grant. -/
structure Die where
  clock : List Nat
  upd : List UpdPkt
  guest : SMap Line
  far : SMap Line
  l2 : SMap L2Line
  holders : SMap Nat
  hostHeld : SMap Bool
  msc : SMap MscLine
  mscTime : Nat
  chains : List (Nat × Nat)
  epoch : Nat
  part : SMap Nat
  fsw : SMap Nat
  deficit : SMap Int
  rr : Nat
  charged : SMap Nat
  meter : SMap Meter
  ctr : SMap CtxCtr
  cyc : Nat
  stage : Nat
  trained : Bool
  relBuf : List RelRec
  relOpen : List (RelRec × Option Nat)
  term : Nat
  lapsed : Bool
  leaderOf : Option Nat
  grants : List Nat
  claimSeen : Nat
  claimed : Bool
  granted : Option (Nat × Nat)
  lmsLeaf : Nat
  lmsTop : Nat
  taskSeq : Nat
  svnMin : Nat
  temp : Int
  heat : Nat
  spareCl : Nat
deriving DecidableEq, Repr

/-- The highest array clock step: 1.7 GHz, in 50 MHz steps above 0.85 GHz (R476). -/
def clockTop : Nat := 17

def Die.init : Die :=
  ⟨[], [], [], [], [], [], [], [], 0, [], 0, [], [], [], 0, [], [], [], 0, 0, false, [], [], 0, true, none, [], 0, false, none,
   0, 0, 1, 0, 25, 0, 2⟩

/-- A launch record's fields (R389). -/
structure LaunchRec where
  flags : Nat
  desc : DWord
  codeap : Half
  apers : List Half
  gx : Nat
  gy : Nat
  gz : Nat
  argoff : DWord
  argap : Half
  prio : Nat
  seed : Word
  gridid : Nat
  pred : Nat
  chain : Nat
  dies : Nat
  msix : Nat
  compoff : DWord
  compap : Half
  evtag : Nat
  evcl : Nat
  wcl : Nat
  waittag : Nat
  waitcnt : Nat
  tslen : Nat
  tsap : Half
  tsoff : DWord
deriving DecidableEq, Repr

/-- A kernel descriptor's fields (R112). -/
structure Desc where
  span : Nat
  fuse : Bool
  cores : Bool
  entry : DWord
  tvec : DWord
  codesize : Nat
  g : Nat
  s : Nat
  p : Nat
  c : Nat
  vbn : Nat
  vbp : Nat
  vbc : Nat
  sregs : Nat
  scratch : Nat
  canvas : Nat
  curve : Nat
  argbytes : Nat
  shx : Nat
  shy : Nat
  shz : Nat
  strip : Nat
  barp : List Nat
  barc : List Nat
deriving DecidableEq, Repr

/-- States of a queue slot (R392). -/
inductive SlotSt | queued | held | dispatching | running
deriving DecidableEq, Repr

/-- A range of untaken curve indices and the requester that holds it: a core, or a cluster under a span
above 1 (R401). -/
structure Range where
  lo : Nat
  hi : Nat
  holder : Option Nat
deriving DecidableEq, Repr

/-- What the device writes for itself, in the order in which it does (R394, R395, R424, R427, R430): a fault-queue record of a
VD, bytes at an IPA of a VD, bytes in a context, or the interrupt of a vector. -/
inductive DevAct
  | post (v : Nat) (bs : List Byte)
  | ipa (v ipa : Nat) (bs : List Byte)
  | ctx (die cx cls : Nat) (ap : Half) (off : DWord) (bs : List Byte)
  | irq (v vec : Nat)
deriving DecidableEq, Repr

/-- The VD for which it is. -/
def DevAct.vd : DevAct → Nat
  | .post v _ | .ipa v _ _ | .irq v _ => v
  | .ctx _ cx _ _ _ _ => cx / 256

/-- The part of a grid on one die, with the queue slot that holds it (R391, R392). -/
structure Part where
  die : Nat
  qslot : Nat
  st : SlotSt
  ranges : List Range
deriving DecidableEq, Repr

/-- A grid (R390-R394, R403, R406-R409, R254, R261, R271). `recv` is the die that received its packet, `queue` its queue
and `prevQ` the grid before it there;
`succ` says that another follows it (R393). `parent` is the spawning group and token,
`also` further groups in whose program order the spawn stands (R279, R292). `ran` counts teams made runnable,
`retired` those retired, `saved` those that live in an image (R310) and `relGrps` what those had released, by team and
slot (16 for the team). `wu` counts work in 1/1,024 units (R397). `fwd` holds grid-barrier arrivals and releases on their way to the
die that counts them, by group and barrier, 4 for a release (R259, R313, R406). `placing` says that its dies wait for it (R406), `refused` the reason
of a refused launch (R390), `posted` that its completion record is written (R394), `tag` the chain that tags its requests, 0 where it was not
live at acceptance (R359). -/
structure Grid where
  recv : Nat
  vd : Nat
  ctx : Nat
  queue : Nat
  prevQ : Option Nat
  succ : Bool
  seq : Word
  addr : DWord
  aper : Half
  lr : LaunchRec
  desc : Desc
  teams : Nat
  parts : List Part
  pred : Option Nat
  parent : Option (Nat × Nat)
  also : List Nat
  parentGrid : Option Nat
  ran : Nat
  retired : Nat
  relTeams : Nat
  trunc : Bool
  fault : Bool
  heldSeen : Nat
  accepted : Nat
  wu : Nat
  bars : SMap BarSide
  blocks : SMap (List BarSide)
  fwd : List (Nat × Nat)
  det : Nat
  saved : Nat
  relGrps : List (Nat × Nat)
  placing : Bool
  refused : Option Nat
  posted : Bool
  tag : Nat
deriving DecidableEq, Repr

/-- A pre-emption cut of a context that is under way (R310, R414): the cluster cut, or 65,535 for all; the die that
received the packet; the PA of the image directory for a VDSAVE (R434); the save area, status record and number of the
packet; and the packets that wait for its end. -/
structure Cut where
  target : Nat
  die : Nat
  pa : Option Nat
  addr : DWord
  aper : Half
  stoff : DWord
  seq : Word
  waiting : List NotifyWr
deriving DecidableEq, Repr

/-- A context (R421, R422): its cached table entry and its cut. `stopped` says that a cut of its own packets stopped it,
`vstop` that a VDSAVE did (R310, R434), `faults` the targets whose saves faulted, each with the area it named: what the cut stopped stays
stopped (R314). -/
structure Ctx where
  pasid : Nat
  s1root : Nat
  revoked : Bool
  dbg : Bool
  cut : Option Cut
  stopped : Bool
  vstop : Bool
  faults : List (Nat × Half × DWord)
  halts : List Nat
deriving DecidableEq, Repr

/-- A VD table entry (R418). -/
structure VdEnt where
  s2root : DWord
  totbase : DWord
  tpbase : DWord
  tpframes : Nat
  pinlim : Nat
  flags : Nat
  skey : Nat
  nvec : Nat
deriving DecidableEq, Repr

def VdEnt.init : VdEnt := ⟨0, 0, 0, 0, 0, 0, 0, 0⟩

/-- A remapping entry (R430). -/
structure Remap where
  addr : DWord
  data : Word
  valid : Bool
  mask : Bool
  pend : Bool
deriving DecidableEq, Repr

def Remap.init : Remap := ⟨0, 0, false, false, false⟩

/-- A virtual device: its table entry as written and in force, owner window, remapping table and tier
objects (R418, R423, R427, R430). `saving` says that acceptance has stopped (R434), `queued` holds packets not accepted
yet, `cmds` the owner-window commands of its window that have not completed, by OP plus 256 times the phase reached, the
running one first (R424). `ctab` are the valid entries of the context table in force, none before the first look at it (R421,
R422; log 100), and `reset` says that a reset of the VD runs: 1 for `VDRESET`, 2 for a function-level reset (R435). -/
structure Vd where
  ent : VdEnt
  inf : VdEnt
  ctbase : DWord
  fqbase : DWord
  fqsize : Nat
  fqvec : Nat
  fqhead : Word
  fqovf : Word
  fqtail : Word
  remap : SMap Remap
  objs : SMap TObj
  promoted : Nat
  saving : Bool
  queued : List NotifyWr
  cmds : List (Nat × OwnCmd)
  ctab : Option (SMap (Nat × Nat × Nat))
  reset : Nat
deriving DecidableEq, Repr

def Vd.init : Vd :=
  ⟨VdEnt.init, VdEnt.init, 0, 0, 16, 0, 0, 0, 0, [], [], 0, false, [], [], none, 0⟩

/-- A window of the fabric window table in force (R447). -/
structure Fwt where
  base : Nat
  size : Nat
  kind : Nat
  ways : Nat
  gran : Nat
  targets : List Nat
  lost : List Nat
deriving DecidableEq, Repr

/-- A rank of a communicator (R449). -/
structure Rank where
  path : Nat
  mod : Nat
  die : Nat
  pasid : Nat
  endp : Nat
  vd : Nat
deriving DecidableEq, Repr

/-- A communicator in force (R449). -/
structure Comm where
  valid : Bool
  vd : Nat
  ranks : List Rank
deriving DecidableEq, Repr

/-- What a transport packet says (R452). -/
structure NetMsg where
  opc : Nat
  comm : Nat
  src : Nat
  dst : Nat
  psn : Nat
  msg : Nat
  offset : Nat
  ack : Nat
  data : List Byte
deriving DecidableEq, Repr

/-- A frame that a die's Ethernet port sends (R451, R452): the next hop's address, the 802.1Q tag, DSCP, the addresses and UDP ports
of both endpoints, and the UDP payload. -/
structure NetFrame where
  die : Nat
  mac : List Byte
  vlan : Option Nat
  dscp : Nat
  srcIp : List Byte
  dstIp : List Byte
  srcPort : Nat
  dstPort : Nat
  payload : List Byte
deriving DecidableEq, Repr

/-- An endpoint in force (R451). -/
structure NetE where
  bytes : List Byte
deriving DecidableEq, Repr

/-- A task acceptance entry in force (R459): its index in the table, and its fields. -/
structure TaskAcc where
  valid : Bool
  modid : Nat
  die : Nat
  xvd : Nat
  xpasid : Nat
  lastrst : Nat
  lastseq : Nat
  epub : List Byte
  lpub : List Byte
deriving DecidableEq, Repr

/-- A participant of a pending collective (R250-R252): `also` further groups in whose program order it stands (R279), `id` names the operation for its token, `kind` is FN, `data`
the elements of its send buffer with their poison, `was` the bytes of its receive buffer at issue. -/
structure CollRank where
  rank : Nat
  gid : Nat
  also : List Nat
  ctx : Nat
  core : Nat
  team : Nat
  grid : Nat
  tok : Option Nat
  id : Nat
  kind : Nat
  ty : AcTy
  n : Nat
  send : List Seg
  recv : List Seg
  was : List Byte
  data : List Nat
  pz : List Bool
deriving DecidableEq, Repr

/-- A message of a rank as far as it has come: its bytes, and the 32-byte units of it that arrived poisoned (R460). -/
structure CollMsg where
  bytes : List Byte
  psn : List Nat
deriving DecidableEq, Repr

/-- A pending collective of a communicator: ranks joined, messages received (by sending rank times 65,536 plus
receiving rank), whether a peer withdrew (R252), whether its communicator changed meanwhile (R445), and the ranks
complete. -/
structure Coll where
  comm : Nat
  inst : Nat
  ranks : List CollRank
  remote : SMap CollMsg
  wdrn : Bool
  chg : Bool
  doneRanks : List Nat
deriving DecidableEq, Repr

/-- A connection of a rank pair (R453): `src` the rank of this module, `dst` the peer; the next number to send, the next
expected, unacknowledged packets with the oldest first, and resends of the oldest. -/
structure Conn where
  comm : Nat
  src : Nat
  dst : Nat
  psn : Nat
  expect : Nat
  unacked : List NetMsg
  resends : Nat
deriving DecidableEq, Repr

/-- States of a task slot (R458). -/
inductive TaskSt | free | signing | sent | badbody
deriving DecidableEq, Repr

/-- A task slot (R458). -/
structure TaskSlot where
  body : List Byte
  st : TaskSt
deriving DecidableEq, Repr

/-- A granted extent (R455, R456). -/
structure Extent where
  base : Nat
  size : Nat
  tag : Nat
  holder : Nat
  key : Nat
deriving DecidableEq, Repr

/-- A pending back-invalidation of a line, and the holders that have not answered (R444, R457). -/
structure BackInv where
  line : Nat
  wait : List Nat
deriving DecidableEq, Repr

/-- One direction of a mesh link between two dies (R439, R441, R473). -/
structure Link where
  failed : Bool
  spares : Nat
  retries : Nat
deriving DecidableEq, Repr

def Link.init : Link := ⟨false, 2, 0⟩

/-- A CXL port with its link up (R442, R443): its rate in GT/s, its lanes and its PBR ID. -/
structure Port where
  rate : Nat
  lanes : Nat
  pbr : Nat
deriving DecidableEq, Repr

/-- A task packet accepted whose launch waits for a tier object (R373, R459): its entry, context and launch record. -/
structure TaskIn where
  entry : Nat
  xvd : Nat
  pasid : Nat
  body : List Byte
deriving DecidableEq, Repr

/-- What leaves the module: interrupt messages, frames of the Ethernet ports, messages between collective engines and task packets
by a CXL port, the receipt of a task packet, SPDM answers, back-invalidations and their responses, answers to CXL.mem requests
with the poison of each 32-byte unit (R430, R443, R444, R450-R452, R457, R458, R460, R470). -/
inductive OutMsg
  | msi (addr : DWord) (data : Word)
  | net (f : NetFrame)
  | engine (port : Option Nat) (p : NetPkt)
  | task (die target : Nat) (port : Option Nat) (bytes : List Byte)
  | taskAck (modid die seq : Nat)
  | spdm (kind : Nat) (bytes : List Byte)
  | backInv (line : Nat)
  | backInvResp (line : Nat)
  | hostData (pa : Nat) (bytes : List Byte) (psn : List Bool)
  | halt (gid : Nat) (n : Word)
  | rate (die stack : Nat) (deferred : Bool)
  | viral
deriving DecidableEq, Repr

/-- The module as a whole (R430, R432, R437, R445-R449, R461-R467, R472, R478-R479). Lists `comms`, `nets`,
`taccs`, `fwt` are the tables in force. `keys` counts the keys drawn for a KEYID. `snoop` is the snoop filter: the holders of a
line, as a mask; `snoopQ` holds requests that wait for room in it or for copies, with whether they grant ownership (R457). `ports` are the trained CXL
ports, `taskQ` holds accepted task packets whose launch waits, and `repFlash` the counters of each VD's last report as flash
keeps them (R437). -/
structure Module where
  expander : Bool
  power : Bool
  trip : Option Nat
  cap : Nat
  drop : Nat
  fail : Nat
  leader : Nat
  featoff : Nat
  featsel : Nat
  featon : Nat
  rlbase : Nat
  rlsize : Nat
  rltail : Nat
  modid : Nat
  neten : Bool
  viral : Bool
  portup : Nat
  ports : SMap Port
  fwtbase : Nat
  fwtcnt : Nat
  commbase : Nat
  commcnt : Nat
  netbase : Nat
  netcnt : Nat
  taccbase : Nat
  tacccnt : Nat
  collSeq : SMap Nat
  fwt : List Fwt
  comms : List Comm
  nets : List NetE
  taccs : List TaskAcc
  resets : Nat
  seq : Nat
  repFlash : SMap (List Byte)
  copyA : FwCopy
  copyB : FwCopy
  keys : SMap Nat
  links : SMap Link
  lost : List Nat
  lostExt : List (Nat × Nat)
  colls : List Coll
  conns : List Conn
  tasks : SMap TaskSlot
  taskQ : List TaskIn
  extents : List Extent
  snoop : SMap Nat
  snoopQ : List (Bool × HostReq)
  backInvs : List BackInv
  out : List OutMsg
deriving DecidableEq, Repr

/-- The module at reset: both firmware copies sound, power on, cap 100 % (logs 7, 14). -/
def Module.init : Module :=
  { expander := false, power := true, trip := none, cap := 100, drop := 0, fail := 0, leader := 0xFF,
    featoff := 0x3F, featsel := 0, featon := 0, rlbase := 0, rlsize := 16, rltail := 0, modid := 0,
    neten := false, viral := false, portup := 0, ports := [], fwtbase := 0, fwtcnt := 0, commbase := 0, commcnt := 0,
    netbase := 0, netcnt := 0, taccbase := 0, tacccnt := 0, collSeq := [], fwt := [], comms := [], nets := [],
    taccs := [], resets := 0, seq := 0, repFlash := [], copyA := ⟨0, true, true, true⟩, copyB := ⟨0, true, true, true⟩,
    keys := [], links := [], lost := [], lostExt := [], colls := [], conns := [], tasks := [], taskQ := [],
    extents := [], snoop := [], snoopQ := [], backInvs := [], out := [] }

end Sys2Proof.Machine
end

