-- ==== Sys2Proof/Machine/State.lean ====
section
/-! DEFINITION. The state of the machine (01_machine_model.md, 14_memory_tiers.md, 16_scheduling.md,
17_tenancy_translation.md, 18_fabric_expander.md, 19_firmware_ras_security.md), its faults and refusals,
and its value right after reset. -/

namespace Sys2Proof.Machine

/-- One move of the schedule: a group issues its next instruction, or issues it and is stopped at the step boundary `k`
of a long one (R309, R310), or a device step takes place (log 1). -/
inductive Move
  | issue (gid : Nat)
  | part (gid k : Nat)
  | event (i : Instr)
deriving DecidableEq, Repr

/-- The state. `clk`, `agenda`, `cur`, `turn`, `nid`, `draws` are the model's own (logs 1, 2): the count of steps,
the moves that come next, the group that is issuing and the step at which a long instruction stops, the count of issues that the model's schedule chose, the next
record number and the next draw of a free value. `mem` is physical memory (R342), `poison` the poisoned 32-byte units, `keyOf` the key each unit was
written under, `flash` the flash pages, `dones` the operations that continuation objects list as pending (R332), `devQ` the records and interrupts of the device that wait for
a tier object (R373), or stand behind one that does. Cores are keyed die·128 + core, clusters die·32 + cluster, stacks
die·2 + stack, contexts vd·256 + c. -/
structure State where
  clk : Nat
  agenda : List Move
  cur : Option Nat
  lim : Option Nat
  turn : Nat
  nid : Nat
  draws : Nat
  groups : SMap Group
  teams : SMap Team
  canvases : SMap Canvas
  cores : SMap Core
  clusters : SMap Cluster
  dies : SMap Die
  hbms : SMap Stack
  mem : List Host.Cell
  poison : SMap Bool
  keyOf : SMap Nat
  flash : List Host.Cell
  aops : SMap AOp
  tops : SMap TierOp
  dones : SMap Done
  grids : SMap Grid
  ctxs : SMap Ctx
  vds : SMap Vd
  aqis : SMap Nat
  devQ : List DevAct
  mod : Module
deriving DecidableEq, Repr

/-- Why the machine stops. -/
inductive Fault
  /-- Raised by `step` alone, when hardware has removed power (R478, R481) and the next move is not
  POWER_ON: nothing runs without power. Safe. -/
  | noPower
deriving DecidableEq, Repr

/-- Why the model refuses. -/
inductive Refusal
  /-- An instruction that the model gives no meaning, by its mnemonic. Safe. -/
  | notModelled (mnemonic : String)
deriving DecidableEq, Repr

/-- The machine right after a cold reset: stage 0 of R462 on every die, nothing resident, nothing in
memory, the schedule's first move the power-on step. -/
def State.reset : State :=
  { clk := 0, agenda := [], cur := none, lim := none, turn := 0, nid := 1, draws := 0, groups := [], teams := [], canvases := [],
    cores := [], clusters := [], dies := [], hbms := [], mem := [], poison := [], keyOf := [], flash := [],
    aops := [], tops := [], dones := [], grids := [], ctxs := [], vds := [], aqis := [], devQ := [], mod := Module.init }

end Sys2Proof.Machine
end

