-- ==== Sys2Proof/Machine/Mem.lean ====
section
/-! DEFINITION. Physical memory, homes, poison and keys (14 R342-R345, R355, 17 R431-R432, 18 R447), and
accessors of the state's records. -/

namespace Sys2Proof.Machine

/-- The canonical form of memory: addresses strictly rising, no byte listed that reads as an unlisted one. -/
def Memory.wf (m : List Host.Cell) : Bool := SMap.wf (0 : Byte) m

/-- A byte of memory; an unlisted one reads 0 (log 4). -/
def Memory.get (m : List Host.Cell) (a : Nat) : Byte := SMap.getD m 0 a

/-- Write a byte of memory. -/
def Memory.put (m : List Host.Cell) (a : Nat) (b : Byte) : List Host.Cell := SMap.set m (0 : Byte) a b

/-- Write consecutive bytes. -/
def Memory.putBytes (m : List Host.Cell) : Nat → List Byte → List Host.Cell
  | _, [] => m
  | a, b :: bs => Memory.putBytes (Memory.put m a b) (a + 1) bs

/-- Read consecutive bytes. -/
def Memory.getBytes (m : List Host.Cell) (a n : Nat) : List Byte :=
  (List.range n).map (fun i => Memory.get m (a + i))

/-- Little-endian number of bytes (R5). -/
def leNat : List Byte → Nat
  | [] => 0
  | b :: bs => b.toNat + 256 * leNat bs

/-- `n` little-endian bytes of a number (R5). -/
def leBytes : Nat → Nat → List Byte
  | 0, _ => []
  | n + 1, v => BitVec.ofNat 8 v :: leBytes n (v / 256)

namespace State

def die (s : State) (d : Nat) : Die := SMap.getD s.dies Die.init d
def setDie (s : State) (d : Nat) (x : Die) : State := { s with dies := SMap.put s.dies d x }
def updDie (s : State) (d : Nat) (f : Die → Die) : State := s.setDie d (f (s.die d))
def core (s : State) (c : Nat) : Core := SMap.getD s.cores Core.init c
def setCore (s : State) (c : Nat) (x : Core) : State := { s with cores := SMap.put s.cores c x }
def updCore (s : State) (c : Nat) (f : Core → Core) : State := s.setCore c (f (s.core c))
def cluster (s : State) (c : Nat) : Cluster := SMap.getD s.clusters (Cluster.init (c % 32)) c
def setCluster (s : State) (c : Nat) (x : Cluster) : State := { s with clusters := SMap.put s.clusters c x }
def updCluster (s : State) (c : Nat) (f : Cluster → Cluster) : State := s.setCluster c (f (s.cluster c))
def stack (s : State) (k : Nat) : Stack := SMap.getD s.hbms Stack.init k
def setStack (s : State) (k : Nat) (x : Stack) : State := { s with hbms := SMap.put s.hbms k x }
def updStack (s : State) (k : Nat) (f : Stack → Stack) : State := s.setStack k (f (s.stack k))
def vd (s : State) (v : Nat) : Vd := SMap.getD s.vds Vd.init v
def setVd (s : State) (v : Nat) (x : Vd) : State := { s with vds := SMap.put s.vds v x }
def updVd (s : State) (v : Nat) (f : Vd → Vd) : State := s.setVd v (f (s.vd v))
def setGroup (s : State) (i : Nat) (g : Group) : State := { s with groups := SMap.put s.groups i g }
def updGroup (s : State) (i : Nat) (f : Group → Group) : State := { s with groups := SMap.upd s.groups i f }
def updTeam (s : State) (i : Nat) (f : Team → Team) : State := { s with teams := SMap.upd s.teams i f }
def updGrid (s : State) (i : Nat) (f : Grid → Grid) : State := { s with grids := SMap.upd s.grids i f }
def updCtx (s : State) (i : Nat) (f : Ctx → Ctx) : State := { s with ctxs := SMap.upd s.ctxs i f }
def updMod (s : State) (f : Module → Module) : State := { s with mod := f s.mod }
def updTop (s : State) (i : Nat) (f : TierOp → TierOp) : State := { s with tops := SMap.upd s.tops i f }

/-- A fresh record number. -/
def fresh (s : State) : State := { s with nid := s.nid + 1 }

/-- The next draw of a free value. -/
def draw (s : State) : State := { s with draws := s.draws + 1 }

/-- Something leaves the module. -/
def emit (s : State) (o : OutMsg) : State := s.updMod (fun m => { m with out := m.out ++ [o] })

/-- Metering of a VD on a die (R436); counters saturate at 2^64 - 1. -/
def meter (s : State) (d v : Nat) (f : Meter → Meter) : State :=
  s.updDie d (fun x => { x with meter := SMap.put x.meter v (f (SMap.getD x.meter Meter.init v)) })

/-- Counters of a context on a die (R377, R415). -/
def count (s : State) (d c : Nat) (f : CtxCtr → CtxCtr) : State :=
  s.updDie d (fun x => { x with ctr := SMap.put x.ctr c (f (SMap.getD x.ctr CtxCtr.init c)) })

/-- A 64-bit counter (R378, R415). -/
def ctr64 (n : Nat) : Nat := n % 2 ^ 64

/-- One event of a tier-stall cause and the cycles it adds, which the spec leaves to timing (R377). -/
def stall (s : State) (d c cause : Nat) (timed : Bool) : State :=
  let cy := if timed then Config.freeNat s.draws else 0
  (s.count d c (fun x => { x with
    ev := SMap.put x.ev cause (ctr64 (SMap.getD x.ev 0 cause + 1))
    cy := SMap.put x.cy cause (ctr64 (SMap.getD x.cy 0 cause + cy)) })).draw

/-- A CXL read, or a promotion from an extent that a group awaits, is complete: a free value says whether it was late (R377). -/
def cxlRead (s : State) (d c : Nat) : State :=
  if Config.freeNat s.draws % 2 == 1 then s.draw.stall d c 2 true else s.draw

/-- An access of a context is refused, poisoned or discarded by the loss of an extent (R377). -/
def lostHit (s : State) (d c : Nat) : State := s.stall d c 3 false

end State

/-- Saturating addition of a metering counter (R436). -/
def satAdd (a b : Nat) : Nat := min (a + b) (2 ^ 64 - 1)

/-- Work units of metering counters, in units of 1/1,024 (R397). -/
def Meter.wu1024 (m : Meter) : Nat :=
  256 * m.issue + 8192 * m.pass64 + 4096 * m.pass32 + 1024 * m.passlo + m.bhbm + 4 * (m.bcxl + m.bflash)

/-- Work units of a VD on every die. -/
def State.wuOf (s : State) (v : Nat) : Nat :=
  s.dies.foldl (fun a e => a + (SMap.getD e.2.meter Meter.init v).wu1024) 0

/-- Charge a team's grid with what its VD consumed between two states (R395, R397). -/
def State.charge (s0 s1 : State) (team v : Nat) : State :=
  let w := s1.wuOf v - s0.wuOf v
  match SMap.get? s1.teams team with
  | some t => if w == 0 then s1 else s1.updGrid t.grid (fun (g : Grid) => { g with wu := g.wu + w })
  | none => s1

/-- Dies of the module. -/
def Module.dies (m : Module) : Nat := if m.expander then 4 else 16

/-- Where a physical address leads (R342, R344, R345, R447). -/
inductive Place
  | die (d : Nat)
  | cxl (kind target idx : Nat)
  | hole
deriving DecidableEq, Repr

/-- The granule of an interleave code (R447). -/
def fwtGran (ig : Nat) : Option Nat :=
  match ig with | 0 => some 256 | 1 => some 4096 | 2 => some 65536 | _ => none

/-- A window decodes an address: its kind, ways and granule are legal and its range holds it (R447). -/
def Fwt.holds (m : Module) (f : Fwt) (pa : Nat) : Bool :=
  1 ≤ f.kind && f.kind ≤ 6 && !(f.kind == 3 && !m.featon.testBit 5 && !m.expander) &&
    (f.ways == 1 || f.ways == 2 || f.ways == 4 || f.ways == 8) &&
    (fwtGran f.gran).isSome && f.base ≤ pa && pa < f.base + f.size

/-- The first window that holds an address, with its index. -/
def fwtFind (m : Module) (pa : Nat) : Option (Fwt × Nat) :=
  m.fwt.zipIdx.find? (fun e => e.1.holds m pa)

/-- Decode of a physical address. -/
def Module.place (m : Module) (pa : Nat) : Place :=
  if m.expander then
    if pa / 2 ^ 41 < 4 && pa % 2 ^ 41 < 3 * 2 ^ 39 then .die (pa / 2 ^ 41) else .hole
  else if pa < 2 ^ 41 then .die (pa / 2 ^ 37)
  else match fwtFind m pa with
    | some (f, i) =>
      .cxl f.kind (f.targets.getD ((pa - f.base) / (fwtGran f.gran).getD 256 % f.ways) 0) i
    | none => .hole

/-- A lost place: a target marked lost, or a lost extent (R461). -/
def Module.isLost (m : Module) (pa : Nat) : Bool :=
  match m.place pa with
  | .cxl _ t _ => m.lost.contains t || m.lostExt.any (fun e => e.1 ≤ pa && pa < e.1 + e.2)
  | _ => false

/-- A stretch meets a lost place. -/
def Module.anyLost (m : Module) (pa n : Nat) : Bool :=
  !(m.lost.isEmpty && m.lostExt.isEmpty) &&
    (List.range ((pa % 256 + n + 255) / 256)).any (fun i => m.isLost (max pa (pa / 256 * 256 + 256 * i)))

/-- The key that data at an address is written under: the path to CXL memory encrypts none of it (R431, R456). -/
def Module.dataKey (m : Module) (pa key : Nat) : Nat := match m.place pa with | .cxl .. => 0 | _ => key

/-- The tag under which a unit is written: a KEYID with the number of keys drawn for it (R432). KEYID 0 is
plaintext. -/
def Module.keyTag (m : Module) (key : Nat) : Nat :=
  if key == 0 then 0 else key + 256 * (SMap.getD m.keys 0 key + 1)

/-- Units of 32 bytes that an access touches. -/
def unitsOf (a n : Nat) : List Nat :=
  (List.range (if n == 0 then 0 else (a + n - 1) / 32 - a / 32 + 1)).map (fun i => a / 32 + i)

/-- `n` unpredictable bytes (R8). -/
def State.freeBytes (s : State) (n : Nat) : State × List Byte :=
  (s.draw, (List.range n).map (Config.freeByte s.draws))

/-- A unit is poisoned where its home holds it: in memory, or in the copy that L2 holds (R355). -/
def State.unitP (s : State) (u : Nat) : Bool :=
  SMap.getD s.poison false u || (match s.mod.place (32 * u) with
    | .die h => ((SMap.get? (s.die h).l2 (u / 8)).elim 0 (fun l => l.p)).testBit (u % 8)
    | _ => false)

/-- Read at the home under a key: bytes and poison. A unit written under another key reads as
unpredictable bytes (R432). -/
def State.homeRead (s : State) (a n key : Nat) : State × List Byte × Bool :=
  let p := (unitsOf a n).any s.unitP
  let bad (u : Nat) : Bool := SMap.getD s.keyOf 0 u != key
  if (unitsOf a n).any bad then
    (s.draw, (List.range n).map (fun i =>
      if bad ((a + i) / 32) then Config.freeByte s.draws i else Memory.get s.mem (a + i)), p)
  else (s, Memory.getBytes s.mem a n, p)

/-- A unit is about to be written under a key: what it holds under another key becomes unpredictable (R432). -/
def State.rekey (s : State) (key u : Nat) : State :=
  if SMap.getD s.keyOf 0 u == key then s
  else
    let f := s.freeBytes 32
    { f.1 with mem := Memory.putBytes s.mem (32 * u) f.2, keyOf := SMap.set s.keyOf 0 u key }

/-- Units are written: a tier object in whose frames they lie keeps count of them (R374). -/
def TObj.note (o : TObj) (us : List Nat) : TObj :=
  { o with wrote := o.wrote ++ us.filter (fun u => o.frames.contains (u / 2048 * 65536) && !o.wrote.contains u) }

/-- Units are written at their home. -/
def noteUnits (vds : SMap Vd) (us : List Nat) : SMap Vd :=
  SMap.mapV (fun (v : Vd) => { v with objs := SMap.mapV (fun (o : TObj) => o.note us) v.objs }) vds

/-- Write at the home: bytes, and the poison mark of each wholly covered unit cleared (R355). -/
def State.homeWrite (s : State) (a : Nat) (bs : List Byte) (key : Nat) : State :=
  let us := unitsOf a bs.length
  let s := us.foldl (fun s u => s.rekey key u) s
  { s with
    vds := noteUnits s.vds us
    mem := Memory.putBytes s.mem a bs
    poison := us.foldl (fun p u =>
      if a ≤ 32 * u && 32 * u + 32 ≤ a + bs.length then SMap.set p false u false else p) s.poison }

/-- Write scattered bytes at the home, clearing the named units' poison. -/
def State.homeBytes (s : State) (bs : List (Nat × Byte)) (clr : List Nat) (key : Nat) : State :=
  let us := (bs.map (fun b => b.1 / 32)).eraseDups
  let s := us.foldl (fun s u => s.rekey key u) s
  { s with
    vds := noteUnits s.vds us
    mem := bs.foldl (fun m b => Memory.put m b.1 b.2) s.mem
    poison := clr.foldl (fun p u => SMap.set p false u false) s.poison }

/-- Mark units poisoned (R355). -/
def State.poisonUnits (s : State) (us : List Nat) : State :=
  { s with poison := us.foldl (fun p u => SMap.set p false u true) s.poison }

/-- A table entry read at its home under a key, by a walker or engine: bytes written under another key, and those that no
range holds, are unpredictable (R345, R432, log 99). -/
def State.rdTab (s : State) (a n key : Nat) : Nat :=
  let k := s.mod.dataKey a key
  if s.mod.place a == .hole || (unitsOf a n).any (fun u => SMap.getD s.keyOf 0 u != k) then
    leNat ((List.range n).map (Config.freeByte s.draws))
  else leNat (Memory.getBytes s.mem a n)

/-- The same of what system software placed by physical address, in plaintext. -/
def State.rdNat (s : State) (a n : Nat) : Nat := s.rdTab a n 0

/-- The die's reference clock, read: running, never smaller than an earlier reading (R39). -/
def State.readCyc (s : State) (d : Nat) : State × Nat :=
  let v := min (2 ^ 64 - 1) ((s.die d).cyc + Config.freeNat s.draws)
  ((s.updDie d (fun x => { x with cyc := v })).draw, v)

end Sys2Proof.Machine
end

