-- ==== Sys2Proof/Machine/Mesh.lean ====
section
/-! DEFINITION. The mesh of a module and its CXL ports (18 R439-R443): places, links, routes and the port that a die uses. -/

namespace Sys2Proof.Machine

/-- Column and row of a die (R439). -/
def meshAt (m : Module) (d : Nat) : Nat × Nat := if m.expander then (d % 2, d / 2) else (d % 4, d / 4)

/-- The die at a column and row. -/
def meshDie (m : Module) (x y : Nat) : Nat := if m.expander then 2 * y + x else 4 * y + x

/-- The distance between two numbers. -/
def natDist (a b : Nat) : Nat := (a - b) + (b - a)

/-- Links between two dies along rows and columns. -/
def meshHops (m : Module) (a b : Nat) : Nat :=
  natDist (meshAt m a).1 (meshAt m b).1 + natDist (meshAt m a).2 (meshAt m b).2

/-- Two dies share a link (R439). -/
def meshLink (m : Module) (a b : Nat) : Bool := a < m.dies && b < m.dies && meshHops m a b == 1

/-- The key of the direction of a link that leads from a die to its neighbour. -/
def linkKey (a b : Nat) : Nat := 16 * a + b

/-- The numbers from `a` toward `b`, `b` last, without `a`. -/
def countTo (a b : Nat) : List Nat :=
  (List.range (natDist a b)).map (fun i => if a < b then a + i + 1 else a - i - 1)

/-- The dies that a packet visits after its source (R439, R441): along the row to the column of its destination and then along that
column, or, column first, the other way round. -/
def meshRoute (m : Module) (colFirst : Bool) (a b : Nat) : List Nat :=
  let p := meshAt m a
  let q := meshAt m b
  if colFirst then (countTo p.2 q.2).map (fun y => meshDie m p.1 y) ++ (countTo p.1 q.1).map (fun x => meshDie m x q.2)
  else (countTo p.1 q.1).map (fun x => meshDie m x p.2) ++ (countTo p.2 q.2).map (fun y => meshDie m q.1 y)

/-- A route crosses a link in a direction. -/
def routeCrosses (a b : Nat) : Nat → List Nat → Bool
  | _, [] => false
  | x, y :: r => (x == a && y == b) || routeCrosses a b y r

/-- A direction of a link has failed (R441). -/
def Module.linkDown (m : Module) (a b : Nat) : Bool := (SMap.getD m.links Link.init (linkKey a b)).failed

/-- A route crosses a failed link. -/
def Module.routeDown (m : Module) : Nat → List Nat → Bool
  | _, [] => false
  | x, y :: r => m.linkDown x y || m.routeDown y r

/-- The route from a die to another (R439, R441): row first, and column first where a link of that route has failed. -/
def Module.route (m : Module) (a b : Nat) : List Nat :=
  let r := meshRoute m false a b
  if m.routeDown a r then meshRoute m true a b else r

/-- The die of the k-th CXL port (R442, R446). -/
def Module.portDie (m : Module) (k : Nat) : Nat := if m.expander then k else [0, 3, 12, 15].getD k 0

/-- The CXL port that a die's requests leave by (R443): of those whose link is up the one fewest hops away, on a tie that of the
lower-numbered die; none while all are down. -/
def Module.portOf (m : Module) (d : Nat) : Option Nat :=
  ((List.range 4).filter (fun k => m.portup.testBit k)).foldl (fun (b : Option Nat) k => match b with
    | none => some k
    | some x => if meshHops m d (m.portDie k) < meshHops m d (m.portDie x) then some k else some x) none

end Sys2Proof.Machine
end

