-- ==== Sys2Proof/Machine/Translate.lean ====
section
/-! DEFINITION. Translation in two stages (17 R421-R426, R429). -/

namespace Sys2Proof.Machine

/-- Rights that an access needs (R425). -/
structure Need where
  r : Bool
  w : Bool
  x : Bool
deriving DecidableEq, Repr

def needR : Need := ⟨true, false, false⟩
def needW : Need := ⟨false, true, false⟩
def needRW : Need := ⟨true, true, false⟩
def needX : Need := ⟨false, false, true⟩

/-- Result of a translation: an entry; a failure with its cause and the IPA when stage 2 failed; or a tier
object that must be promoted first (R373). -/
inductive TrRes
  | ok (e : TlbE)
  | bad (cause : Byte) (s2 : Option Nat)
  | tier (obj : Nat)
deriving DecidableEq, Repr

/-- Bits `hi:lo` of a number. -/
def bits (v hi lo : Nat) : Nat := v / 2 ^ lo % 2 ^ (hi + 1 - lo)

/-- Lowest address bit indexed at a level, and the number of index bits (R425). -/
def lvlShift (lvl : Nat) : Nat := match lvl with | 0 => 16 | 1 => 29 | 2 => 42 | 3 => 55 | _ => 68
def lvlBits (s2 : Bool) (lvl : Nat) : Nat :=
  match lvl with | 2 => if s2 then 10 else 13 | 4 => 12 | _ => 13

/-- Address of the entry of a table that an address indexes. -/
def entryAt (s2 : Bool) (t a lvl : Nat) : Nat :=
  t + 8 * (a / 2 ^ lvlShift lvl % 2 ^ lvlBits s2 lvl)

/-- V set and no reserved bit set (R425). -/
def entValid (e : Nat) : Bool := e.testBit 0 && bits e 55 52 == 0 && bits e 15 10 == 0 && !e.testBit 2

/-- A leaf may stand at the level, with an address aligned to its size (R425). -/
def leafOk (e lvl : Nat) : Bool := lvl ≤ 2 && (bits e 51 16 * 2 ^ 16) % 2 ^ lvlShift lvl == 0

/-- A stage-2 walk: the leaf entry and its level, or none when it is Not Present. Levels count down. -/
def walk2Loop (s : State) (ipa : Nat) : Nat → Nat → Option (Nat × Nat)
  | 0, _ => none
  | n + 1, t =>
    let e := s.rdNat (entryAt true t ipa n) 8
    if !entValid e then none
    else if e.testBit 1 then walk2Loop s ipa n (bits e 51 16 * 2 ^ 16)
    else if leafOk e n || (e.testBit 7 && !e.testBit 8 && n ≤ 2) then some (e, n) else none

/-- What a stage-2 walk gives: the address, its leaf's size and attributes. -/
structure S2 where
  pa : Nat
  size : Nat
  r : Bool
  w : Bool
  x : Bool
  ms : Bool
  diag : Bool
  key : Nat
  obj : Option Nat
deriving DecidableEq, Repr

/-- The KIND byte of a tier object (R429). -/
def State.objKind (s : State) (v n : Nat) : Nat := s.rdNat ((s.vd v).inf.totbase.toNat + 32 * n) 1

/-- SRC and SIZE of a tier object (R429). -/
def State.objSrc (s : State) (v n : Nat) : Nat := s.rdNat ((s.vd v).inf.totbase.toNat + 32 * n + 8) 8
def State.objSize (s : State) (v n : Nat) : Nat := s.rdNat ((s.vd v).inf.totbase.toNat + 32 * n + 16) 8

/-- The extent of a tier object is lost (R375, R461). -/
def State.objLost (s : State) (v n : Nat) : Bool :=
  (SMap.getD (s.vd v).objs TObj.init n).lost || (s.objKind v n == 2 && s.mod.anyLost (s.objSrc v n) (s.objSize v n))

/-- `Walk2` (R425): identity when S2EN is 0. -/
def walk2 (s : State) (v ipa : Nat) : Except (Option Nat) S2 :=
  let ent := (s.vd v).inf
  if !ent.flags.testBit 1 then
    .ok ⟨ipa, 2 ^ 16, true, true, true, false, false, 0, none⟩
  else match walk2Loop s ipa 3 (bits ent.s2root.toNat 51 16 * 2 ^ 16) with
    | none => .error none
    | some (e, lvl) =>
      let oa := bits e 51 16 * 2 ^ 16
      let size := 2 ^ lvlShift lvl
      if e.testBit 7 then
        if !s.mod.featon.testBit 1 then .error none
        else
          -- the objects' frames keep the object's number beside them (R429)
          let n := if e.testBit 8 then
              ((s.vd v).objs.find? (fun o => o.2.frames.contains oa)).map (fun o => o.1)
            else some (oa / 2 ^ 16)
          if e.testBit 8 then
            let flash := match n with | some k => s.objKind v k == 1 | none => false
            .ok ⟨oa + ipa % size, size, e.testBit 3, e.testBit 4 && !flash, e.testBit 5, e.testBit 6,
              false, bits e 63 56, n⟩
          else .error n
      else .ok ⟨oa + ipa % size, size, e.testBit 3, e.testBit 4, e.testBit 5, e.testBit 6,
        e.testBit 9 && lvl == 0, bits e 63 56, none⟩

/-- A failed stage-2 walk: the object to promote, or Not Present with the IPA. -/
def s2Fail (ipa : Nat) : Option Nat → TrRes
  | some n => .tier n
  | none => .bad 4 (some ipa)

/-- The stage-1 walk from a table (R425). -/
def walk1 (s : State) (c v va : Nat) (need : Need) : Nat → Nat → TrRes
  | 0, _ => .bad 4 none
  | n + 1, t =>
    let at1 := entryAt false t va n
    match walk2 s v at1 with
    | .error o => s2Fail at1 o
    | .ok t2 =>
      if !t2.r then .bad 5 (some at1)
      else
        let e := s.rdTab t2.pa 8 (s.mod.keyTag t2.key)
        if !entValid e then .bad 4 none
        else if e.testBit 1 then walk1 s c v va need n (bits e 51 16 * 2 ^ 16)
        else if !leafOk e n then .bad 4 none
        else
          let size1 := 2 ^ lvlShift n
          let ipa := bits e 51 16 * 2 ^ 16 + va % size1
          match walk2 s v ipa with
          | .error o => s2Fail ipa o
          | .ok l =>
            let size := min size1 l.size
            let lacks (r w x : Bool) : Bool := (need.r && !r) || (need.w && !w) || (need.x && !x)
            if lacks (e.testBit 3) (e.testBit 4) (e.testBit 5) then .bad 5 none
            else if lacks l.r l.w l.x then .bad 5 (some ipa)
            else .ok ⟨c, va / size * size, size, l.pa - va % size, ipa - va % size,
              e.testBit 3 && l.r, e.testBit 4 && l.w, e.testBit 5 && l.x, e.testBit 6 || l.ms, l.diag,
              s.mod.keyTag l.key, l.obj⟩

/-- Translations cached by the core and its cluster (R426). -/
def State.tlbs (s : State) (core : Nat) : List TlbE := (s.core core).tlb ++ (s.cluster (core / 4)).tlb

/-- `Translate` (R10, R425) for a context on a core: a cached entry that has the rights, else a walk. -/
def translate (s : State) (core c va : Nat) (need : Need) : TrRes :=
  match (s.tlbs core).find? (fun e => e.ctx == c && e.va ≤ va && va < e.va + e.size &&
      (!need.r || e.r) && (!need.w || e.w) && (!need.x || e.x)) with
  | some e => .ok e
  | none =>
    match SMap.get? s.ctxs c with
    | none => .bad 4 none
    | some x => walk1 s c (c / 256) va need 5 (bits x.s1root 51 16 * 2 ^ 16)

/-- The address that an entry gives. -/
def TlbE.addr (e : TlbE) (va : Nat) : Nat := e.pa + (va - e.va)

/-- Cache an entry in the core's 256 and the cluster's 4,096 (R426); the oldest leaves (log 20). -/
def State.tlbFill (s : State) (core : Nat) (e : TlbE) : State :=
  let add (n : Nat) (l : List TlbE) : List TlbE := if l.contains e then l else e :: l.take (n - 1)
  (s.updCore core (fun x => { x with tlb := add 256 x.tlb })).updCluster (core / 4)
    (fun x => { x with tlb := add 4096 x.tlb })

/-- Drop cached translations that a test covers, on every core and cluster (R424). -/
def State.tlbDrop (s : State) (f : TlbE → Bool) : State :=
  { s with
    cores := SMap.mapV (fun x => { x with tlb := x.tlb.filter (fun e => !f e) }) s.cores
    clusters := SMap.mapV (fun x => { x with tlb := x.tlb.filter (fun e => !f e) }) s.clusters }

/-- A virtual address: aperture over offset (R43). -/
def vaOf (ap : Half) (off : DWord) : Nat := ap.toNat * 2 ^ 64 + off.toNat

end Sys2Proof.Machine
end

