-- ==== Sys2Proof/Machine/Levels.lean ====
section
/-! DEFINITION. The levels of the memory system as one access meets them: packet ports, memory-side cache, L2 with guest
and far lines, and the clocks of the dies (10 R282-R290, 14 R342-R366). -/

namespace Sys2Proof.Machine

/-- Who accesses: core, team, context, traffic class (R356), chain; `eng` an engine, which acts at the die's L2 (R291). -/
structure Acc where
  core : Nat
  team : Nat
  ctx : Nat
  cls : Nat
  chain : Nat
  eng : Bool
deriving DecidableEq, Repr

def Acc.die (a : Acc) : Nat := a.core / 128

/-- The access of the device itself at a die, in a context and class (R356). -/
def devAcc (d ctx cls chain : Nat) : Acc := ⟨d * 128, 0, ctx, cls, chain, true⟩

/-- Stack of a home address, and its line in the packet header (R343, R362, R454). -/
def stackOf (m : Module) (pa : Nat) : Nat × Nat :=
  if m.expander then (pa / 2 ^ 41 * 2 + pa / 256 % 2, pa % 2 ^ 41 / 512)
  else (pa / 2 ^ 37 * 2 + pa / 256 % 2, pa % 2 ^ 37 / 512)

/-- The L2 slice of an address (R343, R454). -/
def l2Slice (pa : Nat) : Nat := bits pa 12 9 ^^^ bits pa 16 13

-- Packet ports (R361, R362)

/-- A request stands in its port with its KIND in the low 8 bits of a number, 256 more once a back-off held it, and 512 more for
each of its lines whose row was opened for it. -/
def qKind (k : Nat) : Nat := k % 256

/-- Tags in use on a port (R361). -/
def Stack.tags (k : Stack) : List Nat :=
  k.q.map (fun p => p.2.tag.toNat) ++ k.replies.map (fun p => p.2.1.tag.toNat) ++
    k.wins.flatMap (fun w => w.2.map (fun p => p.2.tag.toNat))

/-- Units set in a mask. -/
def units8 (mask : Nat) : List Nat := (List.range 8).filter (fun i => mask.testBit i)

/-- The mask of a list of units. -/
def maskOf8 (us : List Nat) : Nat := us.foldl (fun m u => m ||| 2 ^ u) 0

/-- Bits of a mask that are not in another. -/
def maskSub (m x : Nat) : Nat := m ^^^ (m &&& x)

/-- Units of a 256-byte line that an access touches, as a mask. -/
def lineMask (pa n : Nat) : Nat := (unitsOf pa n).foldl (fun m u => m ||| 2 ^ (u % 8)) 0

/-- Lines that a stretch touches. -/
def linesOf (pa n : Nat) : List Nat := ((unitsOf pa n).map (fun u => u / 8)).eraseDups

/-- Units that a write covers wholly. -/
def coverUnits (pa n : Nat) : List Nat := (unitsOf pa n).filter (fun u => pa ≤ 32 * u && 32 * u + 32 ≤ pa + n)

/-- Bytes with their addresses. -/
def addrBytes (pa : Nat) (bs : List Byte) : List (Nat × Byte) := bs.zipIdx.map (fun b => (pa + b.2, b.1))

/-- What a request carries beside its address and mask (R362): OPC, lane operands, row lines, the team whose access
to a memory-side page it is, 0 for any other, and the die that issues it, none for the home itself (R368, R378). -/
structure ReqData where
  opc : Nat
  lanes : List (Nat × DWord × DWord)
  rows : List Nat
  team : Nat
  die : Option Nat

def ReqData.none : ReqData := ⟨0, [], [], 0, Option.none⟩

/-- A request leaves for the base die of a home address: it takes a tag, or waits in the MSC for one (R361); its bytes are
metered (R436). Its data has been applied (R363); the payload of a WRITE is what the units now hold. -/
def State.portReq (s : State) (kind pa mask : Nat) (q : ReqData) (ctx : Nat) : State :=
  let k := stackOf s.mod pa
  let st := s.stack k.1
  let tag := (List.range 4096).find? (fun t => !st.tags.contains t)
  let us := if kind == 2 then units8 mask else []
  let p : BasePkt := ⟨BitVec.ofNat 8 kind, BitVec.ofNat 8 mask, BitVec.ofNat 12 (tag.getD 0), ctx / 256, ctx, BitVec.ofNat 8 q.opc,
    BitVec.ofNat 8 (maskOf8 (us.filter (fun u => SMap.getD s.poison false (pa / 256 * 8 + u)))), k.2,
    us.flatMap (fun u => Memory.getBytes s.mem (pa / 256 * 256 + 32 * u) 32), q.lanes, q.rows, q.team, true, q.die.getD (k.1 / 2)⟩
  let s := match tag with
    | some _ => s.setStack k.1 { st with q := st.q ++ [(kind, p)] }
    | none => s.setStack k.1 { st with waitq := st.waitq ++ [(kind, p)] }
  s.meter (k.1 / 2) (ctx / 256) (fun m => { m with bhbm := satAdd m.bhbm (32 * (units8 mask).length) })

/-- A READ or WRITE of units. -/
def State.portSend (s : State) (kind pa mask ctx : Nat) : State := s.portReq kind pa mask ReqData.none ctx

-- The memory-side cache (R356-R360)

/-- The partition register of a VD and class (R357). -/
def Die.partOf (d : Die) (vd cls : Nat) : Nat := SMap.getD d.part 0xFFFF0000 (4 * vd + cls)

/-- The policy field of a request: read fills, writes from L2, fills of atomics (R357). -/
def partPol (e kind : Nat) : Nat := if kind == 0 then bits e 5 4 else if kind == 1 then bits e 7 6 else bits e 9 8

/-- A chain is live on a die (R359). -/
def Die.live (d : Die) (vd chain : Nat) : Bool := chain != 0 && d.chains.contains (vd, chain)

/-- Victim of an allocation among the ways of WAYS (R358): a free way, then an unprotected line marked for
first eviction, then the least recently used unprotected line. -/
def mscVictim (d : Die) (set ways : Nat) : Option Nat :=
  let ks := ((List.range 16).filter (fun k => ways.testBit k)).map (fun k => set * 16 + k)
  let free := ks.find? (fun k => (SMap.get? d.msc k).isNone)
  let open' := ks.filterMap (fun k => (SMap.get? d.msc k).bind (fun l => if l.prot then none else some (k, l)))
  match free with
  | some k => some k
  | none =>
    match open'.find? (fun e => e.2.first) with
    | some e => some e.1
    | none =>
      (open'.foldl (fun (b : Option (Nat × MscLine)) e => match b with
        | none => some e
        | some x => if e.2.used < x.2.used then some e else some x) none).map (fun e => e.1)

/-- Written units of a line leave the memory-side cache for memory (R356): a unit in error takes its poison along, unless
L2 holds a later value. -/
def State.mscOut (s : State) (d : Nat) (l : MscLine) : State :=
  if l.wr == 0 then s
  else
    let up := (SMap.get? (s.die d).l2 l.line).elim 0 (fun x => x.wr)
    (s.poisonUnits ((units8 (maskSub (l.wr &&& l.p) up)).map (fun u => l.line * 8 + u))).portSend 2 (l.line * 256) l.wr l.ctx

/-- A line leaves the memory-side cache. -/
def State.mscEvict (s : State) (d k : Nat) : State :=
  match SMap.get? (s.die d).msc k with
  | none => s
  | some l => (s.updDie d (fun x => { x with msc := SMap.del x.msc k })).mscOut d l

/-- A request reaches the memory-side cache of its home die (R356-R358): `kind` 0 a read fill, 1 a write from L2, 2 the
fill of an atomic. -/
def State.mscReq (s : State) (pa mask kind : Nat) (a : Acc) : State :=
  let dN := (stackOf s.mod pa).1 / 2
  let d := s.die dN
  let vd := a.ctx / 256
  let line := pa / 256
  let set := line % 32768
  let wr := if kind == 1 then mask else 0
  let read (s : State) (m : Nat) : State := if m == 0 then s else s.portSend 1 pa m a.ctx
  match d.msc.find? (fun e => e.2.line == line) with
  | some (k, l) =>
    (read s (if kind == 1 then 0 else maskSub mask l.val)).updDie dN (fun d => { d with
      mscTime := d.mscTime + 1
      msc := SMap.put d.msc k { l with used := d.mscTime, val := l.val ||| mask, wr := l.wr ||| wr, p := maskSub l.p wr } })
  | none =>
    let e := d.partOf vd a.cls
    let pol := partPol e kind
    let direct (s : State) : State := if kind == 1 then s.portSend 2 pa mask a.ctx else read s mask
    if 2 ≤ pol || bits e 31 16 == 0 then direct s
    else match mscVictim d set (bits e 31 16) with
      | none => (direct s).stall dN a.ctx 5 false
      | some k =>
        let s := s.mscEvict dN k
        let d := s.die dN
        let n := (d.msc.filter (fun x => x.1 / 16 == set && x.2.prot && x.2.ctx / 256 == vd && x.2.cls == a.cls)).length
        let live := d.live vd a.chain
        let l : MscLine := ⟨line, a.ctx, a.cls, if live then a.chain else 0, d.epoch, live && n < bits e 15 12,
          pol == 1, mask, wr, 0, d.mscTime⟩
        let s := s.setDie dN { d with mscTime := d.mscTime + 1, msc := SMap.put d.msc k l }
        if kind == 1 then s else read s mask

-- L2 (R352): resident lines of the die's own homes, guest lines and far lines

/-- The home L2 writes a line's written units toward memory (R211, R356), with the context and class that allocated it; a
unit in error takes its poison along. -/
def State.l2Wb (s : State) (pa : Nat) (drop : Bool) : State :=
  let dN := (stackOf s.mod pa).1 / 2
  let line := pa / 256
  match SMap.get? (s.die dN).l2 line with
  | none => s
  | some l =>
    let s := s.poisonUnits ((units8 (l.wr &&& l.p)).map (fun u => line * 8 + u))
    let s := if l.wr == 0 then s else s.mscReq (line * 256) l.wr 1 (devAcc dN l.ctx l.cls l.chain)
    s.updDie dN (fun d => { d with
      l2 := if drop then SMap.del d.l2 line else SMap.put d.l2 line { l with wr := 0, p := maskSub l.p l.wr } })

/-- Drop a guest copy (R211, R353): what it held stands at its home or is on its way there. -/
def State.guestDrop (s : State) (d line : Nat) : State := s.updDie d (fun x => { x with guest := SMap.del x.guest line })

/-- What a write does to the poison marks of units: those it wholly covers it clears, those whose bytes met an error on their
way it marks (R355). -/
structure Marks where
  clr : List Nat
  psn : List Nat

/-- A write that only clears the units it covers. -/
def Marks.clear (us : List Nat) : Marks := ⟨us, []⟩

/-- Bytes of a mask of a unit of a line. -/
def unitBytes (u : Nat) : Nat := (2 ^ 32 - 1) * 2 ^ (32 * u)

/-- Written bytes of a copy that starts at `base`, of those in a mask, and their marks. -/
def Line.dirty (l : Line) (base mask : Nat) : List (Nat × Byte) × Marks :=
  let w := l.wm &&& mask
  let us (f : Nat → Bool) : List Nat := ((List.range 8).filter f).map (fun u => base / 32 + u)
  ((l.data.zipIdx.filter (fun x => w.testBit x.2)).map (fun x => (base + x.2, x.1)),
   ⟨us (fun u => !l.p.testBit u && w &&& unitBytes u == unitBytes u), us (fun u => l.bad.testBit u && w &&& unitBytes u != 0)⟩)

/-- Every byte of a line. -/
def allBytes : Nat := 2 ^ 256 - 1

/-- Bytes of a context on a die that cross the CXL window are metered (R436). -/
def State.cxlMeter (s : State) (d ctx n : Nat) : State :=
  s.meter d (ctx / 256) (fun m => { m with bcxl := satAdd m.bcxl n })

/-- Written bytes of a mask have left: they are marked written no more. -/
def Line.sent (l : Line) (mask : Nat) : Line :=
  { l with
    wm := maskSub l.wm mask
    own := (SMap.mapV (fun w => maskSub w mask) l.own).filter (fun e => e.2 != 0)
    bad := maskOf8 ((units8 l.bad).filter (fun u => maskSub l.wm mask &&& unitBytes u != 0)) }

/-- Write back and drop, or only write back, a die's far line (R290, R354). A lost home discards the bytes
(R461). -/
def State.farWb (s : State) (d line : Nat) (drop : Bool) : State :=
  match SMap.get? (s.die d).far line with
  | none => s
  | some l =>
    let w := l.dirty (line * 256) allBytes
    let s := if w.1.isEmpty || s.mod.isLost (line * 256) then s
      else ((s.cxlMeter d l.ctx w.1.length).homeBytes w.1 w.2.clr l.key).poisonUnits w.2.psn
    s.updDie d (fun x => { x with
      far := if drop then SMap.del x.far line else SMap.put x.far line (l.sent allBytes) })

/-- The home invalidates every guest copy of a line (R353). -/
def State.guestsOut (s : State) (d line : Nat) : State :=
  let m := SMap.getD (s.die d).holders 0 line
  let s := ((List.range 16).filter (fun k => m.testBit k)).foldl (fun s k => s.guestDrop k line) s
  s.updDie d (fun x => { x with holders := SMap.del x.holders line })

/-- Lines that one L2 slice of a die holds: 0 a line of its own, 1 a guest line, 2 a far line. -/
def Die.sliceLines (d : Die) (k : Nat) : List (Nat × Nat) :=
  let pick (kind : Nat) (ls : List Nat) : List (Nat × Nat) :=
    (ls.filter (fun l => l2Slice (256 * l) == k)).map (fun l => (kind, l))
  pick 0 (SMap.keys d.l2) ++ pick 1 (SMap.keys d.guest) ++ pick 2 (SMap.keys d.far)

/-- Room for one more line in the slice of an address: 6 MiB hold 24,576 lines (R352). The spec names no victim: a free
value picks it (log 78). Guest copies elsewhere are invalidated before their home evicts a line (R353). -/
def State.l2Room (s : State) (dN line : Nat) : State :=
  let d := s.die dN
  if d.l2.length + d.guest.length + d.far.length < 24576 then s
  else
    let ls := d.sliceLines (l2Slice (256 * line))
    if ls.length < 24576 then s
    else match ls[Config.freeNat s.draws % ls.length]? with
      | some (0, v) => (s.draw.guestsOut dN v).l2Wb (v * 256) true
      | some (1, v) => s.draw.guestDrop dN v
      | some (_, v) => s.draw.farWb dN v true
      | none => s

/-- An access at the home L2 of a line of its die: units whose old content it needs are fetched, units it writes are
marked, and the line is resident from then on (R352, R356). `at'` says that it is an atomic. -/
def State.l2Use (s : State) (line need wr : Nat) (at' : Bool) (a : Acc) : State :=
  let dN := (stackOf s.mod (line * 256)).1 / 2
  let old := SMap.get? (s.die dN).l2 line
  let miss := maskSub need (old.elim 0 (fun l => l.val))
  let s := if old.isSome then s else s.l2Room dN line
  let s := if miss == 0 then s else s.mscReq (line * 256) miss (if at' then 2 else 0) a
  let bad := ((s.die dN).msc.find? (fun e => e.2.line == line)).elim 0 (fun e => e.2.p &&& miss)
  s.updDie dN (fun d => { d with l2 := SMap.put d.l2 line (match old with
    | some l => { l with val := l.val ||| need ||| wr, wr := l.wr ||| wr, p := l.p ||| bad }
    | none => ⟨a.ctx, a.cls, a.chain, need ||| wr, wr, bad⟩) })

/-- Poisoned units of a line as its home holds them. -/
def State.homePoison (s : State) (line : Nat) : Nat :=
  maskOf8 ((List.range 8).filter (fun u => s.unitP (line * 8 + u)))

/-- Poisoned units of a read that lies in one line, as a mask relative to the first unit. -/
def State.poisonMask (s : State) (pa n : Nat) : Nat :=
  let m := s.homePoison (pa / 256)
  maskOf8 (((unitsOf pa n).filter (fun u => m.testBit (u % 8))).map (fun u => u - pa / 32))

-- Clocks of the dies (R289)

/-- Entry of a die in a vector clock. -/
def clkAt (c : List Nat) (d : Nat) : Nat := c.getD d 0

/-- Pointwise maximum of two clocks. -/
def clkMax (a b : List Nat) : List Nat :=
  (List.range (max a.length b.length)).map (fun d => max (clkAt a d) (clkAt b d))

/-- A clock with one entry set. -/
def clkSet (c : List Nat) (d v : Nat) : List Nat :=
  (List.range (max c.length (d + 1))).map (fun i => if i == d then v else clkAt c i)

/-- A clock names a write. -/
def UpdPkt.named (p : UpdPkt) (c : List Nat) : Bool := p.seq ≤ clkAt c p.src

/-- Two packets carry one write. -/
def UpdPkt.same (p q : UpdPkt) : Bool := p.src == q.src && p.seq == q.seq

/-- A write of a die gets its number: the die's entry of its own clock rises (R289). -/
def State.stamp (s : State) (d : Nat) : State :=
  s.updDie d (fun x => { x with clock := clkSet x.clock d (clkAt x.clock d + 1) })

/-- The packet of a die's latest write. -/
def State.updOf (s : State) (d line : Nat) (bs : List (Nat × Byte)) (m : Marks) (key : Nat) (a : Acc) : UpdPkt :=
  let c := (s.die d).clock
  ⟨d, clkAt c d, c, true, line, bs, maskOf8 (m.clr.map (fun u => u % 8)), key, a.cls, a.ctx, a.chain,
    maskOf8 (m.psn.map (fun u => u % 8)), d, false⟩

/-- The marks that a packet carries. -/
def UpdPkt.marks (p : UpdPkt) : Marks :=
  ⟨(units8 p.clr).map (fun u => p.line * 8 + u), (units8 p.psn).map (fun u => p.line * 8 + u)⟩

/-- A packet reaches a die's queue (R440). -/
def State.sendUpd (s : State) (d : Nat) (p : UpdPkt) : State := s.updDie d (fun x => { x with upd := x.upd ++ [p] })

/-- The home of a line sends a write it applies to every die but `skip` that holds a guest copy, with the clock of the
write (R353). -/
def State.fanOut (s : State) (home : Nat) (skip : Option Nat) (p : UpdPkt) : State :=
  let m := SMap.getD (s.die home).holders 0 p.line
  ((List.range 16).filter (fun d => m.testBit d && d != home && skip != some d)).foldl
    (fun s d => s.sendUpd d { p with home := false, snd := home, old := false }) s

/-- A write of bytes of one line takes effect at its home in L2. -/
def State.homeApply (s : State) (bs : List (Nat × Byte)) (m : Marks) (key : Nat) (at' : Bool) (a : Acc) : State :=
  match bs with
  | [] => s
  | b :: _ =>
    let line := b.1 / 256
    let wr := maskOf8 (bs.map (fun x => x.1 / 32 % 8))
    let cl := maskOf8 (m.clr.map (fun u => u % 8))
    let s := (s.l2Use line (maskSub wr cl) wr at' a).homeBytes bs m.clr key
    (s.poisonUnits m.psn).updDie ((stackOf s.mod (line * 256)).1 / 2) (fun d => { d with
      l2 := SMap.upd d.l2 line (fun l => { l with p := maskSub l.p cl }) })

/-- Holders of a line in the snoop filter but one, less those that are lost (R457). -/
def Module.holdersOf (m : Module) (line : Nat) (but : Option Nat) : List Nat :=
  let k := SMap.getD m.snoop 0 line
  (List.range (Nat.log2 k + 1)).filter (fun i => k.testBit i && some i != but && !m.lost.contains i)

/-- Ask the host for lines, or on the expander those that hold them, once each (R444, R457). -/
def State.askHost (s : State) (ls : List Nat) : State :=
  ls.foldl (fun s l =>
    if s.mod.backInvs.any (fun b => b.line == l) then s
    else
      let hs := s.mod.holdersOf l none
      ((if hs.isEmpty then [0] else hs).foldl (fun s _ => s.emit (.backInv l)) s).updMod (fun m => { m with
        backInvs := m.backInvs ++ [⟨l, hs⟩] })) s

/-- Writes of a die to a line of its home wait for a host to give up the line (R444). -/
def State.homeWaits (s : State) (home line : Nat) : Bool :=
  (s.die home).upd.any (fun p => p.home && p.src == home && p.line == line)

/-- A write of the home's own die to a line that a host may hold waits in the home's queue, and the host is asked (R444). -/
def State.homeHold (s : State) (home line : Nat) (bs : List (Nat × Byte)) (m : Marks) (key : Nat) (a : Acc) : State :=
  let s := (s.askHost [line]).stamp home
  s.sendUpd home (s.updOf home line bs m key a)

/-- A write of bytes of one line of this module performed at its home by the home's own die: where guest copies stand it
gets its number and is sent to them (R353). -/
def State.homeStore (s : State) (home : Nat) (bs : List (Nat × Byte)) (m : Marks) (key : Nat) (a : Acc) : State :=
  match bs with
  | [] => s
  | b :: _ =>
    if SMap.getD (s.die home).hostHeld false (b.1 / 256) || s.homeWaits home (b.1 / 256) then
      s.homeHold home (b.1 / 256) bs m key a
    else
    let s := s.homeApply bs m key false a
    if SMap.getD (s.die home).holders 0 (b.1 / 256) == 0 then s
    else
      let s := s.stamp home
      s.fanOut home none (s.updOf home (b.1 / 256) bs m key a)

/-- Bytes of a line that a die wrote and that have not come back: an update must not change them (R283). -/
def State.ownPending (s : State) (d line : Nat) : List Nat :=
  s.dies.flatMap (fun e => e.2.upd.flatMap (fun p =>
    if p.src == d && p.line == line && (p.home || e.1 == d) then p.bytes.map (fun b => b.1) else []))

/-- The mask of `n` bits from `off`. -/
def maskAt (off n : Nat) : Nat := (2 ^ n - 1) * 2 ^ off

/-- Bytes that a team writes are its own from then on, and no other team's (R349). -/
def ownAdd (o : SMap Nat) (team m : Nat) : SMap Nat :=
  let o := (SMap.mapV (fun w => maskSub w m) o).filter (fun e => e.2 != 0)
  SMap.put o team (SMap.getD o 0 team ||| m)

/-- Write into a cached copy: bytes, marks when `dirty`, and the poison of covered units cleared (R355). -/
def Line.wr (l : Line) (off : Nat) (bs : List Byte) (dirty : Bool) (team : Nat) : Line :=
  let n := bs.length
  let m := maskAt off n
  let cov := maskOf8 ((unitsOf off n).filter (fun u => off ≤ 32 * u && 32 * u + 32 ≤ off + n))
  { l with
    data := l.data.take off ++ bs ++ l.data.drop (off + n)
    wm := if dirty then l.wm ||| m else l.wm
    own := if dirty then ownAdd l.own team m else l.own
    p := maskSub l.p cov
    bad := maskSub l.bad cov
    team := if dirty then team else l.team }

/-- Write scattered bytes into a cached copy, with their marks. -/
def Line.wrBytes (l : Line) (bs : List (Nat × Byte)) (m : Marks) (dirty : Bool) (team : Nat) : Line :=
  let l := bs.foldl (fun l b => l.wr (b.1 % 256) [b.2] dirty team) l
  let clr := maskOf8 (m.clr.map (fun u => u % 8))
  let psn := maskOf8 (m.psn.map (fun u => u % 8))
  { l with p := maskSub l.p clr ||| psn, bad := maskSub l.bad clr ||| (if dirty then psn else 0) }

/-- Read from a cached copy at an offset: bytes, and the poison of their units relative to the first. -/
def Line.rd (l : Line) (off n : Nat) : List Byte × Nat :=
  ((l.data.drop off).take n, maskOf8 (((unitsOf off n).filter (fun u => l.p.testBit u)).map (fun u => u - off / 32)))

/-- An update reaches a guest copy (R353); the die's own writes that have not come back stay. -/
def State.guestApply (s : State) (d : Nat) (p : UpdPkt) : State :=
  match SMap.get? (s.die d).guest p.line with
  | none => s
  | some l =>
    let own := s.ownPending d p.line
    let l := l.wrBytes (p.bytes.filter (fun b => !own.contains b.1)) p.marks false 0
    s.updDie d (fun x => { x with guest := SMap.put x.guest p.line l })

/-- An update packet may be applied (R289, R440, R444): no packet that its clock names is still on its way to any home or
waits in the same queue, none of its line that came first waits, and no host copy of its home line stands. One sent since a link of
its pair's route failed waits for those sent before (R441; log 119). -/
def State.canApply (s : State) (d idx : Nat) (p : UpdPkt) : Bool :=
  !(p.home && SMap.getD (s.die d).hostHeld false p.line) &&
    (p.old || (s.die d).upd.all (fun q => !(q.old && q.snd == p.snd))) &&
    (s.die d).upd.zipIdx.all (fun q => q.2 == idx || !(q.1.line == p.line && q.1.home == p.home && q.2 < idx)) &&
    s.dies.all (fun e => e.2.upd.zipIdx.all (fun q =>
      (e.1 == d && q.2 == idx) || q.1.same p || !q.1.named p.clock || !(q.1.home || e.1 == d)))

/-- Apply the update packet at an index of a die's queue (R353). -/
def State.applyUpd (s : State) (d idx : Nat) : State :=
  match (s.die d).upd[idx]? with
  | none => s
  | some p =>
    let s := s.updDie d (fun x => { x with upd := x.upd.eraseIdx idx, clock := clkMax x.clock p.clock })
    if p.home then
      (s.homeApply p.bytes p.marks p.key false (devAcc d p.ctx p.cls p.chain)).fanOut d none p
    else s.guestApply d p

/-- The first packet that a test selects and that may be applied. -/
def State.findUpd (s : State) (sel : Nat → UpdPkt → Bool) : Option (Nat × Nat) :=
  s.dies.findSome? (fun e => (e.2.upd.zipIdx.find? (fun p => sel e.1 p.1 && s.canApply e.1 p.2 p.1)).map (fun p => (e.1, p.2)))

/-- Apply the packets that a test selects, dies in order, until none may be. -/
def State.pump (sel : Nat → UpdPkt → Bool) : Nat → State → State
  | 0, s => s
  | n + 1, s =>
    match s.findUpd sel with
    | some x => pump sel n (s.applyUpd x.1 x.2)
    | none => s

/-- Steps that carry every packet to its end. -/
def State.pumpFuel (s : State) : Nat := 17 * s.dies.foldl (fun n e => n + e.2.upd.length) 0 + 1

/-- Packets that stand between a die and the writes that a clock names: on their way to a home, or in the die's queue. Of
the die's own writes only those to `line` count: its other reads need not wait for them (R284). -/
def dueAt (d : Nat) (line : Option Nat) (c : List Nat) (e : Nat) (p : UpdPkt) : Bool :=
  p.named c && (p.home || e == d) && (p.src != d || line == some p.line)

/-- Packets that a test selects are left. -/
def State.anyUpd (s : State) (sel : Nat → UpdPkt → Bool) : Bool := s.dies.any (fun e => e.2.upd.any (sel e.1))

/-- A die takes in a clock, once every write that it names has reached the die (R289); `line` as for `dueAt`. -/
def State.join (s : State) (d : Nat) (line : Option Nat) (c : List Nat) : State :=
  let c := clkMax (s.die d).clock c
  let s := State.pump (dueAt d line c) s.pumpFuel s
  if s.anyUpd (dueAt d line c) then s else s.updDie d (fun x => { x with clock := c })

/-- A die's request for a line and the answer of its home carry the clocks of both (R289); what the die wrote to the line
before comes back to it first (R283). -/
def State.meet (s : State) (d h line : Nat) : State :=
  if d == h then s else (s.join h none (s.die d).clock).join d (some line) (s.die h).clock

/-- The request can be answered: no write that either clock names waits for a host. -/
def State.met (s : State) (d h line : Nat) : Bool :=
  d == h || (clkMax (s.die d).clock (s.die h).clock == (s.die d).clock && clkMax (s.die d).clock (s.die h).clock == (s.die h).clock &&
    !s.anyUpd (dueAt d (some line) (s.die d).clock) && !s.anyUpd (dueAt h none (s.die d).clock))

/-- A die's writes, and those it observed, reach their homes and every guest copy (R284, R290). -/
def State.spread (s : State) (d : Nat) : State := State.pump (fun _ p => p.named (s.die d).clock) s.pumpFuel s

/-- No write that a die made or observed is on its way to a home or a guest copy. -/
def State.isSpread (s : State) (d : Nat) : Bool := !s.anyUpd (fun _ p => p.named (s.die d).clock)

/-- The latest clock of all dies. -/
def State.topClock (s : State) : List Nat := s.dies.foldl (fun c e => clkMax c e.2.clock) []

/-- A hand-off that the device carries between dies outside memory brings the clocks along (R285, R289): the die takes in
every write issued so far (log 79). -/
def State.joinAll (s : State) (d : Nat) : State := s.join d none s.topClock

/-- Every write issued so far elsewhere has reached a die. -/
def State.joinedAll (s : State) (d : Nat) : Bool := !s.anyUpd (dueAt d none s.topClock)

/-- Lines of packets that wait for a host to give up its copy (R444). -/
def State.heldUpd (s : State) : List Nat :=
  s.dies.flatMap (fun e => (e.2.upd.filter (fun p => p.home && SMap.getD e.2.hostHeld false p.line)).map (fun p => p.line))

/-- Apply every update packet that may be applied. -/
def State.settleUpd (s : State) : State := State.pump (fun _ _ => true) s.pumpFuel s

/-- No update packet waits anywhere (R287). -/
def State.quiet (s : State) : Bool := s.dies.all (fun d => d.2.upd.isEmpty)

-- Records of the device (R471)

/-- Cut bytes at the boundaries of lines. -/
def lineCuts : Nat → Nat → List Byte → List (Nat × List Byte)
  | 0, _, _ => []
  | f + 1, pa, bs =>
    if bs.isEmpty then []
    else
      let k := 256 - pa % 256
      (pa, bs.take k) :: lineCuts f (pa + k) (bs.drop k)

/-- A write of the device or a host at the home of a line: it allocates nothing in L2, and goes on to the memory-side cache
where L2 does not hold the line. -/
def State.devStore (s : State) (home : Nat) (bs : List (Nat × Byte)) (m : Marks) (key : Nat) (a : Acc) : State :=
  match bs with
  | [] => s
  | b :: _ =>
    if SMap.getD (s.die home).hostHeld false (b.1 / 256) || s.homeWaits home (b.1 / 256) ||
        (SMap.get? (s.die home).l2 (b.1 / 256)).isSome then s.homeStore home bs m key a
    else ((s.homeBytes bs m.clr key).poisonUnits m.psn).mscReq (b.1 / 256 * 256) (maskOf8 (bs.map (fun x => x.1 / 32 % 8))) 1 a

/-- A write that the device performs at `.sys` at its home (R344, R353), in a context and class; nothing at an address that
nothing holds. -/
def State.devWrite (s : State) (pa : Nat) (bs : List Byte) (key ctx cls : Nat) : State :=
  (lineCuts (bs.length / 256 + 2) pa bs).foldl (fun s x =>
    match s.mod.place x.1 with
    | .die h => s.devStore h (addrBytes x.1 x.2) (.clear (coverUnits x.1 x.2.length)) key (devAcc h ctx cls 0)
    | .cxl .. => if s.mod.isLost x.1 then s else s.homeWrite x.1 x.2 key
    | .hole => s) s

/-- The bytes of a record. -/
def RelRec.bytes (r : RelRec) : List Byte :=
  leBytes 1 r.src ++ leBytes 1 r.sev ++ leBytes 1 r.die ++ leBytes 1 r.unit ++
    leBytes 4 r.ctx ++ leBytes 8 r.loc ++ leBytes 8 r.cyc ++ leBytes 4 r.count ++ leBytes 4 0

/-- A new record: in the log, with RLTAIL after it, or in the die's buffer while RLBASE is 0 (R471). -/
def State.relNew (s : State) (r : RelRec) : State :=
  if s.mod.rlbase == 0 then
    s.updDie r.die (fun x => { x with relBuf := x.relBuf.drop (x.relBuf.length - 63) ++ [r] })
  else
    (s.devWrite (s.mod.rlbase + 32 * (s.mod.rltail % s.mod.rlsize)) r.bytes 0 0 0).updMod
      (fun m => { m with rltail := (m.rltail + 1) % 2 ^ 32 })

/-- A corrected error joins a record of its unit that is less than 1 ms old (R471): 1,700,000 cycles of the die (R39). -/
def RelRec.joins (r o : RelRec) : Bool :=
  r.sev == 0 && o.sev == 0 && r.src == o.src && r.unit == o.unit && r.cyc < o.cyc + 1700000

/-- A record stands where it was written: in the die's buffer, or at an index of the log that RLTAIL has not passed by a ring. -/
def State.relHolds (s : State) (o : RelRec × Option Nat) : Bool :=
  match o.2 with
  | none => (s.die o.1.die).relBuf.contains o.1
  | some i => s.mod.rlbase != 0 && (s.mod.rltail + 2 ^ 32 - i) % 2 ^ 32 ≤ s.mod.rlsize

/-- The reliability log takes a record (R471): corrected errors of one unit are merged for 1 ms, their COUNT added up in the first
of them (log 88). -/
def State.relWrite (s : State) (r : RelRec) : State :=
  match (s.die r.die).relOpen.find? (fun o => r.joins o.1 && s.relHolds o) with
  | some o =>
    let n := { o.1 with count := o.1.count + r.count }
    let s := match o.2 with
      | none => s.updDie r.die (fun x => { x with relBuf := x.relBuf.map (fun q => if q == o.1 then n else q) })
      | some i => s.devWrite (s.mod.rlbase + 32 * (i % s.mod.rlsize)) n.bytes 0 0 0
    s.updDie r.die (fun x => { x with relOpen := x.relOpen.map (fun q => if q == o then (n, o.2) else q) })
  | none =>
    let t := s.relNew r
    if r.sev != 0 then t
    else
      let i := if s.mod.rlbase == 0 then none else some s.mod.rltail
      t.updDie r.die (fun x => { x with relOpen := x.relOpen.filter (fun o => r.cyc < o.1.cyc + 1700000) ++ [(r, i)] })

/-- Post a reliability record of a detection (R471). `ctx` 0 is no context, else vd·256 + c + 1. -/
def State.relRec (s : State) (src sev d unit ctx loc : Nat) : State :=
  let cy := s.readCyc d
  let cx := if ctx == 0 then 0 else
    match SMap.get? s.ctxs (ctx - 1) with
    | some c => 2 ^ 31 + (ctx - 1) / 256 * 2 ^ 20 + c.pasid % 2 ^ 20
    | none => 0
  cy.1.relWrite ⟨src, sev, d, unit, cx, loc, cy.2, 1⟩

/-- A write that the device performs at `.sys` (R344, R353) in a context and class; at an address that nothing holds it is
dropped with a record (R345). -/
def State.sysWriteAs (s : State) (pa : Nat) (bs : List Byte) (key ctx cls : Nat) : State :=
  match s.mod.place pa with
  | .hole => s.relRec 12 1 0 0 0 pa
  | _ => s.devWrite pa bs key ctx cls

/-- The same on behalf of the device itself. -/
def State.sysWrite (s : State) (pa : Nat) (bs : List Byte) (key : Nat) : State := s.sysWriteAs pa bs key 0 0

end Sys2Proof.Machine
end

