-- ==== Sys2Proof/Machine/Access.lean ====
section
/-! DEFINITION. Reads and writes at a scope: L1, L2, guest and far lines, memory-side pages, task windows and the team
store; what fences do to the caches (07 R191-R196, 10 R282-R290, 14 R346-R354). -/

namespace Sys2Proof.Machine

/-- A fresh copy of a line from its home. -/
def State.copyOf (s : State) (line key : Nat) : State × Line :=
  let r := s.homeRead (line * 256) 256 key
  (r.1, ⟨r.2.1, 15, s.homePoison line, 0, [], key, 0, false, 0, 0⟩)

/-- The guest line of a die, fetched when absent: what its home has observed reaches the reader first, the home records
the holder, and the reader's clock takes in the home's (R289, R353). -/
def State.guestLine (s : State) (d home pa key : Nat) (a : Acc) : State × Line :=
  let line := pa / 256
  match SMap.get? (s.die d).guest line with
  | some l => if l.key == key then (s, l) else
      let s := s.join d (some line) (s.die home).clock
      let r := s.copyOf line key
      (r.1.updDie d (fun x => { x with guest := SMap.put x.guest line r.2 }), r.2)
  | none =>
    let s := (s.join d (some line) (s.die home).clock).l2Use line 0xFF 0 false a
    let r := s.copyOf line key
    let s := r.1.updDie home (fun x => { x with
      holders := SMap.put x.holders line (SMap.getD x.holders 0 line ||| 2 ^ d) })
    ((s.l2Room d line).updDie d (fun x => { x with guest := SMap.put x.guest line r.2 }), r.2)

/-- An access of a die can be performed now: nothing that it must see first waits for a host (R289, R444). `direct` says
that it is performed at the home itself. -/
def State.reach (s : State) (d : Nat) (direct : Bool) (g : Seg) : Bool :=
  if g.ts then true
  else match s.mod.place g.pa with
    | .die h =>
      if h == d then !s.homeWaits h (g.pa / 256)
      else if direct || g.ms then (s.meet d h (g.pa / 256)).met d h (g.pa / 256)
      else match SMap.get? (s.die d).guest (g.pa / 256) with
        | some l => if l.key == g.key then true else ok h
        | none => ok h
    | _ => true
where
  /-- The fetch can take in the home's clock. -/
  ok (h : Nat) : Bool :=
    let t := s.join d (some (g.pa / 256)) (s.die h).clock
    clkMax (t.die d).clock (t.die h).clock == (t.die d).clock

/-- The die's far line, fetched when absent (R354). -/
def State.farLine (s : State) (pa key : Nat) (a : Acc) : State × Line :=
  let line := pa / 256
  match SMap.get? (s.die a.die).far line with
  | some l => (s, l)
  | none =>
    let r := (((s.cxlMeter a.die a.ctx 256).cxlRead a.die a.ctx).l2Room a.die line).copyOf line key
    let l := { r.2 with ctx := a.ctx }
    (r.1.updDie a.die (fun x => { x with far := SMap.put x.far line l }), l)

/-- The diagnostic page of a stack (R371): a byte at an offset. -/
def Stack.diagByte (k : Stack) (off : Nat) : Byte :=
  let fld (o n v : Nat) : Option Byte :=
    if o ≤ off && off < o + n then some (BitVec.ofNat 8 (v / 256 ^ (off - o))) else none
  let wc (w : Nat) : Nat :=
    let v := SMap.getD k.watch 0 w
    let bank := (bits v 30 26 * 2 + bits v 25 25) * 16 + bits v 24 21
    let c := if v.testBit 31 then SMap.getD k.cnt 0 (bank * 8192 + bits v 12 0) else 0
    SMap.getD k.walerts 0 w * 65536 + c
  ((fld 0 8 k.alerts).or ((fld 8 8 k.rfmseq).or ((fld 0x10 4 k.lastagg).or ((fld 0x18 8 k.heldN).or
    ((List.range 16).findSome? (fun w => fld (0x40 + 4 * w) 4 (wc w))))))).getD 0

/-- Where the accesses of diagnostic pages stand in the model, beyond every physical address (R371): stack `k` of die `d`
at 65,536·(d + 16·k), as OA[20:16] of their leaf gives them (R425). -/
def diagBase : Nat := 2 ^ 60

/-- A byte of the diagnostic pages: beyond the first 4 KiB of a mapping it reads zero (R425). -/
def State.diagRead (s : State) (pa : Nat) : Byte :=
  let a := pa - diagBase
  if a % 65536 < 4096 then (s.stack (a / 65536 % 16 * 2 + a / 1048576 % 2)).diagByte (a % 65536) else 0

/-- A read of an address that nothing holds: poison, and a reliability record (R345); or of a diagnostic page. -/
def State.holeRead (s : State) (a : Acc) (pa n : Nat) : State × List Byte × Bool :=
  if diagBase ≤ pa then (s, (List.range n).map (fun i => s.diagRead (pa + i)), false)
  else
    let f := (s.relRec 12 1 a.die 0 (a.ctx + 1) pa).freeBytes n
    (f.1, f.2, true)

/-- A write of an address that nothing holds is dropped with a reliability record (R345); of a diagnostic page, ignored. -/
def State.holeWrite (s : State) (a : Acc) (pa : Nat) : State :=
  if diagBase ≤ pa then s else s.relRec 12 1 a.die 0 (a.ctx + 1) pa

/-- A read of bytes of one line at the die's L2 or beyond (R193, R353, R354), with its poisoned units relative to the first.
`sys` is scope `.sys`. -/
def State.l2Get (s : State) (a : Acc) (sys : Bool) (pa n key : Nat) : State × List Byte × Nat :=
  match s.mod.place pa with
  | .hole =>
    let r := s.holeRead a pa n
    (r.1, r.2.1, if r.2.2 then 0xFF else 0)
  | .die h =>
    if h == a.die then
      let r := (s.l2Use (pa / 256) (lineMask pa n) 0 false a).homeRead pa n key
      (r.1, r.2.1, r.1.poisonMask pa n)
    else
      let g := s.guestLine a.die h pa key a
      (g.1, g.2.rd (pa % 256) n)
  | .cxl .. =>
    if sys then
      let r := (((s.farWb a.die (pa / 256) true).cxlMeter a.die a.ctx n).cxlRead a.die a.ctx).homeRead pa n key
      (r.1, r.2.1, r.1.poisonMask pa n)
    else
      let g := s.farLine pa key a
      (g.1, g.2.rd (pa % 256) n)

/-- The same, with one poison mark. -/
def State.l2Read (s : State) (a : Acc) (sys : Bool) (pa n key : Nat) : State × List Byte × Bool :=
  let r := s.l2Get a sys pa n key
  (r.1, r.2.1, r.2.2 != 0)

/-- A write of bytes of one line at the die's L2 or beyond (R193, R353, R354). -/
def State.l2Write (s : State) (a : Acc) (sys : Bool) (bs : List (Nat × Byte)) (m : Marks) (key : Nat) : State :=
  match bs with
  | [] => s
  | b :: _ =>
    let line := b.1 / 256
    match s.mod.place b.1 with
    | .hole => s.holeWrite a b.1
    | .die h =>
      if h == a.die then s.homeStore h bs m key a
      else
        let g := s.guestLine a.die h b.1 key a
        let s := (g.1.updDie a.die (fun x => { x with
          guest := SMap.put x.guest line (g.2.wrBytes bs m false 0) })).stamp a.die
        s.sendUpd h (s.updOf a.die line bs m key a)
    | .cxl .. =>
      if sys then
        let s := s.farWb a.die line true
        if s.mod.isLost b.1 then s.lostHit a.die a.ctx
        else ((s.cxlMeter a.die a.ctx bs.length).homeBytes bs m.clr key).poisonUnits m.psn
      else if s.mod.isLost b.1 then s.lostHit a.die a.ctx
      else
        let g := s.farLine b.1 key a
        g.1.updDie a.die (fun x => { x with
          far := SMap.put x.far line { g.2.wrBytes bs m true a.team with ctx := a.ctx } })

-- L1 (R348-R351)

/-- The core whose L1 holds a line: the access's own, or the fused block's by address (R351). -/
def State.l1Core (s : State) (a : Acc) (pa : Nat) : Nat :=
  match SMap.get? s.teams a.team with
  | some t => if t.fuse then t.cores.getD (pa / 256 % t.span) a.core else a.core
  | none => a.core

/-- The team's L1 is fused (R351). -/
def State.fused (s : State) (a : Acc) : Bool :=
  match SMap.get? s.teams a.team with | some t => t.fuse | none => false

/-- The cores whose L1s hold a team's lines: its own, or its fused block's. -/
def State.l1Cores (s : State) (a : Acc) : List Nat :=
  match SMap.get? s.teams a.team with
  | some t => if t.fuse then t.cores else [a.core]
  | none => [a.core]

/-- Send the written bytes of an L1 line that a mask selects to L2 (R282, R348). -/
def State.l1Send (s : State) (a : Acc) (c line mask : Nat) : State :=
  match SMap.get? (s.core c).l1 line with
  | none => s
  | some l =>
    let w := l.dirty (line * 256) mask
    (s.l2Write { a with core := c } false w.1 w.2 l.key).updCore c (fun x => { x with
      l1 := SMap.upd x.l1 line (fun l => l.sent mask) })

/-- Send a line's written bytes to L2 and drop it. -/
def State.l1Out (s : State) (a : Acc) (c line : Nat) : State :=
  (s.l1Send a c line allBytes).updCore c (fun x => { x with l1 := SMap.del x.l1 line })

/-- Room for one more line in an L1 of 1,024 KiB, which holds 4,096 lines (R348): a line marked for first eviction leaves
before others; the spec names no victim beyond that: a free value picks it (log 78). -/
def State.l1Room (s : State) (a : Acc) (c : Nat) : State :=
  let l1 := (s.core c).l1
  if l1.length < 4096 then s
  else
    let m := l1.filter (fun e => e.2.first)
    let ls := SMap.keys (if m.isEmpty then l1 else m)
    match ls[Config.freeNat s.draws % ls.length]? with
    | some v => s.draw.l1Out a c v
    | none => s

/-- Every byte from an offset is in a filled sector or written. -/
def Line.has (l : Line) (off n : Nat) : Bool :=
  l.fill.testBit (off / 64) || (List.range n).all (fun i => l.wm.testBit (off + i))

/-- A sector of a line is filled: written bytes stay. -/
def Line.fillSec (l : Line) (sec : Nat) (bs : List Byte) (p : Nat) : Line :=
  let data := l.data.zipIdx.map (fun x =>
    if x.2 / 64 == sec && !l.wm.testBit x.2 then bs.getD (x.2 % 64) 0 else x.1)
  let whole (u : Nat) : Bool := (List.range 32).all (fun i => l.wm.testBit (32 * u + i))
  let us := [2 * sec, 2 * sec + 1]
  let bad := maskOf8 (us.filter (fun u => l.bad.testBit u || (p.testBit (u % 2) && !whole u)))
  { l with data := data, fill := l.fill ||| 2 ^ sec, p := maskSub l.p (maskOf8 us) ||| bad }

/-- An L1 line that holds nothing yet. -/
def Line.blank (key : Nat) (first : Bool) : Line := ⟨List.replicate 256 0, 0, 0, 0, [], key, 0, first, 0, 0⟩

/-- The scope is performed at the L1 (R193). -/
def State.atL1 (s : State) (a : Acc) (sc : Scope) : Bool :=
  match sc with
  | .grp | .team => !a.eng
  | .clus => !a.eng && s.fused a
  | _ => false

/-- The L1 line of an address under a key, allocated when absent. -/
def State.l1Line (s : State) (a : Acc) (c line key : Nat) (first : Bool) : State :=
  let s := match SMap.get? (s.core c).l1 line with
    | some l => if l.key == key then s else s.l1Out a c line
    | none => s
  match SMap.get? (s.core c).l1 line with
  | some _ => s
  | none => (s.l1Room a c).updCore c (fun x => { x with l1 := SMap.put x.l1 line (Line.blank key first) })

/-- A load's sector is filled from L2 where it is not (R348). -/
def State.l1Fill (s : State) (a : Acc) (c : Nat) (g : Seg) (first : Bool) : State :=
  let line := g.pa / 256
  match SMap.get? (s.core c).l1 line with
  | none => s
  | some l =>
    if l.has (g.pa % 256) g.len then s
    else
      let r := s.l2Get a false (g.pa / 64 * 64) 64 g.key
      r.1.updCore c (fun x => { x with l1 := SMap.upd x.l1 line (fun l =>
        { l.fillSec (g.pa % 256 / 64) r.2.1 r.2.2 with first := l.first || first }) })

/-- A no-allocate load that L1 does not hold whole reads L2 and fills nothing (R348): the bytes that L1 holds written stay.
-/
def State.readPast (s : State) (a : Acc) (c : Nat) (g : Seg) : State × List Byte × Bool :=
  let r := s.l2Get a false (g.pa / 64 * 64) 64 g.key
  let l := match SMap.get? (r.1.core c).l1 (g.pa / 256) with
    | some l => if l.key == g.key then l else Line.blank g.key false
    | none => Line.blank g.key false
  let v := (l.fillSec (g.pa % 256 / 64) r.2.1 r.2.2).rd (g.pa % 256) g.len
  (r.1, v.1, v.2 != 0)

-- Memory-side pages (R191, R344, R345, R366)

/-- A request to a memory-side page at its base die: clocks travel along, and a packet is sent in the module (R366). -/
def State.msSend (s : State) (kind pa n : Nat) (q : ReqData) (a : Acc) : State :=
  match s.mod.place pa with
  | .die _ => s.portReq kind pa (lineMask pa n) { q with
      team := a.team, die := some a.die, lanes := if kind == 3 then q.lanes.map (fun l => (pa % 256, l.2)) else q.lanes } a.ctx
  | _ => s.cxlMeter a.die a.ctx n

/-- The clocks of a die and of the home of an address meet (R289). -/
def State.meetAt (s : State) (d pa : Nat) : State :=
  match s.mod.place pa with
  | .die h => s.meet d h (pa / 256)
  | _ => s

/-- A cache still holds a line that is accessed as a memory-side one: its page got the attribute and was not invalidated
before (R211). -/
def State.msStale (s : State) (line : Nat) : Bool :=
  s.cores.any (fun c => (SMap.get? c.2.l1 line).isSome) ||
    s.dies.any (fun d => (SMap.get? d.2.guest line).isSome || (SMap.get? d.2.far line).isSome ||
      (SMap.get? d.2.l2 line).isSome || d.2.msc.any (fun e => e.2.line == line))

/-- A copy holds unpredictable bytes from now on. -/
def Line.spoil (draw : Nat) (l : Line) : Line := { l with data := (List.range 256).map (Config.freeByte draw) }

/-- A write of a memory-side page whose line a cache still holds leaves the line unpredictable in every copy (R211). -/
def State.spoilLine (s : State) (line : Nat) : State :=
  let f (m : SMap Line) : SMap Line := SMap.upd m line (Line.spoil s.draws)
  { s.draw with
    cores := SMap.mapV (fun (c : Core) => { c with l1 := f c.l1 }) s.cores
    dies := SMap.mapV (fun (d : Die) => { d with guest := f d.guest, far := f d.far }) s.dies }

/-- A write of bytes of one line of a memory-side page at its base die; unpredictable bytes while a cache holds the line. -/
def State.msPut (s : State) (pa : Nat) (bs : List Byte) : State :=
  if s.msStale (pa / 256) then
    let f := s.freeBytes bs.length
    (f.1.homeWrite pa f.2 0).spoilLine (pa / 256)
  else s.homeWrite pa bs 0

/-- Bytes of one line of a memory-side page at its base die; unpredictable while a cache still holds the line (R211). -/
def State.msGet (s : State) (pa n : Nat) : State × List Byte × Bool :=
  if s.msStale (pa / 256) then
    let f := s.freeBytes n
    (f.1, f.2, false)
  else s.homeRead pa n 0

/-- A read of bytes of one line of a memory-side page (R193, R366). -/
def State.msRead (s : State) (pa n : Nat) (a : Acc) : State × List Byte × Bool :=
  match s.mod.place pa with
  | .hole => s.holeRead a pa n
  | _ => ((s.meetAt a.die pa).msSend 1 pa n ReqData.none a).msGet pa n

/-- A write of bytes of one line of a memory-side page. -/
def State.msWrite (s : State) (pa : Nat) (bs : List Byte) (a : Acc) : State :=
  match s.mod.place pa with
  | .hole => s.holeWrite a pa
  | _ =>
    if s.mod.isLost pa then s.lostHit a.die a.ctx
    else ((s.meetAt a.die pa).msPut pa bs).msSend 2 pa bs.length ReqData.none a

-- Task windows (R458): the dies keep the slots; no cache and no link takes part.

/-- The slot and offset that a task window of the table in force holds at an address, for the VD and die of the access; none for any other
address. The slot 64 stands for everything beyond slot 63. -/
def State.taskAt (s : State) (a : Acc) (pa : Nat) : Option (Nat × Nat) :=
  match s.mod.place pa with
  | .cxl 3 _ i =>
    let o := pa - (s.mod.fwt[i]?.elim 0 (fun f => f.base))
    some ((((i * 256 + a.ctx / 256) * 16 + a.die) * 65 + min 64 (o / 1024)), o % 1024)
  | _ => none

/-- A slot before anything is written to it. -/
def TaskSlot.init : TaskSlot := ⟨List.replicate 320 0, .free⟩

/-- STATUS of a slot. -/
def taskCode : TaskSt → Nat
  | .free => 0 | .signing => 1 | .sent => 2 | .badbody => 3

/-- A byte of a slot: the body, STATUS, and zero elsewhere. -/
def TaskSlot.byte (t : TaskSlot) (o : Nat) : Byte :=
  if o < 320 then t.body.getD o 0 else if o == 0x3F0 then BitVec.ofNat 8 (taskCode t.st) else 0

/-- The slots take no write while they sign or wait. -/
def TaskSlot.open' (t : TaskSlot) : Bool := t.st == .free || t.st == .badbody

/-- The check of a doorbell: MAGIC, VERSION and zero fields. -/
def TaskSlot.bodyOk (t : TaskSlot) : Bool :=
  let z (o n : Nat) : Bool := ((t.body.drop o).take n).all (fun b => b == 0)
  leNat (t.body.take 4) == 0x4B54584B && leNat ((t.body.drop 4).take 2) == 1 && z 6 2 && z 9 3 && z 0x10 48

/-- A doorbell (R458, R469): a free slot goes on to SIGNING, or to BADBODY when its body is bad or its die can sign
nothing further. -/
def State.ringBell (s : State) (k : Nat) : State :=
  let t := SMap.getD s.mod.tasks TaskSlot.init k
  let dead := 2 ^ 25 ≤ (s.die (k / 65 % 16)).lmsLeaf
  if k % 65 == 64 || !t.open' then s
  else s.updMod (fun m => { m with
    tasks := SMap.put m.tasks k { t with st := if t.bodyOk && !dead then .signing else .badbody } })

def State.taskRead (s : State) (k o n : Nat) : List Byte :=
  let t := SMap.getD s.mod.tasks TaskSlot.init k
  (List.range n).map (fun i => if k % 65 == 64 then 0 else t.byte (o + i))

def State.taskWrite (s : State) (k o : Nat) (bs : List Byte) : State :=
  let t := SMap.getD s.mod.tasks TaskSlot.init k
  let s := if k % 65 == 64 || !t.open' then s else s.updMod (fun m => { m with
    tasks := SMap.put m.tasks k { t with body := bs.zipIdx.foldl (fun l b => setAt l (o + b.2) b.1) t.body } })
  if 0x3F8 < o + bs.length then s.ringBell k else s

/-- Read a stretch that lies in one 64-byte sector (R193, R348, R349). -/
def State.readCell (s : State) (a : Acc) (sc : Scope) (pol : Pol) (g : Seg) : State × List Byte × Bool :=
  if diagBase ≤ g.pa then s.holeRead a g.pa g.len
  else match s.taskAt a g.pa with
  | some k => (s, s.taskRead k.1 k.2 g.len, false)
  | none =>
  if g.ms then s.msRead g.pa g.len a
  else if a.eng then s.l2Read a false g.pa g.len g.key
  else
    let c := s.l1Core a g.pa
    let line := g.pa / 256
    if s.atL1 a sc then
      let held := (SMap.get? (s.core c).l1 line).any (fun l => l.key == g.key && l.has (g.pa % 256) g.len)
      if !held && (pol == .na || pol == .ms) then s.readPast a c g
      else
        let s := (s.l1Line a c line g.key (pol == .str)).l1Fill a c g (pol == .str)
        match SMap.get? (s.core c).l1 line with
        | some l => let r := l.rd (g.pa % 256) g.len; (s, r.1, r.2 != 0)
        | none => s.l2Read a false g.pa g.len g.key
    else (s.l1Send a c line allBytes).l2Read a (sc == .sys) g.pa g.len g.key

/-- Write a stretch that lies in one 64-byte sector (R193, R348, R349): a present L1 copy takes part. -/
def State.writeCell (s : State) (a : Acc) (sc : Scope) (pol : Pol) (g : Seg) (bs : List Byte) : State :=
  if diagBase ≤ g.pa then s
  else match s.taskAt a g.pa with
  | some k => s.taskWrite k.1 k.2 bs
  | none =>
  if g.ms then s.msWrite g.pa bs a
  else if a.eng then s.l2Write a false (addrBytes g.pa bs) (.clear (coverUnits g.pa bs.length)) g.key
  else
    let c := s.l1Core a g.pa
    let line := g.pa / 256
    let put (s : State) (dirty : Bool) : State := s.updCore c (fun x => { x with
      l1 := SMap.upd x.l1 line (fun l =>
        let l := l.wr (g.pa % 256) bs dirty a.team
        { (if dirty then l else l.sent (maskAt (g.pa % 256) bs.length)) with first := l.first || pol == .str }) })
    let direct (s : State) : State :=
      put (s.l2Write a (sc == .sys) (addrBytes g.pa bs) (.clear (coverUnits g.pa bs.length)) g.key) false
    if s.atL1 a sc then
      if pol == .na || pol == .ms then direct s else put (s.l1Line a c line g.key (pol == .str)) true
    else direct (s.l1Send a c line allBytes)

/-- Read a team-store stretch: bytes and the poison of its words (R46, R198). -/
def Core.tsByte (c : Core) (a : Nat) : Byte :=
  match SMap.get? c.ts a with
  | some b => b
  | none => match c.tsDef.find? (fun d => d.base ≤ a && a < d.base + d.size) with
    | some d => match d.draw with | some n => Config.freeByte n (a - d.base) | none => 0
    | none => 0

/-- Words of a team-store stretch. -/
def wordsOf (a n : Nat) : List Nat :=
  (List.range (if n == 0 then 0 else (a + n - 1) / 4 - a / 4 + 1)).map (fun i => a / 4 + i)

def State.tsRead (s : State) (core a n : Nat) : List Byte × Bool :=
  let c := s.core core
  ((List.range n).map (fun i => c.tsByte (a + i)), (wordsOf a n).any (fun w => SMap.getD c.tsP false w))

/-- Write a team-store stretch; the words written get the poison flag given (R199, R242). -/
def State.tsWrite (s : State) (core a : Nat) (bs : List Byte) (p : Bool) : State :=
  s.updCore core (fun c => { c with
    ts := bs.zipIdx.foldl (fun m b => SMap.put m (a + b.2) b.1) c.ts
    tsP := (wordsOf a bs.length).foldl (fun m w => SMap.set m false w p) c.tsP })

/-- Cut a stretch at 64-byte boundaries. -/
def chunks64 : Nat → Nat → Nat → List (Nat × Nat)
  | 0, _, _ => []
  | f + 1, a, n =>
    if n == 0 then []
    else
      let k := min n (64 - a % 64)
      (a, k) :: chunks64 f (a + k) (n - k)

/-- Read a stretch: team store or memory. -/
def State.readSeg (s : State) (a : Acc) (sc : Scope) (pol : Pol) (g : Seg) : State × List Byte × Bool :=
  if g.ts then let r := s.tsRead a.core g.pa g.len; (s, r.1, r.2)
  else (chunks64 (g.len / 64 + 2) g.pa g.len).foldl (fun x k =>
    let r := x.1.readCell a sc pol { g with pa := k.1, len := k.2 }
    (r.1, x.2.1 ++ r.2.1, x.2.2 || r.2.2)) (s, [], false)

/-- Write a stretch: team store or memory. -/
def State.writeSeg (s : State) (a : Acc) (sc : Scope) (pol : Pol) (g : Seg) (bs : List Byte) : State :=
  if g.ts then s.tsWrite a.core g.pa bs false
  else ((chunks64 (g.len / 64 + 2) g.pa g.len).foldl (fun (x : State × List Byte) k =>
    (x.1.writeCell a sc pol { g with pa := k.1, len := k.2 } (x.2.take k.2), x.2.drop k.2)) (s, bs)).1

/-- Read several stretches in order. -/
def State.readSegs (s : State) (a : Acc) (sc : Scope) (pol : Pol) (gs : List Seg) : State × List Byte × Bool :=
  gs.foldl (fun x g =>
    let r := x.1.readSeg a sc pol g
    (r.1, x.2.1 ++ r.2.1, x.2.2 || r.2.2)) (s, [], false)

/-- Write several stretches in order. -/
def State.writeSegs (s : State) (a : Acc) (sc : Scope) (pol : Pol) (gs : List Seg) (bs : List Byte) : State :=
  (gs.foldl (fun (x : State × List Byte) g => (x.1.writeSeg a sc pol g (x.2.take g.len), x.2.drop g.len)) (s, bs)).1

/-- Mark what stands at stretches poisoned, as one that writes them as poison does (R242, R355): at the home, and in the
writer's own copy of the line. -/
def State.poisonSegs (s : State) (a : Acc) (gs : List Seg) : State :=
  gs.foldl (fun s g =>
    if g.ts then s.updCore a.core (fun c => { c with
      tsP := (wordsOf g.pa g.len).foldl (fun m w => SMap.set m false w true) c.tsP })
    else
      let bad (m : SMap Line) : SMap Line := (linesOf g.pa g.len).foldl (fun m l =>
        SMap.upd m l (fun x => { x with p := x.p ||| maskOf8 (((unitsOf g.pa g.len).filter (fun u => u / 8 == l)).map (fun u => u % 8)) })) m
      let s := { s with dies := SMap.mapV (fun (d : Die) => { d with guest := bad d.guest, far := bad d.far }) s.dies }
      s.poisonUnits (unitsOf g.pa g.len)) s

/-- Send to L2 the written bytes of an L1 that a test selects in each line (R349, R350). -/
def State.l1Flush (s : State) (a : Acc) (c : Nat) (sel : Nat → Line → Nat) : State :=
  (s.core c).l1.foldl (fun s e => if sel e.1 e.2 &&& e.2.wm == 0 then s else s.l1Send a c e.1 (sel e.1 e.2)) s

/-- Drop the clean sectors of a line with their poison; none when nothing of it is left. -/
def Line.clean (l : Line) : Option Line :=
  let keep := (List.range 4).filter (fun k => (List.range 64).any (fun i => l.wm.testBit (64 * k + i)))
  if keep.isEmpty then none
  else some { l with fill := l.fill &&& maskOf8 keep, p := l.p &&& maskOf8 (keep.flatMap (fun k => [2 * k, 2 * k + 1])) }

/-- Drop the clean sectors of an L1 (R349). -/
def State.l1Clean (s : State) (c : Nat) : State :=
  s.updCore c (fun x => { x with l1 := x.l1.filterMap (fun e => e.2.clean.map (fun l => (e.1, l))) })

/-- An address outside the module (R290). -/
def Module.outside (m : Module) (pa : Nat) : Bool := match m.place pa with | .cxl .. => true | _ => false

/-- What a fence does to the caches (R349, R290): `rel` says that stores or atomics precede, `acq` that loads
follow, `push` that writes of the group's engines precede. -/
def State.fenceCaches (s : State) (a : Acc) (sc : Scope) (rel acq push : Bool) : State :=
  if s.atL1 a sc then s
  else
    let cs := s.l1Cores a
    let s := if rel then cs.foldl (fun s c => s.l1Flush a c (fun _ l => SMap.getD l.own 0 a.team)) s else s
    let s := if acq then cs.foldl (fun s c => s.l1Clean c) s else s
    if sc != .sys then (if sc == .mod && (rel || push) then s.spread a.die else s)
    else
      let s := if acq then cs.foldl (fun s c =>
          ((SMap.keys (s.core c).l1).filter (fun l => s.mod.outside (l * 256))).foldl (fun s l => s.l1Out a c l) s) s
        else s
      let s := if rel || push || acq then (SMap.keys (s.die a.die).far).foldl (fun s l => s.farWb a.die l acq) s else s
      if rel || push then s.spread a.die else s

end Sys2Proof.Machine
end

