-- ==== Sys2Proof/Machine/Check.lean ====
section
/-! DEFINITION. The checks of a memory access before it is performed (07 R191, R194-R196, 01 R43-R46,
14 R373). -/

namespace Sys2Proof.Machine

/-- Which access is checked: rights, whether a memory-side page is demanded, refused or allowed, and the bytes
that must divide the address. -/
structure AccessSpec where
  need : Need
  msNeed : Bool
  msBar : Bool
  align : Nat

/-- A check's outcome: stretches, a cause with its rank in R195, or a tier object to wait for. -/
inductive Chk
  | ok (gs : List Seg) (es : List TlbE)
  | bad (rank : Nat) (t : Trap) (s2 : Option Nat)
  | tier (obj : Nat)

/-- Aperture value of a code. -/
def Group.aper (g : Group) (ap : BitVec 3) : Half := g.ap.getD ap.toNat 0

/-- The scratch bound and region base of a team (R46). -/
def State.scratch (s : State) (team : Nat) : Nat × Nat :=
  match SMap.get? s.teams team with | some t => (t.scratch, t.tsBase) | none => (0, 0)

/-- Pieces of a range that lie in one 64 KiB page. -/
def pages : Nat → Nat → Nat → List (Nat × Nat)
  | 0, _, _ => []
  | f + 1, a, n =>
    if n == 0 then []
    else
      let k := min n (65536 - a % 65536)
      (a, k) :: pages f (a + k) (n - k)

/-- A memory trap at an address: offset in `%tval`, aperture in `%tvalh` (R300). -/
def memTrap (cause : Nat) (ap : Half) (off : DWord) : Trap := ⟨BitVec.ofNat 8 cause, off, ap⟩

/-- A piece meets a tier object in LOW: lost, failed for who waits, or to be waited for (R195, R375). -/
def State.chkTier (s : State) (v obj who : Nat) (t : Nat → Trap) : Chk :=
  if s.objLost v obj then .bad 5 (t 0x0F) none
  else if (SMap.getD (s.vd v).objs TObj.init obj).failed.contains who then .bad 7 (t 0x11) none
  else .tier obj

/-- Where a translated piece leads: what is lost fails, and what the memory-side attribute demands or forbids (R191, R195,
R431). -/
def State.chkAt (s : State) (sp : AccessSpec) (t : Nat → Trap) (pa : Nat) (ms : Bool) (key n : Nat) (es : List TlbE) : Chk :=
  if s.mod.anyLost pa n then .bad 5 (t 0x0F) none
  else
    let kindBad := match s.mod.place pa with | .cxl k _ _ => k == 3 || k == 5 || k == 6 | _ => false
    if (sp.msNeed && !ms) || (sp.msBar && ms) || (ms && (key != 0 || kindBad)) then .bad 6 (t 0x10) none
    else .ok [⟨false, pa, ms, s.mod.dataKey pa key, n⟩] es

/-- Where the accesses of a diagnostic page stand (R371, R425). -/
def diagOff (diag : Bool) : Nat := if diag then diagBase else 0

/-- Check a translated piece. -/
def State.chkPiece (s : State) (core ctx gid : Nat) (sp : AccessSpec) (ap : Half) (off : DWord) (n : Nat) : Chk :=
  let t (c : Nat) : Trap := memTrap c ap off
  match translate s core ctx (vaOf ap off) sp.need with
  | .bad c s2 => .bad 4 (t c.toNat) s2
  | .tier obj => s.chkTier (ctx / 256) obj gid t
  | .ok e => s.chkAt sp t (e.addr (vaOf ap off) + diagOff e.diag) e.ms e.key n [e]

/-- Choose among the outcomes of an access's pieces, or of the lanes, in ascending order: the lowest rank, then the first;
a tier wait only when none fails (R195). -/
def chkLanes : List Chk → Chk
  | [] => .ok [] []
  | c :: cs =>
    match c, chkLanes cs with
    | .bad r t s2, .bad r' t' s2' => if r ≤ r' then .bad r t s2 else .bad r' t' s2'
    | .bad r t s2, _ => .bad r t s2
    | _, .bad r t s2 => .bad r t s2
    | .tier o, _ => .tier o
    | _, .tier o => .tier o
    | .ok gs es, .ok gs' es' => .ok (gs ++ gs') (es ++ es')

/-- Check one access of `n` bytes at an aperture code and offset (R43, R46, R194, R195). -/
def State.chk (s : State) (g : Group) (gid : Nat) (sp : AccessSpec) (code : BitVec 3) (off : DWord) (n : Nat) : Chk :=
  if code == 7 then
    let a := off.toNat % 2 ^ 32
    let sc := s.scratch g.team
    if a % sp.align != 0 then .bad 3 ⟨6, BitVec.ofNat 64 a, 0xFFFF⟩ none
    else if sc.1 < a + n then .bad 4 ⟨5, BitVec.ofNat 64 a, 0xFFFF⟩ none
    else if sp.msNeed then .bad 6 ⟨0x10, BitVec.ofNat 64 a, 0xFFFF⟩ none
    else .ok [⟨true, sc.2 + a, false, 0, n⟩] []
  else
    let ap := g.aper code
    if off.toNat % sp.align != 0 then .bad 3 (memTrap 6 ap off) none
    else chkLanes ((pages (n / 65536 + 2) off.toNat n).map (fun p =>
      s.chkPiece g.core g.ctx gid sp ap (BitVec.ofNat 64 p.1) p.2))

/-- The stretches of a passed check. -/
def Chk.segs : Chk → List Seg
  | .ok gs _ => gs
  | _ => []

/-- The tier object that an access waits for. -/
def Chk.waits : Chk → Option Nat
  | .tier o => some o
  | _ => none

/-- The stretch `n` bytes from `off` of a record's stretches. -/
def subSegs : List Seg → Nat → Nat → List Seg
  | [], _, _ => []
  | g :: gs, off, n =>
    if n == 0 then []
    else if g.len ≤ off then subSegs gs (off - g.len) n
    else
      let k := min n (g.len - off)
      { g with pa := g.pa + off, len := k } :: subSegs gs 0 (n - k)

/-- The offset of a memory operand in a lane: the pair plus the sign-extended literal (R43), or the 32-bit
team-store address (R46). -/
def GCtx.memOff (c : GCtx) (o : Opnd) (code : BitVec 3) (l : Nat) : DWord :=
  if code == 7 then
    (BitVec.ofNat 32 (c.data o l 1) + c.k.imm).zeroExtend 64
  else BitVec.ofNat 64 (c.data o l 2) + c.k.imm.signExtend 64

/-- Registers of a memory base (R191). -/
def baseRegs (code : BitVec 3) : Nat := if code == 7 then 1 else 2

end Sys2Proof.Machine
end

