-- ==== Sys2Proof/Machine/Device.lean ====
section
/-! DEFINITION. Accesses of the device itself: reads and writes in a context and at an IPA of a VD, the fault queue and
interrupts (14 R345, R373, 16 R390, R394, 17 R423-R430). -/

namespace Sys2Proof.Machine

/-- The interrupt of a vector of a VD (R430). The notice of an unusable vector goes to VD 0. -/
def State.vector (s : State) (v vec : Nat) : State × Bool :=
  let d := s.vd v
  let r := SMap.getD d.remap Remap.init vec
  if d.inf.nvec ≤ vec || !r.valid then (s, true)
  else if r.mask then (s.setVd v { d with remap := SMap.put d.remap vec { r with pend := true } }, false)
  else ((s.emit (.msi r.addr r.data)).setVd v { d with remap := SMap.put d.remap vec { r with pend := false } }, false)

/-- An interrupt notice (R427), posted to VD 0. Its own interrupt posts nothing further (R430). -/
def intNotice (v vec : Nat) : List Byte :=
  [0x82, 0] ++ leBytes 1 v ++ [0] ++ leBytes 2 vec ++ List.replicate 26 0

/-- The device asks for the promotion of an object (R373) and waits for it. Waiter 0 is no group. -/
def State.awaitTier (s : State) (v n : Nat) : State :=
  let o := SMap.getD (s.vd v).objs TObj.init n
  if o.waiters.contains 0 then s
  else s.updVd v (fun d => { d with objs := SMap.put d.objs n { o with waiters := o.waiters ++ [0] } })

/-- A failed promotion has ended the access that waited (R375). -/
def State.tierSeen (s : State) (v who : Nat) : State :=
  s.updVd v (fun d => { d with objs := SMap.mapV (fun o => { o with failed := o.failed.filter (fun x => x != who) }) d.objs })

/-- An access of the device fails its check (R375, R377). -/
def State.devFail (s : State) (die ctx who : Nat) (t : Trap) : State :=
  if t.cause == 0x0F then s.lostHit die ctx
  else if t.cause == 0x11 then s.tierSeen (ctx / 256) who
  else s

/-- What the device demands of a place: rights alone. -/
def devSpec (need : Need) : AccessSpec := ⟨need, false, false, 1⟩

/-- A stretch cut at the boundaries of lines. -/
def lineParts : Nat → Nat → Nat → List (Nat × Nat)
  | 0, _, _ => []
  | f + 1, a, n =>
    if n == 0 then []
    else
      let k := min n (256 - a % 256)
      (a, k) :: lineParts f (a + k) (n - k)

/-- The device reads a stretch at `.sys` (R345, R366, R371, R436). `who` is the context of a record, 0 for none. -/
def State.devGet (s : State) (a : Acc) (who : Nat) (g : Seg) : State × List Byte × Bool :=
  if diagBase ≤ g.pa then (s, (List.range g.len).map (fun i => s.diagRead (g.pa + i)), false)
  else match s.mod.place g.pa with
  | .hole =>
    let f := (s.relRec 12 1 a.die 0 who g.pa).freeBytes g.len
    (f.1, f.2, true)
  | p =>
    if g.ms then (lineParts (g.len / 256 + 2) g.pa g.len).foldl (fun x k =>
      let r := x.1.msRead k.1 k.2 a
      (r.1, x.2.1 ++ r.2.1, x.2.2 || r.2.2)) (s, [], false)
    else
      let s := match p with | .cxl .. => (s.cxlMeter a.die a.ctx g.len).cxlRead a.die a.ctx | _ => s
      s.homeRead g.pa g.len g.key

/-- The device writes a stretch at `.sys` (R345, R366, R425, R436). -/
def State.devSet (s : State) (a : Acc) (who : Nat) (g : Seg) (bs : List Byte) : State :=
  if diagBase ≤ g.pa then s
  else match s.mod.place g.pa with
  | .hole => s.relRec 12 1 a.die 0 who g.pa
  | p =>
    if g.ms then ((lineParts (g.len / 256 + 2) g.pa g.len).foldl (fun (x : State × List Byte) k =>
      (x.1.msWrite k.1 (x.2.take k.2) a, x.2.drop k.2)) (s, bs)).1
    else
      let s := match p with | .cxl .. => s.cxlMeter a.die a.ctx g.len | _ => s
      s.devWrite g.pa bs g.key a.ctx a.cls

/-- Stretches read in order. -/
def State.devGets (s : State) (a : Acc) (who : Nat) (gs : List Seg) : State × List Byte × Bool :=
  gs.foldl (fun x g =>
    let r := x.1.devGet a who g
    (r.1, x.2.1 ++ r.2.1, x.2.2 || r.2.2)) (s, [], false)

/-- Stretches written in order. -/
def State.devSets (s : State) (a : Acc) (who : Nat) (gs : List Seg) (bs : List Byte) : State :=
  (gs.foldl (fun (x : State × List Byte) g => (x.1.devSet a who g (x.2.take g.len), x.2.drop g.len)) (s, bs)).1

/-- What a read of the device comes to: bytes with the poison of each piece, a failed check, or a tier object to wait for. -/
inductive DevRd
  | ok (s : State) (bs : List Byte) (ps : List Bool)
  | bad (s : State) (t : Trap)
  | tier (obj : Nat)

/-- The bytes read, if a check or poison does not stand against it. -/
def DevRd.bytes : DevRd → Option (List Byte)
  | .ok _ bs ps => if ps.any id then none else some bs
  | _ => none

/-- The state that a read leaves. -/
def DevRd.after (s : State) : DevRd → State
  | .ok t _ _ | .bad t _ => t
  | .tier _ => s

/-- The tier object that a read waits for. -/
def DevRd.waits : DevRd → Option Nat
  | .tier o => some o
  | _ => none

/-- What a write of the device comes to. -/
inductive DevWr
  | ok (s : State)
  | bad (s : State) (t : Trap)
  | tier (obj : Nat)

/-- The checks of an access of the device in a context (R390, R425); `who` waits for a promotion, 0 for the device. -/
def State.ctxChk (s : State) (die ctx who : Nat) (need : Need) (ap : Half) (off : DWord) (n : Nat) : Chk :=
  chkLanes ((pages (n / 65536 + 2) off.toNat n).map (fun p =>
    s.chkPiece (die * 128) ctx who (devSpec need) ap (BitVec.ofNat 64 p.1) p.2))

/-- Read in a context at `.sys` (R390), with the poison of each piece of a size. -/
def State.ctxRead (s : State) (die ctx who : Nat) (ap : Half) (off : DWord) (n piece : Nat) : DevRd :=
  match s.ctxChk die ctx who needR ap off n with
  | .ok gs _ =>
    let r := (List.range (n / piece)).foldl (fun (x : State × List Byte × List Bool) k =>
      let v := x.1.devGets (devAcc die ctx 0 0) (ctx + 1) (subSegs gs (piece * k) piece)
      (v.1, x.2.1 ++ v.2.1, x.2.2 ++ [v.2.2])) (s, [], [])
    .ok r.1 r.2.1 r.2.2
  | .bad _ t _ => .bad (s.devFail die ctx who t) t
  | .tier o => .tier o

/-- Write in a context at `.sys`, in a class (R356): all of it once every check has passed, else nothing. -/
def State.ctxWrite (s : State) (die ctx cls : Nat) (ap : Half) (off : DWord) (bs : List Byte) : DevWr :=
  match s.ctxChk die ctx 0 needW ap off bs.length with
  | .ok gs _ => .ok (s.devSets (devAcc die ctx cls 0) (ctx + 1) gs bs)
  | .bad _ t _ => .bad (s.devFail die ctx 0 t) t
  | .tier o => .tier o

/-- The checks of an access of the device at an IPA of a VD (R425). -/
def State.ipaChk (s : State) (v ipa n : Nat) (need : Need) : Chk :=
  let t (c : Nat) : Trap := memTrap c 0 0
  chkLanes ((pages (n / 65536 + 2) ipa n).map (fun p =>
    match walk2 s v p.1 with
    | .error (some o) => s.chkTier v o 0 t
    | .error none => .bad 4 (t 4) none
    | .ok l =>
      if (need.r && !l.r) || (need.w && !l.w) then .bad 4 (t 5) none
      else s.chkAt (devSpec need) t (l.pa + diagOff l.diag) l.ms (s.mod.keyTag l.key) p.2 []))

/-- Read at an IPA of a VD; none where a check fails. A tier object there is the caller's to wait for. -/
def State.ipaRead (s : State) (v ipa n : Nat) : Option (List Byte) :=
  match s.ipaChk v ipa n needR with
  | .ok gs _ => some (s.devGets (devAcc 0 (256 * v) 0 0) 0 gs).2.1
  | _ => none

/-- Write at an IPA of a VD; nothing where a check fails. -/
def State.ipaPut (s : State) (v ipa : Nat) (bs : List Byte) : State :=
  match s.ipaChk v ipa bs.length needW with
  | .ok gs _ => s.devSets (devAcc 0 (256 * v) 0 0) 0 gs bs
  | _ => s.tierSeen v 0

/-- Raise a vector of a VD, with the notice to VD 0 when it cannot be sent (R430). -/
def State.raiseVec (s : State) (v vec : Nat) : State :=
  let r := s.vector v vec
  if r.2 && v != 0 then { r.1 with devQ := r.1.devQ ++ [.post 0 (intNotice v vec)] } else r.1

/-- Put a record into a VD's fault queue: drop it when there is no base or the queue is full, else write it, then
TAIL, then the interrupt (R423, R427). The flag says that it does not wait for a tier object. -/
def State.postNow (s : State) (v : Nat) (bs : List Byte) : State × Bool :=
  let d := s.vd v
  let at' := d.fqbase.toNat + 32 * (d.fqtail.toNat % d.fqsize)
  let tl := d.fqbase.toNat + 32 * d.fqsize
  if d.fqbase == 0 || (d.fqtail - d.fqhead).toNat == d.fqsize then
    (s.setVd v { d with fqovf := d.fqovf + 1 }, true)
  else match (s.ipaChk v at' bs.length needW).waits.or (s.ipaChk v tl 4 needW).waits with
  | some o => (s.awaitTier v o, false)
  | none =>
    let s := (s.ipaPut v at' bs).updVd v (fun d => { d with fqtail := d.fqtail + 1 })
    ((s.ipaPut v tl (leBytes 4 (d.fqtail.toNat + 1))).raiseVec v d.fqvec, true)

/-- One write or interrupt of the device takes place, or waits for a tier object (R373). A record whose page fails is dropped. -/
def State.devDo (s : State) : DevAct → State × Bool
  | .post v bs => s.postNow v bs
  | .irq v vec => (s.raiseVec v vec, true)
  | .ipa v ipa bs => match s.ipaChk v ipa bs.length needW with
    | .tier o => (s.awaitTier v o, false)
    | _ => (s.ipaPut v ipa bs, true)
  | .ctx die cx cls ap off bs => match s.ctxWrite die cx cls ap off bs with
    | .ok t | .bad t _ => (t, true)
    | .tier o => (s.awaitTier (cx / 256) o, false)

/-- The writes of a list in order; behind one that waits, those of its VD wait too. -/
def devLoop : List DevAct → List DevAct → State → State
  | [], kept, s => { s with devQ := kept ++ s.devQ }
  | a :: as, kept, s =>
    if kept.any (fun b => b.vd == a.vd) then devLoop as (kept ++ [a]) s
    else
      let r := s.devDo a
      devLoop as (if r.2 then kept else kept ++ [a]) r.1

/-- What the device has to write goes on as far as it can; interrupt notices come last (R430). -/
def State.devDrain (s : State) : State :=
  let s := devLoop s.devQ [] { s with devQ := [] }
  devLoop s.devQ [] { s with devQ := [] }

/-- The device writes, or raises an interrupt, after what it has to write already. -/
def State.devPut (s : State) (a : DevAct) : State := State.devDrain { s with devQ := s.devQ ++ [a] }

/-- Write a record of the device at an IPA of a VD, if it is mapped. -/
def State.ipaWrite (s : State) (v ipa : Nat) (bs : List Byte) : State := s.devPut (.ipa v ipa bs)

/-- Raise a vector of a VD. -/
def State.interrupt (s : State) (v vec : Nat) : State := s.devPut (.irq v vec)

/-- Post a record to a VD's fault queue and send its interrupt (R427). -/
def State.fqPost (s : State) (v : Nat) (bs : List Byte) : State := s.devPut (.post v bs)

/-- Write in a context what the device reports there; nothing when its page fails. -/
def State.ctxReport (s : State) (die ctx : Nat) (ap : Half) (off : DWord) (bs : List Byte) : State :=
  s.devPut (.ctx die ctx 0 ap off bs)

end Sys2Proof.Machine
end

