-- ==== Sys2Proof/Machine/Approx.lean ====
section
/-! DEFINITION. The approximations of `frcp` and `fsfu` (05_isa_float.md R147, R148). The value y' is a
free value of Config, taken where it lies within the bound the spec states; the exact value, or a value
inside an enclosure of it narrower than 2^-140, stands in otherwise. So y' ranges over exactly the
functions the bounds allow, up to the width of the enclosure. -/

namespace Sys2Proof.Machine

/-- A dyadic number: sign, significand, exponent. -/
abbrev Dy := Bool × Nat × Int

/-- Order of two dyadic numbers. -/
def dyLt (x y : Dy) : Bool :=
  let e := min x.2.2 y.2.2
  scaled e x < scaled e y

/-- Sum of two dyadic numbers. -/
def dyAdd (x y : Dy) : Dy :=
  let e := min x.2.2 y.2.2
  let v := scaled e x + scaled e y
  (v < 0, v.natAbs, e)

def dyMul (x y : Dy) : Dy := (x.1 != y.1, x.2.1 * y.2.1, x.2.2 + y.2.2)
def dyNeg (x : Dy) : Dy := (!x.1, x.2.1, x.2.2)
def dyPow (k : Int) : Dy := (false, 1, k)
def dyFV (x : Dy) : FV := .fin x.1 x.2.1 x.2.2

/-- A candidate of a size that any bounded approximation has. -/
def saneDy (c : Dy) : Bool := c.2.1 < 2 ^ 300 && -5000 < c.2.2 && c.2.2 < 5000

/-- Exponent of the ulp of the carrier's data at a value whose floor(log2) is `l`. -/
def ulpExp (f : Fmt) (l : Int) : Int := max l f.emin - f.fb

/-- The candidate when it lies within `b` of every point of the enclosure [lo, hi], else `lo`: so it never passes the bound
of R148, which a difference of `b` itself meets (log 97). -/
def bounded (c lo hi b : Dy) : FV :=
  if saneDy c && !dyLt (dyAdd lo b) c && !dyLt c (dyAdd hi (dyNeg b)) then dyFV c else dyFV lo

/-- `m` is a power of two. -/
def pow2 (m : Nat) : Bool := m == 2 ^ m.log2

/-- `frcp.rcp` of a non-zero finite value: within one ulp at y = 1/x, exact for ±2^n (R147). -/
def rcpFin (f : Fmt) (c : Dy) (neg : Bool) (m : Nat) (e : Int) : FV :=
  let l := -(ilog m e) - (if pow2 m then 0 else 1)
  if pow2 m && f.emin ≤ l && l ≤ f.emax then .fin neg 1 l
  else
    let x : Dy := (neg, m, e)
    let d := dyAdd (dyMul c x) (true, 1, 0)
    let ux := dyMul (dyPow (ulpExp f l)) (false, m, e)
    if saneDy c && dyLt (false, d.2) ux then dyFV c
    else (divFV (.fin false 1 0) (.fin neg m e)).1

/-- `frcp.rsq` of a positive finite value: within one ulp at y = 1/√x, exact for 4^n (R147). -/
def rsqFin (f : Fmt) (c : Dy) (m : Nat) (e : Int) : FV :=
  let l0 := -(ilog m e) - (if pow2 m then 0 else 1)
  let l := l0 / 2
  if pow2 m && l0 % 2 == 0 && f.emin ≤ l && l ≤ f.emax then .fin false 1 l
  else
    let x : Dy := (false, m, e)
    let u := dyPow (ulpExp f l)
    let a := dyAdd c (dyNeg u)
    let b := dyAdd c u
    let low := a.1 || dyLt (dyMul (dyMul a a) x) (dyPow 0)
    let high := !b.1 && dyLt (dyPow 0) (dyMul (dyMul b b) x)
    if saneDy c && low && high then dyFV c
    else (sqrtFV (divFV (.fin false 1 0) (.fin false m e)).1).1

/-- `frcp` (R147). -/
def frcp (rsq : Bool) (f : Fmt) (c : Dy) (x : FV) : FV × Flags :=
  match x with
  | .nan s => (.nan false, if s then NV else 0)
  | .inf n => if rsq && n then (.nan false, NV) else (.fin n 0 0, 0)
  | .fin n m e =>
    if m == 0 then (.inf n, DZ)
    else if rsq then (if n then (.nan false, NV) else (rsqFin f c m e, 0))
    else (rcpFin f c n m e, 0)

-- Enclosures in fixed point with `fx` fraction bits.

def fx : Nat := 160
/-- π·2^512 and ln 2·2^512, truncated. -/
def piBits : Nat := 0x3243f6a8885a308d313198a2e03707344a4093822299f31d0082efa98ec4e6c89452821e638d01377be5466cf34e90c6cc0ac29b7c97c50dd3f84d5b5b5470917
def ln2Bits : Nat := 0xb17217f7d1cf79abc9e3b39803f2f6af40f343267298b62d8a0d175b8baafa2be7b876206debac98559552fb4afa1b10ed2eae35c138214427573b291169b825

def one : Nat := 2 ^ fx
def ln2 : Nat := ln2Bits / 2 ^ (512 - fx)

/-- Σ z^k / k! from k, `t` the current term. -/
def expGo (z : Nat) : Nat → Nat → Nat → Nat
  | 0, _, _ => 0
  | n + 1, k, t => t + expGo z n (k + 1) (t * z / one / (k + 1))

/-- A lower bound of 2^f·2^fx for the fraction f/2^fx; the value is at most 2^10 above it. -/
def exp2Frac (f : Nat) : Nat := expGo (f * ln2 / one) 48 0 one

/-- Width of every enclosure, in units of 2^-fx. -/
def slack : Nat := 2 ^ 12

/-- `exp2` of ±m·2^e (R148). -/
def exp2Fin (f : Fmt) (w32 : Bool) (c : Dy) (neg : Bool) (m : Nat) (e : Int) : FV :=
  let k : Int := if w32 then 2 else 1
  if 12 ≤ ilog m e then
    if neg then bounded c (false, 0, 0) (dyPow (-4000)) (false, k.toNat, f.emin - f.fb)
    else .fin false 1 100000
  else
    let v := scaled (min e (-fx)) (neg, m, e)
    let sh := (-(min e (-fx)) - fx).toNat
    let x := v / 2 ^ sh
    let n := x / one
    let fr := (x % one).toNat
    let b : Dy := (false, k.toNat, ulpExp f n)
    if fr == 0 && v % 2 ^ sh == 0 then
      if w32 && f.emin ≤ n && n ≤ f.emax then .fin false 1 n else bounded c (dyPow n) (dyPow n) b
    else
      let s := exp2Frac fr
      bounded c (false, s, n - fx) (false, min (s + slack) (2 * one), n - fx) b

/-- Σ s^(2i+1)/(2i+1). -/
def artanhGo (s2 : Nat) : Nat → Nat → Nat → Nat
  | 0, _, _ => 0
  | n + 1, k, t => t / k + artanhGo s2 n (k + 2) (t * s2 / one)

/-- floor(log2) of the larger end of an enclosure of a value near ±v·2^-fx. -/
def ilogFx (v : Int) : Int :=
  let a := v.natAbs + slack
  (a.log2 : Int) - fx

/-- `log2` of m·2^e > 0 (R148). -/
def log2Fin (f : Fmt) (w32 : Bool) (c : Dy) (m : Nat) (e : Int) : FV :=
  let k := ilog m e
  if w32 && pow2 m then ofInt false k 0
  else
    let g := m * one / 2 ^ m.log2
    let s := (g - one) * one / (g + one)
    let ln := 2 * artanhGo (s * s / one) 56 1 s
    let y : Int := k * one + (ln * one / ln2 : Nat)
    let near := (k == -1 || k == 0) || (k == 1 && pow2 m)
    let b : Dy := if w32 && near then dyPow (-22)
      else (false, if w32 then 2 else 1, ulpExp f (ilogFx y))
    let lo : Dy := (y < 0, y.natAbs, -fx)
    bounded c lo (if pow2 m then lo else dyAdd lo (false, slack, -fx)) b

/-- Taylor terms of sine (from k = 1, t = r) or cosine (from k = 0, t = 1), signs alternating. -/
def trigGo (r2 : Nat) : Nat → Nat → Bool → Nat → Int
  | 0, _, _, _ => 0
  | n + 1, k, neg, t =>
    (if neg then -(t : Int) else t) + trigGo r2 n (k + 2) (!neg) (t * r2 / one / ((k + 1) * (k + 2)))

/-- sin or cos of ±m·2^e (R148), within an absolute bound `b`. -/
def trigFin (cos : Bool) (c : Dy) (b : Dy) (neg : Bool) (m : Nat) (e : Int) : FV :=
  let x := (quant m e (-512)).1
  let h := piBits / 2
  let q := x / h + (if cos then 1 else 0)
  let r := x % h / 2 ^ (512 - fx)
  let r2 := r * r / one
  let v := if q % 2 == 0 then trigGo r2 32 1 false r else trigGo r2 32 0 false one
  let y := if (q % 4 ≥ 2) != (neg && !cos) then -v else v
  let d : Dy := (y < 0, y.natAbs, -fx)
  if ilog m e < -70 then
    let low : Dy := (neg, m * (2 ^ 60 - 1), e - 60)
    if cos then bounded c (dyAdd (dyPow 0) (true, m * m, 2 * e - 1)) (dyPow 0) b
    else if neg then bounded c (neg, m, e) low b
    else bounded c low (neg, m, e) b
  else bounded c (dyAdd d (true, slack, -fx)) (dyAdd d (false, slack, -fx)) b

/-- The candidate when it lies in [−1, 1], else 0. -/
def unitFV (c : Dy) : FV :=
  if saneDy c && !dyLt (dyPow 0) (false, c.2) then dyFV c else .fin false 0 0

/-- tanh of ±m·2^e (R148). -/
def tanhFin (f : Fmt) (w32 : Bool) (c : Dy) (neg : Bool) (m : Nat) (e : Int) : FV :=
  let l := ilog m e
  let nine := dyLt (false, m, e) (false, 9, 0)
  if w32 && !nine then .fin neg 1 0
  else
    let iv : Dy × Dy :=
      if !nine then ((false, 2 ^ 25 - 1, -25), dyPow 0)
      else if l < -30 then ((false, m * (2 ^ 60 - 1), e - 60), (false, m, e))
      else
        let a := (quant m e (-fx)).1
        let w := 2 * a * one / ln2
        let s := exp2Frac (w % one) * 2 ^ (w / one)
        let y := one - 2 * one * one / (s + one)
        ((false, y - slack, -fx), (false, y + slack, -fx))
    let ly : Int := if iv.1.2.1 == 0 then f.emin else ilog iv.1.2.1 iv.1.2.2
    let b : Dy := if w32 && l < 0 then dyPow (-22) else (false, if w32 then 2 else 1, ulpExp f ly)
    if neg then bounded c (dyNeg iv.2) (dyNeg iv.1) b else bounded c iv.1 iv.2 b

/-- The functions of `fsfu` (R148). -/
inductive Sfu | exp2 | log2 | sin | cos | tanh
deriving DecidableEq, Repr

/-- `fsfu` (R148); `w32` selects the FP32 column. -/
def fsfu (fn : Sfu) (f : Fmt) (w32 : Bool) (c : Dy) (x : FV) : FV × Flags :=
  match x with
  | .nan s => (.nan false, if s then NV else 0)
  | .inf n =>
    match fn with
    | .exp2 => (if n then .fin false 0 0 else .inf false, 0)
    | .log2 => if n then (.nan false, NV) else (.inf false, 0)
    | .sin | .cos => (.nan false, NV)
    | .tanh => (.fin n 1 0, 0)
  | .fin n m e =>
    let b : Dy := if w32 then dyPow (-21) else dyPow (-10)
    let big := w32 && dyLt (dyPow 16) (false, m, e)
    if m == 0 then
      match fn with
      | .exp2 => (if w32 then .fin false 1 0 else bounded c (dyPow 0) (dyPow 0) (dyPow (ulpExp f 0)), 0)
      | .log2 => (.inf true, DZ)
      | .sin | .tanh => (.fin n 0 0, 0)
      | .cos => (.fin false 1 0, 0)
    else
      match fn with
      | .exp2 => (exp2Fin f w32 c n m e, 0)
      | .log2 => if n then (.nan false, NV) else (log2Fin f w32 c m e, 0)
      | .sin => (if big then unitFV c else trigFin false c b n m e, 0)
      | .cos => (if big then unitFV c else trigFin true c b n m e, 0)
      | .tanh => (tanhFin f w32 c n m e, 0)

end Sys2Proof.Machine
end

