-- ==== Sys2Proof/Machine/Flags.lean ====
section
/-! DEFINITION. Conditions, combines and the exception flags (04 R135, 05 R153, 01 R38). -/

namespace Sys2Proof.Machine

/-- The combine of a compare with its predicate (R135, R153). -/
def combine (c : GCtx) (l : Nat) (cb : Option (Comb × PF)) (r : Bool) : Bool :=
  match cb with
  | none => r
  | some (.and, p) => r && c.pf l p
  | some (.or, p) => r || c.pf l p
  | some (.xor, p) => r != c.pf l p

/-- Integer conditions over the values and the bits of a and b (R135). -/
def icond (cc : ICc) (a b : Int) (x y : Nat) : Bool :=
  match cc with
  | .eq => x == y
  | .ne => x != y
  | .lt => a < b
  | .le => a ≤ b
  | .gt => b < a
  | .ge => b ≤ a
  | .tnz => x &&& y != 0
  | .tz => x &&& y == 0

/-- Floating-point conditions, and NV (R153). -/
def fcond (cc : FCc) (x y : FV) : Bool × Flags :=
  if anyNan [x, y] then
    let ordered := match cc with | .lt | .le | .gt | .ge => true | _ => false
    (cc == .ne || cc == .un, if ordered then NV else sigFlag [x, y])
  else
    let o := cmpFV x y
    (match cc with
     | .eq => o == .eq
     | .ne => o != .eq
     | .lt => o == .lt
     | .le => o != .gt
     | .gt => o == .gt
     | .ge => o != .lt
     | .un => false
     | .ord => true, 0)

/-- Bit `a + 2b + 4c` of a truth table (R124, R136). -/
def tableBit (t : Byte) (a b c : Bool) : Bool := t.getLsbD (a.toNat + 2 * b.toNat + 4 * c.toNat)

end Sys2Proof.Machine
end

