-- ==== Sys2Proof/Machine/IntOps.lean ====
section
/-! DEFINITION. The operations of 04_isa_integer.md over a group: arithmetic, bits, moves, predicates. -/

namespace Sys2Proof.Machine

/-- A `w`-bit number read as signed. -/
def toSigned (w x : Nat) : Int := if 2 ^ (w - 1) ≤ x then (x : Int) - 2 ^ w else x

/-- An element in its type's signedness. -/
def ival (ty : ITy) (x : Nat) : Int := if ty.signed then toSigned ty.width x else x

/-- v modulo 2^w. -/
def wrap (w : Nat) (v : Int) : Nat := (v % (2 ^ w : Nat)).toNat

/-- v clamped to [lo, hi]. -/
def clamp (lo hi v : Int) : Int := if v < lo then lo else if hi < v then hi else v

/-- The range of a `w`-bit integer. -/
def intMin (s : Bool) (w : Nat) : Int := if s then -(2 ^ (w - 1) : Nat) else 0
def intMax (s : Bool) (w : Nat) : Int := if s then (2 ^ (w - 1) : Nat) - 1 else (2 ^ w : Nat) - 1

/-- The exact result reduced to `w` bits: wrapped, or clamped under SAT (R116). -/
def reduce (s : Bool) (w : Nat) (sat : Bool) (v : Int) : Nat :=
  wrap w (if sat then clamp (intMin s w) (intMax s w) v else v)

/-- Element `k` of width `w`. -/
def elem (w k x : Nat) : Nat := x / 2 ^ (w * k) % 2 ^ w

/-- Element by element (R116). -/
def elemwise (ty : ITy) (f : Nat → Nat → Nat → Nat) (a b c : Nat) : Nat :=
  let w := ty.width
  (List.range ty.elems).foldl
    (fun r k => r + f (elem w k a) (elem w k b) (elem w k c) * 2 ^ (w * k)) 0

/-- An elementwise arithmetic form whose exact result is `f` of the values (R116). -/
def arith (x : IArgs) (nb nc : Nat) (f : Int → Int → Int → Int) : GBody :=
  let ty := x.ty
  intLane x ty.regs ty.regs nb nc (elemwise ty fun a b c =>
    reduce ty.signed ty.width x.sat (f (ival ty a) (ival ty b) (ival ty c)))

def opAdd (x : IArgs) : GBody := arith x x.ty.regs 0 (fun a b _ => a + b)
def opSub (x : IArgs) : GBody := arith x x.ty.regs 0 (fun a b _ => a - b)
def opMulLo (x : IArgs) : GBody := arith x x.ty.regs 0 (fun a b _ => a * b)
def opMulHi (x : IArgs) : GBody := arith x x.ty.regs 0 (fun a b _ => a * b / (2 ^ x.ty.width : Nat))
def opMad (x : IArgs) : GBody := arith x x.ty.regs x.ty.regs (fun a b c => a * b + c)

def opMulWide (x : IArgs) : GBody :=
  intLane x 2 1 1 0 (fun a b _ => wrap 64 (ival x.ty a * ival x.ty b))

/-- `imad.wide` (R120). -/
def opMadWide (x : IArgs) : GBody :=
  intLane x 2 1 1 2 fun a b c =>
    let z := if x.ty.signed then toSigned 64 c else c
    reduce x.ty.signed 64 x.sat (ival x.ty a * ival x.ty b + z)

/-- Quotient and remainder (R121). -/
def divRem (s : Bool) (w : Nat) (a b : Int) : Int × Int :=
  if b == 0 then (-1, a)
  else if s && a == intMin true w && b == -1 then (a, 0)
  else (a.tdiv b, a.tmod b)

def opDiv (x : IArgs) : GBody := arith x x.ty.regs 0 (fun a b _ => (divRem x.ty.signed x.ty.width a b).1)
def opRem (x : IArgs) : GBody := arith x x.ty.regs 0 (fun a b _ => (divRem x.ty.signed x.ty.width a b).2)
def opMin (x : IArgs) : GBody := arith x x.ty.regs 0 (fun a b _ => min a b)
def opMax (x : IArgs) : GBody := arith x x.ty.regs 0 (fun a b _ => max a b)
def opAbs (x : IArgs) : GBody := arith x 0 0 (fun a _ _ => if a < 0 then -a else a)
def opNeg (x : IArgs) : GBody := arith x 0 0 (fun a _ _ => -a)

/-- `addc` and `subb` (R123). -/
def opCarry (sub : Bool) (x : CarryArgs) : GBody := fun c =>
  let out := Out.of (c.ls.flatMap fun l =>
    let a : Int := c.data x.a l 1
    let b : Int := c.data x.b l 1
    let ci : Int := match x.pI with | some p => (c.pf l p).toNat | none => 0
    let v := if sub then a - b - ci else a + b + ci
    c.wr x.d l (plainImgs 1 false (wrap 32 v)) ++ c.wrP x.pO l (if sub then v < 0 else 2 ^ 32 ≤ v))
  c.unpoisoned [(x.a, 1), (x.b, 1)] out

/-- The truth table applied to each bit (R124). -/
def tableNat (t : Byte) (w a b c : Nat) : Nat :=
  (List.range w).foldl
    (fun r i => if tableBit t (a.testBit i) (b.testBit i) (c.testBit i) then r + 2 ^ i else r) 0

def opLop (x : IArgs) (t : Byte) : GBody :=
  let n := x.ty.regs
  intLane x n n n n (tableNat t (32 * n))

/-- A shift or rotate: one count for every element, the low image of b (R125). A poisoned count gives a poisoned result, as
any source does (R116), and is not consumed: DEDUCED, log 76. -/
def shiftForm (x : IArgs) (f : Nat → Nat → Nat → Nat) : GBody :=
  intLane x x.ty.regs x.ty.regs 1 0 fun a n _ => elemwise x.ty (fun e _ _ => f x.ty.width e n) a 0 0

def shlW (w a n : Nat) : Nat := if w ≤ n then 0 else a * 2 ^ n % 2 ^ w
def shrW (w a n : Nat) : Nat := if w ≤ n then 0 else a / 2 ^ n
def sraW (w a n : Nat) : Nat := wrap w (toSigned w a / (2 ^ min n w : Nat))
def rotlW (w a n : Nat) : Nat := shlW w a (n % w) + a / 2 ^ (w - n % w)
def rotrW (w a n : Nat) : Nat := rotlW w a (w - n % w)

/-- `shf` (R126). -/
def opShf (rot : Bool) (x : IArgs) : GBody :=
  intLane x 1 1 1 1 fun a b c =>
    let v := b * 2 ^ 32 + a
    let v := if rot then v + v * 2 ^ 64 else v
    v / 2 ^ (c % 64) % 2 ^ 32

/-- Leading zero bits of a `w`-bit value. -/
def clzW (w a : Nat) : Nat := if a == 0 then w else w - 1 - a.log2

/-- Trailing zero bits. -/
def ctzW (w a : Nat) : Nat := ((List.range w).find? (fun i => a.testBit i)).getD w

def popW (w a : Nat) : Nat := (List.range w).countP (fun i => a.testBit i)

def brevW (w a : Nat) : Nat :=
  (List.range w).foldl (fun r i => if a.testBit (w - 1 - i) then r + 2 ^ i else r) 0

def bswapW (w a : Nat) : Nat :=
  (List.range (w / 8)).foldl (fun r i => r + elem 8 (w / 8 - 1 - i) a * 2 ^ (8 * i)) 0

def clsW (w a : Nat) : Nat :=
  clzW w (if a.testBit (w - 1) then 2 ^ w - 1 - a else a) - 1

/-- A one-source form of `bcnt` (R127). -/
def bitForm (x : IArgs) (nd : Nat) (f : Nat → Nat → Nat) : GBody :=
  intLane x nd x.ty.regs 0 0 (fun a _ _ => f x.ty.width a)

/-- A form with a control operand: it is consumed when poisoned (R117). -/
def ctlForm (k : Opnd) (b : GBody) : GBody := fun c =>
  match c.consume [(k, 1)] c.ls with
  | some t => .error t
  | none => b c

/-- `bfx` (R128). -/
def opBfx (s : Bool) (x : IArgs) : GBody :=
  let w := x.ty.width
  ctlForm x.b <| intLane x x.ty.regs x.ty.regs 1 0 fun a k _ =>
    let pos := k % 256
    let len := min (k / 256 % 256) w
    if len == 0 then 0
    else if s then
      let f := wrap len (toSigned w a / (2 ^ pos : Nat))
      wrap w (toSigned len f)
    else a / 2 ^ pos % 2 ^ len

/-- `bfi` (R128). -/
def opBfi (x : IArgs) : GBody :=
  let w := x.ty.width
  ctlForm x.c <| intLane x x.ty.regs x.ty.regs x.ty.regs 1 fun a b k =>
    let pos := k % 256
    let len := min (k / 256 % 256) w
    (List.range w).foldl (fun r i =>
      let v := if pos ≤ i && i < pos + len then a.testBit (i - pos) else b.testBit i
      if v then r + 2 ^ i else r) 0

/-- One result byte of `prmt` (R129). -/
def prmtByte (v ctl : Nat) : Nat :=
  let s := elem 8 (ctl % 8) v
  match ctl / 16 % 4 with
  | 0 => s
  | 1 => 0
  | 2 => if s.testBit 7 then 255 else 0
  | _ => 255 - s

/-- `prmt` (R129): a poisoned control is consumed. -/
def opPrmt (x : IArgs) : GBody := fun c =>
  let out := perLane c x.d fun l =>
    let v := c.data x.b l 1 * 2 ^ 32 + c.data x.a l 1
    let k := c.data x.c l 1
    plainImgs 1 (c.pois x.a l 1 || c.pois x.b l 1)
      ((List.range 4).foldl (fun r j => r + prmtByte v (elem 8 j k) * 2 ^ (8 * j)) 0)
  c.unpoisoned [(x.c, 1)] out

/-- `lea` (R130). -/
def opLea (x : IArgs) (n : BitVec 3) : GBody :=
  intLane x 2 2 x.ty.regs 1 fun a b c =>
    wrap 64 (a + ival x.ty b * (2 ^ n.toNat : Nat) + toSigned 32 c)

/-- The exact sum of products of `idp` (R131). -/
def dotSum (n w : Nat) (sa sb : Bool) (a b : Nat) : Int :=
  (List.range n).foldl (fun r k =>
    let u := elem w k a
    let v := elem w k b
    r + (if sa then toSigned w u else u) * (if sb then toSigned w v else v)) 0

def opIdp (n w : Nat) (sa sb : Bool) (x : IArgs) : GBody :=
  intLane x 1 1 1 1 fun a b c => reduce true 32 x.sat (toSigned 32 c + dotSum n w sa sb a b)

/-- `sad` (R131). -/
def opSad (x : IArgs) : GBody :=
  intLane x 1 1 1 1 fun a b c =>
    let w := x.ty.width
    wrap 32 ((List.range x.ty.elems).foldl
      (fun r k => r + ((ival x.ty (elem w k a) - ival x.ty (elem w k b)).natAbs : Int)) (c : Int))

/-- `cvti` (R132). -/
def opCvti (x : IArgs) (dt : ITy) (e : BitVec 2) : GBody :=
  intLane x dt.regs x.ty.regs 0 0 fun a _ _ =>
    reduce dt.signed dt.width x.sat (ival x.ty (elem x.ty.width e.toNat a))

/-- `movl` (R133). -/
def opMovl (n : Nat) (x : IArgs) : GBody := fun c =>
  .ok (perLane c x.d fun _ => plainImgs n false (c.k.imm.toNat + c.k.ext.toNat * 2 ^ 32))

/-- `sel` (R134). -/
def opSel (n : Nat) (x : IArgs) (p : PF) : GBody := fun c =>
  .ok (perLane c x.d fun l => c.imgs (if c.pf l p then x.a else x.b) l n)

/-- `icmp` (R135). -/
def opIcmp (x : CmpArgs) (ty : ITy) (cc : ICc) : GBody := fun c =>
  let n := ty.regs
  let out := Out.of (c.ls.flatMap fun l =>
    let a := c.data x.a l n
    let b := c.data x.b l n
    c.wrP x.pD l (combine c l x.cb (icond cc (ival ty a) (ival ty b) a b)))
  c.unpoisoned [(x.a, n), (x.b, n)] out

/-- `plop` (R136). -/
def opPlop (t : Byte) (pD pA pB pC : BitVec 3) : GBody := fun c =>
  .ok (Out.of (c.ls.flatMap fun l =>
    c.wrP pD l (tableBit t (c.g.pred l pA) (c.g.pred l pB) (c.g.pred l pC))))

/-- A vote over the running path (R137): the lanes in which the predicate is true, and all of them. -/
def voteForm (x : VoteArgs) (f : GCtx → List Nat → List Nat → Nat) : GBody := fun c =>
  let all := maskLanes c.run
  .ok (Out.of (c.wr x.d 0 (plainImgs 1 false (f c (all.filter (fun l => c.pf l x.p)) all))))

/-- The mask of virtual lane numbers of a list of slots. -/
def vmask (g : Group) (ls : List Nat) : Nat :=
  (maskOf (fun n => ls.any (fun l => g.vlane l == n))).toNat

/-- The least of a list, or 32. -/
def leastOr32 (xs : List Nat) : Nat := xs.foldl min 32

def opVoteSome (x : VoteArgs) : GBody := voteForm x (fun _ t _ => if t.isEmpty then 0 else 1)
def opVoteEvery (x : VoteArgs) : GBody := voteForm x (fun _ t all => if t.length == all.length then 1 else 0)
def opVoteSame (x : VoteArgs) : GBody :=
  voteForm x (fun _ t all => if t.isEmpty || t.length == all.length then 1 else 0)
def opVoteMask (x : VoteArgs) : GBody := voteForm x (fun c t _ => vmask c.g t)
def opVoteCount (x : VoteArgs) : GBody := voteForm x (fun _ t _ => t.length)
def opVoteFirst (x : VoteArgs) : GBody := voteForm x (fun c t _ => leastOr32 (t.map c.g.vlane))

/-- `pmov.get` (R138). -/
def opPmovGet (d : Opnd) : GBody := fun c =>
  .ok (perLane c d fun l => plainImgs 1 false (128 + (c.g.lane l).pr.toNat))

/-- `pmov.set` (R138). -/
def opPmovSet (m : BitVec 7) (a : Opnd) : GBody := fun c =>
  let out := Out.of (c.ls.flatMap fun l =>
    ((List.range 7).filter (fun k => m.getLsbD k)).map (fun k => .p l k ((c.data a l 1).testBit k)))
  c.unpoisoned [(a, 1)] out

/-- The lowest slot of the running path whose virtual lane number is `n`. -/
def GCtx.slotOf (c : GCtx) (n : Nat) : Option Nat := (maskLanes c.run).find? (fun l => c.g.vlane l == n)

/-- `rdlane` (R139). -/
def opRdlane (n : Nat) (x : IArgs) : GBody := fun c =>
  let out := Out.of (c.wr x.d 0
    (match c.slotOf (c.data x.b 0 1 % 32) with
     | some l => c.imgs x.a l n
     | none => c.imgs x.c 0 n))
  c.unpoisoned [(x.b, 1)] out

end Sys2Proof.Machine
end

