-- ==== Sys2Proof/Machine/FloatOps.lean ====
section
/-! DEFINITION. The operations of 05_isa_float.md over a group. -/

namespace Sys2Proof.Machine

/-- The format of a carrier's elements (R61, R141). -/
def FTy.fmt : FTy → Fmt
  | .f32 => .f32
  | .f64 => .f64
  | .f16x2 => .f16
  | .bf16x2 => .bf16

/-- Elements of a carrier. -/
def FTy.elems (ft : FTy) : Nat := if ft.packed then 2 else 1

/-- Element `k` of a carrier with its glaze (R61). -/
def carElem (ft : FTy) (k data g : Nat) : Car :=
  let w := (FTy.fmt ft).w
  ⟨elem w k data, elem 2 k g⟩

/-- The element that an operand holds in a lane. -/
def carOf (c : GCtx) (ft : FTy) (o : Opnd) (l k : Nat) : Car :=
  carElem ft k (c.data o l ft.regs) (c.img o l 0).g.toNat

/-- Source modifiers on a carrier element: absolute value, then negate (R141). -/
def carMod (m : FMod) (f : Fmt) (x : Car) : Car :=
  let s := 2 ^ (f.w - 1)
  let neg := (if m.abs then false else decide (s ≤ x.bits)) != m.neg
  ⟨x.bits % s + (if neg then s else 0), x.g⟩

/-- `Ext` of a carrier element (R62). -/
def Car.ext (f : Fmt) (x : Car) : FV := f.ext x.bits x.g

/-- The images of a carrier from its elements (R61). -/
def carImgs (ft : FTy) (p : Bool) (xs : List Car) : List Image :=
  let w := (FTy.fmt ft).w
  let d := xs.zipIdx.foldl (fun a x => a + x.1.bits * 2 ^ (w * x.2)) 0
  let g := xs.zipIdx.foldl (fun a x => a + x.1.g * 4 ^ x.2) 0
  (List.range ft.regs).map
    (fun i => ⟨p, if i == 0 then BitVec.ofNat 8 g else 0, BitVec.ofNat 32 (d / 2 ^ (32 * i))⟩)

/-- An outcome per lane: images, flags and new `%rng`. -/
structure LaneOut where
  imgs : List Image
  fl : Flags
  rng : Option Word

/-- Gather the lanes' outcomes. -/
def gather (c : GCtx) (d : Opnd) (ls : List Nat) (f : Nat → LaneOut) : Out :=
  let os := ls.map (fun l => (l, f l))
  { w := os.flatMap (fun o => c.wr d o.1 o.2.imgs)
    fl := os.filterMap (fun o => if o.2.fl == 0 then none else some (o.1, o.2.fl))
    rng := os.filterMap (fun o => o.2.rng.map (fun r => (o.1, r))) }

/-- OR of a list of flags. -/
def orFlags (xs : List Flags) : Flags := xs.foldl (· ||| ·) 0

/-- The frame of R143: each element by `op`, narrowed by `RoundOdd`; P is the OR over the sources read, and the
rest is computed from the bits that they hold (log 109). -/
def fltLane (x : FArgs) (nb nc : Nat) (op : GCtx → Car → FV → FV → FV → FV × Flags) : GBody := fun c =>
  let ft := x.ft
  let f := FTy.fmt ft
  .ok (gather c x.d c.ls fun l =>
    let rs := (List.range (FTy.elems ft)).map fun k =>
      let a := carMod x.ma f (carOf c ft x.a l k)
      op c a (a.ext f) ((carMod x.mb f (carOf c ft x.b l k)).ext f) ((carMod x.mc f (carOf c ft x.c l k)).ext f)
    { imgs := carImgs ft (c.pois x.a l ft.regs || c.pois x.b l nb || c.pois x.c l nc)
        (rs.map (fun r => roundOdd f r.1))
      fl := orFlags (rs.map (fun r => r.2))
      rng := none })

def opFadd (x : FArgs) : GBody := fltLane x x.ft.regs 0 (fun c _ a b _ => sumFV c.rdn [a, b])
def opFsub (x : FArgs) : GBody :=
  fltLane x x.ft.regs 0 (fun c _ a b _ => sumFV c.rdn [a, b.setNeg (!b.neg)])
def opFmul (x : FArgs) : GBody := fltLane x x.ft.regs 0 (fun _ _ a b _ => mulFV a b)
def opFma (x : FArgs) : GBody := fltLane x x.ft.regs x.ft.regs (fun c _ a b z => dotFV c.rdn [(a, b)] z)
def opFdiv (x : FArgs) : GBody := fltLane x x.ft.regs 0 (fun _ _ a b _ => divFV a b)
def opFsqrt (x : FArgs) : GBody := fltLane x 0 0 (fun _ _ a _ _ => sqrtFV a)

/-- The free approximation for a source element (R147, R148). -/
def approxOf (fn : Nat) (ft : FTy) (a : Car) : Dy := Config.approx fn ft.ctorIdx (a.bits + a.g * 2 ^ 64)

def opFrcp (rsq : Bool) (x : FArgs) : GBody :=
  fltLane x 0 0 (fun _ a v _ _ => frcp rsq (FTy.fmt x.ft) (approxOf rsq.toNat x.ft a) v)

def opFsfu (fn : Sfu) (x : FArgs) : GBody :=
  fltLane x 0 0 (fun _ a v _ _ =>
    fsfu fn (FTy.fmt x.ft) (x.ft == .f32) (approxOf (2 + fn.ctorIdx) x.ft a) v)

/-- `hdot2` (R149). -/
def opHdot2 (ht : FTy) (x : FArgs) : GBody := fun c =>
  let f := FTy.fmt ht
  .ok (gather c x.d c.ls fun l =>
    let e (m : FMod) (o : Opnd) (k : Nat) := (carMod m f (carOf c ht o l k)).ext f
    let z := (carMod x.mc .f32 (carOf c .f32 x.c l 0)).ext .f32
    let r := dotFV c.rdn [(e x.ma x.a 0, e x.mb x.b 0), (e x.ma x.a 1, e x.mb x.b 1)] z
    { imgs := carImgs .f32 (c.pois x.a l 1 || c.pois x.b l 1 || c.pois x.c l 1) [roundOdd .f32 r.1]
      fl := r.2
      rng := none })

/-- The four forms of `fminmax` (R145). -/
structure MinMax where
  max : Bool
  num : Bool

/-- One element of `fminmax`: which source is chosen; none for the canonical NaN. -/
def MinMax.pick (m : MinMax) (x y : FV) : Option Bool :=
  match x.isNan, y.isNan with
  | true, true => none
  | true, false => if m.num then some false else none
  | false, true => if m.num then some true else none
  | false, false =>
    let o := cmpZ x y
    some (if m.max then o != .lt else o != .gt)

/-- `fminmax` (R145): the chosen image whole, with its glaze byte bit for bit where every element comes from one source
(R61, R74); the glaze of a mixed packed image is that of its elements (log 39). -/
def opMinMax (m : MinMax) (x : FArgs) : GBody := fun c =>
  let ft := x.ft
  let f := FTy.fmt ft
  .ok (gather c x.d c.ls fun l =>
    let rs := (List.range (FTy.elems ft)).map fun k =>
      let a := carMod x.ma f (carOf c ft x.a l k)
      let b := carMod x.mb f (carOf c ft x.b l k)
      let ch := m.pick (a.ext f) (b.ext f)
      (ch, match ch with | some true => a | some false => b | none => ⟨f.qnan, 0⟩,
        sigFlag [a.ext f, b.ext f])
    let p := c.pois x.a l ft.regs || c.pois x.b l ft.regs
    let is := carImgs ft p (rs.map (fun r => r.2.1))
    let one (ch : Bool) : Bool := rs.all (fun r => r.1 == some ch)
    let src (o : Opnd) : List Image := is.zipIdx.map fun i => { i.1 with g := (c.img o l i.2).g }
    let whole := if one true then src x.a else if one false then src x.b else is
    { imgs := whole, fl := orFlags (rs.map (fun r => r.2.2)), rng := none })

/-- `fscale` (R150). Of a pair b only the lower image is read, so only its P counts: DEDUCED, log 76. -/
def opFscale (x : FArgs) : GBody := fun c =>
  let ft := x.ft
  let f := FTy.fmt ft
  .ok (gather c x.d c.ls fun l =>
    let n := toSigned 32 (c.data x.b l 1)
    let vs := (List.range (FTy.elems ft)).map (fun k => (carMod x.ma f (carOf c ft x.a l k)).ext f)
    { imgs := carImgs ft (c.pois x.a l ft.regs || c.pois x.b l 1)
        (vs.map (fun v => roundOdd f (v.scale n)))
      fl := sigFlag vs
      rng := none })

/-- `fxtr.exp` of one element (R151). -/
def xtrExp (w : Nat) : FV → Nat
  | .fin _ m e => if m == 0 then 2 ^ (w - 1) else wrap w (ilog m e)
  | _ => 2 ^ (w - 1) - 1

/-- `fxtr.sig` of one element (R151). -/
def xtrSig : FV → FV
  | .fin n m e => if m == 0 then .fin n 0 0 else .fin n m (e - ilog m e)
  | x => x

def opXtrExp (x : FArgs) : GBody := fun c =>
  let ft := x.ft
  let f := FTy.fmt ft
  let w := if ft.packed then 16 else 32
  .ok (gather c x.d c.ls fun l =>
    let vs := (List.range (FTy.elems ft)).map (fun k => (carMod x.ma f (carOf c ft x.a l k)).ext f)
    { imgs := plainImgs 1 (c.pois x.a l ft.regs)
        (vs.zipIdx.foldl (fun a v => a + xtrExp w v.1 * 2 ^ (16 * v.2)) 0)
      fl := sigFlag vs
      rng := none })

def opXtrSig (x : FArgs) : GBody := fltLane x 0 0 (fun _ _ a _ _ => (xtrSig a, sigFlag [a]))

/-- SR acts as RNE where no `%rng` steps (R76, R152, R153). -/
def Mode.noSr : Mode → Mode
  | .sr => .rne
  | m => m

/-- `frnd` of one element (R152). -/
def frndFV (md : Mode) : FV → FV
  | .fin n m e => ofInt n (roundInt md 0 n m e).1 0
  | x => x

def opFrnd (x : RArgs) : GBody :=
  fltLane ⟨x.k, x.ft, .off, .off, .off, x.d, x.a, .none, .none⟩ 0 0
    (fun c _ a _ _ => (frndFV (c.mode x.rm).noSr a, sigFlag [a]))

/-- A compared operand: the extended value, or under `.r` its final rounding to its own format (R153). -/
def cmpVal (f : Fmt) (rm : Option Mode) (v : FV) : FV :=
  match rm with
  | none => v
  | some m => if v.isNan then v else f.dec (final f m false 0 v).bits

/-- `fcmp` (R153). -/
def opFcmp (x : CmpArgs) (ft : FTy) (ma mb : FMod) (cc : FCc) (rm : Option RM) : GBody := fun c =>
  let f := FTy.fmt ft
  let m := rm.map (fun r => (c.mode r).noSr)
  let rs := c.ls.map fun l =>
    let r := fcond cc (cmpVal f m ((carMod ma f (carOf c ft x.a l 0)).ext f))
      (cmpVal f m ((carMod mb f (carOf c ft x.b l 0)).ext f))
    (l, r)
  c.unpoisoned [(x.a, ft.regs), (x.b, ft.regs)]
    { w := rs.flatMap (fun r => c.wrP x.pD r.1 (combine c r.1 x.cb r.2.1))
      fl := rs.map (fun r => (r.1, r.2.2))
      rng := [] }

/-- The class mask of an element (R154). -/
def classMask (f : Fmt) (x : Car) : Nat :=
  let glz := if x.g == 0 then 0 else 2 ^ 10
  match x.ext f with
  | .nan s => if s then 2 ^ 9 else 2 ^ 8
  | .inf n => if n then 1 else 2 ^ 7
  | .fin n m _ =>
    glz + (if m == 0 then (if n then 2 ^ 3 else 2 ^ 4)
      else if x.bits / 2 ^ f.fb % 2 ^ f.eb == 0 then (if n then 2 ^ 2 else 2 ^ 5)
      else (if n then 2 else 2 ^ 6))

def classVal (c : GCtx) (ft : FTy) (o : Opnd) (l : Nat) : Nat :=
  (List.range (FTy.elems ft)).foldl
    (fun a k => a + classMask (FTy.fmt ft) (carOf c ft o l k) * 2 ^ (16 * k)) 0

/-- `fclass` (R154): it sets no flag, for a signalling NaN either: DEDUCED, log 76. -/
def opFclass (x : FArgs) : GBody := fun c =>
  .ok (perLane c x.d fun l => plainImgs 1 (c.pois x.a l x.ft.regs) (classVal c x.ft x.a l))

def opFclassP (ft : FTy) (pD : BitVec 3) (a b : Opnd) : GBody := fun c =>
  c.unpoisoned [(a, ft.regs), (b, 1)]
    (Out.of (c.ls.flatMap fun l => c.wrP pD l (classVal c ft a l &&& c.data b l 1 != 0)))

/-- `fcvt` (R155). -/
def opFcvt (df sf : FTy) (e : Bool) (d a b : Opnd) : GBody := fun c =>
  let f := FTy.fmt sf
  .ok (gather c d c.ls fun l =>
    let ev (o : Opnd) (k : Nat) := (carOf c sf o l k).ext f
    let two := df.packed && !sf.packed
    let vs := if two then [ev a 0, ev b 0]
      else if df.packed then [ev a 0, ev a 1]
      else [ev a e.toNat]
    { imgs := carImgs df (c.pois a l sf.regs || (two && c.pois b l sf.regs))
        (vs.map (roundOdd (FTy.fmt df)))
      fl := sigFlag vs
      rng := none })

/-- `icvtf` (R156). -/
def opIcvtf (df : FTy) (ty : BitVec 2) (d a b : Opnd) : GBody := fun c =>
  let n := if ty.toNat < 2 then 1 else 2
  let iv (l : Nat) (o : Opnd) : FV :=
    let x := c.data o l n
    ofInt false (if ty.getLsbD 0 then toSigned (32 * n) x else x) 0
  .ok (perLane c d fun l =>
    carImgs df (c.pois a l n || (df.packed && c.pois b l n))
      ((if df.packed then [iv l a, iv l b] else [iv l a]).map (roundOdd (FTy.fmt df))))

/-- `%rng`[31:16] of a lane (R72). -/
def srBits (r : Word) : Nat := r.toNat / 2 ^ 16

/-- The lane whose `%rng` a U=1 instruction uses, or the lane itself. -/
def GCtx.rngOf (c : GCtx) (l : Nat) : Word := (c.g.lane l).rng

/-- `fcvti` (R157). -/
def opFcvti (x : RArgs) (dt : BitVec 2) (sat e : Bool) : GBody := fun c =>
  let n := if dt.toNat < 2 then 1 else 2
  let s := dt.getLsbD 0
  let lo := intMin s (32 * n)
  let hi := intMax s (32 * n)
  .ok (gather c x.d c.ls fun l =>
    let p := c.pois x.a l x.ft.regs
    let r := c.rngOf l
    match (carOf c x.ft x.a l e.toNat).ext (FTy.fmt x.ft) with
    | .nan _ => ⟨plainImgs n p 0, NV, none⟩
    | .inf ng => ⟨plainImgs n p (wrap (32 * n) (if sat then (if ng then lo else hi) else 0)), NV, none⟩
    | .fin ng m ex =>
      let q := roundInt (c.mode x.rm) (srBits r) ng m ex
      let out := q.1 < lo || hi < q.1
      ⟨plainImgs n p (wrap (32 * n) (if sat then clamp lo hi q.1 else q.1)),
        if out then NV else if q.2.1 then NX else 0, if q.2.2 then some (rngStep r) else none⟩)

/-- Final rounding of elements in order, stepping one `%rng` (R72). -/
def finalSeq (f : Fmt) (md : Mode) (sat : Bool) : Word → List FV → List Nat × Flags × Word
  | r, [] => ([], 0, r)
  | r, v :: vs =>
    let x := final f md sat (srBits r) v
    let rest := finalSeq f md sat (if x.step then rngStep r else r) vs
    (x.bits :: rest.1, x.fl ||| rest.2.1, rest.2.2)

/-- `fin` (R158). -/
def opFin (x : RArgs) : GBody := fun c =>
  let ft := x.ft
  let f := FTy.fmt ft
  .ok (gather c x.d c.ls fun l =>
    let vs := (List.range (FTy.elems ft)).map (fun k => (carOf c ft x.a l k).ext f)
    let r := finalSeq f (c.mode x.rm) false (c.rngOf l) vs
    { imgs := carImgs ft (c.pois x.a l ft.regs) (r.1.map (fun b => ⟨b, 0⟩))
      fl := r.2.1
      rng := some r.2.2 })

/-- The glaze bits a carrier uses (R159). -/
def glazeMask (ft : FTy) : Nat := if ft.packed then 16 else 4

def opGlzGet (x : FArgs) : GBody := fun c =>
  .ok (perLane c x.d fun l =>
    plainImgs 1 (c.pois x.a l x.ft.regs) ((c.img x.a l 0).g.toNat % glazeMask x.ft))

/-- `glz.set` (R159): an infinity or NaN keeps a zero glaze. -/
def opGlzSet (x : FArgs) : GBody := fun c =>
  let ft := x.ft
  .ok (perLane c x.d fun l =>
    let g := c.data x.b l 1 % glazeMask ft
    carImgs ft (c.pois x.a l ft.regs || c.pois x.b l 1)
      ((List.range (FTy.elems ft)).map fun k =>
        let a := carOf c ft x.a l k
        match a.ext (FTy.fmt ft) with
        | .fin .. => ⟨a.bits, elem 2 k g⟩
        | _ => ⟨a.bits, 0⟩))

def opGlzClr (x : FArgs) : GBody := fun c =>
  .ok (perLane c x.d fun l => plainImgs x.ft.regs (c.pois x.a l x.ft.regs) (c.data x.a l x.ft.regs))

def opGlzTest (ft : FTy) (pD : BitVec 3) (a : Opnd) : GBody := fun c =>
  c.unpoisoned [(a, ft.regs)]
    (Out.of (c.ls.flatMap fun l => c.wrP pD l ((c.img a l 0).g.toNat % glazeMask ft != 0)))

/-- Narrow element formats (R160). -/
def EF.fmt : EF → Fmt
  | .e4m3 => .e4m3
  | .e5m2 => .e5m2
  | .e3m2 => .e3m2
  | .e2m3 => .e2m3
  | .e2m1 => .e2m1

/-- The block of FP32 carriers, one per slot; a lane outside the running path supplies +0 (R160). -/
def blockOf (c : GCtx) (a : Opnd) : List FV :=
  lanes32.map fun l => if inMask c.run l then (carOf c .f32 a l 0).ext .f32 else .fin false 0 0

/-- `MxScale` (R59). -/
def mxScale (f : Fmt) (xs : List FV) : Nat :=
  if xs.any (fun x => match x with | .fin .. => false | _ => true) then 0xFF
  else
    let ls := xs.filterMap (fun x => match x with
      | .fin _ m e => if m == 0 then none else some (ilog m e)
      | _ => none)
    match ls with
    | [] => 0x7F
    | y :: ys => (clamp 0 254 (ys.foldl max y - f.emax + 127)).toNat

/-- `mxsc` (R161). -/
def opMxsc (ef : EF) (d a : Opnd) : GBody := fun c =>
  let p := (maskLanes c.run).any (fun l => c.pois a l 1)
  .ok (Out.of (c.wr d 0 (plainImgs 1 p (mxScale (EF.fmt ef) (blockOf c a)))))

/-- Word `j` of the stream of elements of width `w` (R55, R160). -/
def streamWord (w : Nat) (xs : List Nat) (j : Nat) : Nat :=
  xs.zipIdx.foldl (fun a x => a + x.1 * 2 ^ (w * x.2)) 0 / 2 ^ (32 * j) % 2 ^ 32

/-- The elements any of whose bits lie in word `j` (R162). -/
def inWord (w i j : Nat) : Bool := w * i < 32 * (j + 1) && 32 * j < w * i + w

/-- `fpk` (R162). A scale saturates as `.sat` does (R59), so an infinite element under SCM 1 gives the largest finite value
with NV and no other flag: DEDUCED, log 76. -/
def opFpk (ef : EF) (rm : RM) (sat : Bool) (scm : Fin 3) (d a b sc : Opnd) : GBody := fun c =>
  let f := EF.fmt ef
  let blk := blockOf c a
  let s := match scm.val with
    | 0 => 127
    | 1 => c.data b c.low 1 % 256
    | _ => mxScale f blk
  let md := c.mode rm
  let es := blk.zipIdx.map fun x =>
    if !inMask c.run x.2 || s == 0xFF then (⟨0, 0, false⟩ : FinR)
    else final f md (sat || scm.val != 0) (srBits (c.rngOf x.2)) (x.1.scale (127 - (s : Int)))
  let ep := lanes32.map (fun l => inMask c.run l && c.pois a l 1)
  let anyP := ep.any id
  let ws := (maskLanes c.act).flatMap fun j =>
    let wp := ep.zipIdx.any (fun x => x.1 && inWord f.w x.2 j)
    let p := (scm.val == 2 && anyP) || (scm.val == 1 && c.pois b c.low 1) || wp
    c.wr d j (plainImgs 1 p (if j < f.w then streamWord f.w (es.map (fun r => r.bits)) j else 0))
  let act := es.zipIdx.filter (fun x => inMask c.act x.2)
  .ok { w := ws ++ (if scm.val == 2 && c.act != 0 then c.wr sc 0 (plainImgs 1 anyP s) else [])
        fl := act.map (fun x => (x.2, x.1.fl))
        rng := act.filterMap (fun x => if x.1.step then some (x.2, rngStep (c.rngOf x.2)) else none) }

/-- `fupk` (R163). -/
def opFupk (ef : EF) (scm : Fin 2) (d a b : Opnd) : GBody := fun c =>
  let f := EF.fmt ef
  let ws := lanes32.map (fun l => if inMask c.run l then c.data a l 1 else 0)
  let str := ws.zipIdx.foldl (fun acc x => if x.2 < f.w then acc + x.1 * 2 ^ (32 * x.2) else acc) 0
  let s := if scm.val == 1 then c.data b c.low 1 % 256 else 127
  .ok (perLane c d fun i =>
    let v := f.dec (str / 2 ^ (f.w * i) % 2 ^ f.w)
    let p := (maskLanes c.run).any (fun j => j < f.w && inWord f.w i j && c.pois a j 1)
    carImgs .f32 (p || (scm.val == 1 && c.pois b c.low 1))
      [if s == 0xFF then ⟨Fmt.f32.qnan, 0⟩ else roundOdd .f32 (v.scale ((s : Int) - 127))])

/-- `rng` (R164). -/
def opRng (d : Opnd) : GBody := fun c =>
  .ok (gather c d c.ls fun l =>
    ⟨plainImgs 1 false (c.rngOf l).toNat, 0, some (rngStep (c.rngOf l))⟩)

end Sys2Proof.Machine
end

