-- ==== Sys2Proof/Machine/LaneOps.lean ====
section
/-! DEFINITION. The cross-lane instructions of 06_isa_control_lanes.md (R183-R189) over a group. -/

namespace Sys2Proof.Machine

/-- The lane number from which a lane of segment width `w` reads (R185). -/
def shSel (w l b : Nat) : Option Nat := some (l - l % w + b % w)
def shSlide (w l b : Nat) : Option Nat :=
  let s : Int := l + toSigned 32 b
  let base : Int := l - l % w
  if base ≤ s && s < base + w then some s.toNat else none
def shRot (w l b : Nat) : Option Nat :=
  some (l - l % w + wrap64 (((l % w : Nat) : Int) + toSigned 32 b) w)
where
  /-- v mod w in 0..w-1. -/
  wrap64 (v : Int) (w : Nat) : Nat := (v % (w : Int)).toNat
def shFlip (w l b : Nat) : Option Nat := some (l - l % w + (l % w ^^^ b % w))

/-- `shfl` (R185). -/
def opShfl (pick : Nat → Nat → Nat → Option Nat) (x : ShArgs) : GBody := fun c =>
  let n := if x.w64 then 2 else 1
  let w := 32 / 2 ^ x.seg.val
  let member (m : Nat) : Bool := !x.mm || c.k.ext.getLsbD m
  let out := perLane c x.d fun l =>
    let v := c.g.vlane l
    let fall := c.imgs (if x.c == .none then x.a else x.c) l n
    match pick w v (c.data x.b l 1) with
    | none => fall
    | some s =>
      match c.slotOf s with
      | some j => if member v && member s then c.imgs x.a j n else fall
      | none => fall
  c.unpoisoned [(x.b, 1)] out

/-- A value in a reduction: DATA, the glaze bytes of its lower and upper image, P. -/
structure RV where
  d : Nat
  g : Nat
  h : Nat
  p : Bool

def RV.imgs (n : Nat) (x : RV) : List Image :=
  (List.range n).map
    (fun i => ⟨x.p, BitVec.ofNat 8 (if i == 0 then x.g else x.h), BitVec.ofNat 32 (x.d / 2 ^ (32 * i))⟩)

/-- Registers of a reduction's operand (R186). -/
def redRegs : RedOp → Nat
  | .addU64 | .faddF64 => 2
  | _ => 1

/-- The carrier of a float reduction. -/
def redCar : RedOp → Option FTy
  | .faddF32 | .fminF32 | .fmaxF32 => some .f32
  | .faddF64 => some .f64
  | _ => none

/-- The identity (R186). -/
def redIdent : RedOp → Nat
  | .minU32 | .and => 0xFFFFFFFF
  | .minI32 => 0x7FFFFFFF
  | .maxI32 => 0x80000000
  | .fminF32 => Fmt.f32.infBits false
  | .fmaxF32 => Fmt.f32.infBits true
  | _ => 0

/-- The extended value of a reduction's operand. -/
def RV.ext (ft : FTy) (x : RV) : FV := (carElem ft 0 x.d x.g).ext (FTy.fmt ft)

/-- Integer combination (R186). -/
def redInt (op : RedOp) (a b : Nat) : Nat :=
  match op with
  | .addU32 => (a + b) % 2 ^ 32
  | .addU64 => (a + b) % 2 ^ 64
  | .minU32 => min a b
  | .maxU32 => max a b
  | .minI32 => if toSigned 32 a ≤ toSigned 32 b then a else b
  | .maxI32 => if toSigned 32 a ≤ toSigned 32 b then b else a
  | .and => a &&& b
  | .or => a ||| b
  | .xor => a ^^^ b
  | _ => 0

/-- The combination of two present nodes, and NV for ∞ − ∞ (R78, R186). -/
def redComb (rdn : Bool) (op : RedOp) (a b : RV) : RV × Flags :=
  let p := a.p || b.p
  match redCar op with
  | none => (⟨redInt op a.d b.d, 0, 0, p⟩, 0)
  | some ft =>
    let f := FTy.fmt ft
    let x := a.ext ft
    let y := b.ext ft
    match op with
    | .faddF32 | .faddF64 =>
      let s := sumFV rdn [x, y]
      let r := roundOdd f s.1
      (⟨r.bits, r.g, 0, p⟩, if anyNan [x, y] then 0 else s.2)
    | _ =>
      match (MinMax.pick ⟨op == RedOp.fmaxF32, false⟩ x y) with
      | some true => ({ a with p := p }, 0)
      | some false => ({ b with p := p }, 0)
      | none => (⟨f.qnan, 0, 0, p⟩, 0)

/-- Combination of nodes that may be absent (R78). -/
def redOpt (rdn : Bool) (op : RedOp) : Option (RV × Flags) → Option (RV × Flags) → Option (RV × Flags)
  | some a, some b =>
    let r := redComb rdn op a.1 b.1
    some (r.1, r.2 ||| a.2 ||| b.2)
  | some a, none => some a
  | none, y => y

/-- The next level of the tree. -/
def redLevel (rdn : Bool) (op : RedOp) : List (Option (RV × Flags)) → List (Option (RV × Flags))
  | a :: b :: xs => redOpt rdn op a b :: redLevel rdn op xs
  | xs => xs

/-- The tree's levels, from the lanes up to the root. -/
def redLevels (rdn : Bool) (op : RedOp) : Nat → List (Option (RV × Flags)) → List (List (Option (RV × Flags)))
  | 0, xs => [xs]
  | n + 1, xs => xs :: redLevels rdn op n (redLevel rdn op xs)

/-- A final value: a NaN becomes the canonical one with zero glaze (R186). -/
def redFinish (op : RedOp) (x : RV) : RV :=
  match redCar op with
  | some ft => if (x.ext ft).isNan then { x with d := (FTy.fmt ft).qnan, g := 0, h := 0 } else x
  | none => { x with g := 0, h := 0 }

/-- The leaf of a participant, NV for a signalling NaN. -/
def redLeaf (c : GCtx) (op : RedOp) (a : Opnd) (l : Nat) : RV × Flags :=
  let x : RV := ⟨c.data a l (redRegs op), (c.img a l 0).g.toNat, (c.img a l 1).g.toNat, c.pois a l (redRegs op)⟩
  (x, match redCar op with | some ft => sigFlag [x.ext ft] | none => 0)

/-- The leaves of the participants of a mask, by physical slot. -/
def redLeaves (c : GCtx) (op : RedOp) (a : Opnd) (m : Word) : List (Option (RV × Flags)) :=
  lanes32.map (fun l => if inMask m l then some (redLeaf c op a l) else none)

/-- `redux` (R186). -/
def opRedux (op : RedOp) (d a : Opnd) : GBody := fun c =>
  let ls := redLeaves c op a (if c.k.u then c.run else c.act)
  let root := (redLevels c.rdn op 5 ls).getLast?.bind (fun xs => xs.head?.bind id)
  let r := match root with
    | some x => (redFinish op x.1, x.2)
    | none => (⟨redIdent op, 0, 0, false⟩, 0)
  .ok (gather c d c.ls (fun _ => ⟨r.1.imgs (redRegs op), r.2, none⟩))

/-- The aligned nodes that cover lanes 0 to n-1, left to right: (level, index) (R78). -/
def coverNodes (n : Nat) : List (Nat × Nat) :=
  [5, 4, 3, 2, 1, 0].filterMap (fun j => if n.testBit j then some (j, n / 2 ^ (j + 1) * 2) else none)

/-- `scan` (R186). -/
def opScan (op : RedOp) (ex : Bool) (d a : Opnd) : GBody := fun c =>
  let lv := redLevels c.rdn op 5 (redLeaves c op a c.act)
  .ok (gather c d c.ls fun l =>
    let n := if ex then l else l + 1
    let r := (coverNodes n).foldl
      (fun acc x => redOpt c.rdn op acc (((lv.getD x.1 []).getD x.2 none))) none
    match r with
    | some x => ⟨(redFinish op x.1).imgs (redRegs op), x.2, none⟩
    | none => ⟨RV.imgs (redRegs op) ⟨redIdent op, 0, 0, false⟩, 0, none⟩)

/-- The sentinel of `isect` (R187). -/
def sentinel : Nat := 0xFFFFFFFF

/-- The entries of a vector, by slot; a lane outside the running path supplies the sentinel (R187). -/
def isEntries (c : GCtx) (a : Opnd) : List (Nat × Nat) :=
  (maskLanes c.run).map (fun l => (l, c.data a l 1))

/-- `isect.m` (R187). -/
def opIsectM (pD : BitVec 3) (a b : Opnd) : GBody := fun c =>
  match (c.consume [(a, 1)] c.ls).or (c.consume [(b, 1)] (if c.ls.isEmpty then [] else maskLanes c.run)) with
  | some t => .error t
  | none =>
    let bs := isEntries c b
    .ok (Out.of (c.ls.flatMap fun l =>
      let x := c.data a l 1
      c.wrP pD l (x != sentinel && bs.any (fun e => e.2 == x))))

/-- `isect.ix` (R187). -/
def opIsectIx (d a b : Opnd) : GBody := fun c =>
  let bs := isEntries c b
  let bp := (maskLanes c.run).any (fun l => c.pois b l 1)
  .ok (perLane c d fun l =>
    let x := c.data a l 1
    let js := if x == sentinel then [] else (bs.filter (fun e => e.2 == x)).map (fun e => c.g.vlane e.1)
    plainImgs 1 (c.pois a l 1 || bp) (js.foldl min sentinel))

/-- The largest entry that is not the sentinel; the sentinel when there is none (R187). -/
def isMax (es : List (Nat × Nat)) : Nat :=
  match es.filter (fun e => e.2 != sentinel) with
  | [] => sentinel
  | e :: r => r.foldl (fun m x => max m x.2) e.2

/-- `isect.adv` (R187). -/
def opIsectAdv (d a b : Opnd) : GBody := fun c =>
  let as := isEntries c a
  let bs := isEntries c b
  let m := min (isMax as) (isMax bs)
  let cnt (es : List (Nat × Nat)) : Nat := es.countP (fun e => e.2 != sentinel && e.2 ≤ m)
  let p := (maskLanes c.run).any (fun l => c.pois a l 1 || c.pois b l 1)
  .ok (Out.of (c.wr d 0 (plainImgs 1 p (cnt as + cnt bs * 2 ^ 16))))

/-- Key x comes before or with key y (R188); a NaN lies above every number. -/
def keyLe (kt : Kt) (x y : Image) : Bool :=
  match kt with
  | .u32 => x.d.toNat ≤ y.d.toNat
  | .i32 => x.d.toInt ≤ y.d.toInt
  | .f32 =>
    let a := (carElem .f32 0 x.d.toNat x.g.toNat).ext .f32
    let b := (carElem .f32 0 y.d.toNat y.g.toNat).ext .f32
    if b.isNan then true else if a.isNan then false else cmpZ a b != .gt

/-- Stable merge of two runs. -/
def mergeRuns (le : Image → Image → Bool) : Nat → List (Image × Image) → List (Image × Image) → List (Image × Image)
  | 0, xs, ys => xs ++ ys
  | n + 1, xs, ys =>
    match xs, ys with
    | [], _ => ys
    | _, [] => xs
    | x :: xs', y :: ys' =>
      if le x.1 y.1 then x :: mergeRuns le n xs' ys else y :: mergeRuns le n xs ys'

/-- Stage `k`: merge adjacent runs of 2^(k-1) positions into runs of 2^k. -/
def sortStage (le : Image → Image → Bool) (k : Nat) : Nat → List (Image × Image) → List (Image × Image)
  | 0, xs => xs
  | n + 1, xs =>
    let h := 2 ^ (k - 1)
    if xs.isEmpty then []
    else mergeRuns le (2 * h) (xs.take h) ((xs.drop h).take h) ++ sortStage le k n (xs.drop (2 * h))

/-- `vsort` (R188): the stages from `%prog` on, up to stage `m`. -/
def opVsort (desc : Bool) (kt : Kt) (d a b : Opnd) (m : Nat) : GBody := fun c =>
  let k0 := c.g.prog.toNat
  let ls := maskLanes c.act
  let le (x y : Image) : Bool := if desc then keyLe kt y x else keyLe kt x y
  let src := ls.map fun l =>
    if k0 == 0 then
      (c.img a l 0, if b == .none then ⟨(c.img a l 0).p, 0, BitVec.ofNat 32 l⟩ else c.img b l 0)
    else (c.img d l 0, c.img d l 1)
  let anyP := src.any (fun x => x.1.p)
  let stages := (List.range m).filterMap (fun j => if k0 ≤ j then some (j + 1) else none)
  let out := stages.foldl (fun xs k => sortStage le k 32 xs) src
  if 5 ≤ k0 then .ok (Out.of [])
  else .ok (Out.of ((ls.zip out).flatMap fun x =>
    c.wr d x.1 [{ x.2.1 with p := x.2.1.p || anyP }, { x.2.2 with p := x.2.2.p || anyP }]))

/-- The lanes of `Active(g)` whose operand equals that of lane `l`, data and glaze (R189). -/
def peersOf (c : GCtx) (a : Opnd) (n l : Nat) : List Nat :=
  let key (j : Nat) := (c.imgs a j n).map (fun i => (i.d, i.g))
  (maskLanes c.act).filter (fun j => key j == key l)

/-- A `match` form (R189). -/
def matchForm (w64 : Bool) (d a : Opnd) (f : GCtx → List Nat → Nat) : GBody := fun c =>
  let n := if w64 then 2 else 1
  let p := (maskLanes c.act).any (fun l => c.pois a l n)
  .ok (perLane c d fun l => plainImgs 1 p (f c (peersOf c a n l)))

def opPeers (w : Bool) (d a : Opnd) : GBody := matchForm w d a (fun c ps => vmask c.g ps)
def opUni (w : Bool) (d a : Opnd) : GBody :=
  matchForm w d a (fun c ps => if ps.length == maskCount c.act then vmask c.g (maskLanes c.act) else 0)
def opLead (w : Bool) (d a : Opnd) : GBody :=
  matchForm w d a (fun c ps => leastOr32 (ps.map c.g.vlane))

/-- A remap-table entry (R183). -/
def lmapEntry (g : Group) (n : Nat) : Nat :=
  let x := g.lane n
  let live := x.st == .active || x.st == .deferred
  let ident := match x.home with
    | some h => h.grp % 16 * 2 ^ 5 + h.lane
    | none => if g.compacted then (Config.emptySlot n).toNat else g.id.grp % 16 * 2 ^ 5 + n
  live.toNat * 2 ^ 15 + g.compacted.toNat * 2 ^ 14 + ident * 2 ^ 5 + n

def opLmap (d : Opnd) : GBody := fun c => .ok (perLane c d fun l => plainImgs 1 false (lmapEntry c.g l))

def opLmapRd (d b : Opnd) : GBody := fun c =>
  c.unpoisoned [(b, 1)]
    (Out.of (c.wr d 0 (plainImgs 1 false (lmapEntry c.g (c.data b 0 1 % 32)))))

end Sys2Proof.Machine
end

