-- ==== Sys2Proof/Machine/Engines.lean ====
section
/-! DEFINITION. What the engines do when they perform an operation: canvases (08 R217-R236), copies
(09 R241-R246), memory-side sums (07 R208-R209), tokens (09 R241, 10 R292). -/

namespace Sys2Proof.Machine

/-- Status bytes of R241. -/
def stOk : Byte := 0
def stErr : Byte := 1
def stWdrn : Byte := 2
def stMismatch : Byte := 3
def stRefused : Byte := 4

/-- Complete the token whose operation this is, wherever its group now is: a resident group's, or the completion that the
device holds for an object that lists it (R241, R332). -/
def State.tokDone (s : State) (op : Nat) (status : Byte) : State :=
  let hit (t : Tok) : Bool := t.st == .pending && t.op == op
  let fix (g : Group) : Group :=
    { g with toks := g.toks.map (fun t => if hit t then { t with st := .complete, status := status } else t) }
  let s := { s with groups := SMap.mapV fix s.groups }
  { s with dones := SMap.upd s.dones op (fun d => { d with live := false, status := status }) }

/-- An engine operation ends: its token, if it names one, completes (R241). -/
def State.opEnd (s : State) (id : Nat) (o : AOp) (status : Byte) : State :=
  let s := { s with aops := SMap.del s.aops id }
  if o.tok.isSome then s.tokDone id status else s

/-- Post a record to a cluster's event queue (R249). -/
def State.evPost (s : State) (cl : Nat) (r : EvRec) : State :=
  s.updCluster cl (fun c => { c with evq := c.evq ++ [{ r with stamp := s.clk }] })

/-- The queue slot of a team's grid on a die, or on the first die that holds a part of it where a restore placed the team
elsewhere; 0xFFFF for a detached group (R249, R308). -/
def State.qslotOf (s : State) (team die : Nat) : Nat :=
  match SMap.get? s.teams team with
  | some t =>
    if t.det then 0xFFFF
    else match SMap.get? s.grids t.grid with
      | some g => ((g.parts.find? (fun p => p.die == die)).or g.parts.head?).elim 0xFFFF (fun p => p.qslot)
      | none => 0xFFFF
  | none => 0xFFFF

/-- The chain that tags a team's requests (R359). -/
def State.chainOf (s : State) (team : Nat) : Nat :=
  match SMap.get? s.teams team with
  | some t => (SMap.get? s.grids t.grid).elim 0 (fun g => g.tag)
  | none => 0

/-- The grid to which a team belongs (R394). -/
def State.teamGrid (s : State) (team : Nat) : Nat := (SMap.get? s.teams team).elim 0 (fun t => t.grid)

/-- Access of an engine operation: at the die's L2, in a class (R281, R291, R356). -/
def engAcc (core team ctx cls chain : Nat) : Acc := ⟨core, team, ctx, cls, chain, true⟩

/-- The groups in whose program order an operation stands (R279). -/
def AOp.ids (o : AOp) : List Nat := o.gid :: o.also

/-- The groups whose accesses a group's own follow in program order: itself, and the home groups of the lanes that a
compacted group holds (R279). -/
def Group.ids (g : Group) (gid : Nat) : List Nat := gid :: (g.lanes.filterMap (fun l => l.home.map (fun h => h.gid))).eraseDups

/-- An operation stands in the program order of some of the groups. -/
def AOp.mine (o : AOp) (ids : List Nat) : Bool := ids.any (fun i => o.ids.contains i)

/-- An easel operation stands in the program order of some of the groups (R279). -/
def EOp.mine (o : EOp) (ids : List Nat) : Bool := ids.contains o.gid || ids.any (fun i => o.also.contains i)

/-- An operation that a group issues, with a token or none. -/
def State.opOf (s : State) (gid : Nat) (g : Group) (tok : Option (BitVec 4)) (kind : AKind) (part : Bool) : AOp :=
  ⟨gid, (g.ids gid).tail, g.core, g.ctx, g.team, s.chainOf g.team, s.teamGrid g.team, tok.map (fun t => t.toNat), kind, false, false, part⟩

/-- An operation begins (R242, R209). -/
def State.newOp (s : State) (gid : Nat) (g : Group) (tok : Option (BitVec 4)) (kind : AKind) (part : Bool) : State :=
  { s.fresh with aops := SMap.put s.aops s.nid (s.opOf gid g tok kind part) }

-- Copies (R242-R246).

/-- An operation has a side in the team store. -/
def AKind.touchesTs : AKind → Bool
  | .copy rows _ => rows.any (fun r => (r.src ++ r.dst).any (fun g => g.ts))
  | .mredLine .. => false
  | .mredRet .. => true

/-- Words of 4 bytes of stretches, in order. -/
def segWords (gs : List Seg) : List Seg :=
  gs.flatMap (fun g => (List.range (g.len / 4)).map (fun i => { g with pa := g.pa + 4 * i, len := 4 }))

/-- Bytes that stretches cover, for the overlap of R242: address and space. -/
def segBytes (gs : List Seg) : List (Bool × Nat) :=
  gs.flatMap (fun g => (List.range g.len).map (fun i => (g.ts, g.pa + i)))

/-- Copy one word: a poisoned word is written as one (R242). -/
def State.copyWord (s : State) (a : Acc) (src dst : Seg) : State :=
  let r := s.readSeg a .die .nrm src
  let s := r.1.writeSeg a .die .nrm dst r.2.1
  if r.2.2 then s.poisonSegs a [dst] else s

/-- A copy meets a lost place (R195, R241). -/
def State.copyLost (s : State) (rows : List CopyRow) : Bool :=
  rows.any (fun r => (r.src ++ r.dst).any (fun g => !g.ts && s.mod.anyLost g.pa g.len))

/-- Stretches take unpredictable bytes (R8); what a lost extent holds is discarded (R195). -/
def State.scramble (s : State) (a : Acc) (gs : List Seg) : State :=
  gs.foldl (fun s g =>
    (if g.ts then [(g.pa, g.len)] else (chunks64 (g.len / 64 + 2) g.pa g.len).filter (fun k => !s.mod.isLost k.1)).foldl (fun s k =>
      let f := s.freeBytes k.2
      f.1.writeSeg a .die .nrm { g with pa := k.1, len := k.2 } f.2) s) s

/-- Perform every element write of a copy, rows and words ascending (log 115). Overlapping destination bytes are unpredictable (R242), and so is the whole
destination when an access is discarded (R241). -/
def State.doCopy (s : State) (a : Acc) (rows : List CopyRow) (lost : Bool) : State :=
  let dst := rows.flatMap (fun r => r.dst)
  if lost then s.scramble a dst
  else
    let srcs := segBytes (rows.flatMap (fun r => r.src))
    let s := rows.foldl (fun s r =>
      ((segWords r.src).zip (segWords r.dst)).foldl (fun s w => s.copyWord a w.1 w.2) s) s
    s.scramble a ((segWords dst).filter (fun g => (List.range 4).any (fun i => srcs.contains (g.ts, g.pa + i))))

-- Memory-side sums (R208).

/-- Elements of an `mred` block: count and bytes (R208). -/
def mredElem : MredTy → Nat × Nat
  | .f64 => (32, 8)
  | _ => (64, 4)

/-- One addition of a reduce: floats by RNE with canonical NaNs (R75), integers modulo 2^32. -/
def mredAdd (ty : MredTy) (a b : Nat) : Nat :=
  match ty with
  | .i32 => (a + b) % 2 ^ 32
  | .f32 => (final .f32 .rne false 0 (sumFV false [Fmt.dec .f32 a, Fmt.dec .f32 b]).1).bits
  | .f64 => (final .f64 .rne false 0 (sumFV false [Fmt.dec .f64 a, Fmt.dec .f64 b]).1).bits

/-- Numbers of a block of bytes. -/
def numsOf : Nat → Nat → List Byte → List Nat
  | 0, _, _ => []
  | n + 1, e, bs => leNat (bs.take e) :: numsOf n e (bs.drop e)

/-- Add a row into a block. -/
def mredRow (ty : MredTy) (acc row : List Nat) : List Nat := List.zipWith (mredAdd ty) acc row

/-- The code of a type and mode in the header of a REDUCE (R362, R208). -/
def mredOpc (ty : MredTy) (ret : Bool) : Nat :=
  (match ty with | .f32 => 0 | .i32 => 1 | .f64 => 2) + if ret then 16 else 0

/-- The base die that a packet of a reduce goes to: that of the destination line, or of the first row. -/
def mredHome (m : Module) (ret : Bool) (dst : Nat) (rows : List (Nat × Nat)) : Nat :=
  let pa := if ret then (rows.headD (0, 0)).2 else dst
  match m.place pa with
  | .die _ => (stackOf m pa).1
  | _ => 32

/-- Read a 256-byte block of a memory-side page as numbers, with poison (R208, R345); what its home has observed counts as
observed by the group (R289, R291). A row of another stack than the adders'
`k` comes by a READ of its own, which R362 leaves open (log 80). -/
def State.mredRead (s : State) (a : Acc) (ty : MredTy) (k pa : Nat) : State × List Nat × Bool :=
  let e := mredElem ty
  let s := s.meetAt a.die pa
  let r := match s.mod.place pa with
    | .hole => s.holeRead a pa 256
    | .die _ => (if (stackOf s.mod pa).1 == k then s else s.msSend 1 pa 256 ReqData.none a).msGet pa 256
    | .cxl .. => ((s.cxlMeter a.die a.ctx 256).cxlRead a.die a.ctx).msGet pa 256
  (r.1, numsOf e.1 e.2 r.2.1, r.2.2)

/-- The rows of a packet added in ascending lane order onto a start. -/
def State.mredRows (s : State) (a : Acc) (ty : MredTy) (k : Nat) (rows : List (Nat × Nat)) (acc : List Nat) :
    State × List Nat × Bool :=
  rows.foldl (fun (x : State × List Nat × Bool) row =>
    let v := x.1.mredRead a ty k row.2
    (v.1, mredRow ty x.2.1 v.2.1, x.2.2 || v.2.2)) (s, acc, false)

/-- The REDUCE packet `j` of a reduce reaches its base die (R362, R366); in return mode it carries the packet index and the return
address. -/
def State.mredReq (s : State) (a : Acc) (ty : MredTy) (ret : Bool) (dst j : Nat) (rows : List (Nat × Nat)) : State :=
  let pa := if ret then (rows.headD (0, 0)).2 else dst
  s.msSend 4 pa 256 ⟨mredOpc ty ret, if ret then [(j, BitVec.ofNat 64 dst, 0)] else [], rows.map (fun r => r.2 / 256), 0, none⟩ a

/-- A packet meets a lost place (R195, R241). -/
def State.mredLost (s : State) (ret : Bool) (dst : Nat) (rows : List (Nat × Nat)) : Bool :=
  (!ret && s.mod.anyLost dst 256) || rows.any (fun r => s.mod.anyLost r.2 256)

/-- Apply a packet in line mode: every row is added into the line; a poisoned row poisons it (R208). -/
def State.mredLineDo (s : State) (a : Acc) (ty : MredTy) (dst : Nat) (rows : List (Nat × Nat)) : State :=
  let e := mredElem ty
  let k := mredHome s.mod false dst rows
  let s := (s.meetAt a.die dst).mredReq a ty false dst 0 rows
  let old := s.mredRead a ty k dst
  let r := old.1.mredRows a ty k rows old.2.1
  match s.mod.place dst with
  | .hole => r.1.holeWrite a dst
  | _ =>
    let s := r.1.msPut dst (r.2.1.flatMap (leBytes e.2))
    if r.2.2 || old.2.2 then s.poisonUnits (unitsOf dst 256) else s

/-- Apply a packet in return mode: the partial sum from +0 is added into the block of the team store, from +0 for the first
packet; a poisoned row flags every word (R208). -/
def State.mredRetDo (s : State) (a : Acc) (ty : MredTy) (dst : Nat) (j : Nat) (rows : List (Nat × Nat)) (first : Bool) : State :=
  let e := mredElem ty
  let zero : List Nat := List.replicate e.1 0
  let s := s.mredReq a ty true dst j rows
  let r := s.mredRows a ty (mredHome s.mod true dst rows) rows zero
  let was := r.1.tsRead a.core dst 256
  let sum := mredRow ty (if first then zero else numsOf e.1 e.2 was.1) r.2.1
  r.1.tsWrite a.core dst (sum.flatMap (leBytes e.2)) (r.2.2 || (!first && was.2))

/-- Apply packet `j` of a memory-side reduce (R208); one that meets a lost place is discarded, and leaves unpredictable bytes
where it was to write (R241). The flag says that it was discarded. -/
def State.doMred (s : State) (o : AOp) (j : Nat) : State × Bool :=
  let a := engAcc o.core o.team o.ctx 0 o.chain
  let go (ty : MredTy) (ret : Bool) (dst : Nat) (pkts : List MredPkt) : State × Bool :=
    match pkts[j]? with
    | none => (s, false)
    | some p =>
      if s.mredLost ret dst p.rows then ((s.lostHit a.die a.ctx).scramble a [⟨ret, dst, true, 0, 256⟩], true)
      else if ret then (s.mredRetDo a ty dst j p.rows (pkts.all (fun q => !q.applied)), false)
      else (s.mredLineDo a ty dst p.rows, false)
  match o.kind with
  | .mredLine ty dst pkts => go ty false dst pkts
  | .mredRet ty dst pkts => go ty true dst pkts
  | .copy .. => (s, false)

def AOp.isCopy (o : AOp) : Bool := match o.kind with | .copy .. => true | _ => false

/-- An earlier operation of the same group on the same engine is not complete: this one does not complete before it
(R292). -/
def State.olderOp (s : State) (id : Nat) (o : AOp) : Bool :=
  s.aops.any (fun e => e.1 < id && e.2.mine o.ids && e.2.isCopy == o.isCopy)

/-- Mark packet `j` applied. -/
def AOp.applied (o : AOp) (j : Nat) : AOp :=
  match o.kind with
  | .mredLine ty d ps => { o with kind := .mredLine ty d (updAt ps j (fun p => { p with applied := true })) }
  | .mredRet ty d ps => { o with kind := .mredRet ty d (updAt ps j (fun p => { p with applied := true })) }
  | _ => o

/-- Packets of a reduce not yet applied, by index. -/
def AOp.left (o : AOp) : List Nat :=
  match o.kind with
  | .mredLine _ _ ps | .mredRet _ _ ps => (ps.zipIdx.filter (fun p => !p.1.applied)).map (fun p => p.2)
  | _ => []

/-- Records that a cluster's event queue holds (R249). -/
def evqMax : Nat := 256

/-- A reduce or a copy whose accesses are all performed completes, unless an earlier operation stands before it (R209, R242,
R292). `force` completes it before an earlier one. -/
def State.opTry (s : State) (id : Nat) (o : AOp) (force : Bool) : State :=
  let full := match o.kind with
    | .copy _ (some _) => evqMax ≤ (s.cluster (o.core / 4)).evq.length
    | _ => false
  if full || (!force && s.olderOp id o) then { s with aops := SMap.put s.aops id o }
  else
    let s := s.opEnd id o (if o.err then stErr else stOk)
    match o.kind with
    | .copy _ (some r) => s.evPost (o.core / 4) r
    | _ => s

/-- Apply one packet (R209). -/
def State.mredStep (s : State) (id j : Nat) (force : Bool) : State :=
  match SMap.get? s.aops id with
  | none => s
  | some o =>
    let r := if o.left.contains j then s.doMred o j else (s, false)
    let o := { o.applied j with err := o.err || r.2 }
    let s := s.charge r.1 o.team (o.ctx / 256)
    if o.left.isEmpty then s.opTry id o force else { s with aops := SMap.put s.aops id o }

/-- Perform a copy operation and complete it (R242, R244). -/
def State.copyStep (s : State) (id : Nat) (force : Bool) : State :=
  match SMap.get? s.aops id with
  | none => s
  | some o =>
    match o.kind with
    | .copy rows _ =>
      let lost := !o.ran && s.copyLost rows
      let s := if o.ran then s
        else s.charge ((if lost then s.lostHit (o.core / 128) o.ctx else s).doCopy (engAcc o.core o.team o.ctx 1 o.chain) rows (o.err || lost)) o.team (o.ctx / 256)
      s.opTry id { o with ran := true, err := o.err || lost } force
    | _ => s

-- The easel.

/-- Carrier of a canvas's elements (R216). -/
def CTy.fmt : CTy → Fmt
  | .f64 => .f64
  | _ => .f32

/-- The number in a stream of images (R225). -/
def streamNat (is : List Image) : Nat :=
  is.zipIdx.foldl (fun a x => a + x.1.d.toNat * 2 ^ (32 * x.2)) 0

/-- Element bits of one side of a format: width, the float format if it is one, and its signedness (R224). -/
def mmSide (f : MFmt) (b : Bool) : Nat × Option Fmt × Bool :=
  match f with
  | .f64 => (64, some .f64, false)
  | .f32 => (32, some .f32, false)
  | .bf16 => (16, some .bf16, false)
  | .f16 => (16, some .f16, false)
  | .e4m3 => (8, some .e4m3, false)
  | .e5m2 => (8, some .e5m2, false)
  | .e4m3e5m2 => (8, some (if b then .e5m2 else .e4m3), false)
  | .e5m2e4m3 => (8, some (if b then .e4m3 else .e5m2), false)
  | .e3m2 => (6, some .e3m2, false)
  | .e2m3 => (6, some .e2m3, false)
  | .e2m1 => (4, some .e2m1, false)
  | .s8 => (8, none, true)
  | .u8 => (8, none, false)
  | .s8u8 => (8, none, !b)
  | .u8s8 => (8, none, b)
  | .s4 => (4, none, true)
  | .u4 => (4, none, false)
  | .s4u4 => (4, none, !b)

/-- kblock and registers per fragment (R224). -/
def mmBlock : MFmt → Nat × Nat
  | .f64 => (4, 8)
  | .f32 => (8, 8)
  | .bf16 | .f16 => (16, 8)
  | .e3m2 | .e2m3 => (64, 12)
  | .e2m1 | .s4 | .u4 | .s4u4 => (64, 8)
  | _ => (32, 8)

/-- The canvas type of a format (R224). -/
def mmCanvas (f : MFmt) : CTy :=
  match f with
  | .f64 => .f64
  | .s8 | .u8 | .s8u8 | .u8s8 | .s4 | .u4 | .s4u4 => .i32
  | _ => .f32

/-- Element `k` of a lane's stream. -/
def elemOf (w : Nat) (is : List Image) (k : Nat) : Nat := streamNat is / 2 ^ (w * k) % 2 ^ w

/-- An integer element. -/
def intElem (w : Nat) (sg : Bool) (v : Nat) : Int := if sg then toSigned w v else v

/-- Scale byte of a row or column for element `k` of a block (R225). -/
def scaleByte (sc : List Image) (l sh k : Nat) : Nat :=
  (sc.getD l Image.zero).d.toNat / 2 ^ (sh + 8 * (k / 32)) % 256

/-- Scale a value by an E8M0 byte; 0xFF is NaN (R58). -/
def scaleBy (b : Nat) (x : FV) : FV := if b == 255 then .nan false else x.scale ((b : Int) - 127)

def laneImgs (xs : List (List Image)) (l : Nat) : List Image := xs.getD l []

/-- The exact sum of a float pass for row i, column j (R227). -/
def passSum (f : MFmt) (mx tr : Bool) (a b : List (List Image)) (sc : List Image) (i j : Nat) : FV :=
  let sa := mmSide f false
  let sb := mmSide f true
  let fa := sa.2.1.getD .f32
  let fb := sb.2.1.getD .f32
  let bs (k : Nat) : Nat := if tr then elemOf sb.1 (laneImgs b k) j else elemOf sb.1 (laneImgs b j) k
  (sumFV false ((List.range (mmBlock f).1).map fun k =>
    let x := fa.dec (elemOf sa.1 (laneImgs a i) k)
    let y := fb.dec (bs k)
    let x := if mx then scaleBy (scaleByte sc i 0 k) x else x
    let y := if mx then scaleBy (scaleByte sc j 16 k) y else y
    (mulFV x y).1)).1

/-- The exact sum of an integer pass. -/
def passInt (f : MFmt) (tr : Bool) (a b : List (List Image)) (i j : Nat) : Int :=
  let sa := mmSide f false
  let sb := mmSide f true
  let bs (k : Nat) : Nat := if tr then elemOf sb.1 (laneImgs b k) j else elemOf sb.1 (laneImgs b j) k
  (List.range (mmBlock f).1).foldl
    (fun t k => t + intElem sa.1 sa.2.2 (elemOf sa.1 (laneImgs a i) k) * intElem sb.1 sb.2.2 (bs k)) 0

/-- P of an entry of a pass (R227). -/
def passP (f : MFmt) (mx tr : Bool) (a b : List (List Image)) (sc gam : List Image) (i j : Nat) : Bool :=
  let w := (mmSide f true).1
  let bp := if tr then (List.range (mmBlock f).1).any (fun k => ((laneImgs b k).getD (w * j / 32) Image.zero).p)
    else (laneImgs b j).any (fun x => x.p)
  (laneImgs a i).any (fun x => x.p) || bp || gam.any (fun x => x.p) ||
    (mx && ((sc.getD i Image.zero).p || (sc.getD j Image.zero).p))

/-- A canvas entry by row and column. -/
def Canvas.at (c : Canvas) (r k : Nat) : CElem := SMap.getD c.elems CElem.zero (64 * r + k)

/-- Write a canvas entry. -/
def Canvas.putAt (c : Canvas) (r k : Nat) (x : CElem) : Canvas :=
  { c with elems := SMap.set c.elems CElem.zero (64 * r + k) x }

/-- The extended value of an entry. -/
def CElem.ext (t : CTy) (x : CElem) : FV := (CTy.fmt t).ext x.d x.g

/-- An entry of a narrowed value. -/
def celem (t : CTy) (p : Bool) (v : FV) : CElem := let r := roundOdd (CTy.fmt t) v; ⟨p, r.g, r.bits⟩

/-- γ of an accumulation: its extended value (R227). -/
def gamVal (t : CTy) (gam : List Image) : FV :=
  (CTy.fmt t).ext (streamNat gam) ((gam.headD Image.zero).g.toNat % 4)

/-- Accumulate an exact sum into an entry (R227). -/
def accum (t : CTy) (za dk : Bool) (gam : List Image) (old : CElem) (p : Bool) (sum : FV) : CElem :=
  if za then celem t p sum
  else
    let o := old.ext t
    let o := if dk then (mulFV (gamVal t gam) o).1 else o
    celem t (old.p || p) (sumFV false [o, sum]).1

/-- Rows and columns of a region (R216). -/
def regionRC (wh : Bool) (q : Nat) : List (Nat × Nat) :=
  let n := if wh then 64 else 32
  let r0 := if wh then 0 else 32 * (q / 2)
  let c0 := if wh then 0 else 32 * (q % 2)
  (List.range n).flatMap (fun r => (List.range n).map (fun k => (r0 + r, c0 + k)))

/-- Side of a region. -/
def regionN (wh : Bool) : Nat := if wh then 64 else 32

/-- Change the entries of a region. -/
def Canvas.mapRegion (c : Canvas) (wh : Bool) (q : Nat) (f : Nat → Nat → CElem → CElem) : Canvas :=
  (regionRC wh q).foldl (fun c x => c.putAt x.1 x.2 (f x.1 x.2 (c.at x.1 x.2))) c

/-- Apply a pass to a quarter (R227). `kb0` says that it is k-block 0. -/
def Canvas.pass (c : Canvas) (f : MFmt) (mx za dk sat tr : Bool) (q : Nat) (a b : List (List Image))
    (sc gam : List Image) (kb0 : Bool) : Canvas :=
  c.mapRegion false q fun r k old =>
    let i := r % 32
    let j := k % 32
    let p := passP f mx tr a b sc gam i j
    let za := za && kb0
    if f.isInt then
      let s := passInt f tr a b i j
      let t := if za then s else toSigned 32 old.d + s
      let v := if sat then max (-(2 ^ 31)) (min (2 ^ 31 - 1) t) else t
      ⟨(old.p && !za) || p, 0, (v % 2 ^ 32).toNat⟩
    else accum c.ty za (dk && kb0) gam old p (passSum f mx tr a b sc i j)

/-- Index of a table entry T[i][k][v] (R229). -/
def lutIdx (n i k v : Nat) : Nat := (i * 64 + k) * 2 ^ n + v

/-- Build a table (R229). -/
def Canvas.lutBuild (c : Canvas) (n : Nat) (a : List (List Image)) (code : List Image) (act : Word) : Canvas :=
  let es := (List.range 32).flatMap fun i => (List.range 64).flatMap fun k => (List.range (2 ^ n)).map fun v =>
    if !inMask act i then (lutIdx n i k v, CElem.zero)
    else
      let w := 16 * k / 32
      let x := Fmt.bf16.dec (elemOf 16 (laneImgs a i) k)
      let y := Fmt.bf16.dec (elemOf 16 code v)
      let p := ((laneImgs a i).getD w Image.zero).p || (code.getD (16 * v / 32) Image.zero).p
      (lutIdx n i k v, celem .f32 p (mulFV x y).1)
  { c with elems := es.foldl (fun m e => SMap.set m CElem.zero e.1 e.2) c.elems }

/-- Accumulate through a table (R230). -/
def Canvas.lutAcc (c t : Canvas) (n : Nat) (za dk : Bool) (q : Nat) (b : List (List Image)) (gam : List Image)
    (act : Word) : Canvas :=
  c.mapRegion false q fun r k old =>
    let i := r % 32
    let j := k % 32
    let es := if !inMask act j then [] else
      (List.range 64).map (fun kk => SMap.getD t.elems CElem.zero (lutIdx n i kk (elemOf n (laneImgs b j) kk)))
    let p := es.any (fun e => e.p) || (laneImgs b j).any (fun x => x.p) || gam.any (fun x => x.p)
    accum c.ty za dk gam old p (if inMask act j then (sumFV false (es.map (fun e => e.ext .f32))).1 else .fin false 0 0)

/-- Widen a memory element into an entry (R232). -/
def cnWiden (f : CnF) (p : Bool) (v : Nat) : CElem :=
  match f with
  | .i32 => ⟨p, 0, v⟩
  | .bf16 => celem .f32 p (Fmt.bf16.dec v)
  | .f16 => celem .f32 p (Fmt.f16.dec v)
  | .e4m3 => celem .f32 p (Fmt.e4m3.dec v)
  | .e5m2 => celem .f32 p (Fmt.e5m2.dec v)
  | .f32 => celem .f32 p (Fmt.f32.dec v)
  | .f64 => celem .f64 p (Fmt.f64.dec v)

/-- Widen a memory element for a canvas's type: FP32 into an FP64 canvas as well (R234). -/
def cnWidenTo (t : CTy) (f : CnF) (p : Bool) (v : Nat) : CElem :=
  if t == .f64 && f == .f32 then celem .f64 p (Fmt.f32.dec v) else cnWiden f p v

/-- Images to an entry and back (R217, R232). -/
def celemOfImgs (t : CTy) (is : List Image) : CElem :=
  ⟨is.any (fun i => i.p), if t == .i32 then 0 else (is.headD Image.zero).g.toNat % 4, streamNat is⟩

def CElem.imgs (t : CTy) (x : CElem) : List Image :=
  (List.range (if t == .f64 then 2 else 1)).map
    (fun i => ⟨x.p, if i == 0 then BitVec.ofNat 8 x.g else 0, BitVec.ofNat 32 (x.d / 2 ^ (32 * i))⟩)

/-- Multiply an entry (R236). -/
def scaleElem (t : CTy) (m : CElem) (x : CElem) : CElem :=
  celem t (x.p || m.p) (mulFV (x.ext t) (m.ext t)).1

/-- The value that scales row `r` of the canvas (R236). -/
def rowVal (rows : List (Nat × List Image)) (r : Nat) : Option (List Image) :=
  (rows.find? (fun x => x.1 == r)).map (fun x => x.2)

/-- Write a canvas back. -/
def State.updCanvas (s : State) (i : Nat) (f : Canvas → Canvas) : State :=
  { s with canvases := SMap.upd s.canvases i f }

/-- Read the elements of a row, its stretches in order (R232). -/
def State.cnRead (s : State) (a : Acc) (gs : List Seg) : State × List (Nat × Bool) :=
  gs.foldl (fun x g =>
    let r := x.1.readSeg a .die .nrm g
    (r.1, x.2 ++ [(leNat r.2.1, r.2.2)])) (s, [])

/-- Write the canvas entries of an operation, or the memory of a `cnst` (R227-R236). -/
def State.easelApply (s : State) (o : EOp) : State :=
  let a := engAcc o.core o.team o.ctx 2 (s.chainOf o.team)
  match o.kind with
  | .pass f mx za dk sat tr q x y sc gam =>
    s.updCanvas o.cv (fun c => c.pass f mx za dk sat tr q x y sc gam (o.kb == 0))
  | .lutB n x code act => s.updCanvas o.cv (fun c => c.lutBuild n x code act)
  | .lutA n za dk q t y gam act =>
    match SMap.get? s.canvases t with
    | some tc => s.updCanvas o.cv (fun c => c.lutAcc tc n za dk q y gam act)
    | none => s
  | .zero wh q => s.updCanvas o.cv (fun c =>
      if wh && c.ty != .f32 && c.ty != .f64 && c.ty != .i32 then { c with elems := [] }
      else c.mapRegion wh q (fun _ _ _ => CElem.zero))
  | .loadMem f wh q rows =>
    let n := regionN wh
    let r0 := if wh then 0 else 32 * (q / 2)
    let c0 := if wh then 0 else 32 * (q % 2)
    rows.zipIdx.foldl (fun s row =>
      let r := s.cnRead a row.1
      r.1.updCanvas o.cv (fun c => (r.2.take n).zipIdx.foldl
        (fun c v => c.putAt (r0 + row.2) (c0 + v.2) (cnWidenTo c.ty f v.1.2 v.1.1)) c)) s
  | .loadReg _ q rows =>
    let r0 := 32 * (q / 2)
    let c0 := 32 * (q % 2)
    s.updCanvas o.cv (fun c =>
      let w := if c.ty == .f64 then 2 else 1
      rows.foldl (fun c row => (List.range 32).foldl
        (fun c j => c.putAt (r0 + row.1) (c0 + j) (celemOfImgs c.ty ((row.2.drop (w * j)).take w))) c) c)
  | .scale wh q rows =>
    s.updCanvas o.cv (fun c => c.mapRegion wh q (fun r _ x =>
      match rowVal rows (if wh then r else r % 32) with
      | some is => scaleElem c.ty (celemOfImgs c.ty is) x
      | none => x))
  | .storeMem segs bytes =>
    (segs.zip bytes).foldl (fun s x => if !x.1.ts && s.mod.anyLost x.1.pa x.1.len then s.lostHit a.die a.ctx else s.writeSeg a .die .nrm x.1 x.2) s

/-- Two operations touch one canvas. -/
def EOp.meets (x y : EOp) : Bool :=
  x.cv == y.cv || x.cv2 == some y.cv || y.cv2 == some x.cv

/-- An operation is a pass of the reservation table (R226, R230). -/
def EOp.isPass (o : EOp) : Bool := match o.kind with | .pass .. | .lutA .. => true | _ => false

/-- The operation of an id may be applied: no earlier one on its canvas waits (R228, R411). -/
def eligible (ops : List EOp) (o : EOp) : Bool :=
  !o.done && (ops.takeWhile (fun x => x.id != o.id)).all (fun x => x.done || !x.meets o)

/-- Metering of a pass by its format (R397, R436). -/
def passMeter (k : EKind) (m : Meter) : Meter :=
  match k with
  | .pass .f64 .. => { m with pass64 := satAdd m.pass64 1 }
  | .pass .f32 .. => { m with pass32 := satAdd m.pass32 1 }
  | .pass .. | .lutA .. => { m with passlo := satAdd m.passlo 1 }
  | _ => m

/-- Apply one operation and mark it done. -/
def State.easelDo (s : State) (cl : Nat) (o : EOp) : State :=
  let s := s.charge ((s.easelApply o).meter (cl / 32) (o.ctx / 256) (passMeter o.kind)) o.team (o.ctx / 256)
  s.updCluster cl (fun c => { c with ops := c.ops.map (fun x => if x.id == o.id then { x with done := true } else x) })

/-- Unbound canvases whose operations have drained return their slots (R221). -/
def State.sweepCanvases (s : State) : State :=
  { s with canvases := s.canvases.filter (fun e =>
      e.2.bound || s.clusters.any (fun c => c.2.ops.any (fun o => o.cv == e.1 || o.cv2 == some e.1)) ||
        s.groups.any (fun g => g.2.wait == .table && g.2.held.any (fun h => h.cvs.contains e.1))) }

/-- Remove a completed operation (R237). -/
def State.easelEnd (s : State) (cl id : Nat) : State :=
  (s.updCluster cl (fun c => { c with ops := c.ops.filter (fun x => x.id != id) })).sweepCanvases

/-- Apply and complete every operation of the groups a test selects, in acceptance order, with what stands
before them on their canvases (R239). -/
def State.easelDrain (s : State) (sel : EOp → Bool) : State :=
  s.clusters.foldl (fun s e =>
    if e.2.ops.any sel then
      let s := e.2.ops.foldl (fun s o => if o.done then s else s.easelDo e.1 o) s
      e.2.ops.foldl (fun s o => if sel o then s.easelEnd e.1 o.id else s) s
    else s) s

/-- Perform and complete the copy and memory-side operations a test selects (R310 step 2). -/
def State.engineDrain (s : State) (sel : AOp → Bool) : State :=
  (s.aops.filter (fun e => sel e.2)).foldl (fun s e =>
    match e.2.kind with
    | .copy .. => s.copyStep e.1 true
    | _ => if e.2.left.isEmpty then s.mredStep e.1 0 true
      else e.2.left.foldl (fun s j => s.mredStep e.1 j true) s) s

end Sys2Proof.Machine
end

