-- ==== Sys2Proof/Decode.lean ====
section
/-! DEFINITION. Words to instructions and back (03_encoding_assembly.md R79-R92). `Raw` is the
fields of words 0 to 3; `Instr.raw` writes an instruction's fields, from the encoding tables of its
chapter; `Raw.instr?` reads the candidate that the fields name. Decode answers the candidate exactly
when it is legal and its own fields are the fields read, so that every bit a form does not assign
must hold the value the spec gives it (R86, R92). -/

namespace Sys2Proof

/-- The fields of words 0 to 3 (R82, R83); an absent word reads zero (R84). -/
structure Raw where
  u : Bool
  a : BitVec 8
  d : BitVec 8
  gn : Bool
  gp : BitVec 3
  op : BitVec 8
  sw : Bool
  len : Len
  fn : BitVec 8
  md : BitVec 8
  c : BitVec 8
  b : BitVec 8
  imm : Word
  ext : Word
deriving DecidableEq, Repr

/-- One bit. -/
def bit (x : Bool) : BitVec 1 := BitVec.ofBool x

/-- Bits [lo+n-1:lo]. -/
def slice (n lo : Nat) {w : Nat} (x : BitVec w) : BitVec n := x.extractLsb' lo n

/-- The unused operand byte (R86). -/
abbrev noOp : BitVec 8 := 0xFF

/-- The operand a byte names (R85). -/
def Opnd.ofByte (x : BitVec 8) : Opnd :=
  if h : x.toNat < 192 then .v ⟨x.toNat, h⟩
  else if h : x.toNat - 192 < 60 then .s ⟨x.toNat - 192, h⟩
  else if x.toNat == 0xFC then .lane
  else if x.toNat == 0xFD then .zero
  else if x.toNat == 0xFE then .lit
  else .none

/-- LEN (R82). -/
def Len.code : Len → BitVec 2
  | .two => 0
  | .three => 1
  | .four => 2

/-- Words of a length (R82). -/
def Len.count : Len → Nat
  | .two => 2
  | .three => 3
  | .four => 4

/-- RM (R142). -/
def RM.code : RM → BitVec 3
  | .rne => 0 | .rtz => 1 | .rup => 2 | .rdn => 3 | .rna => 4 | .sr => 5 | .dyn => 7

def RM.of (x : BitVec 3) : RM :=
  match x.toNat with
  | 0 => .rne | 1 => .rtz | 2 => .rup | 3 => .rdn | 4 => .rna | 5 => .sr | _ => .dyn

/-- A predicate field without and with negate bit (R117). -/
def pByte (p : BitVec 3) : BitVec 8 := (0 : BitVec 5) ++ p
def PF.byte (x : PF) : BitVec 8 := (0 : BitVec 4) ++ bit x.neg ++ x.p
def PF.of (x : BitVec 8) : PF := ⟨x.getLsbD 3, slice 3 0 x⟩

/-- A token field: 0xFF names no token (R241). -/
def tokByte : Option (BitVec 4) → BitVec 8
  | some t => (0 : BitVec 4) ++ t
  | none => noOp
def tokOf (x : BitVec 8) : Option (BitVec 4) := if x == noOp then none else some (slice 4 0 x)

/-- A canvas field (R218). -/
def CF.byte (x : CF) : BitVec 8 := (0 : BitVec 1) ++ bit x.wh ++ x.q ++ x.m
def CF.of (x : BitVec 8) : CF := ⟨x.getLsbD 6, slice 2 4 x, slice 4 0 x⟩

/-- Two modifier bits, absolute value above negate (R141). -/
def FMod.code (x : FMod) : BitVec 2 := bit x.abs ++ bit x.neg
def FMod.of (x : BitVec 2) : FMod := ⟨x.getLsbD 1, x.getLsbD 0⟩

/-- Combine field (R135, R153). -/
def combCode : Option (Comb × PF) → BitVec 2
  | none => 0
  | some (c, _) => BitVec.ofNat 2 (c.ctorIdx + 1)
def combByte : Option (Comb × PF) → BitVec 8
  | none => noOp
  | some (_, p) => p.byte
def combOf (x : BitVec 2) (c : BitVec 8) : Option (Comb × PF) :=
  if x == 0 then none else some (Comb.ofNat (x.toNat - 1), PF.of c)

/-- Fields of an instruction from its common part. -/
def Com.mk' (k : Com) (op fn md d a b c : BitVec 8) : Raw :=
  ⟨k.u, a, d, k.gn, k.gp, op, k.sw, k.len, fn, md, c, b, k.imm, k.ext⟩

/-- The common part of the fields. -/
def Raw.com (r : Raw) : Com := ⟨r.u, r.sw, r.gn, r.gp, r.len, r.imm, r.ext⟩

namespace Enc

/-- OP 0x01 to 0x27: MOD is `ex`, SAT, TY (R115). -/
def int (op fn : BitVec 8) (ex : BitVec 4) (x : IArgs) : Option Raw :=
  some (x.k.mk' op fn (ex ++ bit x.sat ++ BitVec.ofNat 3 x.ty.ctorIdx)
    x.d.byte x.a.byte x.b.byte x.c.byte)

/-- MOD of the floating-point arithmetic forms (R141). -/
def flt (op fn : BitVec 8) (x : FArgs) : Option Raw :=
  some (x.k.mk' op fn (x.mc.code ++ x.mb.code ++ x.ma.code ++ BitVec.ofNat 2 x.ft.ctorIdx)
    x.d.byte x.a.byte x.b.byte x.c.byte)

/-- `addc`, `subb` (R123). -/
def carry (fn : BitVec 8) (x : CarryArgs) : Option Raw :=
  some (x.k.mk' 0x09 fn ((0 : BitVec 1) ++ x.pO ++ bit x.pI.isSome ++ (0 : BitVec 3))
    x.d.byte x.a.byte x.b.byte (match x.pI with | some p => p.byte | none => noOp))

/-- `frnd`, `fin`, `fcvti`: `hi` is MOD[7:5] (R152, R157, R158). -/
def rnd (op fn : BitVec 8) (hi : BitVec 3) (x : RArgs) : Option Raw :=
  some (x.k.mk' op fn (hi ++ x.rm.code ++ BitVec.ofNat 2 x.ft.ctorIdx) x.d.byte x.a.byte noOp noOp)

/-- `fcmp` (R153). -/
def fcmp (fn : BitVec 8) (x : CmpArgs) (ft : FTy) (ma mb : FMod) : Option Raw :=
  some (x.k.mk' 0x35 fn (combCode x.cb ++ mb.code ++ ma.code ++ BitVec.ofNat 2 ft.ctorIdx)
    (pByte x.pD) x.a.byte x.b.byte (combByte x.cb))

/-- `vote` (R137). -/
def vote (fn : BitVec 8) (x : VoteArgs) : Option Raw :=
  some (x.k.mk' 0x25 fn 0 x.d.byte x.p.byte noOp noOp)

/-- A form whose operands are all general bytes. -/
def gen (k : Com) (op fn md : BitVec 8) (d a b c : Opnd) : Option Raw :=
  some (k.mk' op fn md d.byte a.byte b.byte c.byte)

/-- `shfl` (R185). -/
def shfl (fn : BitVec 8) (x : ShArgs) : Option Raw :=
  gen x.k 0x60 fn ((0 : BitVec 3) ++ BitVec.ofNat 3 x.seg.val ++ bit x.mm ++ bit x.w64) x.d x.a x.b x.c

/-- FN of a plain access: scope and order (R192). -/
def so (s : Scope) (o : MOrd) : BitVec 8 :=
  (0 : BitVec 2) ++ BitVec.ofNat 3 s.ctorIdx ++ BitVec.ofNat 3 o.ctorIdx

/-- MOD of a memory form (R191). -/
def mmod (pol : Pol) (w ap : BitVec 3) : BitVec 8 := BitVec.ofNat 2 pol.ctorIdx ++ w ++ ap

/-- `ld`, `ldc` (R198, R200). -/
def load (op : BitVec 8) (x : MArgs) (w : BitVec 3) : Option Raw :=
  some (x.k.mk' op (so x.scope x.ord) (mmod x.pol w x.ap) x.d.byte x.a.byte noOp noOp)

/-- `atom`, `cas` and `atms` (R204, R205, R207); POL is 3 for `atms`. -/
def atom (op fn : BitVec 8) (pol : Pol) (x : AtArgs) : Option Raw :=
  gen x.k op fn (mmod pol (BitVec.ofNat 3 x.ty.ctorIdx) x.ap) x.d x.a x.b x.c

/-- `mred` (R208). -/
def mred (fn : BitVec 8) (x : MredArgs) : Option Raw :=
  some (x.k.mk' 0x7B fn (mmod .ms (BitVec.ofNat 3 x.ty.ctorIdx) x.ap) (tokByte x.tok)
    x.a.byte x.b.byte x.c.byte)

/-- `pf`, `cmnt` (R210, R211). -/
def line (op fn : BitVec 8) (x : LnArgs) : Option Raw :=
  some (x.k.mk' op fn (mmod x.pol (BitVec.ofNat 3 x.lvl.ctorIdx) x.ap) noOp x.a.byte noOp noOp)

/-- `tier` (R213). -/
def tier (fn : BitVec 8) (x : TierArgs) : Option Raw :=
  gen x.k 0x81 fn ((0 : BitVec 5) ++ x.ap) x.d x.a x.b .none

/-- FN of the forms with RM and SAT (R201, R233). -/
def rsat (rm : RM) (sat b3 : Bool) (lo : BitVec 3) : BitVec 8 := rm.code ++ bit sat ++ bit b3 ++ lo

/-- `agth`, `asct` (R246). -/
def gth (op : BitVec 8) (x : GthArgs) : Option Raw :=
  some (x.k.mk' op 0 (mmod x.pol 7 x.ap) (tokByte x.tok) x.a.byte x.b.byte x.c.byte)

/-- `acol` (R250). -/
def acol (fn : BitVec 8) (x : AcolArgs) : Option Raw :=
  some (x.k.mk' 0xB6 fn (mmod x.pol (BitVec.ofNat 3 x.ty.ctorIdx) x.ap) (tokByte x.tok)
    x.a.byte x.b.byte x.c.byte)

/-- `bar` (R253). -/
def bar (o : BitVec 2) (x : BarArgs) : Option Raw :=
  some (x.k.mk' 0xC0 ((0 : BitVec 4) ++ BitVec.ofNat 2 x.lvl.ctorIdx ++ o)
    ((0 : BitVec 1) ++ bit x.eng ++ (0 : BitVec 2) ++ x.n) noOp noOp noOp noOp)

/-- `csr` (R273). -/
def csr (fn : BitVec 8) (x : CsrArgs) : Option Raw :=
  some (x.k.mk' 0xE1 fn (slice 8 0 x.num) x.d.byte x.a.byte noOp ((0 : BitVec 4) ++ slice 4 8 x.num))

/-- MOD with only an aperture. -/
def apm (ap : BitVec 3) : BitVec 8 := (0 : BitVec 5) ++ ap

/-- MOD with only bit 0. -/
def m0 (x : Bool) : BitVec 8 := (0 : BitVec 7) ++ bit x

end Enc

open Enc in
/-- The fields of an instruction; none for what has no encoding. -/
def Instr.raw : Instr → Option Raw
  | .iadd x => int 0x01 0 0 x | .isub x => int 0x02 0 0 x
  | .imulLo x => int 0x03 0 0 x | .imulHi x => int 0x03 1 0 x | .imulWide x => int 0x03 2 0 x
  | .imad x => int 0x04 0 0 x | .imadWide x => int 0x04 1 0 x
  | .idiv x => int 0x05 0 0 x | .irem x => int 0x06 0 0 x
  | .imin x => int 0x07 0 0 x | .imax x => int 0x07 1 0 x
  | .iabs x => int 0x08 0 0 x | .ineg x => int 0x08 1 0 x
  | .addc x => carry 0 x | .subb x => carry 1 x
  | .lop x tt => int 0x0A tt 0 x
  | .shl x => int 0x0B 0 0 x | .shr x => int 0x0C 0 0 x | .sra x => int 0x0C 1 0 x
  | .rotl x => int 0x0D 0 0 x | .rotr x => int 0x0D 1 0 x
  | .shfWin x => int 0x0E 0 0 x | .shfRot x => int 0x0E 1 0 x
  | .clz x => int 0x0F 0 0 x | .ctz x => int 0x0F 1 0 x | .popc x => int 0x0F 2 0 x
  | .brev x => int 0x0F 3 0 x | .bswap x => int 0x0F 4 0 x | .cls x => int 0x0F 5 0 x
  | .bfxU x => int 0x10 0 0 x | .bfxS x => int 0x10 1 0 x | .bfi x => int 0x11 0 0 x
  | .prmt x => int 0x12 0 0 x
  | .lea x n => int 0x13 0 ((0 : BitVec 1) ++ n) x
  | .idpDp4 x sa sb => int 0x14 0 ((0 : BitVec 2) ++ bit sa ++ bit sb) x
  | .idpDp2 x => int 0x14 1 3 x
  | .sad x => int 0x15 0 0 x
  | .cvti x dt e => int 0x16 (BitVec.ofNat 8 dt.ctorIdx) ((0 : BitVec 2) ++ e) x
  | .mov x => int 0x20 0 0 x | .mov64 x => int 0x20 1 0 x
  | .movl x => int 0x21 0 0 x | .movl64 x => int 0x21 1 0 x
  | .sel x p => (int 0x22 0 0 x).map (fun r => { r with c := p.byte })
  | .sel64 x p => (int 0x22 1 0 x).map (fun r => { r with c := p.byte })
  | .icmp x ty cc =>
      some (x.k.mk' 0x23 (BitVec.ofNat 8 cc.ctorIdx)
        ((0 : BitVec 2) ++ combCode x.cb ++ (0 : BitVec 1) ++ BitVec.ofNat 3 ty.ctorIdx)
        (pByte x.pD) x.a.byte x.b.byte (combByte x.cb))
  | .plop k tt pD pA pB pC => some (k.mk' 0x24 tt 0 (pByte pD) (pByte pA) (pByte pB) (pByte pC))
  | .voteSome x => vote 0 x | .voteEvery x => vote 1 x | .voteSame x => vote 2 x
  | .voteMask x => vote 3 x | .voteCount x => vote 4 x | .voteFirst x => vote 5 x
  | .pmovGet k d => gen k 0x26 0 0 d .none .none .none
  | .pmovSet k m a => gen k 0x26 1 ((0 : BitVec 1) ++ m) .none a .none .none
  | .bcast x => int 0x27 0 0 x | .rdlane x => int 0x27 1 0 x
  | .bcast64 x => int 0x27 2 0 x | .rdlane64 x => int 0x27 3 0 x
  -- floating point
  | .fadd x => flt 0x30 0 x | .fsub x => flt 0x31 0 x | .fmul x => flt 0x32 0 x
  | .ffma x => flt 0x33 0 x
  | .fmin x => flt 0x34 0 x | .fmax x => flt 0x34 1 x
  | .fminnum x => flt 0x34 2 x | .fmaxnum x => flt 0x34 3 x
  | .fdiv x => flt 0x37 0 x | .fsqrt x => flt 0x38 0 x
  | .frcpRcp x => flt 0x39 0 x | .frcpRsq x => flt 0x39 1 x
  | .fsfuExp2 x => flt 0x3A 0 x | .fsfuLog2 x => flt 0x3A 1 x | .fsfuSin x => flt 0x3A 2 x
  | .fsfuCos x => flt 0x3A 3 x | .fsfuTanh x => flt 0x3A 4 x
  | .hdot2F16 x => flt 0x43 0 x | .hdot2Bf16 x => flt 0x43 1 x
  | .fscale x => flt 0x40 0 x | .fxtrExp x => flt 0x41 0 x | .fxtrSig x => flt 0x41 1 x
  | .frnd x => rnd 0x42 0 0 x
  | .fcmpX x ft ma mb cc => fcmp (BitVec.ofNat 8 cc.ctorIdx) x ft ma mb
  | .fcmpR x ft ma mb cc rm =>
      fcmp ((1 : BitVec 1) ++ rm.code ++ (0 : BitVec 1) ++ BitVec.ofNat 3 cc.ctorIdx) x ft ma mb
  | .fclass x => flt 0x36 0 x
  | .fclassP k ft pD a b =>
      some (k.mk' 0x36 1 (BitVec.ofNat 8 ft.ctorIdx) (pByte pD) a.byte b.byte noOp)
  | .fcvt k df sf e d a b =>
      gen k 0x3B (BitVec.ofNat 8 (4 * df.ctorIdx + sf.ctorIdx)) (m0 e) d a b .none
  | .icvtf k df ty d a b =>
      gen k 0x3D ((0 : BitVec 4) ++ BitVec.ofNat 2 df.ctorIdx ++ ty) 0 d a b .none
  | .fcvti x dt sat e =>
      rnd 0x3C ((0 : BitVec 6) ++ dt) ((0 : BitVec 1) ++ bit e ++ bit sat) x
  | .fin x => rnd 0x3E 0 0 x
  | .glzGet x => flt 0x3F 0 x | .glzSet x => flt 0x3F 1 x | .glzClr x => flt 0x3F 2 x
  | .glzTest k ft pD a =>
      some (k.mk' 0x3F 3 (BitVec.ofNat 8 ft.ctorIdx) (pByte pD) a.byte noOp noOp)
  | .mxsc k ef d a => gen k 0x46 (BitVec.ofNat 8 ef.ctorIdx) 0 d a .none .none
  | .fpk k ef rm sat scm d a b c =>
      gen k 0x44 (BitVec.ofNat 8 ef.ctorIdx)
        (BitVec.ofNat 2 scm.val ++ bit sat ++ rm.code ++ (0 : BitVec 2)) d a b c
  | .fupk k ef scm d a b =>
      gen k 0x45 (BitVec.ofNat 8 ef.ctorIdx) (BitVec.ofNat 2 scm.val ++ (0 : BitVec 6)) d a b .none
  | .rng k d => gen k 0x47 0 0 d .none .none .none
  -- control and lanes
  | .braWhole k => gen k 0x50 0 0 .none .none .none .none
  | .braD k => gen k 0x50 1 0 .none .none .none .none
  | .braEj k => gen k 0x50 2 0 .none .none .none .none
  | .brxD k a => gen k 0x51 0 0 .none a .none .none
  | .brxWhole k a => gen k 0x51 1 0 .none a .none .none
  | .call k d => gen k 0x52 0 0 d .none .none .none
  | .callX k d a => gen k 0x52 1 0 d a .none .none
  | .ret k a => gen k 0x53 0 0 .none a .none .none
  | .fcs k => gen k 0x54 0 0 .none .none .none .none
  | .exit k => gen k 0x55 0 0 .none .none .none .none
  | .pswp k => gen k 0x56 0 0 .none .none .none .none
  | .lmap k d => gen k 0x57 0 0 d .none .none .none
  | .lmapRd k d b => gen k 0x57 1 0 d .none b .none
  | .shflSel x => shfl 0 x | .shflSlide x => shfl 1 x | .shflRot x => shfl 2 x | .shflFlip x => shfl 3 x
  | .redux k op d a => gen k 0x61 (BitVec.ofNat 8 op.ctorIdx) 0 d a .none .none
  | .scan k op ex d a => gen k 0x62 (BitVec.ofNat 8 op.ctorIdx) (m0 ex) d a .none .none
  | .isectM k pD a b => some (k.mk' 0x63 0 0 (pByte pD) a.byte b.byte noOp)
  | .isectIx k d a b => gen k 0x63 1 0 d a b .none
  | .isectAdv k d a b => gen k 0x63 2 0 d a b .none
  | .vsortAsc k kt d a b => gen k 0x64 0 (BitVec.ofNat 8 kt.ctorIdx) d a b .none
  | .vsortDesc k kt d a b => gen k 0x64 1 (BitVec.ofNat 8 kt.ctorIdx) d a b .none
  | .matchPeers k w d a => gen k 0x65 0 (m0 w) d a .none .none
  | .matchUni k w d a => gen k 0x65 1 (m0 w) d a .none .none
  | .matchLead k w d a => gen k 0x65 2 (m0 w) d a .none .none
  -- memory
  | .ld x w => load 0x70 x (BitVec.ofNat 3 w.ctorIdx)
  | .st x w =>
      some (x.k.mk' 0x71 (so x.scope x.ord) (mmod x.pol (BitVec.ofNat 3 w.ctorIdx) x.ap)
        noOp x.a.byte x.d.byte noOp)
  | .ldc x f => load 0x73 x (BitVec.ofNat 3 f.ctorIdx)
  | .stc x =>
      some (x.k.mk' 0x72 (rsat x.rm x.sat x.rel (BitVec.ofNat 3 x.scope.ctorIdx))
        (mmod x.pol (BitVec.ofNat 3 x.f.ctorIdx) x.ap) noOp x.a.byte x.b.byte noOp)
  | .spill x => gen x.k 0x76 x.n1 (mmod x.pol 0 x.ap) .none x.a x.r .none
  | .fill x => gen x.k 0x77 x.n1 (mmod x.pol 0 x.ap) x.r x.a .none .none
  | .atomXchg x => atom 0x78 0 .nrm x | .atomAdd x => atom 0x78 1 .nrm x
  | .atomAnd x => atom 0x78 2 .nrm x | .atomOr x => atom 0x78 3 .nrm x
  | .atomXor x => atom 0x78 4 .nrm x | .atomMin x => atom 0x78 5 .nrm x
  | .atomMax x => atom 0x78 6 .nrm x | .atomFadd x => atom 0x78 7 .nrm x
  | .atomFmin x => atom 0x78 8 .nrm x | .atomFmax x => atom 0x78 9 .nrm x
  | .cas x => atom 0x79 0 .nrm x
  | .atmsAdd x => atom 0x7A 0 .ms x | .atmsMin x => atom 0x7A 1 .ms x
  | .atmsMax x => atom 0x7A 2 .ms x | .atmsXchg x => atom 0x7A 3 .ms x
  | .atmsFadd x => atom 0x7A 4 .ms x | .atmsCas x => atom 0x7A 5 .ms x
  | .mredLine x => mred 0 x | .mredRet x => mred 1 x
  | .pfL1 x => line 0x7D 0 x | .pfL2 x => line 0x7D 1 x | .pfMsc x => line 0x7D 2 x
  | .cmntWb x => line 0x80 0 x | .cmntInv x => line 0x80 1 x | .cmntIc x => line 0x80 2 x
  | .tierPin x => tier 0 x | .tierUnpin x => tier 1 x | .tierPromoteHint x => tier 2 x
  | .tierDemote x => tier 3 x
  | .fnc k sc pred succ => some (k.mk' 0x7E pred succ (BitVec.ofNat 8 sc.ctorIdx) noOp noOp noOp)
  -- the easel
  | .mma x =>
      some (x.k.mk' 0x90 (bit x.mx ++ BitVec.ofNat 7 x.fmt.ctorIdx)
        (bit x.za ++ bit (!x.za) ++ bit x.dk ++ bit x.sat ++ bit x.tr ++ (0 : BitVec 3))
        x.cf.byte x.a.byte x.b.byte x.c.byte)
  | .mlutB k n1 cf a b => some (k.mk' 0x92 ((0 : BitVec 6) ++ n1) 0 cf.byte a.byte b.byte noOp)
  | .mlutA x =>
      some (x.k.mk' 0x93 ((0 : BitVec 6) ++ x.n1) (bit x.za ++ bit (!x.za) ++ bit x.dk ++ (0 : BitVec 5))
        x.cf.byte ((0 : BitVec 4) ++ x.mt) x.b.byte noOp)
  | .cnalAlloc k pD ty cf => some (k.mk' 0x94 0 (BitVec.ofNat 8 ty.ctorIdx) (pByte pD) cf.byte noOp noOp)
  | .cnalGrow k pD b => some (k.mk' 0x94 1 0 (pByte pD) noOp b.byte noOp)
  | .cnalGrowW k pD b => some (k.mk' 0x94 2 0 (pByte pD) noOp b.byte noOp)
  | .cnalFree k cf => some (k.mk' 0x94 3 0 noOp cf.byte noOp noOp)
  | .cnalTrim k b => some (k.mk' 0x94 4 0 noOp noOp b.byte noOp)
  | .cnz k cf => some (k.mk' 0x95 0 0 cf.byte noOp noOp noOp)
  | .cnldMem x =>
      some (x.k.mk' 0x96 0 (mmod x.pol (BitVec.ofNat 3 x.f.ctorIdx) x.ap) x.cf.byte x.a.byte noOp noOp)
  | .cnldReg x =>
      some (x.k.mk' 0x96 8 (mmod .nrm (BitVec.ofNat 3 x.f.ctorIdx) 0) x.cf.byte x.r.byte noOp noOp)
  | .cnstMem x =>
      some (x.k.mk' 0x97 (rsat x.rm x.sat false 0) (mmod x.pol (BitVec.ofNat 3 x.f.ctorIdx) x.ap)
        noOp x.a.byte x.cf.byte noOp)
  | .cnstReg x =>
      some (x.k.mk' 0x97 (rsat x.rm false true 0) (mmod .nrm (BitVec.ofNat 3 x.f.ctorIdx) 0)
        x.r.byte noOp x.cf.byte noOp)
  | .cnrowMax k cf r => some (k.mk' 0x98 0 0 r.byte noOp cf.byte noOp)
  | .cnrowSum k cf r => some (k.mk' 0x98 1 0 r.byte noOp cf.byte noOp)
  | .cnrowScl k cf r => some (k.mk' 0x98 2 0 noOp r.byte cf.byte noOp)
  | .cnrowCscl k cf r => some (k.mk' 0x98 3 0 noOp r.byte cf.byte noOp)
  | .mwait k => gen k 0x99 0 0 .none .none .none .none
  | .mwaitM k cf => some (k.mk' 0x99 1 0 noOp cf.byte noOp noOp)
  -- asynchronous, synchronisation, task, system
  | .acpy x =>
      some (x.k.mk' 0xB0 ((0 : BitVec 4) ++ BitVec.ofNat 2 x.dims.val ++ x.dir)
        (BitVec.ofNat 2 x.pol.ctorIdx ++ x.dap ++ x.sap) (tokByte x.tok) x.a.byte x.b.byte x.c.byte)
  | .agth x => gth 0xB1 x | .asct x => gth 0xB2 x
  | .tkwAll k clr a => gen k 0xB3 0 (m0 clr) .none a .none .none
  | .tkwAny k clr d a => gen k 0xB3 1 (m0 clr) d a .none .none
  | .tkt k pD t => some (k.mk' 0xB4 0 0 (pByte pD) ((0 : BitVec 4) ++ t) noOp noOp)
  | .tktErr k pD t => some (k.mk' 0xB4 1 0 (pByte pD) ((0 : BitVec 4) ++ t) noOp noOp)
  | .tktSt k d t => some (k.mk' 0xB4 2 0 d.byte ((0 : BitVec 4) ++ t) noOp noOp)
  | .evq k eng a => gen k 0xB5 0 (m0 eng) .none a .none .none
  | .acolAllred x => acol 0 x | .acolAllgath x => acol 1 x | .acolRedscat x => acol 2 x
  | .barArrive x => bar 0 x | .barWait x => bar 1 x | .barSync x => bar 2 x
  | .gate k => gen k 0xC1 0 0 .none .none .none .none
  | .rels k eng => gen k 0xC2 0 (m0 eng) .none .none .none .none
  | .rtskSpawn k ap t a => some (k.mk' 0xD4 0 (apm ap) (tokByte t) a.byte noOp noOp)
  | .rtskDone k => gen k 0xD4 1 0 .none .none .none .none
  | .susp k sc ri ap a b =>
      gen k 0xD0 ((0 : BitVec 1) ++ BitVec.ofNat 3 sc.ctorIdx ++ ri) (apm ap) .none a b .none
  | .resm k sc ap pD a =>
      some (k.mk' 0xD1 ((0 : BitVec 1) ++ BitVec.ofNat 3 sc.ctorIdx ++ (0 : BitVec 4)) (apm ap)
        (pByte pD) a.byte noOp noOp)
  | .resmJoin k sc ap pD a =>
      some (k.mk' 0xD1 ((0 : BitVec 1) ++ BitVec.ofNat 3 sc.ctorIdx ++ (1 : BitVec 4)) (apm ap)
        (pByte pD) a.byte noOp noOp)
  | .ccpy k ri sap dap a b c =>
      gen k 0xD2 ((0 : BitVec 4) ++ ri) ((0 : BitVec 2) ++ sap ++ dap) .none a b c
  | .cdsc k ap a => gen k 0xD3 0 (apm ap) .none a .none .none
  | .nop k => gen k 0xE0 0 0 .none .none .none .none
  | .csrRd x => csr 0 x | .csrWr x => csr 1 x | .csrSet x => csr 2 x | .csrClr x => csr 3 x
  | .trap k => gen k 0xE2 0 0 .none .none .none .none
  | .rte k => gen k 0xE3 0 0 .none .none .none .none
  | .rteNx k => gen k 0xE3 1 0 .none .none .none .none
  | .brkp k => gen k 0xE4 0 0 .none .none .none .none
  | .stop k => gen k 0xE5 0 0 .none .none .none .none
  | .unassignedOpcode .. | .compactReturn .. | .tierStatusReturn .. | .canvasGrowGrant ..
  | .easelGrant .. | .easelOpComplete .. | .copyComplete .. | .eventRecordTake ..
  | .collectiveComplete .. | .barrierArrivalForward .. | .resultReturn .. | .trapEntry ..
  | .groupStateLost .. | .regfileError .. | .memoryUnitError .. | .groupRetire ..
  | .launch .. | .destroy .. | .destroyF .. | .preempt .. | .cutWrite .. | .restore ..
  | .gridDispatchStart .. | .fairShareCharge .. | .workRequest .. | .teamPrepare ..
  | .teamRunnable .. | .gridComplete .. | .mredPacketApply .. | .tierPromote ..
  | .tierPromotionComplete .. | .tierDemotionComplete .. | .tierFailure .. | .read .. | .write ..
  | .atomic .. | .reduce .. | .status .. | .packetReply .. | .backoffWindowEnd ..
  | .rgctlWrite .. | .watchWrite .. | .registerWrite .. | .meshFlitRetry .. | .updateApply ..
  | .guestInvalidate .. | .linkFail .. | .meshLaneSpare .. | .hostSnoop .. | .hostMemRequest ..
  | .backInvalidate .. | .targetLost .. | .fwtcntWrite .. | .commcntWrite .. | .netcntWrite ..
  | .tacccntWrite .. | .data .. | .ack .. | .nack .. | .abort .. | .resendTimeout ..
  | .doorbell .. | .taskSigned .. | .taskAck .. | .taskPacket .. | .extentGrant ..
  | .extentRelease .. | .tlbiCtx .. | .tlbiVa .. | .ctxsync .. | .dbgrel .. | .report ..
  | .tlbiS2 .. | .vdreset .. | .vdsave .. | .vdload .. | .keygen .. | .vdEnable ..
  | .remapUnmask .. | .powerOn .. | .trainingComplete .. | .neg .. | .recoveryImage ..
  | .svnRaise .. | .rlbaseWrite .. | .renew .. | .renewReceive .. | .leaseLapse .. | .claim ..
  | .claimReceive .. | .viral .. | .clusterRepair .. | .rowRepair .. | .pseudoChannelRepair ..
  | .dataRateChange .. | .getCertificate .. | .challenge .. | .getMeasurements ..
  | .lmsTranscriptSignature .. | .powerCapSet .. | .powerSample .. | .supplyOutOfRange ..
  | .thermalSample .. | .cxlPortDown .. | .cxlPortUp .. | .leaderLeaseEnd ..
  | .backInvalidateResponse .. | .notifyWrite .. | .canvasEntryError .. | .teamStoreError .. => none

namespace Raw

/-- Operands of an integer form. -/
def i (r : Raw) : IArgs :=
  ⟨r.com, ITy.ofNat (slice 3 0 r.md).toNat, r.md.getLsbD 3, .ofByte r.d, .ofByte r.a, .ofByte r.b,
   .ofByte r.c⟩

/-- Operands of `sel`. -/
def iSel (r : Raw) : IArgs := { r.i with c := .none }

/-- Operands of a floating-point form. -/
def f (r : Raw) : FArgs :=
  ⟨r.com, FTy.ofNat (slice 2 0 r.md).toNat, .of (slice 2 2 r.md), .of (slice 2 4 r.md),
   .of (slice 2 6 r.md), .ofByte r.d, .ofByte r.a, .ofByte r.b, .ofByte r.c⟩

def carry (r : Raw) : CarryArgs :=
  ⟨r.com, slice 3 4 r.md, if r.md.getLsbD 3 then some (.of r.c) else none,
   .ofByte r.d, .ofByte r.a, .ofByte r.b⟩

def vote (r : Raw) : VoteArgs := ⟨r.com, .ofByte r.d, .of r.a⟩

def rnd (r : Raw) : RArgs :=
  ⟨r.com, FTy.ofNat (slice 2 0 r.md).toNat, .of (slice 3 2 r.md), .ofByte r.d, .ofByte r.a⟩

def fcmp (r : Raw) : CmpArgs :=
  ⟨r.com, slice 3 0 r.d, combOf (slice 2 6 r.md) r.c, .ofByte r.a, .ofByte r.b⟩

def shfl (r : Raw) : ShArgs :=
  ⟨r.com, r.md.getLsbD 0, r.md.getLsbD 1, Fin.ofNat 5 (slice 3 2 r.md).toNat,
   .ofByte r.d, .ofByte r.a, .ofByte r.b, .ofByte r.c⟩

/-- POL, the aperture code and MOD[5:3] (R191). -/
def pol (r : Raw) : Pol := Pol.ofNat (slice 2 6 r.md).toNat
def ap (r : Raw) : BitVec 3 := slice 3 0 r.md
def m53 (r : Raw) : Nat := (slice 3 3 r.md).toNat

def load (r : Raw) : MArgs :=
  ⟨r.com, r.pol, r.ap, Scope.ofNat (slice 3 3 r.fn).toNat, MOrd.ofNat (slice 3 0 r.fn).toNat,
   .ofByte r.d, .ofByte r.a⟩

def store (r : Raw) : MArgs := { r.load with d := .ofByte r.b }

def atom (r : Raw) : AtArgs :=
  ⟨r.com, r.ap, ATy.ofNat r.m53, Scope.ofNat (slice 3 3 r.ext).toNat,
   MOrd.ofNat (slice 3 0 r.ext).toNat, .ofByte r.d, .ofByte r.a, .ofByte r.b, .ofByte r.c⟩

def mred (r : Raw) : MredArgs :=
  ⟨r.com, MredTy.ofNat r.m53, r.ap, tokOf r.d, .ofByte r.a, .ofByte r.b, .ofByte r.c⟩

def line (r : Raw) : LnArgs := ⟨r.com, r.pol, r.ap, CLvl.ofNat r.m53, .ofByte r.a⟩

def tier (r : Raw) : TierArgs := ⟨r.com, r.ap, .ofByte r.d, .ofByte r.a, .ofByte r.b⟩

def gth (r : Raw) : GthArgs :=
  ⟨r.com, r.pol, r.ap, tokOf r.d, .ofByte r.a, .ofByte r.b, .ofByte r.c⟩

def acol (r : Raw) : AcolArgs :=
  ⟨r.com, r.pol, AcTy.ofNat r.m53, r.ap, tokOf r.d, .ofByte r.a, .ofByte r.b, .ofByte r.c⟩

def bar (r : Raw) : BarArgs :=
  ⟨r.com, BLvl.ofNat (slice 2 2 r.fn).toNat, r.md.getLsbD 6, slice 4 0 r.md⟩

def csr (r : Raw) : CsrArgs := ⟨r.com, slice 4 0 r.c ++ r.md, .ofByte r.d, .ofByte r.a⟩

def oD (r : Raw) : Opnd := .ofByte r.d
def oA (r : Raw) : Opnd := .ofByte r.a
def oB (r : Raw) : Opnd := .ofByte r.b
def oC (r : Raw) : Opnd := .ofByte r.c
def pD (r : Raw) : BitVec 3 := slice 3 0 r.d
def tA (r : Raw) : BitVec 4 := slice 4 0 r.a

/-- Candidates of OP 0x01 to 0x16 (R140). -/
def int? (r : Raw) : Option Instr :=
  let x := r.i
  match r.op.toNat, r.fn.toNat with
  | 0x01, _ => some (.iadd x) | 0x02, _ => some (.isub x)
  | 0x03, 0 => some (.imulLo x) | 0x03, 1 => some (.imulHi x) | 0x03, _ => some (.imulWide x)
  | 0x04, 0 => some (.imad x) | 0x04, _ => some (.imadWide x)
  | 0x05, _ => some (.idiv x) | 0x06, _ => some (.irem x)
  | 0x07, 0 => some (.imin x) | 0x07, _ => some (.imax x)
  | 0x08, 0 => some (.iabs x) | 0x08, _ => some (.ineg x)
  | 0x09, 0 => some (.addc r.carry) | 0x09, _ => some (.subb r.carry)
  | 0x0A, _ => some (.lop x r.fn)
  | 0x0B, _ => some (.shl x) | 0x0C, 0 => some (.shr x) | 0x0C, _ => some (.sra x)
  | 0x0D, 0 => some (.rotl x) | 0x0D, _ => some (.rotr x)
  | 0x0E, 0 => some (.shfWin x) | 0x0E, _ => some (.shfRot x)
  | 0x0F, 0 => some (.clz x) | 0x0F, 1 => some (.ctz x) | 0x0F, 2 => some (.popc x)
  | 0x0F, 3 => some (.brev x) | 0x0F, 4 => some (.bswap x) | 0x0F, _ => some (.cls x)
  | 0x10, 0 => some (.bfxU x) | 0x10, _ => some (.bfxS x) | 0x11, _ => some (.bfi x)
  | 0x12, _ => some (.prmt x) | 0x13, _ => some (.lea x (slice 3 4 r.md))
  | 0x14, 0 => some (.idpDp4 x (r.md.getLsbD 5) (r.md.getLsbD 4)) | 0x14, _ => some (.idpDp2 x)
  | 0x15, _ => some (.sad x)
  | 0x16, _ => some (.cvti x (ITy.ofNat r.fn.toNat) (slice 2 4 r.md))
  | _, _ => none

/-- Candidates of OP 0x20 to 0x27 (R140). -/
def move? (r : Raw) : Option Instr :=
  let x := r.i
  match r.op.toNat, r.fn.toNat with
  | 0x20, 0 => some (.mov x) | 0x20, _ => some (.mov64 x)
  | 0x21, 0 => some (.movl x) | 0x21, _ => some (.movl64 x)
  | 0x22, 0 => some (.sel r.iSel (.of r.c)) | 0x22, _ => some (.sel64 r.iSel (.of r.c))
  | 0x23, _ => some (.icmp ⟨r.com, r.pD, combOf (slice 2 4 r.md) r.c, r.oA, r.oB⟩
      (ITy.ofNat (slice 3 0 r.md).toNat) (ICc.ofNat r.fn.toNat))
  | 0x24, _ => some (.plop r.com r.fn r.pD (slice 3 0 r.a) (slice 3 0 r.b) (slice 3 0 r.c))
  | 0x25, 0 => some (.voteSome r.vote) | 0x25, 1 => some (.voteEvery r.vote)
  | 0x25, 2 => some (.voteSame r.vote) | 0x25, 3 => some (.voteMask r.vote)
  | 0x25, 4 => some (.voteCount r.vote) | 0x25, _ => some (.voteFirst r.vote)
  | 0x26, 0 => some (.pmovGet r.com r.oD) | 0x26, _ => some (.pmovSet r.com (slice 7 0 r.md) r.oA)
  | 0x27, 0 => some (.bcast x) | 0x27, 1 => some (.rdlane x)
  | 0x27, 2 => some (.bcast64 x) | 0x27, _ => some (.rdlane64 x)
  | _, _ => none

/-- Candidates of OP 0x30 to 0x47 (R166). -/
def flt? (r : Raw) : Option Instr :=
  let x := r.f
  let ef := EF.ofNat r.fn.toNat
  match r.op.toNat, r.fn.toNat with
  | 0x30, _ => some (.fadd x) | 0x31, _ => some (.fsub x) | 0x32, _ => some (.fmul x)
  | 0x33, _ => some (.ffma x)
  | 0x34, 0 => some (.fmin x) | 0x34, 1 => some (.fmax x) | 0x34, 2 => some (.fminnum x)
  | 0x34, _ => some (.fmaxnum x)
  | 0x35, n =>
      if n < 0x80 then some (.fcmpX r.fcmp x.ft x.ma x.mb (FCc.ofNat n))
      else some (.fcmpR r.fcmp x.ft x.ma x.mb (FCc.ofNat (slice 3 0 r.fn).toNat) (.of (slice 3 4 r.fn)))
  | 0x36, 0 => some (.fclass x) | 0x36, _ => some (.fclassP r.com x.ft r.pD r.oA r.oB)
  | 0x37, _ => some (.fdiv x) | 0x38, _ => some (.fsqrt x)
  | 0x39, 0 => some (.frcpRcp x) | 0x39, _ => some (.frcpRsq x)
  | 0x3A, 0 => some (.fsfuExp2 x) | 0x3A, 1 => some (.fsfuLog2 x) | 0x3A, 2 => some (.fsfuSin x)
  | 0x3A, 3 => some (.fsfuCos x) | 0x3A, _ => some (.fsfuTanh x)
  | 0x3B, _ => some (.fcvt r.com (FTy.ofNat (slice 2 2 r.fn).toNat) (FTy.ofNat (slice 2 0 r.fn).toNat)
      (r.md.getLsbD 0) r.oD r.oA r.oB)
  | 0x3C, _ => some (.fcvti r.rnd (slice 2 0 r.fn) (r.md.getLsbD 5) (r.md.getLsbD 6))
  | 0x3D, _ => some (.icvtf r.com (FTy.ofNat (slice 2 2 r.fn).toNat) (slice 2 0 r.fn) r.oD r.oA r.oB)
  | 0x3E, _ => some (.fin r.rnd)
  | 0x3F, 0 => some (.glzGet x) | 0x3F, 1 => some (.glzSet x) | 0x3F, 2 => some (.glzClr x)
  | 0x3F, _ => some (.glzTest r.com x.ft r.pD r.oA)
  | 0x40, _ => some (.fscale x) | 0x41, 0 => some (.fxtrExp x) | 0x41, _ => some (.fxtrSig x)
  | 0x42, _ => some (.frnd r.rnd)
  | 0x43, 0 => some (.hdot2F16 x) | 0x43, _ => some (.hdot2Bf16 x)
  | 0x44, _ => some (.fpk r.com ef (.of (slice 3 2 r.md)) (r.md.getLsbD 5)
      (Fin.ofNat 3 (slice 2 6 r.md).toNat) r.oD r.oA r.oB r.oC)
  | 0x45, _ => some (.fupk r.com ef (Fin.ofNat 2 (slice 2 6 r.md).toNat) r.oD r.oA r.oB)
  | 0x46, _ => some (.mxsc r.com ef r.oD r.oA)
  | 0x47, _ => some (.rng r.com r.oD)
  | _, _ => none

/-- Candidates of OP 0x50 to 0x57 and 0x60 to 0x65 (R190). -/
def ctl? (r : Raw) : Option Instr :=
  let k := r.com
  let kt := Kt.ofNat (slice 2 0 r.md).toNat
  let w := r.md.getLsbD 0
  match r.op.toNat, r.fn.toNat with
  | 0x50, 0 => some (.braWhole k) | 0x50, 1 => some (.braD k) | 0x50, _ => some (.braEj k)
  | 0x51, 0 => some (.brxD k r.oA) | 0x51, _ => some (.brxWhole k r.oA)
  | 0x52, 0 => some (.call k r.oD) | 0x52, _ => some (.callX k r.oD r.oA)
  | 0x53, _ => some (.ret k r.oA) | 0x54, _ => some (.fcs k) | 0x55, _ => some (.exit k)
  | 0x56, _ => some (.pswp k)
  | 0x57, 0 => some (.lmap k r.oD) | 0x57, _ => some (.lmapRd k r.oD r.oB)
  | 0x60, 0 => some (.shflSel r.shfl) | 0x60, 1 => some (.shflSlide r.shfl)
  | 0x60, 2 => some (.shflRot r.shfl) | 0x60, _ => some (.shflFlip r.shfl)
  | 0x61, n => some (.redux k (RedOp.ofNat n) r.oD r.oA)
  | 0x62, n => some (.scan k (RedOp.ofNat n) w r.oD r.oA)
  | 0x63, 0 => some (.isectM k r.pD r.oA r.oB) | 0x63, 1 => some (.isectIx k r.oD r.oA r.oB)
  | 0x63, _ => some (.isectAdv k r.oD r.oA r.oB)
  | 0x64, 0 => some (.vsortAsc k kt r.oD r.oA r.oB) | 0x64, _ => some (.vsortDesc k kt r.oD r.oA r.oB)
  | 0x65, 0 => some (.matchPeers k w r.oD r.oA) | 0x65, 1 => some (.matchUni k w r.oD r.oA)
  | 0x65, _ => some (.matchLead k w r.oD r.oA)
  | _, _ => none

/-- Candidates of OP 0x70 to 0x81 (R215). -/
def mem? (r : Raw) : Option Instr :=
  let x := r.atom
  let sp : SpArgs := ⟨r.com, r.pol, r.ap, r.fn, r.oB, r.oA⟩
  match r.op.toNat, r.fn.toNat with
  | 0x70, _ => some (.ld r.load (LdW.ofNat r.m53))
  | 0x71, _ => some (.st r.store (LdW.ofNat r.m53))
  | 0x72, _ => some (.stc ⟨r.com, r.pol, r.ap, StcF.ofNat r.m53, .of (slice 3 5 r.fn),
      r.fn.getLsbD 4, r.fn.getLsbD 3, Scope.ofNat (slice 3 0 r.fn).toNat, r.oA, r.oB⟩)
  | 0x73, _ => some (.ldc r.load (LdcF.ofNat r.m53))
  | 0x76, _ => some (.spill sp) | 0x77, _ => some (.fill { sp with r := r.oD })
  | 0x78, 0 => some (.atomXchg x) | 0x78, 1 => some (.atomAdd x) | 0x78, 2 => some (.atomAnd x)
  | 0x78, 3 => some (.atomOr x) | 0x78, 4 => some (.atomXor x) | 0x78, 5 => some (.atomMin x)
  | 0x78, 6 => some (.atomMax x) | 0x78, 7 => some (.atomFadd x) | 0x78, 8 => some (.atomFmin x)
  | 0x78, _ => some (.atomFmax x)
  | 0x79, _ => some (.cas x)
  | 0x7A, 0 => some (.atmsAdd x) | 0x7A, 1 => some (.atmsMin x) | 0x7A, 2 => some (.atmsMax x)
  | 0x7A, 3 => some (.atmsXchg x) | 0x7A, 4 => some (.atmsFadd x) | 0x7A, _ => some (.atmsCas x)
  | 0x7B, 0 => some (.mredLine r.mred) | 0x7B, _ => some (.mredRet r.mred)
  | 0x7D, 0 => some (.pfL1 r.line) | 0x7D, 1 => some (.pfL2 r.line) | 0x7D, _ => some (.pfMsc r.line)
  | 0x7E, _ => some (.fnc r.com (Scope.ofNat r.d.toNat) r.fn r.md)
  | 0x80, 0 => some (.cmntWb r.line) | 0x80, 1 => some (.cmntInv r.line) | 0x80, _ => some (.cmntIc r.line)
  | 0x81, 0 => some (.tierPin r.tier) | 0x81, 1 => some (.tierUnpin r.tier)
  | 0x81, 2 => some (.tierPromoteHint r.tier) | 0x81, _ => some (.tierDemote r.tier)
  | _, _ => none

/-- Candidates of OP 0x90 to 0x99 (R240). -/
def easel? (r : Raw) : Option Instr :=
  let k := r.com
  let f := CnF.ofNat r.m53
  let rm := RM.of (slice 3 5 r.fn)
  let gam := Opnd.ofByte (slice 8 0 r.imm)
  match r.op.toNat, r.fn.toNat with
  | 0x90, _ => some (.mma ⟨k, r.fn.getLsbD 7, MFmt.ofNat (slice 7 0 r.fn).toNat, r.md.getLsbD 7,
      r.md.getLsbD 5, r.md.getLsbD 4, r.md.getLsbD 3, slice 2 16 r.imm, gam, .of r.d, r.oA, r.oB, r.oC⟩)
  | 0x92, _ => some (.mlutB k (slice 2 0 r.fn) (.of r.d) r.oA r.oB)
  | 0x93, _ => some (.mlutA ⟨k, slice 2 0 r.fn, r.md.getLsbD 7, r.md.getLsbD 5, gam, .of r.d, r.tA, r.oB⟩)
  | 0x94, 0 => some (.cnalAlloc k r.pD (CTy.ofNat r.md.toNat) (.of r.a))
  | 0x94, 1 => some (.cnalGrow k r.pD r.oB) | 0x94, 2 => some (.cnalGrowW k r.pD r.oB)
  | 0x94, 3 => some (.cnalFree k (.of r.a)) | 0x94, _ => some (.cnalTrim k r.oB)
  | 0x95, _ => some (.cnz k (.of r.d))
  | 0x96, 0 => some (.cnldMem ⟨k, f, r.pol, r.ap, .rne, false, .of r.d, r.oA⟩)
  | 0x96, _ => some (.cnldReg ⟨k, f, .rne, .of r.d, r.oA⟩)
  | 0x97, _ =>
      if r.fn.getLsbD 3 then some (.cnstReg ⟨k, f, rm, .of r.b, r.oD⟩)
      else some (.cnstMem ⟨k, f, r.pol, r.ap, rm, r.fn.getLsbD 4, .of r.b, r.oA⟩)
  | 0x98, 0 => some (.cnrowMax k (.of r.b) r.oD) | 0x98, 1 => some (.cnrowSum k (.of r.b) r.oD)
  | 0x98, 2 => some (.cnrowScl k (.of r.b) r.oA) | 0x98, _ => some (.cnrowCscl k (.of r.b) r.oA)
  | 0x99, 0 => some (.mwait k) | 0x99, _ => some (.mwaitM k (.of r.a))
  | _, _ => none

/-- Candidates of OP 0xB0 to 0xE5 (R278). -/
def sys? (r : Raw) : Option Instr :=
  let k := r.com
  let m0 := r.md.getLsbD 0
  let sc := Scope.ofNat (slice 3 4 r.fn).toNat
  let ap := r.ap
  match r.op.toNat, r.fn.toNat with
  | 0xB0, _ => some (.acpy ⟨k, Fin.ofNat 3 (slice 2 2 r.fn).toNat, slice 2 0 r.fn, r.pol,
      slice 3 3 r.md, ap, tokOf r.d, r.oA, r.oB, r.oC⟩)
  | 0xB1, _ => some (.agth r.gth) | 0xB2, _ => some (.asct r.gth)
  | 0xB3, 0 => some (.tkwAll k m0 r.oA) | 0xB3, _ => some (.tkwAny k m0 r.oD r.oA)
  | 0xB4, 0 => some (.tkt k r.pD r.tA) | 0xB4, 1 => some (.tktErr k r.pD r.tA)
  | 0xB4, _ => some (.tktSt k r.oD r.tA)
  | 0xB5, _ => some (.evq k m0 r.oA)
  | 0xB6, 0 => some (.acolAllred r.acol) | 0xB6, 1 => some (.acolAllgath r.acol)
  | 0xB6, _ => some (.acolRedscat r.acol)
  | 0xC0, n => if n % 4 == 0 then some (.barArrive r.bar) else if n % 4 == 1 then some (.barWait r.bar)
      else some (.barSync r.bar)
  | 0xC1, _ => some (.gate k) | 0xC2, _ => some (.rels k m0)
  | 0xD0, _ => some (.susp k sc (slice 4 0 r.fn) ap r.oA r.oB)
  | 0xD1, _ => if r.fn.getLsbD 0 then some (.resmJoin k sc ap r.pD r.oA) else some (.resm k sc ap r.pD r.oA)
  | 0xD2, _ => some (.ccpy k (slice 4 0 r.fn) (slice 3 3 r.md) ap r.oA r.oB r.oC)
  | 0xD3, _ => some (.cdsc k ap r.oA)
  | 0xD4, 0 => some (.rtskSpawn k ap (tokOf r.d) r.oA) | 0xD4, _ => some (.rtskDone k)
  | 0xE0, _ => some (.nop k)
  | 0xE1, 0 => some (.csrRd r.csr) | 0xE1, 1 => some (.csrWr r.csr) | 0xE1, 2 => some (.csrSet r.csr)
  | 0xE1, _ => some (.csrClr r.csr)
  | 0xE2, _ => some (.trap k)
  | 0xE3, 0 => some (.rte k) | 0xE3, _ => some (.rteNx k)
  | 0xE4, _ => some (.brkp k) | 0xE5, _ => some (.stop k)
  | _, _ => none

/-- The candidate of the fields: OP selects the family (R100). -/
def instr? (r : Raw) : Option Instr :=
  let n := r.op.toNat
  if n < 0x20 then r.int?
  else if n < 0x30 then r.move?
  else if n < 0x50 then r.flt?
  else if n < 0x70 then r.ctl?
  else if n < 0x90 then r.mem?
  else if n < 0xB0 then r.easel?
  else r.sys?

/-- The legal instruction that the fields encode, if any (R92). -/
def legal? (r : Raw) : Option Instr :=
  match r.instr? with
  | some i => if i.wf && i.raw == some r then some i else none
  | none => none

/-- Word 0 and word 1 (R82, R83). -/
def word0 (r : Raw) : Word := bit r.u ++ r.a ++ r.d ++ bit r.gn ++ r.gp ++ r.op ++ bit r.sw ++ r.len.code
def word1 (r : Raw) : Word := r.fn ++ r.md ++ r.c ++ r.b

/-- The words of the fields. -/
def words (r : Raw) : List Word :=
  match r.len with
  | .two => [r.word0, r.word1]
  | .three => [r.word0, r.word1, r.imm]
  | .four => [r.word0, r.word1, r.imm, r.ext]

/-- The fields of words 0 to 3 at a length. -/
def ofWords (l : Len) (w0 w1 w2 w3 : Word) : Raw :=
  { u := w0.getLsbD 31, a := slice 8 23 w0, d := slice 8 15 w0, gn := w0.getLsbD 14,
    gp := slice 3 11 w0, op := slice 8 3 w0, sw := w0.getLsbD 2, len := l,
    fn := slice 8 24 w1, md := slice 8 16 w1, c := slice 8 8 w1, b := slice 8 0 w1,
    imm := match l with | .two => 0 | _ => w2,
    ext := match l with | .four => w3 | _ => 0 }

end Raw

/-- LEN of word 0; none for 0b11 (R82). -/
def lenOf (w0 : Word) : Option Len :=
  match (slice 2 0 w0).toNat with
  | 0 => some .two
  | 1 => some .three
  | 2 => some .four
  | _ => none

/-- Decode the words from word 0 to the end of its fetch block (R79-R84, R92). A refusal answers the
words that Illegal Encoding reports: word 1 is zero outside the block and for LEN 0b11. -/
def decodeWords (ws : List Word) : Instr :=
  let w0 := ws.getD 0 0
  match lenOf w0 with
  | none => .unassignedOpcode w0 0
  | some l =>
    let w1 := ws.getD 1 0
    if ws.length < l.count then .unassignedOpcode w0 w1
    else
      match (Raw.ofWords l w0 w1 (ws.getD 2 0) (ws.getD 3 0)).legal? with
      | some i => i
      | none => .unassignedOpcode w0 w1

/-- The words of an instruction; none for what has no encoding. -/
def encode (i : Instr) : List Word :=
  match i.raw with
  | some r => r.words
  | none => []

/-- The common fields of an encoded instruction; none for a device step. -/
def Instr.com? (i : Instr) : Option Com :=
  match i.raw with
  | some r => some r.com
  | none => none

/-- Four little-endian bytes make a word (R5, R79). -/
def wordOfBytes (b0 b1 b2 b3 : Byte) : Word := b3 ++ b2 ++ b1 ++ b0

/-- Bytes to words, in ascending addresses. -/
def wordsOfBytes : List Byte → List Word
  | b0 :: b1 :: b2 :: b3 :: bs => wordOfBytes b0 b1 b2 b3 :: wordsOfBytes bs
  | _ => []

/-- Words to bytes. -/
def bytesOfWords : List Word → List Byte
  | [] => []
  | w :: ws => slice 8 0 w :: slice 8 8 w :: slice 8 16 w :: slice 8 24 w :: bytesOfWords ws

/-- The four words of an instruction whose bits are `w`, bit 0 the lowest of word 0. -/
def wordsOfNat (w : Nat) : List Word :=
  [BitVec.ofNat 32 w, BitVec.ofNat 32 (w / 2 ^ 32), BitVec.ofNat 32 (w / 2 ^ 64),
   BitVec.ofNat 32 (w / 2 ^ 96)]

/-- An unassigned opcode or LEN 0b11: what the table's row UNASSIGNED_OPCODE stands for (R101). -/
def unassigned (w0 : Word) : Bool :=
  match lenOf w0 with
  | none => true
  | some l => (Raw.ofWords l w0 0 0 0).instr?.isNone

/-- The instruction that decode reads from an instruction whose bits are `w`; the bits above `nbits`
are zero. None where decode refuses the other fields of an assigned opcode. -/
def decodeTableWord (nbits w : Nat) : Option Instr :=
  let ws := wordsOfBytes (bytesOfWords (wordsOfNat (w % 2 ^ nbits)))
  match decodeWords ws with
  | .unassignedOpcode w0 w1 => if unassigned w0 then some (.unassignedOpcode w0 w1) else none
  | i => some i

end Sys2Proof
end

