-- ==== Sys2Proof/Machine/Prism.lean ====
section
/-! DEFINITION. The prism over one group (06 R170-R182, 11 R306): path choice, parking and splits. -/

namespace Sys2Proof.Machine

/-- Waiting lanes of an entry: deferred, PC not at FOCAL (R170). -/
def waiting (g : Group) (e : Entry) : Word :=
  maskOf (fun l => inMask e.mask l && (g.lane l).st == .deferred && (g.lane l).pc != e.focal)

/-- Arrived lanes of an entry: deferred at FOCAL (R170). -/
def arrived (g : Group) (e : Entry) : Word :=
  maskOf (fun l => inMask e.mask l && (g.lane l).st == .deferred && (g.lane l).pc == e.focal)

/-- PC of the next path that the prism runs from an entry: that of the lowest slot waiting in it, or FOCAL (R170). -/
def nextPc (g : Group) (e : Entry) : DWord :=
  if waiting g e == 0 then e.focal else (g.lane (maskLow (waiting g e))).pc

/-- The entries with their PC counted anew; the lanes of `above` belong to the entries above (R170, R306). -/
def recountFrom (g : Group) : Word → List Entry → List Entry
  | _, [] => []
  | above, e :: r =>
    { e with pc := nextPc g { e with mask := e.mask &&& ~~~above } } :: recountFrom g (above ||| e.mask) r

def Group.recount (g : Group) : Group := { g with stack := recountFrom g 0 g.stack }

/-- Lanes of a mask take a state. -/
def Group.setSt (g : Group) (m : Word) (st : LaneSt) : Group := g.mapMask m (fun x => { x with st := st })

/-- `ChooseNext` (R171). With no waiting lane and JOIN above 0 the group waits: no lane is active. -/
def chooseNext : Nat → Group → Int → Group
  | 0, g, _ => g
  | n + 1, g, prev =>
    match g.stack with
    | [] => g
    | e :: rest =>
      let w := waiting g e
      if w != 0 then
        let l := ((maskLanes w).find? (fun (j : Nat) => prev < j)).getD (maskLow w)
        let pc := (g.lane l).pc
        let path := maskOf (fun j => inMask w j && (g.lane j).pc == pc)
        let left := w &&& ~~~path
        let e' := { e with pc := if left == 0 then e.focal else (g.lane (maskLow left)).pc }
        { g.setSt path .active with stack := e' :: rest }
      else if 0 < e.join then g
      else
        let a := arrived g e
        if a != 0 then { g.setSt a .active with stack := rest }
        else chooseNext n { g with stack := rest } (-1)

/-- Depth of the path stack (R34). -/
def stackMax : Nat := 8

/-- The running path stands at the return focal of its compacted group (R177). -/
def Group.atReturn (g : Group) : Bool :=
  match g.key with
  | some k => g.runMask != 0 && g.runPc == k.2
  | none => false

/-- Park while the running path is about to fetch at the top entry's FOCAL (R171). `prev` is the lowest slot of the path
that stops, -1 when a merge has just formed it, as every path that parks after the first is. A path that stands at its return focal
goes home at once (log 111). -/
def parkLoop : Nat → Int → Group → Group
  | 0, _, g => g
  | n + 1, prev, g =>
    match g.stack with
    | [] => g
    | e :: _ =>
      let run := g.runMask
      if run != 0 && g.runPc == e.focal && !g.atReturn then
        parkLoop n (-1) (chooseNext (stackMax + 1) (g.setSt run .deferred) prev)
      else g

/-- Choose a path where none runs, then park as long as it must. -/
def settle (g : Group) (prev : Int) : Group :=
  if g.runMask == 0 then parkLoop (2 * stackMax) (-1) (chooseNext (stackMax + 1) g prev)
  else parkLoop (2 * stackMax) (maskLow g.runMask) g

/-- Lanes of a mask go to a PC. -/
def Group.setPc (g : Group) (m : Word) (pc : DWord) : Group := g.mapMask m (fun x => { x with pc := pc })

/-- Bytes of an instruction. -/
def comBytes (k : Com) : DWord := BitVec.ofNat 64 (4 * k.len.count)

/-- The next instruction's address. -/
def GCtx.next (c : GCtx) : DWord := c.pc0 + comBytes c.k

/-- A code displacement (R168). -/
def GCtx.target (c : GCtx) (disp : Word) : DWord := c.pc0 + disp.signExtend 64

/-- The distinct next PCs of the running path with their lanes, by lowest slot (R173). -/
def pathsOf (run : Word) (pc : Nat → DWord) : List (DWord × Word) :=
  (maskLanes run).foldl (fun ps l =>
    if ps.any (fun p => p.1 == pc l) then
      ps.map (fun p => if p.1 == pc l then (p.1, p.2 ||| (1#32 <<< l)) else p)
    else ps ++ [(pc l, 1#32 <<< l)]) []

/-- The path with the most lanes; on equal counts the one with the lowest slot (R173). -/
def major (ps : List (DWord × Word)) : Option (DWord × Word) :=
  ps.foldl (fun b p => match b with
    | none => some p
    | some q => if maskCount q.2 < maskCount p.2 then some p else some q) none

end Sys2Proof.Machine
end

