-- ==== Sys2Proof/Machine/Life.lean ====
section
/-! DEFINITION. How groups, teams and grids end, and what the device writes about it: fault queue, interrupts,
fault records (11 R307-R308, 16 R394-R395, 17 R427-R430, 06 R181, 14 R350-R351). -/

namespace Sys2Proof.Machine

/-- A stage-2 notice, posted to VD 0 (R427). `kind` is the access kind: 1 read, 2 write, 3 atomic, 4 execute
(the spec gives no codes: log 21). -/
def State.s2Notice (s : State) (cause : Byte) (ctx ipa va kind : Nat) : State :=
  s.fqPost 0 ([0x81, cause] ++ leBytes 1 (ctx / 256) ++ leBytes 1 (ctx % 256) ++ leBytes 4 0 ++ leBytes 8 ipa ++
    leBytes 10 va ++ leBytes 1 kind ++ List.replicate 5 0)

/-- A fault record (R308). -/
def faultRecord (cause : Byte) (kind qslot core die grp vd : Nat) (tpc tval : DWord) (tvalh : Half) (team : Nat) :
    List Byte :=
  [cause] ++ leBytes 1 kind ++ leBytes 2 qslot ++ leBytes 1 (core % 128) ++ leBytes 1 die ++ leBytes 1 grp ++
    leBytes 1 vd ++ leBytes 8 tpc.toNat ++ leBytes 8 tval.toNat ++ leBytes 2 tvalh.toNat ++ leBytes 2 0 ++
    leBytes 4 team

/-- `%die` of a die number (R38). -/
def Module.dieReg (m : Module) (d : Nat) : Nat := d + if m.expander then 128 else 0

/-- Logical cluster of a core is its number's upper part (R38); the groups of a team. -/
def State.groupsOf (s : State) (team : Nat) : List (Nat × Group) := s.groups.filter (fun e => e.2.team == team)

/-- A group's own accesses, in a class (R356). -/
def State.accOf (s : State) (g : Group) (cls : Nat) : Acc := ⟨g.core, g.team, g.ctx, cls, s.chainOf g.team, false⟩

/-- Written bytes of lines that a team last wrote go to L2 (R350). -/
def State.flushTeam (s : State) (g : Group) : State :=
  let a := s.accOf g 0
  (s.l1Cores a).foldl (fun s c => s.l1Flush a c (fun _ l => if l.team == g.team then allBytes else 0)) s

/-- Grid by id. -/
def State.grid? (s : State) (i : Nat) : Option Grid := SMap.get? s.grids i

/-- A team counts as released once: its grid's count rises (R259). `closing` says that the team ends. -/
def State.countRelease (s : State) (tid : Nat) (closing : Bool) : State :=
  match SMap.get? s.teams tid with
  | some t =>
    let open' := s.groups.any (fun e => e.2.team == tid && e.2.slot < t.g && !e.2.released)
    if t.rel || t.det || open' || (0 < t.suspd && !closing) then s
    else (s.updTeam tid (fun t => { t with rel := true })).updGrid t.grid (fun g => { g with relTeams := g.relTeams + 1 })
  | none => s

/-- The grid counts as released (R259, R307, R408). -/
def State.gridReleased (s : State) (i : Nat) : Bool :=
  match s.grid? i with
  | some g => g.fault || g.teams ≤ g.relTeams
  | none => true

/-- A fused block's L1s are sent to L2 and dropped, as the block's team sends them (R351). -/
def State.unfuse (s : State) (a : Acc) (cores : List Nat) : State :=
  cores.foldl (fun s c => (s.l1Flush a c (fun _ _ => allBytes)).updCore c (fun x => { x with l1 := [] })) s

/-- A team whose groups are gone leaves its core (R181, R220, R351, R404). `ran` says that it retired. -/
def State.endTeam (s : State) (tid : Nat) (ran : Bool) : State :=
  match SMap.get? s.teams tid with
  | none => s
  | some t =>
    let s := s.countRelease tid true
    let last := !s.teams.any (fun e => e.1 != tid && !e.2.det && e.2.grid == t.grid && e.2.block == t.block)
    let ctx := (SMap.get? s.grids t.grid).elim 0 (fun g => g.ctx)
    let s := if last && t.fuse then s.unfuse ⟨t.core, tid, ctx, 0, s.chainOf tid, false⟩ t.cores else s
    let s := s.updCluster (t.core / 4) (fun c => { c with free := c.free + t.pool })
    let s := s.updCore t.core (fun c => { c with shadow := c.shadow.filter (fun x => x.team != tid) })
    let s := { s with canvases := s.canvases.filter (fun e => e.2.team != tid), teams := SMap.del s.teams tid }
    s.updGrid t.grid (fun g =>
      if t.det then { g with det := g.det - 1 }
      else { g with retired := g.retired + ran.toNat
                    blocks := if last then SMap.del g.blocks t.block else g.blocks })

/-- An engine operation still targets the team's store (R266). -/
def State.teamBusy (s : State) (tid : Nat) : Bool := s.aops.any (fun e => e.2.team == tid && e.2.kind.touchesTs)

/-- Retire a team that has no group left (R181, R266). -/
def State.sweepTeam (s : State) (tid : Nat) : State :=
  if s.groups.any (fun e => e.2.team == tid) || s.teamBusy tid then s else s.endTeam tid true

/-- The lane-cycles of a group since the last reading: a free value, for cycles are timing (R436, log 12). -/
def State.laneTime (s : State) (g : Group) : State :=
  let n := Config.freeNat s.draws
  (s.meter (g.core / 128) (g.ctx / 256) (fun m => { m with lanecyc := satAdd m.lanecyc n })).draw

/-- A group leaves its core: its written bytes go to L2, its slot frees (R181, R350), and its lane-cycles are counted (R436). -/
def State.removeGroup (s : State) (gid : Nat) : State :=
  match SMap.get? s.groups gid with
  | none => s
  | some g =>
    let s := (s.flushTeam g).laneTime g
    let s := { s with groups := SMap.del s.groups gid, cur := if s.cur == some gid then none else s.cur }
    s.updCluster (g.core / 4) (fun c => { c with grows := c.grows.filter (fun x => x.gid != gid) })

/-- A group stops and is discarded, its issued operations drained (R307, R310 step 2). -/
def State.discardGroup (s : State) (gid : Nat) : State :=
  let s := s.engineDrain (fun o => o.gid == gid)
  let s := s.easelDrain (fun o => o.gid == gid)
  s.removeGroup gid

/-- The teams of a grid, detached ones among them. -/
def State.teamsOf (s : State) (i : Nat) : List (Nat × Team) := s.teams.filter (fun e => e.2.grid == i)

/-- A team waits in a shadow slot of its core (R405). -/
def State.inShadow (s : State) (tid : Nat) (t : Team) : Bool := (s.core t.core).shadow.any (fun x => x.team == tid)

/-- No further team of a grid is dispatched: ranges and shadow slots are emptied (R261, R307, R413). -/
def State.stopDispatch (s : State) (i : Nat) : State :=
  let shadow := (s.teamsOf i).filter (fun e => s.inShadow e.1 e.2 && !e.2.det)
  let s := { s with
    cores := SMap.mapV (fun (c : Core) => { c with shadow := c.shadow.filter (fun x => !shadow.any (fun e => e.1 == x.team)) }) s.cores,
    teams := s.teams.filter (fun e => !shadow.any (fun x => x.1 == e.1)) }
  s.updGrid i (fun g => { g with
    parts := g.parts.map (fun (p : Part) => { p with ranges := [], st := .running }) })

/-- Every group of a grid stops and is discarded (R307, R413), with what images hold of it; a detached group is a grid of its own
for this purpose, but for the forced destruction, `all`, of the grid (R271). -/
def State.cutGrid (s : State) (i : Nat) (all : Bool) : State :=
  let ts := ((s.teamsOf i).filter (fun e => all || !e.2.det)).map (fun e => e.1)
  let gs := (s.groups.filter (fun e => ts.contains e.2.team)).map (fun e => e.1)
  let s := gs.foldl (fun s g => s.discardGroup g) s
  (ts.foldl (fun s t => s.endTeam t false) s).updGrid i (fun g => { g with saved := 0 })

/-- An unhandled trap (R307): the fault record, and the end of the group and its grid. `kind` is that of R308. -/
def State.unhandled (s : State) (gid kind : Nat) (t : Trap) (pc : DWord) : State :=
  match SMap.get? s.groups gid with
  | none => s
  | some g =>
    let die := g.core / 128
    let tm := SMap.get? s.teams g.team
    let lin := tm.elim 0 (fun t => t.lin)
    let s := s.fqPost (g.ctx / 256) (faultRecord t.cause kind (s.qslotOf g.team die) g.core (s.mod.dieReg die)
      g.id.grp (g.ctx / 256) pc t.tval t.tvalh (lin % 2 ^ 32))
    match tm with
    | none => s.removeGroup gid
    | some tm =>
      if tm.det then (s.discardGroup gid).endTeam g.team false
      else
        let s := s.discardGroup gid
        let s := s.updGrid tm.grid (fun g => { g with fault := true })
        (s.stopDispatch tm.grid).cutGrid tm.grid false

/-- Statuses of R395. -/
def csOk : Nat := 0
def csTrunc : Nat := 1
def csFault : Nat := 2
def csRefused : Nat := 3
def csSaved : Nat := 4
def csSavefault : Nat := 5
def csRestored : Nat := 6
def csNoslot : Nat := 7

/-- A completion or status record (R395). -/
def complRecord (status reason qslot : Nat) (seq : Word) (teams wu gridid : Nat) : List Byte :=
  leBytes 1 status ++ leBytes 1 reason ++ leBytes 2 qslot ++ leBytes 4 seq.toNat ++ leBytes 8 teams ++
    leBytes 8 wu ++ leBytes 4 gridid ++ leBytes 4 0

end Sys2Proof.Machine
end

