-- ==== Sys2Proof/Machine/Ops.lean ====
section
/-! DEFINITION. Issue of one instruction (01 R27, 03 R90-R98, 11 R298), what completes it, taking an exception
(11 R304-R307) and returning from one (11 R306). -/

namespace Sys2Proof.Machine

/-- An outcome of a meaning. -/
abbrev Res := Host.Outcome State Fault Refusal

/-- What an instruction does at issue: it completes and its path goes on at the next instruction; it completes and
has set the PCs itself; it raises a cause; or it waits at issue (R48). -/
inductive Act
  | done (s : State)
  | jump (s : State)
  | trap (s : State) (t : Trap)
  | wait (s : State) (w : Wait)

-- Outstanding results (R94-R98).

/-- The register or predicate that a write names, its lane left aside. -/
def RegW.target : RegW → Nat × Nat
  | .v _ r _ => (0, r)
  | .s r _ => (1, r)
  | .p _ k _ => (2, k)
  | .o _ r => (1, r)

/-- The image of the write is not known yet (R213). -/
def RegW.owed : RegW → Bool
  | .o .. => true
  | _ => false

/-- The `tier` operations whose status a group awaits in a register (R213). -/
def Group.owed (g : Group) : List Nat :=
  g.pend.flatMap (fun w => w.filterMap (fun x => match x with | .o i _ => some i | _ => none))

/-- Results that a list of writes counts for (R94, R98). -/
def resultCount (ws : List (List RegW)) : Nat :=
  (ws.map (fun w => (w.map RegW.target).eraseDups.length)).foldl (· + ·) 0

/-- Apply one instruction's writes. -/
def applyAll (g : Group) (w : List RegW) : Group := w.foldl RegW.apply g

/-- An entry without the writes that a younger write, now applied, has overtaken: their results are dropped when they
return (R95). -/
def dropSame (now : List RegW) (w : List RegW) : List RegW := w.filter (fun x => !now.any (fun y => x.same y))

/-- An entry in front of others, unless nothing of it is left. -/
def consNe (w : List RegW) (r : List (List RegW)) : List (List RegW) := if w.isEmpty then r else w :: r

/-- The oldest entry whose images are known, and the others. -/
def takeKnown : List (List RegW) → Option (List RegW × List (List RegW))
  | [] => none
  | w :: r =>
    if w.all RegW.owed then (takeKnown r).map (fun x => (x.1, consNe (dropSame x.1 w) x.2)) else some (w, r)

/-- The statuses still owed once every known result is applied. -/
def owedLeft : List (List RegW) → List (List RegW)
  | [] => []
  | w :: r => consNe ((dropSame (r.flatten.filter (fun x => !x.owed)) w).filter RegW.owed) (owedLeft r)

/-- Every outstanding result is applied, in program order (R95, R97), but for a status that has not returned. -/
def Group.settleResults (g : Group) : Group :=
  { g.pend.foldl applyAll g with
    pend := owedLeft g.pend, parked := g.parked && !(owedLeft g.pend).isEmpty }

/-- Keep at most 32 outstanding results: the oldest that are known are applied first (R98). -/
def trimPend : Nat → Group → Group
  | 0, g => g
  | n + 1, g =>
    if resultCount g.pend ≤ 32 then g
    else match takeKnown g.pend with
      | none => g
      | some x => trimPend n { applyAll g x.1 with pend := x.2 }

/-- Writes become outstanding (R94). With 32 statuses owed nothing can be brought in: the instruction that adds them waits
instead, and this state is dropped (R98). -/
def Group.addResults (g : Group) (w : List RegW) : Group :=
  if w.isEmpty then g
  else if 32 ≤ g.owed.length then { g with pend := g.pend ++ [w] }
  else trimPend (g.pend.length + 1) { g with pend := g.pend ++ [w] }

/-- Apply the writes that a test selects. -/
def applySel (sel : RegW → Bool) (g : Group) (w : List RegW) : Group := applyAll g (w.filter sel)

/-- The result of the outstanding entry at an index returns in the lanes of a mask: it is applied there, and older
writes to the same targets that are still outstanding are dropped when they return (R95). -/
def Group.returnResult (g : Group) (idx : Nat) (m : Word) : Group :=
  match g.pend[idx]? with
  | none => g
  | some w =>
    let here (x : RegW) : Bool := match x with | .v l _ _ | .p l _ _ => inMask m l | .s .. => true | .o .. => false
    let now := w.filter here
    let older := (g.pend.take idx).map (dropSame now)
    let p := (older ++ [w.filter (fun x => !here x)] ++ g.pend.drop (idx + 1)).filter (fun x => !x.isEmpty)
    { applyAll g now with pend := p, parked := g.parked && !p.isEmpty }

/-- The status of a `tier` instruction becomes known and is applied, unless a younger write to its register has
overtaken it (R95, R213). -/
def Group.returnStatus (g : Group) (op : Nat) (v : Word) : Group :=
  let mine (x : RegW) : Bool := match x with | .o i _ => i == op | _ => false
  match g.pend.findIdx? (fun w => w.any mine) with
  | none => g
  | some k =>
    let known (x : RegW) : RegW := match x with
      | .o i r => if i == op then .s r ⟨false, 0, v⟩ else x
      | x => x
    { g with pend := updAt g.pend k (fun w => w.map known) }.returnResult k 0

-- Flags and random state (R38, R73, R165, R176).

/-- Set flags of a group. -/
def Group.orFlags (g : Group) (f : Flags) : Group := { g with fflags := g.fflags ||| f }

/-- Flags raised by lanes: in the group, or in each lane's home group when it is compacted (R176). -/
def State.raiseFlags (s : State) (gid : Nat) (fl : List (Nat × Flags)) : State :=
  match SMap.get? s.groups gid with
  | none => s
  | some g =>
    if g.compacted then
      fl.foldl (fun s x => match (g.lane x.1).home with
        | some h => s.updGroup h.gid (fun y => y.orFlags x.2)
        | none => s) s
    else s.updGroup gid (fun y => y.orFlags (orFlags (fl.map (fun x => x.2))))

/-- Vector registers that writes change make the B fragments of waiting passes stale for fusion (R412). -/
def State.markB (s : State) (g : Group) (gid : Nat) (w : List RegW) : State :=
  let rs := w.filterMap (fun x => match x with | .v _ r _ => some r | _ => none)
  if rs.isEmpty || (s.cluster (g.core / 4)).ops.all (fun o => o.gid != gid) then s
  else s.updCluster (g.core / 4) (fun c => { c with ops := c.ops.map (fun o =>
    if o.gid == gid && rs.any (fun r => o.bBase ≤ r && r < o.bBase + o.bRegs) then { o with bw := true } else o) })

/-- What a register instruction does to the state: outstanding writes, flags, `%rng`. -/
def State.commit (s : State) (gid : Nat) (o : Out) : State :=
  match SMap.get? s.groups gid with
  | none => s
  | some g =>
    let g1 := o.rng.foldl (fun g x => g.updLane x.1 (fun l => { l with rng := x.2 })) g
    let s := s.setGroup gid (g1.addResults o.w)
    (s.markB g gid o.w).raiseFlags gid o.fl

-- Completion of an instruction.

/-- The path of the lanes that issued goes on at the next instruction. -/
def Group.advance (g : Group) (run : Word) (k : Com) : Group :=
  g.mapMask run (fun l => { l with pc := l.pc + comBytes k })

/-- A stopped long instruction leaves its count in `%prog`; inside a handler only a `csr` write does (R309). -/
def Group.setProg (g : Group) (k : Nat) : Group := if g.inH then g else { g with prog := BitVec.ofNat 32 k }

/-- The state that a wait in the middle of a long instruction leaves: the steps made and `%prog`, or, inside a handler,
where `%prog` keeps no count (R309), the state before its first step `s0`. -/
def State.stopAt (s s0 : State) (gid k : Nat) (g : Group) : State :=
  if g.inH then s0 else s.updGroup gid (fun g => g.setProg k)

/-- The step before which this issue of a long instruction of `n` steps stops, begun at step `k0` (R309): `n`, unless the schedule
ends the issue between two steps, outside a handler. -/
def State.stepsTo (s : State) (g : Group) (k0 n : Nat) : Nat :=
  match s.lim with
  | some k => if !g.inH && k0 < k && k < n then k else n
  | none => n

/-- What every completed instruction leaves: `%prog` 0 when it issued outside a handler (R309), the switch marker's park
(R94), no wait, and a path chosen where none runs (R171). -/
def Group.complete (g : Group) (inH : Bool) (k : Com) (prev : Nat) : Group :=
  settle { g with
    prog := if inH then g.prog else 0
    parked := k.sw && !g.pend.isEmpty
    wait := .no
    held := none
    fresh := false } prev

/-- One instruction issued by a group of a VD (R436), and what it consumed since `s0` charged to its grid (R397). -/
def State.issued (s : State) (s0 : State) (g : Group) : State :=
  s0.charge (s.meter (g.core / 128) (g.ctx / 256) (fun m => { m with issue := satAdd m.issue 1 })) g.team (g.ctx / 256)

-- Exceptions.

/-- Words 1 and 0 of an instruction, as `%tval` of Illegal Encoding and Privilege holds them (R300). -/
def Instr.tval (i : Instr) : DWord :=
  match i with
  | .unassignedOpcode a b => b ++ a
  | _ => match i.raw with | some r => r.word1 ++ r.word0 | none => 0

/-- Illegal Encoding and Privilege at an instruction. -/
def illegal (i : Instr) : Trap := ⟨1, Instr.tval i, 0⟩
def privilege (i : Instr) : Trap := ⟨2, Instr.tval i, 0⟩

/-- Trap entry when the trap is handled (R304): results settled, the trap registers written, the running path at
`%tvec` with `%tpc` as each lane's return PC. -/
def Group.enter (g : Group) (t : Trap) (pc : DWord) : Group :=
  let g := g.settleResults
  { g.mapMask g.runMask (fun l => { l with hnd := true, ret := pc, pc := g.tvec }) with
    tcause := t.cause, tpc := pc, tval := t.tval, tvalh := t.tvalh, inH := true, hDepth := g.stack.length
    wait := .no, held := none, fresh := false }

/-- Forget the tier failure that this trap reports (R375). -/
def State.clearFailed (s : State) (gid : Nat) : State :=
  { s with vds := SMap.mapV (fun v =>
      { v with objs := SMap.mapV (fun o => { o with failed := o.failed.filter (fun x => x != gid) }) v.objs }) s.vds }

/-- A group raises a cause (R304, R307): the ONE operation that takes an exception. Its entry waits for the statuses that the
group is owed (R97). -/
def takeTrap (s : State) (gid : Nat) (t : Trap) : State :=
  match SMap.get? s.groups gid with
  | none => s
  | some g =>
    let pc := g.runPc
    if !g.owed.isEmpty then s.setGroup gid { g with wait := .raise t.cause t.tval t.tvalh, held := none, fresh := false }
    else
    let s := if t.cause == 0x11 || t.cause == 0x0F then s.clearFailed gid else s
    if g.inH then s.unhandled gid 2 t pc
    else if g.tvec == 0 then s.unhandled gid 1 t pc
    else s.setGroup gid (g.enter t pc)

-- Issue.

/-- A wait of an instruction that has issued, and not one before its issue (R48, R93): its sources and its guard stay
those of its issue. -/
def Wait.issued : Wait → Bool
  | .tkw | .mwait | .grow | .gate | .bar .. | .table | .susp | .ccpy | .raise .. => true
  | _ => false

/-- What the instruction that waits has read. -/
def Held.of (g : Group) (cvs : List Nat) : Held := ⟨g.s, g.lanes.map (fun l => l.v), g.lanes.map (fun l => l.pr), cvs⟩

/-- A group as an instruction that has issued sees it (R93). -/
def Group.seen (g : Group) : Group :=
  match g.held with
  | none => g
  | some h => { g with
      s := h.s
      lanes := g.lanes.zipIdx.map (fun x => { x.1 with v := h.v.getD x.2 [], pr := h.pr.getD x.2 0 }) }

/-- The issuing context of a group: its running path and `Active(g)` (R9, R33). -/
def GCtx.make (g : Group) (k : Com) : GCtx :=
  let run := g.runMask
  let c : GCtx := ⟨g.seen, k, run, 0, g.runPc⟩
  { c with act := maskOf (fun l => inMask run l && c.guard l) }

/-- The instruction executes: a U=1 form when its guard is true in the lowest lane of the running path, a U=0 form
unless it is the never form (R27, R90). -/
def GCtx.executes (c : GCtx) : Bool :=
  if c.k.u then c.guard c.low else !(c.k.gp == 7 && c.k.gn)

/-- An instruction that waits has begun: it has issued, or made some of its steps (R93, R309). -/
def Group.began (g : Group) (w : Wait) : Bool := w.issued || w == .step || (!g.inH && g.prog != 0)

/-- A group begins to wait: what an instruction that has begun read at its issue, in `seen`, stays with it (R93), and the group
takes no more ejected lanes (R175). -/
def Group.waits (g : Group) (w : Wait) (seen : Group) : Group :=
  { g with
    wait := w
    held := if g.began w then g.held.or (some (Held.of seen [])) else none
    fresh := g.fresh && !g.began w }

/-- Finish an issue. -/
def finish (s : State) (gid : Nat) (c : GCtx) : Act → State
  | .done s' => ((s'.issued s c.g).updGroup gid (fun g => (g.advance c.run c.k).complete c.g.inH c.k c.lowSlot))
  | .jump s' => (s'.issued s c.g).updGroup gid (fun g => g.complete c.g.inH c.k c.lowSlot)
  | .trap s' t => takeTrap s' gid t
  | .wait s' w => s'.updGroup gid (fun g => g.waits w c.g)

/-- The state that an action leaves. -/
def Act.state : Act → State
  | .done s | .jump s | .trap s _ | .wait s _ => s

/-- An action would leave a group that owes 32 statuses a further outstanding result (R98). -/
def Act.over (a : Act) (g : Group) (gid : Nat) : Bool :=
  32 ≤ g.owed.length && ((SMap.get? a.state.groups gid).any (fun h => 32 < resultCount h.pend))

/-- Issue an instruction for the group chosen: register ranges are checked against the budget and the scalar count
(R24, R27), then the guard, then what the instruction itself does. -/
def issue (i : Instr) (k : Com) (rs : List (Opnd × Nat)) (f : Nat → GCtx → State → Act) (s : State) : Res :=
  match s.cur with
  | none => .next s
  | some gid =>
    match SMap.get? s.groups gid with
    | none => .next s
    | some g =>
      let c := GCtx.make g k
      if !rs.all g.inRange then .next (takeTrap s gid (illegal i))
      else if !c.executes then .next (finish s gid c (.done s))
      else if (f gid c s).over g gid then .next (finish s gid c (.wait s .results))
      else .next (finish s gid c (f gid c s))

/-- A register instruction (chapters 04, 05, 06). -/
def runG (b : GBody) (gid : Nat) (c : GCtx) (s : State) : Act :=
  match b c with
  | .error t => .trap s t
  | .ok o => .done (s.commit gid o)

/-- Issue of a register instruction. -/
def issueG (i : Instr) (k : Com) (rs : List (Opnd × Nat)) (b : GBody) (s : State) : Res := issue i k rs (runG b) s

/-- Register ranges of the integer and the float forms. -/
def irs (x : IArgs) (d a b c : Nat) : List (Opnd × Nat) := [(x.d, d), (x.a, a), (x.b, b), (x.c, c)]
def frs (x : FArgs) (d a b c : Nat) : List (Opnd × Nat) := [(x.d, d), (x.a, a), (x.b, b), (x.c, c)]

-- Return from an exception (R275, R306).

/-- The recount of paths at return (R306). `r` is where the handler's lanes go that were not moved. -/
def Group.rteGo (g : Group) (nx : Bool) (r : DWord) : Group :=
  let h := maskOf (fun l => (g.lane l).hnd && (g.lane l).st != .exited)
  let g1 := g.mapMask h (fun l => { l with pc := if l.ret == g.tpc then r else l.ret })
  let keep := !nx && (maskLanes h).any (fun l => (g1.lane l).pc == g.tpc)
  let g2 : Group := { g1 with
    prog := if keep then g1.prog else 0
    inH := false, wait := .no, held := none, fresh := false
    lanes := g1.lanes.map (fun l => { l with hnd := false }) }
  if h == 0 then settle g2 (-1)
  else
    let pcs := (maskLanes h).map (fun l => (g2.lane l).pc)
    let several := pcs.any (fun p => p != pcs.headD 0)
    let others := (maskLanes h).filter (fun l => (g2.lane l).pc != r)
    let g3 := if g2.stack.isEmpty && several then
        { g2 with stack := [⟨h, (g2.lane (others.headD 0)).pc, nullFocal, 0⟩] } else g2
    let run := maskOf (fun l => inMask h l && (g3.lane l).pc == r)
    let g4 := ((g3.setSt h .deferred).setSt run .active).recount
    settle g4 (if run == 0 then maskLow h else -1)

/-- The handler may return: the stack has its depth at entry and the running path is the handler path (R306). -/
def Group.mayReturn (g : Group) : Bool :=
  g.inH && g.stack.length == g.hDepth &&
    lanes32.all (fun l => ((g.lane l).hnd && (g.lane l).st != .exited) == ((g.lane l).st == .active))

/-- Changes of the issuing group alone. -/
def State.withG (s : State) (gid : Nat) (f : Group → Group) : State := s.updGroup gid f

/-- The home entry's JOIN falls when an ejected lane comes back or exits (R177). -/
def joinDrop (stack : List Entry) (l : Nat) : List Entry :=
  match stack with
  | [] => []
  | e :: r => if inMask e.mask l then { e with join := e.join - 1 } :: r else e :: joinDrop r l

/-- A home lane takes back its state at its return focal, or is exited (R177), and a waiting home group chooses
again. -/
def State.homeLane (s : State) (h : Home) (f : Lane → Lane) : State :=
  s.updGroup h.gid (fun g =>
    let g1 := (g.updLane h.lane f)
    let g2 := { g1 with stack := joinDrop g1.stack h.lane }.recount
    if g2.runMask == 0 then settle g2 (-1) else g2)

/-- A lane of a compacted group exits: its home lane exits, and it leaves the group (R177). Its registers do not come
back. -/
def State.exitLane (s : State) (gid l : Nat) (pc : DWord) : State :=
  match SMap.get? s.groups gid with
  | none => s
  | some g =>
    let x := g.lane l
    match x.home with
    | some h =>
      let s := s.homeLane h (fun y => { y with st := .exited, pc := pc })
      s.updGroup gid (fun g => { g.updLane l (fun _ => { Lane.none with pc := pc }) with
        stack := g.stack.map (fun e => { e with mask := e.mask &&& ~~~(1#32 <<< l) }) })
    | none => s.updGroup gid (fun g => g.updLane l (fun y => { y with st := .exited, pc := pc }))

end Sys2Proof.Machine
end

