-- ==== Sys2Proof/Machine/MemOps.lean ====
section
/-! DEFINITION. Shared operations of the memory instructions: checks over lanes, orders, reads, writes, atomics and
fences (07 R191-R214, 10 R284-R290). -/

namespace Sys2Proof.Machine

/-- A group waits for the promotion of a tier object (R195, R373); its first wait counts (R377). -/
def State.tierWait (s : State) (gid : Nat) (g : Group) (obj : Nat) : State :=
  let v := g.ctx / 256
  let d := s.vd v
  let o := SMap.getD d.objs TObj.init obj
  if o.waiters.contains gid then s
  else
    let s := s.setVd v { d with objs := SMap.put d.objs obj { o with waiters := o.waiters ++ [gid] } }
    if s.objKind v obj == 1 then s.stall (g.core / 128) g.ctx 0 true else s

/-- A failed check traps, with the stage-2 notice of R427 where stage 2 failed; a tier object is waited for. -/
def chkFail (gid : Nat) (c : GCtx) (s : State) (kind : Nat) : Chk → Act
  | .bad _ t (some ipa) => .trap (s.s2Notice t.cause c.g.ctx ipa (vaOf t.tvalh t.tval) kind) t
  | .bad _ t none =>
    .trap (if t.cause == 0x0F then s.lostHit (c.g.core / 128) c.g.ctx else s) t
  | .tier o => .wait (s.tierWait gid c.g o) (.tier (c.g.ctx / 256) o)
  | .ok .. => .done s

/-- Cache the translations that an access used (R426). -/
def State.tlbFills (s : State) (core : Nat) (es : List TlbE) : State := es.foldl (fun s e => s.tlbFill core e) s

/-- Lines of the module that a host may hold, among those a write touches (R444). -/
def State.hostLines (s : State) (gs : List Seg) : List Nat :=
  gs.flatMap (fun g =>
    if g.ts then []
    else match s.mod.place g.pa with
      | .die h => (linesOf g.pa g.len).filter (fun l => SMap.getD (s.die h).hostHeld false l)
      | _ => [])

/-- Every stretch can be accessed now: nothing that the access must see first waits for a host (R289, R444). -/
def State.reachAll (s : State) (core : Nat) (direct : Bool) (gs : List Seg) : Bool := gs.all (s.reach (core / 128) direct)

/-- What an instruction waits for that a host holds. -/
def State.hostWait (s : State) : Act := .wait (s.askHost s.heldUpd) .fence

/-- Check every lane of an instruction (R195), then go on with each lane's stretches. `kind` is the access kind of a
stage-2 notice; an atomic, kind 3, is performed at the home. -/
def memGo (gid : Nat) (c : GCtx) (s : State) (kind : Nat) (sp : AccessSpec) (code : BitVec 3) (n : Nat) (ls : List Nat)
    (off : Nat → DWord) (k : List (Nat × List Seg) → State → Act) : Act :=
  let chk (l : Nat) : Chk := s.chk c.g gid sp code (off l) n
  match chkLanes ((c.bySlot ls).map chk) with
  | .ok gs es =>
    let held := if sp.need.w then s.hostLines gs else []
    if !held.isEmpty then .wait (s.askHost held) .fence
    else if !s.reachAll c.g.core (kind == 3) gs then s.hostWait
    else k (ls.map (fun l => (l, (chk l).segs))) (s.tlbFills c.g.core es)
  | b => chkFail gid c s kind b

-- Fences (R197, R214).

/-- Class bits of FN and MOD of `fnc` (R214). -/
def clR : Nat := 0
def clW : Nat := 1
def clAT : Nat := 2
def clCR : Nat := 3
def clCW : Nat := 4
def clMR : Nat := 5
def clMW : Nat := 6
def clMS : Nat := 7

/-- The fence reaches beyond the team (R291). -/
def Scope.wider : Scope → Bool
  | .grp | .team | .clus => false
  | _ => true

/-- A canvas operation has memory in the team store; its class (R235). -/
def EKind.memClass : EKind → Option (Nat × Bool)
  | .loadMem _ _ _ rows => some (clMR, rows.any (fun r => r.any (fun g => g.ts)))
  | .storeMem segs _ => some (clMW, segs.any (fun g => g.ts))
  | _ => none

/-- A request of a team's access to a memory-side page has been sent and its reply has not come (R361). -/
def State.unreplied (s : State) (team : Nat) : Bool :=
  s.hbms.any (fun k => (k.2.q ++ k.2.waitq ++ k.2.wins.flatMap (fun w => w.2) ++ k.2.replies.map (fun r => (r.1, r.2.1))).any
    (fun p => p.2.team == team && p.1 % 256 != 1))

/-- The predecessor set holds writes to global memory other than memory-side commands (R214, R290). -/
def predWrites (pred : Byte) : Bool :=
  pred.getLsbD clW || pred.getLsbD clAT || pred.getLsbD clCW || pred.getLsbD clMW

/-- The accesses of the predecessor classes that the group issued are performed (R214, R290, R291, R293). -/
def State.fenceReady (s : State) (gid : Nat) (g : Group) (sc : Scope) (pred : Byte) : Bool :=
  let ids := g.ids gid
  let copyIn := pred.getLsbD clCR || pred.getLsbD clCW
  s.aops.all (fun e => !e.2.mine ids ||
    (if e.2.isCopy then e.2.ran || !(copyIn && (Scope.wider sc || e.2.kind.touchesTs))
     else e.2.left.isEmpty || !pred.getLsbD clMS)) &&
  (s.cluster (g.core / 4)).ops.all (fun o => !o.mine ids || o.done ||
    (match o.kind.memClass with
     | some (cl, ts) => !(pred.getLsbD cl && (Scope.wider sc || ts))
     | none => true)) &&
  (!(sc == .sys && (predWrites pred || pred.getLsbD clMS)) || !s.unreplied g.team)

/-- A fence over the group's classes. -/
def State.fence (s : State) (g : Group) (sc : Scope) (pred succ : Byte) : State :=
  s.fenceCaches (s.accOf g 0) sc (pred.getLsbD clW || pred.getLsbD clAT) (succ.getLsbD clR)
    (pred.getLsbD clCW || pred.getLsbD clMW)

/-- Beyond the die the writes in the predecessor set are performed at their homes and in every guest copy (R284, R290). -/
def State.fenceSent (s : State) (g : Group) (sc : Scope) (pred : Byte) : Bool :=
  !(sc == .mod || sc == .sys) || !predWrites pred || s.isSpread (g.core / 128)

/-- A hand-off that the device carries (R285): beyond the die the die takes in every write issued so far; then the caches act
as for an acquire. -/
def State.handOff (s : State) (g : Group) (sc : Scope) : State :=
  let s := if sc == .mod || sc == .sys then s.joinAll (g.core / 128) else s
  s.fenceCaches (s.accOf g 0) sc false true false

/-- The hand-off is complete: no write that it must bring along waits for a host. -/
def State.handedOff (s : State) (g : Group) (sc : Scope) : Bool :=
  !(sc == .mod || sc == .sys) || s.joinedAll (g.core / 128)

/-- What follows `mwait`, or a completed token of the group's own operations, is ordered after the engine's accesses (R238,
R247, R292). -/
def State.tokOrder (s : State) (g : Group) : State := s.handOff g .die

/-- R, W, AT and MS, which orders act on (R197). -/
def ordSet : Byte := 0x87

def MOrd.isRel : MOrd → Bool
  | .rel | .ar | .sc => true
  | _ => false
def MOrd.isAcq : MOrd → Bool
  | .acq | .ar | .sc => true
  | _ => false

/-- The scope at which an access acts: `.team` on aperture 7 for a wider one (R193), and for `.grp` in a compacted group
(R279). -/
def GCtx.scopeOf (c : GCtx) (ap : BitVec 3) (sc : Scope) : Scope :=
  if ap == 7 then (if sc == .grp then .grp else .team)
  else if sc == .grp && c.g.compacted then .team else sc

/-- The scope at which it is performed: in one order for all dies where it is sequentially consistent, also for a line
whose home lies outside the module (R287). -/
def perfScope (ord : MOrd) (sc : Scope) : Scope := if ord == .sc && sc == .mod then .sys else sc

/-- An access with an order mark: what must be performed first, then the access, then what must follow it
(R197, R287). -/
def ordered (ord : MOrd) (sc : Scope) (cls : Nat) (gid : Nat) (c : GCtx) (s : State) (k : State → State) : Act :=
  let one : Byte := 1#8 <<< cls
  let all := ord == .sc && Scope.wider sc
  if (MOrd.isRel ord && !s.fenceReady gid c.g sc ordSet) ||
      (MOrd.isAcq ord && cls == clMS && !s.fenceReady gid c.g sc one) then .wait s .fence
  else
    let s := if MOrd.isRel ord then s.fence c.g sc ordSet one else s
    let s := if all then s.settleUpd else s
    if (MOrd.isRel ord && !s.fenceSent c.g sc ordSet) || (all && !s.quiet) then s.hostWait
    else
      let s := k s
      let s := if all then s.settleUpd else s
      .done (if MOrd.isAcq ord then s.fence c.g sc one ordSet else s)

-- Loads.

/-- Read each lane's stretches in ascending lane order. -/
def State.readLanes (s : State) (a : Acc) (sc : Scope) (pol : Pol) (ls : List (Nat × List Seg)) :
    State × List (Nat × Nat × Bool) :=
  ls.foldl (fun x l =>
    let r := x.1.readSegs a sc pol l.2
    (r.1, x.2 ++ [(l.1, leNat r.2.1, r.2.2)])) (s, [])

/-- Images of a loaded value (R198). -/
def loadImgs (w : LdW) (v : Nat) (p : Bool) : List Image :=
  let x := match w with
    | .i8 => (toSigned 8 v % 2 ^ 32).toNat
    | .i16 => (toSigned 16 v % 2 ^ 32).toNat
    | _ => v
  plainImgs w.regs p x

/-- Specification of a read or a write of a width under a policy. -/
def specR (pol : Pol) (n : Nat) : AccessSpec := ⟨needR, pol == .ms, false, n⟩
def specW (pol : Pol) (n : Nat) : AccessSpec := ⟨needW, pol == .ms, false, n⟩

def actLd (x : MArgs) (w : LdW) (gid : Nat) (c : GCtx) (s : State) : Act :=
  match c.consume [(x.a, baseRegs x.ap)] c.ls with
  | some t => .trap s t
  | none =>
    memGo gid c s 1 (specR x.pol w.bytes) x.ap w.bytes c.ls (c.memOff x.a x.ap) fun ls s =>
      let sc := c.scopeOf x.ap x.scope
      ordered x.ord sc clR gid c s fun s =>
        let r := s.readLanes (s.accOf c.g 0) (perfScope x.ord sc) x.pol ls
        r.1.commit gid (Out.of (r.2.flatMap (fun v => c.wr x.d v.1 (loadImgs w v.2.1 v.2.2))))

/-- Memory format and carrier of `ldc` (R200). -/
def ldcFmt : LdcF → Nat × Fmt × FTy
  | .bf16 => (2, .bf16, .f32)
  | .f16 => (2, .f16, .f32)
  | .e4m3 => (1, .e4m3, .f32)
  | .e5m2 => (1, .e5m2, .f32)
  | .f64f32 => (4, .f32, .f64)

def actLdc (x : MArgs) (f : LdcF) (gid : Nat) (c : GCtx) (s : State) : Act :=
  let m := ldcFmt f
  match c.consume [(x.a, baseRegs x.ap)] c.ls with
  | some t => .trap s t
  | none =>
    memGo gid c s 1 (specR x.pol m.1) x.ap m.1 c.ls (c.memOff x.a x.ap) fun ls s =>
      let sc := c.scopeOf x.ap x.scope
      ordered x.ord sc clR gid c s fun s =>
        let r := s.readLanes (s.accOf c.g 0) (perfScope x.ord sc) x.pol ls
        let vals := r.2.map (fun v => (v.1, m.2.1.dec v.2.1, v.2.2))
        r.1.commit gid {
          w := vals.flatMap (fun v => c.wr x.d v.1 (carImgs m.2.2 v.2.2 [roundOdd (FTy.fmt m.2.2) v.2.1]))
          fl := vals.filterMap (fun v => if sigFlag [v.2.1] == 0 then none else some (v.1, sigFlag [v.2.1]))
          rng := [] }

-- Stores.

/-- Write each lane's bytes in ascending lane order. -/
def State.writeLanes (s : State) (a : Acc) (sc : Scope) (pol : Pol) (ls : List (Nat × List Seg)) (v : Nat → List Byte) :
    State :=
  ls.foldl (fun s l => s.writeSegs a sc pol l.2 (v l.1)) s

def actSt (x : MArgs) (w : LdW) (gid : Nat) (c : GCtx) (s : State) : Act :=
  match c.consume [(x.a, baseRegs x.ap), (x.d, w.regs)] c.ls with
  | some t => .trap s t
  | none =>
    memGo gid c s 2 (specW x.pol w.bytes) x.ap w.bytes c.ls (c.memOff x.a x.ap) fun ls s =>
      let sc := c.scopeOf x.ap x.scope
      ordered x.ord sc clW gid c s fun s =>
        s.writeLanes (s.accOf c.g 0) (perfScope x.ord sc) x.pol ls (fun l => leBytes w.bytes (c.data x.d l w.regs))

/-- Carrier, memory format and bytes of `stc` (R201). -/
def stcFmt : StcF → FTy × Fmt × Nat
  | .bf16 => (.f32, .bf16, 2)
  | .f16 => (.f32, .f16, 2)
  | .e4m3 => (.f32, .e4m3, 1)
  | .e5m2 => (.f32, .e5m2, 1)
  | .f32 => (.f32, .f32, 4)
  | .f64 => (.f64, .f64, 8)
  | .f32f64 => (.f64, .f32, 4)

def actStc (x : StcArgs) (gid : Nat) (c : GCtx) (s : State) : Act :=
  let m := stcFmt x.f
  match c.consume [(x.a, baseRegs x.ap), (x.b, x.f.regs)] c.ls with
  | some t => .trap s t
  | none =>
    memGo gid c s 2 (specW x.pol m.2.2) x.ap m.2.2 c.ls (c.memOff x.a x.ap) fun ls s =>
      let md := c.mode x.rm
      let fin (l : Nat) : FinR :=
        final m.2.1 md x.sat (srBits (c.rngOf l)) ((carOf c m.1 x.b l 0).ext (FTy.fmt m.1))
      let sc := c.scopeOf x.ap x.scope
      ordered (if x.rel then .rel else .rlx) sc clW gid c s fun s =>
        let s := s.writeLanes (s.accOf c.g 0) sc x.pol ls (fun l => leBytes m.2.2 (fin l).bits)
        s.commit gid {
          w := []
          fl := ls.filterMap (fun l => if (fin l.1).fl == 0 then none else some (l.1, (fin l.1).fl))
          rng := ls.filterMap (fun l => if (fin l.1).step then some (l.1, rngStep (c.rngOf l.1)) else none) }

-- Spill and fill (R202, R203).

/-- Where the bytes of lane `l` stand in a vector record: data, glaze, poison (R202). -/
def laneBytes (l : Nat) : List (Nat × Nat) := [(4 * l, 4), (0x80 + l, 1), (0xA0 + l, 1)]

/-- Lane `l` of a record is the virtual lane number, or the physical slot in a compacted group: the slot either
way. -/
def spillReg (c : GCtx) (s : State) (a : Acc) (pol : Pol) (r : Opnd) (k : Nat) (gs : List Seg) : State :=
  if c.k.u then
    let i := c.img r c.low k
    s.writeSegs a .grp pol gs (leBytes 4 i.d.toNat ++ [i.g, BitVec.ofNat 8 i.p.toNat, 0, 0])
  else (maskLanes c.act).foldl (fun s l =>
    let i := c.img r l k
    let vs : List (List Byte) := [leBytes 4 i.d.toNat, [i.g], [BitVec.ofNat 8 i.p.toNat]]
    ((laneBytes l).zip vs).foldl (fun s x => s.writeSegs a .grp pol (subSegs gs x.1.1 x.1.2) x.2) s) s

def fillReg (c : GCtx) (s : State) (gid : Nat) (a : Acc) (pol : Pol) (r : Opnd) (k : Nat) (gs : List Seg) : State :=
  let reg (l : Nat) (i : Image) : List RegW := match r with
    | .v n => [.v l (n.val + k) i]
    | .s n => [.s (n.val + k) i]
    | _ => []
  if c.k.u then
    let d := s.readSegs a .grp pol gs
    let b := d.2.1
    d.1.commit gid (Out.of (reg 0
      ⟨(b.getD 5 0).getLsbD 0 || d.2.2, b.getD 4 0, BitVec.ofNat 32 (leNat (b.take 4))⟩))
  else
    let r := (maskLanes c.act).foldl (fun (x : State × List RegW) l =>
      let rd := (laneBytes l).foldl (fun (y : State × List Byte × Bool) p =>
        let z := y.1.readSegs a .grp pol (subSegs gs p.1 p.2)
        (z.1, y.2.1 ++ z.2.1, y.2.2 || z.2.2)) (x.1, [], false)
      let b := rd.2.1
      (rd.1, x.2 ++ reg l ⟨(b.getD 5 0).getLsbD 0 || rd.2.2, b.getD 4 0, BitVec.ofNat 32 (leNat (b.take 4))⟩)) (s, [])
    r.1.commit gid (Out.of r.2)

/-- The registers of `spill` and `fill` from `%prog` on (R203): each is checked whole before its first byte moves,
and what stops the instruction leaves `%prog` at the register reached. `s0` is the state before the first. -/
def spillLoop (x : SpArgs) (isFill : Bool) (gid : Nat) (c : GCtx) (s0 : State) : Nat → Nat → State → Act
  | 0, _, s => .done s
  | f + 1, k, s =>
    if x.n1.toNat < k then .done s
    else if s.stepsTo c.g c.g.prog.toNat (x.n1.toNat + 1) == k then .wait (s.stopAt s0 gid k c.g) .step
    else
      let size := if c.k.u then 8 else 192
      let sp : AccessSpec := ⟨if isFill then needR else needW, x.pol == .ms, false, if c.k.u then 8 else 64⟩
      let off := if x.ap == 7 then (c.memOff x.a x.ap c.low + BitVec.ofNat 64 (size * k)) &&& 0xFFFFFFFF
        else c.memOff x.a x.ap c.low + BitVec.ofNat 64 (size * k)
      match s.chk c.g gid sp x.ap off size with
      | .ok gs es =>
        let held := if isFill then [] else s.hostLines gs
        if !held.isEmpty then .wait ((s.stopAt s0 gid k c.g).askHost held) .fence
        else if !s.reachAll c.g.core false gs then (s.stopAt s0 gid k c.g).hostWait
        else
          let s := s.tlbFills c.g.core es
          let a := s.accOf c.g 3
          let s := if isFill then fillReg c s gid a x.pol x.r k gs else spillReg c s a x.pol x.r k gs
          spillLoop x isFill gid c s0 f (k + 1) s
      | .tier o => chkFail gid c (s.stopAt s0 gid k c.g) (if isFill then 1 else 2) (.tier o)
      | b => chkFail gid c (s.withG gid (fun g => g.setProg k)) (if isFill then 1 else 2) b

def actSpill (x : SpArgs) (isFill : Bool) (gid : Nat) (c : GCtx) (s : State) : Act :=
  if !c.k.u && c.act == 0 then .done s
  else match c.consume [(x.a, baseRegs x.ap)] [c.low] with
    | some t => .trap s t
    | none => spillLoop x isFill gid c s 193 c.g.prog.toNat s

-- Atomics (R204-R207).

/-- Operations of the atomics. -/
inductive AtOp | xchg | add | and | or | xor | min | max | fadd | fmin | fmax
deriving DecidableEq, Repr

/-- Width in bits and signedness of a type (R204). -/
def atW : ATy → Nat
  | .u64 | .i64 | .f64 => 64
  | _ => 32
def atSigned : ATy → Bool
  | .i32 | .i64 => true
  | _ => false
def atFloat : ATy → FTy
  | .f64 => .f64
  | _ => .f32

/-- The new memory value (R204). `bx` is the extended value of the operand. -/
def atNew (op : AtOp) (ty : ATy) (old b : Nat) (bx : FV) : Nat :=
  let w := atW ty
  let f := FTy.fmt (atFloat ty)
  let le : Bool := if atSigned ty then toSigned w old ≤ toSigned w b else old ≤ b
  let fm (mx : Bool) : Nat := match MinMax.pick ⟨mx, false⟩ (f.dec old) bx with
    | some true => (final f .rne false 0 (f.dec old)).bits
    | some false => (final f .rne false 0 bx).bits
    | none => f.qnan
  match op with
  | .xchg => b
  | .add => (old + b) % 2 ^ w
  | .and => old &&& b
  | .or => old ||| b
  | .xor => old ^^^ b
  | .min => if le then old else b
  | .max => if le then b else old
  | .fadd => (final f .rne false 0 (sumFV false [f.dec old, bx]).1).bits
  | .fmin => fm false
  | .fmax => fm true

/-- The write of an atomic takes effect at its home and in the copy of its own die (R283), and goes to the other holders: it is
a write of that die (R289). -/
def State.atomStore (s : State) (home pa : Nat) (bs : List Byte) (key : Nat) (a : Acc) : State :=
  let b := addrBytes pa bs
  let m : Marks := .clear (coverUnits pa bs.length)
  if home == a.die then s.homeStore home b m key a
  else
    let line := pa / 256
    let s := (s.homeApply b m key true a).stamp a.die
    let p := s.updOf a.die line b m key a
    let s := s.updDie a.die (fun x => { x with guest := SMap.upd x.guest line (fun l => l.wrBytes b m false 0) })
    (s.updDie home (fun x => { x with clock := clkMax x.clock p.clock })).fanOut home (some a.die) p

/-- One read-modify-write of a stretch at its home (R204-R206, R289): the old value and poison, with the location left as it
is when it is poisoned. `q` is what a packet to a base die carries (R362). -/
def State.rmw (s : State) (a : Acc) (g : Seg) (q : ReqData) (f : Nat → Nat) : State × Nat × Bool :=
  if g.ts then
    let r := s.tsRead a.core g.pa g.len
    if r.2 then (s, leNat r.1, true)
    else (s.tsWrite a.core g.pa (leBytes g.len (f (leNat r.1))) false, leNat r.1, false)
  else match s.taskAt a g.pa with
  | some k =>
    let old := leNat (s.taskRead k.1 k.2 g.len)
    (s.taskWrite k.1 k.2 (leBytes g.len (f old)), old, false)
  | none =>
    match s.mod.place g.pa with
    | .hole =>
      let r := s.holeRead a g.pa g.len
      (r.1, leNat r.2.1, r.2.2)
    | p =>
      let line := g.pa / 256
      let key := if g.ms then 0 else g.key
      let s := if g.ms then s else (s.l1Out a (s.l1Core a g.pa) line).farWb a.die line true
      let s := s.meetAt a.die g.pa
      let s := match g.ms, p with
        | true, _ => s.msSend 3 g.pa g.len q a
        | false, .die _ => s.l2Use line (lineMask g.pa g.len) 0 true a
        | false, _ => (s.cxlMeter a.die a.ctx g.len).cxlRead a.die a.ctx
      let r := if g.ms then s.msGet g.pa g.len else s.homeRead g.pa g.len key
      let old := leNat r.2.1
      let bs := leBytes g.len (f old)
      let s := match r.2.2, g.ms, p with
        | true, _, _ => r.1
        | false, false, .die h => r.1.atomStore h g.pa bs key a
        | false, true, _ => r.1.msPut g.pa bs
        | false, _, _ => r.1.homeWrite g.pa bs key
      (s, old, r.2.2)

/-- Lanes of an atomic in ascending order (R196). -/
def State.rmwLanes (s : State) (a : Acc) (ls : List (Nat × List Seg)) (q : Nat → ReqData) (f : Nat → Nat → Nat) :
    State × List (Nat × Nat × Bool) :=
  ls.foldl (fun x l =>
    match l.2 with
    | g :: _ =>
      let r := x.1.rmw a g (q l.1) (f l.1)
      (r.1, x.2 ++ [(l.1, r.2)])
    | [] => x) (s, [])

/-- FN of an operation in the header of an ATOMIC (R362): that of `atms` (R207), and 8 to 12 for those that `atom` alone has
(log 81). -/
def AtOp.opc : AtOp → Nat
  | .add => 0 | .min => 1 | .max => 2 | .xchg => 3 | .fadd => 4 | .and => 8 | .or => 9 | .xor => 10 | .fmin => 11 | .fmax => 12

/-- The code of a type (R204). -/
def ATy.code : ATy → Nat
  | .u32 => 0 | .i32 => 1 | .u64 => 2 | .i64 => 3 | .f32 => 4 | .f64 => 5

/-- What an ATOMIC of a lane carries: its operation and operands (R362); where it is sent the place of its bytes in the line
stands for the lane. -/
def atReq (x : AtArgs) (fn : Nat) (c : GCtx) (l : Nat) : ReqData :=
  let w (o : Opnd) : DWord := BitVec.ofNat 64 (c.data o l x.ty.regs)
  ⟨fn + 16 * ATy.code x.ty, [(l, w x.b, w x.c)], [], 0, none⟩

/-- An atomic: operand checks, then the read-modify-writes in lane order. `withC` says that it has an operand c, `ms` that it
demands a memory-side page, `cls` its class, `fn` its code in a packet. -/
def actAtomic (x : AtArgs) (ms : Bool) (cls fn : Nat) (withC : Bool) (f : GCtx → Nat → Nat → Nat) (gid : Nat) (c : GCtx)
    (s : State) : Act :=
  let n := atW x.ty / 8
  let r := x.ty.regs
  match c.consume ([(x.a, baseRegs x.ap), (x.b, r)] ++ (if withC then [(x.c, r)] else [])) c.ls with
  | some t => .trap s t
  | none =>
    memGo gid c s 3 ⟨needRW, ms, false, n⟩ x.ap n c.ls (c.memOff x.a x.ap) fun ls s =>
      ordered x.ord (c.scopeOf x.ap x.scope) cls gid c s fun s =>
        let v := s.rmwLanes (s.accOf c.g 0) ls (atReq x fn c) (f c)
        v.1.commit gid (Out.of (v.2.flatMap (fun o => c.wr x.d o.1 (plainImgs r o.2.2 o.2.1))))

/-- New value of a lane of `atom` or `atms`. -/
def atLane (op : AtOp) (x : AtArgs) (c : GCtx) (l old : Nat) : Nat :=
  atNew op x.ty old (c.data x.b l x.ty.regs) ((carOf c (atFloat x.ty) x.b l 0).ext (FTy.fmt (atFloat x.ty)))

/-- New value of a lane of `cas` (R205). -/
def casLane (x : AtArgs) (c : GCtx) (l old : Nat) : Nat :=
  if old == c.data x.b l x.ty.regs then c.data x.c l x.ty.regs else old

def actAtom (op : AtOp) (x : AtArgs) : Nat → GCtx → State → Act := actAtomic x false clAT op.opc false (atLane op x)
def actCas (x : AtArgs) : Nat → GCtx → State → Act := actAtomic x false clAT 5 true (casLane x)
def actAtms (op : AtOp) (x : AtArgs) : Nat → GCtx → State → Act := actAtomic x true clMS op.opc false (atLane op x)
def actAtmsCas (x : AtArgs) : Nat → GCtx → State → Act := actAtomic x true clMS 5 true (casLane x)

/-- Register ranges of an atomic. -/
def ars (x : AtArgs) (withC : Bool) : List (Opnd × Nat) :=
  [(x.d, x.ty.regs), (x.a, baseRegs x.ap), (x.b, x.ty.regs)] ++ (if withC then [(x.c, x.ty.regs)] else [])

end Sys2Proof.Machine
end

