-- ==== Sys2Proof/Machine/Memory.lean ====
section
/-! DEFINITION. Loads, stores, atomics, memory-side commands and maintenance (07_isa_memory.md R191-R215), one meaning
for each instruction. -/

namespace Sys2Proof.Machine

-- R198 to R203: loads, stores, spill and fill

def mrs (x : MArgs) (n : Nat) : List (Opnd × Nat) := [(x.d, n), (x.a, baseRegs x.ap)]

def execLd (x : MArgs) (w : LdW) (s : State) : Res := issue (.ld x w) x.k (mrs x w.regs) (actLd x w) s
def execSt (x : MArgs) (w : LdW) (s : State) : Res := issue (.st x w) x.k (mrs x w.regs) (actSt x w) s
def execLdc (x : MArgs) (f : LdcF) (s : State) : Res :=
  issue (.ldc x f) x.k (mrs x (if f == .f64f32 then 2 else 1)) (actLdc x f) s
def execStc (x : StcArgs) (s : State) : Res :=
  issue (.stc x) x.k [(x.a, baseRegs x.ap), (x.b, x.f.regs)] (actStc x) s
def execSpill (x : SpArgs) (s : State) : Res :=
  issue (.spill x) x.k [(x.r, x.n1.toNat + 1), (x.a, baseRegs x.ap)] (actSpill x false) s
def execFill (x : SpArgs) (s : State) : Res :=
  issue (.fill x) x.k [(x.r, x.n1.toNat + 1), (x.a, baseRegs x.ap)] (actSpill x true) s

-- R204, R205, R207: atomics

def execAtomXchg (x : AtArgs) (s : State) : Res := issue (.atomXchg x) x.k (ars x false) (actAtom .xchg x) s
def execAtomAdd (x : AtArgs) (s : State) : Res := issue (.atomAdd x) x.k (ars x false) (actAtom .add x) s
def execAtomAnd (x : AtArgs) (s : State) : Res := issue (.atomAnd x) x.k (ars x false) (actAtom .and x) s
def execAtomOr (x : AtArgs) (s : State) : Res := issue (.atomOr x) x.k (ars x false) (actAtom .or x) s
def execAtomXor (x : AtArgs) (s : State) : Res := issue (.atomXor x) x.k (ars x false) (actAtom .xor x) s
def execAtomMin (x : AtArgs) (s : State) : Res := issue (.atomMin x) x.k (ars x false) (actAtom .min x) s
def execAtomMax (x : AtArgs) (s : State) : Res := issue (.atomMax x) x.k (ars x false) (actAtom .max x) s
def execAtomFadd (x : AtArgs) (s : State) : Res := issue (.atomFadd x) x.k (ars x false) (actAtom .fadd x) s
def execAtomFmin (x : AtArgs) (s : State) : Res := issue (.atomFmin x) x.k (ars x false) (actAtom .fmin x) s
def execAtomFmax (x : AtArgs) (s : State) : Res := issue (.atomFmax x) x.k (ars x false) (actAtom .fmax x) s
def execCas (x : AtArgs) (s : State) : Res := issue (.cas x) x.k (ars x true) (actCas x) s
def execAtmsAdd (x : AtArgs) (s : State) : Res := issue (.atmsAdd x) x.k (ars x false) (actAtms .add x) s
def execAtmsMin (x : AtArgs) (s : State) : Res := issue (.atmsMin x) x.k (ars x false) (actAtms .min x) s
def execAtmsMax (x : AtArgs) (s : State) : Res := issue (.atmsMax x) x.k (ars x false) (actAtms .max x) s
def execAtmsXchg (x : AtArgs) (s : State) : Res := issue (.atmsXchg x) x.k (ars x false) (actAtms .xchg x) s
def execAtmsFadd (x : AtArgs) (s : State) : Res := issue (.atmsFadd x) x.k (ars x false) (actAtms .fadd x) s
def execAtmsCas (x : AtArgs) (s : State) : Res := issue (.atmsCas x) x.k (ars x true) (actAtmsCas x) s

-- R208, R209: memory-side reduces

/-- The offset of the row of a lane (R208). -/
def mredOff (x : MredArgs) (c : GCtx) (l : Nat) : DWord :=
  BitVec.ofNat 64 (c.data x.b c.low 2 + c.data x.a l 1 * x.k.imm.toNat)

/-- Check the destination of a reduce: a memory-side line, or a block of the team store (R208). -/
def mredDst (x : MredArgs) (ret : Bool) (gid : Nat) (c : GCtx) (s : State) : Chk :=
  if ret then s.chk c.g gid ⟨needRW, false, false, 256⟩ 7 (BitVec.ofNat 64 (c.data x.c c.low 1)) 256
  else s.chk c.g gid ⟨needRW, true, false, 256⟩ x.ap (BitVec.ofNat 64 (c.data x.c c.low 2)) 256

/-- Lanes of packet `j` in `Active(g)`, physical slots in a compacted group (log 108). -/
def mredLanes (c : GCtx) (j : Nat) : List Nat := (maskLanes c.act).filter (fun l => l / 8 == j)

/-- The packets from `j` on that pass their checks, and the index and failure of the first that does not (R209): poisoned
operands first, then the destination and the rows (R195, log 103). -/
def mredPkts (x : MredArgs) (ret : Bool) (gid : Nat) (c : GCtx) (s : State) : Nat → Nat →
    List MredPkt × List TlbE × Option (Nat × Chk)
  | 0, _ => ([], [], none)
  | f + 1, j =>
    let ls := mredLanes c j
    let rest := mredPkts x ret gid c s f (j + 1)
    if ls.isEmpty then rest
    else match c.consume [(x.a, 1), (x.b, 2), (x.c, if ret then 1 else 2)] ls with
    | some t => ([], [], some (j, .bad 2 t none))
    | none =>
      let rows := ls.map (fun l => (l, s.chk c.g gid ⟨needR, true, false, 256⟩ x.ap (mredOff x c l) 256))
      match chkLanes (mredDst x ret gid c s :: rows.map (fun r => r.2)) with
      | .ok _ es =>
        let p : MredPkt := ⟨rows.map (fun r => (r.1, (r.2.segs.head?.map (fun g => g.pa)).getD 0)), false⟩
        (p :: rest.1, es ++ rest.2.1, rest.2.2)
      | b => ([], [], some (j, b))

/-- A token that an instruction names is pending (R30). -/
def Group.tokPending (g : Group) (t : Option (BitVec 4)) : Bool :=
  match t with
  | some n => (g.toks.getD n.toNat Tok.init).st == .pending
  | none => false

/-- A token becomes pending for an operation (R30). -/
def Group.startTok (g : Group) (t : Option (BitVec 4)) (e : Eng) (op : Nat) : Group :=
  match t with
  | some n => { g with toks := setAt g.toks n.toNat ⟨.pending, 0, e, op, none⟩ }
  | none => g

/-- A token completes at once (R209, R242). -/
def Group.endTok (g : Group) (t : Option (BitVec 4)) (e : Eng) (op : Nat) (status : Byte) : Group :=
  match t with
  | some n => { g with toks := setAt g.toks n.toNat ⟨.complete, status, e, op, none⟩ }
  | none => g

/-- The operation that an instruction reissued in its middle goes on with (R203, R209, R245): one that an instruction left
part-way, that of its token, or the group's latest that names no token and passes the test. -/
def State.reissued (s : State) (gid : Nat) (g : Group) (t : Option (BitVec 4)) (sel : AOp → Bool) : Option Nat :=
  match t with
  | some n =>
    let k := g.toks.getD n.toNat Tok.init
    match SMap.get? s.aops k.op with
    | some o => if k.st == .pending && !o.ran && o.part && sel o then some k.op else none
    | none => none
  | none => (s.aops.filter (fun e => e.2.mine (g.ids gid) && e.2.tok.isNone && !e.2.ran && e.2.part && sel e.2)).getLast?.map (fun e => e.1)

/-- The kind of a reduce with packets. -/
def mredKind (x : MredArgs) (ret : Bool) (dst : Nat) (ps : List MredPkt) : AKind :=
  if ret then .mredRet x.ty dst ps else .mredLine x.ty dst ps

def AOp.isMred (o : AOp) (ret : Bool) (dst : Nat) : Bool :=
  match o.kind with
  | .mredLine _ d _ => !ret && d == dst
  | .mredRet _ d _ => ret && d == dst
  | .copy .. => false

/-- Packets of a reduce. -/
def AKind.pkts : AKind → List MredPkt
  | .mredLine _ _ ps | .mredRet _ _ ps => ps
  | .copy .. => []

/-- Packets leave (R209): they join the operation that an earlier issue of this instruction began, or begin one. Where an
earlier issue sent packets and its operation has ended, a packet already applied stands for those: `.ret` then goes on
from their sum. `whole` says that the last packet is sent. -/
def mredSend (x : MredArgs) (ret whole : Bool) (gid : Nat) (c : GCtx) (s : State) (ps : List MredPkt) : State :=
  let dst := ((mredDst x ret gid c s).segs.head?.map (fun g => g.pa)).getD 0
  let fresh (l : List MredPkt) : State :=
    (s.newOp gid c.g x.tok (mredKind x ret dst l) (!whole)).withG gid (fun g => g.startTok x.tok .mred s.nid)
  let j0 := c.g.prog.toNat
  match if j0 == 0 then none else s.reissued gid c.g x.tok (fun o => o.isMred ret dst) with
  | some op =>
    { s with aops := SMap.upd s.aops op (fun (o : AOp) =>
        { o with kind := mredKind x ret dst (o.kind.pkts ++ ps), part := !whole }) }
  | none =>
    if ps.isEmpty then s
    else fresh (if (List.range j0).all (fun j => (mredLanes c j).isEmpty) then ps else ⟨[], true⟩ :: ps)

def actMred (x : MredArgs) (ret : Bool) (gid : Nat) (c : GCtx) (s : State) : Act :=
  let j0 := c.g.prog.toNat
  if j0 == 0 && c.g.tokPending x.tok then .wait s (.token ((x.tok.map (fun t => t.toNat)).getD 0))
  else if c.act == 0 then .done (s.withG gid (fun g => g.endTok x.tok .mred 0 stOk))
  else
    let m := s.stepsTo c.g j0 4
    let p := mredPkts x ret gid c s (m - j0) j0
    let whole := m == 4 && p.2.2.isNone
    let t := (mredSend x ret whole gid c s p.1).tlbFills c.g.core p.2.1
    match p.2.2 with
    | none => if m < 4 then .wait (t.stopAt s gid m c.g) .step else .done t
    | some (j, .tier o) => chkFail gid c (t.stopAt s gid j c.g) 1 (.tier o)
    | some (j, b) => chkFail gid c (t.withG gid (fun g => g.setProg j)) 1 b

def mrrs (x : MredArgs) (n : Nat) : List (Opnd × Nat) := [(x.a, 1), (x.b, 2), (x.c, n)]

def execMredLine (x : MredArgs) (s : State) : Res := issue (.mredLine x) x.k (mrrs x 2) (actMred x false) s
def execMredRet (x : MredArgs) (s : State) : Res := issue (.mredRet x) x.k (mrrs x 1) (actMred x true) s

/-- What a packet of a reduce reads and writes at base dies. -/
def AOp.mredSegs (o : AOp) (idx : Nat) : List Seg :=
  let seg (pa : Nat) : Seg := ⟨false, pa, true, 0, 256⟩
  ((o.kind.pkts.getD idx ⟨[], true⟩).rows.map (fun r => seg r.2)) ++
    (match o.kind with | .mredLine _ dst _ => [seg dst] | _ => [])

/-- MRED_PACKET_APPLY (R208, R209): a packet is applied, and an operation whose packets all are completes in issue order
within the group (R292). -/
def evMredPacketApply (op idx : Nat) (s : State) : State :=
  match SMap.get? s.aops op with
  | some o =>
    if !s.reachAll o.core true (o.mredSegs idx) then s.askHost s.heldUpd
    else (s.mredStep op idx false).sweepTeam o.team
  | none => s

def execMredPacketApply (op idx : Nat) (s : State) : Res := .next (evMredPacketApply op idx s)

-- R210, R211: prefetch and maintenance

/-- The stretches of the lanes whose check passes, off memory-side pages and the team store (R210). -/
def plainSegs (cs : List Chk) : List Seg := (cs.flatMap (fun c => c.segs)).filter (fun g => !g.ts && !g.ms)

/-- A fill of a level with the 256-byte line of an address (R210). -/
def State.fillLevel (s : State) (a : Acc) (pol : Pol) (lvl : CLvl) (g : Seg) : State :=
  let pa := g.pa / 256 * 256
  match lvl with
  | .l1 | .all => (s.readSeg a .grp pol { g with pa := pa, len := 256 }).1
  | .l2 => (s.l2Read a false pa 256 g.key).1
  | .msc => match s.mod.place pa with | .die _ => s.mscReq pa 0xFF 0 a | _ => s

def actPf (x : LnArgs) (lvl : CLvl) (gid : Nat) (c : GCtx) (s : State) : Act :=
  let ls := c.ls.filter (fun l => !c.pois x.a l (baseRegs x.ap))
  let gs := plainSegs (ls.map (fun l => s.chk c.g gid ⟨needR, x.pol == .ms, false, 1⟩ x.ap (c.memOff x.a x.ap l) 1))
  .done ((gs.filter (fun g => s.reach (c.g.core / 128) false g)).foldl (fun s g => s.fillLevel (s.accOf c.g 0) x.pol lvl g) s)

/-- Levels that a level code names, and those it and the levels above it name (R211). -/
def lvlNames (l m : CLvl) : Bool := l == m || l == .all
def lvlCovers : CLvl → CLvl → Bool
  | .l1, m => m == .l1
  | .l2, m => m == .l1 || m == .l2
  | _, _ => true

/-- `cmnt.wb` and `cmnt.inv` on one line (R211). -/
def State.maintain (s : State) (a : Acc) (lvl : CLvl) (inv : Bool) (g : Seg) : State :=
  let line := g.pa / 256
  let c := s.l1Core a g.pa
  let s := if inv && lvlNames lvl .l1 then s.l1Out a c line else s.l1Send a c line allBytes
  let s := if !lvlCovers lvl .l2 then s else
    let drop := inv && lvlNames lvl .l2
    match s.mod.place g.pa with
    | .die h =>
      if h == a.die then (if drop then s.guestsOut h line else s).l2Wb g.pa drop
      else if drop then s.guestDrop a.die line else s
    | .cxl .. => s.farWb a.die line drop
    | .hole => s
  if !lvlCovers lvl .msc then s
  else match s.mod.place g.pa with
    | .die h => match (s.die h).msc.find? (fun e => e.2.line == line) with
      | some e =>
        if inv && lvlNames lvl .msc then s.mscEvict h e.1
        else (s.mscOut h e.2).updDie h (fun d => { d with
          msc := SMap.put d.msc e.1 { e.2 with wr := 0, p := maskSub e.2.p e.2.wr } })
      | none => s
    | _ => s

/-- A `cmnt` (R211): every lane is checked for read access, then the effect on each line. -/
def actCmnt (x : LnArgs) (f : State → Acc → Seg → State) (gid : Nat) (c : GCtx) (s : State) : Act :=
  match c.consume [(x.a, baseRegs x.ap)] c.ls with
  | some t => .trap s t
  | none =>
    memGo gid c s 1 ⟨needR, false, false, 1⟩ x.ap 1 c.ls (c.memOff x.a x.ap) fun ls s =>
      .done ((ls.flatMap (fun l => l.2.filter (fun g => !g.ts && !g.ms))).foldl (fun s g => f s (s.accOf c.g 0) g) s)

/-- The core's fetched copies of a line are dropped (R211). -/
def State.icDrop (s : State) (a : Acc) (g : Seg) : State :=
  s.updCore a.core (fun c => { c with ic := c.ic.filter (fun e => e.1 / 8 != g.pa / 256) })

def lnrs (x : LnArgs) : List (Opnd × Nat) := [(x.a, baseRegs x.ap)]

def execPfL1 (x : LnArgs) (s : State) : Res := issue (.pfL1 x) x.k (lnrs x) (actPf x .l1) s
def execPfL2 (x : LnArgs) (s : State) : Res := issue (.pfL2 x) x.k (lnrs x) (actPf x .l2) s
def execPfMsc (x : LnArgs) (s : State) : Res := issue (.pfMsc x) x.k (lnrs x) (actPf x .msc) s
def execCmntWb (x : LnArgs) (s : State) : Res :=
  issue (.cmntWb x) x.k (lnrs x) (actCmnt x (fun s a g => s.maintain a x.lvl false g)) s
def execCmntInv (x : LnArgs) (s : State) : Res :=
  issue (.cmntInv x) x.k (lnrs x) (actCmnt x (fun s a g => s.maintain a x.lvl true g)) s
def execCmntIc (x : LnArgs) (s : State) : Res := issue (.cmntIc x) x.k (lnrs x) (actCmnt x State.icDrop) s

-- R214: fences

def actFnc (scope : Scope) (pred succ : Byte) (gid : Nat) (c : GCtx) (s : State) : Act :=
  if c.act == 0 || pred == 0 || succ == 0 then .done s
  else if !s.fenceReady gid c.g (c.scopeOf 0 scope) pred then .wait s .fence
  else
    let t := s.fence c.g (c.scopeOf 0 scope) pred succ
    if t.fenceSent c.g scope pred then .done t else t.hostWait

def execFnc (k : Com) (scope : Scope) (pred succ : Byte) (s : State) : Res :=
  issue (.fnc k scope pred succ) k [] (actFnc scope pred succ) s

end Sys2Proof.Machine
end

