-- ==== Sys2Proof/Machine/Async.lean ====
section
/-! DEFINITION. Copies, tokens and event records (09_isa_async_sync_system.md R241-R249), one meaning for each
instruction. -/

namespace Sys2Proof.Machine

-- R243 to R245: acpy

/-- Registers of a geometry block that a copy of `dims` + 1 dimensions reads (R243). -/
def geomRegs (dims : Nat) : Nat := if dims == 0 then 1 else if dims == 1 then 4 else 6

/-- The geometry of a copy (R243, R244). -/
structure Geom where
  x : Nat
  y : Nat
  z : Nat
  srow : Nat
  drow : Nat
  splane : Nat
  dplane : Nat

def geomOf (c : GCtx) (x : AcpyArgs) : Geom :=
  let r (i : Nat) : Nat := (c.img x.c c.low i).d.toNat
  let d := x.dims.val
  { x := r 0 % 2 ^ 17
    y := if d == 0 then 1 else r 1 % 2 ^ 16
    z := if d < 2 then 1 else r 1 / 2 ^ 16
    srow := if d == 0 then 0 else r 2
    drow := if d == 0 then 0 else r 3
    splane := if d < 2 then 0 else r 4
    dplane := if d < 2 then 0 else r 5 }

/-- Base of a side: a pair, or one register for the team store. -/
def sideBase (c : GCtx) (o : Opnd) (ap : BitVec 3) : Nat := c.data o c.low (baseRegs ap)

/-- Address of a side at a distance from its base (R43, R46). -/
def sideAt (ap : BitVec 3) (base off : Nat) : DWord :=
  if ap == 7 then BitVec.ofNat 64 ((base + off) % 2 ^ 32) else BitVec.ofNat 64 (base + off)

/-- Alignment of a side (R244), with its base. -/
def sideTrap (g : Group) (ap : BitVec 3) (base : Nat) : Trap :=
  ⟨6, BitVec.ofNat 64 base, if ap == 7 then 0xFFFF else g.aper ap⟩

/-- Geometry alignment of a copy: the source side is reported first (R244). -/
def geomTrap (c : GCtx) (x : AcpyArgs) (q : Geom) : Option Trap :=
  let sb := sideBase c x.b x.sap
  let db := sideBase c x.a x.dap
  if [sb, q.srow, q.splane, q.x].any (fun v => v % 4 != 0) then some (sideTrap c.g x.sap sb)
  else if [db, q.drow, q.dplane].any (fun v => v % 4 != 0) then some (sideTrap c.g x.dap db)
  else none

/-- Check row `k` of a copy (R245): the source, then the destination (log 116). -/
def rowChk (x : AcpyArgs) (q : Geom) (gid : Nat) (c : GCtx) (s : State) (k : Nat) : Chk × Chk :=
  let y := k % q.y
  let z := k / q.y
  (s.chk c.g gid ⟨needR, false, true, 4⟩ x.sap (sideAt x.sap (sideBase c x.b x.sap) (z * q.splane + y * q.srow)) q.x,
   s.chk c.g gid ⟨needW, false, true, 4⟩ x.dap (sideAt x.dap (sideBase c x.a x.dap) (z * q.dplane + y * q.drow)) q.x)

/-- What stops a long instruction at a step: a failed check, or lines that a host holds. -/
inductive StepStop
  | bad (b : Chk)
  | held (ls : List Nat)

/-- The rows from `k` on that may be posted, and what stops the first that may not. -/
def copyRows (x : AcpyArgs) (q : Geom) (gid : Nat) (c : GCtx) (s : State) : Nat → Nat →
    List CopyRow × List TlbE × Option (Nat × StepStop)
  | 0, _ => ([], [], none)
  | f + 1, k =>
    let r := rowChk x q gid c s k
    match chkLanes [r.1, r.2] with
    | .ok _ es =>
      let held := s.hostLines r.2.segs
      if !held.isEmpty then ([], [], some (k, .held held))
      else
        let rest := copyRows x q gid c s f (k + 1)
        (⟨r.1.segs, r.2.segs⟩ :: rest.1, es ++ rest.2.1, rest.2.2)
    | b => ([], [], some (k, .bad b))

/-- EV and TAG (R243). -/
def acpyEv (k : Com) : Option Nat := if k.ext.getLsbD 0 then some (k.ext.toNat / 256 % 256) else none

/-- Rows of a copy. -/
def AKind.rows : AKind → List CopyRow
  | .copy rs _ => rs
  | _ => []

/-- The record that the completion of a group's copy posts (R249). -/
def copyRec (c : GCtx) (s : State) (tag : Nat) : EvRec :=
  let lin := (SMap.get? s.teams c.g.team).elim 0 (fun t => t.lin)
  ⟨tag, c.g.ctx / 256, 2, 0, s.qslotOf c.g.team (c.g.core / 128), c.g.core % 128, c.g.id.grp, lin % 2 ^ 32, 0⟩

/-- Post rows: they join the operation that an earlier issue of this instruction began, or begin one. `whole` says that
the last row is posted. -/
def copySend (tok : Option (BitVec 4)) (whole : Bool) (gid : Nat) (c : GCtx) (s : State) (rows : List CopyRow)
    (ev : Option EvRec) : State :=
  match if c.g.prog == 0 then none else s.reissued gid c.g tok AOp.isCopy with
  | some op =>
    { s with aops := SMap.upd s.aops op (fun (o : AOp) => { o with kind := .copy (o.kind.rows ++ rows) ev, part := !whole }) }
  | none => (s.newOp gid c.g tok (.copy rows ev) (!whole)).withG gid (fun g => g.startTok tok .copy s.nid)

/-- A copy that moves nothing completes at issue (R244). -/
def copyNone (tok : Option (BitVec 4)) (gid : Nat) (c : GCtx) (s : State) (ev : Option EvRec) : State :=
  let s := s.withG gid (fun g => g.endTok tok .copy 0 stOk)
  match ev with
  | some r => s.evPost (c.g.core / 4) r
  | none => s

/-- Wait for a pending token (R30). -/
def tokWait (t : Option (BitVec 4)) : Wait := .token ((t.map (fun t => t.toNat)).getD 0)

def actAcpy (x : AcpyArgs) (gid : Nat) (c : GCtx) (s : State) : Act :=
  if c.g.prog == 0 && c.g.tokPending x.tok then .wait s (tokWait x.tok)
  else match c.consume [(x.a, baseRegs x.dap), (x.b, baseRegs x.sap), (x.c, geomRegs x.dims.val)] [c.low] with
    | some t => .trap s t
    | none =>
      let q := geomOf c x
      match geomTrap c x q with
      | some t => .trap s t
      | none =>
        let n := if q.x == 0 then 0 else q.y * q.z
        let k0 := c.g.prog.toNat
        let ev := (acpyEv x.k).map (copyRec c s)
        if n == 0 then
          if ev.isSome && evqMax ≤ (s.cluster (c.g.core / 4)).evq.length then .wait s .evq
          else .done (copyNone x.tok gid c s ev)
        else if n ≤ k0 then .done s
        else
          let m := s.stepsTo c.g k0 n
          let r := copyRows x q gid c s (m - k0) k0
          let whole := m == n && r.2.2.isNone
          let sent := if r.1.isEmpty then s
            else (copySend x.tok whole gid c s r.1 (if whole then ev else none)).tlbFills c.g.core r.2.1
          match r.2.2 with
          | none => if m < n then .wait (sent.stopAt s gid m c.g) .step else .done sent
          | some (k, b) =>
            let t := sent.stopAt s gid k c.g
            match b with
            | .bad (.tier o) => chkFail gid c t 2 (.tier o)
            | .bad b => chkFail gid c (sent.withG gid (fun g => g.setProg k)) 2 b
            | .held ls => .wait (t.askHost ls) .fence

def execAcpy (x : AcpyArgs) (s : State) : Res :=
  issue (.acpy x) x.k [(x.a, baseRegs x.dap), (x.b, baseRegs x.sap), (x.c, geomRegs x.dims.val)] (actAcpy x) s

-- R246: agth and asct

/-- Row and block of a lane: offset in the table, address in the team store (R246). -/
def gthRow (x : GthArgs) (c : GCtx) (l : Nat) : DWord :=
  BitVec.ofNat 64 (c.data x.b l 2 + c.data x.c l 1 * x.k.imm.toNat)
def gthBlk (x : GthArgs) (c : GCtx) (l : Nat) : DWord :=
  BitVec.ofNat 64 ((c.data x.a l 1 + l * x.k.imm.toNat) % 2 ^ 32)

/-- A gather or a scatter: with no lane in `Active(g)` it has no effect. Of a lane the row is checked before the block
(log 116). -/
def actGth (x : GthArgs) (scatter : Bool) (gid : Nat) (c : GCtx) (s : State) : Act :=
  if c.act == 0 then .done s
  else if c.g.tokPending x.tok then .wait s (tokWait x.tok)
  else match c.consume [(x.a, 1), (x.b, 2), (x.c, 1)] (maskLanes c.act) with
    | some t => .trap s t
    | none =>
      let n := x.k.imm.toNat
      let cs := (maskLanes c.act).map (fun l =>
        (s.chk c.g gid ⟨if scatter then needW else needR, false, false, 4⟩ x.ap (gthRow x c l) n,
         s.chk c.g gid ⟨if scatter then needR else needW, false, false, 4⟩ 7 (gthBlk x c l) n))
      match chkLanes (cs.map (fun p => chkLanes [p.1, p.2])) with
      | .ok gs es =>
        let held := if scatter then s.hostLines gs else []
        if !held.isEmpty then .wait (s.askHost held) .fence
        else
          let rows := cs.map (fun p => if scatter then ⟨p.2.segs, p.1.segs⟩ else (⟨p.1.segs, p.2.segs⟩ : CopyRow))
          .done ((copySend x.tok true gid { c with g := { c.g with prog := 0 } } s rows none).tlbFills c.g.core es)
      | b => chkFail gid c s (if scatter then 2 else 1) b

def gthRs (x : GthArgs) : List (Opnd × Nat) := [(x.a, 1), (x.b, 2), (x.c, 1)]

def execAgth (x : GthArgs) (s : State) : Res := issue (.agth x) x.k (gthRs x) (actGth x false) s
def execAsct (x : GthArgs) (s : State) : Res := issue (.asct x) x.k (gthRs x) (actGth x true) s

/-- Stretches of an operation in global memory. -/
def AKind.segs (k : AKind) : List Seg := k.rows.flatMap (fun r => r.src ++ r.dst)

/-- COPY_COMPLETE (R242, R244): the copy is performed; it completes in issue order within the group (R292), and with room for
its event record (R249). -/
def evCopyComplete (op : Nat) (s : State) : State :=
  match SMap.get? s.aops op with
  | some o =>
    if !o.ran && !s.reachAll o.core false o.kind.segs then s.askHost s.heldUpd
    else (s.copyStep op false).sweepTeam o.team
  | none => s

def execCopyComplete (op : Nat) (s : State) : Res := .next (evCopyComplete op s)

-- R247, R248: waiting and testing

/-- Tokens named in a mask, in order. -/
def namedToks (m : Nat) : List Nat := (List.range 16).filter (fun k => m.testBit k)

def Group.tok (g : Group) (k : Nat) : Tok := g.toks.getD k Tok.init

/-- Tokens of a list that are not pending. -/
def Group.ready (g : Group) (ks : List Nat) : List Nat := ks.filter (fun k => (g.tok k).st != .pending)

/-- The scope at which a completed token orders its operation's accesses (R292, R296): the die, or the scope named in `susp`
for a token that a resumed object listed. -/
def Tok.scope (k : Tok) : Scope := k.sc.getD .die

/-- A group finds tokens complete: what their operations accessed is ordered before what follows (R292, R296). -/
def State.tokTake (s : State) (g : Group) (ks : List Tok) : State := ks.foldl (fun s k => s.handOff g k.scope) s
def State.tokTook (s : State) (g : Group) (ks : List Tok) : Bool := ks.all (fun k => s.handedOff g k.scope)

/-- Complete tokens of a list become free (R247). -/
def Group.freeToks (g : Group) (ks : List Nat) : Group :=
  { g with toks := ks.foldl (fun ts k =>
      if (g.tok k).st == .complete then setAt ts k Tok.init else ts) g.toks }

def maskNum (ks : List Nat) : Nat := (ks.map (fun k => 2 ^ k)).foldl (· + ·) 0

def actTkw (any clr : Bool) (d a : Opnd) (gid : Nat) (c : GCtx) (s : State) : Act :=
  match c.consume [(a, 1)] [c.low] with
  | some t => .trap s t
  | none =>
    let ks := namedToks (c.data a c.low 1)
    let r := c.g.ready ks
    if ks.isEmpty || r.length == ks.length || (any && !r.isEmpty) then
      let done := (r.map c.g.tok).filter (fun k => k.st == .complete)
      let s := s.tokTake c.g done
      if !s.tokTook c.g done then .wait (s.askHost s.heldUpd) .tkw
      else
      let s := if clr then s.withG gid (fun g => g.freeToks r) else s
      .done (if any then s.commit gid (Out.of (c.wr d c.low (plainImgs 1 false (maskNum r)))) else s)
    else .wait s .tkw

def execTkwAll (k : Com) (clr : Bool) (a : Opnd) (s : State) : Res :=
  issue (.tkwAll k clr a) k [(a, 1)] (actTkw false clr .none a) s
def execTkwAny (k : Com) (clr : Bool) (d a : Opnd) (s : State) : Res :=
  issue (.tkwAny k clr d a) k [(d, 1), (a, 1)] (actTkw true clr d a) s

/-- A test of a token: where it is complete, what follows is ordered after its operation. -/
def tokTest (k : Tok) (act : Bool) (gid : Nat) (c : GCtx) (s : State) (o : Out) : Act :=
  let ks := if act && k.st == .complete then [k] else []
  let s := s.tokTake c.g ks
  if s.tokTook c.g ks then .done (s.commit gid o) else s.hostWait

/-- `tkt` and `tkt.err`: a predicate from a token. -/
def actTkt (pD : BitVec 3) (t : BitVec 4) (f : Tok → Bool) (gid : Nat) (c : GCtx) (s : State) : Act :=
  let k := c.g.tok t.toNat
  tokTest k (c.act != 0) gid c s (Out.of (c.ls.flatMap (fun l => c.wrP pD l (f k))))

/-- The word of `tkt.st` (R248). -/
def tokWord (k : Tok) : Nat :=
  match k.st with
  | .free => 0
  | .pending => 256
  | .complete => 512 + k.status.toNat

def actTktSt (d : Opnd) (t : BitVec 4) (gid : Nat) (c : GCtx) (s : State) : Act :=
  let k := c.g.tok t.toNat
  tokTest k true gid c s (Out.of (c.wr d c.low (plainImgs 1 false (tokWord k))))

def execTkt (k : Com) (pD : BitVec 3) (t : BitVec 4) (s : State) : Res :=
  issue (.tkt k pD t) k [] (actTkt pD t (fun k => k.st != .pending)) s
def execTktErr (k : Com) (pD : BitVec 3) (t : BitVec 4) (s : State) : Res :=
  issue (.tktErr k pD t) k [] (actTkt pD t (fun k => k.st == .complete && k.status != stOk)) s
def execTktSt (k : Com) (d : Opnd) (t : BitVec 4) (s : State) : Res :=
  issue (.tktSt k d t) k [(d, 1)] (actTktSt d t) s

-- R249: event records

/-- Every copy and easel operation of the group is complete. -/
def State.enginesIdle (s : State) (gid : Nat) (g : Group) : Bool :=
  let ids := g.ids gid
  s.aops.all (fun e => !e.2.mine ids || !e.2.isCopy) &&
    (s.cluster (g.core / 4)).ops.all (fun o => !o.mine ids)

/-- A release of R, W, AT and MS at a scope, with the engines' under ENG (R249, R256): what must be awaited. -/
def State.released (s : State) (gid : Nat) (g : Group) (sc : Scope) (eng : Bool) : Bool :=
  s.fenceReady gid g sc ordSet && (!eng || s.enginesIdle gid g)

/-- A release is made, then what follows it: it waits, as `w`, for what it awaits, and for its writes to be performed at the
scope (R249, R256, R284). -/
def releaseThen (sc : Scope) (eng : Bool) (w : Wait) (gid : Nat) (c : GCtx) (s : State) (k : State → Act) : Act :=
  if !s.released gid c.g sc eng then .wait s w
  else
    let t := s.fence c.g sc ordSet 0
    if t.fenceSent c.g sc ordSet then k t else .wait (t.askHost t.heldUpd) w

def actEvq (eng : Bool) (a : Opnd) (gid : Nat) (c : GCtx) (s : State) : Act :=
  match c.consume [(a, 1)] [c.low] with
  | some t => .trap s t
  | none =>
    let cl := c.g.core / 4
    if evqMax ≤ (s.cluster cl).evq.length then .wait s .evq
    else releaseThen .mod eng .evq gid c s fun s =>
      let lin := (SMap.get? s.teams c.g.team).elim 0 (fun t => t.lin)
      .done (s.evPost cl ⟨c.k.imm.toNat % 65536, c.g.ctx / 256, 1, BitVec.ofNat 32 (c.data a c.low 1),
        s.qslotOf c.g.team (c.g.core / 128), c.g.core % 128, c.g.id.grp, lin % 2 ^ 32, 0⟩)

def execEvq (k : Com) (eng : Bool) (a : Opnd) (s : State) : Res :=
  issue (.evq k eng a) k [(a, 1)] (actEvq eng a) s

/-- A held grid counts a record taken by the loupe of a cluster (R409): it moves on at WAITCNT once it is HELD. -/
def Grid.counts (g : Grid) (cl : Nat) (r : EvRec) : Bool :=
  g.lr.flags.testBit 2 && g.recv * 32 + g.lr.wcl % 32 == cl && g.lr.waittag == r.tag && g.vd == r.vd && g.accepted < r.stamp &&
    g.parts.any (fun p => p.st == .queued || p.st == .held)

/-- HELD parts whose records are all counted dispatch; one with nothing to dispatch is RUNNING (R392). -/
def Grid.unhold (g : Grid) : Grid :=
  if g.heldSeen < g.lr.waitcnt then g
  else { g with parts := g.parts.map (fun (p : Part) => if p.st == .held then { p with st := if p.ranges.isEmpty then .running else .dispatching } else p) }

/-- EVENT_RECORD_TAKE (R249, R409). -/
def evEventRecordTake (cl : Nat) (s : State) : State :=
  match (s.cluster cl).evq with
  | [] => s
  | r :: rest =>
    let s := s.updCluster cl (fun c => { c with evq := rest })
    { s with grids := SMap.mapV (fun (g : Grid) =>
        if g.counts cl r then ({ g with heldSeen := g.heldSeen + 1 } : Grid).unhold else g) s.grids }

def execEventRecordTake (cl : Nat) (s : State) : Res := .next (evEventRecordTake cl s)

end Sys2Proof.Machine
end

