-- ==== Sys2Proof/Machine/Fetch.lean ====
section
/-! DEFINITION. Instruction fetch (01 R47, 03 R79-R84, R99, 11 R303): a block of 32 bytes through the code aperture,
and the instruction that its words hold. -/

namespace Sys2Proof.Machine

/-- What a fetch gives: the words from the address to the end of its block, a trap with the IPA of a stage-2 failure, or
a tier object to wait for. -/
inductive Fetched
  | ok (ws : List Word)
  | bad (t : Trap) (s2 : Option Nat)
  | tier (obj : Nat)

/-- `%tval` of a poisoned code block (R302, R303). -/
def fetchPoison : Trap := ⟨7, 0xC000000000000800, 0⟩

/-- The words of a code block as a fetch may deliver them: each the held or the new one, as a free value picks (R99). -/
def mixWords (n : Nat) (old new : List Word) : List Word :=
  (old.zip new).zipIdx.map (fun x => if (Config.freeNat n).testBit x.2 then x.1.2 else x.1.1)

/-- The code block of a physical address as a core holds it: the copy fetched before, each word of which may give way to what
memory now holds, else the bytes at the die's L2 (R99). A core keeps every block that it fetched until `cmnt.ic`: DESIGN
CHOICE, log 82. The reliability record of a poisoned unit is written at each fetch that meets it (R303). A memory-side page is read at its base die, and no copy is
kept (R366). -/
def State.codeBlock (s : State) (a : Acc) (pa key : Nat) (ms : Bool) : State × List Word × Bool :=
  if ms then
    let r := s.msRead (pa / 32 * 32) 32 a
    (r.1, wordsOfBytes r.2.1, r.2.2)
  else match SMap.get? (s.core a.core).ic (pa / 32) with
  | some b =>
    let now := wordsOfBytes (Memory.getBytes s.mem (pa / 32 * 32) 32)
    if now == b.1 || SMap.getD s.keyOf 0 (pa / 32) != key then (s, b.1, b.2) else (s.draw, mixWords s.draws b.1 now, b.2)
  | none =>
    let r := s.l2Read a false (pa / 32 * 32) 32 key
    let ws := wordsOfBytes r.2.1
    (r.1.updCore a.core (fun c => { c with ic := SMap.put c.ic (pa / 32) (ws, r.2.2) }), ws, r.2.2)

/-- Fetch at a PC of a group (R47, R80). -/
def State.fetch (s : State) (g : Group) (gid : Nat) (pc : DWord) : State × Fetched :=
  if pc.toNat % 4 != 0 then (s, .bad ⟨6, pc, g.code⟩ none)
  else
    let blk : DWord := pc &&& 0xFFFFFFFFFFFFFFE0
    match s.chkPiece g.core g.ctx gid ⟨needX, false, false, 4⟩ g.code blk 32 with
    | .bad _ t s2 => (s, .bad t s2)
    | .tier o => (s, .tier o)
    | .ok gs es =>
      let seg := gs.headD ⟨false, 0, false, 0, 0⟩
      let b := (es.foldl (fun s e => s.tlbFill g.core e) s).codeBlock (s.accOf g 0) seg.pa seg.key seg.ms
      if b.2.2 then (b.1.relRec 4 1 (g.core / 128) (g.core / 4 % 32) (g.ctx + 1) seg.pa, .bad fetchPoison none)
      else (b.1, .ok (b.2.1.drop (pc.toNat % 32 / 4)))

/-- A failed fetch as a trap of the group, with the stage-2 notice of R427 (access kind 4, log 21). -/
def State.fetchTrap (s : State) (gid : Nat) (g : Group) (t : Trap) (s2 : Option Nat) : State :=
  let s := match s2 with
    | some ipa => s.s2Notice t.cause g.ctx ipa (vaOf t.tvalh t.tval) 4
    | none => s
  takeTrap (if t.cause == 0x0F then s.lostHit (g.core / 128) g.ctx else s) gid t

/-- Bytes of the instruction whose word 0 is `w`, as `rte.nx` steps over it: 4 for LEN 0b11 (R275). -/
def nxBytes (w : Word) : DWord :=
  match lenOf w with
  | some l => BitVec.ofNat 64 (4 * l.count)
  | none => 4

end Sys2Proof.Machine
end

