-- ==== Sys2Proof/Machine/Control.lean ====
section
/-! DEFINITION. Control flow and the prism (06_isa_control_lanes.md R168-R182), one meaning for each
instruction. -/

namespace Sys2Proof.Machine

/-- Free physical slots of a compacted group. -/
def Group.freeSlots (g : Group) : List Nat := lanes32.filter (fun l => (g.lane l).home.isNone)

/-- A compacted group that takes lanes with this key: same (pc, F), role, apertures, code, rounding mode and handler,
nothing issued, room for all (R175). -/
def Group.takes (h g : Group) (pc f : DWord) (n : Nat) : Bool :=
  h.key == some (pc, f) && h.team == g.team && h.fresh && h.id.role == g.id.role && h.ap == g.ap &&
    h.code == g.code && h.rmode == g.rmode && h.tvec == g.tvec && n ≤ h.freeSlots.length

/-- Put lanes of a home group into free slots of a compacted group (R175, R176). -/
def seatLanes (h g : Group) (gid : Nat) (m : Word) (pc f : DWord) : Group :=
  ((maskLanes m).zip h.freeSlots).foldl (fun h x =>
    h.updLane x.2 (fun _ => { g.lane x.1 with
      st := .active, pc := pc, foc := f, home := some ⟨gid, g.id.grp, x.1⟩, hnd := false })) h

/-- The compacted group formed in a spare slot (R176). Formed by an ejection inside a trap handler it runs outside one:
DESIGN CHOICE, log 73. -/
def newCompacted (g : Group) (slot born : Nat) (pc f : DWord) : Group :=
  { g with
    slot := slot, id := { g.id with grp := slot }, lanes := lanes32.map (fun _ => Lane.none)
    toks := (List.range 16).map (fun _ => Tok.init), stack := [], prog := 0, fflags := 0, lsel := 0
    tcause := 0, tpc := 0, tval := 0, tvalh := 0
    inH := false, hDepth := 0, pend := [], parked := false, wait := .no, held := none, halted := none
    key := some (pc, f), fresh := true, born := born, released := false }

/-- The lowest spare slot of a team that holds no group (R175, R267). -/
def State.spareSlot (s : State) (tid : Nat) : Option Nat :=
  match SMap.get? s.teams tid with
  | some t => ((List.range t.sp).map (fun i => t.g + i)).find? (fun k =>
      !s.groups.any (fun e => e.2.team == tid && e.2.slot == k))
  | none => none

/-- `Eject(L, pc, F)` (R175); none when it fails. Only a home group ejects (log 22), and of several compacted
groups that take the lanes the one of the lowest number does (log 110). -/
def State.eject (s : State) (gid : Nat) (m : Word) (pc f : DWord) : Option State :=
  match SMap.get? s.groups gid with
  | none => none
  | some g0 =>
    let g := g0.settleResults
    let home (s : State) : State := s.setGroup gid (g.mapMask m (fun l =>
      { l with st := .ejected, pc := f, foc := f, v := [], pr := 0 }))
    if g.compacted then none
    else match s.groups.find? (fun e => e.2.takes g pc f (maskCount m)) with
      | some e => some ((home s).setGroup e.1 (seatLanes e.2 g gid m pc f))
      | none =>
        match s.spareSlot g.team with
        | some k => some ((home s).fresh.setGroup s.nid (seatLanes (newCompacted g k s.nid pc f) g gid m pc f))
        | none => none

/-- Lanes of the running path go to PCs; those in `stay` run, the others are deferred. -/
def Group.place (g : Group) (run stay : Word) (pc : Nat → DWord) : Group :=
  ((maskLanes run).foldl (fun g l => g.updLane l (fun x => { x with pc := pc l })) g).setSt (run &&& ~~~stay) .deferred

/-- Prism Overflow with the lanes that could not move (R300). -/
def overflow (m : Word) : Trap := ⟨0x0B, m.zeroExtend 64, 0⟩

/-- FOCAL of the top entry. -/
def Group.topFocal (g : Group) : DWord := (g.stack.head?.map (fun e => e.focal)).getD nullFocal

/-- Add to the top entry's JOIN. -/
def Group.addJoin (g : Group) (n : Nat) : Group :=
  match g.stack with
  | e :: r => { g with stack := { e with join := e.join + n } :: r }
  | [] => g

/-- A divergent `bra` (R172). `ej` is the request to eject. -/
def braSplit (ej : Bool) (gid : Nat) (c : GCtx) (s : State) : Act :=
  let t := c.act
  let n := c.run &&& ~~~c.act
  let pcT := c.target c.k.imm
  let pcN := c.next
  let f := c.target c.k.ext
  if t == 0 then .done s
  else if n == 0 then .jump (s.withG gid (fun g => g.setPc c.run pcT))
  else
    let taken := maskCount n ≤ maskCount t
    let minor := if taken then n else t
    let major := if taken then t else n
    let pcMin := if taken then pcN else pcT
    let pcMaj := if taken then pcT else pcN
    let room := c.g.stack.length < stackMax
    let push (s : State) (pc : DWord) (j : Nat) : State :=
      s.withG gid (fun g => { g with stack := ⟨c.run, pc, f, j⟩ :: g.stack })
    let go (s : State) : State := s.withG gid (fun g => g.setPc major pcMaj)
    let deferMinor (s : State) : State := s.withG gid (fun g => (g.setPc minor pcMin).setSt minor .deferred)
    match if ej && maskCount minor ≤ 8 && room then s.eject gid minor pcMin f else none with
    | some s' => .jump (push (go s') f (maskCount minor))
    | none =>
      if room then .jump (push (deferMinor (go s)) pcMin 0)
      else match s.eject gid minor pcMin c.g.topFocal with
        | some s' => .jump ((go s').withG gid (fun g => g.addJoin (maskCount minor)))
        | none => .trap s (overflow minor)

/-- Eject each minority path at the top entry's FOCAL, lowest slot first, and when one fails name the lanes of it and of the
paths after it (R173): DESIGN CHOICE, log 73. -/
def ejectAll (gid : Nat) (f : DWord) : List (DWord × Word) → State → Except Word State
  | [], s => .ok s
  | p :: ps, s =>
    match s.eject gid p.2 p.1 f with
    | some s' => ejectAll gid f ps (s'.withG gid (fun g => g.addJoin (maskCount p.2)))
    | none => .error (ps.foldl (fun m q => m ||| q.2) p.2)

/-- The split of `brx`, `call` and `ret` by next PC (R173, R174). `spare` says that with a full stack the minority
waits in the top entry (`ret`). The entry's PC is that of its lowest waiting slot, as `ChooseNext` keeps it (R171):
DEDUCED, log 73. -/
def pathSplit (f : DWord) (spare : Bool) (pc : Nat → DWord) (gid : Nat) (c : GCtx) (s : State) : Act :=
  let ps := pathsOf c.run pc
  match major ps with
  | none => .done s
  | some mj =>
    if ps.length ≤ 1 then .jump (s.withG gid (fun g => g.setPc c.run mj.1))
    else
      let minor := c.run &&& ~~~mj.2
      let room := c.g.stack.length < stackMax
      if room then
        .jump (s.withG gid (fun g =>
          let g := g.place c.run mj.2 pc
          let e : Entry := ⟨c.run, f, f, 0⟩
          { g with stack := { e with pc := nextPc g e } :: g.stack }))
      else if spare then .jump (s.withG gid (fun g => (g.place c.run mj.2 pc).recount))
      else
        match ejectAll gid c.g.topFocal (ps.filter (fun p => p.1 != mj.1)) s with
        | .ok s' => .jump (s'.withG gid (fun g => g.setPc mj.2 mj.1))
        | .error m => .trap s (overflow m)

/-- The PC held in a lane's pair (R168). -/
def GCtx.pairPc (c : GCtx) (a : Opnd) (l : Nat) : DWord := BitVec.ofNat 64 (c.data a l 2)

/-- Continue unless the target pairs of the lanes that branch are poisoned (R168). -/
def targetOk (c : GCtx) (a : Opnd) (ls : List Nat) (s : State) (k : Act) : Act :=
  match c.consume [(a, 2)] ls with
  | some t => .trap s t
  | none => k

def actBraWhole (gid : Nat) (c : GCtx) (s : State) : Act :=
  .jump (s.withG gid (fun g => g.setPc c.run (if c.guard c.lowSlot then c.target c.k.imm else c.next)))

def actBrx (a : Opnd) (gid : Nat) (c : GCtx) (s : State) : Act :=
  targetOk c a (maskLanes c.act) s
    (pathSplit (c.target c.k.imm) false (fun l => if inMask c.act l then c.pairPc a l else c.next) gid c s)

def actBrxWhole (a : Opnd) (gid : Nat) (c : GCtx) (s : State) : Act :=
  if c.guard c.lowSlot then
    targetOk c a [c.lowSlot] s (.jump (s.withG gid (fun g => g.setPc c.run (c.pairPc a c.lowSlot))))
  else .done s

/-- The link pair of a call (R174). -/
def linkOut (d : Opnd) (c : GCtx) : Out := perLane c d (fun _ => plainImgs 2 false c.next.toNat)

/-- Calls: the link pair is an outstanding result, which ejected lanes take with them, unless the instruction traps. -/
def withLink (d : Opnd) (gid : Nat) (c : GCtx) (split : State → Act) (s : State) : Act :=
  match split (s.commit gid (linkOut d c)) with
  | .trap _ t => .trap s t
  | a => a

def actCall (d : Opnd) (gid : Nat) (c : GCtx) (s : State) : Act :=
  withLink d gid c (pathSplit c.next false
    (fun l => if inMask c.act l then c.target c.k.imm else c.next) gid c) s

def actCallX (d a : Opnd) (gid : Nat) (c : GCtx) (s : State) : Act :=
  targetOk c a (maskLanes c.act) s (withLink d gid c (pathSplit c.next false
    (fun l => if inMask c.act l then c.pairPc a l else c.next) gid c) s)

def actRet (a : Opnd) (gid : Nat) (c : GCtx) (s : State) : Act :=
  targetOk c a (maskLanes c.act) s (pathSplit nullFocal true
    (fun l => if inMask c.act l then c.pairPc a l else c.next) gid c s)

def actFcs (gid : Nat) (c : GCtx) (s : State) : Act :=
  match c.g.stack with
  | e :: r =>
    if c.act != 0 && e.focal == nullFocal then
      .jump (s.withG gid (fun g => { g with stack := { e with focal := c.pc0 } :: r }))
    else .done s
  | [] => .done s

def actExit (gid : Nat) (c : GCtx) (s : State) : Act :=
  let s := s.withG gid (fun g => (g.settleResults).advance (c.run &&& ~~~c.act) c.k)
  .jump ((maskLanes c.act).foldl (fun s l => s.exitLane gid l c.pc0) s)

def actPswp (gid : Nat) (c : GCtx) (s : State) : Act :=
  if c.g.stack.isEmpty || c.act == 0 then .done s
  else .jump (s.withG gid (fun g => (g.advance c.run c.k).setSt c.run .deferred))

def execBraWhole (k : Com) (s : State) : Res := issue (.braWhole k) k [] actBraWhole s
def execBraD (k : Com) (s : State) : Res := issue (.braD k) k [] (braSplit false) s
def execBraEj (k : Com) (s : State) : Res := issue (.braEj k) k [] (braSplit true) s
def execBrxD (k : Com) (a : Opnd) (s : State) : Res := issue (.brxD k a) k [(a, 2)] (actBrx a) s
def execBrxWhole (k : Com) (a : Opnd) (s : State) : Res := issue (.brxWhole k a) k [(a, 2)] (actBrxWhole a) s
def execCall (k : Com) (d : Opnd) (s : State) : Res := issue (.call k d) k [(d, 2)] (actCall d) s
def execCallX (k : Com) (d a : Opnd) (s : State) : Res := issue (.callX k d a) k [(d, 2), (a, 2)] (actCallX d a) s
def execRet (k : Com) (a : Opnd) (s : State) : Res := issue (.ret k a) k [(a, 2)] (actRet a) s
def execFcs (k : Com) (s : State) : Res := issue (.fcs k) k [] actFcs s
def execExit (k : Com) (s : State) : Res := issue (.exit k) k [] actExit s
def execPswp (k : Com) (s : State) : Res := issue (.pswp k) k [] actPswp s

/-- COMPACT_RETURN may take place: the running path of a compacted group stands at its return focal (R177). -/
def State.canReturn (s : State) (gid : Nat) : Bool :=
  match SMap.get? s.groups gid with | some g => g.atReturn | none => false

/-- Move one lane home (R177). -/
def State.returnLane (s : State) (gid l : Nat) (f : DWord) : State :=
  match SMap.get? s.groups gid with
  | none => s
  | some g =>
    let x := g.lane l
    match x.home with
    | none => s
    | some h =>
      let s := s.updGroup gid (fun g => { g.updLane l (fun _ => Lane.none) with
        stack := g.stack.map (fun e => { e with mask := e.mask &&& ~~~(1#32 <<< l) }) })
      s.homeLane h (fun y => { y with
        st := .deferred, pc := f, v := x.v, pr := x.pr, rng := x.rng, foc := 0, home := none })

/-- COMPACT_RETURN (R177). -/
def evCompactReturn (gid : Nat) (s : State) : State :=
  match SMap.get? s.groups gid with
  | some g =>
    if g.atReturn then
      let f := g.runPc
      let s := s.withG gid (fun g => g.settleResults)
      let s := (maskLanes g.runMask).foldl (fun s l => s.returnLane gid l f) s
      s.withG gid (fun h => settle h (maskLow g.runMask))
    else s
  | none => s

def execCompactReturn (gid : Nat) (s : State) : Res := .next (evCompactReturn gid s)

end Sys2Proof.Machine
end

