-- ==== Sys2Proof/Machine/Records.lean ====
section
/-! DEFINITION. Records that software and the dispatcher exchange: CRC-64 (03 R112), launch records (16 R389, R390),
kernel descriptors (03 R112, R113), notify-page writes and request packets (16 R387, R388, 17 R419-R421, R428). -/

namespace Sys2Proof.Machine

-- CRC-64/ECMA-182 (R112): no reflection, initial value 0, no final exclusive-or.

def crcBit (c : Nat) : Nat :=
  if c.testBit 63 then (2 * c % 2 ^ 64) ^^^ 0x42F0E1EBA9EA3693 else 2 * c % 2 ^ 64

def crcByte (c : Nat) (b : Byte) : Nat :=
  crcBit (crcBit (crcBit (crcBit (crcBit (crcBit (crcBit (crcBit (c ^^^ (b.toNat * 2 ^ 56)))))))))

def crc64 (bs : List Byte) : Nat := bs.foldl crcByte 0

/-- A little-endian field of a record. -/
def fld (bs : List Byte) (off n : Nat) : Nat := leNat ((bs.drop off).take n)

/-- A field of zeros. -/
def zeroAt (bs : List Byte) (off n : Nat) : Bool := ((bs.drop off).take n).all (fun b => b == 0)

/-- A launch record's fields (R389). -/
def parseRec (bs : List Byte) : LaunchRec :=
  { flags := fld bs 6 2, desc := BitVec.ofNat 64 (fld bs 8 8), codeap := BitVec.ofNat 16 (fld bs 0x10 2)
    apers := (List.range 7).map (fun i => BitVec.ofNat 16 (fld bs (0x12 + 2 * i) 2))
    gx := fld bs 0x20 4, gy := fld bs 0x24 2, gz := fld bs 0x26 2
    argoff := BitVec.ofNat 64 (fld bs 0x28 8), argap := BitVec.ofNat 16 (fld bs 0x30 2), prio := fld bs 0x32 1
    seed := BitVec.ofNat 32 (fld bs 0x34 4), gridid := fld bs 0x38 4, pred := fld bs 0x3C 4, chain := fld bs 0x40 4
    dies := fld bs 0x44 2, msix := fld bs 0x46 2, compoff := BitVec.ofNat 64 (fld bs 0x48 8)
    compap := BitVec.ofNat 16 (fld bs 0x50 2), evtag := fld bs 0x52 2, evcl := fld bs 0x54 1, wcl := fld bs 0x55 1
    waittag := fld bs 0x56 2, waitcnt := fld bs 0x58 2, tslen := fld bs 0x5A 2
    tsap := BitVec.ofNat 16 (fld bs 0x5C 2), tsoff := BitVec.ofNat 64 (fld bs 0x60 8) }

def LaunchRec.ev (r : LaunchRec) : Bool := r.flags.testBit 3
def LaunchRec.held (r : LaunchRec) : Bool := r.flags.testBit 2
def LaunchRec.last (r : LaunchRec) : Bool := r.flags.testBit 1
def LaunchRec.int (r : LaunchRec) : Bool := r.flags.testBit 0

/-- Check 1 of R390: MAGIC, VERSION, CRC, zero fields, and the limits of TSLEN and WAITCNT. -/
def recOk (bs : List Byte) (r : LaunchRec) (scratch : Nat) : Bool :=
  fld bs 0 4 == 0x4B544C52 && fld bs 4 2 == 1 && fld bs 0xF8 8 == crc64 (bs.take 0xF8) &&
    r.flags < 16 && r.prio < 4 && zeroAt bs 0x33 1 && zeroAt bs 0x5E 2 && zeroAt bs 0x68 144 &&
    r.tslen % 256 == 0 && r.tslen ≤ 4096 && r.tslen ≤ scratch && (!r.held || 1 ≤ r.waitcnt)

/-- A kernel descriptor's fields (R112). -/
def parseDesc (bs : List Byte) : Desc :=
  { span := fld bs 6 2 / 4 % 4, fuse := (fld bs 6 2).testBit 1, cores := (fld bs 6 2).testBit 0
    entry := BitVec.ofNat 64 (fld bs 8 8), tvec := BitVec.ofNat 64 (fld bs 0x10 8), codesize := fld bs 0x18 4
    g := fld bs 0x1C 1, s := fld bs 0x1D 1, p := fld bs 0x1E 1, c := fld bs 0x1F 1
    vbn := fld bs 0x20 1, vbp := fld bs 0x21 1, vbc := fld bs 0x22 1, sregs := fld bs 0x23 1
    scratch := fld bs 0x24 4, canvas := fld bs 0x28 1, curve := fld bs 0x29 1, argbytes := fld bs 0x2A 2
    shx := fld bs 0x2C 2, shy := fld bs 0x2E 2, shz := fld bs 0x30 2, strip := fld bs 0x34 4
    barp := (List.range 16).map (fun i => fld bs (0x40 + i) 1)
    barc := (List.range 16).map (fun i => fld bs (0x50 + i) 1) }

/-- A BARP and BARC pair within the limits of R110. -/
def barOk (d : Desc) (kp kc : Nat) : Bool :=
  if kc == 0 then kp ≤ d.g else 1 ≤ kp && kp ≤ d.p && kc ≤ d.c

/-- The checks of R113, the limit of `.tvec` among them (R110, log 98). -/
def descOk (bs : List Byte) (d : Desc) : Bool :=
  let roles := !(d.p == 0 && d.c == 0)
  let bud (b : Nat) : Bool := 1 ≤ b && b ≤ 24
  fld bs 0 4 == 0x4C4B4452 && fld bs 4 2 == 1 && fld bs 0x78 8 == crc64 (bs.take 0x78) &&
    fld bs 6 2 < 16 && zeroAt bs 0x32 2 && zeroAt bs 0x38 8 && zeroAt bs 0x60 24 &&
    d.span < 3 && !(d.fuse && d.span == 0) &&
    1 ≤ d.g && d.g ≤ 16 && d.g + d.s ≤ 16 && (!roles || (1 ≤ d.p && 1 ≤ d.c && d.p + d.c == d.g)) &&
    (if roles then d.vbn == 0 && bud d.vbp && bud d.vbc else bud d.vbn && d.vbp == 0 && d.vbc == 0) &&
    1 ≤ d.sregs && d.sregs ≤ 60 && d.scratch ≤ 786432 && d.canvas ≤ 16 && d.curve ≤ 3 &&
    d.argbytes % 4 == 0 && d.argbytes ≤ 240 && d.argbytes ≤ 4 * d.sregs &&
    1 ≤ d.shx && 1 ≤ d.shy && 1 ≤ d.shz && d.shx * d.shy * d.shz == 32 * d.g &&
    ((d.curve == 3) == (d.strip != 0)) && (d.barp.zip d.barc).all (fun b => barOk d b.1 b.2) &&
    d.entry.toNat % 4 == 0 && d.tvec.toNat % 4 == 0 && (d.tvec == 0 || (d.tvec - d.entry).toNat < d.codesize)

/-- The span in teams. -/
def Desc.n (d : Desc) : Nat := 2 ^ d.span

/-- Register demand of a team (R25). -/
def Desc.demand (d : Desc) : Nat :=
  if d.p == 0 && d.c == 0 then 8 * d.vbn * (d.g + d.s)
  else 8 * (d.p * d.vbp + d.c * d.vbc + d.s * max d.vbp d.vbc)

/-- Team barriers as a team starts with them (R254). -/
def Desc.bars (d : Desc) : SMap TBar :=
  (List.range 16).filterMap (fun n =>
    let kp := d.barp.getD n 0
    let kc := d.barc.getD n 0
    if kp == 0 then none
    else if kc == 0 then some (n, ⟨false, ⟨kp, 0, 0⟩, ⟨0, 0, 0⟩⟩)
    else some (n, ⟨true, ⟨kp, 0, 0⟩, ⟨kc, 0, 1⟩⟩))

-- Reasons of R395.
def rsDesc : Nat := 1
def rsSpan : Nat := 2
def rsCores : Nat := 3
def rsFit : Nat := 4
def rsRecord : Nat := 5
def rsDies : Nat := 6
def rsHold : Nat := 7
def rsImage : Nat := 8
def rsKind : Nat := 9
def rsPasid : Nat := 10
def rsQuota : Nat := 11

/-- A request packet's fields (R387). -/
structure Pkt where
  kind : Nat
  qslot : Nat
  seq : Word
  addr : DWord
  aper : Half
  target : Nat
  staddr : DWord
deriving DecidableEq, Repr

def parsePkt (bs : List Byte) : Pkt :=
  ⟨fld bs 0 1, fld bs 2 2, BitVec.ofNat 32 (fld bs 4 4), BitVec.ofNat 64 (fld bs 8 8), BitVec.ofNat 16 (fld bs 0x10 2),
   fld bs 0x12 2, BitVec.ofNat 64 (fld bs 0x18 8)⟩

/-- KIND is assigned and the unused fields of the packet have their fixed values (R387, R388): DEDUCED, log 94. -/
def pktOk (bs : List Byte) (p : Pkt) : Bool :=
  let destroy := p.kind == 2 || p.kind == 3
  1 ≤ p.kind && p.kind ≤ 5 && zeroAt bs 1 1 && zeroAt bs 0x14 4 && zeroAt bs 0x20 32 &&
    (destroy || p.qslot == 0xFFFF) && (!destroy || p.addr == 0) && (p.kind == 4 || p.target == 0xFFFF) &&
    (p.kind != 1 || p.staddr == 0) &&
    (p.kind != 4 || p.target == 0xFFFF || (p.target / 4096 == 0 && p.target / 32 % 8 == 0))

/-- The PASID that a write carries, as a number. -/
def notifyPas (w : NotifyWr) : Nat := w.pasid.getD 0 % 2 ^ 20

/-- A refusal record (R428). -/
def refusalRecord (w : NotifyWr) (reason : Nat) : List Byte :=
  let p := parsePkt w.bytes
  let rd (n : Nat) : Nat := if w.whole then n else 0
  [0x80] ++ leBytes 1 reason ++ [0, 0] ++ leBytes 4 (rd p.seq.toNat) ++
    leBytes 4 (notifyPas w + if w.pasid.isSome then 2 ^ 31 else 0) ++ leBytes 4 (w.off / 64 % 2 ^ 17 * 64) ++
    leBytes 8 (rd p.addr.toNat) ++ leBytes 1 (rd p.kind) ++ List.replicate 7 0

/-- A write to a notify page decoded (R420): refused, with the VD that gets the record, or accepted for a VD, die and
queue. -/
inductive Notify
  | refuse (vd reason : Nat)
  | ok (vd die queue : Nat)
deriving DecidableEq, Repr

/-- Region of a BAR2 offset. -/
def notifyRegion (w : NotifyWr) : Nat := if w.fn == 0 then bits w.off 22 16 else bits w.off 19 16

/-- The decode of R420, with the checks of R418 and R419. -/
def State.notify (s : State) (w : NotifyWr) : Notify :=
  let k := notifyRegion w
  let die := bits w.off 15 12
  let queue := ((w.fn * 128 + k) * 16 + die) * 64 + bits w.off 11 6
  let aqi := SMap.getD s.aqis 0 (if w.fn == 0 then k - 1 else 64 + 8 * (w.fn - 1) + (k - 1))
  let enabled := k == 0 || (k ≤ (if w.fn == 0 then 64 else 8) && aqi.testBit 8)
  let vd := if k == 0 then w.fn else aqi % 256
  if !enabled then .refuse 0 rsKind
  else if !(w.whole && w.off % 64 == 0 && w.bytes.length == 64) then .refuse vd rsKind
  else if s.mod.dies ≤ die then .refuse vd rsDies
  else if w.pasid.isNone then .refuse vd rsPasid
  else if k != 0 && aqi.testBit 9 && notifyPas w != bits aqi 51 32 then .refuse vd rsPasid
  else
    let fl := (s.vd vd).inf.flags
    if !fl.testBit 0 || (vd != 0 && !fl.testBit 1) then .refuse vd rsKind
    else if !pktOk w.bytes (parsePkt w.bytes) then .refuse vd rsKind
    else .ok vd die queue

/-- Two writes come through one queue (R420). -/
def sameQueue (a b : NotifyWr) : Bool := a.fn == b.fn && a.off / 64 == b.off / 64

/-- The dispatcher takes a packet from its queue (R433): not while acceptance is stopped (R434), nor before an earlier
packet of the queue that waits; what is not taken stays queued. `new` says that it arrives just now. During a reset of the
VD its packets are discarded (R435). -/
def State.takePkt (s : State) (new : Bool) (v : Nat) (w : NotifyWr) : State × Bool :=
  let d := s.vd v
  let out : State := if new then s else s.setVd v { d with queued := d.queued.erase w }
  let first := (if new then d.queued else d.queued.takeWhile (fun x => x != w)).all (fun x => !sameQueue w x)
  if d.reset != 0 then (out, false)
  else if d.saving || !first then (if new then s.setVd v { d with queued := d.queued ++ [w] } else s, false)
  else (out, true)

/-- A packet that must wait goes back to the head of the queue. -/
def State.putBack (s : State) (v : Nat) (w : NotifyWr) : State :=
  s.updVd v (fun d => { d with queued := w :: d.queued })

/-- Post a refusal record (R388). -/
def State.refusePkt (s : State) (vd reason : Nat) (w : NotifyWr) : State := s.fqPost vd (refusalRecord w reason)

/-- The module's stage: that of its slowest die (R462). -/
def State.stage (s : State) : Nat :=
  ((List.range s.mod.dies).map (fun d => (s.die d).stage)).foldl min 15

/-- Full function (R462): every interface answers. Below it BAR writes are ignored. -/
def State.full (s : State) : Bool := s.stage == 4

/-- The context table of a VD as memory holds it (R421): its valid entries, ID, FLAGS and S1ROOT of each. -/
def State.ctRead (s : State) (v : Nat) : Option (SMap (Nat × Nat × Nat)) :=
  (s.ipaRead v (s.vd v).ctbase.toNat 8192).map (fun b =>
    ((List.range 256).map (fun c => (c, fld b (32 * c) 4, fld b (32 * c + 4) 1, fld b (32 * c + 8) 8))).filter
      (fun e => e.2.1.testBit 31))

/-- The valid entry of a context number as memory holds it. -/
def State.ctRow (s : State) (v c : Nat) : Option (Nat × Nat × Nat) :=
  ((s.ipaRead v ((s.vd v).ctbase.toNat + 32 * c) 32).map (fun b => (fld b 0 4, fld b 4 1, fld b 8 8))).filter
    (fun e => e.1.testBit 31)

/-- The tier object that a look at the context table must wait for (R373). -/
def State.ctTier (s : State) (v : Nat) : Option Nat :=
  if (s.vd v).ctbase == 0 then none else (s.ipaChk v (s.vd v).ctbase.toNat 8192 needR).waits

/-- The device looks at the context table for the first time: what it holds then is in force (R421, R422, log 100). -/
def State.ctLoad (s : State) (v : Nat) : State :=
  let d := s.vd v
  if d.ctbase == 0 || d.ctab.isSome then s
  else match s.ctRead v with
    | some t => s.setVd v { d with ctab := some t }
    | none => s

/-- `CTXSYNC` takes the entry of a context number as memory holds it (R422). -/
def State.ctSync (s : State) (v c : Nat) : State :=
  let s := s.ctLoad v
  s.updVd v (fun d =>
    let rest := SMap.del (d.ctab.getD []) c
    { d with ctab := some (match s.ctRow v c with
      | some e => SMap.put rest c e
      | none => rest) })

/-- The entry of a context number in force. -/
def State.ctEntry (s : State) (v c : Nat) : Option (Nat × Nat × Nat) := ((s.vd v).ctab).bind (fun t => SMap.get? t c)

/-- A cached context from an entry. -/
def mkCtx (e : Nat × Nat × Nat) : Ctx :=
  ⟨e.1 % 2 ^ 20, e.2.2, e.2.1.testBit 0, e.2.1.testBit 1, none, false, false, [], []⟩

/-- A context whose number is free. -/
def deadCtx (pasid : Nat) : Ctx := ⟨pasid, 0, true, false, none, false, false, [], []⟩

/-- The context of a PASID (R421): the lowest valid entry in force that names it, cached from then on. A revoked entry matches
nothing (R388), and no entry stands while CTBASE is 0 (R423). -/
def State.ctxOf (s : State) (v pasid : Nat) : State × Option Nat :=
  let s := s.ctLoad v
  let d := s.vd v
  match if d.ctbase == 0 then none else (d.ctab.getD []).find? (fun e => e.2.1 % 2 ^ 20 == pasid) with
  | none => (s, none)
  | some (c, e) =>
    let x := 256 * v + c
    if e.2.1.testBit 0 then (s, none)
    else (if (SMap.get? s.ctxs x).isSome then s else { s with ctxs := SMap.put s.ctxs x (mkCtx e) }, some x)

/-- A refused LAUNCH counts for its context on the receiving die, where its PASID names one (R415). -/
def State.refusedCount (s : State) (v die pasid : Nat) : State :=
  match s.ctxOf v pasid with
  | (s, some ctx) => s.count die ctx (fun c => { c with refusals := State.ctr64 (c.refusals + 1) })
  | (s, none) => s

/-- A packet of a kind arrives, or is looked at again (R387, R388, R420): refused, or taken with its VD, die and queue. It waits
for the context table's tier object (R373). -/
def State.packet (s : State) (new : Bool) (kind : Nat) (w : NotifyWr) (act : State → Nat → Nat → Nat → Pkt → State) : State :=
  let p := parsePkt w.bytes
  if !s.full then s
  else match s.notify w with
  | .refuse v reason =>
    if p.kind != kind then s
    else
      let s := if new then s
        else { s with vds := SMap.mapV (fun (d : Vd) => { d with queued := d.queued.erase w }) s.vds }
      let s := s.refusePkt v reason w
      if kind == 1 && w.whole && w.pasid.isSome && bits w.off 15 12 < s.mod.dies && reason != rsPasid then
        s.refusedCount v (bits w.off 15 12) (notifyPas w)
      else s
  | .ok v die queue =>
    if p.kind != kind then s
    else
      let t := s.takePkt new v w
      if !t.2 then t.1
      else match t.1.ctTier v with
        | some o => (t.1.awaitTier v o).putBack v w
        | none => act t.1 v die queue p

/-- The tier object that a read of the dispatcher must wait for (R373). -/
def State.ctxTier (s : State) (die ctx : Nat) (ap : Half) (off : DWord) (n : Nat) : Option Nat :=
  (s.ctxChk die ctx 0 needR ap off n).waits

end Sys2Proof.Machine
end

