-- ==== Sys2Proof/Machine/Launch.lean ====
section
/-! DEFINITION. From a launch packet to running teams and back (16_scheduling.md R387-R409, 03 R114, 01 R17, R25, R26,
R42, 14 R347, R351, R359): one meaning for each step of the dispatcher. -/

namespace Sys2Proof.Machine

-- R404: resources of cores and clusters

/-- Teams resident on a core. -/
def State.resident (s : State) (c : Nat) : List (Nat × Team) :=
  s.teams.filter (fun e => e.2.core == c && !s.inShadow e.1 e.2)

/-- Register demand of a resident team (R25). -/
def Team.demand (t : Team) : Nat :=
  if t.p == 0 && t.c == 0 then 8 * t.vbN * (t.g + t.sp)
  else 8 * (t.p * t.vbP + t.c * t.vbC + t.sp * max t.vbP t.vbC)

def sumBy {α : Type} (f : α → Nat) (l : List α) : Nat := l.foldl (fun a x => a + f x) 0

/-- The lowest base of a free stretch of a core's team store (R346). -/
def tsFit (used : List (Nat × Nat)) (size : Nat) : Option Nat :=
  if size == 0 then some 0
  else
    let bases := 0 :: used.map (fun u => u.1 + u.2)
    let ok (b : Nat) : Bool := b + size ≤ 786432 && used.all (fun u => b + size ≤ u.1 || u.1 + u.2 ≤ b)
    (bases.filter ok).foldl (fun (m : Option Nat) b => match m with
      | none => some b
      | some x => some (min x b)) none

/-- A team fits a core beside the teams resident there (R404): the base of its team store. -/
def State.coreRoom (s : State) (c : Nat) (t : Team) : Option Nat :=
  let rs := (s.resident c).map (fun e => e.2)
  let mixed := rs.any (fun x => (x.fuse || t.fuse) && !(x.grid == t.grid && x.block == t.block))
  if sumBy (fun x => x.g + x.sp) rs + t.g + t.sp ≤ 16 && sumBy Team.demand rs + t.demand ≤ 1536 &&
      sumBy (fun (x : Team) => x.bars.length) rs + t.bars.length ≤ 64 && !mixed &&
      !(s.cluster (c / 4)).retired && t.canvas ≤ (s.cluster (c / 4)).free then
    tsFit ((rs.filter (fun x => x.scratch != 0)).map (fun x => (x.tsBase, x.scratch))) t.scratch
  else none

/-- Cluster barrier units free for one more block (R404). -/
def State.blockRoom (s : State) (cl : Nat) (t : Team) : Bool :=
  let bs := ((s.teams.filter (fun e => e.2.core / 4 == cl && 1 < e.2.span && !s.inShadow e.1 e.2)).map
    (fun e => (e.2.grid, e.2.block))).eraseDups
  t.span == 1 || bs.contains (t.grid, t.block) || 4 * bs.length + 4 ≤ 16

/-- A team takes its resources on a core (R404); none when they do not fit. -/
def State.hold (s : State) (tid c : Nat) (t : Team) : Option State :=
  if !s.blockRoom (c / 4) t then none
  else match s.coreRoom c t with
    | none => none
    | some b =>
      let s := s.updCore c (fun x => { x with shadow := x.shadow.filter (fun h => h.team != tid) })
      let s := { s with teams := SMap.put s.teams tid { t with core := c, tsBase := b, pool := t.canvas } }
      some (s.updCluster (c / 4) (fun x => { x with free := x.free - t.canvas }))

/-- The teams of a block take their resources on their cores (R17). -/
def State.holdAll (s : State) (ts : List (Nat × Nat × Team)) : Option State :=
  ts.foldl (fun (a : Option State) x => a.bind (fun s => s.hold x.1 x.2.1 x.2.2)) (some s)

-- R400: curves

/-- `HilbertXY` (R400) from step `s` on. -/
def hilbertXY : Nat → Nat → Nat → Nat × Nat → Nat → Nat × Nat
  | 0, _, _, p, _ => p
  | f + 1, n, s, (x, y), t =>
    if n ≤ s then (x, y)
    else
      let ax := t / 2 % 2
      let ay := (t ^^^ ax) % 2
      let q := if ay == 0 then (if ax == 1 then (s - 1 - y, s - 1 - x) else (y, x)) else (x, y)
      hilbertXY f n (2 * s) (q.1 + s * ax, q.2 + s * ay) (t / 4)

/-- Bits 0, 2, 4, ... of a number, as a number. -/
def evenBits : Nat → Nat → Nat
  | 0, _ => 0
  | f + 1, m => m % 2 + 2 * evenBits f (m / 4)

def mortonXY (m : Nat) : Nat × Nat := (evenBits 32 m, evenBits 32 (m / 2))

/-- The `i`-th point from 0 of an order that lies in the plane. -/
def nthPoint (f : Nat → Nat × Nat) (x y : Nat) : Nat → Nat → Nat → Nat × Nat
  | 0, _, _ => (0, 0)
  | fuel + 1, m, i =>
    let p := f m
    if p.1 < x && p.2 < y then (if i == 0 then p else nthPoint f x y fuel (m + 1) (i - 1))
    else nthPoint f x y fuel (m + 1) i

/-- The least power of two at or above a number. -/
def pow2Up (n : Nat) : Nat := ((List.range 34).map (fun k => 2 ^ k)).find? (fun p => n ≤ p) |>.getD 0

/-- `CurveTeam` (R400). -/
def curveTeam (curve strip x y c : Nat) : Nat × Nat × Nat :=
  let z := c / (x * y)
  let i := c % (x * y)
  match curve with
  | 0 => (i % x, i / x, z)
  | 3 =>
    let s := i / (strip * y)
    let ws := min strip (x - s * strip)
    let j := i - s * strip * y
    (s * strip + j % ws, j / ws, z)
  | k =>
    let n := pow2Up (max x y)
    let p := nthPoint (if k == 1 then mortonXY else fun m => hilbertXY 33 n 1 (0, 0) m) x y (n * n) 0 i
    (p.1, p.2, z)

/-- Linear index of a team (R391). -/
def linTeam (x y : Nat) (t : Nat × Nat × Nat) : Nat := t.1 + x * (t.2.1 + y * t.2.2)

-- Grids, parts and slots (R391-R393)

/-- A team of a grid by curve index, not yet on a core. -/
def Grid.mkTeam (g : Grid) (gi c : Nat) : Team :=
  let d := g.desc
  let n := d.n
  { grid := gi, lin := linTeam g.lr.gx g.lr.gy (curveTeam d.curve d.strip g.lr.gx g.lr.gy c), curve := c, rank := c % n
    block := c / n, core := 0, g := d.g, sp := d.s, p := d.p, c := d.c, vbN := d.vbn, vbP := d.vbp, vbC := d.vbc
    sregs := d.sregs, scratch := d.scratch, canvas := d.canvas, shX := d.shx, shY := d.shy, shZ := d.shz, span := n
    fuse := d.fuse, cores := [], tsBase := 0, bars := d.bars, pool := 0, binds := [], det := false, rel := false, suspd := 0 }

/-- Untaken teams of a part. -/
def Part.untaken (p : Part) : Nat := sumBy (fun (r : Range) => r.hi - r.lo) p.ranges
def Grid.untaken (g : Grid) : Nat := sumBy Part.untaken g.parts

/-- Queue slots in use on a die. -/
def State.slotsOn (s : State) (d : Nat) : List (Nat × Nat) :=
  s.grids.flatMap (fun e => (e.2.parts.filter (fun p => p.die == d)).map (fun p => (e.2.vd, p.qslot)))

/-- FSW of a VD on a die (R396). -/
def State.quota (s : State) (d v : Nat) : Nat := bits (SMap.getD (s.die d).fsw 0 v) 26 16
def State.weight (s : State) (d v : Nat) : Nat := bits (SMap.getD (s.die d).fsw 0 v) 15 0

/-- The lowest free queue slot within the VD's quota (R392, R396). -/
def State.freeSlot (s : State) (d v : Nat) : Option Nat :=
  let used := s.slotsOn d
  if s.quota d v ≤ (used.filter (fun u => u.1 == v)).length then none
  else (List.range 1024).find? (fun k => !used.any (fun u => u.2 == k))

/-- Die `k` of `m` receives this range of N curve indices (R391). -/
def partRange (n m span k : Nat) : Range :=
  let b (j : Nat) : Nat := n * j / m / span * span
  ⟨b k, b (k + 1), none⟩

/-- Dies that run teams of a grid (R391), in ascending order. -/
def Grid.named (g : Grid) : List Nat :=
  if g.lr.dies == 0 then [g.recv] else g.parts.map (fun p => p.die) |>.filter (fun d => g.lr.dies.testBit d)

/-- The grid with every team still to be taken, each on its die (R391). -/
def Grid.whole (g : Grid) : Grid :=
  { g with parts := g.parts.map (fun (p : Part) =>
      { p with ranges := match g.named.findIdx? (fun d => d == p.die) with
        | some k => [partRange g.teams g.named.length g.desc.n k]
        | none => [] }) }

/-- A state with idle cores and clusters (R406). -/
def State.idle (s : State) : State :=
  { s with
    teams := [], groups := []
    cores := SMap.mapV (fun (c : Core) => { c with shadow := [] }) s.cores
    clusters := SMap.mapV (fun (c : Cluster) => { c with free := 32 }) s.clusters }

/-- The cores of a die that a block takes (R402): the first `n` cores of a cluster, in ascending order, that a test
passes; clusters in ascending order. -/
def coreSets (s : State) (d n : Nat) (ok : Nat → Bool) : List (List Nat) :=
  if n == 1 then ((List.range 128).map (fun c => d * 128 + c)).filter ok |>.map (fun c => [c])
  else ((List.range 32).map (fun k =>
    (((List.range 4).map (fun i => (d * 32 + k) * 4 + i)).filter ok).take n)).filter (fun l => l.length == n)

/-- Teams of a block with fresh numbers. -/
def blockTeams (g : Grid) (gi : Nat) (tid0 : Nat) (cores : List Nat) (c0 : Nat) : List (Nat × Nat × Team) :=
  cores.zipIdx.map (fun x => (tid0 + x.2, x.1, g.mkTeam gi (c0 + x.2)))

/-- Seat the block from curve index `c0` on a die, where its teams fit first. -/
def State.seatBlock (s : State) (gi d c0 : Nat) (g : Grid) : Option (State × List Nat) :=
  let t := g.mkTeam gi c0
  (coreSets s d g.desc.n (fun c => (s.coreRoom c t).isSome)).findSome? (fun cs =>
    let ts := blockTeams g gi s.nid cs c0
    (s.holdAll ts).map (fun s => ({ s with nid := s.nid + ts.length }, ts.map (fun x => x.1))))

/-- Seat `n` blocks from curve index `c` on. -/
def State.seatBlocks (gi d : Nat) (g : Grid) : Nat → Nat → State × List Nat → Option (State × List Nat)
  | 0, _, a => some a
  | n + 1, c, a =>
    match a.1.seatBlock gi d c g with
    | some b => State.seatBlocks gi d g n (c + g.desc.n) (b.1, a.2 ++ b.2)
    | none => none

/-- A die has grid barrier units for one more co-resident grid (R404). -/
def State.gridUnits (s : State) (gi d : Nat) : Bool :=
  4 * (s.grids.filter (fun e => e.1 != gi && e.2.desc.cores && s.teams.any (fun t => t.2.grid == e.1 && t.2.core / 128 == d))).length
    + 4 ≤ 64

/-- Seat every untaken team of a grid on its dies (R406), and the grid barrier units (R404). -/
def State.seatWhole (s : State) (gi : Nat) (g : Grid) : Option (State × List Nat) :=
  g.parts.foldl (fun (a : Option (State × List Nat)) p =>
    p.ranges.foldl (fun a r => a.bind (fun x =>
      if s.gridUnits gi p.die then State.seatBlocks gi p.die g ((r.hi - r.lo) / g.desc.n) r.lo x else none)) a) (some (s, []))

/-- The teams of a block fit an otherwise empty core and cluster (R390 check 5). -/
def fits (d : Desc) : Bool :=
  d.g + d.s ≤ 16 && d.demand ≤ 1536 && d.scratch ≤ 786432 && d.n * d.canvas ≤ 32

/-- Held grids that the loupe of a cluster watches (R409). -/
def State.watches (s : State) (die cl : Nat) : Nat :=
  (s.grids.filter (fun e => e.2.lr.held && e.2.recv == die && e.2.lr.wcl % 32 == cl &&
    e.2.parts.any (fun p => p.st == .queued || p.st == .held))).length

/-- The first failing check of R390, in its order. -/
def State.launchReason (s : State) (die : Nat) (rb : List Byte) (bad : Bool) (r : LaunchRec) (db : Option (List Byte))
    (g : Grid) : Option Nat :=
  let d := g.desc
  if bad || !recOk rb (parseRec rb) (match db with | some _ => d.scratch | none => 4096) then some rsRecord
  else if r.desc.toNat % 128 != 0 then some rsDesc
  else match db with
    | none => some rsDesc
    | some b =>
      if !descOk b d then some rsDesc
      else if g.teams % d.n != 0 then some rsSpan
      else if (List.range 16).any (fun k => r.dies.testBit k && s.mod.dies ≤ k) then some rsDies
      else if !fits d then some rsFit
      else if d.cores && (s.idle.seatWhole 0 g).isNone then some rsCores
      else if r.held && 64 ≤ s.watches die (r.wcl % 32) then some rsHold
      else none

/-- A grid with nothing in it yet. -/
def noGrid : Grid :=
  { recv := 0, vd := 0, ctx := 0, queue := 0, prevQ := none, succ := false, seq := 0, addr := 0, aper := 0, lr := parseRec []
    desc := parseDesc [], teams := 0, parts := [], pred := none, parent := none, also := [], parentGrid := none, ran := 0
    retired := 0, relTeams := 0, trunc := false, fault := false, heldSeen := 0, accepted := 0, wu := 0, bars := [], blocks := []
    fwd := [], det := 0, saved := 0, relGrps := [], placing := false, refused := none, posted := false, tag := 0 }

/-- A chain becomes live on a die (R359). -/
def Die.addChain (d : Die) (v chain : Nat) : Die :=
  if chain == 0 || d.chains.contains (v, chain) || 64 ≤ d.chains.length then d
  else { d with chains := d.chains ++ [(v, chain)] }

/-- What admitting a launch comes to: no free slot (R392), a tier object to wait for (R373), or the new grid. -/
inductive Accept
  | full
  | wait (obj : Nat)
  | ok (s : State) (grid : Nat)

/-- Admit a launch whose record was read (R390-R392, R403, R407): the new grid, which a failed check leaves with nothing to
run and its reason. `who` waits for a promotion. -/
def State.acceptLaunch (s : State) (ctx die queue : Nat) (seq : Word) (addr : DWord) (aper : Half) (rb : List Byte)
    (bad : Bool) (parent : Option (Nat × Nat)) (pgrid : Option (Nat × Grid)) (who : Nat) : Accept :=
  let v := ctx / 256
  let r0 := parseRec rb
  let r := match pgrid with | some p => { r0 with dies := 2 ^ die, prio := p.2.lr.prio } | none => r0
  let named := if r.dies == 0 then [die] else (List.range s.mod.dies).filter (fun k => r.dies.testBit k)
  let holders := (List.range s.mod.dies).filter (fun k => k == die || named.contains k)
  let slots := holders.map (fun k => (k, s.freeSlot k v))
  let rd := s.ctxRead die ctx who r.codeap r.desc 128 128
  if slots.any (fun x => x.2.isNone) then .full
  else match (if bad then none else rd.waits) with
  | some o => .wait o
  | none =>
    let db := rd.bytes
    let s := DevRd.after s rd
    let d := parseDesc (db.getD [])
    let n := r.gx * r.gy * r.gz
    let mk (run : Bool) : List Part := slots.map (fun x =>
      let rg := match named.findIdx? (fun k => k == x.1) with
        | some k => partRange n named.length d.n k
        | none => ⟨0, 0, none⟩
      ⟨x.1, x.2.getD 0, .queued, if run && rg.lo < rg.hi then [rg] else []⟩)
    let live := s.grids.filter (fun e => e.2.vd == v && !e.2.posted)
    let pred := if r.pred == 0 then none else
      ((live.filter (fun e => e.2.lr.gridid == r.pred && e.2.refused.isNone && e.2.parts.any (fun p => p.die == die))).getLast?).map (fun e => e.1)
    let prevQ := if parent.isSome then none else
      (s.grids.find? (fun e => e.2.queue == queue && e.2.parent.isNone && !e.2.succ)).map (fun e => e.1)
    let why := s.launchReason die rb bad r db { noGrid with desc := d, parts := mk true, teams := n, lr := r, vd := v, recv := die }
    let s := if why.isSome then s else (List.range s.mod.dies).foldl (fun s k => s.updDie k (fun x => x.addChain v r.chain)) s
    let g : Grid := { noGrid with
      recv := die, vd := v, ctx := ctx, queue := queue, prevQ := prevQ, seq := seq, addr := addr, aper := aper, lr := r
      desc := d, teams := n, parts := mk true, pred := pred, parent := parent, parentGrid := pgrid.map (fun p => p.1)
      accepted := s.clk, tag := if why.isNone && (s.die die).live v r.chain then r.chain else 0 }
    let g := match why with
      | some _ => { g with refused := why, parts := (mk false).map (fun (p : Part) => { p with st := .running }) }
      | none => if n == 0 then { g with parts := (mk false).map (fun (p : Part) => { p with st := .running }) } else g
    let id := s.nid
    let s := match prevQ with
      | some k => s.updGrid k (fun (g : Grid) => { g with succ := true })
      | none => s
    let s := { s.fresh with grids := SMap.put s.grids id g }
    let s := s.count die ctx (fun c => if why.isSome then { c with refusals := State.ctr64 (c.refusals + 1) }
      else { c with launches := State.ctr64 (c.launches + 1) })
    .ok s id

-- R394: completion

/-- Every write on its way reaches its home, and every far line's written bytes (R290, R394 step 1). -/
def State.drainAll (s : State) : State :=
  let s := s.settleUpd
  s.dies.foldl (fun s e => (SMap.keys e.2.far).foldl (fun s l => s.farWb e.1 l false) s) s

/-- Demote a chain on every die (R359, R360) and the tier objects promoted for it (R376). -/
def State.endChain (s : State) (v chain : Nat) : State :=
  if chain == 0 then s
  else
    let s := s.dies.foldl (fun s e =>
      let mine := (s.die e.1).msc.filter (fun l => l.2.chain == chain && l.2.ctx / 256 == v)
      let s := mine.foldl (fun s l => (s.mscOut e.1 l.2).updDie e.1 (fun d => { d with
        msc := SMap.put d.msc l.1 { l.2 with
          wr := 0, p := maskSub l.2.p l.2.wr, chain := 0, prot := false, first := true } })) s
      s.updDie e.1 (fun d => { d with chains := d.chains.filter (fun c => c != (v, chain)), epoch := d.epoch + 1 })) s
    s.updVd v (fun d => { d with objs := SMap.mapV (fun o =>
      if o.chain == chain && o.st == .hbm && o.pins.isEmpty then { o with st := .demoting } else o) d.objs })

/-- Status of a grid that completes (R395). -/
def Grid.status (g : Grid) : Nat :=
  if g.refused.isSome then csRefused else if g.fault then csFault else if g.trunc then csTrunc else csOk

/-- A grid may complete: nothing of it is left to dispatch, resident, detached or saved (R394). -/
def State.gridOver (s : State) (i : Nat) (g : Grid) : Bool :=
  g.parts.all (fun p => p.st == .running && p.ranges.isEmpty) && !s.teams.any (fun e => e.2.grid == i) &&
    g.det == 0 && g.saved == 0

/-- The last steps of completion: interrupt, parent's token, counters, chain, and the slot freed (R394, R403, R415). -/
def State.gridEnd (s : State) (i : Nat) (g : Grid) : State :=
  let s := if g.lr.int then s.interrupt g.vd g.lr.msix else s
  let s := match g.parent with
    | some _ => s.tokDone i (if g.refused.isSome then stRefused else stOk)
    | none => s
  let s := if g.status == csTrunc then s.count g.recv g.ctx (fun c => { c with trunc := State.ctr64 (c.trunc + 1) }) else s
  let s := { s with grids := SMap.del s.grids i }
  if g.lr.last && g.refused != some rsRecord then s.endChain g.vd g.lr.chain else s

/-- A child that the same group spawned before is not complete: this one does not complete before it (R292). -/
def State.olderSpawn (s : State) (i : Nat) (g : Grid) : Bool :=
  let ids (g : Grid) : List Nat := g.parent.elim [] (fun p => p.1 :: g.also)
  s.grids.any (fun e => e.1 < i && (ids e.2).any (fun k => (ids g).contains k))

/-- An engine operation of a grid is under way still (R394, step 1): a copy or a reduction, or a collective that a suspended
group left (R266). A retired group has no other (R181, R239), and the collective of a discarded group stays in its engine
(R310). -/
def State.gridBusy (s : State) (i : Nat) : Bool :=
  s.aops.any (fun o => o.2.grid == i) ||
    s.mod.colls.any (fun c => c.ranks.any (fun r => r.grid == i && !c.doneRanks.contains r.rank &&
      (SMap.get? s.dones r.id).any (fun d => d.live)))

/-- The completion record of a grid waits for the tier object of its page (R373), or behind an earlier record of the VD. -/
def State.reportWaits (s : State) (g : Grid) : Option State :=
  if s.devQ.any (fun a => a.vd == g.vd) then some s
  else ((s.ctxChk g.recv g.ctx 0 needW g.lr.compap g.lr.compoff 32).waits).map (fun o => s.awaitTier g.vd o)

/-- GRID_COMPLETE (R394). The event record waits for room in its queue (R409). -/
def evGridComplete (i : Nat) (s : State) : State :=
  match SMap.get? s.grids i with
  | none => s
  | some g =>
    if !s.gridOver i g || s.gridBusy i || s.olderSpawn i g then s
    else match if g.posted then none else s.reportWaits g with
    | some s => s
    | none =>
      let q := (g.parts.find? (fun p => p.die == g.recv)).elim 0xFFFF (fun p => p.qslot)
      let s := if g.posted then s else
        let s := s.drainAll
        if !s.quiet then s.askHost s.heldUpd
        else (s.ctxReport g.recv g.ctx g.lr.compap g.lr.compoff (complRecord g.status (g.refused.getD 0) q g.seq
          g.retired (g.wu / 1024) g.lr.gridid)).updGrid i (fun g => { g with posted := true })
      if !s.quiet && !g.posted then s
      else
        let cl := g.recv * 32 + g.lr.evcl % 32
        if g.lr.ev && evqMax ≤ (s.cluster cl).evq.length then s
        else
          let s := if g.lr.ev then s.evPost cl ⟨g.lr.evtag, g.vd, 3, BitVec.ofNat 32 (g.status + 256 * g.refused.getD 0), q,
            0, 0, 0, 0⟩ else s
          s.gridEnd i g

def execGridComplete (grid : Nat) (s : State) : Res := .next (evGridComplete grid s)

-- R388, R390: LAUNCH

/-- LAUNCH (R388, R390). A read of the record that meets a tier object waits for it (R373). -/
def evLaunch (new : Bool) (w : NotifyWr) (s : State) : State :=
  s.packet new 1 w (fun s v die queue p =>
    match s.ctxOf v (notifyPas w) with
    | (s, none) => s.refusePkt v rsPasid w
    | (s, some ctx) =>
      let refuse (s : State) (reason : Nat) : State :=
        (s.refusePkt v reason w).count die ctx (fun c => { c with refusals := State.ctr64 (c.refusals + 1) })
      if p.addr.toNat % 256 != 0 then refuse s rsRecord
      else match s.ctxRead die ctx 0 p.aper p.addr 256 256 with
        | .tier o => (s.awaitTier v o).putBack v w
        | .bad s _ => refuse s rsRecord
        | .ok s b ps => match s.acceptLaunch ctx die queue p.seq p.addr p.aper b (ps.any id) none none 0 with
          | .full => refuse s rsQuota
          | .wait o => (s.awaitTier v o).putBack v w
          | .ok s i => evGridComplete i s)

def execLaunch (w : NotifyWr) (s : State) : Res := .next (evLaunch true w s)

/-- The context of a grid is being cut, is stopped, or is revoked (R310, R319). -/
def State.ctxHeld (s : State) (ctx : Nat) : Bool :=
  match SMap.get? s.ctxs ctx with
  | some c => c.stopped || c.vstop || c.cut.isSome || c.faults.any (fun f => f.1 == 0xFFFF) || s.mod.viral
  | none => true

/-- A grid no longer keeps its successors from starting (R393). -/
def State.drained (s : State) (i : Option Nat) : Bool :=
  match i with
  | none => true
  | some k => match SMap.get? s.grids k with | some g => g.untaken == 0 && g.parts.all (fun p => p.st == .running) | none => true

/-- GRID_DISPATCH_START (R393, R409). -/
def evGridDispatchStart (i : Nat) (s : State) : State :=
  match SMap.get? s.grids i with
  | none => s
  | some g =>
    let queueOk := match g.prevQ with
      | none => true
      | some k => (SMap.get? s.grids k).isNone || (g.pred == some k && s.drained g.pred)
    if g.parts.any (fun p => p.st == .queued) && queueOk && s.drained g.pred && !s.ctxHeld g.ctx then
      let st : SlotSt := if g.lr.held && g.heldSeen < g.lr.waitcnt then .held else .dispatching
      s.updGrid i (fun g => { g with parts := g.parts.map (fun (p : Part) =>
        if p.st == .queued then { p with st := if p.ranges.isEmpty && st == .dispatching then .running else st } else p) })
    else s

def execGridDispatchStart (grid : Nat) (s : State) : Res := .next (evGridDispatchStart grid s)

-- R398: fair share

/-- Work units of a VD on a die in units of 1/256 (R397). -/
def Meter.wu256 (m : Meter) : Nat := m.wu1024 / 4

def Die.defOf (d : Die) (v : Nat) : Int := SMap.getD d.deficit 0 v

/-- FAIR_SHARE_CHARGE (R398): every VD's deficit falls by what it consumed since the last charge. -/
def evFairShareCharge (d : Nat) (s : State) : State :=
  s.updDie d (fun x => x.meter.foldl (fun (x : Die) e =>
    let now := e.2.wu256
    let was := SMap.getD x.charged 0 e.1
    { x with deficit := SMap.put x.deficit e.1 (x.defOf e.1 - ((now - was : Nat) : Int))
             charged := SMap.put x.charged e.1 now }) x)

/-- Every die charges, each 4,096 steps (R398, log 2). -/
def State.chargeAll (s : State) : State := (List.range s.mod.dies).foldl (fun s d => evFairShareCharge d s) s

def execFairShareCharge (die : Nat) (s : State) : Res := .next (evFairShareCharge die s)

/-- Rounds of credit until a VD has some (R398). -/
def creditRounds (d : Int) (w : Nat) : Nat := if 0 < d then 0 else (-d).toNat / (4096 * w) + 1

/-- `Select` among the VDs of T (R398). -/
def State.select (s : State) (d : Nat) (ts : List Nat) : State × Option Nat :=
  let x := s.die d
  let busy (v : Nat) : Bool := s.grids.any (fun e => e.2.vd == v && e.2.parts.any (fun p => p.die == d && p.st != .running))
  let df := SMap.keys x.deficit |>.foldl (fun m v =>
    if ts.contains v || busy v then m else SMap.put m v (min (SMap.getD m 0 v) 0)) x.deficit
  match ts with
  | [] => (s.setDie d { x with deficit := df }, none)
  | t :: rest =>
    let k := rest.foldl (fun m v => min m (creditRounds (SMap.getD df 0 v) (s.weight d v)))
      (creditRounds (SMap.getD df 0 t) (s.weight d t))
    let df := if k == 0 then df else ts.foldl (fun m v =>
      let q := 4096 * s.weight d v
      SMap.put m v (min (SMap.getD m 0 v + (k * q : Nat)) ((64 * q : Nat) : Int))) df
    let ok := ts.filter (fun v => 0 < SMap.getD df 0 v)
    match (ok.filter (fun v => x.rr < v)).foldl min 256 with
    | 256 =>
      let v := ok.foldl min 256
      (s.setDie d { x with deficit := df, rr := v }, some v)
    | v => (s.setDie d { x with deficit := df, rr := v }, some v)

-- R401, R402: handing out work

/-- A requester: a core, or from 65,536 on a cluster. -/
def reqCluster (q : Nat) : Bool := 65536 ≤ q
def reqNum (q : Nat) : Nat := q % 65536
def reqDie (q : Nat) : Nat := if reqCluster q then reqNum q / 32 else reqNum q / 128

/-- Cores of a requester with a free shadow slot, none in a retired cluster (R473); for a fused grid, those with no
team of another block (R402). -/
def State.shadowCores (s : State) (q : Nat) (fuse : Bool) : List Nat :=
  let cs := if reqCluster q then (List.range 4).map (fun i => reqNum q * 4 + i) else [reqNum q]
  cs.filter (fun c => !(s.cluster (c / 4)).retired && (s.core c).shadow.length < 2 && (!fuse || !s.teams.any (fun e => e.2.core == c)))

/-- A part that the requester could take work from (R399, R401). -/
def State.canTake (s : State) (q : Nat) (g : Grid) : Bool :=
  (g.desc.n != 1) == reqCluster q && g.desc.n ≤ (s.shadowCores q g.desc.fuse).length && !s.ctxHeld g.ctx &&
    0 < s.weight (reqDie q) g.vd &&
    g.parts.any (fun p => p.die == reqDie q && p.st == .dispatching && 0 < p.untaken)

/-- The requester holds an untaken team. -/
def State.holdsWork (s : State) (q : Nat) : Bool :=
  s.grids.any (fun e => (e.2.desc.n != 1) == reqCluster q && e.2.parts.any (fun p => p.die == reqDie q &&
    p.ranges.any (fun r => r.holder == some (reqNum q) && r.lo < r.hi)))

/-- The grid of a VD to serve (R399). -/
def bestGrid (gs : List (Nat × Grid)) : Option (Nat × Grid) :=
  gs.foldl (fun (b : Option (Nat × Grid)) e => match b with
    | none => some e
    | some x => if e.2.lr.prio % 4 < x.2.lr.prio % 4 then some e else some x) none

/-- A range is taken or split (R401); none when the grid is passed over. -/
def takeRange (n who : Nat) (rs : List Range) : Option (List Range) :=
  match rs.findIdx? (fun r => r.holder.isNone && r.lo < r.hi) with
  | some k => some (updAt rs k (fun r => { r with holder := some who }))
  | none =>
    match rs.zipIdx.foldl (fun (b : Option (Range × Nat)) r => match b with
        | none => some r
        | some x => if x.1.hi - x.1.lo < r.1.hi - r.1.lo ||
            (x.1.hi - x.1.lo == r.1.hi - r.1.lo && r.1.holder.getD 0 < x.1.holder.getD 0) then some r else some x) none with
    | none => none
    | some (r, k) =>
      let u := r.hi - r.lo
      if u < 2 * n then none
      else
        let mid := r.lo + n * (u / (2 * n))
        some ((setAt rs k { r with hi := mid }) ++ [⟨mid, r.hi, some who⟩])

-- R405: shadow slots

/-- 4-byte words of bytes. -/
def wordsLe : Nat → List Byte → List Word
  | 0, _ => []
  | n + 1, bs => BitVec.ofNat 32 (leNat (bs.take 4)) :: wordsLe n (bs.drop 4)

/-- What preparing a team comes to. -/
inductive Prep
  | ok (s : State) (h : Shadow)
  | bad (s : State) (t : Trap)
  | tier (obj : Nat)

/-- Prepare a team (R405): its arguments (R114) and its TSINIT block. -/
def State.prep (s : State) (tid die : Nat) (g : Grid) : Prep :=
  match s.ctxRead die g.ctx 0 g.lr.argap g.lr.argoff g.desc.argbytes 4 with
  | .tier o => .tier o
  | .bad s t => .bad s t
  | .ok s a _ => match s.ctxRead die g.ctx 0 g.lr.tsap g.lr.tsoff g.lr.tslen 32 with
    | .tier o => .tier o
    | .bad s t => .bad s t
    | .ok s b ps => .ok s ⟨tid, true, wordsLe (g.desc.argbytes / 4) a, b, ps⟩

/-- The first fetch block at ENTRY is delivered to the core with the shadow slot (R405); where its translation fails, the
team's own fetch meets the failure. -/
def State.entryBlock (s : State) (core tid : Nat) (g : Grid) : State :=
  match s.chkPiece core g.ctx tid ⟨needX, false, false, 4⟩ g.lr.codeap (g.desc.entry &&& 0xFFFFFFFFFFFFFFE0) 32 with
  | .ok (seg :: _) _ => (s.codeBlock ⟨core, tid, g.ctx, 0, g.tag, false⟩ seg.pa seg.key seg.ms).1
  | _ => s

/-- What a team's preparation must wait for (R373). -/
def State.prepTier (s : State) (die : Nat) (g : Grid) : Option Nat :=
  (s.ctxTier die g.ctx g.lr.argap g.lr.argoff g.desc.argbytes).or
    (s.ctxTier die g.ctx g.lr.tsap g.lr.tsoff g.lr.tslen)

/-- A preparation fault (R405, R308 KIND 6): the grid is FAULTED. -/
def State.prepFault (s : State) (gi core lin : Nat) (g : Grid) (t : Trap) : State :=
  let q := (g.parts.find? (fun p => p.die == core / 128)).elim 0xFFFF (fun p => p.qslot)
  let s := s.fqPost g.vd (faultRecord t.cause 6 q core (s.mod.dieReg (core / 128)) 0xFF g.vd 0 t.tval t.tvalh (lin % 2 ^ 32))
  ((s.updGrid gi (fun g => { g with fault := true })).stopDispatch gi).cutGrid gi false

/-- Place a team's bytes in the team store (R347): bytes that a team of the same context held last stay and are
unpredictable; all others are zeroed with their poison flags. -/
def State.tsPlace (s : State) (c base size ctx : Nat) : State :=
  if size == 0 then s
  else
    let x := s.core c
    let cut (d : TsDef) : Nat × Nat := (max d.base base, min (d.base + d.size) (base + size))
    let shared := x.tsDef.filter (fun d => (cut d).1 < (cut d).2)
    let same := (shared.filter (fun d => d.ctx == ctx)).map (fun d => (⟨(cut d).1, (cut d).2 - (cut d).1, ctx, some s.draws⟩ : TsDef))
    let rest := x.tsDef.flatMap (fun (d : TsDef) =>
      if base ≤ d.base && d.base + d.size ≤ base + size then []
      else if (cut d).1 < (cut d).2 then
        (if d.base < base then [{ d with size := base - d.base }] else []) ++
          (if base + size < d.base + d.size then
            [{ d with base := base + size, size := d.base + d.size - (base + size) }] else [])
      else [d])
    let keep (a : Nat) : Bool := same.any (fun d => d.base ≤ a && a < d.base + d.size)
    (s.setCore c { x with
      ts := x.ts.filter (fun e => !(base ≤ e.1 && e.1 < base + size))
      tsP := x.tsP.filter (fun e => !(base ≤ 4 * e.1 && 4 * e.1 < base + size) || keep (4 * e.1))
      tsDef := same ++ [⟨base, size, ctx, none⟩] ++ rest }).draw

/-- The start value of a lane's `%rng` (R42). -/
def rngStart (seed : Word) (lin i : Nat) : Word :=
  let v := seed ^^^ (BitVec.ofNat 32 ((lin * 0x10000 + i) * 0x9E3779B9))
  if v == 0 then 1 else v

/-- `%role` of a launch group (R18). -/
def roleOf (t : Team) (k : Nat) : Nat := if t.p == 0 && t.c == 0 then 0 else if k < t.p then 1 else 2

/-- Vector budget of a role. -/
def budgetOf (t : Team) (role : Nat) : Nat := 8 * (match role with | 0 => t.vbN | 1 => t.vbP | _ => t.vbC)

/-- A launch group at its start (R26, R37, R42, R114). -/
def startGroup (g : Grid) (tid : Nat) (t : Team) (k born : Nat) (h : Shadow) : Group :=
  let e := g.lr.desc + g.desc.entry
  let xyz := curveTeam g.desc.curve g.desc.strip g.lr.gx g.lr.gy t.curve
  let role := roleOf t k
  { team := tid, slot := k, core := t.core, ctx := g.ctx
    id := ⟨k, role, xyz.1, xyz.2.1, xyz.2.2, g.lr.gx, g.lr.gy, g.lr.gz, t.shX, t.shY, t.shZ⟩
    vb := budgetOf t role, sn := t.sregs
    lanes := lanes32.map (fun l =>
      ⟨.active, e, 0, [], rngStart g.lr.seed t.lin (32 * k + l), 0, none, false, 0⟩)
    s := (h.args.zipIdx.filter (fun a => a.1 != 0)).map (fun a => (a.2, ⟨false, 0, a.1⟩))
    ap := g.lr.apers, toks := (List.range 16).map (fun _ => Tok.init), stack := [], prog := 0
    tvec := if g.desc.tvec == 0 then 0 else g.lr.desc + g.desc.tvec
    tcause := 0, tpc := 0, tval := 0, tvalh := 0, code := g.lr.codeap, desc := g.lr.desc, rmode := 0, fflags := 0, lsel := 0
    inH := false, hDepth := 0, wT := [], wC := [], wG := [], released := false, pend := [], eres := []
    parked := false, wait := .no, held := none, halted := none, key := none, fresh := true, born := born }

/-- A resident team is marked runnable (R405): its team store is cleared, TSINIT written, its groups start. -/
def State.startTeam (s : State) (tid : Nat) (h : Shadow) : State :=
  match SMap.get? s.teams tid with
  | none => s
  | some t => match SMap.get? s.grids t.grid with
    | none => s
    | some g =>
      let s := s.tsPlace t.core t.tsBase t.scratch g.ctx
      let s := (List.range (h.init.length / 32)).foldl (fun s k =>
        s.tsWrite t.core (t.tsBase + 32 * k) ((h.init.drop (32 * k)).take 32) (h.initP.getD k false)) s
      let born := s.nid
      let s := (List.range t.g).foldl (fun s k =>
        (s.setGroup s.nid (startGroup g tid t k born h)).fresh) s
      let side : BarSide := ⟨t.span * t.g, 0, 0⟩
      let s := s.updGrid t.grid (fun g => { g with
        ran := g.ran + 1
        blocks := if t.span == 1 || (SMap.get? g.blocks t.block).isSome then g.blocks
          else SMap.put g.blocks t.block (List.replicate 4 side)
        bars := if g.desc.cores && g.bars.isEmpty
          then (List.range 4).map (fun n => (n, (⟨t.g * g.teams, 0, 0⟩ : BarSide))) else g.bars })
      if g.ran == 0 then
        let q := Config.freeNat s.draws
        (((s.count g.recv g.ctx (fun c => { c with qwait := c.qwait + q })).meter g.recv g.vd
          (fun m => { m with qwait := satAdd m.qwait q }))).draw
      else s

/-- Prepare and start teams that hold their resources (R406). -/
def State.startAll (s : State) (gi : Nat) : List Nat → State
  | [] => s
  | tid :: r =>
    match SMap.get? s.teams tid, SMap.get? s.grids gi with
    | some t, some g =>
      match s.prep tid (t.core / 128) g with
      | .ok s h => (s.startTeam tid h).startAll gi r
      | .bad s e => s.prepFault gi t.core t.lin g e
      | .tier o => s.awaitTier g.vd o
    | _, _ => s

/-- The core of a rank of a team's block. -/
def State.rankCore (s : State) (t : Team) (r : Nat) : Nat :=
  (s.teams.find? (fun e => e.2.grid == t.grid && e.2.block == t.block && !e.2.det && e.2.rank == r)).elim t.core (fun e => e.2.core)

/-- Cores of fused teams send their L1s to L2 and drop them before the first issue; each team then knows the block's cores by
rank (R351). -/
def State.fuseCores (s : State) (tids : List Nat) : State :=
  tids.foldl (fun s i => match SMap.get? s.teams i with
    | some t =>
      if t.fuse then
        (s.unfuse ⟨t.core, 0, 0, 0, 0, false⟩ [t.core]).updTeam i (fun t => { t with cores := (List.range t.span).map (s.rankCore t) })
      else s
    | none => s) s

/-- Place a co-resident grid whole, or let its dies wait for it (R406). -/
def State.placeWhole (s : State) (gi : Nat) (g : Grid) : State :=
  match g.parts.findSome? (fun p => s.prepTier p.die g) with
  | some o => s.awaitTier g.vd o
  | none => match s.seatWhole gi g with
    | none => if g.placing then s else s.updGrid gi (fun g => { g with placing := true })
    | some (s, tids) =>
      let s := s.updGrid gi (fun g => { g with
        placing := false, parts := g.parts.map (fun (p : Part) => { p with st := .running, ranges := [] }) })
      (s.fuseCores tids).startAll gi tids

/-- The grid that a die waits for (R406). -/
def State.placingOn (s : State) (d : Nat) : Option (Nat × Grid) :=
  s.grids.find? (fun e => e.2.placing && e.2.parts.any (fun p => p.die == d && 0 < p.untaken))

/-- `Take` (R401) with the grids `ex` passed over. -/
def State.takeWork (q : Nat) : Nat → List Nat → State → State
  | 0, _, s => s
  | f + 1, ex, s =>
    let d := reqDie q
    let cand := s.grids.filter (fun e => !ex.contains e.1 && s.canTake q e.2)
    match s.select d ((cand.map (fun e => e.2.vd)).eraseDups) with
    | (s, none) => s
    | (s, some v) =>
      match bestGrid (cand.filter (fun e => e.2.vd == v)) with
      | none => s
      | some (i, g) =>
        if g.desc.cores then s.placeWhole i g
        else match g.parts.find? (fun p => p.die == d) with
          | none => s
          | some p => match takeRange g.desc.n (reqNum q) p.ranges with
            | some rs => s.updGrid i (fun g => { g with parts := g.parts.map (fun (x : Part) =>
                if x.die == d then { x with ranges := rs } else x) })
            | none => State.takeWork q f (i :: ex) s

/-- WORK_REQUEST (R398-R402, R406). -/
def evWorkRequest (q : Nat) (s : State) : State :=
  match s.placingOn (reqDie q) with
  | some e => if s.ctxHeld e.2.ctx then s else s.placeWhole e.1 e.2
  | none => if s.holdsWork q || (s.shadowCores q false).isEmpty then s else State.takeWork q (s.grids.length + 1) [] s

def execWorkRequest (req : Nat) (s : State) : Res := .next (evWorkRequest req s)

/-- A part whose teams are all taken is RUNNING (R392). -/
def Part.settle (p : Part) : Part :=
  let rs := p.ranges.filter (fun r => r.lo < r.hi)
  { p with ranges := rs, st := if rs.isEmpty && p.st == .dispatching then .running else p.st }

/-- The cores that take the next team, or block, of a grid that the core or its cluster holds a range of (R405): the range and
the cores, if each has a free shadow slot and the context runs. -/
def State.nextTake (s : State) (c : Nat) (g : Grid) : Option (Range × List Nat) :=
  let n := g.desc.n
  let who := if n == 1 then c else c / 4
  let cs := (s.shadowCores (if n == 1 then c else 65536 + c / 4) g.desc.fuse).take n
  if cs.length < n || s.ctxHeld g.ctx then none
  else ((g.parts.find? (fun p => p.die == c / 128 && p.st == .dispatching)).bind (fun p =>
    p.ranges.find? (fun r => r.holder == some who && r.lo < r.hi))).map (fun r => (r, cs))

/-- TEAM_PREPARE (R405): the core, or its cluster for a block, takes its next team into a shadow slot, and it is
prepared; a preparation that meets a tier object waits (R373). -/
def evTeamPrepare (c : Nat) (s : State) : State :=
  match s.grids.findSome? (fun e => (s.nextTake c e.2).map (fun x => (e.1, e.2, x))) with
  | none => s
  | some (i, g, r, cs) =>
    let n := g.desc.n
    match s.prepTier (c / 128) g with
    | some o => s.awaitTier g.vd o
    | none =>
      let s := s.updGrid i (fun g => { g with parts := g.parts.map (fun (p : Part) =>
        if p.die == c / 128 then
          ({ p with ranges := p.ranges.map (fun (x : Range) => if x == r then { x with lo := x.lo + n } else x) } : Part).settle
        else p) })
      let ts := blockTeams g i s.nid cs r.lo
      let s := { s with nid := s.nid + n }
      let s := ts.foldl (fun s x =>
        ({ s with teams := SMap.put s.teams x.1 { x.2.2 with core := x.2.1 } }).updCore x.2.1 (fun k =>
          { k with shadow := k.shadow ++ [(⟨x.1, false, [], [], []⟩ : Shadow)] })) s
      match s.prep 0 (c / 128) g with
      | .tier o => s.awaitTier g.vd o
      | .bad s e => s.prepFault i (cs.headD c) ((ts.head?.map (fun x => x.2.2.lin)).getD 0) g e
      | .ok s h => ts.foldl (fun s x => (s.entryBlock x.2.1 x.1 g).updCore x.2.1 (fun k => { k with
          shadow := k.shadow.map (fun (y : Shadow) => if y.team == x.1 then { h with team := x.1 } else y) })) s

def execTeamPrepare (core : Nat) (s : State) : Res := .next (evTeamPrepare core s)

/-- The members of a team's block that wait in shadow slots, by rank, with their shadow slots. -/
def State.blockOf (s : State) (tid : Nat) (t : Team) : List (Nat × Team × Shadow) :=
  (s.teams.filter (fun e => e.1 == tid || (1 < t.span && e.2.grid == t.grid && e.2.block == t.block && !e.2.det))).filterMap
    (fun e => ((s.core e.2.core).shadow.find? (fun h => h.team == e.1)).map (fun h => (e.1, e.2, h)))

/-- TEAM_RUNNABLE (R404, R405): the first prepared team of a core's shadow slots whose resources, with those of its
block, fit. -/
def evTeamRunnable (c : Nat) (s : State) : State :=
  if (s.placingOn (c / 128)).isSome then s
  else
    let go := (s.core c).shadow.findSome? (fun h =>
      match SMap.get? s.teams h.team with
      | none => none
      | some t =>
        let ms := s.blockOf h.team t
        let held := match SMap.get? s.grids t.grid with | some g => s.ctxHeld g.ctx | none => true
        if held || ms.length != t.span || !ms.all (fun m => m.2.2.ready) then none
        else (s.holdAll (ms.map (fun m => (m.1, m.2.1.core, m.2.1)))).map (fun s' => (s', ms)))
    match go with
    | none => s
    | some (s', ms) => ms.foldl (fun s m => if m.2.1.det then s else s.startTeam m.1 m.2.2) (s'.fuseCores (ms.map (fun m => m.1)))

def execTeamRunnable (core : Nat) (s : State) : Res := .next (evTeamRunnable core s)

end Sys2Proof.Machine
end

