-- ==== Sys2Proof/Machine/Packet.lean ====
section
/-! DEFINITION. The packets of the reliable transport, byte by byte, the frames that carry them, and connections (18 R450-R453).
-/

namespace Sys2Proof.Machine

-- CRC-32C (R452): the Castagnoli polynomial, reflected, initial value and final exclusive-or all ones (log 104).

def crc32Bit (c : Nat) : Nat := if c.testBit 0 then (c / 2) ^^^ 0x82F63B78 else c / 2

def crc32Byte (c : Nat) (b : Byte) : Nat :=
  crc32Bit (crc32Bit (crc32Bit (crc32Bit (crc32Bit (crc32Bit (crc32Bit (crc32Bit (c ^^^ b.toNat))))))))

def crc32c (bs : List Byte) : Nat := (bs.foldl crc32Byte (2 ^ 32 - 1)) ^^^ (2 ^ 32 - 1)

/-- The 32-byte header and the payload (R452). -/
def NetMsg.body (p : NetMsg) : List Byte :=
  [1] ++ leBytes 1 p.opc ++ [0, 0] ++ leBytes 4 p.comm ++ leBytes 2 p.src ++ leBytes 2 p.dst ++ leBytes 4 p.psn ++
    leBytes 4 p.msg ++ leBytes 4 p.offset ++ leBytes 4 p.ack ++ leBytes 2 p.data.length ++ [0, 0] ++ p.data

/-- The UDP payload: header, payload and CRC. -/
def NetMsg.bytes (p : NetMsg) : List Byte := p.body ++ leBytes 4 (crc32c p.body)

/-- A packet read back; none where its CRC fails or it is no packet of this form (R452, R453). -/
def NetPkt.msg? (q : NetPkt) : Option NetMsg :=
  let b := q.bytes
  let n := fld b 0x1C 2
  if b.length == 36 + n && n ≤ 4096 && fld b 0 1 == 1 && fld b (32 + n) 4 == crc32c (b.take (32 + n)) then
    some ⟨fld b 1 1, fld b 4 4, fld b 8 2, fld b 0x0A 2, fld b 0x0C 4, fld b 0x10 4, fld b 0x14 4, fld b 0x18 4,
      (b.drop 32).take n⟩
  else none

-- Fields of an endpoint (R451)
def NetE.flag (e : NetE) (i : Nat) : Bool := (e.bytes.getD 0x16 0).getLsbD i
def NetE.field (e : NetE) (off n : Nat) : List Byte := (e.bytes.drop off).take n

/-- A frame from an endpoint of this module to another (R450-R452): the next hop, tag and DSCP are those of the endpoint it goes
to. -/
def netFrame (die : Nat) (a b : NetE) (p : NetMsg) : NetFrame :=
  ⟨die, b.field 0x10 6, if b.flag 1 then some (leNat (b.field 0x18 2)) else none, leNat (b.field 0x17 1) % 64,
    a.field 0 16, b.field 0 16, leNat (a.field 0x1A 2), leNat (b.field 0x1A 2), p.bytes⟩

/-- A communicator in force. -/
def Module.comm? (m : Module) (h : Nat) : Option Comm := match m.comms[h]? with | some c => if c.valid then some c else none | none => none

/-- A rank of a communicator in force. -/
def Module.rank? (m : Module) (h r : Nat) : Option Rank := (m.comm? h).bind (fun c => c.ranks[r]?)

/-- A rank lies in this module: one on the network path by an endpoint of the module's own dies (R449, R451,
log 122). -/
def Rank.here (m : Module) (r : Rank) : Bool := r.mod == m.modid && !(r.path == 2 && 16 ≤ r.endp)

/-- The data of two ranks travels over the mesh and CXL (R450). -/
def Rank.cxl (a b : Rank) : Bool := a.path == 1 && b.path == 1

/-- The endpoints of a connection, where the Ethernet ports carry packets between them (R446, R450, R451). -/
def Module.netPair (m : Module) (c : Conn) : Option (Nat × NetE × NetE) :=
  match m.rank? c.comm c.src, m.rank? c.comm c.dst with
  | some a, some b => match m.nets[a.die]?, m.nets[b.endp]? with
    | some x, some y => if m.neten && x.flag 0 && y.flag 0 then some (a.die, x, y) else none
    | _, _ => none
  | _, _ => none

/-- A packet of a connection leaves by the Ethernet port of its rank's die. -/
def State.netSend (s : State) (c : Conn) (p : NetMsg) : State :=
  match s.mod.netPair c with
  | some e => s.emit (.net (netFrame e.1 e.2.1 e.2.2 p))
  | none => s

def Conn.is (c : Conn) (h src dst : Nat) : Bool := c.comm == h && c.src == src && c.dst == dst

/-- The connection of a rank pair; a new one when there is none (R453). -/
def Module.conn (m : Module) (h src dst : Nat) : Conn :=
  (m.conns.find? (fun c => c.is h src dst)).getD ⟨h, src, dst, 0, 0, [], 0⟩

def Module.setConn (m : Module) (c : Conn) : Module :=
  { m with conns := m.conns.filter (fun x => !x.is c.comm c.src c.dst) ++ [c] }

/-- Packets of a message: at most 4,096 payload bytes each (R452). -/
def chunksOf : Nat → Nat → List Byte → List (Nat × List Byte)
  | 0, _, _ => []
  | f + 1, off, bs => if bs.isEmpty then [] else (off, bs.take 4096) :: chunksOf f (off + 4096) (bs.drop 4096)

/-- Send a message of a rank to another (R450): over CXL with the poison of its units (R460), over the Ethernet ports as packets of
the pair's connection. -/
def State.acSendTo (s : State) (h inst src dst : Nat) (a b : Rank) (x : CollMsg) : State :=
  (chunksOf (x.bytes.length / 4096 + 1) 0 x.bytes).foldl (fun s k =>
    let c := s.mod.conn h src dst
    if Rank.cxl a b then
      let p : NetMsg := ⟨1, h, src, dst, 0, inst, k.1, 0, k.2⟩
      s.emit (.engine (s.mod.portOf (a.die % 128))
        ⟨p.bytes, maskOf8 ((x.psn.filter (fun u => k.1 ≤ 32 * u && 32 * u < k.1 + 4096)).map (fun u => u - k.1 / 32))⟩)
    else
      let p : NetMsg := ⟨1, h, src, dst, c.psn, inst, k.1, c.expect, k.2⟩
      (s.updMod (fun m => m.setConn { c with psn := (c.psn + 1) % 2 ^ 32, unacked := c.unacked ++ [p] })).netSend c p) s

end Sys2Proof.Machine
end

