-- ==== Sys2Proof/Machine/Sync.lean ====
section
/-! DEFINITION. Collectives, barriers and dependent launch (09_isa_async_sync_system.md R250-R259, 18 R449-R453, 16 R406,
R408), one meaning for each instruction. -/

namespace Sys2Proof.Machine

-- R250 to R252: collectives

/-- Bytes of an element (R250). -/
def acBytes : AcTy → Nat
  | .f64 => 8
  | .bf16 => 2
  | _ => 4

/-- The code of a type in MOD[5:3]. -/
def acCode : AcTy → Nat
  | .f32 => 0 | .f64 => 1 | .i32 => 2 | .u32max => 3 | .bf16 => 4

/-- One combination (R251): a float sum rounded once by RNE with canonical NaNs, an integer sum modulo 2^32, or the
greater. -/
def acComb (ty : AcTy) (a b : Nat) : Nat :=
  let fl (f : Fmt) : Nat := (final f .rne false 0 (sumFV false [f.dec a, f.dec b]).1).bits
  match ty with
  | .f32 => fl .f32
  | .f64 => fl .f64
  | .bf16 => fl .bf16
  | .i32 => (a + b) % 2 ^ 32
  | .u32max => max a b

/-- The next level of the rank tree (R251). -/
def acLevel (ty : AcTy) : List Nat → List Nat
  | a :: b :: xs => acComb ty a b :: acLevel ty xs
  | xs => xs

/-- The root of the rank tree: levels up to 12. -/
def acTree (ty : AcTy) : Nat → List Nat → Nat
  | 0, xs => xs.headD 0
  | n + 1, xs => acTree ty n (acLevel ty xs)

/-- Elements that a rank sends and receives (R251): `kind` is FN. -/
def acSend (kind n p : Nat) : Nat := if kind == 2 then p * n else n
def acRecv (kind n p : Nat) : Nat := if kind == 1 then p * n else n

/-- What a rank contributes: operation, type, count, elements and their poison. -/
structure AcPart where
  kind : Nat
  ty : Nat
  n : Nat
  xs : List Nat
  pz : List Bool

/-- Units of a message in which an element with poison lies: elements begin at byte 32. -/
def poisonedUnits (w : Nat) (pz : List Bool) : List Nat :=
  ((pz.zipIdx.filter (fun p => p.1)).map (fun p => (32 + w * p.2) / 32)).eraseDups

/-- A message begins with 32 bytes that hold operation, type and count (log 25); the send buffer follows. -/
def acMsg (kind : Nat) (ty : AcTy) (n : Nat) (xs : List Nat) (pz : List Bool) : CollMsg :=
  ⟨leBytes 1 kind ++ leBytes 1 (acCode ty) ++ [0, 0] ++ leBytes 4 n ++ List.replicate 24 0 ++ xs.flatMap (leBytes (acBytes ty)),
    poisonedUnits (acBytes ty) pz⟩

/-- Bytes of an element by type code. -/
def acWidth (code : Nat) : Nat := if code == 1 then 8 else if code == 4 then 2 else 4

/-- A whole message read back; none while it is not all there. -/
def acParse (p : Nat) (x : CollMsg) : Option AcPart :=
  let k := fld x.bytes 0 1
  let t := fld x.bytes 1 1
  let n := fld x.bytes 4 4
  let m := acSend k n p
  if x.bytes.length < 32 || x.bytes.length < 32 + m * acWidth t then none
  else some ⟨k, t, n, numsOf m (acWidth t) (x.bytes.drop 32),
    (List.range m).map (fun i => x.psn.contains ((32 + acWidth t * i) / 32))⟩

def Coll.is (c : Coll) (h inst : Nat) : Bool := c.comm == h && c.inst == inst

/-- Change a pending collective, which begins when it is first named. -/
def Module.updColl (m : Module) (h inst : Nat) (f : Coll → Coll) : Module :=
  if m.colls.any (fun c => c.is h inst) then
    { m with colls := m.colls.map (fun c => if c.is h inst then f c else c) }
  else { m with colls := m.colls ++ [f ⟨h, inst, [], [], false, false, []⟩] }

/-- Elements of a buffer, each with its poison, read by the engine (R291, R301). -/
def State.acElems (s : State) (a : Acc) (w : Nat) (gs : List Seg) (n : Nat) : State × List Nat × List Bool :=
  (List.range n).foldl (fun x i =>
    let r := x.1.readSegs a .die .nrm (subSegs gs (i * w) w)
    (r.1, x.2.1 ++ [leNat r.2.1], x.2.2 ++ [r.2.2])) (s, [], [])

/-- The communicator and rank that an `acol` names, if its caller may (R250, R449). -/
def State.acolRank (s : State) (g : Group) (k : Com) : Option (Comm × Rank) :=
  let h := k.imm.toNat
  let r := k.ext.toNat % 2 ^ 16
  match s.mod.comm? h with
  | none => none
  | some c =>
    match c.ranks[r]?, SMap.get? s.ctxs g.ctx with
    | some q, some x =>
      if c.vd == g.ctx / 256 && q.mod == s.mod.modid && q.die == s.mod.dieReg (g.core / 128) && q.vd == g.ctx / 256 &&
          q.pasid == x.pasid then some (c, q) else none
    | _, _ => none

/-- Written bytes that the L1 of an agent holds for stretches go to L2: the release of named buffers (R252). -/
def State.l1Release (s : State) (a : Acc) (gs : List Seg) : State :=
  let ls := gs.flatMap (fun g => if g.ts then [] else linesOf g.pa g.len)
  (s.l1Cores a).foldl (fun s c => s.l1Flush a c (fun i _ => if ls.contains i then allBytes else 0)) s

def actAcol (kind : Nat) (x : AcolArgs) (gid : Nat) (c : GCtx) (s : State) : Act :=
  if c.g.tokPending x.tok then .wait s (tokWait x.tok)
  else match c.consume [(x.a, 2), (x.b, 2), (x.c, 1)] [c.low] with
    | some t => .trap s t
    | none =>
      let w := acBytes x.ty
      let sb := BitVec.ofNat 64 (c.data x.a c.low 2)
      let rb := BitVec.ofNat 64 (c.data x.b c.low 2)
      let n := c.data x.c c.low 1
      if sb.toNat % w != 0 then .trap s (memTrap 6 (c.g.aper x.ap) sb)
      else if rb.toNat % w != 0 then .trap s (memTrap 6 (c.g.aper x.ap) rb)
      else match s.acolRank c.g x.k with
        | none => .trap s ⟨5, x.k.imm.zeroExtend 64, 0⟩
        | some (cm, me) =>
          let p := cm.ranks.length
          let h := x.k.imm.toNat
          let r := x.k.ext.toNat % 2 ^ 16
          let snd := s.chk c.g gid ⟨needR, false, false, w⟩ x.ap sb (acSend kind n p * w)
          let rcv := s.chk c.g gid ⟨needW, false, false, w⟩ x.ap rb (acRecv kind n p * w)
          match chkLanes [snd, rcv] with
          | .ok _ es =>
            let held := s.hostLines rcv.segs
            if !held.isEmpty then .wait (s.askHost held) .fence
            else if !s.reachAll c.g.core false (snd.segs ++ rcv.segs) then s.hostWait
            else
              let s := (s.tlbFills c.g.core es).l1Release (s.accOf c.g 0) (snd.segs ++ rcv.segs)
              let a := engAcc c.g.core c.g.team c.g.ctx 1 (s.chainOf c.g.team)
              let was := s.readSegs a .die .nrm rcv.segs
              let d := was.1.acElems a w snd.segs (acSend kind n p)
              let id := s.nid
              let inst := SMap.getD s.mod.collSeq 0 (h * 4096 + r)
              let q : CollRank := ⟨r, gid, (c.g.ids gid).tail, c.g.ctx, c.g.core, c.g.team, s.teamGrid c.g.team, x.tok.map (fun t => t.toNat), id, kind, x.ty, n,
                snd.segs, rcv.segs, was.2.1, d.2.1, d.2.2⟩
              let s := d.1.fresh.updMod (fun m =>
                ({ m with collSeq := SMap.put m.collSeq (h * 4096 + r) (inst + 1) }).updColl h inst (fun k =>
                  { k with ranks := k.ranks ++ [q], doneRanks := if n == 0 then k.doneRanks ++ [r] else k.doneRanks }))
              let s := cm.ranks.zipIdx.foldl (fun s o =>
                if o.2 == r || (Rank.here s.mod o.1 && Rank.cxl me o.1) then s
                else s.acSendTo h (inst % 2 ^ 32) r o.2 me o.1 (acMsg kind x.ty n d.2.1 d.2.2)) s
              .done (s.withG gid (fun g =>
                if n == 0 then g.endTok x.tok .coll id stOk else g.startTok x.tok .coll id))
          | b => chkFail gid c s 2 b

def acrs (x : AcolArgs) : List (Opnd × Nat) := [(x.a, 2), (x.b, 2), (x.c, 1)]

def execAcolAllred (x : AcolArgs) (s : State) : Res := issue (.acolAllred x) x.k (acrs x) (actAcol 0 x) s
def execAcolAllgath (x : AcolArgs) (s : State) : Res := issue (.acolAllgath x) x.k (acrs x) (actAcol 1 x) s
def execAcolRedscat (x : AcolArgs) (s : State) : Res := issue (.acolRedscat x) x.k (acrs x) (actAcol 2 x) s

/-- What a rank contributed to a pending collective, as rank `r` has received it: inside the module it is there at once where both
ranks use the CXL path (R450). -/
def Coll.part (c : Coll) (rs : List Rank) (r q : Nat) : Option AcPart :=
  let p := rs.length
  let direct : Bool := r == q || (match rs[r]?, rs[q]? with | some a, some b => Rank.cxl a b | _, _ => false)
  match c.ranks.find? (fun x => x.rank == q && direct) with
  | some x => some ⟨x.kind, acCode x.ty, x.n, x.data, x.pz⟩
  | none => match SMap.get? c.remote (q * 65536 + r) with
    | some bs => acParse p bs
    | none => none

/-- The receive elements of rank `r` with their poison (R251). -/
def acResult (kind : Nat) (ty : AcTy) (n r : Nat) (ps : List AcPart) : List (Nat × Bool) :=
  let col (i : Nat) : Nat × Bool :=
    (acTree ty 13 (ps.map (fun p => p.xs.getD i 0)), ps.any (fun p => p.pz.getD i false))
  match kind with
  | 0 => (List.range n).map col
  | 1 => ps.flatMap (fun p => (List.range n).map (fun i => (p.xs.getD i 0, p.pz.getD i false)))
  | _ => (List.range n).map (fun i => col (r * n + i))

/-- A rank's token completes with a status (R252): its receive buffer holds the result, or unpredictable bytes where there is
none, where an access was discarded, which makes the status ERR (R241), or where the buffer changed while the collective was
pending; so does a send buffer that changed (log 83). The collective is over when its last rank here is complete. -/
def State.acEnd (s : State) (h : Nat) (c : Coll) (x : CollRank) (status : Byte) (res : Option (List (Nat × Bool))) : State :=
  let a := engAcc x.core x.team x.ctx 1 (s.chainOf x.team)
  let w := acBytes x.ty
  let lost := (x.send ++ x.recv).any (fun g => !g.ts && s.mod.anyLost g.pa g.len)
  let s := if lost then s.lostHit a.die a.ctx else s
  let now := s.readSegs a .die .nrm x.recv
  let sent := now.1.acElems a w x.send x.data.length
  let s := if sent.2.1 == x.data then s else s.scramble a x.send
  let s := match if lost || now.2.1 != x.was then none else res with
    | some r => r.zipIdx.foldl (fun (s : State) (e : (Nat × Bool) × Nat) =>
        let gs := subSegs x.recv (e.2 * w) w
        let s := s.writeSegs a .die .nrm gs (leBytes w e.1.1)
        if e.1.2 then s.poisonSegs a gs else s) s
    | none => s.scramble a x.recv
  let s := match x.tok with | some _ => s.tokDone x.id (if lost && status == stOk then stErr else status) | none => s
  s.updMod (fun m => m.updColl h c.inst (fun k => { k with doneRanks := k.doneRanks ++ [x.rank] }))

/-- Collectives whose ranks of this module are all complete are over. -/
def Module.sweepColls (m : Module) : Module :=
  { m with colls := m.colls.filter (fun k =>
      match m.comm? k.comm with
      | some cm => !(cm.ranks.zipIdx.all (fun o => !Rank.here m o.1 || k.doneRanks.contains o.2))
      | none => true) }

/-- A participation stands in the program order of some of the groups (R279). -/
def CollRank.mine (x : CollRank) (ids : List Nat) : Bool := ids.any (fun i => i == x.gid || x.also.contains i)

/-- An earlier collective of the group is not complete: this one does not complete before it (R292). -/
def Module.olderColl (m : Module) (x : CollRank) : Bool :=
  m.colls.any (fun c => c.ranks.any (fun y => y.mine (x.gid :: x.also) && y.id < x.id && !c.doneRanks.contains y.rank))

/-- How a collective ends for a rank: its status and result (R251, R252), or none while data of a participant is missing. A
communicator changed meanwhile leaves OK or WDRN, as a free value picks, and no result (R445). -/
def State.acOutcome (s : State) (h : Nat) (c : Coll) (x : CollRank) : Option (Byte × Option (List (Nat × Bool))) :=
  match s.mod.comm? h with
  | none => some (stWdrn, none)
  | some cm =>
    if c.wdrn then some (stWdrn, none)
    else if c.chg then some (if (Config.freeNat s.draws).testBit 0 then stWdrn else stOk, none)
    else
      let p := cm.ranks.length
      let ps := (List.range p).map (fun q => c.part cm.ranks x.rank q)
      if ps.any (fun o => o.isNone) then none
      else
        let ps := ps.filterMap id
        let bad := ps.any (fun o => o.kind != (ps.head?.elim 0 (fun z => z.kind)) ||
          o.ty != (ps.head?.elim 0 (fun z => z.ty)) || o.n != (ps.head?.elim 0 (fun z => z.n)))
        some (if bad then (stMismatch, none) else (stOk, some (acResult x.kind x.ty x.n x.rank ps)))

/-- A rank of a pending collective completes with an outcome. -/
def State.acFinish (s : State) (h : Nat) (c : Coll) (x : CollRank) (o : Byte × Option (List (Nat × Bool))) : State :=
  (s.draw.acEnd h c x o.1 o.2).updMod Module.sweepColls

/-- COLLECTIVE_COMPLETE (R251, R252): rank `r` has every participant's data, or a peer withdrew; in issue order within the
group (R292). As an acquire the die takes in every write issued so far. -/
def evCollectiveComplete (h r : Nat) (s : State) : State :=
  match s.mod.colls.find? (fun c => c.comm == h && c.ranks.any (fun x => x.rank == r) && !c.doneRanks.contains r) with
  | none => s
  | some c => match c.ranks.find? (fun x => x.rank == r) with
    | none => s
    | some x =>
      if s.mod.olderColl x then s
      else if !s.reachAll x.core false (x.send ++ x.recv) then s.askHost s.heldUpd
      else
        let t := s.joinAll (x.core / 128)
        match t.acOutcome h c x with
        | none => s
        | some o =>
          if t.joinedAll (x.core / 128) then t.acFinish h c x o else t.askHost t.heldUpd

def execCollectiveComplete (comm rank : Nat) (s : State) : Res := .next (evCollectiveComplete comm rank s)

/-- A participant of a collective that a test on ranks selects. -/
def Module.goneRank (m : Module) (sel : Rank → Bool) (c : Coll) (r : Nat) : Bool :=
  ((m.comms[c.comm]?).bind (fun k => k.ranks[r]?)).elim false sel

/-- The buffers of a collective whose participants withdraw become unpredictable: the receive buffer of one that withdraws (R252),
or, `named`, every buffer that a participant named (R435). -/
def State.collScramble (s : State) (sel : Rank → Bool) (named : Bool) (c : Coll) : State :=
  c.ranks.foldl (fun s x =>
    let a := engAcc x.core x.team x.ctx 1 (s.chainOf x.team)
    if c.doneRanks.contains x.rank then s
    else if named then s.scramble a (x.send ++ x.recv)
    else if s.mod.goneRank sel c x.rank then s.scramble a x.recv
    else s) s

/-- Participants withdraw (R252, R435): every pending collective of the communicators that a test on ranks selects loses them,
and its other ranks complete WDRN. -/
def State.withdraw (s : State) (sel : Rank → Bool) (named : Bool) : State :=
  let gone (c : Coll) : List Nat :=
    (List.range ((s.mod.comms[c.comm]?).elim 0 (fun k => k.ranks.length))).filter (s.mod.goneRank sel c)
  let s' := s.mod.colls.foldl (fun t c => if c.wdrn || (gone c).isEmpty then t else t.collScramble sel named c) s
  s'.updMod (fun m => ({ m with colls := m.colls.map (fun (c : Coll) =>
    if (gone c).isEmpty then c
    else { c with
      wdrn := true, ranks := c.ranks.filter (fun x => !(gone c).contains x.rank)
      doneRanks := c.doneRanks ++ (gone c).filter (fun r => !c.doneRanks.contains r) }) } : Module).sweepColls)

-- R253 to R258: barriers

/-- A cause 0x0A with its sub-code (R258). -/
def barTrap (n : Nat) : Trap := ⟨0x0A, BitVec.ofNat 64 n, 0⟩

/-- An arrival at a side (R254). -/
def BarSide.arrive (b : BarSide) : BarSide :=
  if b.tgt ≤ b.cnt + 1 then { b with cnt := 0, gen := b.gen + 1 } else { b with cnt := b.cnt + 1 }

/-- The generation exceeds a W count (R255). -/
def exceeds (gen w : Half) : Bool := let d := (gen - w).toNat; 1 ≤ d && d ≤ 0x7FFF

/-- The side a group arrives at and the one it waits on (R254): 0 FULL or plain, 1 EMPTY. -/
def arriveSide (b : TBar) (role : Nat) : Nat := if b.role && role == 2 then 1 else 0
def waitSide (b : TBar) (role : Nat) : Nat := if b.role && role == 1 then 1 else 0

/-- The scope of a level (R256). -/
def barScope : BLvl → Scope
  | .team => .team
  | .clus => .clus
  | .grid => .mod

/-- The die that holds a grid's barriers: the lowest of DIES (R406). -/
def Grid.holder (g : Grid) : Nat :=
  if g.lr.dies == 0 then g.recv else ((List.range 16).find? (fun d => g.lr.dies.testBit d)).getD g.recv

/-- What a `bar` works on: the team, its grid, and the sides. -/
structure BarAt where
  arr : Nat
  wai : Nat
  gen : Half

/-- The barrier of a group, if it is declared (R254, R258): the side it arrives at, the side it waits on and its
generation. -/
def State.barAt (s : State) (g : Group) (lvl : BLvl) (n : Nat) : Option BarAt :=
  match SMap.get? s.teams g.team with
  | none => none
  | some t =>
    if t.det then none
    else match lvl with
      | .team => (SMap.get? t.bars n).map (fun b =>
          let w := waitSide b g.id.role
          ⟨arriveSide b g.id.role, w, if w == 1 then b.empty.gen else b.full.gen⟩)
      | .clus =>
        if t.span == 1 then none
        else (SMap.get? s.grids t.grid).bind (fun k => (SMap.get? k.blocks t.block).map (fun b =>
          ⟨0, 0, (b.getD n ⟨0, 0, 0⟩).gen⟩))
      | .grid => (SMap.get? s.grids t.grid).bind (fun k =>
          if k.desc.cores then some ⟨0, 0, (SMap.getD k.bars ⟨0, 0, 0⟩ n).gen⟩ else none)

/-- An arrival reaches its barrier unit; one of a grid on another die than its holder's is on its way first (R406). -/
def State.arrive (s : State) (gid : Nat) (g : Group) (lvl : BLvl) (n side : Nat) : State :=
  match SMap.get? s.teams g.team with
  | none => s
  | some t =>
    match lvl with
    | .team => s.updTeam g.team (fun t => { t with bars := SMap.upd t.bars n (fun b =>
        if side == 1 then { b with empty := b.empty.arrive } else { b with full := b.full.arrive }) })
    | .clus => s.updGrid t.grid (fun k => { k with blocks := SMap.upd k.blocks t.block (fun b => updAt b n BarSide.arrive) })
    | .grid => s.updGrid t.grid (fun k =>
        if g.core / 128 == k.holder then { k with bars := SMap.upd k.bars n BarSide.arrive }
        else { k with fwd := k.fwd ++ [(gid, n)] })

/-- Arrivals of a group in flight (R313). -/
def State.inFlight (s : State) (gid : Nat) (g : Group) : Nat :=
  match SMap.get? s.teams g.team with
  | some t => (SMap.get? s.grids t.grid).elim 0 (fun k => (k.fwd.filter (fun f => f.1 == gid)).length)
  | none => 0

/-- The W count of a side (R255). -/
def Group.wCount (g : Group) (lvl : BLvl) (n side : Nat) : Half :=
  match lvl with
  | .team => SMap.getD g.wT 0 (2 * n + side)
  | .clus => SMap.getD g.wC 0 n
  | .grid => SMap.getD g.wG 0 n

def Group.bumpW (g : Group) (lvl : BLvl) (n side : Nat) : Group :=
  let v := g.wCount lvl n side + 1
  match lvl with
  | .team => { g with wT := SMap.set g.wT 0 (2 * n + side) v }
  | .clus => { g with wC := SMap.set g.wC 0 n v }
  | .grid => { g with wG := SMap.set g.wG 0 n v }

/-- A group of a team waits in a team-level wait whose generation has not come (R258). -/
def State.stuck (s : State) (g : Group) : Bool :=
  match g.wait with
  | .bar .team n side _ =>
    (match s.barAt g .team n with
     | some b => !exceeds b.gen (g.wCount .team n side)
     | none => false)
  | _ => false

/-- Every group of a team is stuck, and none is compacted (R258): no side awaited can complete. -/
def State.deadlocked (s : State) (tid : Nat) : Bool :=
  (s.groupsOf tid).all (fun e => !e.2.compacted && s.stuck e.2)

/-- BARRIER_DEADLOCK (R258): every group of the team raises it, this one last. -/
def State.deadlock (s : State) (tid gid : Nat) : State :=
  (s.groupsOf tid).foldl (fun s e => if e.1 == gid then s else takeTrap s e.1 (barTrap 3)) s

/-- The wait of a barrier (R255, R256, R258), of `.sync` or of `.wait`. -/
def barWait (sync : Bool) (lvl : BLvl) (n : Nat) (gid : Nat) (c : GCtx) (s : State) : Act :=
  match SMap.get? s.groups gid with
  | none => .done s
  | some g => match s.barAt g lvl n with
    | none => .trap s (barTrap 1)
    | some b =>
      let w : Wait := .bar lvl n b.wai sync
      if exceeds b.gen (g.wCount lvl n b.wai) then
        let s := s.handOff c.g (barScope lvl)
        if s.handedOff c.g (barScope lvl) then .done (s.withG gid (fun g => g.bumpW lvl n b.wai))
        else .wait (s.askHost s.heldUpd) w
      else
        let s' := s.withG gid (fun g => { g with wait := w })
        if lvl == .team && s'.deadlocked g.team then .trap (s.deadlock g.team gid) (barTrap 3)
        else .wait s w

/-- The arrival of a barrier as a release (R256), then what follows it. -/
def barArrive (x : BarArgs) (b : BarAt) (gid : Nat) (c : GCtx) (s : State) (k : State → Act) : Act :=
  releaseThen (barScope x.lvl) x.eng .fence gid c s fun s =>
    if x.lvl != .team && 16 ≤ s.inFlight gid c.g then .wait s .arrivals
    else k (s.arrive gid c.g x.lvl x.n.toNat b.arr)

/-- `bar` (R253-R258): `op` 0 arrive, 1 wait, 2 sync. A counted arrival of `.sync` is marked by `%prog`, and inside a
handler, where `%prog` is kept (R309), by the wait. -/
def actBar (op : Nat) (x : BarArgs) (gid : Nat) (c : GCtx) (s : State) : Act :=
  let n := x.n.toNat
  match s.barAt c.g x.lvl n with
  | none => .trap s (barTrap 1)
  | some b =>
    if c.g.compacted then .trap s (barTrap 2)
    else
      let counted := c.g.prog != 0 || (c.g.inH && c.g.wait == .bar x.lvl n b.wai true)
      if op == 0 then barArrive x b gid c s .done
      else if op == 1 || counted then barWait (op == 2) x.lvl n gid c s
      else barArrive x b gid c s (fun s => barWait true x.lvl n gid c (s.withG gid (fun g => g.setProg 1)))

def execBarArrive (x : BarArgs) (s : State) : Res := issue (.barArrive x) x.k [] (actBar 0 x) s
def execBarWait (x : BarArgs) (s : State) : Res := issue (.barWait x) x.k [] (actBar 1 x) s
def execBarSync (x : BarArgs) (s : State) : Res := issue (.barSync x) x.k [] (actBar 2 x) s

/-- An arrival or a release counts where its grid holds its barriers (R259, R406). -/
def Grid.take (g : Grid) (n : Nat) : Grid :=
  if n == 4 then { g with relTeams := g.relTeams + 1 } else { g with bars := SMap.upd g.bars n BarSide.arrive }

/-- BARRIER_ARRIVAL_FORWARD (R313, R406): the `n`-th arrival or release on its way reaches the die that counts it. -/
def evBarrierArrivalForward (i n : Nat) (s : State) : State :=
  match SMap.get? s.grids i with
  | some g => match g.fwd[n]? with
    | some f => s.updGrid i (fun g => { g.take f.2 with fwd := g.fwd.eraseIdx n })
    | none => s
  | none => s

def execBarrierArrivalForward (grid n : Nat) (s : State) : Res := .next (evBarrierArrivalForward grid n s)

-- R259, R408: dependent launch

/-- The grid named as predecessor is released. -/
def State.predReleased (s : State) (tid : Nat) : Bool :=
  match SMap.get? s.teams tid with
  | some t => match SMap.get? s.grids t.grid with
    | some g => match g.pred with | some p => s.gridReleased p | none => true
    | none => true
  | none => true

def actGate (gid : Nat) (c : GCtx) (s : State) : Act :=
  if !s.predReleased c.g.team then .wait s .gate
  else
    let s := s.handOff c.g .mod
    if s.handedOff c.g .mod then .done s else .wait (s.askHost s.heldUpd) .gate

def execGate (k : Com) (s : State) : Res := issue (.gate k) k [] actGate s

/-- The release of a team, if this group's completes it, counts at the die that holds its grid's barriers; from another die
it is on its way first (R259, R313). -/
def State.sendRelease (s : State) (gid : Nat) (g : Group) : State :=
  let t := s.countRelease g.team false
  match SMap.get? s.teams g.team with
  | none => s
  | some tm => match SMap.get? s.grids tm.grid, SMap.get? t.grids tm.grid with
    | some k, some k' =>
      if k'.relTeams == k.relTeams || g.core / 128 == k.holder then t
      else t.updGrid tm.grid (fun k => { k with relTeams := k.relTeams - 1, fwd := k.fwd ++ [(gid, 4)] })
    | _, _ => t

def actRels (eng : Bool) (gid : Nat) (c : GCtx) (s : State) : Act :=
  releaseThen .mod eng .fence gid c s fun s =>
    if 16 ≤ s.inFlight gid c.g then .wait s .arrivals
    else .done ((s.withG gid (fun g => { g with released := true })).sendRelease gid c.g)

def execRels (k : Com) (eng : Bool) (s : State) : Res := issue (.rels k eng) k [] (actRels eng) s

end Sys2Proof.Machine
end

