-- ==== Sys2Proof/Machine/Objects.lean ====
section
/-! DEFINITION. Continuation objects: their layout, and how a group is written to one and loaded from one
(09_isa_async_sync_system.md R262-R265, 13 R332). -/

namespace Sys2Proof.Machine

-- R262, R263: layout

/-- Derived offsets of a body with scalar count `n` and vector budget `v`. -/
def objV0 (n : Nat) : Nat := (0x200 + 8 * n + 63) / 64 * 64
def objK0 (n v : Nat) : Nat := objV0 n + 192 * v
def objG0 (n v : Nat) : Nat := objK0 n v + 64
def objT0 (n v : Nat) : Nat := objG0 n v + 128

/-- Pad a field to a size. -/
def padTo (n : Nat) (bs : List Byte) : List Byte := (bs ++ List.replicate (n - bs.length) 0).take n

/-- A scalar record (R202). -/
def sRecord (i : Image) : List Byte := leBytes 4 i.d.toNat ++ [i.g, BitVec.ofNat 8 i.p.toNat, 0, 0]

/-- A vector record of 32 lanes (R202). -/
def vRecord (is : List Image) : List Byte :=
  is.flatMap (fun i => leBytes 4 i.d.toNat) ++ is.map (fun i => i.g) ++ is.map (fun i => BitVec.ofNat 8 i.p.toNat)

/-- Codes of lane states (R32). -/
def laneCode : LaneSt → Nat
  | .active => 0 | .deferred => 1 | .ejected => 2 | .exited => 3

def laneOfCode (n : Nat) : LaneSt :=
  match n % 4 with | 0 => .active | 1 => .deferred | 2 => .ejected | _ => .exited

/-- Engine bytes of token entries (R332). -/
def engCode : Eng → Nat
  | .copy => 1 | .mred => 2 | .coll => 3 | .spawn => 4 | .none => 0

def engOfCode (n : Nat) : Eng :=
  match n with | 1 => .copy | 2 => .mred | 3 => .coll | 4 => .spawn | _ => .none

/-- Tokens that are not free, ascending (R332). -/
def Group.heldToks (g : Group) : List (Nat × Tok) :=
  (g.toks.zipIdx.filter (fun t => t.1.st != .free)).map (fun t => (t.2, t.1))

/-- A token entry (R263). -/
def tokEntry (t : Nat × Tok) : List Byte :=
  leBytes 1 t.1 ++ [if t.2.st == .pending then 1 else 2, if t.2.st == .pending then 0 else t.2.status] ++
    leBytes 1 (engCode t.2.eng) ++ [0, 0, 0, 0] ++ leBytes 8 t.2.op

/-- A path-stack entry (R263). -/
def stackEntry (e : Entry) : List Byte :=
  leBytes 4 e.mask.toNat ++ leBytes 1 e.join ++ [0, 0, 0] ++ leBytes 8 e.pc.toNat ++ leBytes 8 e.focal.toNat

/-- The body of a group (R263). -/
def objBody (g : Group) : List Byte :=
  let ls := lanes32.map g.lane
  ls.flatMap (fun l => leBytes 8 l.pc.toNat) ++
  ls.map (fun l => BitVec.ofNat 8 (laneCode l.st)) ++
  padTo 192 (g.stack.reverse.flatMap stackEntry) ++
  ls.map (fun l => l.pr.zeroExtend 8) ++
  padTo (objV0 g.sn - 0x200) ((List.range g.sn).flatMap (fun r => sRecord (g.sImg r))) ++
  (List.range g.vb).flatMap (fun r => vRecord (lanes32.map (fun l => g.vImg l r))) ++
  (padTo 14 (g.ap.flatMap (fun a => leBytes 2 a.toNat)) ++ [0, 0] ++ leBytes 4 g.prog.toNat ++ leBytes 4 g.rmode.toNat ++
    leBytes 4 g.fflags.toNat ++ [0, 0, 0, 0] ++ leBytes 8 g.tvec.toNat ++
    leBytes 4 g.id.teamX ++ leBytes 2 g.id.teamY ++ leBytes 2 g.id.teamZ ++
    leBytes 4 g.id.gridX ++ leBytes 2 g.id.gridY ++ leBytes 2 g.id.gridZ ++
    leBytes 2 g.id.shX ++ leBytes 2 g.id.shY ++ leBytes 2 g.id.shZ ++ leBytes 1 g.id.grp ++ [0]) ++
  ls.flatMap (fun l => leBytes 4 l.rng.toNat) ++
  g.heldToks.flatMap tokEntry

/-- Bytes of the body of a group. -/
def bodySize (g : Group) : Nat := objT0 g.sn g.vb + 16 * g.heldToks.length

/-- OWNER of a context (R262). -/
def State.owner (s : State) (ctx : Nat) : Nat :=
  ctx / 256 * 2 ^ 20 + (SMap.get? s.ctxs ctx).elim 0 (fun c => c.pasid)

-- STATE of an object (R262).
def stEmpty : Nat := 0
def stSusp : Nat := 1
def stResuming : Nat := 2
def stConsumed : Nat := 3
def stDiscarded : Nat := 4

/-- The header of a group's object (R262). `flags` holds STP and PRE. -/
def objHeader (g : Group) (flags gen state rights wdie owner cap crc : Nat) : List Byte :=
  let n := g.heldToks.length
  leBytes 4 0x4B54434F ++ leBytes 2 1 ++ leBytes 2 (flags + if n == 0 then 0 else 1) ++ leBytes 8 gen ++
    leBytes 4 state ++ leBytes 2 rights ++ leBytes 1 wdie ++ [0] ++ leBytes 4 owner ++ leBytes 4 cap ++
    leBytes 8 g.desc.toNat ++ leBytes 2 g.code.toNat ++ List.replicate 6 0 ++
    leBytes 1 g.id.role ++ leBytes 1 (g.vb / 8) ++ leBytes 1 g.sn ++ leBytes 1 g.stack.length ++ List.replicate 12 0 ++
    leBytes 4 (0x80 + objT0 g.sn g.vb) ++ leBytes 4 n ++ leBytes 8 (bodySize g) ++ leBytes 8 crc ++ List.replicate 40 0

-- Reading an object back

/-- Fields of a header (R262). -/
structure Hdr where
  magic : Nat
  version : Nat
  flags : Nat
  gen : Nat
  state : Nat
  rights : Nat
  wdie : Nat
  owner : Nat
  code : Nat
  caper : Nat
  role : Nat
  vbud : Nat
  sregs : Nat
  depth : Nat
  tokoff : Nat
  tokcnt : Nat
  size : Nat
  crc : Nat

def parseHdr (b : List Byte) : Hdr :=
  ⟨fld b 0 4, fld b 4 2, fld b 6 2, fld b 8 8, fld b 0x10 4, fld b 0x14 2, fld b 0x16 1, fld b 0x18 4,
   fld b 0x20 8, fld b 0x28 2, fld b 0x30 1, fld b 0x31 1, fld b 0x32 1, fld b 0x33 1, fld b 0x40 4, fld b 0x44 4,
   fld b 0x48 8, fld b 0x50 8⟩

/-- Continuation with a sub-code, the STATE and the GEN found (R264). -/
def contTrap (sub state gen : Nat) : Trap :=
  ⟨8, BitVec.ofNat 64 (sub + state % 256 * 256 + gen % 2 ^ 48 * 2 ^ 16), 0⟩

def Hdr.trap (h : Hdr) (sub : Nat) : Trap := contTrap sub h.state h.gen

/-- The layout checks of sub-code HEADER (R264). -/
def Hdr.layoutOk (h : Hdr) : Bool :=
  h.role ≤ 2 && 1 ≤ h.vbud && h.vbud ≤ 24 && 1 ≤ h.sregs && h.sregs ≤ 60 && h.depth ≤ 8 && h.tokcnt ≤ 16 &&
    (h.flags.testBit 0 == (h.tokcnt != 0)) && h.code % 128 == 0 && h.tokoff == 0x80 + objT0 h.sregs (8 * h.vbud) &&
    h.size == objT0 h.sregs (8 * h.vbud) + 16 * h.tokcnt

/-- The checks of `resm`, `ccpy` and `cdsc` on an object, in their order (R264, R265, R267). `right` is the bit of RIGHTS
needed. -/
def Hdr.check (h : Hdr) (right die owner : Nat) : Option Trap :=
  if h.magic != 0x4B54434F || h.version != 1 then some (h.trap 3)
  else if !h.layoutOk then some (h.trap 0x0E)
  else if h.state == stConsumed then some (h.trap 1)
  else if h.state == stDiscarded then some (h.trap 2)
  else if h.state == stResuming then some (h.trap 6)
  else if h.state != stSusp then some (h.trap 7)
  else if h.owner != owner then some (h.trap 5)
  else if !h.rights.testBit right || (h.wdie != die && !h.rights.testBit 3) then some (h.trap 4)
  else none

/-- An image of a record. -/
def imageAt (d gl po : List Byte) : Image :=
  ⟨(po.headD 0).getLsbD 0, gl.headD 0, BitVec.ofNat 32 (leNat d)⟩

/-- The lanes of a body. -/
def bodyLanes (h : Hdr) (b : List Byte) : List Lane :=
  let v0 := objV0 h.sregs
  let g0 := objG0 h.sregs (8 * h.vbud)
  lanes32.map (fun l =>
    let vs := (List.range (8 * h.vbud)).filterMap (fun r =>
      let o := v0 + 192 * r
      let i := imageAt ((b.drop (o + 4 * l)).take 4) ((b.drop (o + 0x80 + l)).take 1) ((b.drop (o + 0xA0 + l)).take 1)
      if i == Image.zero then none else some (r, i))
    { Lane.none with
      st := laneOfCode (fld b (0x100 + l) 1), pc := BitVec.ofNat 64 (fld b (8 * l) 8)
      pr := BitVec.ofNat 7 (fld b (0x1E0 + l) 1), v := vs, rng := BitVec.ofNat 32 (fld b (g0 + 4 * l) 4) })

/-- The path stack of a body, top first. -/
def bodyStack (h : Hdr) (b : List Byte) : List Entry :=
  ((List.range h.depth).map (fun e =>
    let o := 0x120 + 24 * e
    (⟨BitVec.ofNat 32 (fld b o 4), BitVec.ofNat 64 (fld b (o + 8) 8), BitVec.ofNat 64 (fld b (o + 16) 8),
      fld b (o + 4) 1 % 64⟩ : Entry))).reverse

/-- A token entry read back: number, pending, status, engine and handle. -/
structure TokE where
  num : Nat
  pending : Bool
  status : Nat
  eng : Nat
  op : Nat
deriving DecidableEq, Repr

def bodyToks (h : Hdr) (b : List Byte) : List TokE :=
  (List.range h.tokcnt).map (fun k =>
    let o := objT0 h.sregs (8 * h.vbud) + 16 * k
    ⟨fld b o 1 % 16, fld b (o + 1) 1 == 1, fld b (o + 2) 1, fld b (o + 3) 1, fld b (o + 8) 8⟩)

/-- What an entry of an object matches (R332): an operation that the device holds for a suspended object of the context. -/
def State.tokDoneOf (s : State) (ctx : Nat) (t : TokE) : Option Done :=
  (SMap.get? s.dones t.op).bind (fun d => if d.ctx == ctx then some d else none)

/-- The status that a pending entry finds (R332): none while its operation is in flight; ERR when nothing matches. -/
def State.tokFound (s : State) (ctx : Nat) (t : TokE) : Option Byte :=
  match s.tokDoneOf ctx t with
  | some d => if d.live then none else some d.status
  | none => some stErr

/-- A listed token stands in a group's table, and its completion is claimed, so that no later object matches it (R332). -/
def State.claimTok (x : State × List Tok) (ctx : Nat) (t : TokE) : State × List Tok :=
  let e := engOfCode t.eng
  if !t.pending then (x.1, setAt x.2 t.num ⟨.complete, BitVec.ofNat 8 t.status, e, t.op, none⟩)
  else
    let d := x.1.tokDoneOf ctx t
    let s := if d.isSome then { x.1 with dones := SMap.del x.1.dones t.op } else x.1
    let sc := d.map (fun d => d.sc)
    match x.1.tokFound ctx t with
    | some v => (s, setAt x.2 t.num ⟨.complete, v, e, t.op, sc⟩)
    | none => (s, setAt x.2 t.num ⟨.pending, 0, e, t.op, sc⟩)

/-- The operations of a group's pending tokens stand in its program order from then on (R292, R296). -/
def State.adopt (s : State) (gid : Nat) (g : Group) : State :=
  let ops := (g.toks.filter (fun t => t.st == .pending)).map (fun t => t.op)
  { s with
    aops := s.aops.map (fun e => if ops.contains e.1 then (e.1, { e.2 with also := gid :: e.2.also }) else e)
    grids := s.grids.map (fun e => if ops.contains e.1 then (e.1, { e.2 with also := gid :: e.2.also }) else e)
    mod := { s.mod with colls := s.mod.colls.map (fun c => { c with
      ranks := c.ranks.map (fun r => if ops.contains r.id then { r with also := gid :: r.also } else r) }) } }

/-- A group as a body gives it (R40, R263), in a team, slot and core. Its tokens come from `claimTok`. -/
def groupOf (h : Hdr) (b : List Byte) (toks : List Tok) (tid slot core ctx born : Nat) : Group :=
  let k0 := objK0 h.sregs (8 * h.vbud)
  let f (o n : Nat) : Nat := fld b (k0 + o) n
  { team := tid, slot := slot, core := core, ctx := ctx
    id := ⟨f 0x3E 1 % 16, h.role, f 0x28 4, f 0x2C 2, f 0x2E 2, f 0x30 4, f 0x34 2, f 0x36 2, f 0x38 2, f 0x3A 2, f 0x3C 2⟩
    vb := 8 * h.vbud, sn := h.sregs, lanes := bodyLanes h b
    s := (List.range h.sregs).filterMap (fun r =>
      let o := 0x200 + 8 * r
      let i := imageAt ((b.drop o).take 4) ((b.drop (o + 4)).take 1) ((b.drop (o + 5)).take 1)
      if i == Image.zero then none else some (r, i))
    ap := (List.range 7).map (fun i => BitVec.ofNat 16 (f (2 * i) 2))
    toks := toks, stack := bodyStack h b, prog := BitVec.ofNat 32 (f 0x10 4), tvec := BitVec.ofNat 64 (f 0x20 8)
    tcause := 0, tpc := 0, tval := 0, tvalh := 0, code := BitVec.ofNat 16 h.caper, desc := BitVec.ofNat 64 h.code
    rmode := BitVec.ofNat 3 (f 0x14 4), fflags := BitVec.ofNat 5 (f 0x18 4), lsel := 0, inH := false, hDepth := 0
    wT := [], wC := [], wG := [], released := false, pend := [], eres := [], parked := false, wait := .no, held := none
    halted := if h.flags.testBit 2 then some 0 else none, key := none, fresh := true
    born := born }

/-- A group takes the tokens listed in a body. -/
def State.takeToks (s : State) (ctx : Nat) (h : Hdr) (b : List Byte) : State × List Tok :=
  (bodyToks h b).foldl (fun x t => State.claimTok x ctx t) (s, (List.range 16).map (fun _ => Tok.init))

/-- The completions of the pending tokens of a group are held for its object, with the scope named in `susp` (R296, R332). -/
def State.holdToks (s : State) (ctx : Nat) (sc : Scope) (g : Group) : State :=
  { s with dones := g.heldToks.foldl (fun d t =>
      if t.2.st == .pending then SMap.put d t.2.op ⟨ctx, true, 0, sc⟩ else d) s.dones }

-- R265: reads and writes of an object at its home

/-- Read a stretch of one 64-byte sector at its home, past the caches of the caller (R265). -/
def State.homeRd (s : State) (a : Acc) (g : Seg) : State × List Byte × Bool :=
  if g.ms then s.msRead g.pa g.len a
  else
    let line := g.pa / 256
    let s := ((s.l1Out a (s.l1Core a g.pa) line).farWb a.die line true).meetAt a.die g.pa
    match s.mod.place g.pa with
    | .hole => s.holeRead a g.pa g.len
    | .die _ => (s.l2Use line (lineMask g.pa g.len) 0 false a).homeRead g.pa g.len g.key
    | .cxl .. => ((s.cxlMeter a.die a.ctx g.len).cxlRead a.die a.ctx).homeRead g.pa g.len g.key

/-- Write a stretch of one 64-byte sector at its home (R265). -/
def State.homeWr (s : State) (a : Acc) (g : Seg) (bs : List Byte) : State :=
  if g.ms then s.msWrite g.pa bs a
  else
    let line := g.pa / 256
    let s := ((s.l1Out a (s.l1Core a g.pa) line).farWb a.die line true).meetAt a.die g.pa
    match s.mod.place g.pa with
    | .hole => s.holeWrite a g.pa
    | .die h => s.atomStore h g.pa bs g.key a
    | .cxl .. =>
      if s.mod.isLost g.pa then s.lostHit a.die a.ctx else (s.cxlMeter a.die a.ctx g.len).homeWrite g.pa bs g.key

/-- Stretches cut at 64-byte boundaries. -/
def cut64 (gs : List Seg) : List Seg :=
  gs.flatMap (fun g => (chunks64 (g.len / 64 + 2) g.pa g.len).map (fun k => { g with pa := k.1, len := k.2 }))

def State.objRead (s : State) (a : Acc) (gs : List Seg) : State × List Byte × Bool :=
  (cut64 gs).foldl (fun x g =>
    let r := x.1.homeRd a g
    (r.1, x.2.1 ++ r.2.1, x.2.2 || r.2.2)) (s, [], false)

def State.objWrite (s : State) (a : Acc) (gs : List Seg) (bs : List Byte) : State :=
  ((cut64 gs).foldl (fun (x : State × List Byte) g => (x.1.homeWr a g (x.2.take g.len), x.2.drop g.len)) (s, bs)).1

/-- Write STATE of an object. -/
def State.objState (s : State) (a : Acc) (gs : List Seg) (st : Nat) : State :=
  s.objWrite a (subSegs gs 0x10 4) (leBytes 4 st)

end Sys2Proof.Machine
end

