-- ==== Sys2Proof/Machine/Task.lean ====
section
/-! DEFINITION. Range tasks and continuations (09_isa_async_sync_system.md R257, R260, R261, R264-R271, 16 R403), one
meaning for each instruction. -/

namespace Sys2Proof.Machine

-- R260, R261: range tasks

/-- Nested tasks of a context that are outstanding (R260). -/
def State.nested (s : State) (ctx : Nat) : Nat :=
  (s.grids.filter (fun e => e.2.ctx == ctx && e.2.parent.isSome)).length

/-- The grid of a group's team. -/
def State.gridOf (s : State) (g : Group) : Option (Nat × Grid) :=
  (SMap.get? s.teams g.team).bind (fun t => (SMap.get? s.grids t.grid).map (fun k => (t.grid, k)))

def actSpawn (ap : BitVec 3) (tok : Option (BitVec 4)) (a : Opnd) (gid : Nat) (c : GCtx) (s : State) : Act :=
  if c.g.tokPending tok then .wait s (tokWait tok)
  else match c.consume [(a, 2)] [c.low] with
    | some t => .trap s t
    | none =>
      let off := c.memOff a ap c.low
      match s.chk c.g gid ⟨needR, false, false, 256⟩ ap off 256 with
      | .ok gs es =>
        let die := c.g.core / 128
        if !s.released gid c.g .die false then .wait s .fence
        else if !s.reachAll c.g.core false gs then s.hostWait
        else if 64 ≤ s.nested c.g.ctx then .wait s .spawn
        else
          let s := (s.fence c.g .die ordSet 0).tlbFills c.g.core es
          let r := s.readSegs (s.accOf c.g 0) .die .nrm gs
          match r.1.acceptLaunch c.g.ctx die 0 0 off (c.g.aper ap) r.2.1 r.2.2 (some (gid, (tok.map (fun t => t.toNat)).getD 16))
              (s.gridOf c.g) gid with
          | .full => .wait s .spawn
          | .wait o => chkFail gid c s 1 (.tier o)
          | .ok s i =>
            let s := s.updGrid i (fun g => { g with also := (c.g.ids gid).tail })
            .done (evGridComplete i (s.withG gid (fun g => g.startTok tok .spawn i)))
      | b => chkFail gid c s 1 b

def execRtskSpawn (k : Com) (ap : BitVec 3) (t : Option (BitVec 4)) (a : Opnd) (s : State) : Res :=
  issue (.rtskSpawn k ap t a) k [(a, 2)] (actSpawn ap t a) s

def actDone (_ : Nat) (c : GCtx) (s : State) : Act :=
  match SMap.get? s.teams c.g.team with
  | some t => .done ((s.updGrid t.grid (fun g => { g with trunc := true })).stopDispatch t.grid)
  | none => .done s

def execRtskDone (k : Com) (s : State) : Res := issue (.rtskDone k) k [] actDone s

-- R257, R266: susp

/-- The target of a side falls by one, and a count that reaches it completes the generation (R257). -/
def BarSide.lower (b : BarSide) : BarSide :=
  let t := max 1 (b.tgt - 1)
  if t ≤ b.cnt then { b with tgt := t, cnt := 0, gen := b.gen + 1 } else { b with tgt := t }

/-- A group of a role leaves its team by suspending (R257). -/
def Team.lower (t : Team) (role : Nat) : Team :=
  { t with bars := SMap.mapV (fun (b : TBar) =>
      if arriveSide b role == 1 then { b with empty := b.empty.lower } else { b with full := b.full.lower }) t.bars }

/-- A suspended group leaves its core (R266), and a team that holds no group retires. -/
def State.suspLeave (s : State) (gid : Nat) (g : Group) : State :=
  let s := s.updTeam g.team (fun t => { t.lower g.id.role with
    suspd := if g.slot < t.g && !g.released then t.suspd + 1 else t.suspd })
  (s.removeGroup gid).sweepTeam g.team

/-- What `susp` waits for (R266, R296): ejected lanes, results, easel and register operations, and the release at its scope;
and operations that no token names, which no object can list (log 84). -/
def State.suspReady (s : State) (gid : Nat) (g : Group) (sc : Scope) : Bool :=
  let ids := g.ids gid
  g.stack.all (fun e => e.join == 0) && g.owed.isEmpty && (s.cluster (g.core / 4)).ops.all (fun o => !o.mine ids) &&
    s.aops.all (fun e => !e.2.mine ids || e.2.tok.isSome) &&
    s.mod.colls.all (fun c => c.ranks.all (fun r => !r.mine ids || r.tok.isSome || c.doneRanks.contains r.rank)) &&
    s.fenceReady gid g sc ordSet

/-- The classes that `susp` releases: those of an order, and the writes of completed engine operations (R296). -/
def suspSet : Byte := 0xD7

/-- The first `n` bytes of an object hold poison (R264): 0x20, with STATE and GEN, of one that is written (R265), and 0x80,
the header, of one that is read. -/
def objPois (s : State) (gs : List Seg) (n : Nat) : Bool :=
  (subSegs gs 0 n).any (fun g => (unitsOf g.pa g.len).any s.unitP)

def actSusp (sc : Scope) (rights : BitVec 4) (ap : BitVec 3) (a b : Opnd) (gid : Nat) (c : GCtx) (s : State) : Act :=
  if c.g.compacted then .trap s (contTrap 0x0B 0 0)
  else if c.g.inH then .trap s (contTrap 0x0C 0 0)
  else match c.consume [(a, 2), (b, 1)] [c.low] with
    | some t => .trap s t
    | none =>
      let off := c.memOff a ap c.low
      let size := 0x80 + bodySize c.g
      let cap := c.data b c.low 1
      if off.toNat % 256 != 0 then .trap s (memTrap 6 (c.g.aper ap) off)
      else match s.chk c.g gid ⟨needW, false, false, 1⟩ ap off size with
        | .ok gs es =>
          let held := s.hostLines gs
          if cap < size then .trap s (contTrap 9 0 0)
          else if !held.isEmpty then .wait (s.askHost held) .fence
          else if !s.suspReady gid c.g sc then .wait s .susp
          else if !s.reachAll c.g.core true gs then .wait (s.askHost s.heldUpd) .susp
          else
            let s := (s.tlbFills c.g.core es).withG gid (fun g => g.settleResults)
            let ac := s.accOf c.g 3
            let r := s.objRead ac (subSegs gs 0 0x80)
            let h := parseHdr r.2.1
            let s := r.1.fence c.g sc suspSet 0
            if objPois r.1 gs 0x20 then .trap r.1 (h.trap 0x0A)
            else if !s.fenceSent c.g sc suspSet then .wait (s.askHost s.heldUpd) .susp
            else if h.state == stSusp || h.state == stResuming then .trap r.1 (h.trap 8)
            else
              let g := { ((SMap.get? s.groups gid).getD c.g).advance c.run c.k with prog := 0 }
              let body := objBody g
              let hd := objHeader g 0 ((h.gen + 1) % 2 ^ 64) stSusp rights.toNat (s.mod.dieReg (g.core / 128))
                (s.owner g.ctx) cap (crc64 body)
              let s := s.objWrite ac gs (hd ++ body)
              .jump ((s.holdToks g.ctx sc g).suspLeave gid g)
        | k => chkFail gid c s 2 k

def execSusp (k : Com) (scope : Scope) (rights : BitVec 4) (ap : BitVec 3) (a b : Opnd) (s : State) : Res :=
  issue (.susp k scope rights ap a b) k [(a, 2), (b, 1)] (actSusp scope rights ap a b) s

-- R267: resm

/-- The team of a detached group (R267). -/
def detTeam (grid core : Nat) (h : Hdr) (b : List Byte) : Team :=
  let f (o n : Nat) : Nat := fld b (objK0 h.sregs (8 * h.vbud) + o) n
  { grid := grid, lin := linTeam (f 0x30 4) (f 0x34 2) (f 0x28 4, f 0x2C 2, f 0x2E 2), curve := 0, rank := 0, block := 0
    core := core, g := 1, sp := 0, p := 0, c := 0, vbN := h.vbud, vbP := 0, vbC := 0, sregs := h.sregs, scratch := 0
    canvas := 0, shX := f 0x38 2, shY := f 0x3A 2, shZ := f 0x3C 2, span := 1, fuse := false, cores := [], tsBase := 0, bars := []
    pool := 0, binds := [], det := true, rel := false, suspd := 0 }

/-- Cores in the order in which a detached group is placed: those of its resumer's die first (log 28). -/
def State.placeOrder (s : State) (die : Nat) : List Nat :=
  (List.range 128).map (fun c => die * 128 + c) ++
    (List.range (s.mod.dies * 128)).filter (fun c => c / 128 != die)

/-- A loaded group stands in a team and chooses its path; it begins with an acquire (R267, R296). -/
def State.loadGroup (s : State) (g : Group) (sc : Scope) : State :=
  let g := settle g (-1)
  ((s.fresh.setGroup s.nid g).adopt s.nid g).handOff g sc

/-- Load a detached group (R267): on the first core with room, of a die that waits for no co-resident grid (R406); with none it
waits in a shadow slot, the first that is free (R405). -/
def State.loadDetached (s : State) (c : GCtx) (sc : Scope) (h : Hdr) (b : List Byte) : State :=
  match SMap.get? s.teams c.g.team with
  | none => s
  | some t0 =>
    let tid := s.nid
    let s := { s.fresh with teams := s.teams }
    let t := detTeam t0.grid c.g.core h b
    let s := s.updGrid t0.grid (fun g => { g with det := g.det + 1 })
    let order := s.placeOrder (c.g.core / 128)
    let s := match order.find? (fun k => (s.placingOn (k / 128)).isNone && (s.coreRoom k t).isSome) with
      | some k => (s.hold tid k t).getD s
      | none =>
        let k := (order.find? (fun k => (s.core k).shadow.length < 2)).getD t.core
        ({ s with teams := SMap.put s.teams tid { t with core := k } }).updCore k (fun x => { x with
          shadow := x.shadow ++ [(⟨tid, true, [], [], []⟩ : Shadow)] })
    let core := (SMap.get? s.teams tid).elim c.g.core (fun t => t.core)
    let k := s.takeToks c.g.ctx h b
    k.1.loadGroup (groupOf h b k.2 tid 0 core c.g.ctx s.nid) sc

/-- W counts of a group that joins (R257): the generations at that moment of the sides its role waits on. -/
def State.joinW (s : State) (g : Group) (t : Team) : Group :=
  let k := SMap.get? s.grids t.grid
  let gens (bs : List (Nat × Half)) : SMap Half := bs.filter (fun b => b.2 != 0)
  { g with
    wT := gens (t.bars.map (fun b =>
      let w := waitSide b.2 g.id.role
      (2 * b.1 + w, if w == 1 then b.2.empty.gen else b.2.full.gen)))
    wC := gens (match k.bind (fun k => SMap.get? k.blocks t.block) with
      | some b => b.zipIdx.map (fun x => (x.2, x.1.gen))
      | none => [])
    wG := gens (match k with | some k => k.bars.map (fun b => (b.1, b.2.gen)) | none => []) }

/-- Load a group into a spare slot of the caller's team (R267). -/
def State.loadJoined (s : State) (c : GCtx) (sc : Scope) (h : Hdr) (b : List Byte) (slot : Nat) (t : Team) : State :=
  let k := s.takeToks c.g.ctx h b
  let g := groupOf h b k.2 c.g.team slot c.g.core c.g.ctx s.nid
  k.1.loadGroup (s.joinW g t) sc

/-- The largest budget of a team, over 8. -/
def Team.maxBud (t : Team) : Nat := max t.vbN (max t.vbP t.vbC)

def actResm (join : Bool) (sc : Scope) (ap pD : BitVec 3) (a : Opnd) (gid : Nat) (c : GCtx) (s : State) : Act :=
  match c.consume [(a, 2)] [c.low] with
  | some t => .trap s t
  | none =>
    let off := c.memOff a ap c.low
    let sp : AccessSpec := ⟨needRW, false, false, 1⟩
    if off.toNat % 256 != 0 then .trap s (memTrap 6 (c.g.aper ap) off)
    else match s.chk c.g gid sp ap off 0x80 with
      | .ok gs es =>
        let ac := s.accOf c.g 3
        let held := s.hostLines gs
        if !held.isEmpty then .wait (s.askHost held) .fence
        else if !s.reachAll c.g.core true gs then s.hostWait
        else
          let s := s.tlbFills c.g.core es
          let r := s.objRead ac gs
          let h := parseHdr r.2.1
          let set (b : Bool) (s : State) : State := s.commit gid (Out.of (c.wrP pD c.low b))
          match h.check 0 (s.mod.dieReg (c.g.core / 128)) (s.owner c.g.ctx), SMap.get? s.teams c.g.team with
          | some t, _ => .trap r.1 (if objPois r.1 gs 0x80 then h.trap 0x0A else t)
          | none, none => .done s
          | none, some t =>
            let slot := s.spareSlot c.g.team
            if join && slot.isNone then .done (set false r.1)
            else if join && (t.maxBud < h.vbud || t.sregs < h.sregs) then .trap r.1 (h.trap 0x0D)
            else match s.chk c.g gid sp ap off (0x80 + h.size) with
              | .ok gs es =>
                let s := (r.1.tlbFills c.g.core es).handOff c.g sc
                let r := s.objRead ac gs
                let body := r.2.1.drop 0x80
                if !s.handedOff c.g sc || !s.reachAll c.g.core true gs then s.hostWait
                else if r.2.2 || crc64 body != h.crc then .trap r.1 (h.trap 0x0A)
                else
                  let s := set true r.1
                  let s := if join then s.loadJoined c sc h body (slot.getD 0) t else s.loadDetached c sc h body
                  .done (s.objState ac gs stConsumed)
              | k => chkFail gid c s 2 k
      | k => chkFail gid c s 2 k

def execResm (k : Com) (scope : Scope) (ap pD : BitVec 3) (a : Opnd) (s : State) : Res :=
  issue (.resm k scope ap pD a) k [(a, 2)] (actResm false scope ap pD a) s
def execResmJoin (k : Com) (scope : Scope) (ap pD : BitVec 3) (a : Opnd) (s : State) : Res :=
  issue (.resmJoin k scope ap pD a) k [(a, 2)] (actResm true scope ap pD a) s

-- R268: ccpy

/-- The token entries of a copy: every one complete (R268). -/
def doneEntries (s : State) (ctx : Nat) (ts : List TokE) : List Byte :=
  ts.flatMap (fun t => leBytes 1 t.num ++ [2] ++
    leBytes 1 (if t.pending then ((s.tokFound ctx t).getD 0).toNat else t.status) ++ leBytes 1 t.eng ++ [0, 0, 0, 0] ++ leBytes 8 t.op)

/-- A header with fields replaced at their offsets. -/
def patch (b : List Byte) (off : Nat) (x : List Byte) : List Byte := b.take off ++ x ++ b.drop (off + x.length)

/-- The destination of a copy (R268). -/
def copyObj (src : List Byte) (h : Hdr) (toks : List Byte) (gen rights wdie cap : Nat) : List Byte :=
  let body := (src.drop 0x80).take (objT0 h.sregs (8 * h.vbud)) ++ toks
  let hd := src.take 0x80
  let hd := patch hd 8 (leBytes 8 gen)
  let hd := patch hd 0x10 (leBytes 4 stSusp ++ leBytes 2 rights ++ leBytes 1 wdie)
  let hd := patch hd 0x1C (leBytes 4 cap)
  patch hd 0x50 (leBytes 8 (crc64 body)) ++ body

def actCcpy (rights : BitVec 4) (sap dap : BitVec 3) (a b cc : Opnd) (gid : Nat) (c : GCtx) (s : State) : Act :=
  match c.consume [(a, 2), (b, 2), (cc, 1)] [c.low] with
  | some t => .trap s t
  | none =>
    let so := c.memOff b sap c.low
    let dof := c.memOff a dap c.low
    let cap := c.data cc c.low 1
    let sp : AccessSpec := ⟨needRW, false, false, 1⟩
    if dof.toNat % 256 != 0 then .trap s (memTrap 6 (c.g.aper dap) dof)
    else if so.toNat % 256 != 0 then .trap s (memTrap 6 (c.g.aper sap) so)
    else
      let ac := s.accOf c.g 3
      let sh := (s.chk c.g gid sp sap so 0x80).segs
      let dh := (s.chk c.g gid sp dap dof 0x80).segs
      let mine := c.g.wait == .ccpy
      let back (s : State) : State := if sh.isEmpty then s else s.objState ac sh stSusp
      match chkLanes [s.chk c.g gid sp sap so 0x80, s.chk c.g gid sp dap dof 0x80] with
      | .ok gs es =>
        let w : Wait := if mine then .ccpy else .fence
        let held := s.hostLines gs
        if !held.isEmpty then .wait (s.askHost held) w
        else if !s.reachAll c.g.core true gs then .wait (s.askHost s.heldUpd) w
        else
          let s := s.tlbFills c.g.core es
          let r := s.objRead ac sh
          let h := parseHdr r.2.1
          let ours := mine && h.state == stResuming
          let h := if ours then { h with state := stSusp } else h
          let die := s.mod.dieReg (c.g.core / 128)
          match if objPois r.1 sh 0x80 then some (h.trap 0x0A) else h.check 1 die (s.owner c.g.ctx) with
          | some t => .trap (if ours then back r.1 else r.1) t
          | none =>
            let q := (r.1.objState ac sh stResuming).objRead ac dh
            let d := parseHdr q.2.1
            if objPois q.1 dh 0x20 then .trap (back q.1) (d.trap 0x0A)
            else if d.state == stSusp || d.state == stResuming then .trap (back q.1) (d.trap 8)
            else if cap < 0x80 + h.size then .trap (back q.1) (d.trap 9)
            else
              let full := chkLanes [s.chk c.g gid sp sap so (0x80 + h.size), s.chk c.g gid sp dap dof (0x80 + h.size)]
              match full with
              | .ok gs es =>
                let ss := (s.chk c.g gid sp sap so (0x80 + h.size)).segs
                let ds := (s.chk c.g gid sp dap dof (0x80 + h.size)).segs
                let held := s.hostLines gs
                if !held.isEmpty then .wait (q.1.askHost held) .ccpy
                else if !s.reachAll c.g.core true gs then .wait (q.1.askHost q.1.heldUpd) .ccpy
                else
                  let v := (q.1.tlbFills c.g.core es).objRead ac ss
                  let body := v.2.1.drop 0x80
                  let ts := bodyToks h body
                  if v.2.2 || crc64 body != h.crc then .trap (back v.1) (h.trap 0x0A)
                  else if ts.any (fun t => t.pending && (s.tokFound c.g.ctx t).isNone) then .wait v.1 .ccpy
                  else
                    let gen := (max h.gen d.gen + 1) % 2 ^ 64
                    let o := copyObj v.2.1 h (doneEntries s c.g.ctx ts) gen (h.rights &&& rights.toNat) die cap
                    .done (back (v.1.objWrite ac ds o))
              | .tier o => .wait (q.1.tierWait gid c.g o) .ccpy
              | k => chkFail gid c (back q.1) 2 k
      | .tier o => .wait (s.tierWait gid c.g o) (if mine then .ccpy else .tier (c.g.ctx / 256) o)
      | k => chkFail gid c (if mine then back s else s) 2 k

def execCcpy (k : Com) (rights : BitVec 4) (sap dap : BitVec 3) (a b c : Opnd) (s : State) : Res :=
  issue (.ccpy k rights sap dap a b c) k [(a, 2), (b, 2), (c, 1)] (actCcpy rights sap dap a b c) s

-- R269: cdsc

/-- The completions that the device holds for a discarded object reach no group: nothing matches them any more (R269, R332). -/
def State.dropToks (s : State) (ctx : Nat) (h : Hdr) (b : List Byte) : State :=
  { s with dones := s.dones.filter (fun e => e.2.ctx != ctx || !(bodyToks h b).any (fun t => t.pending && t.op == e.1)) }

def actCdsc (ap : BitVec 3) (a : Opnd) (gid : Nat) (c : GCtx) (s : State) : Act :=
  match c.consume [(a, 2)] [c.low] with
  | some t => .trap s t
  | none =>
    let off := c.memOff a ap c.low
    if off.toNat % 256 != 0 then .trap s (memTrap 6 (c.g.aper ap) off)
    else match s.chk c.g gid ⟨needRW, false, false, 1⟩ ap off 0x80 with
      | .ok gs es =>
        let ac := s.accOf c.g 3
        let held := s.hostLines gs
        if !held.isEmpty then .wait (s.askHost held) .fence
        else if !s.reachAll c.g.core true gs then s.hostWait
        else
          let r := (s.tlbFills c.g.core es).objRead ac gs
          let h := parseHdr r.2.1
          match if objPois r.1 gs 0x80 then some (h.trap 0x0A) else h.check 2 (s.mod.dieReg (c.g.core / 128)) (s.owner c.g.ctx) with
          | some t => .trap r.1 t
          | none =>
            let all := (s.chk c.g gid ⟨needR, false, false, 1⟩ ap off (0x80 + h.size)).segs
            let b := r.1.objRead ac all
            .done ((b.1.dropToks c.g.ctx h (b.2.1.drop 0x80)).objState ac gs stDiscarded)
      | k => chkFail gid c s 2 k

def execCdsc (k : Com) (ap : BitVec 3) (a : Opnd) (s : State) : Res := issue (.cdsc k ap a) k [(a, 2)] (actCdsc ap a) s

end Sys2Proof.Machine
end

