-- ==== Sys2Proof/Machine/System.lean ====
section
/-! DEFINITION. System instructions (09 R272-R278, 01 R35-R42, 11 R305, R306): one meaning for each instruction. -/

namespace Sys2Proof.Machine

def execNop (k : Com) (s : State) : Res := issue (.nop k) k [] (fun _ _ s => .done s) s

-- R35 to R42, R273, R305: control registers

/-- Registers marked RO (R37). -/
def Csr.ro : Csr → Bool
  | .lane | .grp | .role | .teamX | .teamY | .teamZ | .tidX | .tidY | .tidZ | .gridX | .gridY | .gridZ
  | .core | .die | .cyc | .code => true
  | _ => false

/-- Registers marked H (R37). -/
def Csr.hOnly : Csr → Bool
  | .prog | .tcause | .tpc | .tval | .tvalh | .lsel | .lpc | .lst => true
  | _ => false

/-- Linear index of a lane in its team, of its home in a compacted group (R15). -/
def Group.linLane (g : Group) (l : Nat) : Nat :=
  match (g.lane l).home with
  | some h => 32 * h.grp + h.lane
  | none => 32 * g.id.grp + l

/-- The focal PC of the split that a lane waits in. -/
def Group.focalOf (g : Group) (l : Nat) : Option DWord :=
  (g.stack.find? (fun e => inMask e.mask l)).map (fun e => e.focal)

/-- `%lstate.st` of a lane (R38). -/
def Group.lstate (g : Group) (l : Nat) : Nat :=
  let x := g.lane l
  laneCode x.st + if x.st == .deferred && g.focalOf l == some x.pc then 4 else 0

/-- `%lstate.pc` of a lane (R305). -/
def Group.lstatePc (g : Group) (l : Nat) : DWord :=
  let x := g.lane l
  match x.st with
  | .ejected => x.foc
  | .exited => x.pc
  | _ => if x.hnd then x.ret else x.pc

/-- A write of `%lstate.pc`: ignored for an ejected or exited lane (R305). -/
def Group.setLstatePc (g : Group) (l : Nat) (v : DWord) : Group :=
  g.updLane l (fun x => match x.st with
    | .ejected | .exited => x
    | _ => if x.hnd then { x with ret := v } else { x with pc := v })

/-- `%fflags`: in a compacted group, those of the home group of the lowest occupied slot (R176). -/
def State.flagsOf (s : State) (g : Group) : Flags :=
  if g.compacted then
    match lanes32.findSome? (fun l => (g.lane l).home) with
    | some h => (SMap.get? s.groups h.gid).elim 0 (fun x => x.fflags)
    | none => 0
  else g.fflags

/-- A write of `%fflags`: in a compacted group one value, of the home group of every lane (R176, log 112). -/
def State.setFlags (s : State) (gid : Nat) (g : Group) (v : Flags) : State :=
  if g.compacted then
    (lanes32.filterMap (fun l => (g.lane l).home)).foldl (fun s h => s.updGroup h.gid (fun x => { x with fflags := v })) s
  else s.updGroup gid (fun x => { x with fflags := v })

/-- The value of a control register in a lane, `cyc` being the clock (R37, R38). -/
def State.csrVal (s : State) (g : Group) (cyc : Nat) (r : Csr) (l : Nat) : Nat :=
  match r with
  | .lane => g.vlane l
  | .grp => g.id.grp
  | .role => g.id.role
  | .teamX => g.id.teamX
  | .teamY => g.id.teamY
  | .teamZ => g.id.teamZ
  | .tidX => g.linLane l % g.id.shX
  | .tidY => g.linLane l / g.id.shX % g.id.shY
  | .tidZ => g.linLane l / (g.id.shX * g.id.shY)
  | .gridX => g.id.gridX
  | .gridY => g.id.gridY
  | .gridZ => g.id.gridZ
  | .core => g.core % 128
  | .die => s.mod.dieReg (g.core / 128)
  | .cyc => cyc
  | .prog => g.prog.toNat
  | .tvec => g.tvec.toNat
  | .tcause => g.tcause.toNat
  | .tpc => g.tpc.toNat
  | .tval => g.tval.toNat
  | .tvalh => g.tvalh.toNat
  | .code => g.code.toNat
  | .rmode => g.rmode.toNat
  | .fflags => (s.flagsOf g).toNat
  | .lsel => g.lsel.toNat
  | .lpc => (g.lstatePc g.lsel.toNat).toNat
  | .lst => g.lstate g.lsel.toNat
  | .rng => (g.lane l).rng.toNat

/-- A write of a per-group register other than `%fflags` and `%lstate.st` (R35, R38, R273). -/
def Group.setCsr (g : Group) (r : Csr) (v : Nat) : Group :=
  match r with
  | .prog => { g with prog := BitVec.ofNat 32 v }
  | .tvec => { g with tvec := BitVec.ofNat 64 v }
  | .tcause => { g with tcause := BitVec.ofNat 8 v }
  | .tpc => { g with tpc := BitVec.ofNat 64 v }
  | .tval => { g with tval := BitVec.ofNat 64 v }
  | .tvalh => { g with tvalh := BitVec.ofNat 16 v }
  | .rmode => if v % 8 < 6 then { g with rmode := BitVec.ofNat 3 v } else g
  | .lsel => { g with lsel := BitVec.ofNat 5 v }
  | .lpc => g.setLstatePc g.lsel.toNat (BitVec.ofNat 64 v)
  | _ => g

/-- A write of `%rng`: zero stores 1 (R73). -/
def rngWrite (v : Nat) : Word := if v % 2 ^ 32 == 0 then 1 else BitVec.ofNat 32 v

/-- A write of `%lstate.st` (R35): code 3 makes an active or deferred lane exit. The lane keeps, as the PC at which it
exited, what `%lstate.pc` read. -/
def State.lstateWrite (s : State) (gid : Nat) (g : Group) (v : Nat) : State :=
  let l := g.lsel.toNat
  let st := (g.lane l).st
  if v % 4 == 3 && (st == .active || st == .deferred) then s.exitLane gid l (g.lstatePc l) else s

/-- The clock, when the register read is `%cyc`. -/
def State.csrClock (s : State) (g : Group) (r : Csr) : State × Nat :=
  if r == .cyc then s.readCyc (g.core / 128) else (s, 0)

/-- The old value that a `csr` delivers (R36, R273). -/
def csrOut (x : CsrArgs) (r : Csr) (c : GCtx) (s : State) (cyc : Nat) : Out :=
  perLane c x.d (fun l => plainImgs r.regs false (s.csrVal c.g cyc r l))

/-- `csr` (R36, R273): it acts once every older result of its group is in. `f` gives the new value from the old one and
the source, none for a read. -/
def actCsr (f : Option (Nat → Nat → Nat)) (i : Instr) (x : CsrArgs) (gid : Nat) (c : GCtx) (s : State) : Act :=
  match Csr.ofNum x.num with
  | none => .trap s (illegal i)
  | some r =>
    if !c.g.pend.isEmpty then .wait s .results
    else match f with
      | none =>
        let k := s.csrClock c.g r
        .done (k.1.commit gid (csrOut x r c k.1 k.2))
      | some h =>
        match c.ls with
        | [] => .done s
        | l0 :: _ =>
          if Csr.ro r || (Csr.hOnly r && !c.g.inH) then .trap s (privilege i)
          else match c.consume [(x.a, r.regs)] c.ls with
            | some t => .trap s t
            | none =>
              let new (l src : Nat) : Nat := h (s.csrVal c.g 0 r l) (c.data x.a src r.regs)
              let s := s.commit gid (csrOut x r c s 0)
              match r with
              | .rng =>
                let ls := if c.k.u then (maskLanes c.run).map (fun l => (l, l0)) else c.ls.map (fun l => (l, l))
                .done (s.withG gid (fun g => ls.foldl (fun g l =>
                  g.updLane l.1 (fun y => { y with rng := rngWrite (new l.1 l.2) })) g))
              | .lst =>
                let s := s.withG gid (fun g => (g.settleResults).advance c.run c.k)
                .jump (s.lstateWrite gid c.g (new l0 l0))
              | .fflags => .done (s.setFlags gid c.g (BitVec.ofNat 5 (new l0 l0)))
              | _ => .done (s.withG gid (fun g => g.setCsr r (new l0 l0)))

def csrRs (x : CsrArgs) : List (Opnd × Nat) :=
  let n := ((Csr.ofNum x.num).map Csr.regs).getD 1
  [(x.d, n), (x.a, n)]

def execCsrRd (x : CsrArgs) (s : State) : Res := issue (.csrRd x) x.k (csrRs x) (actCsr none (.csrRd x) x) s
def execCsrWr (x : CsrArgs) (s : State) : Res :=
  issue (.csrWr x) x.k (csrRs x) (actCsr (some (fun _ v => v)) (.csrWr x) x) s
def execCsrSet (x : CsrArgs) (s : State) : Res :=
  issue (.csrSet x) x.k (csrRs x) (actCsr (some (fun o v => o ||| v)) (.csrSet x) x) s
def execCsrClr (x : CsrArgs) (s : State) : Res :=
  issue (.csrClr x) x.k (csrRs x) (actCsr (some (fun o v => o &&& (v ^^^ (2 ^ 64 - 1)))) (.csrClr x) x) s

-- R274: traps of software

/-- Software and Breakpoint with their code (R274). -/
def softTrap (cause : Byte) (k : Com) : Trap := ⟨cause, k.imm.zeroExtend 64, 0⟩

def execTrap (k : Com) (s : State) : Res := issue (.trap k) k [] (fun _ _ s => .trap s (softTrap 0x0D k)) s
def execBrkp (k : Com) (s : State) : Res := issue (.brkp k) k [] (fun _ _ s => .trap s (softTrap 0x0E k)) s

-- R275, R306: return

def actRte (i : Instr) (gid : Nat) (c : GCtx) (s : State) : Act :=
  if c.g.mayReturn then .jump (s.withG gid (fun g => g.rteGo false g.tpc)) else .trap s (privilege i)

/-- `rte.nx` takes the length of the word at `%tpc`, fetched through the code aperture (R275). -/
def actRteNx (i : Instr) (gid : Nat) (c : GCtx) (s : State) : Act :=
  if !c.g.mayReturn then .trap s (privilege i)
  else
    let f := s.fetch c.g gid c.g.tpc
    match f.2 with
    | .ok ws => .jump (f.1.withG gid (fun g => g.rteGo true (g.tpc + nxBytes (ws.headD 0))))
    | .bad t (some ipa) => .trap (f.1.s2Notice t.cause c.g.ctx ipa (vaOf t.tvalh t.tval) 4) t
    | .bad t none => .trap f.1 t
    | .tier o => .wait (f.1.tierWait gid c.g o) (.tier (c.g.ctx / 256) o)

def execRte (k : Com) (s : State) : Res := issue (.rte k) k [] (actRte (.rte k)) s
def execRteNx (k : Com) (s : State) : Res := issue (.rteNx k) k [] (actRteNx (.rteNx k)) s

-- R276: stop

/-- A debugger is attached to a context (R276, R418, R422, R466). -/
def State.debugged (s : State) (ctx : Nat) : Bool :=
  match SMap.get? s.ctxs ctx with
  | some c => c.dbg && (s.vd (ctx / 256)).inf.flags.testBit 2 && s.mod.featon.testBit 3
  | none => false

/-- A halt notice (R427). -/
def State.haltNotice (s : State) (g : Group) (n : Word) : List Byte :=
  [0x83, n.truncate 8] ++ leBytes 1 (g.ctx % 256) ++ leBytes 1 (s.mod.dieReg (g.core / 128)) ++
    leBytes 1 (g.core % 128) ++ leBytes 1 g.id.grp ++ [0, 0] ++ leBytes 8 g.tpc.toNat ++ List.replicate 16 0

/-- `stop` (R276, R422): the group halts after the instruction, until `DBGREL`. -/
def actStop (gid : Nat) (c : GCtx) (s : State) : Act :=
  if s.debugged c.g.ctx then
    let s := s.withG gid (fun g => { g with halted := some c.k.imm })
    let s := s.updCtx c.g.ctx (fun x => { x with halts := x.halts ++ [gid] })
    .done (s.fqPost (c.g.ctx / 256) (s.haltNotice c.g c.k.imm))
  else .done s

def execStop (k : Com) (s : State) : Res := issue (.stop k) k [] actStop s

-- R92, R101: words that decode to no instruction

/-- Illegal Encoding at the issuing group (R92, R101). -/
def evIllegal (i : Instr) (s : State) : State :=
  match s.cur with
  | none => s
  | some gid => takeTrap s gid (illegal i)

def execUnassignedOpcode (w0 w1 : Word) (s : State) : Res := .next (evIllegal (.unassignedOpcode w0 w1) s)

end Sys2Proof.Machine
end

