-- ==== Sys2Proof/Machine/Events.lean ====
section
/-! DEFINITION. Steps of a group that are no instruction: results, trap entry, errors in what it holds, and its end
(03 R94-R98, 11 R301-R308, 06 R181, 08 R217, 14 R346, R355): one meaning for each. -/

namespace Sys2Proof.Machine

/-- A READ or an ATOMIC of a team's access to a memory-side page has no reply yet (R361): results that may need it stay
outstanding (log 102). -/
def State.reading (s : State) (team : Nat) : Bool :=
  s.hbms.any (fun k => (k.2.q ++ k.2.waitq ++ k.2.wins.flatMap (fun w => w.2) ++ k.2.replies.map (fun r => (r.1, r.2.1))).any
    (fun p => p.2.team == team && team != 0 && (qKind p.1 == 1 || qKind p.1 == 3)))

/-- RESULT_RETURN (R94-R96): the outstanding result at an index returns in the lanes of a mask, once the replies that it may
need have come. -/
def evResultReturn (gid idx : Nat) (lanes : Word) (s : State) : State :=
  if (SMap.get? s.groups gid).any (fun g => s.reading g.team) then s
  else s.updGroup gid (fun g => g.returnResult idx lanes)

def execResultReturn (gid idx : Nat) (lanes : Word) (s : State) : Res := .next (evResultReturn gid idx lanes s)

/-- Causes that a group's own instruction raises (R300). -/
def causeRaised (c : Byte) : Bool :=
  let n := c.toNat
  1 ≤ n && n ≤ 0x11 && n != 3 && n != 0x0C

/-- TRAP_ENTRY (R304): a group with a running path raises a cause at its PC. -/
def evTrapEntry (gid : Nat) (cause : Byte) (tval : DWord) (tvalh : Half) (s : State) : State :=
  match SMap.get? s.groups gid with
  | some g => if causeRaised cause && g.runMask != 0 then takeTrap s gid ⟨cause, tval, tvalh⟩ else s
  | none => s

def execTrapEntry (gid : Nat) (cause : Byte) (tval : DWord) (tvalh : Half) (s : State) : Res :=
  .next (evTrapEntry gid cause tval tvalh s)

/-- Severity of an error record (R471). -/
def errSev (corrected : Bool) : Nat := if corrected then 0 else 1

/-- Corrected errors of a cluster within one second, 1.7·10^9 cycles of its die (R39), are counted for its repair (R473). -/
def State.corrected (s : State) (cl : Nat) (c : Bool) : State :=
  let now := (s.die (cl / 32)).cyc
  if c then s.updCluster cl (fun x => { x with corr := x.corr.filter (fun t => now < t + 1700000000) ++ [now] }) else s

/-- The record of an error detected at a core (R301, R471). -/
def State.coreRec (s : State) (src core ctx loc : Nat) (c : Bool) : State :=
  (s.relRec src (errSev c) (core / 128) (core / 4 % 32) (ctx + 1) loc).corrected (core / 4) c

/-- SRC of a lost part of a group's state: the predicate, token or aperture number, else 0 (R303). -/
def lostSrc (part num : Byte) : Nat := if part == 1 || part == 5 || part == 6 then num.toNat else 0

/-- GROUP_STATE_LOST (R303): an uncorrectable error in group state, met at the group's issue, is an unhandled Poison
Consumed of KIND 5; a correctable one is corrected and counted. -/
def evGroupStateLost (gid : Nat) (part : Byte) (e : LostErr) (s : State) : State :=
  match SMap.get? s.groups gid with
  | none => s
  | some g =>
    if part == 0 || 7 < part.toNat then s
    else match e with
      | .corrected => s.coreRec 1 g.core g.ctx g.slot true
      | .lost num => (s.coreRec 1 g.core g.ctx g.slot false).unhandled gid 5
          ⟨7, BitVec.ofNat 64 (3 * 2 ^ 62 + part.toNat * 256 + lostSrc part num), 0⟩ g.runPc

def execGroupStateLost (gid : Nat) (part : Byte) (num : LostErr) (s : State) : Res := .next (evGroupStateLost gid part num s)

/-- P of one image of a group is set. -/
def Group.poisonReg (g : Group) (o : Opnd) (lane : Nat) : Group :=
  match o with
  | .v n => g.updLane lane (fun x => { x with
      v := SMap.set x.v Image.zero n.val { SMap.getD x.v Image.zero n.val with p := true } })
  | .s n => { g with s := SMap.set g.s Image.zero n.val { g.sImg n.val with p := true } }
  | _ => g

/-- The operand names a slot of a register file. -/
def Opnd.isReg : Opnd → Bool
  | .v _ | .s _ => true
  | _ => false

/-- REGFILE_ERROR (R301): a correctable error changes nothing visible, an uncorrectable one sets P of the slot; the
die writes a record. -/
def evRegfileError (gid : Nat) (reg : Opnd) (lane : Nat) (corrected : Bool) (s : State) : State :=
  match SMap.get? s.groups gid with
  | none => s
  | some g =>
    if !Opnd.isReg reg || !g.inRange (reg, 1) || 32 ≤ lane then s
    else
      let s := if corrected then s else s.setGroup gid (g.poisonReg reg lane)
      s.coreRec 1 g.core g.ctx lane corrected

def execRegfileError (gid : Nat) (reg : Opnd) (lane : Nat) (corrected : Bool) (s : State) : Res :=
  .next (evRegfileError gid reg lane corrected s)

/-- Bank of a line, numbered across channels, pseudo-channels and banks as WATCH holds them, and its row. -/
def bankRow (m : Module) (line : Nat) : Nat × Nat :=
  if m.expander then
    let q := line % 393216
    (((2 * (q % 16) + q / 16 % 2) * 2) * 16 + q / 32 % 16, line / 393216)
  else ((line % 32 * 2 + line / 32 % 2) * 16 + line / 64 % 16, line / 32768 % 8192)

/-- Key of a row's counter. -/
def rowKey (b : Nat × Nat) : Nat := b.1 * 8192 + b.2

/-- An uncorrectable error in the memory of a die: a unit that L2 or the memory-side cache has written since is superseded
there; otherwise it is poisoned, and the levels' unwritten copies of it go (log 87). -/
def State.memErr (s : State) (d u : Nat) : State :=
  let bit := 2 ^ (u % 8)
  let line := u / 8
  let up := ((SMap.get? (s.die d).l2 line).elim 0 (fun l => l.wr)) |||
    (((s.die d).msc.find? (fun e => e.2.line == line)).elim 0 (fun e => e.2.wr))
  if up &&& bit != 0 then s
  else (s.poisonUnits [u]).updDie d (fun x => { x with
    l2 := SMap.upd x.l2 line (fun l => { l with val := maskSub l.val bit })
    msc := SMap.mapV (fun (l : MscLine) => if l.line == line then { l with val := maskSub l.val bit } else l) x.msc })

/-- A unit of a copy is marked poisoned. -/
def Line.mark (u : Nat) (l : Line) : Line := { l with p := l.p ||| 2 ^ (u % 8) }

/-- An uncorrectable error in a store that holds a 32-byte unit marks it poisoned there (R355). -/
def State.unitErr (s : State) (u : Nat) (at' : ErrLoc) : State :=
  let line := u / 8
  let bit := 2 ^ (u % 8)
  match at', s.mod.place (32 * u) with
  | .memory, .die d => s.memErr d u
  | .memory, .cxl .. => s.poisonUnits [u]
  | .memory, .hole => s
  | .l2, .die d => s.updDie d (fun x => { x with
      l2 := SMap.upd x.l2 line (fun l => { l with p := l.p ||| (l.val &&& bit) }) })
  | .msc, .die d => s.updDie d (fun x => { x with
      msc := SMap.mapV (fun (l : MscLine) => if l.line == line then { l with p := l.p ||| (l.val &&& bit) } else l) x.msc })
  | .l1 c, _ => s.updCore c (fun x => { x with l1 := SMap.upd x.l1 line (Line.mark u) })
  | .guest d, _ => s.updDie d (fun x => { x with guest := SMap.upd x.guest line (Line.mark u) })
  | .far d, _ => s.updDie d (fun x => { x with far := SMap.upd x.far line (Line.mark u) })
  | _, _ => s

/-- A store holds a copy of the line of a unit. -/
def State.holdsUnit (s : State) (u : Nat) (at' : ErrLoc) : Bool :=
  let line := u / 8
  match at', s.mod.place (32 * u) with
  | .memory, .hole => false
  | .memory, _ => true
  | .l2, .die d => (SMap.get? (s.die d).l2 line).isSome
  | .msc, .die d => (s.die d).msc.any (fun e => e.2.line == line)
  | .l1 c, _ => (SMap.get? (s.core c).l1 line).isSome
  | .guest d, _ => (SMap.get? (s.die d).guest line).isSome
  | .far d, _ => (SMap.get? (s.die d).far line).isSome
  | _, _ => false

/-- SRC, die and UNIT of the record of a unit's error (R471): a cluster for L1, a slice for L2, a stack below. -/
def State.errUnit (s : State) (pa : Nat) (at' : ErrLoc) : Nat × Nat × Nat :=
  let k := (stackOf s.mod pa).1
  match at', s.mod.place pa with
  | .memory, .cxl _ t _ => (9, 0, t)
  | .memory, _ => (7, k / 2, k % 2)
  | .l2, _ => (5, k / 2, l2Slice pa)
  | .msc, _ => (6, k / 2, k % 2)
  | .l1 c, _ => (4, c / 128, c / 4 % 32)
  | .guest d, _ | .far d, _ => (5, d, l2Slice pa)

/-- MEMORY_UNIT_ERROR (R355): an uncorrectable error poisons its 32-byte unit in the store that holds it; the detecting agent
writes a record, and keeps account of the errors of a memory row for its repair (R473). -/
def evMemoryUnitError (pa : Nat) (e : UnitErr) (s : State) : State :=
  if !s.holdsUnit (pa / 32) e.loc then s
  else
    let r := s.errUnit pa e.loc
    let s := (if e.corrected then s else s.unitErr (pa / 32) e.loc).relRec r.1 (errSev e.corrected) r.2.1 r.2.2 0 pa
    match e.loc, s.mod.place pa with
    | .memory, .die _ =>
      let k := stackOf s.mod pa
      let r := rowKey (bankRow s.mod k.2)
      s.updStack k.1 (fun x =>
        if e.corrected then { x with rowCorr := SMap.put x.rowCorr r (SMap.getD x.rowCorr 0 r + 1) }
        else { x with rowBad := if x.rowBad.contains r then x.rowBad else x.rowBad ++ [r] })
    | .l1 c, _ => s.corrected (c / 4) e.corrected
    | _, _ => s

def execMemoryUnitError (pa : Nat) (corrected : UnitErr) (s : State) : Res := .next (evMemoryUnitError pa corrected s)

/-- Entries that a canvas of a type has, an FP64 element counting once (R216). -/
def CTy.entries : CTy → Nat
  | .f32 | .i32 | .f64 | .lut1 => 4096
  | .lut2 => 8192
  | .lut3 => 16384
  | .lut4 => 32768

/-- CANVAS_ENTRY_ERROR (R217): an uncorrectable error sets P of the entry, in both halves of an FP64 element. -/
def evCanvasEntryError (team cid idx : Nat) (corrected : Bool) (s : State) : State :=
  match SMap.get? s.canvases cid, SMap.get? s.teams team with
  | some c, some t =>
    let n := CTy.entries c.ty
    let i := if c.ty == .f64 then idx % n else idx
    if c.team != team || (if c.ty == .f64 then 2 * n else n) ≤ idx then s
    else
      let s := if corrected then s else s.updCanvas cid (fun c => { c with
        elems := SMap.set c.elems CElem.zero i { SMap.getD c.elems CElem.zero i with p := true } })
      s.coreRec 2 t.core ((SMap.get? s.grids t.grid).elim 0 (fun g => g.ctx)) idx corrected
  | _, _ => s

def execCanvasEntryError (team cid idx : Nat) (corrected : Bool) (s : State) : Res :=
  .next (evCanvasEntryError team cid idx corrected s)

/-- TEAM_STORE_ERROR (R346, R355): an uncorrectable error sets the poison flag of its word. -/
def evTeamStoreError (team addr : Nat) (corrected : Bool) (s : State) : State :=
  match SMap.get? s.teams team with
  | none => s
  | some t =>
    if t.scratch ≤ addr || s.inShadow team t then s
    else
      let s := if corrected then s else s.updCore t.core (fun c => { c with
        tsP := SMap.set c.tsP false ((t.tsBase + addr) / 4) true })
      s.coreRec 3 t.core ((SMap.get? s.grids t.grid).elim 0 (fun g => g.ctx)) addr corrected

def execTeamStoreError (team addr : Nat) (corrected : Bool) (s : State) : Res :=
  .next (evTeamStoreError team addr corrected s)

/-- A group may retire (R181, R239). -/
def State.mayRetire (s : State) (gid : Nat) (g : Group) : Bool :=
  lanes32.all (fun l => (g.lane l).st == .exited) && g.pend.isEmpty &&
    g.toks.all (fun t => t.st != .pending) && (s.cluster (g.core / 4)).ops.all (fun o => o.gid != gid)

/-- GROUP_RETIRE (R181, R259, R350). -/
def evGroupRetire (gid : Nat) (s : State) : State :=
  match SMap.get? s.groups gid with
  | none => s
  | some g =>
    if s.mayRetire gid g then ((s.removeGroup gid).countRelease g.team false).sweepTeam g.team else s

def execGroupRetire (gid : Nat) (s : State) : Res := .next (evGroupRetire gid s)

end Sys2Proof.Machine
end

