-- ==== Sys2Proof/Machine/Cut.lean ====
section
/-! DEFINITION. Ends of grids asked for by software, and the consistent cut (16 R413, R414, 11 R310-R318, 17 R434): one
meaning for each packet and for the write of an image. -/

namespace Sys2Proof.Machine

-- R413: DESTROY

/-- The grid of a queue slot of a VD (R413). -/
def State.slotGrid (s : State) (v die q : Nat) : Option (Nat × Grid) :=
  s.grids.find? (fun e => e.2.vd == v && e.2.parts.any (fun p => p.die == die && p.qslot == q))

/-- Stop the dispatch of a grid, and cut its teams when forced; the grids that its teams spawned likewise. What an image
holds of it runs no more (R413, R414). -/
def State.destroyGrid (force : Bool) : Nat → Nat → State → State
  | 0, _, s => s
  | f + 1, i, s =>
    if (SMap.get? s.grids i).isNone then s
    else
      let live := ((s.teamsOf i).filter (fun e => e.2.det)).length
      let s := s.updGrid i (fun g => { g with trunc := true, saved := 0, placing := false, det := live })
      let s := s.stopDispatch i
      let s := if force then s.cutGrid i true else s
      let kids := s.grids.filter (fun e => e.2.parentGrid == some i)
      evGridComplete i (kids.foldl (fun s e => State.destroyGrid force f e.1 s) s)

/-- A status record (R395, R414). -/
def State.statusRec (s : State) (die ctx : Nat) (p : Pkt) (status reason : Nat) : State :=
  s.ctxReport die ctx p.aper p.staddr
    (complRecord status reason (if p.kind == 2 || p.kind == 3 then p.qslot else 0) p.seq 0 0 0)

/-- The cut of a context that is under way. -/
def State.cutOf (s : State) (ctx : Nat) : Option Cut := (SMap.get? s.ctxs ctx).bind (fun x => x.cut)

/-- A packet waits for the end of a context's cut (R414). -/
def State.waitCut (s : State) (ctx : Nat) (w : NotifyWr) : State :=
  s.updCtx ctx (fun x => { x with cut := x.cut.map (fun c => { c with waiting := c.waiting ++ [w] }) })

/-- DESTROY and DESTROY.F (R413, R414). -/
def evDestroy (new : Bool) (kind : Nat) (w : NotifyWr) (s : State) : State :=
  s.packet new kind w (fun s v die _ p =>
    match s.ctxOf v (notifyPas w) with
    | (s, none) => s.refusePkt v rsPasid w
    | (s, some ctx) =>
      match s.slotGrid v die p.qslot with
      | none => s.statusRec die ctx p csNoslot 0
      | some (i, g) =>
        if (s.cutOf g.ctx).isSome then s.waitCut g.ctx w
        else if g.posted || s.gridOver i g then s.statusRec die ctx p csNoslot 0
        else (State.destroyGrid (kind == 3) 64 i s).statusRec die ctx p csOk 0)

def execDestroy (w : NotifyWr) (s : State) : Res := .next (evDestroy true 2 w s)
def execDestroyF (w : NotifyWr) (s : State) : Res := .next (evDestroy true 3 w s)

-- R310 step 1: PREEMPT

/-- The context of a team. -/
def State.teamCtx (s : State) (t : Team) : Option Nat := (SMap.get? s.grids t.grid).map (fun g => g.ctx)

/-- A team is concerned by a cut of a context, whole or of one cluster. -/
def State.cutHits (s : State) (ctx target : Nat) (t : Team) : Bool :=
  s.teamCtx t == some ctx && (target == 0xFFFF || t.core / 4 == target)

/-- Teams in shadow slots go back to the untaken ranges of their grids (R310 step 1, R405). -/
def State.unshadow (s : State) (sel : Team → Bool) : State :=
  let ts := s.teams.filter (fun e => s.inShadow e.1 e.2 && !e.2.det && sel e.2)
  let s := ts.foldl (fun s e =>
    if e.2.rank != 0 then s
    else s.updGrid e.2.grid (fun g => { g with parts := g.parts.map (fun (p : Part) =>
      if p.die == e.2.core / 128 then
        { p with st := .dispatching, ranges := p.ranges ++ [⟨e.2.curve, e.2.curve + e.2.span, none⟩] }
      else p) })) s
  { s with
    cores := SMap.mapV (fun (c : Core) =>
      { c with shadow := c.shadow.filter (fun x => !ts.any (fun e => e.1 == x.team)) }) s.cores
    teams := s.teams.filter (fun e => !ts.any (fun x => x.1 == e.1)) }

/-- The wait of a `.sync` whose arrival is counted (R255). -/
def Wait.counted : Wait → Bool
  | .bar _ _ _ sync => sync
  | _ => false

/-- Waits that a cut withdraws with `%tpc` at their instruction (R277, R310). -/
def Wait.listed : Wait → Bool
  | .tkw | .evq | .bar .. | .gate | .spawn | .grow => true
  | _ => false

/-- Waits of groups are withdrawn (R277, R310); a `ccpy` that holds an object RESUMING completes first. Any other wait is no
instruction's effect: its instruction has not begun, and issues again. -/
def State.withdrawWaits (s : State) (gs : List Nat) : State :=
  let keep (i : Nat) : Bool := match SMap.get? s.groups i with | some g => g.wait == .ccpy | none => true
  let out := gs.filter (fun i => !keep i)
  let s := out.foldl (fun s i => s.updGroup i (fun g =>
    if g.wait == .no then g
    else { g with
      wait := .no, held := none, tpc := if g.wait.listed then g.runPc else g.tpc
      prog := if g.prog == 0 && g.wait.counted then 1 else g.prog })) s
  { s with clusters := SMap.mapV (fun (c : Cluster) =>
      { c with grows := c.grows.filter (fun x => !out.contains x.gid) }) s.clusters }

/-- The groups of the teams that a cut concerns. -/
def State.cutGroups (s : State) (ctx target : Nat) : List (Nat × Group) :=
  s.groups.filter (fun e => match SMap.get? s.teams e.2.team with
    | some t => s.cutHits ctx target t
    | none => false)

/-- A cut begins: sources stop (R310 step 1). A save of the same target that faulted is tried again (R314). -/
def State.beginCut (s : State) (ctx : Nat) (c : Cut) : State :=
  let s := s.updCtx ctx (fun x => { x with
    cut := some c, faults := x.faults.filter (fun f => c.target != 0xFFFF && f.1 != c.target) })
  let s := s.withdrawWaits ((s.cutGroups ctx c.target).map (fun e => e.1))
  s.unshadow (s.cutHits ctx c.target)

/-- The cluster that TARGET names, or 65,535 for the whole context (R387). -/
def targetOf (t : Nat) : Nat := if t == 0xFFFF then t else t / 256 % 16 * 32 + t % 32

/-- PREEMPT (R310, R414): one that arrives during a cut of the context waits for its end. -/
def evPreempt (new : Bool) (w : NotifyWr) (s : State) : State :=
  s.packet new 4 w (fun s v die _ p =>
    match s.ctxOf v (notifyPas w) with
    | (s, none) => s.refusePkt v rsPasid w
    | (s, some ctx) =>
      if (s.cutOf ctx).isSome then s.waitCut ctx w
      else s.beginCut ctx ⟨targetOf p.target, die, none, p.addr, p.aper, p.staddr, p.seq, []⟩)

def execPreempt (w : NotifyWr) (s : State) : Res := .next (evPreempt true w s)

-- Save areas (R314, R434)

/-- Where an image stands: in the address space of a context, or at a PA under a key (R434). -/
inductive Area
  | space (die cx : Nat) (ap : Half) (off : DWord)
  | pa (pa key : Nat)

def Area.read (s : State) (off n : Nat) : Area → Option (List Byte)
  | .space die cx ap base => (s.ctxRead die cx 0 ap (base + BitVec.ofNat 64 off) n n).bytes
  | .pa p key =>
    let r := s.homeRead (p + off) n key
    if r.2.2 then none else some r.2.1

/-- What a read of an image leaves beside its bytes: records and metering (R345, R436). -/
def Area.touch (s : State) (n : Nat) : Area → State
  | .space die cx ap base => (s.ctxRead die cx 0 ap base n n).after s
  | .pa .. => s

/-- The checks of the pieces of a write or read of an image. -/
def Area.chks (s : State) (off n : Nat) (need : Need) : Area → List Chk
  | .space die cx ap base =>
    (pages (n / 65536 + 2) (base.toNat + off) n).map (fun p => s.ctxChk die cx 0 need ap (BitVec.ofNat 64 p.1) p.2)
  | .pa .. => []

/-- The first failing check of a write of an image, with its address (R314). -/
def Area.writeTrap (s : State) (off n : Nat) (ar : Area) : Option Trap :=
  (ar.chks s off n needW).findSome? (fun c => match c with | .bad _ t _ => some t | _ => none)

/-- The tier object that an access to an image must wait for (R373). -/
def Area.tier (s : State) (off n : Nat) (need : Need) (ar : Area) : Option Nat :=
  (ar.chks s off n need).findSome? Chk.waits

/-- Write a part of an image, in the class of spills (R356). -/
def Area.write (s : State) (ctx off : Nat) (bs : List Byte) : Area → State
  | .space die cx ap base => (match s.ctxWrite die cx 3 ap (base + BitVec.ofNat 64 off) bs with
    | .ok t | .bad t _ => t
    | .tier _ => s)
  | .pa p key => s.sysWriteAs (p + off) bs key ctx 3

-- The context image (R315-R318)

def alignUp (n a : Nat) : Nat := (n + a - 1) / a * a

/-- A side of a barrier in a segment (R318). -/
def sideBytes (b : BarSide) : List Byte := leBytes 1 b.tgt ++ leBytes 1 b.cnt ++ leBytes 2 b.gen.toNat

/-- Bytes of the poison map of a team store (R318). -/
def pmapSize (scratch : Nat) : Nat := alignUp ((scratch + 31) / 32) 256

/-- Bits as bytes, bit 0 first. -/
def bitBytes : Nat → List Bool → List Byte
  | 0, _ => []
  | n + 1, bs => BitVec.ofNat 8 ((bs.take 8).zipIdx.foldl (fun a b => if b.1 then a + 2 ^ b.2 else a) 0) :: bitBytes n (bs.drop 8)

/-- One entry of a canvas slot (R217, R318). -/
def entryBytes (p : Bool) (g d : Nat) : List Byte :=
  leBytes 4 d ++ leBytes 1 (g % 4 + if p then 128 else 0) ++ [0, 0, 0]

/-- The slots of a canvas: an FP64 canvas has its low entries in the first and its high entries in the second. -/
def canvasBytes (c : Canvas) : List Byte :=
  let at' (i : Nat) : CElem := SMap.getD c.elems CElem.zero i
  if c.ty == .f64 then
    (List.range 4096).flatMap (fun i => entryBytes (at' i).p (at' i).g ((at' i).d % 2 ^ 32)) ++
      (List.range 4096).flatMap (fun i => entryBytes (at' i).p 0 ((at' i).d / 2 ^ 32))
  else (List.range (CTy.entries c.ty)).flatMap (fun i => entryBytes (at' i).p (at' i).g (at' i).d)

/-- Code of a canvas type (R216). -/
def tyCode : CTy → Nat
  | .f32 => 0 | .i32 => 1 | .f64 => 2 | .lut1 => 3 | .lut2 => 4 | .lut3 => 5 | .lut4 => 6

/-- A group record of a segment (R318). A lane outside the handler path holds all ones where its return PC would stand
(log 29). -/
def groupRec (g : Group) : List Byte :=
  let w (m : SMap Half) (n : Nat) : List Byte := (List.range n).flatMap (fun i => leBytes 2 (SMap.getD m 0 i).toNat)
  w g.wT 32 ++ w g.wC 4 ++ w g.wG 4 ++ leBytes 1 (2 + g.inH.toNat) ++ leBytes 1 g.lsel.toNat ++ [g.tcause, 0] ++
    leBytes 2 g.tvalh.toNat ++ [0, 0] ++ leBytes 8 g.tpc.toNat ++ leBytes 8 g.tval.toNat ++ List.replicate 24 0 ++
    lanes32.flatMap (fun l =>
      let x := g.lane l
      leBytes 8 (if g.inH && x.hnd then x.ret.toNat else if g.inH then 2 ^ 64 - 1 else 0))

/-- A team segment (R318). -/
def State.segment (s : State) (t : Team) (gs : List (Nat × Group)) : List Byte :=
  let cvs := t.binds.filterMap (fun b => (SMap.get? s.canvases b.2).map (fun c => (b.1, c)))
  let bind (n : Nat) : List Byte :=
    [match cvs.find? (fun c => c.1 == n) with | some c => BitVec.ofNat 8 (128 + tyCode c.2.ty) | none => 0]
  let blk := ((SMap.get? s.grids t.grid).bind (fun k => SMap.get? k.blocks t.block)).getD []
  let recs := (List.range 16).flatMap (fun k =>
    match gs.find? (fun e => e.2.slot == k) with
    | some e => groupRec e.2
    | none => List.replicate 384 0)
  let ts := s.tsRead t.core t.tsBase t.scratch
  let pm := bitBytes (pmapSize t.scratch) ((wordsOf t.tsBase t.scratch).map (fun w =>
    SMap.getD (s.core t.core).tsP false w))
  let top := 0x1900 + t.scratch + pmapSize t.scratch
  let body := recs ++ ts.1 ++ pm ++ List.replicate (alignUp top 256 - top) 0 ++ cvs.flatMap (fun c => canvasBytes c.2)
  let hd := leBytes 4 0x4B545347 ++ leBytes 2 1 ++ leBytes 1 t.g ++ leBytes 1 t.sp ++ leBytes 4 t.scratch ++
    leBytes 1 t.canvas ++ leBytes 1 t.pool ++ leBytes 1 t.span ++ leBytes 1 (if t.det then 255 else t.rank) ++
    (List.range 16).flatMap bind ++
    (List.range 16).flatMap (fun n => match SMap.get? t.bars n with
      | some b => sideBytes b.full ++ sideBytes b.empty
      | none => List.replicate 8 0) ++
    (List.range 4).flatMap (fun n => match blk[n]? with
      | some b => sideBytes b ++ [0, 0, 0, 0]
      | none => List.replicate 8 0) ++
    leBytes 8 (crc64 body) ++ List.replicate 56 0
  hd ++ body

/-- The object of a group in an image (R317); `gen` is the generation found there. -/
def State.cutObject (s : State) (g : Group) (gen : Nat) : List Byte :=
  let body := objBody g
  objHeader g (2 + if g.halted.isSome then 4 else 0) ((gen + 1) % 2 ^ 64) stSusp 0 (s.mod.dieReg (g.core / 128))
    (s.owner g.ctx) (0x80 + bodySize g) (crc64 body) ++ body

/-- What an image holds (R315, R316): teams with their groups, and grids, whose arrivals and releases still on their way go to
the mailbox. -/
structure Saved where
  teams : List (Nat × Team × List (Nat × Group))
  grids : List (Nat × Grid)
  late : List (Nat × Nat × Nat)

/-- The mailbox records of arrivals and releases of groups that come after the state they count toward was written (R313, R316),
in order: each names the generation that it counts toward, those before it in the mailbox applied. -/
def Saved.mboxRecs (v : Saved) : List (Nat × Nat × Nat) → List (Nat × SMap BarSide) → List (List Byte)
  | [], _ => []
  | e :: es, bars =>
    let n := e.2.2
    let here := ((bars.find? (fun b => b.1 == e.1)).elim [] (fun b => b.2))
    let gen := (SMap.getD here ⟨0, 0, 0⟩ n).gen.toNat
    let team := (v.teams.findIdx? (fun t => t.2.2.any (fun x => x.1 == e.2.1))).getD 0
    (leBytes 1 (if n == 4 then 3 else 2) ++ leBytes 1 (n % 4) ++ leBytes 2 (if n == 4 then 0 else gen) ++
      leBytes 4 ((v.grids.findIdx? (fun g => g.1 == e.1)).getD 0) ++ leBytes 4 team ++ leBytes 4 0) ::
      v.mboxRecs es (bars.map (fun b => if b.1 == e.1 then (b.1, SMap.upd b.2 n BarSide.arrive) else b))

/-- A grid-table entry (R316) with the offset of its ranges. -/
def State.gridEntry (s : State) (i : Nat) (g : Grid) (roff : Nat) : List Byte :=
  let q := (g.parts.find? (fun p => p.die == g.recv)).elim 0xFFFF (fun p => p.qslot)
  let n := (g.parts.flatMap (fun p => p.ranges)).length
  leBytes 2 q ++ leBytes 2 ((s.gridReleased i).toNat + 2 * g.desc.cores.toNat + 4 * g.fault.toNat) ++
    leBytes 4 g.retired ++ leBytes 8 g.addr.toNat ++ leBytes 2 g.aper.toNat ++ leBytes 2 g.relTeams ++ leBytes 4 n ++
    leBytes 8 roff ++
    (List.range 4).flatMap (fun k => let b := SMap.getD g.bars ⟨0, 0, 0⟩ k; leBytes 2 b.cnt ++ leBytes 2 b.gen.toNat) ++
    List.replicate 16 0

/-- Running offsets of parts of given sizes, each aligned to 256. -/
def offsets (start : Nat) : List Nat → List Nat
  | [] => []
  | n :: ns => alignUp start 256 :: offsets (alignUp start 256 + n) ns

/-- The coordinates of a team: those of its place in its grid, or a detached group's own (R267, R400). -/
def State.teamXyz (s : State) (t : Team) (gs : List (Nat × Group)) : Nat × Nat × Nat :=
  match if t.det then none else SMap.get? s.grids t.grid, gs.head? with
  | some g, _ => curveTeam g.desc.curve g.desc.strip g.lr.gx g.lr.gy t.curve
  | none, some g => (g.2.id.teamX, g.2.id.teamY, g.2.id.teamZ)
  | none, none => (0, 0, 0)

/-- The parts of an image after its directory, with their offsets, and the directory itself (R315-R318). Tables come
first, then range lists, segments and objects (log 29). `gen` reads the generation found at an object's place. -/
def State.imageParts (s : State) (ctx : Nat) (part : Bool) (v : Saved) (gen : Nat → Nat) :
    List (Nat × List Byte) × List Byte :=
  let nT := v.teams.length
  let gs := v.teams.zipIdx.flatMap (fun t => t.1.2.2.map (fun g => (t.2, g.2)))
  let nO := gs.length
  let objTab := 0x80 + 32 * nT
  let mbox := objTab + 16 * nO
  let gridTab := mbox + 16 * v.late.length
  let rTab := gridTab + 64 * v.grids.length
  let rng (g : Grid) : List Range := if part then [] else g.parts.flatMap (fun p => p.ranges)
  let rOffs := (v.grids.foldl (fun (a : List Nat × Nat) g => (a.1 ++ [a.2], a.2 + 16 * (rng g.2).length)) ([], rTab))
  let segs := v.teams.map (fun t => s.segment t.2.1 t.2.2)
  let segOffs := offsets rOffs.2 (segs.map (fun b => b.length))
  let segEnd := (segOffs.zip segs).foldl (fun _ x => x.1 + x.2.length) rOffs.2
  let objOffs := offsets segEnd (gs.map (fun g => 0x80 + bodySize g.2))
  let objs := (objOffs.zip gs).map (fun x => (x.1, s.cutObject x.2.2 (gen x.1)))
  let size := (objs.foldl (fun _ x => x.1 + x.2.length) segEnd)
  let gIdx (i : Nat) : Nat := (v.grids.findIdx? (fun g => g.1 == i)).getD 0xFFFF
  let first (k : Nat) : Nat := (gs.takeWhile (fun g => g.1 < k)).length
  let teamTab := ((v.teams.zip (segOffs.zip segs)).zipIdx).flatMap (fun x =>
    let t := x.1.1.2.1
    let xyz := s.teamXyz t x.1.1.2.2
    leBytes 8 x.1.2.1 ++ leBytes 4 x.1.2.2.length ++ leBytes 2 (gIdx t.grid) ++ leBytes 1 x.1.1.2.2.length ++ [0] ++
      leBytes 4 xyz.1 ++ leBytes 2 xyz.2.1 ++ leBytes 2 xyz.2.2 ++
      leBytes 4 (first x.2) ++ [0, 0, 0, 0])
  let objT := (objOffs.zip gs).flatMap (fun x => leBytes 8 x.1 ++ leBytes 4 x.2.1 ++ leBytes 1 x.2.2.slot ++ [0, 0, 0])
  let gridT := (v.grids.zip rOffs.1).flatMap (fun x =>
    s.gridEntry x.1.1 (if part then { x.1.2 with parts := x.1.2.parts.map (fun (p : Part) => { p with ranges := [] }) }
      else x.1.2) x.2)
  let rngs := v.grids.flatMap (fun g => (rng g.2).flatMap (fun r => leBytes 8 r.lo ++ leBytes 8 r.hi))
  let dir0 := leBytes 4 0x4B544344 ++ leBytes 2 1 ++ leBytes 2 (1 + if part then 2 else 0) ++ leBytes 4 (s.owner ctx) ++
    leBytes 4 nT ++ leBytes 4 nO ++ leBytes 4 v.late.length ++ leBytes 8 0x80 ++ leBytes 8 objTab ++ leBytes 8 mbox ++
    leBytes 8 gridTab ++ leBytes 4 v.grids.length ++ leBytes 4 0 ++ leBytes 8 size
  ((0x80, teamTab ++ objT ++ (v.mboxRecs v.late (v.grids.map (fun g => (g.1, g.2.bars)))).flatten ++ gridT ++ rngs) :: (segOffs.zip segs ++ objs), dir0 ++ leBytes 8 (crc64 dir0) ++ List.replicate 48 0)

-- R310 steps 2 to 4: CUT_WRITE

/-- Compacted lanes are written back to their home slots, ejected and at their own PCs, and their groups are gone
(R178). -/
def State.lanesHome (s : State) (gid : Nat) (g : Group) : State :=
  if !g.compacted then s
  else
    let s := lanes32.foldl (fun s l =>
      let x := g.lane l
      match x.home with
      | some h => s.updGroup h.gid (fun y => y.updLane h.lane (fun z => { z with
          st := .ejected, pc := x.pc, v := x.v, pr := x.pr, rng := x.rng }))
      | none => s) s
    s.removeGroup gid

/-- An operation belongs to what a cut concerns: the context, or the part of it on one cluster. -/
def cutHasOp (ctx target cx core : Nat) : Bool := cx == ctx && (target == 0xFFFF || core / 4 == target)

/-- Collectives that have everything complete (R310 step 2). -/
def State.collDrain (s : State) (ctx target : Nat) : State :=
  s.mod.colls.foldl (fun s c => c.ranks.foldl (fun s x =>
    if !cutHasOp ctx target x.ctx x.core || c.doneRanks.contains x.rank then s
    else match s.mod.colls.find? (fun k => k.is c.comm c.inst) with
      | some k => (s.acOutcome c.comm k x).elim s (s.acFinish c.comm k x)
      | none => s) s) s

/-- Arrivals and releases on their way count before the cut, but for those of which a free value says that they come after
the state was written, which stay; a partial cut counts those of its own groups alone (R313, R320). -/
def State.cutArrivals (s : State) (ctx : Nat) (part : Bool) (gs : List Nat) : State :=
  let stays (i k gid : Nat) : Bool := if part then !gs.contains gid else (Config.freeNat s.draws).testBit (1024 * i + k)
  let take (i : Nat) (g : Grid) : Grid :=
    let fs := g.fwd.zipIdx
    { (fs.filter (fun f => !stays i f.2 f.1.1)).foldl (fun g f => g.take f.1.2) g with
      fwd := (fs.filter (fun f => stays i f.2 f.1.1)).map (fun f => f.1) }
  { s with grids := s.grids.map (fun e => if e.2.ctx == ctx then (e.1, take e.1 e.2) else e), draws := s.draws + 1 }

/-- The drain (R310 step 2, R297): results, engines and collectives, easels, arrivals on their way and inter-die traffic. -/
def State.cutDrain (s : State) (gs : List Nat) (ctx target : Nat) : State :=
  let s := gs.foldl (fun s i => s.updGroup i Group.settleResults) s
  let s := s.engineDrain (fun o => cutHasOp ctx target o.ctx o.core)
  let s := s.collDrain ctx target
  let s := s.easelDrain (fun o => gs.contains o.gid)
  let s := s.cutArrivals ctx (target != 0xFFFF) gs
  let s := gs.foldl (fun s i => match SMap.get? s.groups i with | some g => s.flushTeam g | none => s) s
  s.drainAll

/-- Work of the context is left in the ports of base dies or in the tier engine (R310 step 2). -/
def State.cutBusy (s : State) (ctx target : Nat) : Bool :=
  s.hbms.any (fun k => (k.2.q ++ k.2.waitq ++ k.2.wins.flatMap (fun w => w.2) ++ k.2.replies.map (fun r => (r.1, r.2.1))).any
    (fun p => p.2.ctx == ctx)) ||
    s.tops.any (fun o => o.2.ctx == ctx && (target == 0xFFFF ||
      (SMap.get? s.groups o.2.gid).any (fun g => g.core / 4 == target)))

/-- A saved team leaves its core: what its grid keeps of it is its count and what it has released (R259, R316). -/
def State.unloadTeam (s : State) (tid : Nat) : State :=
  match SMap.get? s.teams tid with
  | none => s
  | some t =>
    let gs := s.groupsOf tid
    let marks := ((gs.filter (fun e => e.2.released)).map (fun e => (t.lin, e.2.slot))) ++
      (if t.rel then [(t.lin, 16)] else []) ++ (List.range t.suspd).map (fun _ => (t.lin, 17))
    let s := gs.foldl (fun s e => (s.holdToks e.2.ctx .sys e.2).removeGroup e.1) s
    let last := !s.teams.any (fun e => e.1 != tid && !e.2.det && e.2.grid == t.grid && e.2.block == t.block)
    let s := if last && t.fuse then s.unfuse ⟨t.core, tid, (s.teamCtx t).getD 0, 0, s.chainOf tid, false⟩ t.cores else s
    let s := s.updCluster (t.core / 4) (fun c => { c with free := c.free + t.pool })
    let s := s.updCore t.core (fun c => { c with shadow := c.shadow.filter (fun x => x.team != tid) })
    let s := { s with canvases := s.canvases.filter (fun e => e.2.team != tid), teams := SMap.del s.teams tid }
    s.updGrid t.grid (fun g =>
      if t.det then g else { g with saved := g.saved + 1, relGrps := g.relGrps ++ marks })

/-- A cut ends: packets that waited for it go on (R414). -/
def State.endCut (s : State) (ctx : Nat) (c : Cut) (stop : Bool) (status : Nat) : State :=
  let v := ctx / 256
  let s := s.updCtx ctx (fun x => { x with
    cut := none, stopped := x.stopped || (stop && c.pa.isNone),
    vstop := x.vstop || (stop && c.pa.isSome) })
  let pre := c.waiting.filter (fun w => (parsePkt w.bytes).kind == 4)
  let rest := c.waiting.filter (fun w => (parsePkt w.bytes).kind != 4)
  let s := match c.pa with
    | some _ => s
    | none => s.ctxReport c.die ctx c.aper c.stoff (complRecord status 0 0 c.seq 0 0 0)
  let s := pre.foldl (fun s w =>
    let p := parsePkt w.bytes
    s.ctxReport (bits w.off 15 12) ctx p.aper p.staddr (complRecord status 0 0 p.seq 0 0 0)) s
  s.updVd v (fun d => { d with queued := rest ++ d.queued })

/-- The area of a cut. -/
def Cut.area (c : Cut) (s : State) (ctx : Nat) : Area :=
  match c.pa with
  | some p => .pa p (s.mod.keyTag (s.vd (ctx / 256)).inf.skey)
  | none => .space c.die ctx c.aper c.addr

/-- A save fault (R308 KIND 4, R314): the parts of the image up to the one that faults are written, COMPLETE stays clear, and
what the cut stopped stays stopped in place. -/
def State.saveFault (s : State) (ctx : Nat) (c : Cut) (ar : Area) (parts : List (Nat × List Byte)) (t : Trap) : State :=
  let ok := parts.takeWhile (fun x => (ar.writeTrap s x.1 x.2.length).isNone)
  let s := ok.foldl (fun s x => ar.write s ctx x.1 x.2) s
  let s := s.fqPost (ctx / 256) (faultRecord t.cause 4 0xFFFF (c.die * 128) (s.mod.dieReg c.die) 0 (ctx / 256) 0 t.tval
    t.tvalh 0)
  (s.endCut ctx c false csSavefault).updCtx ctx (fun x => { x with faults := x.faults ++ [(c.target, c.aper, c.addr)] })

/-- Arrivals and releases on their way that the mailbox of a cut takes, by grid and place: all that the drain left, or for a partial
cut those of other teams that a free value picks (R313, R320, log 101). -/
def Cut.late (c : Cut) (s : State) (grids : List (Nat × Grid)) : List (Nat × Nat × Nat × Nat) :=
  grids.flatMap (fun e => (e.2.fwd.zipIdx.filter (fun f =>
    c.target == 0xFFFF || (Config.freeNat s.draws).testBit (1024 * e.1 + f.2))).map (fun f => (e.1, f.2, f.1.1, f.1.2)))

/-- What the image of a cut holds. -/
def Cut.saved (c : Cut) (s : State) (ctx : Nat) : Saved :=
  let part := c.target != 0xFFFF
  let ts := s.teams.filter (fun e => s.cutHits ctx c.target e.2 && !(s.inShadow e.1 e.2 && !e.2.det))
  let grids := s.grids.filter (fun e => e.2.ctx == ctx && !e.2.posted && (!part || ts.any (fun t => t.2.grid == e.1)))
  let late := (c.late s grids).map (fun x => (x.1, x.2.2))
  ⟨ts.map (fun e => (e.1, e.2, s.groupsOf e.1)), grids, late⟩

/-- The parts of the image of a cut, its header, and its length. -/
def Cut.image (c : Cut) (s : State) (ctx : Nat) : List (Nat × List Byte) × List Byte × Nat :=
  let ar := c.area s ctx
  let gen (o : Nat) : Nat := match ar.read s (o + 8) 8 with | some b => leNat b | none => 0
  let im := s.imageParts ctx (c.target != 0xFFFF) (c.saved s ctx) gen
  (im.1, im.2, im.1.foldl (fun m x => max m (x.1 + x.2.length)) 0x80)

/-- CUT_WRITE (R310-R318, R434): once nothing of the cut can still move, the image is written and published, COMPLETE last,
and the teams it holds leave their cores. -/
def evCutWrite (ctx : Nat) (s : State) : State :=
  match s.cutOf ctx with
  | none => s
  | some c =>
    let gs := s.cutGroups ctx c.target
    if gs.any (fun e => e.2.wait == .ccpy || !e.2.owed.isEmpty) || s.cutBusy ctx c.target then s
    else
      let d := s.cutDrain (gs.map (fun e => e.1)) ctx c.target
      if !d.quiet then s.askHost d.heldUpd
      else if d.cutBusy ctx c.target then d
      else
        let h := gs.foldl (fun s e => match SMap.get? s.groups e.1 with | some g => s.lanesHome e.1 g | none => s) d
        let part := c.target != 0xFFFF
        let ar := c.area h ctx
        let im := c.image h ctx
        let open' := im.2.1.take 6 ++ leBytes 2 (if part then 2 else 0) ++ im.2.1.drop 8
        let ends := im.2.2
        let tr := if c.pa.isNone && c.addr.toNat % 4096 != 0 then some (memTrap 6 c.aper c.addr) else ar.writeTrap h 0 ends
        match ar.tier h 0 ends needW, tr with
        | _, some t => d.saveFault ctx c ar ((0, open') :: im.1) t
        | some o, none => s.awaitTier (ctx / 256) o
        | none, none =>
          let w := ((0, open') :: im.1).foldl (fun s x => ar.write s ctx x.1 x.2) h
          let w := (ar.write w.drainAll ctx 0 im.2.1).drainAll
          let w := (c.saved h ctx).teams.foldl (fun s e => s.unloadTeam e.1) w
          let late := c.late h (c.saved h ctx).grids
          let w : State := { w.draw with grids := w.grids.map (fun (e : Nat × Grid) => (e.1, { e.2 with
            fwd := (e.2.fwd.zipIdx.filter (fun f => !late.any (fun x => x.1 == e.1 && x.2.1 == f.2))).map (fun f => f.1) })) }
          let w := if part then w else (w.grids.filter (fun e => e.2.ctx == ctx)).foldl (fun s e =>
            s.updGrid e.1 (fun g => { g with placing := false, fwd := [], parts := g.parts.map (fun (p : Part) =>
              { p with ranges := [] }) })) w
          w.endCut ctx c (!part) csSaved

/-- Stretches of memory that an image of a length takes. -/
def Area.spans (s : State) (n : Nat) : Area → List (Nat × Nat)
  | .space die cx ap base =>
    (pages (n / 65536 + 2) base.toNat n).filterMap (fun p =>
      let o := BitVec.ofNat 64 p.1
      match translate s (die * 128) cx (vaOf ap o) needW with
      | .ok e => some (e.addr (vaOf ap o), p.2)
      | _ => none)
  | .pa p _ => [(p, n)]

/-- A save under way streams to a stack (R312). -/
def State.streamsTo (s : State) (i : Nat) : Bool :=
  s.ctxs.any (fun e => e.2.cut.any (fun c =>
    ((c.area s e.1).spans s (c.image s e.1).2.2).any (fun x =>
      (match s.mod.place x.1 with | .die _ => true | _ => false) &&
        (List.range (min 2 ((x.1 % 256 + x.2 + 255) / 256))).any (fun k => (stackOf s.mod (x.1 + 256 * k)).1 == i))))

def execCutWrite (ctx : Nat) (s : State) : Res := .next (evCutWrite ctx s)

end Sys2Proof.Machine
end

