-- ==== Sys2Proof/Machine/Restore.lean ====
section
/-! DEFINITION. Restore of a context image (11 R319, R320, 16 R414, 17 R434). -/

namespace Sys2Proof.Machine

/-- Apply a partial function to all of a list: all or nothing. -/
def allOf {α β : Type} (f : α → Option β) : List α → Option (List β)
  | [] => some []
  | x :: xs => match f x, allOf f xs with
    | some y, some ys => some (y :: ys)
    | _, _ => none

/-- An object of an image: slot, offset, header and body. -/
structure ImgObj where
  slot : Nat
  off : Nat
  hdr : Hdr
  body : List Byte

/-- A team of an image: segment, grid index, coordinates and objects. -/
structure ImgTeam where
  seg : List Byte
  grid : Nat
  xyz : Nat × Nat × Nat
  objs : List ImgObj

/-- An image read and found sound (R315-R318). -/
structure Img where
  part : Bool
  teams : List ImgTeam
  grids : List (List Byte × List Range)
  mbox : List (List Byte)

/-- The checks of a directory (R319): COMPLETE and the CRC, MAGIC and VERSION. -/
def dirOk (d : List Byte) : Bool :=
  fld d 0 4 == 0x4B544344 && fld d 4 2 == 1 && (fld d 6 2).testBit 0 && fld d 0x48 8 == crc64 (d.take 0x48)

/-- An object of an image (R317): a sound continuation object that is SUSPENDED. -/
def State.imgObj (s : State) (ar : Area) (tab k : Nat) : Option ImgObj :=
  (ar.read s (tab + 16 * k) 16).bind (fun e =>
    let off := fld e 0 8
    (ar.read s off 0x80).bind (fun hd =>
      let h := parseHdr hd
      if h.magic != 0x4B54434F || h.version != 1 || !h.layoutOk || h.state != stSusp then none
      else (ar.read s (off + 0x80) h.size).bind (fun b =>
        if crc64 b == h.crc then some ⟨fld e 0x0C 1, off, h, b⟩ else none)))

/-- A team of an image, its segment's CRC checked (R319). -/
def State.imgTeam (s : State) (ar : Area) (tab otab k : Nat) : Option ImgTeam :=
  (ar.read s (tab + 32 * k) 32).bind (fun e =>
    (ar.read s (fld e 0 8) (fld e 8 4)).bind (fun g =>
      if fld g 0 4 != 0x4B545347 || fld g 4 2 != 1 || fld g 0xC0 8 != crc64 (g.drop 0x100) then none
      else (allOf (fun i => s.imgObj ar otab (fld e 0x18 4 + i)) (List.range (fld e 0x0E 1))).map (fun os =>
        ⟨g, fld e 0x0C 2, (fld e 0x10 4, fld e 0x14 2, fld e 0x16 2), os⟩)))

/-- A grid-table entry with its undispatched ranges. -/
def State.imgGrid (s : State) (ar : Area) (tab k : Nat) : Option (List Byte × List Range) :=
  (ar.read s (tab + 64 * k) 64).bind (fun e =>
    (ar.read s (fld e 0x18 8) (16 * fld e 0x14 4)).map (fun b =>
      (e, (List.range (fld e 0x14 4)).map (fun i => ⟨fld b (16 * i) 8, fld b (16 * i + 8) 8, none⟩))))

/-- Read an image; none when a check of R319 fails. -/
def State.readImage (s : State) (ar : Area) : Option Img :=
  (ar.read s 0 0x80).bind (fun d =>
    if !dirOk d then none
    else
      match allOf (s.imgTeam ar (fld d 0x18 8) (fld d 0x20 8)) (List.range (fld d 0x0C 4)),
          allOf (s.imgGrid ar (fld d 0x30 8)) (List.range (fld d 0x38 4)),
          allOf (fun k => ar.read s (fld d 0x28 8 + 16 * k) 16) (List.range (fld d 0x14 4)) with
      | some ts, some gs, some ms => some ⟨(fld d 6 2).testBit 1, ts, gs, ms⟩
      | _, _, _ => none)

/-- The live grid of a grid-table entry: the one of the context that still holds its slot (R414). -/
def State.liveGrid (s : State) (ctx : Nat) (e : List Byte) : Option (Nat × Grid) :=
  s.grids.find? (fun g => g.2.ctx == ctx && !g.2.posted && !g.2.fault && g.2.addr.toNat == fld e 8 8 && g.2.aper.toNat == fld e 0x10 2 &&
    g.2.parts.any (fun p => p.die == g.2.recv && p.qslot == fld e 0 2))

/-- A team of an image about to be placed, with its live grid. -/
structure Seat where
  img : ImgTeam
  gi : Nat
  grid : Grid
  team : Team

/-- The curve index of a team (R400). -/
def Grid.curveOf (g : Grid) (xyz : Nat × Nat × Nat) : Nat :=
  ((List.range g.teams).find? (fun c => curveTeam g.desc.curve g.desc.strip g.lr.gx g.lr.gy c == xyz)).getD 0

/-- The team that a segment describes. -/
def mkSeat (i : ImgTeam) (gi : Nat) (g : Grid) : Option Seat :=
  if fld i.seg 0x0F 1 == 255 then i.objs.head?.map (fun o => ⟨i, gi, g, detTeam gi 0 o.hdr o.body⟩)
  else some ⟨i, gi, g, g.mkTeam gi (g.curveOf i.xyz)⟩

/-- The teams of an image whose grids live, and still count them as saved (R307, R413). -/
def State.seats (s : State) (ctx : Nat) (m : Img) : List Seat :=
  m.teams.filterMap (fun i =>
    ((m.grids[i.grid]?).bind (fun e => s.liveGrid ctx e.1)).bind (fun g =>
      if g.2.saved == 0 && fld i.seg 0x0F 1 != 255 then none else mkSeat i g.1 g.2))

/-- Teams of one block together (R17). -/
def blocksOf (l : List Seat) : List (List Seat) :=
  l.foldl (fun bs x =>
    let here (b : List Seat) : Bool := !x.team.det && b.any (fun y => !y.team.det && y.gi == x.gi && y.team.block == x.team.block)
    if bs.any here then bs.map (fun b => if here b then b ++ [x] else b) else bs ++ [[x]]) []

/-- Dies in the order in which a grid's teams are placed: its own first. -/
def State.seatDies (s : State) (g : Grid) : List Nat :=
  let own := g.parts.map (fun p => p.die)
  own ++ (List.range s.mod.dies).filter (fun d => !own.contains d)

/-- Place the teams of a block in one cluster (R319 step 1), each with its canvas pool. -/
def State.placeBlock (s : State) (b : List Seat) : Option (State × List (Nat × Seat)) :=
  match b with
  | [] => some (s, [])
  | x :: _ =>
    let pooled (y : Seat) : Team := { y.team with canvas := fld y.img.seg 0x0D 1 }
    let units (c : Nat) : Bool :=
      (!x.grid.desc.cores || s.gridUnits x.gi (c / 128)) && (s.placingOn (c / 128)).isNone
    (s.seatDies x.grid).findSome? (fun d =>
      (coreSets s d b.length (fun c => units c && (s.coreRoom c (pooled x)).isSome)).findSome? (fun cs =>
        let l := (cs.zip b).zipIdx.map (fun y => (s.nid + y.2, y.1.1, y.1.2))
        (s.holdAll (l.map (fun y => (y.1, y.2.1, pooled y.2.2)))).map (fun t =>
          let t := { t with nid := t.nid + l.length }
          (l.foldl (fun t y => t.updTeam y.1 (fun k => { k with canvas := y.2.2.team.canvas })) t,
            l.map (fun y => (y.1, y.2.2))))))

/-- Place every block, or none. -/
def State.placeBlocks : List (List Seat) → State → Option (State × List (Nat × Seat))
  | [], s => some (s, [])
  | b :: bs, s => (s.placeBlock b).bind (fun x => (State.placeBlocks bs x.1).map (fun y => (y.1, x.2 ++ y.2)))

/-- Type of a code (R216). -/
def tyOfCode (n : Nat) : CTy :=
  match n with | 0 => .f32 | 1 => .i32 | 2 => .f64 | 3 => .lut1 | 4 => .lut2 | 5 => .lut3 | _ => .lut4

/-- Entries that a canvas takes in a segment. -/
def canvasLen (ty : CTy) : Nat := if ty == .f64 then 8192 else CTy.entries ty

/-- A canvas read back from its slots (R217, R318). -/
def canvasFrom (team : Nat) (ty : CTy) (bs : List Byte) : Canvas :=
  let ent (i : Nat) : Nat × Nat := (fld bs (8 * i) 4, fld bs (8 * i + 4) 1)
  let el (i : Nat) : CElem :=
    let e := ent i
    let hi := if ty == .f64 then (ent (4096 + i)).1 else 0
    ⟨128 ≤ e.2, e.2 % 4, e.1 + 2 ^ 32 * hi⟩
  ⟨team, ty, true, ((List.range (CTy.entries ty)).map (fun i => (i, el i))).filter (fun e => e.2 != CElem.zero)⟩

/-- The canvases that a segment binds. -/
def State.loadCanvases (s : State) (tid top : Nat) (seg : List Byte) : State :=
  ((List.range 16).foldl (fun (x : State × Nat) n =>
    let b := fld seg (0x10 + n) 1
    if b < 128 then x
    else
      let ty := tyOfCode (b % 8)
      let len := 8 * canvasLen ty
      let s := x.1
      let id := s.nid
      (({ s.fresh with canvases := SMap.put s.canvases id (canvasFrom tid ty ((seg.drop x.2).take len)) }).updTeam tid
        (fun t => { t with binds := SMap.put t.binds n id }), x.2 + len)) (s, top)).1

/-- A barrier side of a segment. -/
def sideFrom (b : List Byte) (off : Nat) : BarSide := ⟨fld b off 1, fld b (off + 1) 1, BitVec.ofNat 16 (fld b (off + 2) 2)⟩

/-- A placed team takes back its store, canvases and barriers (R319 step 2). -/
def State.loadSegment (s : State) (tid : Nat) (x : Seat) : State :=
  match SMap.get? s.teams tid with
  | none => s
  | some t =>
    let g := x.img.seg
    let pm := 0x1900 + t.scratch
    let s := s.tsPlace t.core t.tsBase t.scratch x.grid.ctx
    let s := s.tsWrite t.core t.tsBase ((g.drop 0x1900).take t.scratch) false
    let s := s.updCore t.core (fun c => { c with
      tsP := (wordsOf t.tsBase t.scratch).zipIdx.foldl (fun m w =>
        if (fld g (pm + w.2 / 8) 1).testBit (w.2 % 8) then SMap.set m false w.1 true else m) c.tsP })
    let s := s.loadCanvases tid (alignUp (pm + pmapSize t.scratch) 256) g
    let s := s.updTeam tid (fun t => { t with
      bars := t.bars.map (fun b => (b.1, { b.2 with
        full := sideFrom g (0x20 + 8 * b.1), empty := if b.2.role then sideFrom g (0x24 + 8 * b.1) else b.2.empty }))
      rel := x.grid.relGrps.contains (t.lin, 16)
      suspd := (x.grid.relGrps.filter (fun r => r == (t.lin, 17))).length })
    if t.det || t.rank != 0 || t.span == 1 then s
    else s.updGrid x.gi (fun k => { k with
      blocks := SMap.put k.blocks t.block ((List.range 4).map (fun n => sideFrom g (0xA0 + 8 * n))) })

/-- Ejected lanes were written home at the cut: they wait at their own PCs in the entries that counted them, whose next paths
are counted anew (R170, R178). -/
def Group.uneject (g : Group) : Group :=
  if g.lanes.all (fun x => x.st != .ejected) then g
  else (lanes32.foldl (fun g l =>
    if (g.lane l).st == .ejected then
      { g.updLane l (fun x => { x with st := .deferred }) with stack := joinDrop g.stack l }
    else g) g).recount

/-- A group takes back what its record holds (R318). -/
def Group.fromRecord (g : Group) (b : List Byte) : Group :=
  let inH := (fld b 0x50 1).testBit 0
  let w (off n : Nat) : SMap Half :=
    ((List.range n).map (fun i => (i, BitVec.ofNat 16 (fld b (off + 2 * i) 2)))).filter (fun e => e.2 != 0)
  let ret (l : Nat) : Nat := fld b (0x80 + 8 * l) 8
  let ls := g.lanes.zipIdx.map (fun x =>
    if inH && ret x.2 != 2 ^ 64 - 1 then { x.1 with hnd := true, ret := BitVec.ofNat 64 (ret x.2) } else x.1)
  let h := maskOf (fun l => inH && ret l != 2 ^ 64 - 1)
  { g with
    wT := w 0 32, wC := w 0x40 4, wG := w 0x48 4, inH := inH, lsel := BitVec.ofNat 5 (fld b 0x51 1)
    tcause := BitVec.ofNat 8 (fld b 0x52 1), tvalh := BitVec.ofNat 16 (fld b 0x54 2)
    tpc := BitVec.ofNat 64 (fld b 0x58 8), tval := BitVec.ofNat 64 (fld b 0x60 8), lanes := ls
    hDepth := if inH then (g.stack.filter (fun e => e.mask &&& ~~~h != 0)).length else 0 }

/-- Load the objects of a placed team (R319 step 5). -/
def State.loadObjects (s : State) (tid : Nat) (x : Seat) : State :=
  match SMap.get? s.teams tid with
  | none => s
  | some t => x.img.objs.foldl (fun s o =>
    let k := s.takeToks x.grid.ctx o.hdr o.body
    let g := groupOf o.hdr o.body k.2 tid o.slot t.core x.grid.ctx s.nid
    let g := (g.fromRecord ((x.img.seg.drop (0x100 + 0x180 * o.slot)).take 0x180)).uneject
    let g := { g with released := !t.det && x.grid.relGrps.contains (t.lin, o.slot) }
    k.1.loadGroup g .sys) s

/-- Objects that were loaded are CONSUMED (R267, R319). -/
def State.consumeObjects (s : State) (ar : Area) (x : Seat) : State :=
  x.img.objs.foldl (fun s o => ar.write s x.grid.ctx (o.off + 0x10) (leBytes 4 stConsumed)) s

/-- A restored team no longer counts as saved. -/
def State.unsave (s : State) (x : Seat) : State :=
  s.updGrid x.gi (fun g => if x.team.det then g else { g with
    saved := g.saved - 1, relGrps := g.relGrps.filter (fun r => r.1 != x.team.lin) })

/-- A mailbox record is applied (R313, R319 step 3): it adds one arrival or release. -/
def State.mailbox (s : State) (ctx : Nat) (m : Img) (r : List Byte) : State :=
  match (m.grids[fld r 4 4]?).bind (fun e => s.liveGrid ctx e.1) with
  | none => s
  | some (i, g) =>
    let n := fld r 1 1
    match fld r 0 1 with
    | 1 => match m.teams[fld r 8 4]? with
      | some t => s.updGrid i (fun k => { k with
          blocks := SMap.upd k.blocks (g.curveOf t.xyz / g.desc.n) (fun b => updAt b n BarSide.arrive) })
      | none => s
    | 2 => s.updGrid i (fun k => { k with bars := SMap.upd k.bars n BarSide.arrive })
    | 3 => s.updGrid i (fun k => { k with relTeams := k.relTeams + 1 })
    | _ => s

/-- Undispatched ranges and grid barriers of a whole image (R319 step 6). A range goes to the part whose teams it holds
(R391). `last` says that no other image holds ranges of the context. -/
def State.loadGrids (s : State) (ctx : Nat) (m : Img) (last : Bool) : State :=
  if m.part then s
  else m.grids.foldl (fun s e => match s.liveGrid ctx e.1 with
    | none => s
    | some (i, g) =>
      let ds := g.named
      let mine (p : Part) (r : Range) : Bool := match ds.findIdx? (fun d => d == p.die) with
        | some k => let q := partRange g.teams ds.length g.desc.n k; q.lo ≤ r.lo && r.lo < q.hi
        | none => false
      s.updGrid i (fun k => { k with
        bars := k.bars.map (fun b => (b.1, { b.2 with
          cnt := fld e.1 (0x20 + 4 * b.1) 2, gen := BitVec.ofNat 16 (fld e.1 (0x22 + 4 * b.1) 2) }))
        parts := k.parts.map (fun (p : Part) =>
          let rs := p.ranges ++ e.2.filter (mine p)
          { p with ranges := rs, st := if last && rs.isEmpty && p.st == .dispatching then .running else p.st }) })) s

/-- An image by PA is a VDSAVE's (R434). -/
def Area.byPa : Area → Bool
  | .pa .. => true
  | .space .. => false

/-- What a restore comes to. -/
inductive RestRes
  | refused
  | wait (s : State)
  | ok (s : State)

/-- A pending collective that a rank of the context has yet to join: it cannot complete before the context runs. -/
def State.collNeeds (s : State) (ctx op : Nat) : Bool :=
  s.mod.colls.any (fun c => c.ranks.any (fun r => r.id == op) && (match s.mod.comm? c.comm, SMap.get? s.ctxs ctx with
    | some m, some x => m.ranks.zipIdx.any (fun r => r.1.here s.mod && r.1.vd == ctx / 256 && r.1.pasid == x.pasid &&
        !c.ranks.any (fun q => q.rank == r.2))
    | _, _ => false))

/-- Every operation that the objects list as pending has completed (R319 step 4), but for those that only the restored
context can complete: its nested tasks, and collectives that it has yet to join (log 31). -/
def State.opsDone (s : State) (ctx : Nat) (xs : List Seat) : Bool :=
  xs.all (fun x => x.img.objs.all (fun o => (bodyToks o.hdr o.body).all (fun t =>
    !t.pending || t.eng == 4 || (s.tokFound ctx t).isSome || s.collNeeds ctx t.op)))

/-- Restore an image into a context (R319). It is refused whole, waits for room or operations, or takes place whole. -/
def State.restoreImage (s : State) (ctx : Nat) (ar : Area) : RestRes :=
  let size := match ar.read s 0x40 8 with | some b => leNat b | none => 0x80
  match (ar.tier s 0 0x80 needR).or (ar.tier s 0 size needR) with
  | some o => .wait (s.awaitTier (ctx / 256) o)
  | none => match s.readImage ar with
    | none => .refused
    | some m =>
      let xs := s.seats ctx m
      if !s.opsDone ctx xs then .wait s
      else match State.placeBlocks (blocksOf xs) s with
        | none => .wait s
        | some (s, ts) =>
          let s := (ar.touch s size).fuseCores (ts.map (fun x => x.1))
          let k := (SMap.get? s.ctxs ctx).getD (deadCtx 0)
          let s := s.loadGrids ctx m (if ar.byPa then !k.stopped else !k.vstop)
          let s := ts.foldl (fun s x => s.loadSegment x.1 x.2) s
          let s := m.mbox.foldl (fun s r => s.mailbox ctx m r) s
          let s := ts.foldl (fun s x => s.loadObjects x.1 x.2) s
          let s := ts.foldl (fun s x => (s.consumeObjects ar x.2).unsave x.2) s
          .ok (s.updCtx ctx (fun c => if ar.byPa then { c with vstop := false } else { c with stopped := false }))

/-- RESTORE (R319, R414): its status record says RESTORED, or REFUSED with IMAGE. One that names the area of a save that
faulted resumes what the save stopped where it stands (R314; log 55). -/
def evRestore (new : Bool) (w : NotifyWr) (s : State) : State :=
  s.packet new 5 w (fun s v die _ p =>
    match s.ctxOf v (notifyPas w) with
    | (s, none) => s.refusePkt v rsPasid w
    | (s, some ctx) =>
      if (s.cutOf ctx).isSome then s.waitCut ctx w
      else if (SMap.get? s.ctxs ctx).any (fun x => x.faults.any (fun f => f.2 == (p.aper, p.addr))) then
        (s.updCtx ctx (fun x => { x with faults := x.faults.filter (fun f => f.2 != (p.aper, p.addr)) })).statusRec die ctx p csRestored 0
      else if p.addr.toNat % 4096 != 0 then s.statusRec die ctx p csRefused rsImage
      else match s.restoreImage ctx (.space die ctx p.aper p.addr) with
        | .refused => s.statusRec die ctx p csRefused rsImage
        | .wait s => s.putBack v w
        | .ok s => s.statusRec die ctx p csRestored 0)

def execRestore (w : NotifyWr) (s : State) : Res := .next (evRestore true w s)

end Sys2Proof.Machine
end

