-- ==== Sys2Proof/Machine/BaseDie.lean ====
section
/-! DEFINITION. Base dies and their ports (14 R361-R371, 18 R454), and writes to registers and owner windows (00 R7, 17 R424): one
meaning for each packet and register. -/

namespace Sys2Proof.Machine

-- R343, R454: banks and rows

/-- A row in the layout of WATCH, V set (R370). -/
def watchWord (b : Nat × Nat) : Nat := 2 ^ 31 + b.1 / 32 * 2 ^ 26 + b.1 / 16 % 2 * 2 ^ 25 + b.1 % 16 * 2 ^ 21 + b.2

/-- The physical address of a line of a stack. -/
def lineAddr (m : Module) (die stack line : Nat) : Nat :=
  die * (if m.expander then 2 ^ 41 else 2 ^ 37) + line * 512 + stack * 256

/-- Stacks are numbered across dies. -/
def stackIdx (die stack : Nat) : Nat := 2 * die + stack % 2

-- What a packet does to memory (R362, R366)

/-- Write bytes as they are stored, whatever key they are under. -/
def State.portStore (s : State) (pa : Nat) (bs : List Byte) (poison : Bool) : State :=
  let us := unitsOf pa bs.length
  { s with
    vds := noteUnits s.vds us
    mem := Memory.putBytes s.mem pa bs
    poison := us.foldl (fun p u =>
      if poison then SMap.set p false u true
      else if pa ≤ 32 * u && 32 * u + 32 ≤ pa + bs.length then SMap.set p false u false else p) s.poison }

/-- Masked units of a line, ascending. -/
def pktUnits (p : BasePkt) : List Nat := units8 p.mask.toNat

/-- The type of a code of the header (R204, R362). -/
def atyOf (n : Nat) : ATy :=
  match n with | 0 => .u32 | 1 => .i32 | 2 => .u64 | 3 => .i64 | 4 => .f32 | _ => .f64

/-- The operation of a code of the header (R207, R362; 8 to 12 by log 81); none is `cas`. -/
def opOfOpc (n : Nat) : Option AtOp :=
  match n with
  | 0 => some .add | 1 => some .min | 2 => some .max | 3 => some .xchg | 4 => some .fadd
  | 8 => some .and | 9 => some .or | 10 => some .xor | 11 => some .fmin | 12 => some .fmax
  | _ => none

/-- The new value of a lane of an ATOMIC packet (R207): OPC holds FN and TY. -/
def opcNew (opc : Nat) (old b c : Nat) : Nat :=
  let ty := atyOf (opc / 16)
  match opOfOpc (opc % 16) with
  | some op => atNew op ty old b ((FTy.fmt (atFloat ty)).dec b)
  | none => if old == b then c else old

/-- A packet that a receiver of a KIND takes: the header has that KIND and an OPC of it (R362). The refusal of an OPC is the
model's choice (log 85). -/
def portOk (kind : Nat) (p : BasePkt) : Bool :=
  let fn := p.opc.toNat % 16
  let ty := p.opc.toNat / 16
  p.kind.toNat == kind && (match kind with
    | 3 => (fn ≤ 5 || 8 ≤ fn && fn ≤ 12) && ty ≤ 5
    | 4 => fn ≤ 2 && ty ≤ 1
    | _ => p.opc == 0)

/-- The numbers of a row that a REDUCE names by its line address, and its poison (R208, R362). -/
def State.rowNums (s : State) (ty : MredTy) (row : Nat) : List Nat × Bool :=
  let e := mredElem ty
  (numsOf e.1 e.2 (Memory.getBytes s.mem (row * 256) 256),
   (List.range 8).any (fun u => SMap.getD s.poison false (row * 8 + u)))

/-- The rows of a REDUCE added onto a start, with their poison (R208). -/
def State.rowSum (s : State) (ty : MredTy) (rows : List Nat) (acc : List Nat × Bool) : List Nat × Bool :=
  rows.foldl (fun x row => (mredRow ty x.1 (s.rowNums ty row).1, x.2 || (s.rowNums ty row).2)) acc

/-- The units of a READ as they stand at its home, for its reply (R362). -/
def State.portRead (s : State) (pa : Nat) (p : BasePkt) : BasePkt :=
  { p with
    write := (pktUnits p).flatMap (fun u => Memory.getBytes s.mem (pa + 32 * u) 32)
    pmask := BitVec.ofNat 8 (maskOf8 ((pktUnits p).filter (fun u => SMap.getD s.poison false (pa / 32 + u)))) }

/-- A lane of an ATOMIC; poison in memory stops it (R204). -/
def State.portAtomic (s : State) (pa opc : Nat) (l : Nat × DWord × DWord) : State :=
  let n := atW (atyOf (opc / 16)) / 8
  let a := pa + l.1 % 256
  if SMap.getD s.poison false (a / 32) then s
  else s.portStore a (leBytes n (opcNew opc (leNat (Memory.getBytes s.mem a n)) l.2.1.toNat l.2.2.toNat)) false

/-- A REDUCE: line mode adds the rows into its line, return mode replies with their sum (R208). -/
def State.portReduce (s : State) (pa : Nat) (p : BasePkt) : State × BasePkt :=
  let ty : MredTy := match p.opc.toNat % 16 with | 0 => .f32 | 1 => .i32 | _ => .f64
  let e := mredElem ty
  if p.opc.getLsbD 4 then
    let r := s.rowSum ty p.rows (List.replicate e.1 0, false)
    (s, { p with write := r.1.flatMap (leBytes e.2), pmask := if r.2 then 0xFF else 0 })
  else
    let r := s.rowSum ty p.rows (s.rowNums ty (pa / 256))
    (s.portStore pa (r.1.flatMap (leBytes e.2)) r.2, p)

/-- A packet whose data the home has not applied yet is applied (R362); the reply of a READ carries what it reads. -/
def State.portApply (s : State) (kind die stack : Nat) (p : BasePkt) : State × BasePkt :=
  let pa := lineAddr s.mod die stack p.line
  match kind, p.done with
  | 1, _ => (s, s.portRead pa p)
  | 2, false => ((pktUnits p).zipIdx.foldl (fun s u =>
      s.portStore (pa + 32 * u.1) ((p.write.drop (32 * u.2)).take 32) (p.pmask.getLsbD u.1)) s, p)
  | 3, false => (p.lanes.foldl (fun s l => s.portAtomic pa p.opc.toNat l) s, p)
  | 4, false => s.portReduce pa p
  | _, _ => (s, p)

-- R364: column commands

/-- Column commands that cover the units of a mask from a unit on, by unit and size in units. -/
def bursts (sizes : List Nat) (mask : Nat) : Nat → Nat → List (Nat × Nat)
  | 0, _ => []
  | fuel + 1, u =>
    if 8 ≤ u then []
    else if !mask.testBit u then bursts sizes mask fuel (u + 1)
    else
      let n := (sizes.find? (fun z => u % z == 0 && (List.range z).all (fun i => mask.testBit (u + i)))).getD 1
      (u, n) :: bursts sizes mask fuel (u + n)

/-- Sizes of column commands in units, widest first: an LPDDR bridge die uses 2 and 1 only. -/
def burstSizes (m : Module) : List Nat := if m.expander then [2, 1] else [4, 2, 1]

/-- The column commands of a line and its mask. -/
def lineCols (m : Module) (l : Nat × Nat) : List (Nat × Nat × Nat) :=
  (bursts (burstSizes m) l.2 8 0).map (fun b => (b.1, b.2, l.1))

-- R363, R365, R367, R368: order, rows and back-off

/-- Lines of stack `i` that a request touches, with their units: a REDUCE touches its rows and, in line mode, its line. -/
def pktLines (m : Module) (i : Nat) (x : Nat × BasePkt) : List (Nat × Nat) :=
  let rows := (x.2.rows.filter (fun r => (stackOf m (256 * r)).1 == i)).map (fun r => ((stackOf m (256 * r)).2, 0xFF))
  match qKind x.1 with
  | 4 => if x.2.opc.getLsbD 4 then rows else rows ++ [(x.2.line, 0xFF)]
  | 5 => []
  | _ => [(x.2.line, x.2.mask.toNat)]

/-- Banks and rows that a request still needs, in the order it needs them. -/
def pktRows (m : Module) (i : Nat) (x : Nat × BasePkt) : List (Nat × Nat) :=
  ((pktLines m i x).drop (x.1 / 512)).map (fun l => bankRow m l.1)

/-- Two requests touch one 32-byte unit (R363). -/
def pktShares (m : Module) (i : Nat) (x y : Nat × BasePkt) : Bool :=
  (pktLines m i x).any (fun a => (pktLines m i y).any (fun b => a.1 == b.1 && a.2 &&& b.2 != 0))

/-- A request stands behind one of the same unit: one before it in the queue, or one that its back-off window holds (R363). -/
def Stack.behind (k : Stack) (m : Module) (i : Nat) (before : List (Nat × BasePkt)) (x : Nat × BasePkt) : Bool :=
  (before ++ k.wins.flatMap (fun w => w.2)).any (fun y => pktShares m i y x)

/-- Open rows that a queued request still needs (R365). -/
def Stack.needed (k : Stack) (m : Module) (i : Nat) : SMap Nat :=
  k.openRow.filter (fun e => k.q.any (fun x => (pktRows m i x).contains e))

/-- The reply to a request: its KIND OR 0x80 (R362). -/
def replyOf (p : BasePkt) : BasePkt := { p with kind := p.kind ||| 0x80 }

/-- A request is served: applied and answered, its column commands issued (R364), and rows that no queued request needs
closed (R365). -/
def State.portServe (s : State) (kind die stack : Nat) (p : BasePkt) : State :=
  let i := stackIdx die stack
  let r := s.portApply (qKind kind) die stack p
  r.1.updStack i (fun k => { k with
    replies := k.replies ++ [(qKind kind, replyOf r.2, kind.testBit 8, false)]
    cols := (pktLines s.mod i (kind, p)).flatMap (lineCols s.mod)
    openRow := k.needed s.mod i })

/-- A queued request waits for the bank of a row. -/
def waitsOn (m : Module) (i : Nat) (b : Nat × Nat) (x : Nat × BasePkt) : Bool := (pktRows m i x).head?.any (fun r => r.1 == b.1)

/-- A mark that a back-off held the request (R368). -/
def heldMark (x : Nat × BasePkt) : Nat × BasePkt := (if x.1.testBit 8 then x.1 else x.1 + 256, x.2)

/-- The alert (R367): the request and every request queued to its bank are held. -/
def Stack.alert (k : Stack) (m : Module) (i : Nat) (b : Nat × Nat) (x : Nat × BasePkt) : Stack :=
  let w := watchWord b
  { k with
    alerts := k.alerts + 1, lastagg := w, cnt := SMap.del k.cnt (rowKey b), openRow := SMap.del k.openRow b.1
    heldN := k.heldN + 1 + (k.q.filter (waitsOn m i b)).length
    q := k.q.map (fun y => if waitsOn m i b y then heldMark y else y)
    wins := SMap.put k.wins b.1 [heldMark x]
    walerts := (List.range 16).foldl (fun a i =>
      if SMap.getD k.watch 0 i == w then SMap.put a i (min 0xFFFF (SMap.getD a 0 i + 1)) else a) k.walerts }

/-- A request that cannot go on returns to its place `n` of the queue. A back-off window that it meets holds it, and counts it
unless it was `held` there before. -/
def Stack.park (k : Stack) (n : Nat) (x : Nat × BasePkt) (window held : Bool) : Stack :=
  let put (x : Nat × BasePkt) : List (Nat × BasePkt) := k.q.take n ++ x :: k.q.drop n
  if window && !held then { k with heldN := k.heldN + 1, q := put (heldMark x) } else { k with q := put x }

/-- A queued request can go on without closing a row: it stands behind none of its unit, and its next row's bank is closed, has
that row open, or is in a back-off window. -/
def Stack.movable (k : Stack) (m : Module) (i n : Nat) (y : Nat × BasePkt) : Bool :=
  !k.behind m i (k.q.take n) y && (match (pktRows m i y).head? with
    | some r => (SMap.get? k.wins r.1).isSome || (SMap.get? k.openRow r.1).all (fun o => o == r.2)
    | none => true)

/-- The open row of a bank stays open: a queued request needs it (R365). Where the queued requests keep each other's rows open so
that none can go on, it closes (log 125). -/
def Stack.keeps (k : Stack) (m : Module) (i bank : Nat) : Bool :=
  (k.needed m i).any (fun e => e.1 == bank) && k.q.zipIdx.any (fun y => k.movable m i y.2 y.1)

/-- The rows that a request needs are opened one after the other (R365, R367), and it is served once all were open. A row that
another queued request needs stays open, and this one waits in its place `n`. `held` says that the window of the next row's
bank held the request already. -/
def State.portRun (die stack n : Nat) (p : BasePkt) : Nat → Bool → Nat → State → State
  | 0, _, kind, s => s.portServe kind die stack p
  | fuel + 1, held, kind, s =>
    let i := stackIdx die stack
    let k := s.stack i
    match pktRows s.mod i (kind, p) with
    | [] => s.portServe kind die stack p
    | b :: _ =>
      if (SMap.get? k.wins b.1).isSome then s.setStack i (k.park n (kind, p) true held)
      else if SMap.get? k.openRow b.1 == some b.2 then s.portRun die stack n p fuel false (kind + 512)
      else if k.keeps s.mod i b.1 then
        s.setStack i (k.park n (kind, p) false held)
      else
        let c := SMap.getD k.cnt 0 (rowKey b)
        if c + 1 < k.thresh then
          (s.setStack i { k with cnt := SMap.put k.cnt (rowKey b) (c + 1), openRow := SMap.put k.openRow b.1 b.2 }).portRun
            die stack n p fuel false (kind + 512)
        else s.setStack i (k.alert s.mod i b (kind, p))

/-- A request goes on as far as it can. -/
def State.portGo (s : State) (die stack n : Nat) (held : Bool) (x : Nat × BasePkt) : State :=
  s.portRun die stack n x.2 ((pktLines s.mod (stackIdx die stack) x).length + 1) held x.1

/-- A packet is refused with a reliability record, and its reply says so (R362). -/
def State.portRefuse (s : State) (kind die stack : Nat) (p : BasePkt) : State :=
  (s.updStack (stackIdx die stack) (fun k => { k with replies := k.replies ++ [(kind, replyOf p, false, true)] })).relRec
    7 1 die stack 0 (lineAddr s.mod die stack p.line)

/-- A packet is received or, when it is queued, served, never before an earlier one of the same unit (R363). -/
def State.portPacket (s : State) (kind die stack : Nat) (p : BasePkt) : State :=
  let i := stackIdx die stack
  let k := s.stack i
  match k.q.findIdx? (fun x => qKind x.1 == kind && x.2 == p) with
  | some n =>
    let x := k.q.getD n (kind, p)
    if k.behind s.mod i (k.q.take n) x then s
    else (s.setStack i { k with q := k.q.eraseIdx n }).portGo die stack n (x.1.testBit 8) x
  | none =>
    if !portOk kind p then s.portRefuse kind die stack p
    else if k.behind s.mod i k.q (kind, p) then s.setStack i { k with q := k.q ++ [(kind, p)] }
    else s.portGo die stack k.q.length false (kind, p)

def execRead (die stack : Nat) (p : BasePkt) (s : State) : Res := .next (s.portPacket 1 die stack p)
def execWrite (die stack : Nat) (p : BasePkt) (s : State) : Res := .next (s.portPacket 2 die stack p)
def execAtomic (die stack : Nat) (p : BasePkt) (s : State) : Res := .next (s.portPacket 3 die stack p)
def execReduce (die stack : Nat) (p : BasePkt) (s : State) : Res := .next (s.portPacket 4 die stack p)

/-- PACKET_REPLY (R361, R368): the tag is free, a held request is counted, and a request that waits takes the tag. -/
def evPacketReply (die stack : Nat) (tag : BitVec 12) (s : State) : State :=
  let i := stackIdx die stack
  let k := s.stack i
  match k.replies.find? (fun r => r.2.1.tag == tag) with
  | none => s
  | some r =>
    let k := { k with replies := k.replies.eraseP (fun r => r.2.1.tag == tag) }
    let k := match k.waitq with
      | [] => k
      | w :: ws => { k with waitq := ws, q := k.q ++ [(w.1, { w.2 with tag := tag })] }
    let s := s.setStack i k
    if r.2.2.1 then s.stall r.2.1.die r.2.1.ctx 4 true else s

def execPacketReply (die stack : Nat) (tag : BitVec 12) (s : State) : Res := .next (evPacketReply die stack tag s)

/-- BACKOFF_WINDOW_END (R367): RFMSEQ rises, the held requests are released, and the row opens, uncounted, for the one
that raised the alert. -/
def evBackoffWindowEnd (die stack bank : Nat) (s : State) : State :=
  let i := stackIdx die stack
  let k := s.stack i
  match SMap.get? k.wins bank with
  | none => s
  | some ws =>
    let k := { k with wins := SMap.del k.wins bank, rfmseq := k.rfmseq + 1 }
    match ws with
    | [] => s.setStack i k
    | x :: _ =>
      let row := ((pktRows s.mod i x).head?.getD (bank, 0)).2
      (s.setStack i { k with openRow := SMap.put k.openRow bank row }).portGo die stack 0 false x

def execBackoffWindowEnd (die stack bank : Nat) (s : State) : Res := .next (evBackoffWindowEnd die stack bank s)

-- R369, R370: control registers

/-- RGCTL (R369). -/
def evRgctlWrite (die stack : Nat) (v : Word) (s : State) : State :=
  if s.full && die < s.mod.dies then s.updStack (stackIdx die stack) (fun k => { k with thresh := max 128 (v.toNat % 65536), cnt := [] }) else s

def execRgctlWrite (die stack : Nat) (val : Word) (s : State) : Res := .next (evRgctlWrite die stack val s)

/-- WATCH w (R370). -/
def evWatchWrite (die stack : Nat) (w : Fin 16) (v : Word) (s : State) : State :=
  if s.full && die < s.mod.dies then s.updStack (stackIdx die stack) (fun k => { k with
    watch := SMap.set k.watch 0 w.val (v &&& 0xFFE01FFF).toNat, walerts := SMap.del k.walerts w.val })
  else s

def execWatchWrite (die stack : Nat) (w : Fin 16) (val : Word) (s : State) : Res := .next (evWatchWrite die stack w val s)

/-- A word of the control window (R369, R370). -/
def Stack.ctlWord (k : Stack) (off : Nat) : Nat :=
  if off == 0 then k.thresh
  else if 0x40 ≤ off && off < 0x80 && off % 4 == 0 then SMap.getD k.watch 0 ((off - 0x40) / 4) else 0

/-- A write of a word of the control window (R369, R370). -/
def State.ctlWrite (s : State) (die stack off : Nat) (v : Word) : State :=
  if off == 0 then evRgctlWrite die stack v s
  else if 0x40 ≤ off && off < 0x80 && off % 4 == 0 then evWatchWrite die stack (Fin.ofNat 16 ((off - 0x40) / 4)) v s else s

/-- STATUS (R362): it carries control reads and writes and opens no row. R362 gives their payload no layout: the model holds
each as a lane operand with its offset, 1 for a write, and the word (log 85). -/
def evStatus (die stack : Nat) (p : BasePkt) (s : State) : State :=
  let i := stackIdx die stack
  if !portOk 5 p then s.portRefuse 5 die stack p
  else
    let s := s.updStack i (fun k => { k with q := k.q.eraseP (fun x => qKind x.1 == 5 && x.2 == p) })
    let s := p.lanes.foldl (fun s l => if l.2.1 == 1 then s.ctlWrite die stack l.1 (l.2.2.truncate 32) else s) s
    s.updStack i (fun k =>
      let reads := (p.lanes.filter (fun l => l.2.1 != 1)).flatMap (fun l => leBytes 4 (k.ctlWord l.1))
      { k with replies := k.replies ++ [(5, replyOf { p with write := reads }, false, false)] })

def execStatus (die stack : Nat) (p : BasePkt) (s : State) : Res := .next (evStatus die stack p s)

-- R424: commands of an owner window

/-- What running a command comes to: its status and value, or that it goes on, in a phase of its own above 0. -/
inductive CmdRes
  | done (s : State) (status value : Nat)
  | wait (s : State) (phase : Nat)

def cmdOk : Nat := 0
def cmdBad : Nat := 1
def cmdFailed : Nat := 2

/-- A write at an address of a command: an IPA in a VF's window, a PA in VD 0's (R424). -/
def State.cmdWrite (s : State) (win addr : Nat) (bs : List Byte) : State :=
  if win == 0 then s.sysWrite addr bs 0 else s.ipaWrite win addr bs

/-- The status record of a command (R424), written after its effects. -/
def State.cmdStatus (s : State) (op : Nat) (c : OwnCmd) (status value : Nat) : State :=
  s.cmdWrite c.win c.st.toNat (leBytes 1 op ++ leBytes 1 status ++ [0, 0] ++ leBytes 4 c.seq.toNat ++ leBytes 8 value)

/-- A command of an owner window (R424): the commands of a window run one at a time in arrival order; a PF-only one in a
VF's window completes BADCMD. `new` says that it arrives just now, else the first of its window goes on. `act` learns its
phase, 0 before it starts. -/
def State.command (s : State) (new : Bool) (op : Nat) (pf : Bool) (c : OwnCmd) (act : Nat → State → CmdRes) : State :=
  if !s.full then s
  else
    let q := (s.vd c.win).cmds
    let phase := match q with | x :: _ => x.1 / 256 | [] => 0
    let set (s : State) (l : List (Nat × OwnCmd)) : State := s.updVd c.win (fun d => { d with cmds := l })
    if new && !q.isEmpty then set s (q ++ [(op, c)])
    else
      match if pf && c.win != 0 then CmdRes.done s cmdBad 0 else act phase s with
      | .done s status value => set (s.cmdStatus op c status value) (q.drop 1)
      | .wait s n => set s ((op + 256 * n, c) :: q.drop 1)

/-- OPs that R424 defines. -/
def cmdOps : List Nat := [0x01, 0x02, 0x03, 0x04, 0x05, 0x10, 0x11, 0x12, 0x13, 0x14]

/-- An undefined OP completes BADCMD with no other effect (R424). -/
def evBadCmd (new : Bool) (c : OwnCmd) (op : Nat) (s : State) : State := s.command new op false c (fun _ s => .done s cmdBad 0)

-- R7: registers whose writes only store their fields

/-- A power of two from 16 to 65,536; any other value stores 16 (R423, R464). -/
def ringSize (n : Nat) : Nat := if [16, 32, 64, 128, 256, 512, 1024, 2048, 4096, 8192, 16384, 32768, 65536].contains n then n else 16

/-- A word of an AQI entry less its zero bits (R419). -/
def aqiMask (v : DWord) : Nat := (v &&& 0x000FFFFF000003FF).toNat

/-- The VD table entry after a write of its 8-byte field (R418). -/
def VdEnt.put (e : VdEnt) (field : Nat) (v : DWord) : VdEnt :=
  match field with
  | 0 => { e with s2root := v &&& 0x000FFFFFFFFF0000 }
  | 1 => { e with totbase := v }
  | 2 => { e with tpbase := v }
  | 3 => { e with tpframes := v.toNat % 2 ^ 32, pinlim := v.toNat / 2 ^ 32 }
  | 4 => { e with flags := v.toNat % 8, skey := bits v.toNat 23 16, nvec := bits v.toNat 47 32 }
  | _ => e

/-- DBGOK as it counts: 0 without the DEBUG feature (R466). -/
def Module.debugOk (m : Module) (e : VdEnt) : VdEnt :=
  if m.featon.testBit 3 then e else { e with flags := e.flags % 4 }

/-- The device reads a VD entry (R418). -/
def State.readVd (s : State) (v : Nat) : State := s.updVd v (fun d => { d with inf := s.mod.debugOk d.ent })

/-- CTL of a remapping entry (R430): clearing MASK while PEND is set sends one message. -/
def State.remapCtl (s : State) (v i : Nat) (valid mask : Bool) : State :=
  let d := s.vd v
  let r := SMap.getD d.remap Remap.init i
  let send := !mask && r.pend && valid
  let s := s.setVd v { d with remap := SMap.put d.remap i { r with
    valid := valid, mask := mask, pend := r.pend && !send } }
  if send then s.emit (.msi r.addr r.data) else s

/-- The configuration space and the boot DVSEC are live (R462, R464). -/
def State.config (s : State) : Bool := s.stage == 3 || s.stage == 4

/-- A write of a register by name (R7). Below full function BAR writes are ignored (R462). A write of CMD with a defined OP is that
command, with its own event. -/
def evRegisterWrite (r : DevReg) (v : DWord) (s : State) : State :=
  let n := v.toNat
  match r with
  | .fsw die vd =>
    if s.full && die < s.mod.dies then s.updDie die (fun d => { d with
      fsw := SMap.set d.fsw 0 (vd % 256) (n % 2 ^ 16 + min 1024 (bits n 26 16) * 2 ^ 16) }) else s
  | .mscPart die i =>
    if s.full && die < s.mod.dies then s.updDie die (fun d => { d with part := SMap.set d.part 0xFFFF0000 (i % 1024) (v &&& 0xFFFFF3F0).toNat }) else s
  | .vdField vd f =>
    if !s.full then s
    else
      let was := (s.vd vd).ent.flags.testBit 0
      let s := s.updVd vd (fun d => { d with ent := d.ent.put f v })
      if !was && (s.vd vd).ent.flags.testBit 0 then s.readVd vd else s
  | .aqi i hi => if !s.full || hi then s else { s with aqis := SMap.set s.aqis 0 (i % 4096) (aqiMask v) }
  | .owner vd f =>
    if !s.full then s
    else s.updVd vd (fun d => match f with
      | 0 => { d with ctbase := v, ctab := none }
      | 8 => { d with fqbase := v }
      | 0x10 => { d with fqsize := ringSize (n % 2 ^ 32) }
      | 0x14 => { d with fqvec := n % 2 ^ 16 }
      | 0x18 => { d with fqhead := v.truncate 32 }
      | _ => d)
  | .remap vd i f =>
    if !s.full || (s.vd vd).inf.nvec ≤ i then s
    else
      let e := SMap.getD (s.vd vd).remap Remap.init i
      match f with
      | 0 => s.updVd vd (fun d => { d with remap := SMap.put d.remap i { e with addr := v } })
      | 8 => s.updVd vd (fun d => { d with remap := SMap.put d.remap i { e with data := v.truncate 32 } })
      | 12 => s.remapCtl vd i (n.testBit 31) (n.testBit 30)
      | _ => s
  | .fctl => if !s.config then s else s.updMod (fun m => { m with
      modid := n % 16, neten := if m.expander || !m.featon.testBit 2 then m.neten else n.testBit 4 })
  | .fwtBase => if !s.config then s else s.updMod (fun m => { m with fwtbase := n / 4096 * 4096 })
  | .commBase => if !s.config then s else s.updMod (fun m => { m with commbase := n / 16 * 16 })
  | .netBase => if !s.config then s else s.updMod (fun m => { m with netbase := n / 32 * 32 })
  | .taccBase => if !s.config then s else s.updMod (fun m => if m.expander then { m with taccbase := n } else m)
  | .featSel i =>
    if !s.config then s
    else s.updMod (fun m =>
      let lo := m.featsel % 2 ^ (64 * i.val)
      let hi := m.featsel / 2 ^ (64 * i.val + 64)
      { m with featsel := lo + n * 2 ^ (64 * i.val) + hi * 2 ^ (64 * i.val + 64) })
  | .rlSize => if !s.config then s else
      { s.updMod (fun m => { m with rlsize := ringSize (n % 2 ^ 32) }) with
        dies := SMap.mapV (fun (d : Die) => { d with relOpen := [] }) s.dies }
  | .flr v => if s.config && v != 0 then s.updVd v (fun d => { d with reset := if d.reset == 0 then 2 else d.reset }) else s
  | .bar0 .. | .cfg .. => s
  | .cmd c op => if cmdOps.contains op.toNat then s else evBadCmd true c op.toNat s

end Sys2Proof.Machine
end

