-- ==== Sys2Proof/Machine/CrossLane.lean ====
section
/-! DEFINITION. The lane map and cross-lane instructions (06_isa_control_lanes.md R183-R190), one meaning for
each instruction. -/

namespace Sys2Proof.Machine

-- R183: the lane map
def execLmap (k : Com) (d : Opnd) (s : State) : Res := issueG (.lmap k d) k [(d, 1)] (opLmap d) s
def execLmapRd (k : Com) (d b : Opnd) (s : State) : Res := issueG (.lmapRd k d b) k [(d, 1), (b, 1)] (opLmapRd d b) s
/-- Register ranges of a shuffle (R185). -/
def shrs (x : ShArgs) : List (Opnd × Nat) :=
  let n := if x.w64 then 2 else 1
  [(x.d, n), (x.a, n), (x.b, 1), (x.c, n)]

def execShflSel (x : ShArgs) (s : State) : Res := issueG (.shflSel x) x.k (shrs x) (opShfl shSel x) s
def execShflSlide (x : ShArgs) (s : State) : Res := issueG (.shflSlide x) x.k (shrs x) (opShfl shSlide x) s
def execShflRot (x : ShArgs) (s : State) : Res := issueG (.shflRot x) x.k (shrs x) (opShfl shRot x) s
def execShflFlip (x : ShArgs) (s : State) : Res := issueG (.shflFlip x) x.k (shrs x) (opShfl shFlip x) s
-- R186: reductions and scans
def execRedux (k : Com) (op : RedOp) (d a : Opnd) (s : State) : Res :=
  issueG (.redux k op d a) k [(d, redRegs op), (a, redRegs op)] (opRedux op d a) s
def execScan (k : Com) (op : RedOp) (ex : Bool) (d a : Opnd) (s : State) : Res :=
  issueG (.scan k op ex d a) k [(d, redRegs op), (a, redRegs op)] (opScan op ex d a) s
-- R187, R188: intersections and sorts
def execIsectM (k : Com) (pD : BitVec 3) (a b : Opnd) (s : State) : Res :=
  issueG (.isectM k pD a b) k [(a, 1), (b, 1)] (opIsectM pD a b) s
def execIsectIx (k : Com) (d a b : Opnd) (s : State) : Res :=
  issueG (.isectIx k d a b) k [(d, 1), (a, 1), (b, 1)] (opIsectIx d a b) s
def execIsectAdv (k : Com) (d a b : Opnd) (s : State) : Res :=
  issueG (.isectAdv k d a b) k [(d, 1), (a, 1), (b, 1)] (opIsectAdv d a b) s
/-- A sort, which may stop between two stages with `%prog` at those done (R188, R309). -/
def actVsort (desc : Bool) (kt : Kt) (d a b : Opnd) (gid : Nat) (c : GCtx) (s : State) : Act :=
  let m := s.stepsTo c.g c.g.prog.toNat 5
  if m == 5 then runG (opVsort desc kt d a b 5) gid c s
  else match opVsort desc kt d a b m c with
    | .error t => .trap s t
    | .ok o => .wait ((s.commit gid o).withG gid (fun g => g.settleResults.setProg m)) .step

def execVsortAsc (k : Com) (kt : Kt) (d a b : Opnd) (s : State) : Res :=
  issue (.vsortAsc k kt d a b) k [(d, 2), (a, 1), (b, 1)] (actVsort false kt d a b) s
def execVsortDesc (k : Com) (kt : Kt) (d a b : Opnd) (s : State) : Res :=
  issue (.vsortDesc k kt d a b) k [(d, 2), (a, 1), (b, 1)] (actVsort true kt d a b) s
-- R189: matches
def execMatchPeers (k : Com) (w64 : Bool) (d a : Opnd) (s : State) : Res :=
  issueG (.matchPeers k w64 d a) k [(d, 1), (a, if w64 then 2 else 1)] (opPeers w64 d a) s
def execMatchUni (k : Com) (w64 : Bool) (d a : Opnd) (s : State) : Res :=
  issueG (.matchUni k w64 d a) k [(d, 1), (a, if w64 then 2 else 1)] (opUni w64 d a) s
def execMatchLead (k : Com) (w64 : Bool) (d a : Opnd) (s : State) : Res :=
  issueG (.matchLead k w64 d a) k [(d, 1), (a, if w64 then 2 else 1)] (opLead w64 d a) s

end Sys2Proof.Machine
end

