-- ==== Sys2Proof/Machine/Tenant.lean ====
section
/-! DEFINITION. Owner windows, contexts and virtual devices (17 R418-R438): one meaning for each command. -/

namespace Sys2Proof.Machine

/-- The context that a command names. -/
def cmdCtx (c : OwnCmd) : Nat := 256 * (c.win % 256) + c.ctx % 256

-- R424: invalidation

/-- Writes of contexts under a test that are on their way arrive; true when nothing of the contexts is in flight. A write that stays
in an L1 is performed at its scope, and no command moves it (R282). -/
def State.performed (s : State) (sel : Nat → Bool) : State × Bool :=
  let s := s.settleUpd
  let inCtx (gid : Nat) : Bool := match SMap.get? s.groups gid with | some g => sel g.ctx | none => true
  (s, s.dies.all (fun d => d.2.upd.all (fun p => !sel p.ctx)) && !s.aops.any (fun o => sel o.2.ctx) &&
    s.clusters.all (fun c => c.2.ops.all (fun o => !inCtx o.gid)))

/-- Drop cached translations, and complete once every access checked with one has been performed. -/
def State.invalidate (s : State) (drop : TlbE → Bool) (sel : Nat → Bool) : CmdRes :=
  let r := (s.tlbDrop drop).performed sel
  if r.2 then .done r.1 cmdOk 0 else .wait (r.1.askHost r.1.heldUpd) 1

/-- Two ranges meet. -/
def overlap (a n b m : Nat) : Bool := a < b + m && b < a + n

def evTlbiCtx (new : Bool) (c : OwnCmd) (s : State) : State :=
  s.command new 0x01 false c (fun _ s => s.invalidate (fun e => e.ctx == cmdCtx c) (fun x => x == cmdCtx c))
def evTlbiVa (new : Bool) (c : OwnCmd) (s : State) : State :=
  s.command new 0x02 false c (fun _ s =>
    let va := c.a.toNat + bits c.b.toNat 15 0 * 2 ^ 64
    s.invalidate (fun e => e.ctx == cmdCtx c && overlap e.va e.size va (65536 * bits c.b.toNat 47 16)) (fun x => x == cmdCtx c))
def evTlbiS2 (new : Bool) (c : OwnCmd) (s : State) : State :=
  s.command new 0x10 true c (fun _ s =>
    (s.readVd c.vd).invalidate (fun e => e.ctx / 256 == c.vd &&
      (c.b == 0 || overlap e.ipa e.size c.a.toNat (65536 * c.b.toNat))) (fun x => x / 256 == c.vd))

def execTlbiCtx (c : OwnCmd) (s : State) : Res := .next (evTlbiCtx true c s)
def execTlbiVa (c : OwnCmd) (s : State) : Res := .next (evTlbiVa true c s)
def execTlbiS2 (c : OwnCmd) (s : State) : Res := .next (evTlbiS2 true c s)

-- R422: contexts

/-- A context's counter windows and translations are given up on every die. -/
def State.freeCtx (s : State) (x : Nat) : State :=
  let s := s.tlbDrop (fun e => e.ctx == x)
  { s with dies := SMap.mapV (fun (d : Die) => { d with ctr := SMap.del d.ctr x }) s.dies }

/-- CTXSYNC (R422): the entry is in force as it stands when the command starts. An entry without V acts as one with REVOKED
(log 32). The peers of a destroyed context's pending collectives complete WDRN (R252). -/
def evCtxsync (new : Bool) (c : OwnCmd) (s : State) : State :=
  s.command new 0x03 false c (fun phase s =>
    let v := c.win % 256
    let x := cmdCtx c
    match if phase == 0 then s.ctTier v else none with
    | some o => .wait (s.awaitTier v o) 0
    | none =>
      let s := if phase == 0 then s.ctSync v (c.ctx % 256) else s
      let ctx : Ctx := (SMap.get? s.ctxs x).getD (deadCtx 0)
      let set (k : Ctx) : State := { s with ctxs := SMap.put s.ctxs x k }
      match (s.ctEntry v (c.ctx % 256)).filter (fun e => !e.2.1.testBit 0) with
      | some e =>
        .done (set { ctx with pasid := e.1 % 2 ^ 20, s1root := e.2.2, revoked := false, dbg := e.2.1.testBit 1 }) cmdOk 0
      | none =>
        if s.grids.any (fun g => g.2.ctx == x) then .wait (s.updCtx x (fun k => { k with revoked := true })) 1
        else
          let s := if (SMap.get? s.ctxs x).isSome then
            s.withdraw (fun r => Rank.here s.mod r && r.vd == x / 256 && r.pasid == ctx.pasid) false else s
          .done ({ s with ctxs := SMap.del s.ctxs x }.freeCtx x) cmdOk 0)

def execCtxsync (c : OwnCmd) (s : State) : Res := .next (evCtxsync true c s)

/-- DBGREL (R276, R424). -/
def evDbgrel (new : Bool) (c : OwnCmd) (s : State) : State :=
  s.command new 0x04 false c (fun _ s =>
    let x := cmdCtx c
    let s := s.updCtx x (fun k => { k with halts := [] })
    .done { s with groups := SMap.mapV (fun (g : Group) => if g.ctx == x then { g with halted := none } else g) s.groups } cmdOk 0)

def execDbgrel (c : OwnCmd) (s : State) : Res := .next (evDbgrel true c s)

-- R437, R438: reports

/-- A die acts as leader (R467). -/
def State.leading (s : State) : Option Nat :=
  if (s.die s.mod.leader).leaderOf.isSome && s.mod.leader < s.mod.dies then some s.mod.leader else none

/-- A die makes an LMS signature (R469): it uses a leaf, reserving leaves in blocks of 1,024; none when all are used, which
writes a record. The signature's bytes are free values. -/
def State.lmsSign (s : State) (die : Nat) : State × Option (List Byte) :=
  let d := s.die die
  if 2 ^ 25 ≤ d.lmsLeaf then (s.relRec 11 3 die 0 0 0, none)
  else
    let s := s.setDie die { d with lmsLeaf := d.lmsLeaf + 1, lmsTop := if d.lmsTop ≤ d.lmsLeaf then d.lmsTop + 1024 else d.lmsTop }
    let f := s.freeBytes 1932
    (f.1, some f.2)

/-- Both signatures of a die over bytes (R469): ECDSA, the length of the LMS signature, and it. -/
def State.signBoth (s : State) (die : Nat) : State × Option (List Byte) :=
  let l := s.lmsSign die
  match l.2 with
  | none => (l.1, none)
  | some x => let e := l.1.freeBytes 96
    (e.1, some (e.2 ++ leBytes 4 1932 ++ x))

/-- The ten counters of R436. -/
def Meter.bytes (m : Meter) : List Byte :=
  [m.issue, m.pass64, m.pass32, m.passlo, m.bhbm, m.bcxl, m.bflash, m.lanecyc, m.qwait, m.wu256].flatMap (leBytes 8)

/-- The lane-cycles of a VD's resident groups since the last reading. -/
def State.countLanes (s : State) (v : Nat) : State :=
  s.groups.foldl (fun s g => if g.2.ctx / 256 == v then s.laneTime g.2 else s) s

/-- A VD's blocks from every die (R438). -/
def State.repBlocks (s : State) (v : Nat) : List Byte :=
  (List.range s.mod.dies).flatMap (fun d =>
    leBytes 1 d ++ List.replicate 7 0 ++ (SMap.getD (s.die d).meter Meter.init v).bytes)

/-- The leader collects a VD's counters and writes them to flash with the next SEQ (R437, R438). -/
def State.reportFlash (s : State) (v : Nat) : State :=
  let s := s.countLanes v
  s.updMod (fun m => { m with seq := m.seq + 1, repFlash := SMap.put m.repFlash v (s.repBlocks v) })

/-- A die's lease as leader ends: it acts for the module no more (R467). -/
def State.leaseEnd (s : State) (die : Nat) : State :=
  match (s.die die).leaderOf with
  | none => s
  | some _ => (s.updDie die (fun d => { d with leaderOf := none, lapsed := true })).updMod
      (fun m => if m.leader == die then { m with leader := 0xFF } else m)

/-- REPORT (R437, R438, R468). One that is not released keeps the SEQ that its flash write stored. -/
def evReport (new : Bool) (c : OwnCmd) (s : State) : State :=
  s.command new 0x05 false c (fun _ s =>
    let v := if c.win == 0 then bits c.b.toNat 7 0 else c.win
    match s.leading, c.rep with
    | none, _ | _, .noFlash => .done s cmdFailed 0
    | some l, .lapsed => .done ((s.reportFlash v).leaseEnd l) cmdFailed 0
    | some l, .released =>
      let s := s.reportFlash v
      let n := s.mod.dies
      let head := leBytes 4 0x4B544D52 ++ leBytes 2 1 ++ leBytes 1 v ++ leBytes 1 n ++ leBytes 8 s.mod.seq ++
        leBytes 4 s.mod.resets ++ leBytes 1 l ++ List.replicate 11 0
      let r := s.signBoth l
      match r.2 with
      | none => .done r.1 cmdFailed 0
      | some sg =>
        let out := head ++ s.repBlocks v ++ sg
        .done (r.1.cmdWrite c.win c.a.toNat out) cmdOk out.length)

def execReport (c : OwnCmd) (s : State) : Res := .next (evReport true c s)

-- R435: VDRESET

/-- Groups of a VD. -/
def State.vdGroups (s : State) (v : Nat) : List Nat := (s.groups.filter (fun g => g.2.ctx / 256 == v)).map (fun g => g.1)

/-- The groups of a VD are discarded and its grids leave every die, with no record (R435). -/
def State.reclaim (s : State) (v : Nat) : State :=
  let s := s.engineDrain (fun o => o.ctx / 256 == v)
  let s := (s.vdGroups v).foldl (fun s g => s.discardGroup g) s
  let gs := (s.grids.filter (fun e => e.2.vd == v)).map (fun e => e.1)
  let s := gs.foldl (fun s i => ((s.stopDispatch i).teamsOf i).foldl (fun s t => s.endTeam t.1 false) (s.stopDispatch i)) s
  let s := { s with grids := s.grids.filter (fun e => e.2.vd != v), tops := s.tops.filter (fun o => o.2.ctx / 256 != v)
                    dones := s.dones.filter (fun d => d.2.ctx / 256 != v) }
  let ctxs := (s.ctxs.filter (fun e => e.1 / 256 == v)).map (fun e => e.1)
  let s := ctxs.foldl (fun s x => s.freeCtx x) s
  let s := { s with ctxs := s.ctxs.filter (fun e => e.1 / 256 != v) }
  s.dies.foldl (fun s e => ((s.die e.1).msc.filter (fun l => l.2.ctx / 256 == v)).foldl (fun s l => s.mscEvict e.1 l.1) s) s

/-- The owner window at its reset values (R423, R435). -/
def Vd.ownerReset (d : Vd) (own : Bool) : Vd :=
  { d with
    ctbase := 0, fqbase := 0, fqsize := 16, fqvec := 0, fqhead := 0, fqovf := 0, fqtail := 0
    queued := [], saving := false, cmds := if own then d.cmds else [], ctab := none, reset := 0
    objs := SMap.mapV (fun (o : TObj) => { o with pins := [], waiters := [], failed := [], queue := [] }) d.objs }

/-- The steps of a reset of a VD (R435), as far as they have come; true when they are complete. -/
def State.vdResetStep (s : State) (v : Nat) (own : Bool) (how : Nat) : State × Bool :=
  let s := s.updVd v (fun d => { d with queued := [], reset := how })
  let s := (s.reclaim v).withdraw (fun r => Rank.here s.mod r && r.vd == v) true
  let s := { s with devQ := s.devQ.filter (fun a => a.vd != v) }.drainAll
  if !s.quiet then (s, false) else (s.updVd v (fun d => d.ownerReset own), true)

/-- VDRESET (R435): it completes when what was on its way has drained. -/
def evVdreset (new : Bool) (c : OwnCmd) (s : State) : State :=
  s.command new 0x11 true c (fun _ s =>
    let r := s.vdResetStep c.vd (c.vd == c.win) 1
    if r.2 then .done r.1 cmdOk 0 else .wait r.1 1)

def execVdreset (c : OwnCmd) (s : State) : Res := .next (evVdreset true c s)

/-- A command of VD 0's window saves a VD (R434). -/
def State.vdSaving (s : State) (v : Nat) : Bool :=
  ((s.vd 0).cmds.head?).any (fun x => x.1 % 256 == 0x12 && 0 < x.1 / 256 && x.2.vd == v)

/-- The function-level reset of a VF goes on (R435): it starts the steps of `VDRESET`, behind a `VDSAVE` of the VD that runs. -/
def evFlr (v : Nat) (s : State) : State :=
  if (s.vd v).reset != 2 || s.vdSaving v then s else (s.vdResetStep v false 2).1

-- R434: VDSAVE and VDLOAD

/-- Entry `i` of a save table: the PA of a context's image. -/
def State.saveEntry (s : State) (c : OwnCmd) (i : Nat) : Nat := s.rdNat (c.a.toNat + 8 * i) 8

/-- Contexts of a VD with a grid. -/
def State.liveCtxs (s : State) (v : Nat) : List Nat :=
  (List.range 256).filter (fun i => s.grids.any (fun g => g.2.ctx == 256 * v + i && !g.2.posted))

/-- Every live context of a VD begins its cut, into the images that the save table names. -/
def State.saveAll (s : State) (c : OwnCmd) : State :=
  (s.liveCtxs c.vd).foldl (fun s i => s.beginCut (256 * c.vd + i) ⟨0xFFFF, 0, some (s.saveEntry c i), 0, 0, 0, 0, []⟩) s

/-- VDSAVE (R434): acceptance stops, and cuts that a guest asked for end (phase 1); then every live context is cut (phase
2), and the status follows. -/
def evVdsave (new : Bool) (c : OwnCmd) (s : State) : State :=
  s.command new 0x12 true c (fun phase s =>
    let live := s.liveCtxs c.vd
    let busy := s.ctxs.any (fun e => e.1 / 256 == c.vd && e.2.cut.isSome)
    if phase == 2 then (if busy then .wait s 2 else .done s cmdOk 0)
    else if live.any (fun i => s.saveEntry c i == 0) then .done s cmdFailed 0
    else
      let s := s.updVd c.vd (fun d => { d with saving := true })
      if busy then .wait s 1 else if live.isEmpty then .done s cmdOk 0 else .wait (s.saveAll c) 2)

def execVdsave (c : OwnCmd) (s : State) : Res := .next (evVdsave true c s)

/-- The context numbers that a save table lists have cached entries; one read now waits stopped for its image. -/
def State.loadCtxs (s : State) (c : OwnCmd) : State :=
  (List.range 256).foldl (fun s i =>
    if s.saveEntry c i == 0 || (SMap.get? s.ctxs (256 * c.vd + i)).isSome then s
    else match s.ctEntry c.vd i with
      | some e => if e.1.testBit 31 && !e.2.1.testBit 0 then
          { s with ctxs := SMap.put s.ctxs (256 * c.vd + i) { mkCtx e with vstop := true } } else s
      | none => s) s

/-- VDLOAD (R434): each stopped context's image is restored, then acceptance resumes. -/
def evVdload (new : Bool) (c : OwnCmd) (s : State) : State :=
  s.command new 0x13 true c (fun _ s =>
    let key := s.mod.keyTag (s.vd c.vd).inf.skey
    (List.range 256).foldl (fun (a : CmdRes) i => match a with
      | .wait s n => .wait s n
      | .done s st v =>
        let x := 256 * c.vd + i
        let pa := s.saveEntry c i
        let stopped := (SMap.get? s.ctxs x).elim false (fun k => k.vstop)
        if st != cmdOk || pa == 0 || !stopped then .done s st v
        else match s.restoreImage x (.pa pa key) with
          | .refused => .done s cmdFailed 0
          | .wait s => .wait s 1
          | .ok s => .done s cmdOk 0) (.done (s.loadCtxs c) cmdOk 0) |> fun r => match r with
      | .done s st v => .done (if st == cmdOk then s.updVd c.vd (fun d => { d with saving := false }) else s) st v
      | r => r)

def execVdload (c : OwnCmd) (s : State) : Res := .next (evVdload true c s)

-- R432: KEYGEN

/-- What caches and operations hold under a key goes on under its new value (R431: caches hold plaintext). -/
def Seg.retag (k n : Nat) (g : Seg) : Seg := if g.key % 256 == k && k != 0 then { g with key := n } else g
def Line.retag (k n : Nat) (l : Line) : Line := if l.key % 256 == k && k != 0 then { l with key := n } else l
def AKind.retag (k n : Nat) : AKind → AKind
  | .copy rows ev => .copy (rows.map (fun r => ⟨r.src.map (Seg.retag k n), r.dst.map (Seg.retag k n)⟩)) ev
  | a => a
def EKind.retag (k n : Nat) : EKind → EKind
  | .loadMem f w q rows => .loadMem f w q (rows.map (fun r => r.map (Seg.retag k n)))
  | .storeMem gs bs => .storeMem (gs.map (Seg.retag k n)) bs
  | e => e

def State.retag (s : State) (k n : Nat) : State :=
  let tlb (l : List TlbE) : List TlbE := l.map (fun e => if e.key % 256 == k && k != 0 then { e with key := n } else e)
  { s with
    cores := SMap.mapV (fun (c : Core) => { c with l1 := SMap.mapV (Line.retag k n) c.l1, tlb := tlb c.tlb }) s.cores
    clusters := SMap.mapV (fun (c : Cluster) => { c with tlb := tlb c.tlb
                                                         ops := c.ops.map (fun o => { o with kind := o.kind.retag k n }) }) s.clusters
    dies := SMap.mapV (fun (d : Die) => { d with
      guest := SMap.mapV (Line.retag k n) d.guest, far := SMap.mapV (Line.retag k n) d.far
      upd := d.upd.map (fun p => if p.key % 256 == k && k != 0 then { p with key := n } else p) }) s.dies
    aops := SMap.mapV (fun (o : AOp) => { o with kind := o.kind.retag k n }) s.aops
    mod := { s.mod with colls := s.mod.colls.map (fun c => { c with ranks := c.ranks.map (fun r =>
      { r with send := r.send.map (Seg.retag k n), recv := r.recv.map (Seg.retag k n) }) }) } }

/-- KEYGEN (R432): KEYID 0 names no key, and the command then fails (log 33). -/
def evKeygen (new : Bool) (c : OwnCmd) (s : State) : State :=
  s.command new 0x14 true c (fun _ s =>
    let k := bits c.b.toNat 7 0
    if k == 0 then .done s cmdFailed 0
    else
      let s := s.updMod (fun m => { m with keys := SMap.put m.keys k (SMap.getD m.keys 0 k + 1) })
      .done (s.retag k (s.mod.keyTag k)) cmdOk 0)

def execKeygen (c : OwnCmd) (s : State) : Res := .next (evKeygen true c s)

-- R418, R430, R420: registers and notify pages

/-- VD_ENABLE (R418): EN is set, and the device reads the entry when it was clear. -/
def evVdEnable (v : Nat) (s : State) : State :=
  if !s.full || (s.vd v).ent.flags.testBit 0 then s
  else (s.updVd v (fun d => { d with ent := { d.ent with flags := d.ent.flags + 1 } })).readVd v

def execVdEnable (vd : Nat) (s : State) : Res := .next (evVdEnable vd s)

/-- REMAP_UNMASK (R430). -/
def evRemapUnmask (v i : Nat) (s : State) : State :=
  if !s.full || (s.vd v).inf.nvec ≤ i then s
  else s.remapCtl v i (SMap.getD (s.vd v).remap Remap.init i).valid false

def execRemapUnmask (vd i : Nat) (s : State) : Res := .next (evRemapUnmask vd i s)

/-- NOTIFY_WRITE (R388, R420): a write that is no request packet is refused with a record. -/
def evNotifyWrite (w : NotifyWr) (s : State) : State :=
  if !s.full then s
  else match s.notify w with
    | .refuse v reason => s.refusePkt v reason w
    | .ok .. => s

def execNotifyWrite (w : NotifyWr) (s : State) : Res := .next (evNotifyWrite w s)

end Sys2Proof.Machine
end

