-- ==== Sys2Proof/Machine/Matrix.lean ====
section
/-! DEFINITION. The easel: canvases, matrix instructions and their completion (08_isa_matrix.md R216-R240, 16
R411-R412), one meaning for each instruction. -/

namespace Sys2Proof.Machine

-- Canvas checks (R219) and the pool (R220-R222).

/-- Canvas with a sub-code and a name (R219). -/
def canvasTrap (sub : Nat) (m : BitVec 4) : Trap := ⟨0x09, BitVec.ofNat 64 (sub + 256 * m.toNat), 0⟩

/-- A bound canvas with its number, whose type suits; NAME before UNBOUND before TYPE (R219). -/
def State.canvasOf (s : State) (g : Group) (m : BitVec 4) (suits : CTy → Bool) : Except Trap (Nat × Canvas) :=
  match SMap.get? s.teams g.team with
  | none => .error (canvasTrap 4 m)
  | some t =>
    if t.canvas ≤ m.toNat then .error (canvasTrap 4 m)
    else match (SMap.get? t.binds m.toNat).bind (fun i => (SMap.get? s.canvases i).map (fun c => (i, c))) with
      | none => .error (canvasTrap 1 m)
      | some x => if suits x.2.ty then .ok x else .error (canvasTrap 2 m)

/-- Slots of a canvas type (R216). -/
def cySlots : CTy → Nat
  | .f64 | .lut2 => 2
  | .lut3 => 4
  | .lut4 => 8
  | _ => 1

/-- The type is a 64 by 64 canvas. -/
def cySquare : CTy → Bool
  | .f32 | .i32 | .f64 => true
  | _ => false

/-- Slots that a team's canvases take: those bound, and with `all` those still draining too. -/
def State.slotsUsed (s : State) (tid : Nat) (all : Bool) : Nat :=
  ((s.canvases.filter (fun e => e.2.team == tid && (all || e.2.bound))).map (fun e => cySlots e.2.ty)).foldl (· + ·) 0

/-- A predicate result of `cnal` in every lane of `Active(g)` (R221). -/
def predAll (act : Word) (pD : BitVec 3) (b : Bool) : Out :=
  Out.of ((maskLanes act).map (fun l => .p l pD.toNat b))

/-- `cnal.alloc` (R221). -/
def actAlloc (pD : BitVec 3) (ty : CTy) (cf : CF) (gid : Nat) (c : GCtx) (s : State) : Act :=
  if c.act == 0 then .done s
  else match SMap.get? s.teams c.g.team with
    | none => .trap s (canvasTrap 4 cf.m)
    | some t =>
      let m := cf.m.toNat
      if t.canvas ≤ m then .trap s (canvasTrap 4 cf.m)
      else if (SMap.get? t.binds m).isSome then .trap s (canvasTrap 3 cf.m)
      else if s.slotsUsed c.g.team true + cySlots ty ≤ t.pool then
        let i := s.nid
        let s := { s.fresh with canvases := SMap.put s.canvases i ⟨c.g.team, ty, true, []⟩ }
        let s := s.updTeam c.g.team (fun t => { t with binds := SMap.put t.binds m i })
        .done (s.commit gid (predAll c.act pD true))
      else if s.slotsUsed c.g.team false + cySlots ty ≤ t.pool then .wait s .canvas
      else .done (s.commit gid (predAll c.act pD false))

/-- n of `cnal` (R221). -/
def cnalN (c : GCtx) (b : Opnd) : Nat := c.data b c.low 1 % 64

/-- Slots move from the easel to a team's pool. -/
def State.growPool (s : State) (cl tid n : Nat) : State :=
  (s.updCluster cl (fun c => { c with free := c.free - n })).updTeam tid (fun t => { t with pool := t.pool + n })

/-- A grow that ends at issue (R221): success, failure, or neither. -/
def State.growNow (s : State) (g : Group) (n : Nat) : Option Bool :=
  match SMap.get? s.teams g.team with
  | none => some false
  | some t =>
    let cl := s.cluster (g.core / 4)
    if n == 0 then some true
    else if 32 - t.pool < n then some false
    else if cl.grows.isEmpty && n ≤ cl.free then some true
    else none

/-- `cnal.grow` and `cnal.grow.w` (R221, R222). -/
def actGrow (wait : Bool) (pD : BitVec 3) (b : Opnd) (gid : Nat) (c : GCtx) (s : State) : Act :=
  if c.act == 0 then .done s
  else match c.consume [(b, 1)] [c.low] with
    | some t => .trap s t
    | none =>
      let n := cnalN c b
      let cl := c.g.core / 4
      let fin (b : Bool) (s : State) : Act := .done (s.commit gid (predAll c.act pD b))
      if (s.cluster cl).grows.any (fun w => w.gid == gid) then .wait s .grow
      else match s.growNow c.g n with
        | some true => fin true (s.growPool cl c.g.team n)
        | some false => fin false s
        | none =>
          if wait then .wait (s.updCluster cl (fun x => { x with grows := x.grows ++ [⟨gid, n, c.k, pD, c.act⟩] })) .grow
          else fin false s

/-- Teams that hold slots on an easel (R222). -/
def State.holders (s : State) (cl : Nat) : List Nat :=
  (s.teams.filter (fun e => e.2.core / 4 == cl && 0 < e.2.pool)).map (fun e => e.1)

/-- The team of a group. -/
def State.teamOf (s : State) (gid : Nat) : Nat := (SMap.get? s.groups gid).elim 0 (fun g => g.team)

/-- The instruction of a waiting grow completes with its answer (R222). -/
def State.growDone (s : State) (cl : Nat) (w : Grow) (b : Bool) : State :=
  let s := s.updCluster cl (fun c => { c with grows := c.grows.filter (fun x => x.gid != w.gid) })
  match SMap.get? s.groups w.gid with
  | none => s
  | some g => finish s w.gid ⟨g, w.k, g.runMask, w.act, g.runPc⟩ (.done (s.commit w.gid (predAll w.act w.pD b)))

/-- What CANVAS_GROW_GRANT may do on an easel (R222): grant the first request, or refuse the last. -/
def State.growStep (s : State) (cl : Nat) : Option (Grow × Bool) :=
  let ws := (s.cluster cl).grows
  match ws, ws.getLast? with
  | w :: _, some l =>
    if w.n ≤ (s.cluster cl).free then some (w, true)
    else if (s.holders cl).all (fun t => ws.any (fun w => s.teamOf w.gid == t)) then some (l, false)
    else none
  | _, _ => none

/-- CANVAS_GROW_GRANT (R222). -/
def evCanvasGrowGrant (cl : Nat) (s : State) : State :=
  match s.growStep cl with
  | none => s
  | some (w, ok) =>
    if ok then (s.growPool cl (s.teamOf w.gid) w.n).growDone cl w true
    else
      let ctx := (SMap.get? s.groups w.gid).elim 0 (fun g => g.ctx)
      (s.count (cl / 32) ctx (fun x => { x with cdead := x.cdead + 1 })).growDone cl w false

/-- `cnal.free` (R221). -/
def actCnFree (cf : CF) (_ : Nat) (c : GCtx) (s : State) : Act :=
  match s.canvasOf c.g cf.m (fun _ => true) with
  | .error t => .trap s t
  | .ok x =>
    let s := s.updTeam c.g.team (fun t => { t with binds := SMap.del t.binds cf.m.toNat })
    .done ({ s with canvases := SMap.put s.canvases x.1 { x.2 with bound := false } }.sweepCanvases)

/-- `cnal.trim` (R221): it waits for slots that drain when it needs them. -/
def actTrim (b : Opnd) (_ : Nat) (c : GCtx) (s : State) : Act :=
  match c.consume [(b, 1)] [c.low], SMap.get? s.teams c.g.team with
  | some t, _ => .trap s t
  | none, none => .done s
  | none, some t =>
    let want := min (cnalN c b) (t.pool - t.canvas)
    let n := min want (t.pool - s.slotsUsed c.g.team false)
    if t.pool - s.slotsUsed c.g.team true < n then .wait s .canvas
    else
      let s := s.updTeam c.g.team (fun t => { t with pool := t.pool - n })
      .done (s.updCluster (c.g.core / 4) (fun x => { x with free := x.free + n }))

-- Posting.

/-- Priority level of a team's grid (R411). -/
def State.prioOf (s : State) (tid : Nat) : Nat :=
  ((SMap.get? s.teams tid).bind (fun t => s.grid? t.grid)).elim 0 (fun g => g.lr.prio)

/-- Post an operation to the easel of the group's cluster. `bBase`, `bRegs` and `kn` are those of a pass. -/
def State.post (s : State) (gid : Nat) (g : Group) (cv : Nat) (cv2 : Option Nat) (kb kn bBase bRegs : Nat) (k : EKind) :
    State :=
  let cl := g.core / 4
  let ops := (s.cluster cl).ops
  let old := (ops.filter (fun o => o.gid == gid && o.isPass && o.bBase == bBase && o.bRegs == bRegs && !o.bw)).getLast?
  let o : EOp := ⟨s.nid, gid, (g.ids gid).tail, g.core, g.team, g.ctx, cv, cv2, k, s.clk, s.prioOf g.team, kb, kn, bBase, bRegs,
    old.elim s.nid (fun o => o.ver), false, false⟩
  s.fresh.updCluster cl (fun c => { c with ops := c.ops ++ [o] })

/-- The reservation table of 32 passes is full (R226). -/
def State.tableFull (s : State) (cl : Nat) : Bool :=
  32 ≤ ((s.cluster cl).ops.filter (fun o => o.isPass && !o.done)).length

/-- Fragment images by lane: zero outside `Active(g)` (R225). -/
def fragImgs (c : GCtx) (o : Opnd) (first n : Nat) : List (List Image) :=
  lanes32.map (fun l => (List.range n).map (fun i => if inMask c.act l then c.img o l (first + i) else Image.zero))

/-- Scale images by lane: 0x7F outside `Active(g)` (R225). -/
def scaleImgs (c : GCtx) (o : Opnd) (k : Nat) : List Image :=
  lanes32.map (fun l => if inMask c.act l then c.img o l k else ⟨false, 0, 0x7F7F7F7F⟩)

/-- γ's images. -/
def gamImgs (c : GCtx) (dk : Bool) (gam : Opnd) (n : Nat) : List Image := if dk then c.imgs gam c.low n else []

/-- First register of an operand. -/
def opndBase : Opnd → Nat
  | .v n => n.val
  | .s n => n.val
  | _ => 0

/-- Keep the canvases that a waiting `mma`, `mlut.a` or `mwait.m` named at its issue (R226, R93). -/
def State.holdCvs (s : State) (gid : Nat) (cvs : List Nat) : State :=
  s.updGroup gid (fun g => { g with held := some (match g.held with
    | some h => { h with cvs := cvs }
    | none => Held.of g cvs) })

/-- The canvases of names that suit, in the order of the operands (R219, log 113). -/
def State.canvasesOf (s : State) (g : Group) : List (BitVec 4 × (CTy → Bool)) → Except Trap (List Nat)
  | [] => .ok []
  | x :: r => match s.canvasOf g x.1 x.2 with
    | .error t => .error t
    | .ok v => match s.canvasesOf g r with
      | .error t => .error t
      | .ok vs => .ok (v.1 :: vs)

/-- The canvases of a form that posts passes: checked at its issue, and the same ones while it waits (R226). -/
def State.passCvs (s : State) (g : Group) (names : List (BitVec 4 × (CTy → Bool))) : Except Trap (List Nat) :=
  match g.held.elim [] (fun h => h.cvs) with
  | [] => s.canvasesOf g names
  | cvs => .ok cvs

/-- The passes of an `mma` from k-block `kb` on (R226): it waits while the table is full, with `%prog` at the k-block
reached. Inside a handler, where `%prog` keeps no count (R309), it posts them once there is room for all. -/
def mmaPost (x : MmaArgs) (cv gid : Nat) (c : GCtx) (s0 : State) : Nat → Nat → State → Act
  | 0, _, s => .done s
  | f + 1, kb, s =>
    if x.kn.toNat < kb then .done s
    else if s.tableFull (c.g.core / 4) || s.lim == some kb then
      .wait ((s.stopAt s0 gid kb c.g).holdCvs gid [cv]) .table
    else
      let n := (mmBlock x.fmt).2
      let k : EKind := .pass x.fmt x.mx x.za x.dk x.sat x.tr x.cf.q.toNat (fragImgs c x.a (kb * n) n)
        (fragImgs c x.b (kb * n) n) (if x.mx then scaleImgs c x.c kb else [])
        (gamImgs c x.dk x.gam (if x.fmt == .f64 then 2 else 1))
      mmaPost x cv gid c s0 f (kb + 1) (s.post gid c.g cv none kb x.kn.toNat (opndBase x.b + kb * n) n k)

def actMma (x : MmaArgs) (gid : Nat) (c : GCtx) (s : State) : Act :=
  if c.act == 0 then .done s
  else match s.passCvs c.g [(x.cf.m, fun t => t == mmCanvas x.fmt)] with
    | .error t => .trap s t
    | .ok cvs => mmaPost x (cvs.headD 0) gid c s 5 c.g.prog.toNat s

/-- Table type of a width less one (R229). -/
def lutTy (n1 : BitVec 2) : CTy :=
  match n1.toNat with | 0 => .lut1 | 1 => .lut2 | 2 => .lut3 | _ => .lut4

/-- Registers of a codebook (R229). -/
def codeRegs (n1 : BitVec 2) : Nat := max 1 (2 ^ n1.toNat)

def actMlutB (n1 : BitVec 2) (cf : CF) (a b : Opnd) (gid : Nat) (c : GCtx) (s : State) : Act :=
  if c.act == 0 then .done s
  else match s.canvasOf c.g cf.m (fun t => t == lutTy n1) with
    | .error t => .trap s t
    | .ok v => .done (s.post gid c.g v.1 none 0 0 0 0
        (.lutB (n1.toNat + 1) (fragImgs c a 0 32) (c.imgs b c.low (codeRegs n1)) c.act))

def actMlutA (x : LutArgs) (gid : Nat) (c : GCtx) (s : State) : Act :=
  if c.act == 0 then .done s
  else match s.passCvs c.g [(x.cf.m, fun t => t == .f32), (x.mt, fun t => t == lutTy x.n1)] with
    | .error t => .trap s t
    | .ok cvs =>
      if s.tableFull (c.g.core / 4) then .wait (s.holdCvs gid cvs) .table
      else
        let n := x.n1.toNat + 1
        let t := cvs.getD 1 0
        .done (s.post gid c.g (cvs.headD 0) (some t) 0 0 (opndBase x.b) (2 * n)
          (.lutA n x.za x.dk x.cf.q.toNat t (fragImgs c x.b 0 (2 * n)) (gamImgs c x.dk x.gam 1) c.act))

def execMma (x : MmaArgs) (s : State) : Res :=
  let n := (x.kn.toNat + 1) * (mmBlock x.fmt).2
  issue (.mma x) x.k [(x.a, n), (x.b, n), (x.c, x.kn.toNat + 1), (x.gam, if x.fmt == .f64 then 2 else 1)] (actMma x) s
def execMlutB (k : Com) (n1 : BitVec 2) (cf : CF) (a b : Opnd) (s : State) : Res :=
  issue (.mlutB k n1 cf a b) k [(a, 32), (b, codeRegs n1)] (actMlutB n1 cf a b) s
def execMlutA (x : LutArgs) (s : State) : Res :=
  issue (.mlutA x) x.k [(x.b, 2 * (x.n1.toNat + 1)), (x.gam, 1)] (actMlutA x) s

def execCnalAlloc (k : Com) (pD : BitVec 3) (ty : CTy) (cf : CF) (s : State) : Res :=
  issue (.cnalAlloc k pD ty cf) k [] (actAlloc pD ty cf) s
def execCnalGrow (k : Com) (pD : BitVec 3) (b : Opnd) (s : State) : Res :=
  issue (.cnalGrow k pD b) k [(b, 1)] (actGrow false pD b) s
def execCnalGrowW (k : Com) (pD : BitVec 3) (b : Opnd) (s : State) : Res :=
  issue (.cnalGrowW k pD b) k [(b, 1)] (actGrow true pD b) s
def execCanvasGrowGrant (cl : Nat) (s : State) : Res := .next (evCanvasGrowGrant cl s)
def execCnalFree (k : Com) (cf : CF) (s : State) : Res := issue (.cnalFree k cf) k [] (actCnFree cf) s
def execCnalTrim (k : Com) (b : Opnd) (s : State) : Res := issue (.cnalTrim k b) k [(b, 1)] (actTrim b) s

-- Loading, storing and reshaping (R231-R236).

def actCnz (cf : CF) (gid : Nat) (c : GCtx) (s : State) : Act :=
  match s.canvasOf c.g cf.m (fun t => cySquare t || cf.wh) with
  | .error t => .trap s t
  | .ok v => .done (s.post gid c.g v.1 none 0 0 0 0 (.zero cf.wh cf.q.toNat))

def execCnz (k : Com) (cf : CF) (s : State) : Res := issue (.cnz k cf) k [] (actCnz cf) s

/-- Canvas types and formats that go together (R234). -/
def cnLoads (f : CnF) (t : CTy) : Bool :=
  match t with
  | .f32 => f != .f64 && f != .i32
  | .f64 => f == .f32 || f == .f64
  | .i32 => f == .i32
  | _ => false
def cnStores (f : CnF) (t : CTy) : Bool :=
  match t with
  | .i32 => f == .f32 || f == .i32
  | _ => cnLoads f t
def cnRegLoads (f : CnF) (t : CTy) : Bool :=
  match t with
  | .f32 => f == .f32
  | .f64 => f == .f64
  | .i32 => f == .i32
  | _ => false
def cnRegStores (f : CnF) (t : CTy) : Bool := cnRegLoads f t || (t == .i32 && f == .f32)

/-- Offset of row `r` of a memory form (R232). -/
def rowOff (x : CnMemArgs) (c : GCtx) (r : Nat) : DWord :=
  if x.ap == 7 then BitVec.ofNat 64 ((c.data x.a c.low 1 + r * x.k.imm.toNat) % 2 ^ 32)
  else BitVec.ofNat 64 (c.data x.a c.low 2 + r * x.k.imm.toNat)

/-- Cut stretches into elements. -/
def elemSegs (e : Nat) (gs : List Seg) : List Seg :=
  gs.flatMap (fun g => (List.range (g.len / e)).map (fun i => { g with pa := g.pa + e * i, len := e }))

/-- Check the `n` elements of a row (R235): where the row as one access fails, element by element, so that the failing one is
reported (R46). -/
def elemChk (c : GCtx) (gid : Nat) (s : State) (sp : AccessSpec) (ap : BitVec 3) (off : DWord) (n : Nat) : Chk :=
  match s.chk c.g gid sp ap off (n * sp.align) with
  | .ok gs es => .ok gs es
  | _ => chkLanes ((List.range n).map (fun j => s.chk c.g gid sp ap (off + BitVec.ofNat 64 (sp.align * j)) sp.align))

/-- Check every element address of a memory form (R235), then go on with the elements of each row. -/
def cnCheck (x : CnMemArgs) (need : Need) (gid : Nat) (c : GCtx) (s : State) (k : List (List Seg) → State → Act) : Act :=
  let n := regionN x.cf.wh
  let sp : AccessSpec := ⟨need, false, true, x.f.bytes⟩
  match c.consume [(x.a, baseRegs x.ap)] [c.low] with
  | some t => .trap s t
  | none =>
    let cs := (List.range n).map (fun r => elemChk c gid s sp x.ap (rowOff x c r) n)
    match chkLanes cs with
    | .ok gs es =>
      let held := if need.w then s.hostLines gs else []
      if held.isEmpty then k (cs.map (fun r => elemSegs x.f.bytes r.segs)) (s.tlbFills c.g.core es)
      else .wait (s.askHost held) .fence
    | b => chkFail gid c s (if need.w then 2 else 1) b

def actCnldMem (x : CnMemArgs) (gid : Nat) (c : GCtx) (s : State) : Act :=
  match s.canvasOf c.g x.cf.m (cnLoads x.f) with
  | .error t => .trap s t
  | .ok v => cnCheck x needR gid c s fun rows s =>
      .done (s.post gid c.g v.1 none 0 0 0 0 (.loadMem x.f x.cf.wh x.cf.q.toNat rows))

def actCnldReg (x : CnRegArgs) (gid : Nat) (c : GCtx) (s : State) : Act :=
  if c.act == 0 then .done s
  else match s.canvasOf c.g x.cf.m (cnRegLoads x.f) with
    | .error t => .trap s t
    | .ok v => .done (s.post gid c.g v.1 none 0 0 0 0
        (.loadReg x.f x.cf.q.toNat ((maskLanes c.act).map (fun l => (l, c.imgs x.r l (32 * x.f.regs))))))

/-- Every earlier operation on a canvas has written its entries. -/
def State.canvasQuiet (s : State) (cl cv : Nat) : Bool :=
  (s.cluster cl).ops.all (fun o => o.done || !(o.cv == cv || o.cv2 == some cv))

/-- Extended value of an entry, an integer exactly (R233). -/
def entryFV (t : CTy) (x : CElem) : FV :=
  if t == .i32 then ofInt false (toSigned 32 x.d) 0 else x.ext t

/-- Format of a `cnst`. -/
def cnFmt : CnF → Fmt
  | .bf16 => .bf16
  | .f16 => .f16
  | .e4m3 => .e4m3
  | .e5m2 => .e5m2
  | .f64 => .f64
  | .f32 | .i32 => .f32

/-- Row and column where a region begins. -/
def regionAt (cf : CF) : Nat × Nat := if cf.wh then (0, 0) else (32 * (cf.q.toNat / 2), 32 * (cf.q.toNat % 2))

/-- Entries of row `r` of a region. -/
def regionRow (v : Canvas) (cf : CF) (r : Nat) : List CElem :=
  (List.range (regionN cf.wh)).map (fun k => v.at ((regionAt cf).1 + r) ((regionAt cf).2 + k))

/-- The lane whose `%rng` row `r` uses (R233). -/
def rowLane (ls : List Nat) (r : Nat) : Nat := if ls.contains (r % 32) then r % 32 else ls.headD 0

/-- The rows of a region finalised in ascending order (R233): the bits of each row, flags by lane, and new `%rng`s. -/
def cnFinal (c : GCtx) (ls : List Nat) (v : Canvas) (f : CnF) (rm : RM) (sat : Bool) (cf : CF) (rows : List Nat) :
    List (Nat × List Nat) × List (Nat × Flags) × SMap Word :=
  rows.foldl (fun (acc : List (Nat × List Nat) × List (Nat × Flags) × SMap Word) r =>
    let es := regionRow v cf r
    if f == .i32 then (acc.1 ++ [(r, es.map (fun e => e.d))], acc.2)
    else
      let k := rowLane ls r
      let q := finalSeq (cnFmt f) (c.mode rm) sat (SMap.getD acc.2.2 (c.rngOf k) k) (es.map (entryFV v.ty))
      (acc.1 ++ [(r, q.1)], acc.2.1 ++ [(k, q.2.1)], SMap.put acc.2.2 k q.2.2)) ([], [], [])

/-- Poison Consumed for the lowest poisoned entry of a region (R302). -/
def canvasPoison (v : Canvas) (cf : CF) : Option Trap :=
  ((regionRC cf.wh cf.q.toNat).find? (fun x => (v.at x.1 x.2).p)).map
    (fun x => ⟨7, BitVec.ofNat 64 (2 * 2 ^ 62 + (64 * x.1 + x.2) * 256 + cf.m.toNat), 0⟩)

/-- `cnst` to memory (R235): the checks of its addresses, then the poison of its entries (log 114). -/
def actCnstMem (x : CnMemArgs) (gid : Nat) (c : GCtx) (s : State) : Act :=
  match s.canvasOf c.g x.cf.m (cnStores x.f) with
  | .error t => .trap s t
  | .ok v => cnCheck x needW gid c s fun rows s =>
      if !s.canvasQuiet (c.g.core / 4) v.1 then .wait s .canvas
      else match canvasPoison v.2 x.cf with
        | some t => .trap s t
        | none =>
          let q := cnFinal c (maskLanes c.run) v.2 x.f x.rm x.sat x.cf (List.range (regionN x.cf.wh))
          let s := s.commit gid ⟨[], q.2.1, q.2.2⟩
          .done (s.post gid c.g v.1 none 0 0 0 0 (.storeMem rows.flatten
            (q.1.flatMap (fun r => r.2.map (leBytes x.f.bytes)))))

/-- The register results of an easel operation on a canvas are outstanding, and known as such to `mwait` (R237). -/
def State.commitCv (s : State) (gid cv : Nat) (o : Out) : State :=
  (s.commit gid o).updGroup gid (fun g => { g with
    eres := (g.eres ++ o.w.map (fun w => (cv, w))).filter (fun e => g.pend.any (fun p => p.contains e.2)) })

def actCnstReg (x : CnRegArgs) (gid : Nat) (c : GCtx) (s : State) : Act :=
  if c.act == 0 then .done s
  else match s.canvasOf c.g x.cf.m (cnRegStores x.f) with
    | .error t => .trap s t
    | .ok v =>
      if !s.canvasQuiet (c.g.core / 4) v.1 then .wait s .canvas
      else
        let q := cnFinal c (maskLanes c.act) v.2 x.f x.rm false x.cf lanes32
        let imgs (r : Nat × List Nat) : List Image :=
          (r.2.zip (regionRow v.2 x.cf r.1)).flatMap (fun e => plainImgs x.f.regs e.2.p e.1)
        .done (s.commitCv gid v.1 ⟨(q.1.filter (fun r => inMask c.act r.1)).flatMap (fun r => c.wr x.r r.1 (imgs r)),
          q.2.1, q.2.2⟩)

def execCnldMem (x : CnMemArgs) (s : State) : Res := issue (.cnldMem x) x.k [(x.a, baseRegs x.ap)] (actCnldMem x) s
def execCnldReg (x : CnRegArgs) (s : State) : Res := issue (.cnldReg x) x.k [(x.r, 32 * x.f.regs)] (actCnldReg x) s
def execCnstMem (x : CnMemArgs) (s : State) : Res := issue (.cnstMem x) x.k [(x.a, baseRegs x.ap)] (actCnstMem x) s
def execCnstReg (x : CnRegArgs) (s : State) : Res := issue (.cnstReg x) x.k [(x.r, 32 * x.f.regs)] (actCnstReg x) s

/-- Registers per row block of a `cnrow` by type (R236). -/
def rowRegs (t : CTy) : Nat := if t == .f64 then 2 else 1

/-- A range that no budget holds. -/
def noRange : Nat := 256

/-- The registers that a `cnrow` of `b` row blocks names, which depend on the type of its bound canvas (R236): none until
the canvas passes its checks, and an odd base of a pair stands for a range beyond every budget (R24). -/
def rowRanges (cf : CF) (suits : CTy → Bool) (r : Opnd) (b : Nat) (s : State) : List (Opnd × Nat) :=
  match s.cur.bind (SMap.get? s.groups) with
  | none => []
  | some g => match s.canvasOf g cf.m suits with
    | .error _ => []
    | .ok v => [(r, if v.2.ty == .f64 && opndBase r % 2 != 0 then noRange else b * rowRegs v.2.ty)]

/-- Row blocks of a region: rows 0 to 31, and 32 to 63 of a whole canvas. -/
def rowBlocks (cf : CF) : Nat := if cf.wh then 2 else 1

/-- The types that `cnrow.scl` and `cnrow.cscl` accept (R236). -/
def rowScales (t : CTy) : Bool := t == .f32 || t == .f64

/-- The larger of two entries (R236), poison of either. -/
def maxEntry (t : CTy) (a b : CElem) : CElem :=
  let p := a.p || b.p
  if t == .i32 then (if toSigned 32 b.d ≤ toSigned 32 a.d then { a with p := p } else { b with p := p })
  else match MinMax.pick ⟨true, false⟩ (a.ext t) (b.ext t) with
    | some true => { a with p := p }
    | some false => { b with p := p }
    | none => celem t p (.nan false)

/-- One node of a row's sum (R236). -/
def sumEntry (t : CTy) (a b : CElem) : CElem :=
  let p := a.p || b.p
  if t == .i32 then ⟨p, 0, (a.d + b.d) % 2 ^ 32⟩ else celem t p (sumFV false [a.ext t, b.ext t]).1

/-- A pairwise tree over the columns (R78, R236). -/
def rowTree (f : CElem → CElem → CElem) : Nat → List CElem → CElem
  | 0, xs => xs.headD CElem.zero
  | n + 1, xs =>
    let rec pair : List CElem → List CElem
      | a :: b :: r => f a b :: pair r
      | r => r
    rowTree f n (pair xs)

/-- The maximum of a row. -/
def rowMax (t : CTy) : List CElem → CElem
  | [] => CElem.zero
  | e :: es => es.foldl (maxEntry t) e

/-- `cnrow.max` and `cnrow.sum` (R236). -/
def actRowGet (cf : CF) (r : Opnd) (f : CTy → List CElem → CElem) (gid : Nat) (c : GCtx) (s : State) : Act :=
  if c.act == 0 then .done s
  else match s.canvasOf c.g cf.m cySquare with
    | .error t => .trap s t
    | .ok v =>
      if !s.canvasQuiet (c.g.core / 4) v.1 then .wait s .canvas
      else .done (s.commitCv gid v.1 (Out.of ((maskLanes c.act).flatMap (fun l =>
        c.wr r l ((List.range (rowBlocks cf)).flatMap (fun h =>
          (f v.2.ty (regionRow v.2 cf (32 * h + l))).imgs v.2.ty))))))

/-- The rows that scale, with their images (R236). -/
def scaleRows (c : GCtx) (cf : CF) (n : Nat) (r : Opnd) : List (Nat × List Image) :=
  (List.range (rowBlocks cf)).flatMap (fun h =>
    (maskLanes c.act).map (fun l => (32 * h + l, (List.range n).map (fun i => c.img r l (n * h + i)))))

def actRowScl (cf : CF) (r : Opnd) (gid : Nat) (c : GCtx) (s : State) : Act :=
  if c.act == 0 then .done s
  else match s.canvasOf c.g cf.m rowScales with
    | .error t => .trap s t
    | .ok v => .done (s.post gid c.g v.1 none 0 0 0 0 (.scale cf.wh cf.q.toNat (scaleRows c cf (rowRegs v.2.ty) r)))

def actRowCscl (cf : CF) (r : Opnd) (gid : Nat) (c : GCtx) (s : State) : Act :=
  match s.canvasOf c.g cf.m rowScales with
  | .error t => .trap s t
  | .ok v => .done (s.post gid c.g v.1 none 0 0 0 0 (.scale cf.wh cf.q.toNat
      ((List.range (regionN cf.wh)).map (fun k => (k, c.imgs r c.low (rowRegs v.2.ty))))))

def execCnrowMax (k : Com) (cf : CF) (r : Opnd) (s : State) : Res :=
  issue (.cnrowMax k cf r) k (rowRanges cf cySquare r (rowBlocks cf) s) (actRowGet cf r rowMax) s
def execCnrowSum (k : Com) (cf : CF) (r : Opnd) (s : State) : Res :=
  issue (.cnrowSum k cf r) k (rowRanges cf cySquare r (rowBlocks cf) s)
    (actRowGet cf r (fun t => rowTree (sumEntry t) 6)) s
def execCnrowScl (k : Com) (cf : CF) (r : Opnd) (s : State) : Res :=
  issue (.cnrowScl k cf r) k (rowRanges cf rowScales r (rowBlocks cf) s) (actRowScl cf r) s
def execCnrowCscl (k : Com) (cf : CF) (r : Opnd) (s : State) : Res :=
  issue (.cnrowCscl k cf r) k (rowRanges cf rowScales r 1 s) (actRowCscl cf r) s

-- Completion (R228, R237, R411, R412).

/-- The canvas that a name is bound to. -/
def State.bound? (s : State) (g : Group) (m : BitVec 4) : Option Nat :=
  (SMap.get? s.teams g.team).bind (fun t => SMap.get? t.binds m.toNat)

/-- The canvases that an `mwait` waits for, or none for all: those of its issue while it waits (R93, R237). -/
def State.mwaitCvs (s : State) (g : Group) (m : Option (BitVec 4)) : Option (List Nat) :=
  m.map (fun n => g.held.elim (s.bound? g n).toList (fun h => h.cvs))

/-- An easel operation of the group on the canvases is not complete: one posted, or one with an outstanding register result
(R237, R279). -/
def State.easelOwes (s : State) (gid : Nat) (g : Group) (cvs : Option (List Nat)) : Bool :=
  let sel (i : Nat) : Bool := cvs.elim true (fun l => l.contains i)
  (s.cluster (g.core / 4)).ops.any (fun o => o.mine (g.ids gid) && (sel o.cv || o.cv2.any sel)) ||
    g.eres.any (fun e => sel e.1 && g.pend.any (fun w => w.contains e.2))

/-- `mwait` (R237, R238): the operations selected are complete; it then orders as a token wait does. -/
def actMwait (m : Option (BitVec 4)) (gid : Nat) (c : GCtx) (s : State) : Act :=
  let cvs := s.mwaitCvs c.g m
  if s.easelOwes gid c.g cvs then .wait (cvs.elim s (s.holdCvs gid)) .mwait
  else .done (s.tokOrder c.g)

def execMwait (k : Com) (s : State) : Res := issue (.mwait k) k [] (actMwait none) s
def execMwaitM (k : Com) (cf : CF) (s : State) : Res := issue (.mwaitM k cf) k [] (actMwait (some cf.m)) s

/-- Rank of a waiting pass (R411). -/
def EOp.rank (clk : Nat) (o : EOp) : Nat := if 1024 ≤ clk - o.posted then 4 else 3 - o.prio

/-- The pass that is granted next (R411). -/
def State.nextPass (s : State) (cl : Nat) : Option EOp :=
  let ops := (s.cluster cl).ops
  (ops.filter (fun o => o.isPass && eligible ops o)).foldl (fun (b : Option EOp) o => match b with
    | none => some o
    | some x => if x.rank s.clk < o.rank s.clk then some o else some x) none

/-- A pass F joins the pass of E (R412). -/
def EOp.joins (f e : EOp) : Bool :=
  f.gid == e.gid && f.kb == e.kb && f.kn == e.kn && f.bBase == e.bBase && f.ver == e.ver &&
    e.posted ≤ f.posted && f.posted ≤ e.posted + 64 &&
    (match e.kind, f.kind with
     | .pass x mx _ _ _ tr .., .pass y my _ _ _ ty .. => x == y && mx == my && tr == ty
     | _, _ => false)

/-- Grant up to `n` further passes that join E. -/
def State.fuse (s : State) (cl : Nat) (e : EOp) : Nat → State
  | 0 => s
  | n + 1 =>
    let s := s.fuse cl e n
    let ops := (s.cluster cl).ops
    match ops.find? (fun o => o.id != e.id && o.isPass && eligible ops o && o.joins e) with
    | some o => s.easelDo cl o
    | none => s

/-- EASEL_GRANT (R411, R412). -/
def evEaselGrant (cl : Nat) (s : State) : State :=
  match s.nextPass cl with
  | some e => (s.easelDo cl e).fuse cl e 3
  | none => s

/-- The operation that EASEL_OP_COMPLETE takes: one whose entries are written, else the next that is no pass. -/
def State.nextOp (s : State) (cl : Nat) : Option EOp :=
  let ops := (s.cluster cl).ops
  (ops.find? (fun o => o.done)).or (ops.find? (fun o => !o.isPass && eligible ops o))

/-- Stretches of memory that an operation reads or writes. -/
def EKind.segs : EKind → List Seg
  | .loadMem _ _ _ rows => rows.flatten
  | .storeMem segs _ => segs
  | _ => []

/-- EASEL_OP_COMPLETE (R237): an operation that is no pass is performed first. -/
def evEaselOpComplete (cl : Nat) (s : State) : State :=
  match s.nextOp cl with
  | some o =>
    if !o.done && !s.reachAll o.core false o.kind.segs then s.askHost s.heldUpd
    else (if o.done then s else s.easelDo cl o).easelEnd cl o.id
  | none => s

def execEaselGrant (cl : Nat) (s : State) : Res := .next (evEaselGrant cl s)
def execEaselOpComplete (cl : Nat) (s : State) : Res := .next (evEaselOpComplete cl s)

end Sys2Proof.Machine
end

