-- ==== Sys2Proof/Machine/Tier.lean ====
section
/-! DEFINITION. The tier engine (07 R213, 14 R372-R376, 17 R429): the `tier` instructions and the steps of the
engine. -/

namespace Sys2Proof.Machine

def State.obj (s : State) (v n : Nat) : TObj := SMap.getD (s.vd v).objs TObj.init n
def State.setObj (s : State) (v n : Nat) (o : TObj) : State :=
  s.updVd v (fun d => { d with objs := SMap.put d.objs n o })

/-- Frames of 64 KiB that an object takes. -/
def State.objFrames (s : State) (v n : Nat) : Nat := if s.objKind v n == 1 then 1 else s.objSize v n / 65536

/-- Frames of the VD's tier pool that no object holds (R373). -/
def State.freeFrames (s : State) (v : Nat) : List Nat :=
  let d := s.vd v
  ((List.range d.inf.tpframes).map (fun i => d.inf.tpbase.toNat + 65536 * i)).filter
    (fun f => !d.objs.any (fun o => o.2.frames.contains f))

/-- The unpinned object in HBM that was promoted longest ago (R373). -/
def State.oldestObj (s : State) (v : Nat) : Option Nat :=
  (((s.vd v).objs.filter (fun o => o.2.st == .hbm && o.2.pins.isEmpty)).foldl
    (fun (b : Option (Nat × TObj)) o => match b with
      | none => some o
      | some x => if o.2.order < x.2.order then some o else some x) none).map (fun o => o.1)

/-- One operation is done with an object; `bits` are added to its status. -/
def State.topDone (s : State) (op v n bits : Nat) : State :=
  (s.updTop op (fun t => { t with objs := t.objs.filter (fun x => x != n), status := t.status ||| bits })).setObj v n
    { s.obj v n with queue := (s.obj v n).queue.filter (fun x => x != op) }

/-- Objects that the contexts of a VD pin at once (R418). -/
def State.pinCount (s : State) (v : Nat) : Nat := ((s.vd v).objs.filter (fun o => !o.2.pins.isEmpty)).length

/-- A pin of an object that no context pins yet would exceed the limit (R213). -/
def State.pinFull (s : State) (v : Nat) (o : TObj) : Bool := o.pins.isEmpty && (s.vd v).inf.pinlim ≤ s.pinCount v

/-- The chain of the grid that asks for a promotion: of the first group that waits, else of the first operation queued (R376). -/
def State.askChain (s : State) (o : TObj) : Nat :=
  match (o.waiters.filterMap (fun g => SMap.get? s.groups g)).head?.or
      ((o.queue.filterMap (fun p => SMap.get? s.tops p)).head?.bind (fun t => SMap.get? s.groups t.gid)) with
  | some g => s.chainOf g.team
  | none => 0

/-- Begin a promotion (R373), for the chain of the grid that asks (R376). -/
def State.startPromote (s : State) (v n : Nat) : State :=
  s.setObj v n { s.obj v n with st := .promoting, chain := s.askChain (s.obj v n) }

/-- The tier leaves of a VD's stage-2 tables, each with the frames of 64 KiB it spans, in the order of their addresses: found
through the listed bytes of memory (R374, R429). -/
def leafCells (s : State) (v : Nat) : Nat → Nat → List (Nat × Nat)
  | 0, _ => []
  | l + 1, t =>
    let n := 2 ^ lvlBits true l
    let here := ((s.mem.filter (fun c => t ≤ c.1 && c.1 < t + 8 * n)).map (fun c => t + (c.1 - t) / 8 * 8)).eraseDups
    here.flatMap (fun a =>
      let e := s.rdNat a 8
      if !entValid e then []
      else if e.testBit 1 then leafCells s v l (bits e 51 16 * 2 ^ 16)
      else if e.testBit 7 then [(a, 2 ^ lvlShift l / 65536)] else [])

/-- The place in an object of the first frame of each of its leaves: an object mapped more than once begins again (log 86). -/
def leafPlaces (need : Nat) : Nat → List (Nat × Nat) → List (Nat × Nat)
  | _, [] => []
  | i, (a, n) :: ls => (a, i % max 1 need) :: leafPlaces need (i + n) ls

/-- The leaves of an object, each with the frames it spans. -/
def State.objLeaves (s : State) (v n : Nat) : List (Nat × Nat) :=
  (leafCells s v 3 (bits (s.vd v).inf.s2root.toNat 51 16 * 2 ^ 16)).filter (fun a =>
    let e := s.rdNat a.1 8
    let oa := bits e 51 16 * 2 ^ 16
    if e.testBit 8 then (s.obj v n).frames.contains oa else oa / 65536 == n)

/-- `k` frames of a free list that lie one after the other, aligned to their size: those of one leaf (R425, R429,
log 124). -/
def frameRun (free : List Nat) (k : Nat) : Option (List Nat) :=
  (free.filter (fun f => f % (65536 * k) == 0)).findSome? (fun f =>
    let r := (List.range k).map (fun i => f + 65536 * i)
    if r.all free.contains then some r else none)

/-- Frames for an object of `need` frames, from place `i` on: a run for each leaf that begins there, else one at a time. -/
def takeFrames (spans : List (Nat × Nat)) (need : Nat) : Nat → Nat → List Nat → Option (List Nat)
  | 0, _, _ => some []
  | f + 1, i, free =>
    if need ≤ i then some []
    else
      let k := ((spans.filter (fun x => x.1 == i)).map (fun x => x.2)).foldl max 1
      match frameRun free (min k need) with
      | none => none
      | some r => (takeFrames spans need f (i + r.length) (free.filter (fun x => !r.contains x))).map (fun l => r ++ l)

/-- The frames that a promotion takes, if the pool has them free (R373). -/
def State.pickFrames (s : State) (v n : Nat) : Option (List Nat) :=
  let need := s.objFrames v n
  let ls := s.objLeaves v n
  let spans := ((leafPlaces need 0 ls).zip ls).map (fun x => (x.1.2, x.2.2))
  if (s.freeFrames v).length < need then none else takeFrames spans need (need + 1) 0 (s.freeFrames v)

/-- Rewrite the leaves of an object (R373, R374, R429): to its frames, or to its number. -/
def State.mapObj (s : State) (v n : Nat) (frames : List Nat) : State :=
  let mine := s.objLeaves v n
  let s := (leafPlaces frames.length 0 mine).foldl (fun s a =>
    let e := s.rdNat a.1 8
    let rest := e - bits e 51 16 * 2 ^ 16 - bits e 8 8 * 256
    let oa := match frames[a.2]? with | some f => f + 256 | none => n * 65536
    if rest + oa == e then s else s.devWrite a.1 (leBytes 8 (rest + oa)) (SMap.getD s.keyOf 0 (a.1 / 32)) (256 * v) 0) s
  s.tlbDrop (fun e => e.ctx / 256 == v && e.obj == some n)

/-- The queue of an object goes on while it is in no transfer (R213, R376). -/
def State.tierKick : Nat → Nat → Nat → State → State
  | 0, _, _, s => s
  | f + 1, v, n, s =>
    let o := s.obj v n
    match o.queue with
    | [] => s
    | op :: _ =>
      match SMap.get? s.tops op with
      | none => State.tierKick f v n (s.setObj v n { o with queue := o.queue.drop 1 })
      | some t =>
        let go (bits : Nat) (s : State) : State := State.tierKick f v n (s.topDone op v n bits)
        match o.st with
        | .promoting | .demoting => s
        | .low =>
          if t.kind == 0 || t.kind == 2 then
            if s.objLost v n then go 8 s
            else if t.kind == 0 && s.pinFull v o then go 4 s
            else s.startPromote v n
          else if t.kind == 1 then go 0 (s.setObj v n { o with pins := o.pins.filter (fun c => c != t.ctx) })
          else go 0 s
        | .hbm =>
          if t.kind == 0 then
            if o.pins.contains t.ctx then go 0 s
            else if s.pinFull v o then go 4 s
            else go 0 (s.setObj v n { o with pins := o.pins ++ [t.ctx] })
          else if t.kind == 1 then go 0 (s.setObj v n { o with pins := o.pins.filter (fun c => c != t.ctx) })
          else if t.kind == 2 then go 0 s
          else if o.pins.any (fun c => c != t.ctx) then go 2 s
          else if !o.pins.isEmpty then go 0 s
          else s.setObj v n { o with st := .demoting }

/-- 64 KiB pages of a range. -/
def pageOffs (off len : Nat) : List Nat :=
  (List.range ((off % 65536 + len + 65535) / 65536)).map (fun i => off / 65536 * 65536 + 65536 * i)

/-- A `tier` instruction (R213): translations are checked with read access, then the operation queues on each object
that the range overlaps. -/
def actTier (kind : Nat) (x : TierArgs) (gid : Nat) (c : GCtx) (s : State) : Act :=
  match c.consume [(x.a, 2), (x.b, 1)] c.ls with
  | some t => .trap s t
  | none =>
    let off := c.memOff x.a x.ap c.low
    let len := c.data x.b c.low 1
    let ap := c.g.aper x.ap
    let v := c.g.ctx / 256
    let rs := (if len == 0 then [] else pageOffs off.toNat len).map (fun o =>
      let o := if o < off.toNat then off else BitVec.ofNat 64 o
      (o, translate s c.g.core c.g.ctx (vaOf ap o) needR))
    match rs.findSome? (fun r => match r.2 with | .bad cs s2 => some (r.1, cs, s2) | _ => none) with
    | some b => chkFail gid c s 1 (.bad 4 (memTrap b.2.1.toNat ap b.1) b.2.2)
    | none =>
      let objs := (rs.filterMap (fun r => match r.2 with
        | .tier n => some n | .ok e => e.obj | .bad .. => none)).eraseDups
      let d : Option Nat := match x.d with | .s n => some n.val | _ => none
      let op := s.nid
      let s := { s.fresh with tops := SMap.put s.tops op ⟨gid, c.g.ctx, d, kind, objs, 0⟩ }
      let s := s.withG gid (fun g => g.addResults (match d with | some r => [.o op r] | none => []))
      .done (objs.foldl (fun s n =>
        (s.setObj v n { s.obj v n with queue := (s.obj v n).queue ++ [op] }).tierKick 64 v n) s)

def trs (x : TierArgs) : List (Opnd × Nat) := [(x.d, 1), (x.a, 2), (x.b, 1)]

def execTierPin (x : TierArgs) (s : State) : Res := issue (.tierPin x) x.k (trs x) (actTier 0 x) s
def execTierUnpin (x : TierArgs) (s : State) : Res := issue (.tierUnpin x) x.k (trs x) (actTier 1 x) s
def execTierPromoteHint (x : TierArgs) (s : State) : Res := issue (.tierPromoteHint x) x.k (trs x) (actTier 2 x) s
def execTierDemote (x : TierArgs) (s : State) : Res := issue (.tierDemote x) x.k (trs x) (actTier 3 x) s

/-- TIER_STATUS_RETURN (R213): every object is done, and the status word becomes a result. -/
def evTierStatusReturn (op : Nat) (s : State) : State :=
  match SMap.get? s.tops op with
  | none => s
  | some t =>
    if !t.objs.isEmpty then s
    else
      let s := { s with tops := SMap.del s.tops op }
      s.updGroup t.gid (fun g => g.returnStatus op (BitVec.ofNat 32 t.status))

def execTierStatusReturn (op : Nat) (s : State) : Res := .next (evTierStatusReturn op s)

/-- TIER_PROMOTE (R373): an access waits on an object in LOW, and its promotion begins; where its extent is lost no access
waits longer (R375). -/
def evTierPromote (v n : Nat) (s : State) : State :=
  let o := s.obj v n
  if o.st != .low || o.waiters.isEmpty then s
  else if s.objLost v n then (s.setObj v n { o with waiters := [] }).devDrain
  else s.startPromote v n

def execTierPromote (v n : Nat) (s : State) : Res := .next (evTierPromote v n s)

/-- Begin the demotion that a promotion needs, unless one is under way (R373). -/
def State.makeRoom (s : State) (v : Nat) : State :=
  if (s.vd v).objs.any (fun o => o.2.st == .demoting) then s
  else match s.oldestObj v with
    | some n => s.setObj v n { s.obj v n with st := .demoting }
    | none => s

/-- A line lies in a frame. -/
def inFrame (f line : Nat) : Bool := f ≤ 256 * line && 256 * line < f + 65536

/-- What the caches hold of a frame leaves them (R374): another object's bytes are to stand there. -/
def State.dropFrame (s : State) (f : Nat) : State :=
  let out {α : Type} (m : SMap α) : SMap α := m.filter (fun e => !inFrame f e.1)
  { s with
    cores := SMap.mapV (fun (c : Core) => { c with l1 := out c.l1 }) s.cores
    dies := SMap.mapV (fun (d : Die) => { d with
      guest := out d.guest, holders := out d.holders, l2 := out d.l2
      msc := d.msc.filter (fun e => !inFrame f e.2.line) }) s.dies }

/-- The bytes that stores hold in the L1s for a frame go to L2, and what is on its way reaches its home (R374). -/
def State.flushFrame (s : State) (f : Nat) : State :=
  (s.cores.foldl (fun s e => s.l1Flush ⟨e.1, 0, 0, 0, 0, false⟩ e.1 (fun line _ => if inFrame f line then allBytes else 0)) s).settleUpd

/-- A stretch of an engine operation lies in a frame. -/
def segIn (f : Nat) (g : Seg) : Bool := !g.ts && (g.pa < f + 65536 && f < g.pa + g.len)

/-- An access that passed its checks against a frame is not performed yet (R374). -/
def State.frameBusy (s : State) (f : Nat) : Bool :=
  s.dies.any (fun d => d.2.upd.any (fun p => p.home && inFrame f p.line)) ||
  s.aops.any (fun o => (!o.2.ran && o.2.kind.segs.any (segIn f)) || o.2.left.any (fun j => (o.2.mredSegs j).any (segIn f))) ||
  s.clusters.any (fun c => c.2.ops.any (fun o => !o.done && o.kind.segs.any (segIn f))) ||
  s.mod.colls.any (fun c => c.ranks.any (fun r => !c.doneRanks.contains r.rank && (r.send ++ r.recv).any (segIn f)))

/-- Copy an object into frames, under the key of the VD's frames (R432). -/
def State.tierCopyIn (s : State) (v n : Nat) (frames : List Nat) : State :=
  let src := s.objSrc v n
  let key := s.mod.keyTag (s.vd v).inf.skey
  let flash := s.objKind v n == 1
  frames.zipIdx.foldl (fun s f =>
    -- only listed bytes differ from what an unlisted byte reads as
    let cells := if flash
      then (s.flash.filter (fun c => src * 65536 ≤ c.1 && c.1 < src * 65536 + 65536)).map (fun c => (c.1 - src * 65536, c.2))
      else (s.mem.filter (fun c => src + 65536 * f.2 ≤ c.1 && c.1 < src + 65536 * (f.2 + 1))).map
        (fun c => (c.1 - (src + 65536 * f.2), c.2))
    let us := (List.range 2048).map (fun i => f.1 / 32 + i)
    let s := s.dropFrame f.1
    { s with
      mem := cells.foldl (fun m c => Memory.put m (f.1 + c.1) c.2)
        (s.mem.filter (fun c => !(f.1 ≤ c.1 && c.1 < f.1 + 65536)))
      keyOf := us.foldl (fun k u => SMap.set k 0 u key) s.keyOf
      poison := us.zipIdx.foldl (fun p u =>
        SMap.set p false u.1 (!flash && SMap.getD s.poison false ((src + 65536 * f.2) / 32 + u.2))) s.poison }) s

/-- The die that holds a frame moves its bytes, and counts them (R436, log 90). -/
def State.frameDie (s : State) (pa : Nat) : Nat := (stackOf s.mod pa).1 / 2

/-- Write a unit of a frame back to its extent with its poison (R355, R374); a lost extent takes none (R375). -/
def State.writeBack (s : State) (v src : Nat) (frames : List Nat) (u : Nat) : State :=
  match frames.findIdx? (fun f => f ≤ 32 * u && 32 * u < f + 65536) with
  | none => s
  | some i =>
    let at' := src + 65536 * i + 32 * u % 65536
    if s.mod.isLost at' then s
    else
      let r := s.homeRead (32 * u) 32 (s.mod.keyTag (s.vd v).inf.skey)
      let s := (r.1.homeWrite at' r.2.1 0).meter (s.frameDie (32 * u)) v (fun m => { m with bcxl := satAdd m.bcxl 32 })
      if r.2.2 then s.poisonUnits [at' / 32] else s

/-- TIER_FAILURE (R375): a promotion fails. `lost` says that the extent is lost, else that the flash read is
uncorrectable. The object stays LOW; waiting accesses end in Extent Lost or Tier Failure. -/
def evTierFailure (v n : Nat) (lost : Bool) (s : State) : State :=
  let o := s.obj v n
  let o := { o with lost := o.lost || lost }
  if o.st != .promoting then s.setObj v n o
  else
    let s := s.setObj v n { o with st := .low, waiters := [], failed := if lost then [] else o.failed ++ o.waiters }
    let s := o.waiters.foldl (fun s g => match SMap.get? s.groups g with
      | some x => if lost then s else s.stall (x.core / 128) x.ctx 1 true
      | none => s) s
    let s := if lost then s else s.relRec 10 1 0 0 0 n
    let s := match o.queue with
      | op :: _ => s.topDone op v n 8
      | [] => s
    (s.tierKick 64 v n).devDrain

/-- The groups that waited for an extent's promotion: a free value says for which the read was late (R373, R377). -/
def State.lateWaits (s : State) (gs : List Nat) : State :=
  gs.foldl (fun s g => match SMap.get? s.groups g with
    | some x => s.cxlRead (x.core / 128) x.ctx
    | none => s) s

/-- An object promoted for a chain that ended meanwhile is demoted, unless it is pinned (R376). -/
def State.chainLeft (s : State) (v n : Nat) : State :=
  let o := s.obj v n
  if o.st == .hbm && o.chain != 0 && o.pins.isEmpty && !(s.dies.any (fun d => d.2.live v o.chain)) then
    s.setObj v n { o with st := .demoting }
  else s

/-- TIER_PROMOTION_COMPLETE (R373): frames are taken, the object copied, the translation rewritten and the waiting
accesses released; with no frames free the oldest unpinned object is demoted first. An extent that is lost meanwhile ends the
promotion (R375). -/
def evTierPromotionComplete (v n : Nat) (s : State) : State :=
  let o := s.obj v n
  if o.st != .promoting then s
  else if s.objLost v n then evTierFailure v n true s
  else match s.pickFrames v n with
    | none => s.makeRoom v
    | some fs =>
      let flash := s.objKind v n == 1
      let s := s.tierCopyIn v n fs
      let s := s.mapObj v n fs
      let d := s.vd v
      let o' : TObj := { o with st := .hbm, frames := fs, order := d.promoted, waiters := [], wrote := [] }
      let s := s.setVd v { d with promoted := d.promoted + 1, objs := SMap.put d.objs n o' }
      let s := fs.foldl (fun s f => s.meter (s.frameDie f) v (fun m =>
        if flash then { m with bflash := satAdd m.bflash 65536 } else { m with bcxl := satAdd m.bcxl 65536 })) s
      let s := if flash then s else s.lateWaits o.waiters
      let s := match o.queue with
        | op :: _ => s.updTop op (fun t => if t.kind == 0 || t.kind == 2 then { t with status := t.status ||| 1 } else t)
        | [] => s
      ((s.tierKick 64 v n).chainLeft v n).devDrain

def execTierPromotionComplete (v n : Nat) (s : State) : Res := .next (evTierPromotionComplete v n s)

/-- TIER_DEMOTION_COMPLETE (R374): the translation goes back to the lower tier; once every access that passed its checks against
the frames is performed, an extent's units written since promotion are written back, a flash page is dropped, and the
frames freed. A lost extent takes no write-back, and the status reports FAIL (R375). -/
def evTierDemotionComplete (v n : Nat) (s : State) : State :=
  let o := s.obj v n
  if o.st != .demoting then s
  else
    let s := o.frames.foldl State.flushFrame (s.mapObj v n [])
    if o.frames.any s.frameBusy then s.askHost s.heldUpd
    else
      let lost := s.objLost v n
      let s := if s.objKind v n == 1 || lost then s
        else (s.obj v n).wrote.foldl (fun s u => s.writeBack v (s.objSrc v n) o.frames u) s
      let s := o.frames.foldl State.dropFrame s
      let s := s.setObj v n { s.obj v n with st := .low, frames := [], chain := 0, wrote := [] }
      let s := match o.queue with
        | op :: _ => match SMap.get? s.tops op with
          | some t => if t.kind == 3 then s.topDone op v n (if lost then 9 else 1) else s
          | none => s
        | [] => s
      s.tierKick 64 v n

def execTierDemotionComplete (v n : Nat) (s : State) : Res := .next (evTierDemotionComplete v n s)

def execTierFailure (v n : Nat) (lost : Bool) (s : State) : Res := .next (evTierFailure v n lost s)

end Sys2Proof.Machine
end

