-- ==== Sys2Proof/Machine/Fabric.lean ====
section
/-! DEFINITION. The mesh, the host link, the fabric tables, the transport, task packets and the expander (18 R439-R461): one
meaning for each event. -/

namespace Sys2Proof.Machine

-- R439-R441, R473: the mesh

def State.updLink (s : State) (a b : Nat) (f : Link → Link) : State :=
  if meshLink s.mod a b then
    s.updMod (fun m => { m with links := SMap.set m.links Link.init (linkKey a b) (f (SMap.getD m.links Link.init (linkKey a b))) })
  else s

/-- MESH_FLIT_RETRY (R439): the flit is resent; no corrupted flit is delivered. -/
def evMeshFlitRetry (a b : Nat) (s : State) : State := s.updLink a b (fun l => { l with retries := l.retries + 1 })

/-- Packets on a route that loses the link between two dies are delivered, resent where they must, before any sent since
(R441). -/
def State.markOld (s : State) (a b : Nat) : State :=
  let hit (x d : Nat) : Bool := let r := s.mod.route x d; routeCrosses a b x r || routeCrosses b a x r
  { s with dies := s.dies.map (fun e => (e.1, { e.2 with
    upd := e.2.upd.map (fun p => if p.snd != e.1 && hit p.snd e.1 then { p with old := true } else p) })) }

/-- LINK_FAIL (R441): the link is gone in both directions, and the pairs whose route crosses it are routed along the column first;
nothing is lost or duplicated. -/
def evLinkFail (a b : Nat) (s : State) : State :=
  ((s.markOld a b).updLink a b (fun l => { l with failed := true })).updLink b a (fun l => { l with failed := true })

/-- MESH_LANE_SPARE (R473): a spare lane of a direction is switched in, with a record; with none left the link fails (R441). -/
def evMeshLaneSpare (a b : Nat) (s : State) : State :=
  if !meshLink s.mod a b then s
  else if (SMap.getD s.mod.links Link.init (linkKey a b)).spares == 0 then evLinkFail a b s
  else (s.updLink a b (fun l => { l with spares := l.spares - 1, retries := 0 })).relRec 8 2 a b 0 0

/-- UPDATE_APPLY (R289, R440): the update at an index of a die's queue is applied once its clock allows; a write to a line
that a host may hold asks for it first (R444). -/
def evUpdateApply (die idx : Nat) (s : State) : State :=
  match (s.die die).upd[idx]? with
  | none => s
  | some p =>
    if s.canApply die idx p then s.applyUpd die idx
    else if p.home && SMap.getD (s.die die).hostHeld false p.line then s.askHost [p.line]
    else s

/-- GUEST_INVALIDATE (R353): the home invalidates every guest copy of a line, and evicts it. -/
def evGuestInvalidate (die line : Nat) (s : State) : State :=
  (s.guestsOut die line).l2Wb (line * 256) true

def execMeshFlitRetry (a b : Nat) (s : State) : Res := .next (evMeshFlitRetry a b s)
def execLinkFail (a b : Nat) (s : State) : Res := .next (evLinkFail a b s)
def execMeshLaneSpare (a b : Nat) (s : State) : Res := .next (evMeshLaneSpare a b s)
def execUpdateApply (die idx : Nat) (s : State) : Res := .next (evUpdateApply die idx s)
def execGuestInvalidate (die line : Nat) (s : State) : Res := .next (evGuestInvalidate die line s)

-- R442-R446: the host link

/-- HOST_SNOOP (R444): every die gives up its far line, its written bytes first going home. -/
def evHostSnoop (line : Nat) (s : State) : State := s.dies.foldl (fun s e => s.farWb e.1 line true) s

def execHostSnoop (line : Nat) (s : State) : Res := .next (evHostSnoop line s)

/-- Every copy of a line leaves a compute module, written bytes first going home (R457). -/
def State.dropLine (s : State) (line : Nat) : State :=
  let s := (SMap.keys s.cores).foldl (fun s c =>
    (s.l1Flush ⟨c, 0, 0, 0, 0, false⟩ c (fun k _ => if k == line then allBytes else 0)).updCore c (fun x =>
      { x with l1 := SMap.del x.l1 line })) s
  s.dies.foldl (fun s e => s.farWb e.1 line true) s

/-- The die whose snoop filter tracks a line, and its set: 8,388,608 entries in 16 ways (R457); the low bits of the line pick it
(log 89). -/
def snoopKey (line : Nat) : Nat × Nat := (line / 2 ^ 33, line % 524288)

/-- Lines tracked in the set of a line. -/
def Module.snoopSet (m : Module) (line : Nat) : List Nat := (SMap.keys m.snoop).filter (fun l => snoopKey l == snoopKey line)

/-- Holders are asked for a line, once at a time (R457). -/
def State.askHolders (s : State) (line : Nat) (hs : List Nat) : State :=
  if s.mod.backInvs.any (fun b => b.line == line) then s
  else (hs.foldl (fun s _ => s.emit (.backInv line)) s).updMod (fun m => { m with backInvs := m.backInvs ++ [⟨line, hs⟩] })

/-- Room for one more line in the snoop filter; where its set is full, an entry that a free value picks is evicted, once its
holders gave the line up (R457, log 89). -/
def State.snoopRoom (s : State) (line : Nat) : State × Bool :=
  let set := s.mod.snoopSet line
  if (SMap.get? s.mod.snoop line).isSome || set.length < 16 then (s, true)
  else
    let vs := set.filter (fun l => s.mod.backInvs.all (fun b => b.line != l))
    match vs[Config.freeNat s.draws % vs.length]? with
    | none => (s, false)
    | some v =>
      let hs := s.mod.holdersOf v none
      if hs.isEmpty then (s.draw.updMod (fun m => { m with snoop := SMap.del m.snoop v }), true)
      else (s.draw.askHolders v hs, false)

-- CXL.mem requests
def HostReq.pa : HostReq → Nat
  | .read pa .. | .write pa .. | .atomic pa .. => pa
def HostReq.req : HostReq → Nat
  | .read _ _ r | .write _ _ r | .atomic _ _ _ _ r => r
def HostReq.len : HostReq → Nat
  | .read _ n _ => n
  | .write _ d _ => max 1 d.bytes.length
  | .atomic _ opc _ _ _ => atW (atyOf (opc / 16)) / 8
def HostReq.isRead : HostReq → Bool
  | .read .. => true
  | _ => false

/-- An answer without data: poison for a read (R462), nothing done for a write. -/
def State.hostRefuse (s : State) (r : HostReq) : State :=
  match r with
  | .read pa n _ => let f := s.freeBytes n; f.1.emit (.hostData pa f.2 ((unitsOf pa n).map (fun _ => true)))
  | r => s.emit (.hostData (HostReq.pa r) [] [true])

/-- A requester may hold lines from now on (R444, R457, log 123). -/
def State.holdLines (s : State) (d req : Nat) (ls : List Nat) : State :=
  (s.updDie d (fun x => { x with hostHeld := ls.foldl (fun m l => SMap.put m l true) x.hostHeld })).updMod (fun m => { m with
    snoop := ls.foldl (fun k l => SMap.put k l (SMap.getD k 0 l ||| 2 ^ req)) m.snoop })

/-- A write of a requester whose own copies of the lines need not be asked for, with its poison (R460). -/
def State.hostStore (s : State) (d pa : Nat) (x : LineData) : State :=
  let bad := ((unitsOf pa x.bytes.length).filter (fun u => x.psn.testBit (u - pa / 32)))
  (lineCuts (x.bytes.length / 256 + 2) pa x.bytes).foldl (fun s c =>
    let l := c.1 / 256
    let was := SMap.getD (s.die d).hostHeld false l
    let s := (s.updDie d (fun k => { k with hostHeld := SMap.del k.hostHeld l })).devStore d (addrBytes c.1 c.2)
      ⟨coverUnits c.1 c.2.length, bad.filter (fun u => u / 8 == l)⟩ 0 (devAcc d 0 0 0)
    if was then s.updDie d (fun k => { k with hostHeld := SMap.put k.hostHeld l true }) else s) s

/-- A request takes place at its home `d` (R444, R448). -/
def State.hostServe (s : State) (d : Nat) (r : HostReq) : State :=
  match r with
  | .read pa n req =>
    let v := s.homeRead pa n 0
    (v.1.holdLines d req (linesOf pa n)).emit (.hostData pa v.2.1 ((unitsOf pa n).map s.unitP))
  | .write pa x _ => (s.hostStore d pa x).emit (.hostData pa [] [])
  | .atomic pa opc b c _ =>
    let n := (HostReq.len r)
    let v := s.homeRead pa n 0
    let t := if v.2.2 then v.1 else v.1.hostStore d pa ⟨leBytes n (opcNew opc (leNat v.2.1) b.toNat c.toNat), 0⟩
    t.emit (.hostData pa v.2.1 [v.2.2])

/-- Memory of the expander that more than one requester holds: a shared coherent region (R455, R457). -/
def Module.shared (m : Module) (pa : Nat) : Bool :=
  m.expander && 2 ≤ (m.extents.filter (fun e => e.base ≤ pa && pa < e.base + e.size)).length

/-- A request waits for copies or room; requests of its lines wait behind it. -/
def State.hostQueue (s : State) (own : Bool) (r : HostReq) : State :=
  s.updMod (fun m => { m with snoopQ := m.snoopQ ++ [(own, r)] })

/-- A request at its home `d`: room in the snoop filter, then the other holders' copies, stand before it (R444, R457). `own`
grants its requester ownership of the line. -/
def State.hostReq (s : State) (d : Nat) (own : Bool) (r : HostReq) : State :=
  let ls := linesOf (HostReq.pa r) (HostReq.len r)
  let room (s : State) : State × Bool :=
    if own || s.mod.shared (HostReq.pa r) then ls.foldl (fun x l => let y := x.1.snoopRoom l; (y.1, x.2 && y.2)) (s, true) else (s, true)
  if s.mod.snoopQ.any (fun q => (linesOf (HostReq.pa q.2) (HostReq.len q.2)).any ls.contains) then s.hostQueue own r
  else
    let t := room s
    let held := if (HostReq.isRead r) then [] else ls.filter (fun l => !(t.1.mod.holdersOf l (some (HostReq.req r))).isEmpty)
    if !t.2 then t.1.hostQueue own r
    else if !held.isEmpty then
      (held.foldl (fun s l => s.askHolders l (s.mod.holdersOf l (some (HostReq.req r)))) t.1).hostQueue own r
    else if own then
      match r with
      | .write pa x req => (t.1.hostStore d pa x).holdLines d req ls
      | _ => t.1
    else t.1.hostServe d r

/-- HOST_MEM_REQUEST (R444, R448, R462, R466): served at the home, with poison below full function, without HDMDB or where
nothing answers, which writes a record (R345). -/
def evHostMemRequest (r : HostReq) (s : State) : State :=
  if !(s.full && s.mod.featon.testBit 4) then s.hostRefuse r
  else match s.mod.place (HostReq.pa r) with
    | .die d => s.hostReq d false r
    | _ => (s.relRec 12 1 0 0 0 (HostReq.pa r)).hostRefuse r

def execHostMemRequest (r : HostReq) (s : State) : Res := .next (evHostMemRequest r s)

/-- BACK_INVALIDATE (R457): on a compute module a back-invalidation arrives, and is answered once every copy is gone; on
the expander requester `req` writes a line, or is granted it. -/
def evBackInvalidate (line req : Nat) (data : LineData) (s : State) : State :=
  if !s.mod.expander then (s.dropLine line).emit (.backInvResp line)
  else match s.mod.place (line * 256) with
    | .die d => s.hostReq d true (.write (line * 256) data req)
    | _ => s

def execBackInvalidate (line : Nat) (req : Nat) (data : LineData) (s : State) : Res := .next (evBackInvalidate line req data s)

/-- Holders leave the snoop filter's entry of a line; one without holders is gone. -/
def Module.unhold (m : Module) (line : Nat) (hs : List Nat) : Module :=
  let k := hs.foldl (fun k h => if k.testBit h then k - 2 ^ h else k) (SMap.getD m.snoop 0 line)
  { m with snoop := if k == 0 then SMap.del m.snoop line else SMap.put m.snoop line k }

/-- Requests that wait try again, in order. -/
def State.hostRetry (s : State) : State :=
  s.mod.snoopQ.foldl (fun s q => match s.mod.place (HostReq.pa q.2) with
    | .die d => s.hostReq d q.1 q.2
    | _ => s) (s.updMod (fun m => { m with snoopQ := [] }))

/-- Every response to a back-invalidation is in (R444, R457): no copy of those asked stands, and requests that wait try again. -/
def State.backInvEnd (s : State) (b : BackInv) : State :=
  let s := s.updMod (fun m => { m.unhold b.line b.wait with backInvs := m.backInvs.eraseP (fun x => x.line == b.line) })
  let s := match s.mod.place (b.line * 256), SMap.get? s.mod.snoop b.line with
    | .die d, none => s.updDie d (fun x => { x with hostHeld := SMap.del x.hostHeld b.line })
    | _, _ => s
  s.hostRetry

/-- A holder's response, or its loss, which counts as one (R457, R461). -/
def State.backInvResponse (s : State) (b : BackInv) (holder : Nat) : State :=
  let w := b.wait.filter (fun h => h != holder)
  if w.isEmpty then s.backInvEnd b
  else s.updMod (fun m => { m.unhold b.line (b.wait.filter (fun h => h == holder)) with
    backInvs := m.backInvs.map (fun x => if x == b then { x with wait := w } else x) })

/-- BACK_INVALIDATE_RESPONSE (R444, R457): the last response lets the write that waits be applied. -/
def evBackInvalidateResponse (line holder : Nat) (s : State) : State :=
  match s.mod.backInvs.find? (fun b => b.line == line) with
  | none => s
  | some b => s.backInvResponse b holder

def execBackInvalidateResponse (line holder : Nat) (s : State) : Res := .next (evBackInvalidateResponse line holder s)

/-- A free value's choice among numbers. -/
def State.freePick (s : State) (l : List Nat) : State × Nat :=
  (s.draw, (l[Config.freeNat s.draws % l.length]?).getD 0)

/-- CXL_PORT_DOWN and CXL_PORT_UP (R442, R443, R446): the rate and lanes to which a port trains are free values, and so is the PBR
ID that the fabric manager gives it (log 120). -/
def evCxlPortDown (port : Nat) (s : State) : State :=
  s.updMod (fun m => if port < 4 && m.portup.testBit port then
    { m with portup := m.portup - 2 ^ port, ports := SMap.del m.ports port } else m)
def evCxlPortUp (port : Nat) (s : State) : State :=
  if 4 ≤ port || s.mod.portup.testBit port then s
  else
    let r := s.freePick [128, 64, 32]
    let l := r.1.freePick [16, 8]
    let p := l.1.freePick (List.range 4096)
    p.1.updMod (fun m => { m with portup := m.portup + 2 ^ port, ports := SMap.put m.ports port ⟨r.2, l.2, p.2⟩ })

def execCxlPortDown (port : Nat) (s : State) : Res := .next (evCxlPortDown port s)
def execCxlPortUp (port : Nat) (s : State) : Res := .next (evCxlPortUp port s)

-- R445-R451, R459: tables taken into force

/-- Entry `i` of the fabric window table (R447). -/
def State.fwtEntry (s : State) (i : Nat) : Fwt :=
  let a := s.mod.fwtbase + 64 * i
  ⟨s.rdNat a 8, s.rdNat (a + 8) 8, s.rdNat (a + 16) 1, s.rdNat (a + 17) 1, s.rdNat (a + 18) 1,
    (List.range 8).map (fun t => s.rdNat (a + 0x18 + 2 * t) 2 % 4096), []⟩

/-- Entry `h` of the communicator table with its rank table (R449). -/
def State.commEntry (s : State) (h : Nat) : Comm :=
  let a := s.mod.commbase + 16 * h
  let p := s.rdNat (a + 2) 2
  let rt := s.rdNat (a + 8) 8
  ⟨(s.rdNat a 1).testBit 0 && 1 ≤ p && p ≤ 4096, s.rdNat (a + 1) 1, (List.range (min p 4096)).map (fun r =>
    let b := rt + 16 * r
    ⟨s.rdNat b 1, s.rdNat (b + 1) 1, s.rdNat (b + 2) 1, s.rdNat (b + 4) 4 % 2 ^ 20, s.rdNat (b + 8) 4, s.rdNat (b + 12) 1⟩)⟩

/-- Entry `i` of the task acceptance table (R459). -/
def State.taccEntry (s : State) (i : Nat) : TaskAcc :=
  let a := s.mod.taccbase + 256 * i
  ⟨(s.rdNat a 1).testBit 0, s.rdNat (a + 1) 1, s.rdNat (a + 2) 1, s.rdNat (a + 3) 1, s.rdNat (a + 4) 4 % 2 ^ 20,
    s.rdNat (a + 8) 4, s.rdNat (a + 16) 8, Memory.getBytes s.mem (a + 0x20) 97, Memory.getBytes s.mem (a + 0x88) 64⟩

/-- FWTCNT (R445, R447, R461): the table is switched and every loss is clear. -/
def evFwtcntWrite (v : Word) (s : State) : State :=
  if !s.config then s
  else
    let n := min v.toNat 4096
    let t := (List.range n).map s.fwtEntry
    { s.updMod (fun m => { m with fwtcnt := n, fwt := t, lost := [], lostExt := [] }) with
      vds := SMap.mapV (fun (d : Vd) => { d with objs := SMap.mapV (fun (o : TObj) => { o with lost := false }) d.objs }) s.vds }

/-- COMMCNT (R445, R449). A pending collective whose communicator this changes ends with unpredictable bytes (R445). -/
def evCommcntWrite (v : Word) (s : State) : State :=
  if !s.config then s
  else
    let n := min v.toNat 65536
    let t := (List.range n).map s.commEntry
    s.updMod (fun m => { m with commcnt := n, comms := t, colls := m.colls.map (fun c =>
      if m.comms[c.comm]? == t[c.comm]? then c else { c with chg := true }) })

/-- NETCNT (R445, R451). -/
def evNetcntWrite (v : Word) (s : State) : State :=
  if !s.config then s
  else
    let n := min v.toNat 65536
    let t := (List.range n).map (fun i => (⟨Memory.getBytes s.mem (s.mod.netbase + 32 * i) 32⟩ : NetE))
    s.updMod (fun m => { m with netcnt := n, nets := t })

/-- TACCCNT (R445, R459): on the compute module it reads 0 and nothing happens. -/
def evTacccntWrite (v : Word) (s : State) : State :=
  if !s.config || !s.mod.expander then s
  else
    let n := min v.toNat 4096
    let t := (List.range n).map s.taccEntry
    s.updMod (fun m => { m with tacccnt := n, taccs := t })

def execFwtcntWrite (val : Word) (s : State) : Res := .next (evFwtcntWrite val s)
def execCommcntWrite (val : Word) (s : State) : Res := .next (evCommcntWrite val s)
def execNetcntWrite (val : Word) (s : State) : Res := .next (evNetcntWrite val s)
def execTacccntWrite (val : Word) (s : State) : Res := .next (evTacccntWrite val s)

-- R452, R453: the reliable transport

/-- How many packets after `b` the number `a` stands, modulo 2^32; numbers at or above 2^31 stand before. -/
def psnDiff (a b : Nat) : Nat := (a + 2 ^ 32 - b % 2 ^ 32) % 2 ^ 32

/-- Packets that a cumulative acknowledgement covers are retired. -/
def Conn.retire (c : Conn) (ack : Nat) : Conn :=
  let left := c.unacked.filter (fun p => psnDiff ack p.psn == 0 || 2 ^ 31 ≤ psnDiff ack p.psn)
  { c with unacked := left, resends := if left.length < c.unacked.length then 0 else c.resends }

/-- The connection of a received packet, seen from this module. -/
def connOf (m : Module) (p : NetMsg) : Conn := m.conn p.comm p.dst p.src

/-- Bytes written into a message at an offset. -/
def msgPut (l : List Byte) (off : Nat) (bs : List Byte) : List Byte :=
  let l := l ++ List.replicate (off - l.length) 0
  l.take off ++ bs ++ l.drop (off + bs.length)

/-- The payload of a packet joins the message that its sender sends to its receiver in that collective (R450); `bad` are its
units that came poisoned, as a mask. -/
def State.deliver (s : State) (p : NetMsg) (bad : Nat) : State :=
  s.updMod (fun m => m.updColl p.comm p.msg (fun c =>
    let k := p.src * 65536 + p.dst
    let x := SMap.getD c.remote ⟨[], []⟩ k
    let us := ((List.range (p.data.length / 32 + 1)).filter (fun u => bad.testBit u)).map (fun u => p.offset / 32 + u)
    { c with remote := SMap.put c.remote k ⟨msgPut x.bytes p.offset p.data, x.psn ++ us⟩ }))

/-- Both ranks use the CXL path (R450). -/
def cxlPath (m : Module) (p : NetMsg) : Bool :=
  match m.rank? p.comm p.src, m.rank? p.comm p.dst with
  | some a, some b => Rank.cxl a b
  | _, _ => false

/-- A packet of our own on a connection without data: 2 ACK, 3 NACK. -/
def ackPkt (c : Conn) (opc : Nat) : NetMsg := ⟨opc, c.comm, c.src, c.dst, 0, 0, 0, c.expect, []⟩

/-- A received packet of an OPC acts, if its CRC holds (R452, R453). -/
def onPacket (opc : Nat) (q : NetPkt) (f : NetMsg → State → State) (s : State) : State :=
  match NetPkt.msg? q with
  | some p => if p.opc == opc then f p s else s
  | none => s

/-- DATA (R452, R453): applied once, in PSN order; a duplicate is dropped, and a gap is answered by NACK. A message over
the CXL path needs no connection (R450). -/
def State.onData (s : State) (p : NetMsg) (bad : Nat) : State :=
  if cxlPath s.mod p then s.deliver p bad
  else if !s.mod.neten then s
  else
    let c := (connOf s.mod p).retire p.ack
    let d := psnDiff p.psn c.expect
    if d == 0 then
      let c := { c with expect := (c.expect + 1) % 2 ^ 32 }
      ((s.deliver p 0).updMod (fun m => m.setConn c)).netSend c (ackPkt c 2)
    else if d < 2 ^ 31 then (s.updMod (fun m => m.setConn c)).netSend c (ackPkt c 3)
    else (s.updMod (fun m => m.setConn c)).netSend c (ackPkt c 2)

def evData (q : NetPkt) (s : State) : State := onPacket 1 q (fun p s => s.onData p q.psn) s

/-- ACK (R453). -/
def evAck (q : NetPkt) (s : State) : State :=
  onPacket 2 q (fun p s => if !s.mod.neten then s else s.updMod (fun m => m.setConn ((connOf m p).retire p.ack))) s

/-- A connection fails (R453): it is gone, and the pending collectives of its communicator at its rank here complete WDRN. -/
def State.connFail (s : State) (h src dst : Nat) : State :=
  let s := s.updMod (fun m => { m with conns := m.conns.filter (fun c => !c.is h src dst) })
  let s := s.mod.colls.foldl (fun s c =>
    if c.comm != h || c.doneRanks.contains src then s
    else match c.ranks.find? (fun x => x.rank == src) with
      | some x => s.acEnd h c x stWdrn none
      | none => s) s
  s.updMod Module.sweepColls

/-- Packets of a connection are sent again, the oldest first; after 16 resends of one packet the connection fails (R453). -/
def State.resend (s : State) (c : Conn) (ps : List NetMsg) : State :=
  if ps.isEmpty then s.updMod (fun m => m.setConn c)
  else if 16 ≤ c.resends then s.connFail c.comm c.src c.dst
  else
    let c := { c with resends := c.resends + 1 }
    ps.foldl (fun s p => s.netSend c p) (s.updMod (fun m => m.setConn c))

/-- NACK (R453): the sender resends from the gap. -/
def evNack (q : NetPkt) (s : State) : State :=
  onPacket 3 q (fun p s =>
    if !s.mod.neten then s
    else
      let c := (connOf s.mod p).retire p.ack
      s.resend c c.unacked) s

/-- ABORT (R453). -/
def evAbort (q : NetPkt) (s : State) : State :=
  onPacket 4 q (fun p s => if !s.mod.neten then s else s.connFail p.comm p.dst p.src) s

/-- RESEND_TIMEOUT (R453): the oldest packet is resent. -/
def evResendTimeout (h src dst : Nat) (s : State) : State :=
  let c := s.mod.conn h src dst
  if c.unacked.isEmpty then s else s.resend c (c.unacked.take 1)

def execData (p : NetPkt) (s : State) : Res := .next (evData p s)
def execAck (p : NetPkt) (s : State) : Res := .next (evAck p s)
def execNack (p : NetPkt) (s : State) : Res := .next (evNack p s)
def execAbort (p : NetPkt) (s : State) : Res := .next (evAbort p s)
def execResendTimeout (comm src dst : Nat) (s : State) : Res := .next (evResendTimeout comm src dst s)

-- R461: containment

/-- Ranks whose data for another module travels over CXL lose a peer with a target, or not: the tables tie no rank to a target, so a
free value picks (R453, R461, log 64). -/
def State.cutOff (s : State) : State :=
  let cxl (h r : Nat) : Bool := ((s.mod.comm? h).bind (fun cm => cm.ranks[r]?)).elim false (fun q => q.path == 1)
  let peer (h : Nat) : Option Nat := (s.mod.comm? h).bind (fun cm =>
    (cm.ranks.zipIdx.find? (fun q => !Rank.here s.mod q.1 && q.1.path == 1)).map (fun q => q.2))
  s.mod.colls.foldl (fun s c => c.ranks.foldl (fun s x =>
    match peer c.comm with
    | some q =>
      if !cxl c.comm x.rank || c.doneRanks.contains x.rank then s
      else if (Config.freeNat s.draws).testBit 0 then s.draw.connFail c.comm x.rank q else s.draw
    | none => s) s) s

/-- Lines of the filter that no requester holds any more: all were lost (R457, R461). -/
def State.forgetLost (s : State) : State :=
  (SMap.keys s.mod.snoop).foldl (fun s l =>
    if !(s.mod.holdersOf l none).isEmpty then s
    else
      let s := s.updMod (fun m => { m with snoop := SMap.del m.snoop l })
      match s.mod.place (l * 256) with
      | .die d => s.updDie d (fun x => { x with hostHeld := SMap.del x.hostHeld l })
      | _ => s) s

/-- An address lies in an extent. -/
def inExt (e : Nat × Nat) (pa : Nat) : Bool := e.1 ≤ pa && pa < e.1 + e.2

/-- On the expander an extent is taken from a holder that did not release it (R455): what it holds of it is gone. -/
def State.takeExtent (s : State) (holder : Nat) (e : Nat × Nat) : State :=
  let s := s.updMod (fun m => { m with
    extents := m.extents.filter (fun x => !(x.base == e.1 && x.holder == holder)) })
  let s := s.mod.backInvs.foldl (fun s b =>
    if b.wait.contains holder && inExt e (256 * b.line) then s.backInvResponse b holder else s) s
  (SMap.keys s.mod.snoop).foldl (fun s l =>
    if inExt e (256 * l) && (s.mod.holdersOf l none).contains holder then
      s.updMod (fun m => { m with snoop := SMap.put m.snoop l (SMap.getD m.snoop 0 l - 2 ^ holder) })
    else s) s

/-- TARGET_LOST (R461): the ranges of a target, or one extent, are lost; far lines there are dropped with their written
bytes, a lost requester counts as having responded (R457), and tier objects there fail (R375). On the expander an extent is lost
for its holder (R455). -/
def evTargetLost (target : Nat) (ext : Option (Nat × Nat)) (s : State) : State :=
  match ext, s.mod.expander with
  | some e, true => ((s.takeExtent target e).forgetLost).relRec 9 1 0 0 0 e.1
  | _, _ =>
    let s := s.updMod (fun m => match ext with
      | none => { m with lost := if m.lost.contains target then m.lost else m.lost ++ [target] }
      | some e => { m with lostExt := m.lostExt ++ [e] })
    let s := s.relRec 9 1 0 0 0 (ext.elim target (fun e => e.1))
    let s := if ext.isNone then s.cutOff else s
    let s := { s with dies := SMap.mapV (fun (d : Die) => { d with
      far := d.far.filter (fun l => !s.mod.isLost (l.1 * 256)), guest := d.guest.filter (fun l => !s.mod.isLost (l.1 * 256)) }) s.dies }
    let s := s.mod.backInvs.foldl (fun s b => if b.wait.contains target then s.backInvResponse b target else s) s
    let s := s.forgetLost
    s.vds.foldl (fun s v => v.2.objs.foldl (fun s o => if s.objLost v.1 o.1 then evTierFailure v.1 o.1 true s else s) s) s

def execTargetLost (target : Nat) (ext : Option (Nat × Nat)) (s : State) : Res := .next (evTargetLost target ext s)

-- R458, R459: task packets

/-- The key of a task slot: of a VD on a die in a task window, 64 slots to a window (R458, log 121). -/
def taskKey (vd die slot : Nat) : Nat := ((slot / 64 * 256 + vd) * 16 + die % 16) * 65 + slot % 64

/-- The target of a slot: that of its place in the window (R447, R458). -/
def Module.taskTarget (m : Module) (slot : Nat) : Nat :=
  match m.fwt[slot / 64]? with
  | some f => f.targets.getD (1024 * (slot % 64) / (fwtGran f.gran).getD 256 % f.ways) 0
  | none => 0

/-- DOORBELL (R458). -/
def evDoorbell (vd die slot : Nat) (s : State) : State := s.ringBell (taskKey vd die slot)

/-- TASK_SIGNED (R458): the trailer, SEQ and both signatures; the packet leaves and the slot reads SENT. -/
def evTaskSigned (vd die slot : Nat) (s : State) : State :=
  let k := taskKey vd die slot
  let t := SMap.getD s.mod.tasks TaskSlot.init k
  let set (s : State) (st : TaskSt) : State := s.updMod (fun m => { m with tasks := SMap.put m.tasks k { t with st := st } })
  if t.st != .signing then s
  else
    let r := s.signBoth die
    match r.2 with
    | none => set r.1 .badbody
    | some sg =>
      let d := r.1.die die
      let out := t.body ++ leBytes 1 s.mod.modid ++ leBytes 1 (s.mod.dieReg die) ++ [0, 0] ++ leBytes 4 s.mod.resets ++
        leBytes 8 d.taskSeq ++ sg
      set ((r.1.setDie die { d with taskSeq := d.taskSeq + 1 }).emit
        (.task die (s.mod.taskTarget slot) (s.mod.portOf die) out)) .sent

/-- TASK_ACK (R458). -/
def evTaskAck (vd die slot : Nat) (s : State) : State :=
  let k := taskKey vd die slot
  let t := SMap.getD s.mod.tasks TaskSlot.init k
  if t.st == .sent then s.updMod (fun m => { m with tasks := SMap.put m.tasks k { t with st := .free } }) else s

def execDoorbell (vd die slot : Nat) (s : State) : Res := .next (evDoorbell vd die slot s)
def execTaskSigned (vd die slot : Nat) (s : State) : Res := .next (evTaskSigned vd die slot s)
def execTaskAck (vd die slot : Nat) (s : State) : Res := .next (evTaskAck vd die slot s)

/-- The die whose dispatcher takes task packets, which the spec does not name (log 34). -/
def taskDie : Nat := 0

/-- A task packet enters the dispatcher as a LAUNCH of its context (R459), in the queue of its entry; with false where it waits for
a tier object (R373). -/
def State.taskTry (s : State) (q : TaskIn) : State × Bool :=
  let w : NotifyWr := ⟨q.xvd, 0, true, some q.pasid, [1] ++ List.replicate 63 0⟩
  let wait (s : State) (o : Nat) : State × Bool := (s.awaitTier q.xvd o, false)
  match s.ctTier q.xvd with
  | some o => wait s o
  | none => match s.ctxOf q.xvd q.pasid with
    | (s, none) => (s.refusePkt q.xvd rsPasid w, true)
    | (s, some ctx) => match s.acceptLaunch ctx taskDie (2 ^ 32 + q.entry) 0 0 0 q.body false none none 0 with
      | .full => ((s.refusePkt q.xvd rsQuota w).count taskDie ctx (fun c => { c with refusals := State.ctr64 (c.refusals + 1) }), true)
      | .wait o => wait s o
      | .ok s g => (evGridComplete g s, true)

/-- Task packets enter the dispatcher; behind one that waits, those of its entry wait too. -/
def State.taskDrain (s : State) : State :=
  s.mod.taskQ.foldl (fun s q =>
    let keep (s : State) : State := s.updMod (fun m => { m with taskQ := m.taskQ ++ [q] })
    if s.mod.taskQ.any (fun x => x.entry == q.entry) then keep s
    else
      let r := s.taskTry q
      if r.2 then r.1 else keep r.1) (s.updMod (fun m => { m with taskQ := [] }))

/-- The fault record of a packet that fails a check (R308 KIND 3, R459). -/
def State.taskRefuse (s : State) (v modid die seq : Nat) : State :=
  s.fqPost v (faultRecord 0x12 3 0xFFFF 0 (s.mod.dieReg taskDie) 0xFF v 0
    (BitVec.ofNat 64 (modid * 2 ^ 56 + die * 2 ^ 48 + seq % 2 ^ 48)) 0 0)

/-- An entry accepts a packet (R459): it matches, both signatures verify under its keys, and the packet is later than its last.
-/
def TaskAcc.takes (e : TaskAcc) (b ecdsa lms : List Byte) : Bool :=
  e.valid && e.modid == fld b 0x140 1 && e.die == fld b 0x141 1 && e.xvd == fld b 8 1 && e.xpasid == fld b 0x0C 4 % 2 ^ 20 &&
    Config.sigOk 0 e.epub b ecdsa && Config.sigOk 1 (e.lpub.take 56) b lms &&
    (e.lastrst < fld b 0x144 4 || (e.lastrst == fld b 0x144 4 && e.lastseq < fld b 0x148 8))

/-- TASK_PACKET (R458, R459): on the expander, with XTASK (R466): bytes 0x000 to 0x14F and both signatures. Its receipt is
acknowledged; then it is accepted by an entry or runs nothing. -/
def evTaskPacket (b ecdsa lms : List Byte) (s : State) : State :=
  if !s.mod.expander || !s.full || !s.mod.featon.testBit 5 then s
  else
    let modid := fld b 0x140 1
    let die := fld b 0x141 1
    let rst := fld b 0x144 4
    let seq := fld b 0x148 8
    let xvd := fld b 8 1
    let s := s.emit (.taskAck modid die seq)
    match s.mod.taccs.findIdx? (fun e => e.takes b ecdsa lms) with
    | some i =>
      let s := s.updMod (fun m => { m with taccs := updAt m.taccs i (fun e => { e with lastrst := rst, lastseq := seq }) })
      let a := s.mod.taccbase + 256 * i
      let s := (s.sysWrite (a + 8) (leBytes 4 rst) 0).sysWrite (a + 16) (leBytes 8 seq) 0
      (s.updMod (fun m => { m with taskQ := m.taskQ ++ [⟨i, xvd, fld b 0x0C 4 % 2 ^ 20, (b.drop 0x40).take 256⟩] })).taskDrain
    | none => s.taskRefuse (if s.mod.taccs.any (fun e => e.valid && e.xvd == xvd) then xvd else 0) modid die seq
def execTaskPacket (bytes : List Byte) (ecdsa lms : List Byte) (s : State) : Res := .next (evTaskPacket bytes ecdsa lms s)

-- R455, R456: extents

/-- An extent with a tag. -/
def Extent.is (e : Extent) (base size tag : Nat) : Bool := e.base == base && e.size == size && e.tag == tag

/-- EXTENT_GRANT (R455, R456): the extent is erased under a fresh key and granted under a new tag; a further holder of the tag
shares what it holds. -/
def evExtentGrant (base size tag holder : Nat) (s : State) : State :=
  let g := 2 ^ 28
  let bad := !s.mod.expander || size == 0 || base % g != 0 || size % g != 0 ||
    s.mod.extents.any (fun e => overlap e.base e.size base size && (!e.is base size tag || e.holder == holder))
  let hit (a : Nat) : Bool := base ≤ a && a < base + size
  if bad then s
  else match s.mod.extents.find? (fun e => e.is base size tag) with
  | some e => s.updMod (fun m => { m with extents := m.extents ++ [{ e with holder := holder }] })
  | none =>
    let s := { s.fresh with
      mem := s.mem.filter (fun c => !hit c.1), poison := s.poison.filter (fun u => !hit (32 * u.1))
      keyOf := s.keyOf.filter (fun u => !hit (32 * u.1))
      -- no write on its way, and no copy, reaches the new contents
      cores := SMap.mapV (fun (c : Core) => { c with l1 := c.l1.filter (fun l => !hit (256 * l.1)) }) s.cores
      dies := SMap.mapV (fun (d : Die) => { d with
        upd := d.upd.filter (fun p => !hit (256 * p.line)), hostHeld := d.hostHeld.filter (fun l => !hit (256 * l.1))
        guest := d.guest.filter (fun l => !hit (256 * l.1)), l2 := d.l2.filter (fun l => !hit (256 * l.1))
        msc := d.msc.filter (fun l => !hit (256 * l.2.line)) }) s.dies }
    s.updMod (fun m => { m with
      extents := m.extents ++ [⟨base, size, tag, holder, s.nid⟩], snoop := m.snoop.filter (fun l => !hit (256 * l.1)) })

/-- EXTENT_RELEASE (R455): a holder releases the extent. -/
def evExtentRelease (r : ExtHold) (s : State) : State :=
  s.updMod (fun m => { m with extents := m.extents.filter (fun e => !(e.base == r.base && e.holder == r.holder)) })

def execExtentGrant (base size : Nat) (tag holder : Nat) (s : State) : Res := .next (evExtentGrant base size tag holder s)
def execExtentRelease (base : ExtHold) (s : State) : Res := .next (evExtentRelease base s)

end Sys2Proof.Machine
end

