-- ==== Sys2Proof/Machine/Firmware.lean ====
section
/-! DEFINITION. Start-up, the leader, attestation, the reliability log, repair, power and cooling (19 R462-R474, 20
R476-R481, 11 R312): one meaning for each event. -/

namespace Sys2Proof.Machine

/-- Change every die of the module. -/
def State.allDies (s : State) (f : Nat → Die → Die) : State :=
  (List.range s.mod.dies).foldl (fun s d => s.updDie d (f d)) s

-- R462, R463: start-up

/-- A copy whose signatures verify and whose digest matches. -/
def FwCopy.sound (c : FwCopy) : Bool := c.digest && c.ecdsa && c.lms

/-- The copy that a die accepts (R463): A first, then B. -/
def fwPick (m : Module) (svnMin : Nat) : Option Bool :=
  if FwCopy.sound m.copyA && svnMin ≤ m.copyA.svn then some false
  else if FwCopy.sound m.copyB && svnMin ≤ m.copyB.svn then some true
  else none

/-- What the dies come to: the copy that all accept, or the reason of FAIL. -/
def State.verify (s : State) : Except Nat Bool :=
  let ps := (List.range s.mod.dies).map (fun d => fwPick s.mod (s.die d).svnMin)
  if ps.all (fun p => p == some false) then .ok false
  else if ps.all (fun p => p == some true) then .ok true
  else if ps.any (fun p => p == none) && (FwCopy.sound s.mod.copyA || FwCopy.sound s.mod.copyB) then .error 2
  else .error 1

/-- The module fails with a reason (R462, R464). -/
def State.failed (s : State) (why : Nat) : State :=
  (s.allDies (fun _ d => { d with stage := 15 })).updMod (fun m => { m with fail := why })

/-- A die after a cold reset: what flash and fuses keep (R437, R463, R469); a reserved block of leaves is not used again. -/
def Die.cold (d : Die) : Die :=
  { Die.init with svnMin := d.svnMin, lmsLeaf := d.lmsTop, lmsTop := d.lmsTop, temp := d.temp }

/-- A cold reset: everything but what flash, fuses and the model's own schedule keep. -/
def State.cold (s : State) : State :=
  { State.reset with
    clk := s.clk, agenda := s.agenda, nid := s.nid, draws := s.draws, flash := s.flash
    dies := SMap.mapV Die.cold s.dies
    mod := { Module.init with
      expander := s.mod.expander, resets := s.mod.resets + 1, seq := s.mod.seq, repFlash := s.mod.repFlash, copyA := s.mod.copyA, copyB := s.mod.copyB
      trip := s.mod.trip } }

/-- POWER_ON (R437, R462, R463): a cold reset, the ROM stage and the check of the firmware. -/
def evPowerOn (s : State) : State :=
  let s := s.cold
  match s.verify with
  | .ok _ => s.allDies (fun _ d => { d with stage := 2 })
  | .error why => s.failed why

def execPowerOn (s : State) : Res := .next (evPowerOn s)

/-- TRAINING_COMPLETE (R462, R467): once every die has trained, die 0, which claims first, leads term 1, and the module
enters Negotiate. -/
def evTrainingComplete (die : Nat) (ok : Bool) (s : State) : State :=
  if s.stage != 2 || s.mod.dies ≤ die then s
  else if !ok then s.failed 3
  else
    let s := s.updDie die (fun d => { d with trained := true })
    if (List.range s.mod.dies).all (fun d => (s.die d).trained) then
      (s.allDies (fun k d => { d with
        stage := 3, term := 1, claimSeen := 1, lapsed := false, leaderOf := if k == 0 then some 1 else none })).updMod
        (fun m => { m with leader := 0 })
    else s

def execTrainingComplete (die : Nat) (ok : Bool) (s : State) : Res := .next (evTrainingComplete die ok s)

/-- NEG (R465). -/
def evNeg (s : State) : State :=
  if s.stage != 3 then s
  else
    let on := s.mod.featoff &&& s.mod.featsel
    let s := s.updMod (fun m => { m with featon := on, fail := if on.testBit 0 then 0 else 4 })
    if on.testBit 0 then s.allDies (fun _ d => { d with stage := 4 }) else s

def execNeg (s : State) : Res := .next (evNeg s)

/-- RECOVERY_IMAGE (R463): in stage 0xF the management endpoint stores a copy: B when `which` is true, else A. -/
def evRecoveryImage (img : FwCopy) (which : Bool) (s : State) : State :=
  if s.stage != 15 then s
  else s.updMod (fun m => if which then { m with copyB := img } else { m with copyA := img })

def execRecoveryImage (img : FwCopy) (which : Bool) (s : State) : Res := .next (evRecoveryImage img which s)

/-- SVN_RAISE (R463): the fused minimum rises to the SVN of the copy that the dies accepted. -/
def evSvnRaise (die : Nat) (s : State) : State :=
  if !s.config || s.mod.dies ≤ die then s
  else match s.verify with
    | .ok b => s.updDie die (fun d => { d with svnMin := max d.svnMin (if b then s.mod.copyB.svn else s.mod.copyA.svn) })
    | .error _ => s

def execSvnRaise (die : Nat) (s : State) : Res := .next (evSvnRaise die s)

/-- RLBASE (R464, R471): the records that the dies kept are written to the log. -/
def evRlbaseWrite (v : DWord) (s : State) : State :=
  if !s.config then s
  else
    let s := s.updMod (fun m => { m with rlbase := v.toNat / 4096 * 4096 })
    if s.mod.rlbase == 0 then s
    else (List.range s.mod.dies).foldl (fun s d =>
      ((s.die d).relBuf.foldl (fun s r => s.relWrite r) (s.updDie d (fun x => { x with relOpen := [] }))).updDie d
        (fun x => { x with relBuf := [] })) s

def execRlbaseWrite (val : DWord) (s : State) : Res := .next (evRlbaseWrite val s)

-- R467: the leader

/-- Dies that the mesh reaches from a set of dies in one more hop. -/
def meshStep (m : Module) (ds : List Nat) : List Nat :=
  (List.range m.dies).filter (fun d => ds.contains d || ds.any (fun k =>
    meshLink m d k && !m.linkDown d k))

def meshClose (m : Module) : Nat → List Nat → List Nat
  | 0, ds => ds
  | n + 1, ds => meshClose m n (meshStep m ds)

/-- Dies that a die reaches (R467). -/
def Module.reach (m : Module) (d : Nat) : List Nat := meshClose m 16 [d]

/-- A message goes to every other die reached: it arrives as a later event of the schedule. -/
def State.broadcast (s : State) (d : Nat) (msg : Nat → Instr) : State :=
  { s with agenda := s.agenda ++ ((s.mod.reach d).filter (fun k => k != d)).map (fun k => Move.event (msg k)) }

/-- RENEW (R467). -/
def evRenew (die : Nat) (s : State) : State :=
  match (s.die die).leaderOf with
  | some t => s.broadcast die (fun k => .renewReceive k t)
  | none => s

/-- RENEW_RECEIVE (R467): a follower's lease starts again. -/
def evRenewReceive (die term : Nat) (s : State) : State :=
  s.updDie die (fun d =>
    if term < d.term || (d.leaderOf.isSome && term ≤ d.term) then d
    else { d with term := term, lapsed := false, granted := none, grants := [], claimSeen := max d.claimSeen term
                  leaderOf := none, claimed := false })

/-- LEASE_LAPSE (R467). -/
def evLeaseLapse (die : Nat) (s : State) : State :=
  s.updDie die (fun d => if d.leaderOf.isSome then d else { d with lapsed := true })

/-- A die becomes leader of a term, and sends RENEW at once (R467); the change is a repair, with a record (R473). -/
def State.lead (s : State) (die term : Nat) : State :=
  (evRenew die ((s.updDie die (fun d => { d with
    term := term, leaderOf := some term, lapsed := false, granted := none, grants := [], claimed := false })).updMod
    (fun m => { m with leader := die }))).relRec 13 2 die 0 0 0

/-- A claimant that every reachable die grants leads. -/
def State.tryLead (s : State) (die term : Nat) : State :=
  if (s.mod.reach die).all (fun k => (s.die die).grants.contains k) then s.lead die term else s

/-- CLAIM (R467): a follower whose lease has lapsed, and that has seen no CLAIM of a higher term, claims the next term. A refused
claimant claims it again. -/
def evClaim (die : Nat) (s : State) : State :=
  let d := s.die die
  let t := d.term + 1
  if !d.lapsed || d.leaderOf.isSome then s
  else if d.claimed then (s.broadcast die (fun k => .claimReceive k die t)).tryLead die t
  else if d.term < d.claimSeen then s
  else
    let s := s.setDie die { d with claimSeen := t, claimed := true, grants := [die], granted := some (t, die) }
    (s.broadcast die (fun k => .claimReceive k die t)).tryLead die t

/-- CLAIM_RECEIVE (R467): a die whose lease has lapsed grants the lowest-numbered claimant of the highest term seen. A
grant moves to a lower number, so a die stands behind one claimant. -/
def evClaimReceive (die src term : Nat) (s : State) : State :=
  let d := s.die die
  let better := match d.granted with
    | none => true
    | some (t, c) => t < term || (t == term && src < c)
  let s := s.setDie die { d with claimSeen := max d.claimSeen term }
  if !d.lapsed || term ≤ d.term || term < d.claimSeen || !better then s
  else
    let s := match d.granted with
      | some (_, c) => s.updDie c (fun x => { x with grants := x.grants.filter (fun k => k != die) })
      | none => s
    let s := s.updDie die (fun x => { x with granted := some (term, src) })
    (s.updDie src (fun x => if x.granted == some (term, src) || x.claimSeen == term then
      { x with grants := x.grants.filter (fun k => k != die) ++ [die] } else x)).tryLead src term

/-- LEADER_LEASE_END (R467): the leader acts for the module no more. -/
def evLeaderLeaseEnd (die : Nat) (s : State) : State := s.leaseEnd die

def execRenew (die : Nat) (s : State) : Res := .next (evRenew die s)
def execRenewReceive (die term : Nat) (s : State) : Res := .next (evRenewReceive die term s)
def execLeaseLapse (die : Nat) (s : State) : Res := .next (evLeaseLapse die s)
def execClaim (die : Nat) (s : State) : Res := .next (evClaim die s)
def execClaimReceive (die src term : Nat) (s : State) : Res := .next (evClaimReceive die src term s)
def execLeaderLeaseEnd (die : Nat) (s : State) : Res := .next (evLeaderLeaseEnd die s)

-- R472: viral

/-- VIRAL (R472): every context stops without saving, and only a cold reset leads out. -/
def evViral (die : Nat) (s : State) : State :=
  ((s.updMod (fun m => { m with viral := true })).emit .viral).relRec 11 4 die 0 0 0

def execViral (die : Nat) (s : State) : Res := .next (evViral die s)

-- R473, R474: repair

/-- The teams of a cluster, as a partial cut would hold them. -/
def State.clusterSeats (s : State) (cl : Nat) : List (Nat × Seat) :=
  (s.teams.filter (fun e => e.2.core / 4 == cl && !s.inShadow e.1 e.2)).filterMap (fun e =>
    let gs := s.groupsOf e.1
    let objs := gs.map (fun g =>
      let o := s.cutObject g.2 0
      (⟨g.2.slot, 0, parseHdr (o.take 0x80), o.drop 0x80⟩ : ImgObj))
    let xyz := match gs with | g :: _ => (g.2.id.teamX, g.2.id.teamY, g.2.id.teamZ) | [] => (0, 0, 0)
    (SMap.get? s.grids e.2.grid).bind (fun k =>
      (mkSeat ⟨s.segment e.2 gs, 0, xyz, objs⟩ e.2.grid k).map (fun x => (e.1, x))))

/-- The ranges that a cluster or its cores hold are nobody's (R401, R473). -/
def State.freeRanges (s : State) (cl : Nat) : State :=
  { s with grids := SMap.mapV (fun (g : Grid) =>
      { g with parts := g.parts.map (fun (p : Part) =>
          { p with ranges := p.ranges.map (fun (r : Range) =>
              if (r.holder.map (fun h => if g.desc.n == 1 then h / 4 else h)) == some cl then { r with holder := none }
              else r) }) }) s.grids }

/-- Replace the easel, TLB and loupe of a cluster: a spare serves its logical number (R40, R473), or it is retired. -/
def State.swapCluster (s : State) (cl : Nat) (spare : Option Nat) : State :=
  let s := s.updCluster cl (fun c => { c with
    tlb := [], corr := [], phys := spare.getD c.phys, retired := spare.isNone })
  if spare.isNone then s.freeRanges cl else s

/-- Co-resident grids that their dies without a cluster could not hold even when idle are refused with CORES, and what of them
runs ends (R406, R473). -/
def State.refuseUnfit (s : State) (cl : Nat) : State :=
  let r := (s.swapCluster cl none).idle
  (s.grids.filter (fun e => e.2.desc.cores && !e.2.posted && e.2.refused.isNone && e.2.named.contains (cl / 32) &&
    !s.gridOver e.1 e.2 && (r.seatWhole e.1 e.2.whole).isNone)).foldl (fun s e =>
      (((s.updGrid e.1 (fun g => { g with refused := some rsCores, placing := false })).stopDispatch e.1).cutGrid e.1 false).count
        e.2.recv e.2.ctx (fun c => { c with refusals := State.ctr64 (c.refusals + 1) })) s

/-- CLUSTER_REPAIR (R320, R473, R474): the teams of the cluster are cut, the cluster mapped to a spare or retired, and the
teams restored. It waits while a cut of a context there is under way, and, on a cluster that retires, for room. -/
def evClusterRepair (die k : Nat) (s : State) : State :=
  let cl := die * 32 + k
  if 32 ≤ k || s.mod.dies ≤ die || (s.cluster cl).retired then s
  else
    let ctxs := ((s.groups.filter (fun g => g.2.core / 4 == cl)).map (fun g => g.2.ctx)).eraseDups
    if ctxs.any (fun x => (s.cutOf x).isSome) then s
    else
      let gs := s.groups.filter (fun g => g.2.core / 4 == cl)
      let d := ctxs.foldl (fun d x => d.cutDrain ((gs.filter (fun g => g.2.ctx == x)).map (fun g => g.1)) x cl)
        (s.withdrawWaits (gs.map (fun g => g.1)))
      if !d.quiet || gs.any (fun g => g.2.wait == .ccpy || !g.2.owed.isEmpty) || ctxs.any (fun x => d.cutBusy x cl) then s
      else
        let h := gs.foldl (fun s e => match SMap.get? s.groups e.1 with | some g => s.lanesHome e.1 g | none => s) d
        let h := h.unshadow (fun t => t.core / 4 == cl)
        let spares := (h.die die).spareCl
        let h := if 0 < spares then h else h.refuseUnfit cl
        let xs := h.clusterSeats cl
        let out := xs.foldl (fun s x => s.unloadTeam x.1) h
        let out := out.swapCluster cl (if 0 < spares then some (32 + 2 - spares) else none)
        match State.placeBlocks (blocksOf (xs.map (fun x => x.2))) out with
        | none => s
        | some (p, ts) =>
          let live (x : Seat) : Seat := match SMap.get? p.grids x.gi with | some g => { x with grid := g } | none => x
          let ts := ts.map (fun x => (x.1, live x.2))
          let p := p.fuseCores (ts.map (fun x => x.1))
          let p := ts.foldl (fun s x => s.loadSegment x.1 x.2) p
          let p := ts.foldl (fun s x => s.loadObjects x.1 x.2) p
          let p := ts.foldl (fun s x => s.unsave x.2) p
          (p.updDie die (fun x => { x with spareCl := x.spareCl - 1 })).relRec 2 (if 0 < spares then 2 else 3) die k 0 0

def execClusterRepair (die cl : Nat) (s : State) : Res := .next (evClusterRepair die cl s)

/-- Spares of a bank. -/
def Stack.rowsLeft (k : Stack) (bank : Nat) : Nat := SMap.getD k.spareRows 32 bank

/-- ROW_REPAIR (R473): a row with 16 corrected errors goes to a spare, whose counter starts at 0; its contents stay. -/
def evRowRepair (die stack bank row : Nat) (s : State) : State :=
  let i := stackIdx die stack
  let k := s.stack i
  let r := rowKey (bank, row)
  if SMap.getD k.rowCorr 0 r < 16 || k.rowsLeft bank == 0 then s
  else (s.setStack i { k with
    rowMap := SMap.put k.rowMap r (33 - k.rowsLeft bank), spareRows := SMap.put k.spareRows bank (k.rowsLeft bank - 1)
    rowCorr := SMap.del k.rowCorr r, rowBad := k.rowBad.filter (fun x => x != r), cnt := SMap.del k.cnt r
    openRow := if SMap.get? k.openRow bank == some row then SMap.del k.openRow bank else k.openRow }).relRec 7 2 die (stack % 2) 0 r

def execRowRepair (die stack bank row : Nat) (s : State) : Res := .next (evRowRepair die stack bank row s)

/-- The pseudo-channel of a row, numbered as banks are. -/
def rowPc (row : Nat) : Nat := row / 8192 / 16

/-- PSEUDO_CHANNEL_REPAIR (R473): a pseudo-channel in which two rows had uncorrectable errors goes to a spare; requests keep their
order. -/
def evPseudoChannelRepair (die stack pc : Nat) (s : State) : State :=
  let i := stackIdx die stack
  let k := s.stack i
  if k.sparePcs == 0 || (k.rowBad.filter (fun r => rowPc r == pc)).length < 2 then s
  else (s.setStack i { k with
    pcMap := SMap.put k.pcMap pc (3 - k.sparePcs), sparePcs := k.sparePcs - 1
    cnt := k.cnt.filter (fun e => rowPc e.1 != pc), rowCorr := k.rowCorr.filter (fun e => rowPc e.1 != pc)
    rowBad := k.rowBad.filter (fun r => rowPc r != pc)
    openRow := k.openRow.filter (fun e => e.1 / 16 != pc) }).relRec 7 2 die (stack % 2) 0 pc

def execPseudoChannelRepair (die stack pc : Nat) (s : State) : Res := .next (evPseudoChannelRepair die stack pc s)

/-- DATA_RATE_CHANGE (R312): DEFERRED while a save streams to the stack. -/
def evDataRateChange (die stack : Nat) (s : State) : State :=
  s.emit (.rate die (stack % 2) (s.streamsTo (stackIdx die stack)))

def execDataRateChange (die stack : Nat) (s : State) : Res := .next (evDataRateChange die stack s)

-- R470: attestation

/-- An answer, with the leader's ECDSA signature after its bytes (R470); with no leader there is none. -/
def State.spdm (s : State) (kind : Nat) (bytes : List Byte) : State :=
  match s.leading with
  | none => s
  | some _ => let f := s.freeBytes 96
    f.1.emit (.spdm kind (bytes ++ f.2))

/-- GET_CERTIFICATE: the certificate chain is not in the spec (log 12). -/
def evGetCertificate (slot : Nat) (s : State) : State :=
  let n := Config.freeNat s.draws
  let f := s.draw.freeBytes n
  f.1.spdm 0 (leBytes 1 slot ++ f.2)

/-- CHALLENGE. -/
def evChallenge (nonce : List Byte) (s : State) : State := s.spdm 1 nonce

/-- GET_MEASUREMENTS: the ROM digest, the digest and SVN of the accepted image, FEATON and RESETS (R470), in the order of
the rule (log 35). -/
def evGetMeasurements (nonce : List Byte) (s : State) : State :=
  let dg (k : Nat) : List Byte := (List.range 48).map (Config.digest k)
  let im := match s.verify with
    | .ok b => dg (if b then 2 else 1) ++ leBytes 4 (if b then s.mod.copyB.svn else s.mod.copyA.svn)
    | .error _ => []
  s.spdm 2 (nonce ++ dg 0 ++ im ++ leBytes 32 s.mod.featon ++ leBytes 4 s.mod.resets)

/-- LMS_TRANSCRIPT_SIGNATURE. -/
def evLmsTranscriptSignature (_msg : List Byte) (s : State) : State :=
  match s.leading with
  | none => s
  | some l => match s.lmsSign l with
    | (s, none) => s
    | (s, some sg) => s.emit (.spdm 3 sg)

def execGetCertificate (slot : Nat) (s : State) : Res := .next (evGetCertificate slot s)
def execChallenge (nonce : List Byte) (s : State) : Res := .next (evChallenge nonce s)
def execGetMeasurements (nonce : List Byte) (s : State) : Res := .next (evGetMeasurements nonce s)
def execLmsTranscriptSignature (msg : List Byte) (s : State) : Res := .next (evLmsTranscriptSignature msg s)

-- R477-R481: power and cooling

/-- The most that a module draws, in watts (R478). -/
def Module.maxWatts (m : Module) : Nat := if m.expander then 2400 else 10500

/-- The array clock of a die, in 50 MHz steps above 0.85 GHz (R476): the lower of the two limits (R479). -/
def State.arrayClock (s : State) (die : Nat) : Nat := clockTop - max s.mod.drop (s.die die).heat

/-- POWER_CAP_SET (R479): 40 % to 100 %, clamped. -/
def evPowerCapSet (pct : Nat) (s : State) : State := s.updMod (fun m => { m with cap := min 100 (max 40 pct) })

/-- POWER_SAMPLE (R479): the array clocks fall one step while the draw exceeds the limit, and rise again otherwise
(log 36). -/
def evPowerSample (watts : Nat) (s : State) : State :=
  s.updMod (fun m => { m with
    drop := if m.maxWatts * m.cap < 100 * watts then min clockTop (m.drop + 1) else m.drop - 1 })

/-- Hardware removes power (R478, R481). -/
def State.trip (s : State) (die : Nat) : State := s.updMod (fun m => { m with power := false, trip := some die })

/-- SUPPLY_OUT_OF_RANGE (R478): it acts as a thermal trip, of no die (255). -/
def evSupplyOutOfRange (mv : Nat) (s : State) : State := if mv < 46000 || 60000 < mv then s.trip 255 else s

/-- THERMAL_SAMPLE (R481). -/
def evThermalSample (die : Nat) (c : Int) (s : State) : State :=
  if s.mod.dies ≤ die then s
  else
    let s := s.updDie die (fun d => { d with
      temp := c, heat := if 95 < c then min clockTop (d.heat + 1) else if c < 90 then d.heat - 1 else d.heat })
    if 105 ≤ c then s.trip die else s

def execPowerCapSet (pct : Nat) (s : State) : Res := .next (evPowerCapSet pct s)
def execPowerSample (watts : Nat) (s : State) : Res := .next (evPowerSample watts s)
def execSupplyOutOfRange (millivolt : Nat) (s : State) : Res := .next (evSupplyOutOfRange millivolt s)
def execThermalSample (die : Nat) (celsius : Int) (s : State) : Res := .next (evThermalSample die celsius s)

end Sys2Proof.Machine
end

