-- ==== Sys2Proof/Machine/Float.lean ====
section
/-! DEFINITION. Floating-point arithmetic and conversion (05_isa_float.md R141-R167), one meaning for each
instruction. -/

namespace Sys2Proof.Machine

-- R143, R144: sums, products, multiply-add
def execFadd (x : FArgs) (s : State) : Res := issueG (.fadd x) x.k (frs x x.ft.regs x.ft.regs x.ft.regs 0) (opFadd x) s
def execFsub (x : FArgs) (s : State) : Res := issueG (.fsub x) x.k (frs x x.ft.regs x.ft.regs x.ft.regs 0) (opFsub x) s
def execFmul (x : FArgs) (s : State) : Res := issueG (.fmul x) x.k (frs x x.ft.regs x.ft.regs x.ft.regs 0) (opFmul x) s
def execFfma (x : FArgs) (s : State) : Res := issueG (.ffma x) x.k (frs x x.ft.regs x.ft.regs x.ft.regs x.ft.regs) (opFma x) s
-- R145: minima and maxima
def execFmin (x : FArgs) (s : State) : Res := issueG (.fmin x) x.k (frs x x.ft.regs x.ft.regs x.ft.regs 0) (opMinMax ⟨false, false⟩ x) s
def execFmax (x : FArgs) (s : State) : Res := issueG (.fmax x) x.k (frs x x.ft.regs x.ft.regs x.ft.regs 0) (opMinMax ⟨true, false⟩ x) s
def execFminnum (x : FArgs) (s : State) : Res := issueG (.fminnum x) x.k (frs x x.ft.regs x.ft.regs x.ft.regs 0) (opMinMax ⟨false, true⟩ x) s
def execFmaxnum (x : FArgs) (s : State) : Res := issueG (.fmaxnum x) x.k (frs x x.ft.regs x.ft.regs x.ft.regs 0) (opMinMax ⟨true, true⟩ x) s
-- R146 to R148: quotients, roots, approximations
def execFdiv (x : FArgs) (s : State) : Res := issueG (.fdiv x) x.k (frs x x.ft.regs x.ft.regs x.ft.regs 0) (opFdiv x) s
def execFsqrt (x : FArgs) (s : State) : Res := issueG (.fsqrt x) x.k (frs x x.ft.regs x.ft.regs 0 0) (opFsqrt x) s
def execFrcpRcp (x : FArgs) (s : State) : Res := issueG (.frcpRcp x) x.k (frs x x.ft.regs x.ft.regs 0 0) (opFrcp false x) s
def execFrcpRsq (x : FArgs) (s : State) : Res := issueG (.frcpRsq x) x.k (frs x x.ft.regs x.ft.regs 0 0) (opFrcp true x) s
def execFsfuExp2 (x : FArgs) (s : State) : Res := issueG (.fsfuExp2 x) x.k (frs x x.ft.regs x.ft.regs 0 0) (opFsfu .exp2 x) s
def execFsfuLog2 (x : FArgs) (s : State) : Res := issueG (.fsfuLog2 x) x.k (frs x x.ft.regs x.ft.regs 0 0) (opFsfu .log2 x) s
def execFsfuSin (x : FArgs) (s : State) : Res := issueG (.fsfuSin x) x.k (frs x x.ft.regs x.ft.regs 0 0) (opFsfu .sin x) s
def execFsfuCos (x : FArgs) (s : State) : Res := issueG (.fsfuCos x) x.k (frs x x.ft.regs x.ft.regs 0 0) (opFsfu .cos x) s
def execFsfuTanh (x : FArgs) (s : State) : Res := issueG (.fsfuTanh x) x.k (frs x x.ft.regs x.ft.regs 0 0) (opFsfu .tanh x) s
-- R149 to R152: dot products, scaling, extraction, rounding to integers
def execHdot2F16 (x : FArgs) (s : State) : Res := issueG (.hdot2F16 x) x.k (frs x 1 1 1 1) (opHdot2 .f16x2 x) s
def execHdot2Bf16 (x : FArgs) (s : State) : Res := issueG (.hdot2Bf16 x) x.k (frs x 1 1 1 1) (opHdot2 .bf16x2 x) s
def execFscale (x : FArgs) (s : State) : Res := issueG (.fscale x) x.k (frs x x.ft.regs x.ft.regs x.ft.regs 0) (opFscale x) s
def execFxtrExp (x : FArgs) (s : State) : Res := issueG (.fxtrExp x) x.k (frs x 1 x.ft.regs 0 0) (opXtrExp x) s
def execFxtrSig (x : FArgs) (s : State) : Res := issueG (.fxtrSig x) x.k (frs x x.ft.regs x.ft.regs 0 0) (opXtrSig x) s
def execFrnd (x : RArgs) (s : State) : Res :=
  issueG (.frnd x) x.k [(x.d, x.ft.regs), (x.a, x.ft.regs)] (opFrnd x) s
-- R153, R154: compares and classes
def execFcmpX (x : CmpArgs) (ft : FTy) (ma mb : FMod) (cc : FCc) (s : State) : Res :=
  issueG (.fcmpX x ft ma mb cc) x.k [(x.a, ft.regs), (x.b, ft.regs)] (opFcmp x ft ma mb cc none) s
def execFcmpR (x : CmpArgs) (ft : FTy) (ma mb : FMod) (cc : FCc) (rm : RM) (s : State) : Res :=
  issueG (.fcmpR x ft ma mb cc rm) x.k [(x.a, ft.regs), (x.b, ft.regs)] (opFcmp x ft ma mb cc (some rm)) s
def execFclass (x : FArgs) (s : State) : Res := issueG (.fclass x) x.k (frs x 1 x.ft.regs 0 0) (opFclass x) s
def execFclassP (k : Com) (ft : FTy) (pD : BitVec 3) (a b : Opnd) (s : State) : Res :=
  issueG (.fclassP k ft pD a b) k [(a, ft.regs), (b, 1)] (opFclassP ft pD a b) s
-- R155 to R158: conversions and finalisation
def execFcvt (k : Com) (df sf : FTy) (e : Bool) (d a b : Opnd) (s : State) : Res :=
  issueG (.fcvt k df sf e d a b) k
    [(d, df.regs), (a, sf.regs), (b, if df.packed && !sf.packed then sf.regs else 0)] (opFcvt df sf e d a b) s
def execIcvtf (k : Com) (df : FTy) (st : BitVec 2) (d a b : Opnd) (s : State) : Res :=
  let n := if st.toNat < 2 then 1 else 2
  issueG (.icvtf k df st d a b) k [(d, df.regs), (a, n), (b, if df.packed then n else 0)] (opIcvtf df st d a b) s
def execFcvti (x : RArgs) (dt : BitVec 2) (sat e : Bool) (s : State) : Res :=
  issueG (.fcvti x dt sat e) x.k [(x.d, if dt.toNat < 2 then 1 else 2), (x.a, x.ft.regs)] (opFcvti x dt sat e) s
def execFin (x : RArgs) (s : State) : Res :=
  issueG (.fin x) x.k [(x.d, x.ft.regs), (x.a, x.ft.regs)] (opFin x) s
-- R159: glaze
def execGlzGet (x : FArgs) (s : State) : Res := issueG (.glzGet x) x.k (frs x 1 x.ft.regs 0 0) (opGlzGet x) s
def execGlzSet (x : FArgs) (s : State) : Res := issueG (.glzSet x) x.k (frs x x.ft.regs x.ft.regs 1 0) (opGlzSet x) s
def execGlzClr (x : FArgs) (s : State) : Res := issueG (.glzClr x) x.k (frs x x.ft.regs x.ft.regs 0 0) (opGlzClr x) s
def execGlzTest (k : Com) (ft : FTy) (pD : BitVec 3) (a : Opnd) (s : State) : Res :=
  issueG (.glzTest k ft pD a) k [(a, ft.regs)] (opGlzTest ft pD a) s
-- R160 to R165: block scales, packing, random numbers
def execMxsc (k : Com) (ef : EF) (d a : Opnd) (s : State) : Res := issueG (.mxsc k ef d a) k [(d, 1), (a, 1)] (opMxsc ef d a) s
def execFpk (k : Com) (ef : EF) (rm : RM) (sat : Bool) (scm : Fin 3) (d a b c : Opnd) (s : State) : Res :=
  issueG (.fpk k ef rm sat scm d a b c) k [(d, 1), (a, 1), (b, 1), (c, 1)] (opFpk ef rm sat scm d a b c) s
def execFupk (k : Com) (ef : EF) (scm : Fin 2) (d a b : Opnd) (s : State) : Res :=
  issueG (.fupk k ef scm d a b) k [(d, 1), (a, 1), (b, 1)] (opFupk ef scm d a b) s
def execRng (k : Com) (d : Opnd) (s : State) : Res := issueG (.rng k d) k [(d, 1)] (opRng d) s

end Sys2Proof.Machine
end

