-- ==== Sys2Proof/Machine/Integer.lean ====
section
/-! DEFINITION. Integer arithmetic, shifts and bits (04_isa_integer.md R115-R132), one meaning for each
instruction. -/

namespace Sys2Proof.Machine

-- R118: iadd, isub
def execIadd (x : IArgs) (s : State) : Res := issueG (.iadd x) x.k (irs x x.ty.regs x.ty.regs x.ty.regs 0) (opAdd x) s
def execIsub (x : IArgs) (s : State) : Res := issueG (.isub x) x.k (irs x x.ty.regs x.ty.regs x.ty.regs 0) (opSub x) s
-- R119, R120: products
def execImulLo (x : IArgs) (s : State) : Res := issueG (.imulLo x) x.k (irs x x.ty.regs x.ty.regs x.ty.regs 0) (opMulLo x) s
def execImulHi (x : IArgs) (s : State) : Res := issueG (.imulHi x) x.k (irs x x.ty.regs x.ty.regs x.ty.regs 0) (opMulHi x) s
def execImulWide (x : IArgs) (s : State) : Res := issueG (.imulWide x) x.k (irs x 2 1 1 0) (opMulWide x) s
def execImad (x : IArgs) (s : State) : Res := issueG (.imad x) x.k (irs x x.ty.regs x.ty.regs x.ty.regs x.ty.regs) (opMad x) s
def execImadWide (x : IArgs) (s : State) : Res := issueG (.imadWide x) x.k (irs x 2 1 1 2) (opMadWide x) s
-- R121: quotients and remainders
def execIdiv (x : IArgs) (s : State) : Res := issueG (.idiv x) x.k (irs x x.ty.regs x.ty.regs x.ty.regs 0) (opDiv x) s
def execIrem (x : IArgs) (s : State) : Res := issueG (.irem x) x.k (irs x x.ty.regs x.ty.regs x.ty.regs 0) (opRem x) s
-- R122: minimum, maximum, absolute value, negation
def execImin (x : IArgs) (s : State) : Res := issueG (.imin x) x.k (irs x x.ty.regs x.ty.regs x.ty.regs 0) (opMin x) s
def execImax (x : IArgs) (s : State) : Res := issueG (.imax x) x.k (irs x x.ty.regs x.ty.regs x.ty.regs 0) (opMax x) s
def execIabs (x : IArgs) (s : State) : Res := issueG (.iabs x) x.k (irs x x.ty.regs x.ty.regs 0 0) (opAbs x) s
def execIneg (x : IArgs) (s : State) : Res := issueG (.ineg x) x.k (irs x x.ty.regs x.ty.regs 0 0) (opNeg x) s
-- R123: carries and borrows
def execAddc (x : CarryArgs) (s : State) : Res := issueG (.addc x) x.k [(x.d, 1), (x.a, 1), (x.b, 1)] (opCarry false x) s
def execSubb (x : CarryArgs) (s : State) : Res := issueG (.subb x) x.k [(x.d, 1), (x.a, 1), (x.b, 1)] (opCarry true x) s
-- R124: bit logic
def execLop (x : IArgs) (tt : Byte) (s : State) : Res := issueG (.lop x tt) x.k (irs x x.ty.regs x.ty.regs x.ty.regs x.ty.regs) (opLop x tt) s
-- R125, R126: shifts and rotates
def execShl (x : IArgs) (s : State) : Res := issueG (.shl x) x.k (irs x x.ty.regs x.ty.regs x.ty.regs 0) (shiftForm x shlW) s
def execShr (x : IArgs) (s : State) : Res := issueG (.shr x) x.k (irs x x.ty.regs x.ty.regs x.ty.regs 0) (shiftForm x shrW) s
def execSra (x : IArgs) (s : State) : Res := issueG (.sra x) x.k (irs x x.ty.regs x.ty.regs x.ty.regs 0) (shiftForm x sraW) s
def execRotl (x : IArgs) (s : State) : Res := issueG (.rotl x) x.k (irs x x.ty.regs x.ty.regs x.ty.regs 0) (shiftForm x rotlW) s
def execRotr (x : IArgs) (s : State) : Res := issueG (.rotr x) x.k (irs x x.ty.regs x.ty.regs x.ty.regs 0) (shiftForm x rotrW) s
def execShfWin (x : IArgs) (s : State) : Res := issueG (.shfWin x) x.k (irs x 1 1 1 1) (opShf false x) s
def execShfRot (x : IArgs) (s : State) : Res := issueG (.shfRot x) x.k (irs x 1 1 1 1) (opShf true x) s
-- R127: bit counts and reversals
def execClz (x : IArgs) (s : State) : Res := issueG (.clz x) x.k (irs x 1 x.ty.regs 0 0) (bitForm x 1 clzW) s
def execCtz (x : IArgs) (s : State) : Res := issueG (.ctz x) x.k (irs x 1 x.ty.regs 0 0) (bitForm x 1 ctzW) s
def execPopc (x : IArgs) (s : State) : Res := issueG (.popc x) x.k (irs x 1 x.ty.regs 0 0) (bitForm x 1 popW) s
def execCls (x : IArgs) (s : State) : Res := issueG (.cls x) x.k (irs x 1 x.ty.regs 0 0) (bitForm x 1 clsW) s
def execBrev (x : IArgs) (s : State) : Res := issueG (.brev x) x.k (irs x x.ty.regs x.ty.regs 0 0) (bitForm x x.ty.regs brevW) s
def execBswap (x : IArgs) (s : State) : Res := issueG (.bswap x) x.k (irs x x.ty.regs x.ty.regs 0 0) (bitForm x x.ty.regs bswapW) s
-- R128: bit fields
def execBfxU (x : IArgs) (s : State) : Res := issueG (.bfxU x) x.k (irs x x.ty.regs x.ty.regs x.ty.regs 0) (opBfx false x) s
def execBfxS (x : IArgs) (s : State) : Res := issueG (.bfxS x) x.k (irs x x.ty.regs x.ty.regs x.ty.regs 0) (opBfx true x) s
def execBfi (x : IArgs) (s : State) : Res := issueG (.bfi x) x.k (irs x x.ty.regs x.ty.regs x.ty.regs x.ty.regs) (opBfi x) s
-- R129 to R132: bytes, addresses, dot products, conversions
def execPrmt (x : IArgs) (s : State) : Res := issueG (.prmt x) x.k (irs x 1 1 1 1) (opPrmt x) s
def execLea (x : IArgs) (n : BitVec 3) (s : State) : Res := issueG (.lea x n) x.k (irs x 2 2 x.ty.regs 1) (opLea x n) s
def execIdpDp4 (x : IArgs) (sa sb : Bool) (s : State) : Res := issueG (.idpDp4 x sa sb) x.k (irs x 1 1 1 1) (opIdp 4 8 sa sb x) s
def execIdpDp2 (x : IArgs) (s : State) : Res := issueG (.idpDp2 x) x.k (irs x 1 1 1 1) (opIdp 2 16 true true x) s
def execSad (x : IArgs) (s : State) : Res := issueG (.sad x) x.k (irs x 1 1 1 1) (opSad x) s
def execCvti (x : IArgs) (dt : ITy) (e : BitVec 2) (s : State) : Res := issueG (.cvti x dt e) x.k (irs x dt.regs x.ty.regs 0 0) (opCvti x dt e) s

end Sys2Proof.Machine
end

