-- ==== Sys2Proof/Machine/Moves.lean ====
section
/-! DEFINITION. Moves, selects, predicates and votes (04_isa_integer.md R133-R140), one meaning for each
instruction. -/

namespace Sys2Proof.Machine

-- R133: moves
def execMov (x : IArgs) (s : State) : Res := issueG (.mov x) x.k (irs x 1 1 0 0) (copyLane x.d x.a 1) s
def execMov64 (x : IArgs) (s : State) : Res := issueG (.mov64 x) x.k (irs x 2 2 0 0) (copyLane x.d x.a 2) s
def execMovl (x : IArgs) (s : State) : Res := issueG (.movl x) x.k (irs x 1 0 0 0) (opMovl 1 x) s
def execMovl64 (x : IArgs) (s : State) : Res := issueG (.movl64 x) x.k (irs x 2 0 0 0) (opMovl 2 x) s
-- R134: selects
def execSel (x : IArgs) (p : PF) (s : State) : Res := issueG (.sel x p) x.k (irs x 1 1 1 0) (opSel 1 x p) s
def execSel64 (x : IArgs) (p : PF) (s : State) : Res := issueG (.sel64 x p) x.k (irs x 2 2 2 0) (opSel 2 x p) s
-- R135, R136: compares and predicate logic
def execIcmp (x : CmpArgs) (ty : ITy) (cc : ICc) (s : State) : Res :=
  issueG (.icmp x ty cc) x.k [(x.a, ty.regs), (x.b, ty.regs)] (opIcmp x ty cc) s
def execPlop (k : Com) (tt : Byte) (pD pA pB pC : BitVec 3) (s : State) : Res :=
  issueG (.plop k tt pD pA pB pC) k [] (opPlop tt pD pA pB pC) s
-- R137: votes
def execVoteSome (x : VoteArgs) (s : State) : Res := issueG (.voteSome x) x.k [(x.d, 1)] (opVoteSome x) s
def execVoteEvery (x : VoteArgs) (s : State) : Res := issueG (.voteEvery x) x.k [(x.d, 1)] (opVoteEvery x) s
def execVoteSame (x : VoteArgs) (s : State) : Res := issueG (.voteSame x) x.k [(x.d, 1)] (opVoteSame x) s
def execVoteMask (x : VoteArgs) (s : State) : Res := issueG (.voteMask x) x.k [(x.d, 1)] (opVoteMask x) s
def execVoteCount (x : VoteArgs) (s : State) : Res := issueG (.voteCount x) x.k [(x.d, 1)] (opVoteCount x) s
def execVoteFirst (x : VoteArgs) (s : State) : Res := issueG (.voteFirst x) x.k [(x.d, 1)] (opVoteFirst x) s
-- R138, R139: predicates as words, broadcasts, lane reads
def execPmovGet (k : Com) (d : Opnd) (s : State) : Res := issueG (.pmovGet k d) k [(d, 1)] (opPmovGet d) s
def execPmovSet (k : Com) (mask : BitVec 7) (a : Opnd) (s : State) : Res :=
  issueG (.pmovSet k mask a) k [(a, 1)] (opPmovSet mask a) s
def execBcast (x : IArgs) (s : State) : Res := issueG (.bcast x) x.k (irs x 1 1 0 0) (copyLane x.d x.a 1) s
def execBcast64 (x : IArgs) (s : State) : Res := issueG (.bcast64 x) x.k (irs x 2 2 0 0) (copyLane x.d x.a 2) s
def execRdlane (x : IArgs) (s : State) : Res := issueG (.rdlane x) x.k (irs x 1 1 1 1) (opRdlane 1 x) s
def execRdlane64 (x : IArgs) (s : State) : Res := issueG (.rdlane64 x) x.k (irs x 2 2 1 2) (opRdlane 2 x) s

end Sys2Proof.Machine
end

