-- ==== Sys2Proof/Machine/Registers.lean ====
section
/-! DEFINITION. The registers as the host reaches them by address: BAR0 and BAR2 of the functions, and the two DVSECs of
configuration space (14 R357, R369, R370, R378, 16 R396, R415, 17 R417-R423, R430, R436, 18 R443-R446, 19 R462-R466). -/

namespace Sys2Proof.Machine

/-- The 4 bytes of an 8-byte field at an offset within it. -/
def half (x off : Nat) : Nat := x / 2 ^ (8 * (off % 8 / 4 * 4)) % 2 ^ 32

/-- A field of 8 bytes with the 4 bytes at an offset within it replaced. -/
def putHalf (x off v : Nat) : Nat :=
  if off % 8 < 4 then x / 2 ^ 32 * 2 ^ 32 + v % 2 ^ 32 else v % 2 ^ 32 * 2 ^ 32 + x % 2 ^ 32

-- BAR0 of the PF: what stands at a multiple of 4 (R417)

/-- A word of the counter window of a context (R378, R415). -/
def CtxCtr.word (c : CtxCtr) (off : Nat) : Nat :=
  let i := off / 8
  half (if off < 0x80 then (if i % 2 == 0 then SMap.getD c.ev 0 (i / 2) else SMap.getD c.cy 0 (i / 2))
    else [c.cdead, c.launches, c.refusals, c.qwait, c.trunc].getD (i - 16) 0) off

/-- A word of the metering block of a VD (R436). -/
def Meter.word (m : Meter) (off : Nat) : Nat := leNat ((m.bytes.drop off).take 4)

/-- A word of the counter window of a context on a die. -/
def State.ctrWord (s : State) (d v c off : Nat) : Nat := (SMap.getD (s.die d).ctr CtxCtr.init (256 * v + c)).word off

/-- A word of a VD's metering block on a die. -/
def State.meterWord (s : State) (d v off : Nat) : Nat := (SMap.getD (s.die d).meter Meter.init v).word off

/-- A word of the window of a die. -/
def State.dieWord (s : State) (d o : Nat) : Nat :=
  let x := s.die d
  if 0x12_0000 ≤ o && o < 0x12_0800 then half (SMap.getD x.fsw 0 ((o - 0x12_0000) / 8)) o
  else if 0x21_0000 ≤ o && o < 0x21_2000 then half (SMap.getD x.part 0xFFFF0000 ((o - 0x21_0000) / 8)) o
  else if 0x30_0000 ≤ o && o < 0x38_0000 then (s.stack (2 * d + (o - 0x30_0000) / 0x4_0000)).ctlWord (o % 0x4_0000)
  else if 0x100_0000 ≤ o && o < 0x200_0000 then s.ctrWord d (o / 0x1_0000 % 256) (o / 0x100 % 256) (o % 0x100)
  else if 0x200_0000 ≤ o && o < 0x201_0000 then s.meterWord d (o / 0x100 % 256) (o % 0x100)
  else 0

/-- A word of a VD table entry (R418); DBGOK as it counts (R466). -/
def VdEnt.word (e : VdEnt) (off : Nat) : Nat :=
  half ([e.s2root.toNat, e.totbase.toNat, e.tpbase.toNat, e.tpframes + e.pinlim * 2 ^ 32,
    e.flags + e.skey * 2 ^ 16 + e.nvec * 2 ^ 32].getD (off / 8) 0) off

/-- A word of an owner window (R423): CMD reads zero. -/
def Vd.ownerWord (d : Vd) (off : Nat) : Nat :=
  if off < 16 then half (if off < 8 then d.ctbase.toNat else d.fqbase.toNat) off
  else [d.fqsize, d.fqvec, d.fqhead.toNat, d.fqovf.toNat].getD ((off - 16) / 4) 0

/-- A word of a remapping entry (R430). -/
def Remap.word (r : Remap) (off : Nat) : Nat :=
  if off < 8 then half r.addr.toNat off
  else if off < 12 then r.data.toNat
  else r.valid.toNat * 2 ^ 31 + r.mask.toNat * 2 ^ 30 + r.pend.toNat * 2 ^ 29

/-- AQIs of the module (R416). -/
def aqiCount : Nat := 64 + 8 * 255

/-- A word of the module window. -/
def State.modWord (s : State) (o : Nat) : Nat :=
  if o < 0x4000 then (s.mod.debugOk (s.vd (o / 64)).ent).word (o % 64)
  else if 0x1_0000 ≤ o && o < 0x1_0000 + 16 * aqiCount then
    (if o % 16 < 8 then half (SMap.getD s.aqis 0 ((o - 0x1_0000) / 16)) o else 0)
  else if 0x20_0000 ≤ o && o < 0x20_0080 then (s.vd 0).ownerWord (o % 0x80)
  else if 0x100_0000 ≤ o && o < 0x180_0000 then
    let d := s.vd (o / 0x8000 % 256)
    let i := o / 16 % 2048
    if d.inf.nvec ≤ i then 0 else (SMap.getD d.remap Remap.init i).word (o % 16)
  else 0

/-- A word of a VF's BAR0: its owner window, and the copies of its counters on each die, the metering block after the counter
windows (log 106). -/
def State.vfWord (s : State) (v o : Nat) : Nat :=
  let d := (o - 0x100_0000) / 0x10_0000
  let r := o % 0x10_0000
  if o < 0x80 then (s.vd v).ownerWord o
  else if o < 0x100_0000 || s.mod.dies ≤ d then 0
  else if r < 0x1_0000 then s.ctrWord d v (r / 0x100) (r % 0x100)
  else if r < 0x1_0100 then s.meterWord d v (r % 0x100)
  else 0

/-- A read of 4 bytes of a function's BAR0 (R417, R462): zero below full function and where nothing is listed. -/
def State.bar0Read (s : State) (fn off : Nat) : Nat :=
  let o := off / 4 * 4
  if !s.full then 0
  else if fn != 0 then s.vfWord fn o
  else if 0x4000_0000 ≤ o then s.modWord (o - 0x4000_0000)
  else if s.mod.dies ≤ o / 0x400_0000 then 0
  else s.dieWord (o / 0x400_0000) (o % 0x400_0000)

/-- A read of BAR2 (R420). -/
def State.bar2Read (_ : State) (_fn _off : Nat) : Nat := 0

-- Configuration space

/-- Safe mode, as the CXL DVSEC reports it (R462). -/
def State.safeMode (s : State) : Bool := !s.full

/-- The 12-byte header of a Seori DVSEC as PCI Express lays it out, revision 0 (R445, R464): log 107. -/
def dvsecHeader (id len off : Nat) : Nat :=
  match off / 4 with
  | 0 => 0x0023 + 2 ^ 16 + (Config.nextCap id).toNat * 2 ^ 20
  | 1 => Config.vendorId.toNat + len * 2 ^ 20
  | _ => id

/-- FCTL (R446, R466). -/
def State.fctl (s : State) : Nat :=
  s.mod.portup % 16 * 2 ^ 12 + s.mod.viral.toNat * 2 ^ 8 + s.mod.neten.toNat * 2 ^ 4 + s.mod.modid % 16

/-- BSTAT (R464). -/
def State.bstat (s : State) : Nat := s.stage + s.mod.leader * 2 ^ 16 + s.mod.fail * 2 ^ 24

/-- A word of the fabric DVSEC (R445). -/
def State.fabricWord (s : State) (off : Nat) : Nat :=
  let m := s.mod
  match off / 4 with
  | 0 | 1 | 2 => dvsecHeader 1 0x48 off
  | 3 => s.fctl
  | 4 | 5 => half m.fwtbase off
  | 6 => m.fwtcnt
  | 7 => m.commcnt
  | 8 | 9 => half m.commbase off
  | 10 | 11 => half m.netbase off
  | 12 => m.netcnt
  | 13 => if m.expander then m.tacccnt else 0
  | 14 | 15 => if m.expander then half m.taccbase off else 0
  | _ => 0

/-- A word of the boot DVSEC (R464). -/
def State.bootWord (s : State) (off : Nat) : Nat :=
  let m := s.mod
  let w (x base : Nat) : Nat := x / 2 ^ (8 * (off / 4 * 4 - base)) % 2 ^ 32
  if off < 0x0C then dvsecHeader 2 0x80 off
  else if off < 0x10 then s.bstat
  else if off < 0x30 then w m.featoff 0x10
  else if off < 0x50 then w m.featsel 0x30
  else if off < 0x70 then w m.featon 0x50
  else if off < 0x78 then half m.rlbase off
  else if off < 0x7C then m.rlsize
  else if off < 0x80 then m.rltail
  else 0

/-- A read of 4 bytes of configuration space as a port receives it (R443, R462): only the port of die 0 answers, and before stage 3
nothing is live but BSTAT of a module that failed. `boot` not 0 names the boot DVSEC. -/
def State.cfgRead (s : State) (port boot off : Nat) : Option Nat :=
  if port != 0 then none
  else if !s.config then some (if boot != 0 && off / 4 == 3 && s.stage == 15 then s.bstat else 0)
  else some (if boot == 0 then s.fabricWord off else s.bootWord off)

-- Writes by address

/-- A write at an offset of the window of a die (R417): 8 bytes, or the low 4 where the register has 4. -/
def State.dieWrite (s : State) (d o : Nat) (v : DWord) : State :=
  if 0x12_0000 ≤ o && o < 0x12_0800 then evRegisterWrite (.fsw d ((o - 0x12_0000) / 8)) v s
  else if 0x21_0000 ≤ o && o < 0x21_2000 then evRegisterWrite (.mscPart d ((o - 0x21_0000) / 8)) v s
  else if 0x30_0000 ≤ o && o < 0x38_0000 then
    let k := (o - 0x30_0000) / 0x4_0000
    let r := o % 0x4_0000
    if r == 0 then evRgctlWrite d k (v.truncate 32) s
    else if 0x40 ≤ r && r < 0x80 then evWatchWrite d k (Fin.ofNat 16 ((r - 0x40) / 4)) (v.truncate 32) s
    else s
  else s

/-- A write at an offset of the module window. -/
def State.modWrite (s : State) (o : Nat) (v : DWord) : State :=
  if o < 0x4000 then evRegisterWrite (.vdField (o / 64) (o % 64 / 8)) v s
  else if 0x1_0000 ≤ o && o < 0x1_0000 + 16 * aqiCount then
    evRegisterWrite (.aqi ((o - 0x1_0000) / 16) (o % 16 != 0)) v s
  else if 0x20_0000 ≤ o && o < 0x20_0040 then evRegisterWrite (.owner 0 (o % 0x40)) v s
  else if 0x100_0000 ≤ o && o < 0x180_0000 then evRegisterWrite (.remap (o / 0x8000 % 256) (o / 16 % 2048) (o % 16)) v s
  else s

/-- A write at an offset of a function's BAR0 (R417): what is not listed, and a VF's copies, ignore it. -/
def State.bar0Write (s : State) (fn off : Nat) (v : DWord) : State :=
  if !s.full then s
  else if fn != 0 then (if off < 0x40 then evRegisterWrite (.owner fn off) v s else s)
  else if 0x4000_0000 ≤ off then s.modWrite (off - 0x4000_0000) v
  else if s.mod.dies ≤ off / 0x400_0000 then s
  else s.dieWrite (off / 0x400_0000) (off % 0x400_0000) v

/-- A write of 4 bytes of the fabric DVSEC (R445). -/
def State.fabricWrite (s : State) (off v : Nat) : State :=
  let m := s.mod
  let w (x : Nat) : DWord := BitVec.ofNat 64 (putHalf x off v)
  match off / 4 with
  | 3 => evRegisterWrite .fctl (BitVec.ofNat 64 v) s
  | 4 | 5 => evRegisterWrite .fwtBase (w m.fwtbase) s
  | 6 => evFwtcntWrite (BitVec.ofNat 32 v) s
  | 7 => evCommcntWrite (BitVec.ofNat 32 v) s
  | 8 | 9 => evRegisterWrite .commBase (w m.commbase) s
  | 10 | 11 => evRegisterWrite .netBase (w m.netbase) s
  | 12 => evNetcntWrite (BitVec.ofNat 32 v) s
  | 13 => evTacccntWrite (BitVec.ofNat 32 v) s
  | 14 | 15 => evRegisterWrite .taccBase (w m.taccbase) s
  | _ => s

/-- A write of 4 bytes of the boot DVSEC (R464, R465). -/
def State.bootWrite (s : State) (off v : Nat) : State :=
  let m := s.mod
  if 0x0C ≤ off && off < 0x10 then (if v.testBit 4 then evNeg s else s)
  else if 0x30 ≤ off && off < 0x50 then
    let i := (off - 0x30) / 8
    evRegisterWrite (.featSel (Fin.ofNat 4 i)) (BitVec.ofNat 64 (putHalf (m.featsel / 2 ^ (64 * i)) off v)) s
  else if 0x70 ≤ off && off < 0x78 then evRlbaseWrite (BitVec.ofNat 64 (putHalf m.rlbase off v)) s
  else if 0x78 ≤ off && off < 0x7C then evRegisterWrite .rlSize (BitVec.ofNat 64 v) s
  else s

/-- A write of configuration space (R443): only the port of die 0 takes it. -/
def State.cfgWrite (s : State) (port boot off v : Nat) : State :=
  if port != 0 || !s.config then s
  else if boot == 0 then s.fabricWrite off (v % 2 ^ 32) else s.bootWrite off (v % 2 ^ 32)

/-- REGISTER_WRITE (R7), by the register's name or its address. -/
def evRegWrite (r : DevReg) (v : DWord) (s : State) : State :=
  match r with
  | .bar0 fn off => s.bar0Write fn off v
  | .cfg port boot off => s.cfgWrite port boot off v.toNat
  | r => evRegisterWrite r v s

def execRegisterWrite (r : DevReg) (val : DWord) (s : State) : Res := .next (evRegWrite r val s)

end Sys2Proof.Machine
end

