-- ==== Sys2Proof/Machine/Dispatch.lean ====
section
/-! DEFINITION. The step of one instruction: one arm for each constructor, each one call of its meaning. -/

namespace Sys2Proof.Machine

/-- The effect of an instruction. -/
def exec (i : Instr) (s : State) : Host.Outcome State Fault Refusal :=
  match i with
  | .iadd x => Sys2Proof.Machine.execIadd x s
  | .isub x => Sys2Proof.Machine.execIsub x s
  | .imulLo x => Sys2Proof.Machine.execImulLo x s
  | .imulHi x => Sys2Proof.Machine.execImulHi x s
  | .imulWide x => Sys2Proof.Machine.execImulWide x s
  | .imad x => Sys2Proof.Machine.execImad x s
  | .imadWide x => Sys2Proof.Machine.execImadWide x s
  | .idiv x => Sys2Proof.Machine.execIdiv x s
  | .irem x => Sys2Proof.Machine.execIrem x s
  | .imin x => Sys2Proof.Machine.execImin x s
  | .imax x => Sys2Proof.Machine.execImax x s
  | .iabs x => Sys2Proof.Machine.execIabs x s
  | .ineg x => Sys2Proof.Machine.execIneg x s
  | .addc x => Sys2Proof.Machine.execAddc x s
  | .subb x => Sys2Proof.Machine.execSubb x s
  | .lop x tt => Sys2Proof.Machine.execLop x tt s
  | .shl x => Sys2Proof.Machine.execShl x s
  | .shr x => Sys2Proof.Machine.execShr x s
  | .sra x => Sys2Proof.Machine.execSra x s
  | .rotl x => Sys2Proof.Machine.execRotl x s
  | .rotr x => Sys2Proof.Machine.execRotr x s
  | .shfWin x => Sys2Proof.Machine.execShfWin x s
  | .shfRot x => Sys2Proof.Machine.execShfRot x s
  | .clz x => Sys2Proof.Machine.execClz x s
  | .ctz x => Sys2Proof.Machine.execCtz x s
  | .popc x => Sys2Proof.Machine.execPopc x s
  | .brev x => Sys2Proof.Machine.execBrev x s
  | .bswap x => Sys2Proof.Machine.execBswap x s
  | .cls x => Sys2Proof.Machine.execCls x s
  | .bfxU x => Sys2Proof.Machine.execBfxU x s
  | .bfxS x => Sys2Proof.Machine.execBfxS x s
  | .bfi x => Sys2Proof.Machine.execBfi x s
  | .prmt x => Sys2Proof.Machine.execPrmt x s
  | .lea x n => Sys2Proof.Machine.execLea x n s
  | .idpDp4 x sa sb => Sys2Proof.Machine.execIdpDp4 x sa sb s
  | .idpDp2 x => Sys2Proof.Machine.execIdpDp2 x s
  | .sad x => Sys2Proof.Machine.execSad x s
  | .cvti x dt e => Sys2Proof.Machine.execCvti x dt e s
  | .mov x => Sys2Proof.Machine.execMov x s
  | .mov64 x => Sys2Proof.Machine.execMov64 x s
  | .movl x => Sys2Proof.Machine.execMovl x s
  | .movl64 x => Sys2Proof.Machine.execMovl64 x s
  | .sel x p => Sys2Proof.Machine.execSel x p s
  | .sel64 x p => Sys2Proof.Machine.execSel64 x p s
  | .icmp x ty cc => Sys2Proof.Machine.execIcmp x ty cc s
  | .plop k tt pD pA pB pC => Sys2Proof.Machine.execPlop k tt pD pA pB pC s
  | .voteSome x => Sys2Proof.Machine.execVoteSome x s
  | .voteEvery x => Sys2Proof.Machine.execVoteEvery x s
  | .voteSame x => Sys2Proof.Machine.execVoteSame x s
  | .voteMask x => Sys2Proof.Machine.execVoteMask x s
  | .voteCount x => Sys2Proof.Machine.execVoteCount x s
  | .voteFirst x => Sys2Proof.Machine.execVoteFirst x s
  | .pmovGet k d => Sys2Proof.Machine.execPmovGet k d s
  | .pmovSet k mask a => Sys2Proof.Machine.execPmovSet k mask a s
  | .bcast x => Sys2Proof.Machine.execBcast x s
  | .rdlane x => Sys2Proof.Machine.execRdlane x s
  | .bcast64 x => Sys2Proof.Machine.execBcast64 x s
  | .rdlane64 x => Sys2Proof.Machine.execRdlane64 x s
  | .fadd x => Sys2Proof.Machine.execFadd x s
  | .fsub x => Sys2Proof.Machine.execFsub x s
  | .fmul x => Sys2Proof.Machine.execFmul x s
  | .ffma x => Sys2Proof.Machine.execFfma x s
  | .fmin x => Sys2Proof.Machine.execFmin x s
  | .fmax x => Sys2Proof.Machine.execFmax x s
  | .fminnum x => Sys2Proof.Machine.execFminnum x s
  | .fmaxnum x => Sys2Proof.Machine.execFmaxnum x s
  | .fdiv x => Sys2Proof.Machine.execFdiv x s
  | .fsqrt x => Sys2Proof.Machine.execFsqrt x s
  | .frcpRcp x => Sys2Proof.Machine.execFrcpRcp x s
  | .frcpRsq x => Sys2Proof.Machine.execFrcpRsq x s
  | .fsfuExp2 x => Sys2Proof.Machine.execFsfuExp2 x s
  | .fsfuLog2 x => Sys2Proof.Machine.execFsfuLog2 x s
  | .fsfuSin x => Sys2Proof.Machine.execFsfuSin x s
  | .fsfuCos x => Sys2Proof.Machine.execFsfuCos x s
  | .fsfuTanh x => Sys2Proof.Machine.execFsfuTanh x s
  | .hdot2F16 x => Sys2Proof.Machine.execHdot2F16 x s
  | .hdot2Bf16 x => Sys2Proof.Machine.execHdot2Bf16 x s
  | .fscale x => Sys2Proof.Machine.execFscale x s
  | .fxtrExp x => Sys2Proof.Machine.execFxtrExp x s
  | .fxtrSig x => Sys2Proof.Machine.execFxtrSig x s
  | .frnd x => Sys2Proof.Machine.execFrnd x s
  | .fcmpX x ft ma mb cc => Sys2Proof.Machine.execFcmpX x ft ma mb cc s
  | .fcmpR x ft ma mb cc rm => Sys2Proof.Machine.execFcmpR x ft ma mb cc rm s
  | .fclass x => Sys2Proof.Machine.execFclass x s
  | .fclassP k ft pD a b => Sys2Proof.Machine.execFclassP k ft pD a b s
  | .fcvt k df sf e d a b => Sys2Proof.Machine.execFcvt k df sf e d a b s
  | .icvtf k df st d a b => Sys2Proof.Machine.execIcvtf k df st d a b s
  | .fcvti x dt sat e => Sys2Proof.Machine.execFcvti x dt sat e s
  | .fin x => Sys2Proof.Machine.execFin x s
  | .glzGet x => Sys2Proof.Machine.execGlzGet x s
  | .glzSet x => Sys2Proof.Machine.execGlzSet x s
  | .glzClr x => Sys2Proof.Machine.execGlzClr x s
  | .glzTest k ft pD a => Sys2Proof.Machine.execGlzTest k ft pD a s
  | .mxsc k ef d a => Sys2Proof.Machine.execMxsc k ef d a s
  | .fpk k ef rm sat scm d a b c => Sys2Proof.Machine.execFpk k ef rm sat scm d a b c s
  | .fupk k ef scm d a b => Sys2Proof.Machine.execFupk k ef scm d a b s
  | .rng k d => Sys2Proof.Machine.execRng k d s
  | .braWhole k => Sys2Proof.Machine.execBraWhole k s
  | .braD k => Sys2Proof.Machine.execBraD k s
  | .braEj k => Sys2Proof.Machine.execBraEj k s
  | .brxD k a => Sys2Proof.Machine.execBrxD k a s
  | .brxWhole k a => Sys2Proof.Machine.execBrxWhole k a s
  | .call k d => Sys2Proof.Machine.execCall k d s
  | .callX k d a => Sys2Proof.Machine.execCallX k d a s
  | .ret k a => Sys2Proof.Machine.execRet k a s
  | .fcs k => Sys2Proof.Machine.execFcs k s
  | .exit k => Sys2Proof.Machine.execExit k s
  | .pswp k => Sys2Proof.Machine.execPswp k s
  | .compactReturn gid => Sys2Proof.Machine.execCompactReturn gid s
  | .lmap k d => Sys2Proof.Machine.execLmap k d s
  | .lmapRd k d b => Sys2Proof.Machine.execLmapRd k d b s
  | .shflSel x => Sys2Proof.Machine.execShflSel x s
  | .shflSlide x => Sys2Proof.Machine.execShflSlide x s
  | .shflRot x => Sys2Proof.Machine.execShflRot x s
  | .shflFlip x => Sys2Proof.Machine.execShflFlip x s
  | .redux k op d a => Sys2Proof.Machine.execRedux k op d a s
  | .scan k op ex d a => Sys2Proof.Machine.execScan k op ex d a s
  | .isectM k pD a b => Sys2Proof.Machine.execIsectM k pD a b s
  | .isectIx k d a b => Sys2Proof.Machine.execIsectIx k d a b s
  | .isectAdv k d a b => Sys2Proof.Machine.execIsectAdv k d a b s
  | .vsortAsc k kt d a b => Sys2Proof.Machine.execVsortAsc k kt d a b s
  | .vsortDesc k kt d a b => Sys2Proof.Machine.execVsortDesc k kt d a b s
  | .matchPeers k w64 d a => Sys2Proof.Machine.execMatchPeers k w64 d a s
  | .matchUni k w64 d a => Sys2Proof.Machine.execMatchUni k w64 d a s
  | .matchLead k w64 d a => Sys2Proof.Machine.execMatchLead k w64 d a s
  | .ld x w => Sys2Proof.Machine.execLd x w s
  | .st x w => Sys2Proof.Machine.execSt x w s
  | .ldc x f => Sys2Proof.Machine.execLdc x f s
  | .stc x => Sys2Proof.Machine.execStc x s
  | .spill x => Sys2Proof.Machine.execSpill x s
  | .fill x => Sys2Proof.Machine.execFill x s
  | .atomXchg x => Sys2Proof.Machine.execAtomXchg x s
  | .atomAdd x => Sys2Proof.Machine.execAtomAdd x s
  | .atomAnd x => Sys2Proof.Machine.execAtomAnd x s
  | .atomOr x => Sys2Proof.Machine.execAtomOr x s
  | .atomXor x => Sys2Proof.Machine.execAtomXor x s
  | .atomMin x => Sys2Proof.Machine.execAtomMin x s
  | .atomMax x => Sys2Proof.Machine.execAtomMax x s
  | .atomFadd x => Sys2Proof.Machine.execAtomFadd x s
  | .atomFmin x => Sys2Proof.Machine.execAtomFmin x s
  | .atomFmax x => Sys2Proof.Machine.execAtomFmax x s
  | .cas x => Sys2Proof.Machine.execCas x s
  | .atmsAdd x => Sys2Proof.Machine.execAtmsAdd x s
  | .atmsMin x => Sys2Proof.Machine.execAtmsMin x s
  | .atmsMax x => Sys2Proof.Machine.execAtmsMax x s
  | .atmsXchg x => Sys2Proof.Machine.execAtmsXchg x s
  | .atmsFadd x => Sys2Proof.Machine.execAtmsFadd x s
  | .atmsCas x => Sys2Proof.Machine.execAtmsCas x s
  | .mredLine x => Sys2Proof.Machine.execMredLine x s
  | .mredRet x => Sys2Proof.Machine.execMredRet x s
  | .pfL1 x => Sys2Proof.Machine.execPfL1 x s
  | .pfL2 x => Sys2Proof.Machine.execPfL2 x s
  | .pfMsc x => Sys2Proof.Machine.execPfMsc x s
  | .cmntWb x => Sys2Proof.Machine.execCmntWb x s
  | .cmntInv x => Sys2Proof.Machine.execCmntInv x s
  | .cmntIc x => Sys2Proof.Machine.execCmntIc x s
  | .tierPin x => Sys2Proof.Machine.execTierPin x s
  | .tierUnpin x => Sys2Proof.Machine.execTierUnpin x s
  | .tierPromoteHint x => Sys2Proof.Machine.execTierPromoteHint x s
  | .tierDemote x => Sys2Proof.Machine.execTierDemote x s
  | .tierStatusReturn op => Sys2Proof.Machine.execTierStatusReturn op s
  | .fnc k scope pred succ => Sys2Proof.Machine.execFnc k scope pred succ s
  | .mma x => Sys2Proof.Machine.execMma x s
  | .mlutB k n1 cf a b => Sys2Proof.Machine.execMlutB k n1 cf a b s
  | .mlutA x => Sys2Proof.Machine.execMlutA x s
  | .cnalAlloc k pD ty cf => Sys2Proof.Machine.execCnalAlloc k pD ty cf s
  | .cnalGrow k pD b => Sys2Proof.Machine.execCnalGrow k pD b s
  | .cnalGrowW k pD b => Sys2Proof.Machine.execCnalGrowW k pD b s
  | .canvasGrowGrant cl => Sys2Proof.Machine.execCanvasGrowGrant cl s
  | .cnalFree k cf => Sys2Proof.Machine.execCnalFree k cf s
  | .cnalTrim k b => Sys2Proof.Machine.execCnalTrim k b s
  | .cnz k cf => Sys2Proof.Machine.execCnz k cf s
  | .cnldMem x => Sys2Proof.Machine.execCnldMem x s
  | .cnldReg x => Sys2Proof.Machine.execCnldReg x s
  | .cnstMem x => Sys2Proof.Machine.execCnstMem x s
  | .cnstReg x => Sys2Proof.Machine.execCnstReg x s
  | .cnrowMax k cf r => Sys2Proof.Machine.execCnrowMax k cf r s
  | .cnrowSum k cf r => Sys2Proof.Machine.execCnrowSum k cf r s
  | .cnrowScl k cf r => Sys2Proof.Machine.execCnrowScl k cf r s
  | .cnrowCscl k cf r => Sys2Proof.Machine.execCnrowCscl k cf r s
  | .mwait k => Sys2Proof.Machine.execMwait k s
  | .mwaitM k cf => Sys2Proof.Machine.execMwaitM k cf s
  | .easelGrant cl => Sys2Proof.Machine.execEaselGrant cl s
  | .easelOpComplete cl => Sys2Proof.Machine.execEaselOpComplete cl s
  | .acpy x => Sys2Proof.Machine.execAcpy x s
  | .agth x => Sys2Proof.Machine.execAgth x s
  | .asct x => Sys2Proof.Machine.execAsct x s
  | .copyComplete op => Sys2Proof.Machine.execCopyComplete op s
  | .tkwAll k clr a => Sys2Proof.Machine.execTkwAll k clr a s
  | .tkwAny k clr d a => Sys2Proof.Machine.execTkwAny k clr d a s
  | .tkt k pD t => Sys2Proof.Machine.execTkt k pD t s
  | .tktErr k pD t => Sys2Proof.Machine.execTktErr k pD t s
  | .tktSt k d t => Sys2Proof.Machine.execTktSt k d t s
  | .evq k eng a => Sys2Proof.Machine.execEvq k eng a s
  | .eventRecordTake cl => Sys2Proof.Machine.execEventRecordTake cl s
  | .acolAllred x => Sys2Proof.Machine.execAcolAllred x s
  | .acolAllgath x => Sys2Proof.Machine.execAcolAllgath x s
  | .acolRedscat x => Sys2Proof.Machine.execAcolRedscat x s
  | .collectiveComplete comm rank => Sys2Proof.Machine.execCollectiveComplete comm rank s
  | .barArrive x => Sys2Proof.Machine.execBarArrive x s
  | .barWait x => Sys2Proof.Machine.execBarWait x s
  | .barSync x => Sys2Proof.Machine.execBarSync x s
  | .barrierArrivalForward grid n => Sys2Proof.Machine.execBarrierArrivalForward grid n s
  | .gate k => Sys2Proof.Machine.execGate k s
  | .rels k eng => Sys2Proof.Machine.execRels k eng s
  | .rtskSpawn k ap t a => Sys2Proof.Machine.execRtskSpawn k ap t a s
  | .rtskDone k => Sys2Proof.Machine.execRtskDone k s
  | .susp k scope rights ap a b => Sys2Proof.Machine.execSusp k scope rights ap a b s
  | .resm k scope ap pD a => Sys2Proof.Machine.execResm k scope ap pD a s
  | .resmJoin k scope ap pD a => Sys2Proof.Machine.execResmJoin k scope ap pD a s
  | .ccpy k rights sap dap a b c => Sys2Proof.Machine.execCcpy k rights sap dap a b c s
  | .cdsc k ap a => Sys2Proof.Machine.execCdsc k ap a s
  | .nop k => Sys2Proof.Machine.execNop k s
  | .csrRd x => Sys2Proof.Machine.execCsrRd x s
  | .csrWr x => Sys2Proof.Machine.execCsrWr x s
  | .csrSet x => Sys2Proof.Machine.execCsrSet x s
  | .csrClr x => Sys2Proof.Machine.execCsrClr x s
  | .trap k => Sys2Proof.Machine.execTrap k s
  | .brkp k => Sys2Proof.Machine.execBrkp k s
  | .rte k => Sys2Proof.Machine.execRte k s
  | .rteNx k => Sys2Proof.Machine.execRteNx k s
  | .stop k => Sys2Proof.Machine.execStop k s
  | .unassignedOpcode w0 w1 => Sys2Proof.Machine.execUnassignedOpcode w0 w1 s
  | .renewReceive die term => Sys2Proof.Machine.execRenewReceive die term s
  | .claimReceive die src term => Sys2Proof.Machine.execClaimReceive die src term s
  | .resultReturn gid idx lanes => Sys2Proof.Machine.execResultReturn gid idx lanes s
  | .trapEntry gid cause tval tvalh => Sys2Proof.Machine.execTrapEntry gid cause tval tvalh s
  | .groupStateLost gid part num => Sys2Proof.Machine.execGroupStateLost gid part num s
  | .regfileError gid reg lane corrected => Sys2Proof.Machine.execRegfileError gid reg lane corrected s
  | .memoryUnitError pa corrected => Sys2Proof.Machine.execMemoryUnitError pa corrected s
  | .groupRetire gid => Sys2Proof.Machine.execGroupRetire gid s
  | .launch w => Sys2Proof.Machine.execLaunch w s
  | .destroy w => Sys2Proof.Machine.execDestroy w s
  | .destroyF w => Sys2Proof.Machine.execDestroyF w s
  | .preempt w => Sys2Proof.Machine.execPreempt w s
  | .cutWrite ctx => Sys2Proof.Machine.execCutWrite ctx s
  | .restore w => Sys2Proof.Machine.execRestore w s
  | .gridDispatchStart grid => Sys2Proof.Machine.execGridDispatchStart grid s
  | .fairShareCharge die => Sys2Proof.Machine.execFairShareCharge die s
  | .workRequest req => Sys2Proof.Machine.execWorkRequest req s
  | .teamPrepare core => Sys2Proof.Machine.execTeamPrepare core s
  | .teamRunnable core => Sys2Proof.Machine.execTeamRunnable core s
  | .gridComplete grid => Sys2Proof.Machine.execGridComplete grid s
  | .mredPacketApply op idx => Sys2Proof.Machine.execMredPacketApply op idx s
  | .tierPromote vd obj => Sys2Proof.Machine.execTierPromote vd obj s
  | .tierPromotionComplete vd obj => Sys2Proof.Machine.execTierPromotionComplete vd obj s
  | .tierDemotionComplete vd obj => Sys2Proof.Machine.execTierDemotionComplete vd obj s
  | .tierFailure vd obj lost => Sys2Proof.Machine.execTierFailure vd obj lost s
  | .read die stack p => Sys2Proof.Machine.execRead die stack p s
  | .write die stack p => Sys2Proof.Machine.execWrite die stack p s
  | .atomic die stack p => Sys2Proof.Machine.execAtomic die stack p s
  | .reduce die stack p => Sys2Proof.Machine.execReduce die stack p s
  | .status die stack p => Sys2Proof.Machine.execStatus die stack p s
  | .packetReply die stack tag => Sys2Proof.Machine.execPacketReply die stack tag s
  | .backoffWindowEnd die stack bank => Sys2Proof.Machine.execBackoffWindowEnd die stack bank s
  | .rgctlWrite die stack val => Sys2Proof.Machine.execRgctlWrite die stack val s
  | .watchWrite die stack w val => Sys2Proof.Machine.execWatchWrite die stack w val s
  | .registerWrite r val => Sys2Proof.Machine.execRegisterWrite r val s
  | .meshFlitRetry a b => Sys2Proof.Machine.execMeshFlitRetry a b s
  | .updateApply die idx => Sys2Proof.Machine.execUpdateApply die idx s
  | .guestInvalidate die line => Sys2Proof.Machine.execGuestInvalidate die line s
  | .linkFail a b => Sys2Proof.Machine.execLinkFail a b s
  | .meshLaneSpare a b => Sys2Proof.Machine.execMeshLaneSpare a b s
  | .hostSnoop line => Sys2Proof.Machine.execHostSnoop line s
  | .hostMemRequest r => Sys2Proof.Machine.execHostMemRequest r s
  | .backInvalidate line req data => Sys2Proof.Machine.execBackInvalidate line req data s
  | .targetLost target ext => Sys2Proof.Machine.execTargetLost target ext s
  | .fwtcntWrite val => Sys2Proof.Machine.execFwtcntWrite val s
  | .commcntWrite val => Sys2Proof.Machine.execCommcntWrite val s
  | .netcntWrite val => Sys2Proof.Machine.execNetcntWrite val s
  | .tacccntWrite val => Sys2Proof.Machine.execTacccntWrite val s
  | .data p => Sys2Proof.Machine.execData p s
  | .ack p => Sys2Proof.Machine.execAck p s
  | .nack p => Sys2Proof.Machine.execNack p s
  | .abort p => Sys2Proof.Machine.execAbort p s
  | .resendTimeout comm src dst => Sys2Proof.Machine.execResendTimeout comm src dst s
  | .doorbell vd die slot => Sys2Proof.Machine.execDoorbell vd die slot s
  | .taskSigned vd die slot => Sys2Proof.Machine.execTaskSigned vd die slot s
  | .taskAck vd die slot => Sys2Proof.Machine.execTaskAck vd die slot s
  | .taskPacket bytes ecdsa lms => Sys2Proof.Machine.execTaskPacket bytes ecdsa lms s
  | .extentGrant base size tag holder => Sys2Proof.Machine.execExtentGrant base size tag holder s
  | .extentRelease base => Sys2Proof.Machine.execExtentRelease base s
  | .tlbiCtx c => Sys2Proof.Machine.execTlbiCtx c s
  | .tlbiVa c => Sys2Proof.Machine.execTlbiVa c s
  | .ctxsync c => Sys2Proof.Machine.execCtxsync c s
  | .dbgrel c => Sys2Proof.Machine.execDbgrel c s
  | .report c => Sys2Proof.Machine.execReport c s
  | .tlbiS2 c => Sys2Proof.Machine.execTlbiS2 c s
  | .vdreset c => Sys2Proof.Machine.execVdreset c s
  | .vdsave c => Sys2Proof.Machine.execVdsave c s
  | .vdload c => Sys2Proof.Machine.execVdload c s
  | .keygen c => Sys2Proof.Machine.execKeygen c s
  | .vdEnable vd => Sys2Proof.Machine.execVdEnable vd s
  | .remapUnmask vd n => Sys2Proof.Machine.execRemapUnmask vd n s
  | .powerOn => Sys2Proof.Machine.execPowerOn s
  | .trainingComplete die ok => Sys2Proof.Machine.execTrainingComplete die ok s
  | .neg => Sys2Proof.Machine.execNeg s
  | .recoveryImage img which => Sys2Proof.Machine.execRecoveryImage img which s
  | .svnRaise die => Sys2Proof.Machine.execSvnRaise die s
  | .rlbaseWrite val => Sys2Proof.Machine.execRlbaseWrite val s
  | .renew die => Sys2Proof.Machine.execRenew die s
  | .leaseLapse die => Sys2Proof.Machine.execLeaseLapse die s
  | .claim die => Sys2Proof.Machine.execClaim die s
  | .viral die => Sys2Proof.Machine.execViral die s
  | .clusterRepair die cl => Sys2Proof.Machine.execClusterRepair die cl s
  | .rowRepair die stack bank row => Sys2Proof.Machine.execRowRepair die stack bank row s
  | .pseudoChannelRepair die stack pc => Sys2Proof.Machine.execPseudoChannelRepair die stack pc s
  | .dataRateChange die stack => Sys2Proof.Machine.execDataRateChange die stack s
  | .getCertificate slot => Sys2Proof.Machine.execGetCertificate slot s
  | .challenge nonce => Sys2Proof.Machine.execChallenge nonce s
  | .getMeasurements nonce => Sys2Proof.Machine.execGetMeasurements nonce s
  | .lmsTranscriptSignature msg => Sys2Proof.Machine.execLmsTranscriptSignature msg s
  | .powerCapSet pct => Sys2Proof.Machine.execPowerCapSet pct s
  | .powerSample watts => Sys2Proof.Machine.execPowerSample watts s
  | .supplyOutOfRange millivolt => Sys2Proof.Machine.execSupplyOutOfRange millivolt s
  | .thermalSample die celsius => Sys2Proof.Machine.execThermalSample die celsius s
  | .cxlPortDown port => Sys2Proof.Machine.execCxlPortDown port s
  | .cxlPortUp port => Sys2Proof.Machine.execCxlPortUp port s
  | .leaderLeaseEnd die => Sys2Proof.Machine.execLeaderLeaseEnd die s
  | .backInvalidateResponse line holder => Sys2Proof.Machine.execBackInvalidateResponse line holder s
  | .notifyWrite w => Sys2Proof.Machine.execNotifyWrite w s
  | .canvasEntryError team cid idx corrected => Sys2Proof.Machine.execCanvasEntryError team cid idx corrected s
  | .teamStoreError team addr corrected => Sys2Proof.Machine.execTeamStoreError team addr corrected s

end Sys2Proof.Machine
end

