-- ==== Sys2Proof/Machine/Schedule.lean ====
section
/-! DEFINITION. What happens next when the schedule leaves it to the device (01 R27, R48, 16 R410; logs 1, 2): steps of the
device that are due, and the group that issues. -/

namespace Sys2Proof.Machine

-- Issue

/-- The context of a group runs it (R276, R310, R472): neither stopped nor cut, but for a `ccpy` that completes first. -/
def State.ctxRuns (s : State) (g : Group) : Bool :=
  match SMap.get? s.ctxs g.ctx, SMap.get? s.teams g.team with
  | some c, some t =>
    !c.stopped && !c.vstop && !s.mod.viral && !c.faults.any (fun f => s.cutHits g.ctx f.1 t) &&
      (match c.cut with
       | some k => g.wait == .ccpy || !s.cutHits g.ctx k.target t
       | none => true)
  | _, _ => false

/-- A group may be chosen to issue (R48). One that waits at issue is chosen again, and its instruction tries again. -/
def State.ready (s : State) (g : Group) : Bool :=
  g.halted.isNone && !g.parked && g.runMask != 0 && !g.atReturn && s.ctxRuns g &&
    (match SMap.get? s.teams g.team with | some t => !s.inShadow g.team t | none => false)

/-- A group fetches at its running path and issues the instruction there (R27, R47). -/
def State.issueGroup (s : State) (gid : Nat) : Res :=
  match SMap.get? s.groups gid with
  | none => .next s
  | some g =>
    if !s.ready g then .next s
    else match g.wait with
    | .raise c v h => .next (takeTrap s gid ⟨c, v, h⟩)
    | _ =>
      let f := s.fetch g gid g.runPc
      match f.2 with
      | .ok ws => match exec (decodeWords ws) { f.1 with cur := some gid } with
        | .next t => .next { t with cur := none }
        | .fault e => .fault e
        | .refused r => .refused r
      | .bad t s2 => .next (f.1.fetchTrap gid g t s2)
      | .tier o => .next (f.1.tierWait gid g o)

/-- The resident groups of a core by age (R410): numbers rise with age. -/
def State.groupsOn (s : State) (c : Nat) : List (Nat × Group) := s.groups.filter (fun e => e.2.core == c)

/-- The group waits in an instruction that has issued, and what it waits for has not come (R48). -/
def State.waiting (s : State) (gid : Nat) (g : Group) : Bool :=
  g.wait.issued && (match s.issueGroup gid with | .next t => decide (t = s) | _ => false)

/-- A group that the core's choice may take (R48). -/
def State.choosable (s : State) (e : Nat × Group) : Bool :=
  s.ready e.2 && !s.waiting e.1 e.2 && (e.2.pend.isEmpty || !s.reading e.2.team)

/-- The groups that a core may issue from next (R410): the other group of the clock that is under way, else the first two ready
ones at or after the pointer, wrapping round the list. -/
def State.pickOn (s : State) (c : Nat) : List Nat :=
  let l := ((s.groupsOn c).filter s.choosable).map (fun e => e.1)
  match (s.core c).pair.filter l.contains with
  | some k => [k]
  | none => (l.filter (fun k => (s.core c).ptr ≤ k) ++ l.filter (fun k => k < (s.core c).ptr)).take 2

/-- One of those groups takes its turn: a clock begins, and its pointer moves to the group after the later of its two, or it is
the clock's second instruction. -/
def State.takeTurn (s : State) (c gid : Nat) : State :=
  let l := s.pickOn c
  s.updCore c (fun x =>
    if x.pair == some gid then { x with pair := none }
    else { x with pair := (l.erase gid).head?, ptr := l.getLastD gid + 1 })

/-- The group that issues: the cores with a ready group take turns (log 2). -/
def State.pick (s : State) : Option (Nat × Nat) :=
  let cs := ((s.groups.filter s.choosable).map (fun e => e.2.core)).eraseDups
  (cs[s.turn % cs.length]?).bind (fun c => (s.pickOn c).head?.map (fun k => (c, k)))

/-- The group chosen issues, and its core's pointer moves on; outstanding results of the group return first (log 2). -/
def State.issueNext (s : State) : Option Res :=
  s.pick.map (fun x =>
    match SMap.get? s.groups x.2 with
    | some g =>
      if g.pend.isEmpty then ({ s.takeTurn x.1 x.2 with turn := s.turn + 1 }).issueGroup x.2
      else .next (s.updGroup x.2 (fun g => g.returnResult 0 0xFFFFFFFF))
    | none => .next s)

/-- A group issues where its core's choice falls on it (R410), and not otherwise. -/
def State.issueTurn (s : State) (gid : Nat) : Res :=
  match SMap.get? s.groups gid with
  | none => .next s
  | some g => if (s.pickOn g.core).contains gid then (s.takeTurn g.core gid).issueGroup gid else .next s

-- Steps of the device

/-- An owner-window command goes on, by OP (R424). -/
def cmdEvent (op : Nat) (c : OwnCmd) : State → State :=
  match op % 256 with
  | 0x01 => evTlbiCtx false c
  | 0x02 => evTlbiVa false c
  | 0x03 => evCtxsync false c
  | 0x04 => evDbgrel false c
  | 0x05 => evReport false c
  | 0x10 => evTlbiS2 false c
  | 0x11 => evVdreset false c
  | 0x12 => evVdsave false c
  | 0x13 => evVdload false c
  | 0x14 => evKeygen false c
  | o => evBadCmd false c o

/-- A request packet that waits is looked at again, by KIND (R387). -/
def pktEvent (w : NotifyWr) : State → State :=
  match (parsePkt w.bytes).kind with
  | 1 => evLaunch false w
  | 2 => evDestroy false 2 w
  | 3 => evDestroy false 3 w
  | 4 => evPreempt false w
  | _ => evRestore false w

/-- Commands, packets and cuts that wait (R310, R424, R433). -/
def State.dueOwner (s : State) : List (State → State) :=
  s.vds.flatMap (fun v =>
    (match v.2.cmds with | x :: _ => [cmdEvent x.1 x.2] | [] => []) ++
    (if v.2.reset == 2 then [evFlr v.1] else []) ++ v.2.queued.map pktEvent) ++
  (s.ctxs.filter (fun c => c.2.cut.isSome)).map (fun c => evCutWrite c.1)

/-- Updates, ports and tiers (R289, R361-R376). -/
def State.dueMemory (s : State) : List (State → State) :=
  s.dies.flatMap (fun d => (List.range d.2.upd.length).map (fun i => evUpdateApply d.1 i)) ++
  s.hbms.flatMap (fun k =>
    k.2.q.map (fun x s => if qKind x.1 == 5 then evStatus (k.1 / 2) (k.1 % 2) x.2 s
                          else s.portPacket (qKind x.1) (k.1 / 2) (k.1 % 2) x.2) ++
    (match k.2.replies with | r :: _ => [evPacketReply (k.1 / 2) (k.1 % 2) r.2.1.tag] | [] => []) ++
    (SMap.keys k.2.wins).map (fun b => evBackoffWindowEnd (k.1 / 2) (k.1 % 2) b)) ++
  s.vds.flatMap (fun v => v.2.objs.flatMap (fun o =>
    (if o.2.waiters.isEmpty && o.2.queue.isEmpty then [] else [evTierPromote v.1 o.1]) ++
    [evTierPromotionComplete v.1 o.1, evTierDemotionComplete v.1 o.1]))

/-- Repairs whose trigger has come (R473). -/
def State.dueRepairs (s : State) : List (State → State) :=
  (s.clusters.filter (fun c => 64 ≤ c.2.corr.length && !c.2.retired)).map (fun c => evClusterRepair (c.1 / 32) (c.1 % 32)) ++
  s.hbms.flatMap (fun k =>
    (k.2.rowCorr.filter (fun r => 16 ≤ r.2)).map (fun r => evRowRepair (k.1 / 2) (k.1 % 2) (r.1 / 8192) (r.1 % 8192)) ++
    (k.2.rowBad.map rowPc).eraseDups.map (fun p => evPseudoChannelRepair (k.1 / 2) (k.1 % 2) p))

/-- Results and the ends of groups (R94, R177, R181). -/
def State.dueGroups (s : State) : List (State → State) :=
  s.groups.flatMap (fun g =>
    (if g.2.pend.isEmpty then [] else [evResultReturn g.1 0 0xFFFFFFFF]) ++ [evCompactReturn g.1, evGroupRetire g.1])

/-- Engines (R208, R222, R226, R242, R251, R458). -/
def State.dueEngines (s : State) : List (State → State) :=
  s.aops.flatMap (fun o => match o.2.kind with
    | .copy .. => [evCopyComplete o.1]
    | k => (List.range (AKind.pkts k).length).map (fun j => evMredPacketApply o.1 j)) ++
  (SMap.keys s.tops).map (fun o => evTierStatusReturn o) ++
  s.clusters.flatMap (fun c =>
    (if c.2.ops.isEmpty then [] else [evEaselGrant c.1, evEaselOpComplete c.1]) ++
    (if c.2.grows.isEmpty then [] else [evCanvasGrowGrant c.1]) ++
    (if c.2.evq.isEmpty then [] else [evEventRecordTake c.1])) ++
  s.mod.colls.flatMap (fun c => c.ranks.map (fun r => evCollectiveComplete c.comm r.rank)) ++
  (s.mod.tasks.filter (fun t => t.2.st == .signing)).map (fun t =>
    evTaskSigned (t.1 / 65 / 16 % 256) (t.1 / 65 % 16) (64 * (t.1 / 65 / 16 / 256) + t.1 % 65)) ++
  (if s.mod.taskQ.isEmpty then [] else [State.taskDrain])

/-- The dispatcher (R393-R409). -/
def State.dueGrids (s : State) : List (State → State) :=
  s.grids.flatMap (fun g => [evGridDispatchStart g.1, evGridComplete g.1] ++
    (List.range g.2.fwd.length).map (fun n => evBarrierArrivalForward g.1 n)) ++
  ((s.cores.filter (fun c => !c.2.shadow.isEmpty)).map (fun c => evTeamRunnable c.1)) ++
  (List.range s.mod.dies).flatMap (fun d =>
    let ps := s.grids.filter (fun g => g.2.parts.any (fun p => p.die == d && p.st == .dispatching && !p.ranges.isEmpty))
    if ps.isEmpty then []
    else (List.range 128).map (fun c => evTeamPrepare (d * 128 + c)) ++
      (if ps.any (fun g => g.2.desc.n != 1) then (List.range 32).map (fun k => evWorkRequest (65536 + d * 32 + k)) else []) ++
      (if ps.any (fun g => g.2.desc.n == 1) then (List.range 128).map (fun c => evWorkRequest (d * 128 + c)) else []))

/-- The first step of a list that changes the state. -/
def firstEvent (s : State) : List (State → State) → Option State
  | [] => none
  | f :: fs => let t := f s
    if t = s then firstEvent s fs else some t

/-- A list read from its `k`-th place on, round its end. -/
def rotated {α : Type} (k : Nat) (l : List α) : List α := l.drop (k % l.length) ++ l.take (k % l.length)

/-- A step of the device that is due, if there is one; the kinds of step, and the steps of a kind, take turns to be looked at first,
so that none of them waits without end. A module that has power and has not started starts (R462). -/
def State.autoEvent (s : State) : Option State :=
  if s.mod.resets == 0 then some (evPowerOn s)
  else
    let k := s.clk / 2
    firstEvent s ((rotated k [s.dueOwner, s.dueMemory, s.dueRepairs, s.dueGroups, s.dueEngines, s.dueGrids]).flatMap (rotated (k / 6)))

/-- What happens with nothing on the agenda: a due step of the device and a group's issue take turns; with neither,
nothing happens (log 2). -/
def State.idleStep (s : State) : Res :=
  let s := if s.clk % 4096 == 0 then s.chargeAll else s
  if s.clk % 2 == 0 then
    match s.autoEvent with
    | some t => .next t
    | none => s.issueNext.getD (.next s)
  else
    match s.issueNext with
    | some r => r
    | none => .next (s.autoEvent.getD s)

/-- A move of the agenda: an issue, or an event, which is no group's. -/
def State.move (s : State) : Move → Res
  | .issue gid => s.issueTurn gid
  | .part gid k => match State.issueTurn { s with lim := some k } gid with
    | .next t => .next { t with lim := none }
    | r => r
  | .event i => exec i { s with cur := none }

end Sys2Proof.Machine
end

