-- ==== Sys2Proof/Machine/Step.lean ====
section
/-! DEFINITION. One step of the machine, and where the host places an instruction for it to run. -/

namespace Sys2Proof.Machine

/-- Nothing runs without power but the move that brings it back (R478, R481). -/
def State.mayMove (s : State) : Bool :=
  s.mod.power || s.agenda.head? == some (.event .powerOn)

/-- One step: the next move of the agenda, or what the device does by itself. -/
def step (s : State) : Host.Outcome State Fault Refusal :=
  if !s.mayMove then .fault .noPower
  else
    match s.agenda with
    | m :: rest => ({ s with clk := s.clk + 1, agenda := rest }).move m
    | [] => ({ s with clk := s.clk + 1 }).idleStep

/-- The group that the host's instruction runs in: 32 active lanes at PC 0 of a code aperture of its own, with the
largest budgets. -/
def hostGroup (tid : Nat) : Group :=
  { team := tid, slot := 0, core := 0, ctx := 0, id := ⟨0, 0, 0, 0, 0, 1, 1, 1, 32, 1, 1⟩, vb := 192, sn := 60
    lanes := lanes32.map (fun _ => ⟨.active, 0, 0, [], 1, 0, none, false, 0⟩), s := [], ap := List.replicate 7 0
    toks := List.replicate 16 Tok.init, stack := [], prog := 0, tvec := 0, tcause := 0, tpc := 0, tval := 0, tvalh := 0
    code := 0xFFFF, desc := 0, rmode := 0, fflags := 0, lsel := 0, inH := false, hDepth := 0, wT := [], wC := [], wG := []
    released := false, pend := [], eres := [], parked := false, wait := .no, held := none, halted := none, key := none, fresh := true
    born := tid }

/-- The team of that group. -/
def hostTeam : Team :=
  { grid := 0, lin := 0, curve := 0, rank := 0, block := 0, core := 0, g := 1, sp := 0, p := 0, c := 0, vbN := 24, vbP := 0
    vbC := 0, sregs := 60, scratch := 0, canvas := 0, shX := 32, shY := 1, shZ := 1, span := 1, fuse := false, tsBase := 0
    bars := [], pool := 0, binds := [], det := false, rel := false, suspd := 0, cores := [0] }

/-- The translation of the code aperture of that group: its 64 KiB lie at physical address 0. -/
def hostTlb : TlbE := ⟨0, vaOf 0xFFFF 0, 65536, 0, 0, true, false, true, false, false, 0, none⟩

/-- `s` with an instruction placed where the next step fetches: a team with one group on core 0 of die 0, in context 0,
whose code page is physical address 0; the group is the schedule's next move. -/
def State.withFetchWord (s : State) (nbits w : Nat) : State :=
  let tid := s.nid
  let gid := s.nid + 1
  let s1 := s.updCore 0 (fun c => { c with
    ptr := gid, pair := none, tlb := hostTlb :: c.tlb, ic := SMap.del c.ic 0, shadow := c.shadow.filter (fun x => x.team != tid) })
  { s1 with
    mem := Memory.putBytes s1.mem 0 (leBytes 32 (w % 2 ^ nbits))
    poison := SMap.del s1.poison 0
    keyOf := SMap.del s1.keyOf 0
    nid := s.nid + 2
    agenda := .issue gid :: s.agenda
    teams := SMap.put s1.teams tid hostTeam
    groups := SMap.put s1.groups gid (hostGroup tid)
    ctxs := SMap.put s1.ctxs 0 ⟨0, 0, false, false, none, false, false, [], []⟩
    mod := { s1.mod with power := true, viral := false } }

end Sys2Proof.Machine
end

