-- ==== Sys2Proof/Safety.lean ====
section
/-! DEFINITION. The terms in which claims about the machine are stated: a group that issues, what its registers
hold once outstanding results are back, and what an instruction leaves unchanged. -/

namespace Sys2Proof.Machine

/-- Registers and predicates of a group: each lane's vector registers and predicates, and the scalar registers. -/
def Group.regs (g : Group) : List (SMap Image × BitVec 7) × SMap Image := (g.lanes.map (fun l => (l.v, l.pr)), g.s)

/-- One write on registers and predicates (R95). -/
def RegW.onRegs (r : List (SMap Image × BitVec 7) × SMap Image) : RegW → List (SMap Image × BitVec 7) × SMap Image
  | .v l n i => (updAt r.1 l (fun x => (SMap.set x.1 Image.zero n i, x.2)), r.2)
  | .s n i => (r.1, SMap.set r.2 Image.zero n i)
  | .p l k b => (updAt r.1 l (fun x => (x.1, setPred x.2 k b)), r.2)
  | .o _ _ => r

/-- What the registers hold once every outstanding result has returned, in program order (R95, R97), but for the status of a
`tier` operation that is not known yet (R213). -/
def Group.final (g : Group) : List (SMap Image × BitVec 7) × SMap Image := g.settleResults.regs

/-- A lane but for its state. -/
def Lane.still (l : Lane) : Lane := { l with st := .active }

/-- The group `gid`, which is `g`, issues a form with common fields `k` and register ranges `rs`: lanes run, the
ranges lie within its budgets, fewer than 32 results of `tier` operations are outstanding (R98), the guard lets it execute (R24,
R27, R90), and the schedule ends no long instruction between two steps. -/
structure Issues (s : State) (gid : Nat) (g : Group) (k : Com) (rs : List (Opnd × Nat)) : Prop where
  cur : s.cur = some gid
  grp : SMap.get? s.groups gid = some g
  run : g.runMask ≠ 0
  ranges : rs.all g.inRange = true
  owed : g.owed.length < 32
  executes : (GCtx.make g k).executes = true
  lim : s.lim = none

/-- What a completed register form leaves: in the group the writes `o.w`, the `%rng` steps, the flags and the PCs of the
lanes that issued; outside it the flags of home groups, the counters of R397 and R436 and marks of the easel and of
`tier` operations that an overwritten register carries (R95, R412). -/
structure RegDone (s t : State) (gid : Nat) (g g' : Group) (k : Com) (o : Out) : Prop where
  grp : SMap.get? t.groups gid = some g'
  regs : g'.final = o.w.foldl RegW.onRegs g.final
  pcs : ∀ l, (g'.lane l).pc = if inMask g.runMask l then (g.lane l).pc + comBytes k else (g.lane l).pc
  rngs : g'.lanes.map (fun l => l.rng) = o.rng.foldl (fun r x => updAt r x.1 (fun _ => x.2)) (g.lanes.map (fun l => l.rng))
  flags : g.compacted = false → g'.fflags = g.fflags ||| orFlags (o.fl.map (fun x => x.2))
  prog : g'.prog = if g.inH then g.prog else 0
  wait : g'.wait = .no
  rest : { g' with lanes := g.lanes, s := g.s, stack := g.stack, prog := g.prog, fflags := g.fflags, pend := g.pend,
                   parked := g.parked, wait := g.wait, held := g.held, fresh := g.fresh } = g
  others : ∀ j, j ≠ gid → (SMap.get? t.groups j).map (fun h => { h with fflags := 0 }) =
    (SMap.get? s.groups j).map (fun h => { h with fflags := 0 })
  outside : { t with groups := s.groups, grids := s.grids, dies := s.dies, clusters := s.clusters } = s

/-- A register form (chapters 04, 05, 06): its common fields, the register ranges it names and what it computes. -/
def regForm : Instr → Option (Com × List (Opnd × Nat) × GBody)
  | .iadd x => some ⟨x.k, (irs x x.ty.regs x.ty.regs x.ty.regs 0), (opAdd x)⟩
  | .isub x => some ⟨x.k, (irs x x.ty.regs x.ty.regs x.ty.regs 0), (opSub x)⟩
  | .imulLo x => some ⟨x.k, (irs x x.ty.regs x.ty.regs x.ty.regs 0), (opMulLo x)⟩
  | .imulHi x => some ⟨x.k, (irs x x.ty.regs x.ty.regs x.ty.regs 0), (opMulHi x)⟩
  | .imulWide x => some ⟨x.k, (irs x 2 1 1 0), (opMulWide x)⟩
  | .imad x => some ⟨x.k, (irs x x.ty.regs x.ty.regs x.ty.regs x.ty.regs), (opMad x)⟩
  | .imadWide x => some ⟨x.k, (irs x 2 1 1 2), (opMadWide x)⟩
  | .idiv x => some ⟨x.k, (irs x x.ty.regs x.ty.regs x.ty.regs 0), (opDiv x)⟩
  | .irem x => some ⟨x.k, (irs x x.ty.regs x.ty.regs x.ty.regs 0), (opRem x)⟩
  | .imin x => some ⟨x.k, (irs x x.ty.regs x.ty.regs x.ty.regs 0), (opMin x)⟩
  | .imax x => some ⟨x.k, (irs x x.ty.regs x.ty.regs x.ty.regs 0), (opMax x)⟩
  | .iabs x => some ⟨x.k, (irs x x.ty.regs x.ty.regs 0 0), (opAbs x)⟩
  | .ineg x => some ⟨x.k, (irs x x.ty.regs x.ty.regs 0 0), (opNeg x)⟩
  | .addc x => some ⟨x.k, [(x.d, 1), (x.a, 1), (x.b, 1)], (opCarry false x)⟩
  | .subb x => some ⟨x.k, [(x.d, 1), (x.a, 1), (x.b, 1)], (opCarry true x)⟩
  | .lop x tt => some ⟨x.k, (irs x x.ty.regs x.ty.regs x.ty.regs x.ty.regs), (opLop x tt)⟩
  | .shl x => some ⟨x.k, (irs x x.ty.regs x.ty.regs x.ty.regs 0), (shiftForm x shlW)⟩
  | .shr x => some ⟨x.k, (irs x x.ty.regs x.ty.regs x.ty.regs 0), (shiftForm x shrW)⟩
  | .sra x => some ⟨x.k, (irs x x.ty.regs x.ty.regs x.ty.regs 0), (shiftForm x sraW)⟩
  | .rotl x => some ⟨x.k, (irs x x.ty.regs x.ty.regs x.ty.regs 0), (shiftForm x rotlW)⟩
  | .rotr x => some ⟨x.k, (irs x x.ty.regs x.ty.regs x.ty.regs 0), (shiftForm x rotrW)⟩
  | .shfWin x => some ⟨x.k, (irs x 1 1 1 1), (opShf false x)⟩
  | .shfRot x => some ⟨x.k, (irs x 1 1 1 1), (opShf true x)⟩
  | .clz x => some ⟨x.k, (irs x 1 x.ty.regs 0 0), (bitForm x 1 clzW)⟩
  | .ctz x => some ⟨x.k, (irs x 1 x.ty.regs 0 0), (bitForm x 1 ctzW)⟩
  | .popc x => some ⟨x.k, (irs x 1 x.ty.regs 0 0), (bitForm x 1 popW)⟩
  | .cls x => some ⟨x.k, (irs x 1 x.ty.regs 0 0), (bitForm x 1 clsW)⟩
  | .brev x => some ⟨x.k, (irs x x.ty.regs x.ty.regs 0 0), (bitForm x x.ty.regs brevW)⟩
  | .bswap x => some ⟨x.k, (irs x x.ty.regs x.ty.regs 0 0), (bitForm x x.ty.regs bswapW)⟩
  | .bfxU x => some ⟨x.k, (irs x x.ty.regs x.ty.regs x.ty.regs 0), (opBfx false x)⟩
  | .bfxS x => some ⟨x.k, (irs x x.ty.regs x.ty.regs x.ty.regs 0), (opBfx true x)⟩
  | .bfi x => some ⟨x.k, (irs x x.ty.regs x.ty.regs x.ty.regs x.ty.regs), (opBfi x)⟩
  | .prmt x => some ⟨x.k, (irs x 1 1 1 1), (opPrmt x)⟩
  | .lea x n => some ⟨x.k, (irs x 2 2 x.ty.regs 1), (opLea x n)⟩
  | .idpDp4 x sa sb => some ⟨x.k, (irs x 1 1 1 1), (opIdp 4 8 sa sb x)⟩
  | .idpDp2 x => some ⟨x.k, (irs x 1 1 1 1), (opIdp 2 16 true true x)⟩
  | .sad x => some ⟨x.k, (irs x 1 1 1 1), (opSad x)⟩
  | .cvti x dt e => some ⟨x.k, (irs x dt.regs x.ty.regs 0 0), (opCvti x dt e)⟩
  | .mov x => some ⟨x.k, (irs x 1 1 0 0), (copyLane x.d x.a 1)⟩
  | .mov64 x => some ⟨x.k, (irs x 2 2 0 0), (copyLane x.d x.a 2)⟩
  | .movl x => some ⟨x.k, (irs x 1 0 0 0), (opMovl 1 x)⟩
  | .movl64 x => some ⟨x.k, (irs x 2 0 0 0), (opMovl 2 x)⟩
  | .sel x p => some ⟨x.k, (irs x 1 1 1 0), (opSel 1 x p)⟩
  | .sel64 x p => some ⟨x.k, (irs x 2 2 2 0), (opSel 2 x p)⟩
  | .icmp x ty cc => some ⟨x.k, [(x.a, ty.regs), (x.b, ty.regs)], (opIcmp x ty cc)⟩
  | .plop k tt pD pA pB pC => some ⟨k, [], (opPlop tt pD pA pB pC)⟩
  | .voteSome x => some ⟨x.k, [(x.d, 1)], (opVoteSome x)⟩
  | .voteEvery x => some ⟨x.k, [(x.d, 1)], (opVoteEvery x)⟩
  | .voteSame x => some ⟨x.k, [(x.d, 1)], (opVoteSame x)⟩
  | .voteMask x => some ⟨x.k, [(x.d, 1)], (opVoteMask x)⟩
  | .voteCount x => some ⟨x.k, [(x.d, 1)], (opVoteCount x)⟩
  | .voteFirst x => some ⟨x.k, [(x.d, 1)], (opVoteFirst x)⟩
  | .pmovGet k d => some ⟨k, [(d, 1)], (opPmovGet d)⟩
  | .pmovSet k mask a => some ⟨k, [(a, 1)], (opPmovSet mask a)⟩
  | .bcast x => some ⟨x.k, (irs x 1 1 0 0), (copyLane x.d x.a 1)⟩
  | .bcast64 x => some ⟨x.k, (irs x 2 2 0 0), (copyLane x.d x.a 2)⟩
  | .rdlane x => some ⟨x.k, (irs x 1 1 1 1), (opRdlane 1 x)⟩
  | .rdlane64 x => some ⟨x.k, (irs x 2 2 1 2), (opRdlane 2 x)⟩
  | .fadd x => some ⟨x.k, (frs x x.ft.regs x.ft.regs x.ft.regs 0), (opFadd x)⟩
  | .fsub x => some ⟨x.k, (frs x x.ft.regs x.ft.regs x.ft.regs 0), (opFsub x)⟩
  | .fmul x => some ⟨x.k, (frs x x.ft.regs x.ft.regs x.ft.regs 0), (opFmul x)⟩
  | .ffma x => some ⟨x.k, (frs x x.ft.regs x.ft.regs x.ft.regs x.ft.regs), (opFma x)⟩
  | .fmin x => some ⟨x.k, (frs x x.ft.regs x.ft.regs x.ft.regs 0), (opMinMax ⟨false, false⟩ x)⟩
  | .fmax x => some ⟨x.k, (frs x x.ft.regs x.ft.regs x.ft.regs 0), (opMinMax ⟨true, false⟩ x)⟩
  | .fminnum x => some ⟨x.k, (frs x x.ft.regs x.ft.regs x.ft.regs 0), (opMinMax ⟨false, true⟩ x)⟩
  | .fmaxnum x => some ⟨x.k, (frs x x.ft.regs x.ft.regs x.ft.regs 0), (opMinMax ⟨true, true⟩ x)⟩
  | .fdiv x => some ⟨x.k, (frs x x.ft.regs x.ft.regs x.ft.regs 0), (opFdiv x)⟩
  | .fsqrt x => some ⟨x.k, (frs x x.ft.regs x.ft.regs 0 0), (opFsqrt x)⟩
  | .frcpRcp x => some ⟨x.k, (frs x x.ft.regs x.ft.regs 0 0), (opFrcp false x)⟩
  | .frcpRsq x => some ⟨x.k, (frs x x.ft.regs x.ft.regs 0 0), (opFrcp true x)⟩
  | .fsfuExp2 x => some ⟨x.k, (frs x x.ft.regs x.ft.regs 0 0), (opFsfu .exp2 x)⟩
  | .fsfuLog2 x => some ⟨x.k, (frs x x.ft.regs x.ft.regs 0 0), (opFsfu .log2 x)⟩
  | .fsfuSin x => some ⟨x.k, (frs x x.ft.regs x.ft.regs 0 0), (opFsfu .sin x)⟩
  | .fsfuCos x => some ⟨x.k, (frs x x.ft.regs x.ft.regs 0 0), (opFsfu .cos x)⟩
  | .fsfuTanh x => some ⟨x.k, (frs x x.ft.regs x.ft.regs 0 0), (opFsfu .tanh x)⟩
  | .hdot2F16 x => some ⟨x.k, (frs x 1 1 1 1), (opHdot2 .f16x2 x)⟩
  | .hdot2Bf16 x => some ⟨x.k, (frs x 1 1 1 1), (opHdot2 .bf16x2 x)⟩
  | .fscale x => some ⟨x.k, (frs x x.ft.regs x.ft.regs x.ft.regs 0), (opFscale x)⟩
  | .fxtrExp x => some ⟨x.k, (frs x 1 x.ft.regs 0 0), (opXtrExp x)⟩
  | .fxtrSig x => some ⟨x.k, (frs x x.ft.regs x.ft.regs 0 0), (opXtrSig x)⟩
  | .frnd x => some ⟨x.k, [(x.d, x.ft.regs), (x.a, x.ft.regs)], (opFrnd x)⟩
  | .fcmpX x ft ma mb cc => some ⟨x.k, [(x.a, ft.regs), (x.b, ft.regs)], (opFcmp x ft ma mb cc none)⟩
  | .fcmpR x ft ma mb cc rm => some ⟨x.k, [(x.a, ft.regs), (x.b, ft.regs)], (opFcmp x ft ma mb cc (some rm))⟩
  | .fclass x => some ⟨x.k, (frs x 1 x.ft.regs 0 0), (opFclass x)⟩
  | .fclassP k ft pD a b => some ⟨k, [(a, ft.regs), (b, 1)], (opFclassP ft pD a b)⟩
  | .fcvt k df sf e d a b => some ⟨k, [(d, df.regs), (a, sf.regs), (b, if df.packed && !sf.packed then sf.regs else 0)], (opFcvt df sf e d a b)⟩
  | .icvtf k df st d a b => let n := if st.toNat < 2 then 1 else 2; some ⟨k, [(d, df.regs), (a, n), (b, if df.packed then n else 0)], (opIcvtf df st d a b)⟩
  | .fcvti x dt sat e => some ⟨x.k, [(x.d, if dt.toNat < 2 then 1 else 2), (x.a, x.ft.regs)], (opFcvti x dt sat e)⟩
  | .fin x => some ⟨x.k, [(x.d, x.ft.regs), (x.a, x.ft.regs)], (opFin x)⟩
  | .glzGet x => some ⟨x.k, (frs x 1 x.ft.regs 0 0), (opGlzGet x)⟩
  | .glzSet x => some ⟨x.k, (frs x x.ft.regs x.ft.regs 1 0), (opGlzSet x)⟩
  | .glzClr x => some ⟨x.k, (frs x x.ft.regs x.ft.regs 0 0), (opGlzClr x)⟩
  | .glzTest k ft pD a => some ⟨k, [(a, ft.regs)], (opGlzTest ft pD a)⟩
  | .mxsc k ef d a => some ⟨k, [(d, 1), (a, 1)], (opMxsc ef d a)⟩
  | .fpk k ef rm sat scm d a b c => some ⟨k, [(d, 1), (a, 1), (b, 1), (c, 1)], (opFpk ef rm sat scm d a b c)⟩
  | .fupk k ef scm d a b => some ⟨k, [(d, 1), (a, 1), (b, 1)], (opFupk ef scm d a b)⟩
  | .rng k d => some ⟨k, [(d, 1)], (opRng d)⟩
  | .lmap k d => some ⟨k, [(d, 1)], (opLmap d)⟩
  | .lmapRd k d b => some ⟨k, [(d, 1), (b, 1)], (opLmapRd d b)⟩
  | .shflSel x => some ⟨x.k, (shrs x), (opShfl shSel x)⟩
  | .shflSlide x => some ⟨x.k, (shrs x), (opShfl shSlide x)⟩
  | .shflRot x => some ⟨x.k, (shrs x), (opShfl shRot x)⟩
  | .shflFlip x => some ⟨x.k, (shrs x), (opShfl shFlip x)⟩
  | .redux k op d a => some ⟨k, [(d, redRegs op), (a, redRegs op)], (opRedux op d a)⟩
  | .scan k op ex d a => some ⟨k, [(d, redRegs op), (a, redRegs op)], (opScan op ex d a)⟩
  | .isectM k pD a b => some ⟨k, [(a, 1), (b, 1)], (opIsectM pD a b)⟩
  | .isectIx k d a b => some ⟨k, [(d, 1), (a, 1), (b, 1)], (opIsectIx d a b)⟩
  | .isectAdv k d a b => some ⟨k, [(d, 1), (a, 1), (b, 1)], (opIsectAdv d a b)⟩
  | .vsortAsc k kt d a b => some ⟨k, [(d, 2), (a, 1), (b, 1)], (opVsort false kt d a b 5)⟩
  | .vsortDesc k kt d a b => some ⟨k, [(d, 2), (a, 1), (b, 1)], (opVsort true kt d a b 5)⟩
  | .matchPeers k w64 d a => some ⟨k, [(d, 1), (a, if w64 then 2 else 1)], (opPeers w64 d a)⟩
  | .matchUni k w64 d a => some ⟨k, [(d, 1), (a, if w64 then 2 else 1)], (opUni w64 d a)⟩
  | .matchLead k w64 d a => some ⟨k, [(d, 1), (a, if w64 then 2 else 1)], (opLead w64 d a)⟩
  | _ => none

/-- Issued by any group, the instruction completes, and once all results are back the registers hold what they held
before with the writes `w` made last (R95). -/
def Computes (s : State) (i : Instr) (k : Com) (rs : List (Opnd × Nat)) (w : GCtx → List RegW) : Prop :=
  ∀ gid g, Issues s gid g k rs → ∃ t g', exec i s = .next t ∧ SMap.get? t.groups gid = some g' ∧
    g'.final = (w (GCtx.make g k)).foldl RegW.onRegs g.final

/-- The writes of an integer form: in each lane that executes, `n` images of zero glaze that hold the number `r`, poisoned
when a source register is (R22, R23, R116). -/
def intWrites (x : IArgs) (n na nb nc : Nat) (r : GCtx → Nat → Nat) (c : GCtx) : List RegW :=
  c.ls.flatMap (fun l => c.wr x.d l
    (plainImgs n (c.pois x.a l na || c.pois x.b l nb || c.pois x.c l nc) (r c l)))

/-- An elementwise integer rule: every element of the result is the exact value `f` of the elements of the sources,
modulo 2^w, or clamped to the type's range under SAT (R116). -/
def ArithRule (i : Instr) (x : IArgs) (nb nc : Nat) (f : Int → Int → Int → Int) : Prop :=
  let n := x.ty.regs
  let w := x.ty.width
  i.wf = true → ∀ s, ∃ r : GCtx → Nat → Nat,
    Computes s i x.k (irs x n n nb nc) (intWrites x n n nb nc r) ∧
    ∀ c l j, j < x.ty.elems →
      let v := f (ival x.ty (elem w j (c.data x.a l n))) (ival x.ty (elem w j (c.data x.b l nb)))
        (ival x.ty (elem w j (c.data x.c l nc)))
      (x.sat = false → (((elem w j (r c l) : Nat) : Int) - v) % (2 : Int) ^ w = 0) ∧
      (x.sat = true → ival x.ty (elem w j (r c l)) = max (intMin x.ty.signed w) (min (intMax x.ty.signed w) v))

/-- An elementwise rule on the bits of the first source, one count for all elements (R125, R127). -/
def BitRule (i : Instr) (x : IArgs) (nb : Nat) (f : (w : Nat) → BitVec w → Nat → BitVec w) : Prop :=
  let n := x.ty.regs
  let w := x.ty.width
  ∀ s, ∃ r : GCtx → Nat → Nat, Computes s i x.k (irs x n n (if nb == 0 then 0 else n) 0) (intWrites x n n nb 0 r) ∧
    ∀ c l j, j < x.ty.elems →
      elem w j (r c l) = (f w (BitVec.ofNat w (elem w j (c.data x.a l n))) (c.data x.b l nb)).toNat

/-- The state after an instruction whose own effect on `s` is `s'` and which then goes on at the next instruction. -/
def completed (s : State) (gid : Nat) (g : Group) (k : Com) (s' : State) : State :=
  finish s gid (GCtx.make g k) (.done s')

/-- The state after an instruction whose own effect on `s` is `s'`, the PCs of its lanes included. -/
def jumped (s : State) (gid : Nat) (g : Group) (k : Com) (s' : State) : State :=
  finish s gid (GCtx.make g k) (.jump s')

/-- The state in which the group of an instruction waits, its effect so far on the state being `s`. -/
def waited (s : State) (gid : Nat) (g : Group) (k : Com) (w : Wait) : State :=
  s.updGroup gid (fun h => h.waits w (GCtx.make g k).g)

/-- Every lane's access passes its check (R194, R195). -/
def passes (s : State) (gid : Nat) (g : Group) (sp : AccessSpec) (code : BitVec 3) (n : Nat) (ls : List Nat)
    (off : Nat → DWord) : Prop := ∀ l ∈ ls, ∃ gs es, s.chk g gid sp code (off l) n = .ok gs es

/-- The translations of a passed check. -/
def Chk.tlbs : Chk → List TlbE
  | .ok _ es => es
  | _ => []

/-- The stretches that each lane's access reaches. -/
def laneSegs (s : State) (gid : Nat) (g : Group) (sp : AccessSpec) (code : BitVec 3) (n : Nat) (ls : List Nat)
    (off : Nat → DWord) : List (Nat × List Seg) := ls.map (fun l => (l, (s.chk g gid sp code (off l) n).segs))

/-- The state with the translations of the lanes' accesses cached (R426). -/
def withTlbs (s : State) (gid : Nat) (g : Group) (sp : AccessSpec) (code : BitVec 3) (n : Nat) (ls : List Nat)
    (off : Nat → DWord) : State := s.tlbFills g.core (ls.flatMap (fun l => (s.chk g gid sp code (off l) n).tlbs))

/-- No host holds a line that the lanes' accesses write (R444). -/
def unheld (s : State) (gid : Nat) (g : Group) (sp : AccessSpec) (code : BitVec 3) (n : Nat) (ls : List Nat)
    (off : Nat → DWord) : Prop := s.hostLines (ls.flatMap (fun l => (s.chk g gid sp code (off l) n).segs)) = []

/-- No write that the lanes' accesses must see first waits for a host (R289, R444); `direct` says that they are performed at
the homes themselves. -/
def reaches (s : State) (gid : Nat) (g : Group) (sp : AccessSpec) (code : BitVec 3) (n : Nat) (ls : List Nat)
    (off : Nat → DWord) (direct : Bool) : Prop :=
  s.reachAll g.core direct (ls.flatMap (fun l => (s.chk g gid sp code (off l) n).segs)) = true

/-- An access with an order mark has nothing to wait for: the accesses it follows are performed, and no write that it must
bring to its home, or all dies must agree on, waits for a host (R197, R287, R290, R444). -/
def orderReady (s : State) (gid : Nat) (g : Group) (ord : MOrd) (sc : Scope) (cls : Nat) : Prop :=
  let all : Bool := ord == .sc && Scope.wider sc
  let s1 := if MOrd.isRel ord then s.fence g sc ordSet (1#8 <<< cls) else s
  let s2 := if all then s1.settleUpd else s1
  (MOrd.isRel ord = true → s.fenceReady gid g sc ordSet = true ∧ s2.fenceSent g sc ordSet = true) ∧
  (MOrd.isAcq ord = true → cls = clMS → s.fenceReady gid g sc (1#8 <<< cls) = true) ∧
  (all = true → s2.quiet = true)

/-- The memory keeps its canonical form, and so does the flash (log 4). -/
def State.MemoryForm (s : State) : Prop := Memory.wf s.mem = true ∧ Memory.wf s.flash = true

/-- What a completed instruction that only moves lanes leaves: PCs `pc` in the running path, the writes `w` among the
group's registers, and everything else but counters of R397 and R436 (and the marks of R412 that an overwritten register
carries) as it was. -/
structure Goes (s t : State) (gid : Nat) (g g' : Group) (pc : Nat → DWord) (w : List RegW) : Prop where
  grp : SMap.get? t.groups gid = some g'
  pcs : ∀ l, (g'.lane l).pc = if inMask g.runMask l then pc l else (g.lane l).pc
  regs : g'.final = w.foldl RegW.onRegs g.final
  wait : g'.wait = .no
  others : ∀ j, j ≠ gid → SMap.get? t.groups j = SMap.get? s.groups j
  outside : { t with groups := s.groups, grids := s.grids, dies := s.dies, clusters := s.clusters } = s

/-- An atomic (R204, R205, R207): its operands, whether it is memory-side, whether it reads C, its operation code in a packet
(R362), and the new value that a lane gives the location for the old one. -/
def atomForm : Instr → Option (AtArgs × Bool × Bool × Nat × (GCtx → Nat → Nat → Nat))
  | .atomXchg x => some (x, false, false, AtOp.opc .xchg, atLane .xchg x)
  | .atomAdd x => some (x, false, false, AtOp.opc .add, atLane .add x)
  | .atomAnd x => some (x, false, false, AtOp.opc .and, atLane .and x)
  | .atomOr x => some (x, false, false, AtOp.opc .or, atLane .or x)
  | .atomXor x => some (x, false, false, AtOp.opc .xor, atLane .xor x)
  | .atomMin x => some (x, false, false, AtOp.opc .min, atLane .min x)
  | .atomMax x => some (x, false, false, AtOp.opc .max, atLane .max x)
  | .atomFadd x => some (x, false, false, AtOp.opc .fadd, atLane .fadd x)
  | .atomFmin x => some (x, false, false, AtOp.opc .fmin, atLane .fmin x)
  | .atomFmax x => some (x, false, false, AtOp.opc .fmax, atLane .fmax x)
  | .cas x => some (x, false, true, 5, casLane x)
  | .atmsAdd x => some (x, true, false, AtOp.opc .add, atLane .add x)
  | .atmsMin x => some (x, true, false, AtOp.opc .min, atLane .min x)
  | .atmsMax x => some (x, true, false, AtOp.opc .max, atLane .max x)
  | .atmsXchg x => some (x, true, false, AtOp.opc .xchg, atLane .xchg x)
  | .atmsFadd x => some (x, true, false, AtOp.opc .fadd, atLane .fadd x)
  | .atmsCas x => some (x, true, true, 5, casLane x)
  | _ => none

/-- A `pf` (R210): its operands and the level that it fills. -/
def prefetchForm : Instr → Option (LnArgs × CLvl)
  | .pfL1 x => some (x, .l1)
  | .pfL2 x => some (x, .l2)
  | .pfMsc x => some (x, .msc)
  | _ => none

/-- A `cmnt` (R211): its operands and its effect on the line of a stretch. -/
def maintForm : Instr → Option (LnArgs × (State → Acc → Seg → State))
  | .cmntWb x => some (x, fun s a g => s.maintain a x.lvl false g)
  | .cmntInv x => some (x, fun s a g => s.maintain a x.lvl true g)
  | .cmntIc x => some (x, State.icDrop)
  | _ => none

/-- A `tier` (R213): its operands and operation code. -/
def tierForm : Instr → Option (TierArgs × Nat)
  | .tierPin x => some (x, 0)
  | .tierUnpin x => some (x, 1)
  | .tierPromoteHint x => some (x, 2)
  | .tierDemote x => some (x, 3)
  | _ => none

/-- The byte that a core reads at an address of its own die's memory: of its L1's copy of the line where that holds it, else at
the home (R193, R348). -/
def State.coreByte (s : State) (c pa : Nat) : Byte :=
  match SMap.get? (s.core c).l1 (pa / 256) with
  | some l => if l.has (pa % 256) 1 then l.data.getD (pa % 256) 0 else Memory.get s.mem pa
  | none => Memory.get s.mem pa

/-- A stretch of memory of the core's own die that lies in one sector, in plaintext or under the key that its units were
written with, of whose line the L1 holds nothing. -/
def State.ownMiss (s : State) (c : Nat) (g : Seg) : Prop :=
  g.ts = false ∧ g.ms = false ∧ g.pa < diagBase ∧ g.pa % 64 + g.len ≤ 64 ∧ s.mod.place g.pa = .die (c / 128) ∧
    SMap.get? (s.core c).l1 (g.pa / 256) = none ∧
    (∀ u, u / 8 = g.pa / 256 → SMap.getD s.keyOf 0 u = g.key)

/-- No copy of the units of a stretch's sector is poisoned: in memory, in L2, or in the memory-side cache of the home. -/
def State.cleanSector (s : State) (d : Nat) (g : Seg) : Prop :=
  (∀ u, u / 2 = g.pa / 64 → s.unitP u = false) ∧ ∀ e ∈ (s.die d).msc, e.2.line = g.pa / 256 → e.2.p = 0

/-- The L1 of a core and the L2 of its die have room for `n` more lines, so that nothing is replaced (R348, R352). -/
def State.roomFor (s : State) (c n : Nat) : Prop :=
  let d := s.die (c / 128)
  (s.core c).l1.length + n ≤ 4096 ∧ d.l2.length + d.guest.length + d.far.length + n ≤ 24576

/-- The image in a spill record of the team store that stands at stretches `ps`: data, glaze and poison in order, poisoned
too when a word read is (R202). -/
def Core.recImage (c : Core) (ps : List (Nat × Nat)) : Image :=
  let b := ps.flatMap (fun p => (List.range p.2).map (fun j => c.tsByte (p.1 + j)))
  ⟨(b.getD 5 0).getLsbD 0 || ps.any (fun p => (wordsOf p.1 p.2).any (fun w => SMap.getD c.tsP false w)), b.getD 4 0,
    BitVec.ofNat 32 (leNat (b.take 4))⟩

/-- Where the record of register `j` of a spill at `base` keeps what lane `l` holds, or what the path holds under U=1
(R202, R203): data, glaze, poison. -/
def recAt (u : Bool) (base j l : Nat) : List (Nat × Nat) :=
  if u then [(base + 8 * j, 8)] else (laneBytes l).map (fun p => (base + 192 * j + p.1, p.2))

/-- The bytes of that record, with their addresses. -/
def recBytes (u : Bool) (base j l : Nat) (i : Image) : List (Nat × Byte) :=
  if u then addrBytes (base + 8 * j) (leBytes 4 i.d.toNat ++ [i.g, BitVec.ofNat 8 i.p.toNat, 0, 0])
  else addrBytes (base + 192 * j + 4 * l) (leBytes 4 i.d.toNat) ++
    [(base + 192 * j + 0x80 + l, i.g), (base + 192 * j + 0xA0 + l, BitVec.ofNat 8 i.p.toNat)]

/-- The write of an image to register `j` of a `fill`. -/
def fillWrite (r : Opnd) (l j : Nat) (i : Image) : List RegW :=
  match r with
  | .v n => [.v l (n.val + j) i]
  | .s n => [.s (n.val + j) i]
  | _ => []

end Sys2Proof.Machine
end

