-- ==== Sys2Proof/Certificates/Slice0/Obligations.lean ====
section
/-! DEFINITION. The statements for the provers: every instruction's completion, result and frame, and what holds of
every step. -/

open Sys2Proof Sys2Proof.Machine

-- Encoding

/-- R82 to R92: every well-formed instruction that has an encoding is read back whole from its own words, whatever words
follow it in its fetch block. -/
def Obligations.DecodeEncode : Prop :=
  ∀ (i : Instr) (rest : List Word), i.wf = true → i.raw.isSome = true → decodeWords (encode i ++ rest) = i

/-- R84, R86, R92: what decodes to an encoded instruction is well-formed, and its words are that instruction's own. -/
def Obligations.EncodeDecode : Prop :=
  ∀ (ws : List Word), (decodeWords ws).wf = true ∧
    ((decodeWords ws).raw.isSome = true → (encode (decodeWords ws)) <+: ws)

/-- Words written out from the encoding tables of chapters 03 to 09, and what each stands for. -/
def Obligations.SpecWordsDecode : Prop :=
  decodeWords [0xE262B809, 0x0000FFFE, 0x64] =
    .iadd ⟨⟨true, false, false, 7, .three, 0x64, 0⟩, .u32, false, .s 5, .s 4, .lit, .none⟩ ∧
  decodeWords [0x0081B850, 0x8800FD02] =
    .lop ⟨⟨false, false, false, 7, .two, 0, 0⟩, .u32, false, .v 3, .v 1, .v 2, .zero⟩ 0x88 ∧
  decodeWords [0x04143A20, 0x009CCCFF] =
    .fpk ⟨false, false, false, 7, .two, 0, 0⟩ .e4m3 .dyn false 2 (.v 40) (.v 8) .none (.s 12) ∧
  decodeWords [0x7FFF8A82, 0x0100FFFF, 0x30, 0x3C] = .braD ⟨false, false, false, 1, .four, 0x30, 0x3C⟩ ∧
  decodeWords [0x05033BC2, 0x0102FF04, 8, 0x18] =
    .atomAdd ⟨⟨false, false, false, 7, .four, 8, 0x18⟩, 2, .u32, .die, .rlx, .v 6, .v 10, .v 4, .none⟩ ∧
  decodeWords [0x08093C81, 0x0260FF20, 0xC6] =
    .mma ⟨⟨false, false, false, 7, .three, 0xC6, 0⟩, false, .bf16, false, true, false, false, 0, .s 6, ⟨false, 1, 2⟩,
      .v 16, .v 32, .none⟩ ∧
  decodeWords [0xFFFFBE00, 0x0201FFFF] = .barSync ⟨⟨true, false, false, 7, .two, 0, 0⟩, .team, false, 1⟩ ∧
  decodeWords [0xEA013E88, 0x4001FFFF] = .resm ⟨true, false, false, 7, .two, 0, 0⟩ .mod 1 2 (.s 20) ∧
  decodeWords [0xFFFFBF18, 0x0100FFFF] = .rteNx ⟨true, false, false, 7, .two, 0, 0⟩ ∧
  decodeWords [0x7FFFBAB0, 0x0000FFFF] = .pswp ⟨false, false, false, 7, .two, 0, 0⟩

/-- R82, R84, R101: a word 0 whose LEN is 0b11, and a word 0 whose words run past the end of its fetch block, decode to
no instruction; what Illegal Encoding reports are words 0 and 1, an absent one as zero. -/
def Obligations.BadLengthsRefused : Prop :=
  ∀ (w0 : Word) (ws : List Word),
    (slice 2 0 w0 = 3#2 → decodeWords (w0 :: ws) = .unassignedOpcode w0 0) ∧
    (∀ l, lenOf w0 = some l → ws.length + 1 < l.count → decodeWords (w0 :: ws) = .unassignedOpcode w0 (ws.getD 0 0))

-- Steps

/-- R27, R47, R48, R410: when the schedule's next move is the issue of a group and its core's choice falls on it, it takes its
turn, and where its fetch gives words the step is the execution of what they decode to, from the state after the fetch, for
that group; a trap that the group still has to take is taken instead. A group on which its core's choice does not fall does
not issue. That choice is one of at most two groups that are ready, from the core's pointer on. -/
def Obligations.StepRunsDecoded : Prop :=
  ∀ (s : State) (gid : Nat) (g : Group) (rest : List Move),
    s.mod.power = true → s.agenda = .issue gid :: rest → SMap.get? s.groups gid = some g →
    let s0 : State := { s with clk := s.clk + 1, agenda := rest }
    let turn := s0.takeTurn g.core gid
    (gid ∉ s0.pickOn g.core → step s = .next s0) ∧
    (∀ s1 ws, gid ∈ s0.pickOn g.core → s0.ready g = true → (∀ c v h, g.wait ≠ .raise c v h) → turn.fetch g gid g.runPc = (s1, .ok ws) →
      step s = (match exec (decodeWords ws) { s1 with cur := some gid } with
        | .next t => .next { t with cur := none }
        | .fault e => .fault e
        | .refused r => .refused r)) ∧
    (∀ c v h, gid ∈ s0.pickOn g.core → s0.ready g = true → g.wait = .raise c v h → step s = .next (takeTrap turn gid ⟨c, v, h⟩)) ∧
    (∀ c, (s0.pickOn c).length ≤ 2 ∧ ∀ k ∈ s0.pickOn c, ∃ h, (k, h) ∈ s0.groups ∧ h.core = c ∧ s0.ready h = true)

/-- R47, R79, R80, R99: a fetch through a valid execute translation to a block of the core's own die, of a page that is not
memory-side, of which the core
holds no copy yet, that is not poisoned where its home holds it and for which L2 has room, gives the words of memory from
the PC to the end of its 32-byte block. Of a block that the core holds, each word is the held or the new one. The model's
own choices in it: log 82. -/
def Obligations.FetchReadsBlock : Prop :=
  ∀ (s : State) (g : Group) (gid : Nat) (pc : DWord) (seg : Seg) (es : List TlbE),
    pc.toNat % 4 = 0 → seg.ms = false →
    s.chkPiece g.core g.ctx gid ⟨needX, false, false, 4⟩ g.code (pc &&& 0xFFFFFFFFFFFFFFE0) 32 = .ok [seg] es →
    let now := wordsOfBytes (Memory.getBytes s.mem (seg.pa / 32 * 32) 32)
    let d := s.die (g.core / 128)
    (SMap.get? (s.core g.core).ic (seg.pa / 32) = none →
      s.mod.place (seg.pa / 32 * 32) = .die (g.core / 128) → d.l2.length + d.guest.length + d.far.length < 24576 →
      SMap.getD s.keyOf 0 (seg.pa / 32) = seg.key → s.unitP (seg.pa / 32) = false →
      (∀ e ∈ d.msc, e.2.line = seg.pa / 256 → e.2.p = 0) →
      (s.fetch g gid pc).2 = .ok (now.drop (pc.toNat % 32 / 4))) ∧
    (∀ held, SMap.get? (s.core g.core).ic (seg.pa / 32) = some (held, false) → held.length = 8 →
      ∃ ws : List Word, ws.length = 8 ∧ (∀ j : Nat, ws[j]? = held[j]? ∨ ws[j]? = now[j]?) ∧
        (s.fetch g gid pc).2 = .ok (ws.drop (pc.toNat % 32 / 4)))

/-- R478, R481, and the model's schedule (log 1): an event at the head of the agenda is executed for no group; with
nothing on the agenda, no step of the device due and no group ready, only the count of steps moves, and each 4,096 of them
every die makes its fair-share charge (R398). Without power only
POWER_ON takes place, and every other move stops the machine by name. No instruction stops the
machine, and every event of the device (results, engines, packets, dispatch, base dies, tiers, mesh, host link, fabric,
transport, tasks, extents, tenants, firmware, power) takes place in every state and on all its operands. -/
def Obligations.StepTakesEvent : Prop :=
  ∀ (s : State),
    (∀ i rest, s.mod.power = true → s.agenda = .event i :: rest →
      step s = exec i { s with clk := s.clk + 1, agenda := rest, cur := none }) ∧
    (let s0 : State := { s with clk := s.clk + 1 }
     let s1 := if s0.clk % 4096 = 0 then s0.chargeAll else s0
     s.mod.power = true → s.agenda = [] → s1.autoEvent = none → s1.pick = none → step s = .next s1) ∧
    (s.mod.power = false → s.agenda.head? ≠ some (.event .powerOn) → step s = .fault .noPower) ∧
    (∀ rest, s.mod.power = false → s.agenda = .event .powerOn :: rest →
      step s = exec .powerOn { s with clk := s.clk + 1, agenda := rest, cur := none }) ∧
    (∀ i, ∃ t, exec i s = .next t)

-- Reset and invariants

/-- Values that the spec gives for the state right after a cold reset: no leader (R464), no features on, RLSIZE 16,
FQSIZE 16 (R423), the activation threshold (R369), 32 free easel slots (R216), and nothing resident. -/
def Obligations.ResetValues : Prop :=
  let s := State.reset
  s.mod.leader = 0xFF ∧ s.mod.featon = 0 ∧ s.mod.featsel = 0 ∧ s.mod.rlbase = 0 ∧ s.mod.rlsize = 16 ∧ s.mod.rltail = 0 ∧
  s.mod.fwtcnt = 0 ∧ s.mod.commcnt = 0 ∧ s.mod.netcnt = 0 ∧ s.mod.tacccnt = 0 ∧
  (∀ v, (s.vd v).fqsize = 16 ∧ (s.vd v).fqbase = 0 ∧ (s.vd v).fqhead = 0 ∧ (s.vd v).fqtail = 0) ∧
  (∀ k, (s.stack k).thresh = 0x03E8 ∧ (s.stack k).alerts = 0) ∧ (∀ c, (s.cluster c).free = 32) ∧
  (∀ d, (s.die d).stage = 0) ∧ s.groups = [] ∧ s.teams = [] ∧ s.grids = []

/-- The machine right after reset has the canonical form of memory. -/
def Obligations.ResetHasMemoryForm : Prop := State.MemoryForm State.reset

/-- Whatever a step does, memory and flash keep their canonical form: equal contents stay equal data. -/
def Obligations.StepKeepsMemoryForm : Prop :=
  ∀ s t : State, State.MemoryForm s → step s = .next t → State.MemoryForm t

-- Issue

/-- R27, R94 to R97: every register form that executes and consumes no poison completes: its writes come last among the
group's results, its flags are raised, its lanes go on by the instruction's length, and nothing else of the group, no
other group's registers, no memory, cache, team store, canvas, token, control register or trap register changes. -/
def Obligations.RegisterFormsComplete : Prop :=
  ∀ (i : Instr) (k : Com) (rs : List (Opnd × Nat)) (b : GBody) (s : State) (gid : Nat) (g : Group) (o : Out),
    regForm i = some (k, rs, b) → Issues s gid g k rs → b (GCtx.make g k) = .ok o →
    ∃ t g', exec i s = .next t ∧ RegDone s t gid g g' k o

/-- R24, R27, R90, R98, R300, R302: a register form that names a register outside the group's budget or scalar count raises
Illegal Encoding with the instruction's words, whatever its guard; one whose guard does not let it execute only goes on; one
that executes raises nothing of its own but Poison Consumed, and waits only where it would add a result to 32 that nothing
known can settle. The model's own choices in it: logs 15, 16. -/
def Obligations.RegisterFormsTrapOrSkip : Prop :=
  ∀ (i : Instr) (k : Com) (rs : List (Opnd × Nat)) (b : GBody) (s : State) (gid : Nat) (g : Group),
    regForm i = some (k, rs, b) → s.cur = some gid → SMap.get? s.groups gid = some g →
    (rs.all g.inRange = false → exec i s = .next (takeTrap s gid ⟨1, Instr.tval i, 0⟩)) ∧
    (rs.all g.inRange = true → (GCtx.make g k).executes = false → exec i s = .next (completed s gid g k s)) ∧
    (∀ t, rs.all g.inRange = true → g.owed.length < 32 → (GCtx.make g k).executes = true → b (GCtx.make g k) = .error t →
      t.cause = 7 ∧ t.tvalh = 0 ∧ exec i s = .next (takeTrap s gid t)) ∧
    (∀ o, rs.all g.inRange = true → (GCtx.make g k).executes = true → b (GCtx.make g k) = .ok o → 32 ≤ g.owed.length →
      exec i s = .next (if 32 < resultCount (g.addResults o.w).pend then waited s gid g k .results
        else completed s gid g k (s.commit gid o)))

/-- R27, R171, R309, R436: an instruction that completes moves each lane that issued it by its own length, ends its wait,
clears `%prog` outside a handler, and leaves registers, outstanding results and every other group as its effect left
them. -/
def Obligations.CompletionAdvances : Prop :=
  ∀ (s s' : State) (gid : Nat) (g g1 : Group) (k : Com),
    SMap.get? s'.groups gid = some g1 → g1.lanes.length = g.lanes.length → g.runMask ≠ 0 →
    ∃ g', SMap.get? (completed s gid g k s').groups gid = some g' ∧ g'.final = g1.final ∧ g'.wait = .no ∧
      g'.prog = (if g.inH then g1.prog else 0) ∧ g'.fflags = g1.fflags ∧ g'.toks = g1.toks ∧
      (∀ l, (g'.lane l).pc = if inMask g.runMask l then (g1.lane l).pc + comBytes k else (g1.lane l).pc) ∧
      (∀ j, j ≠ gid → SMap.get? (completed s gid g k s').groups j = SMap.get? s'.groups j) ∧
      { completed s gid g k s' with groups := s'.groups, grids := s'.grids, dies := s'.dies } = s'

-- Integers

/-- R116, R118 to R122: the elementwise integer instructions. A zero divisor gives a quotient of all ones and the
dividend as remainder. -/
def Obligations.IntegerArithmetic : Prop :=
  ∀ x : IArgs,
    ArithRule (.iadd x) x x.ty.regs 0 (fun a b _ => a + b) ∧
    ArithRule (.isub x) x x.ty.regs 0 (fun a b _ => a - b) ∧
    ArithRule (.imulLo x) x x.ty.regs 0 (fun a b _ => a * b) ∧
    ArithRule (.imulHi x) x x.ty.regs 0 (fun a b _ => a * b / 2 ^ x.ty.width) ∧
    ArithRule (.imad x) x x.ty.regs x.ty.regs (fun a b c => a * b + c) ∧
    ArithRule (.idiv x) x x.ty.regs 0 (fun a b _ => if b = 0 then -1 else a.tdiv b) ∧
    ArithRule (.irem x) x x.ty.regs 0 (fun a b _ => if b = 0 then a else a.tmod b) ∧
    ArithRule (.imin x) x x.ty.regs 0 (fun a b _ => min a b) ∧
    ArithRule (.imax x) x x.ty.regs 0 (fun a b _ => max a b) ∧
    ArithRule (.iabs x) x 0 0 (fun a _ _ => if a < 0 then -a else a) ∧
    ArithRule (.ineg x) x 0 0 (fun a _ _ => -a)

/-- R125, R127: shifts and rotates of every element by one count, a count of the width or more shifting all bits out;
bit and byte reversal. -/
def Obligations.ShiftsAndReversals : Prop :=
  ∀ x : IArgs,
    BitRule (.shl x) x 1 (fun _ a n => a <<< n) ∧
    BitRule (.shr x) x 1 (fun _ a n => a >>> n) ∧
    BitRule (.sra x) x 1 (fun _ a n => a.sshiftRight n) ∧
    BitRule (.rotl x) x 1 (fun _ a n => a.rotateLeft n) ∧
    BitRule (.rotr x) x 1 (fun _ a n => a.rotateRight n) ∧
    ((x.ty = .u32 ∨ x.ty = .u64) → BitRule (.brev x) x 0 (fun _ a _ => a.reverse))

/-- R124, R136: `lop` takes each bit of the result, and `plop` each lane's predicate, from bit a + 2b + 4c of its truth
table. -/
def Obligations.TruthTables : Prop :=
  (∀ (x : IArgs) (tt : Byte) (s : State), ∃ r : GCtx → Nat → Nat,
    Computes s (.lop x tt) x.k (irs x x.ty.regs x.ty.regs x.ty.regs x.ty.regs)
      (intWrites x x.ty.regs x.ty.regs x.ty.regs x.ty.regs r) ∧
    ∀ c l j, j < 32 * x.ty.regs → (r c l).testBit j = tt.getLsbD
      (((c.data x.a l x.ty.regs).testBit j).toNat + 2 * ((c.data x.b l x.ty.regs).testBit j).toNat +
        4 * ((c.data x.c l x.ty.regs).testBit j).toNat)) ∧
  (∀ (k : Com) (tt : Byte) (pD pA pB pC : BitVec 3) (s : State),
    Computes s (.plop k tt pD pA pB pC) k [] (fun c => c.ls.flatMap (fun l =>
      c.wrP pD l (tt.getLsbD ((c.g.pred l pA).toNat + 2 * (c.g.pred l pB).toNat + 4 * (c.g.pred l pC).toNat)))))

/-- R123: `addc` and `subb` on words, with carry or borrow in and out, on operands that are not poisoned. -/
def Obligations.CarryChains : Prop :=
  ∀ (x : CarryArgs) (s : State) (gid : Nat) (g : Group),
    Issues s gid g x.k [(x.d, 1), (x.a, 1), (x.b, 1)] →
    (GCtx.make g x.k).consume [(x.a, 1), (x.b, 1)] (GCtx.make g x.k).ls = none →
    let cin (c : GCtx) (l : Nat) : Nat := match x.pI with | some p => (c.pf l p).toNat | none => 0
    (∃ t g', exec (.addc x) s = .next t ∧ SMap.get? t.groups gid = some g' ∧
      g'.final = ((GCtx.make g x.k).ls.flatMap (fun l =>
        let c := GCtx.make g x.k
        let v := c.data x.a l 1 + c.data x.b l 1 + cin c l
        c.wr x.d l [⟨false, 0, BitVec.ofNat 32 v⟩] ++ c.wrP x.pO l (decide (2 ^ 32 ≤ v)))).foldl RegW.onRegs g.final) ∧
    (∃ t g', exec (.subb x) s = .next t ∧ SMap.get? t.groups gid = some g' ∧
      g'.final = ((GCtx.make g x.k).ls.flatMap (fun l =>
        let c := GCtx.make g x.k
        let a := c.data x.a l 1
        let b := c.data x.b l 1 + cin c l
        c.wr x.d l [⟨false, 0, BitVec.ofNat 32 a - BitVec.ofNat 32 b⟩] ++ c.wrP x.pO l (decide (a < b)))).foldl
          RegW.onRegs g.final)

/-- R135: a compare of integers writes its predicate from the condition on the values, or on the bits for `tnz` and `tz`,
combined with the predicate it names, on operands that are not poisoned. -/
def Obligations.IntegerCompares : Prop :=
  ∀ (x : CmpArgs) (ty : ITy) (cc : ICc) (s : State) (gid : Nat) (g : Group),
    Issues s gid g x.k [(x.a, ty.regs), (x.b, ty.regs)] →
    (GCtx.make g x.k).consume [(x.a, ty.regs), (x.b, ty.regs)] (GCtx.make g x.k).ls = none →
    let c := GCtx.make g x.k
    let cond (l : Nat) : Bool :=
      let a := ival ty (c.data x.a l ty.regs)
      let b := ival ty (c.data x.b l ty.regs)
      match cc with
      | .eq => decide (c.data x.a l ty.regs = c.data x.b l ty.regs)
      | .ne => decide (c.data x.a l ty.regs ≠ c.data x.b l ty.regs)
      | .lt => decide (a < b)
      | .le => decide (a ≤ b)
      | .gt => decide (a > b)
      | .ge => decide (a ≥ b)
      | .tnz => decide (c.data x.a l ty.regs &&& c.data x.b l ty.regs ≠ 0)
      | .tz => decide (c.data x.a l ty.regs &&& c.data x.b l ty.regs = 0)
    let comb (l : Nat) : Bool :=
      match x.cb with
      | none => cond l
      | some (.and, p) => cond l && (c.g.pred l p.p != p.neg)
      | some (.or, p) => cond l || (c.g.pred l p.p != p.neg)
      | some (.xor, p) => cond l != (c.g.pred l p.p != p.neg)
    ∃ t g', exec (.icmp x ty cc) s = .next t ∧ SMap.get? t.groups gid = some g' ∧
      g'.final = (c.ls.flatMap (fun l => c.wrP x.pD l (comb l))).foldl RegW.onRegs g.final

/-- R21, R23, R133, R134, R139: moves copy whole images, data, glaze and poison; `movl` writes its literal with zero glaze;
`sel` takes the images that its predicate chooses; `rdlane` reads the lane it names, on a lane number that is not
poisoned, or its default when that lane is not of the running path. -/
def Obligations.MovesCopyImages : Prop :=
  ∀ (x : IArgs) (s : State),
    (∀ n i, ((n, i) = (1, Instr.mov x) ∨ (n, i) = (2, Instr.mov64 x) ∨ (n, i) = (1, Instr.bcast x) ∨
        (n, i) = (2, Instr.bcast64 x)) →
      Computes s i x.k (irs x n n 0 0) (fun c => c.ls.flatMap (fun l => c.wr x.d l (c.imgs x.a l n)))) ∧
    Computes s (.movl x) x.k (irs x 1 0 0 0) (fun c => c.ls.flatMap (fun l => c.wr x.d l [⟨false, 0, x.k.imm⟩])) ∧
    Computes s (.movl64 x) x.k (irs x 2 0 0 0)
      (fun c => c.ls.flatMap (fun l => c.wr x.d l [⟨false, 0, x.k.imm⟩, ⟨false, 0, x.k.ext⟩])) ∧
    (∀ p, Computes s (.sel x p) x.k (irs x 1 1 1 0) (fun c => c.ls.flatMap (fun l =>
      c.wr x.d l (c.imgs (if c.g.pred l p.p != p.neg then x.a else x.b) l 1)))) ∧
    (∀ p, Computes s (.sel64 x p) x.k (irs x 2 2 2 0) (fun c => c.ls.flatMap (fun l =>
      c.wr x.d l (c.imgs (if c.g.pred l p.p != p.neg then x.a else x.b) l 2)))) ∧
    (∀ gid g n i, ((n, i) = (1, Instr.rdlane x) ∨ (n, i) = (2, Instr.rdlane64 x)) →
      Issues s gid g x.k (irs x n n 1 n) →
      (GCtx.make g x.k).consume [(x.b, 1)] (GCtx.make g x.k).ls = none →
      ∃ t g', exec i s = .next t ∧ SMap.get? t.groups gid = some g' ∧
        g'.final = ((GCtx.make g x.k).wr x.d 0
          (match (maskLanes g.runMask).find? (fun l => g.vlane l == (GCtx.make g x.k).data x.b 0 1 % 32) with
           | some l => (GCtx.make g x.k).imgs x.a l n
           | none => (GCtx.make g x.k).imgs x.c 0 n)).foldl RegW.onRegs g.final)

-- Floating point

/-- R64: `RoundOdd`. A NaN becomes the canonical NaN of the carrier, an infinity and a zero stay, all with glaze 0; from
2^(emax+1) on the result is the largest finite value with G and S set; every other value is cut at a quarter of the
data's unit, at the larger of its own exponent and emin, and what is cut off is or-ed into S. -/
def Obligations.RoundOddNarrows : Prop :=
  ∀ f : Fmt, f = .f64 ∨ f = .f32 ∨ f = .f16 ∨ f = .bf16 →
    (∀ sig, roundOdd f (.nan sig) = ⟨f.qnan, 0⟩) ∧ (∀ neg, roundOdd f (.inf neg) = ⟨f.infBits neg, 0⟩) ∧
    (∀ neg e, roundOdd f (.fin neg 0 e) = ⟨f.sign neg, 0⟩) ∧
    ∀ (neg : Bool) (m : Nat) (e : Int), m ≠ 0 →
      -- n · 2^k ≤ |x|, where |x| = m · 2^e
      let atMost (n : Nat) (k : Int) : Prop := n * 2 ^ (k - min e k).toNat ≤ m * 2 ^ (e - min e k).toNat
      (atMost 1 (f.emax + 1) → roundOdd f (.fin neg m e) = ⟨f.maxFin neg, 3⟩) ∧
      (¬ atMost 1 (f.emax + 1) → ∃ (x : Int) (t : Nat),
        (x = f.emin ∨ (f.emin ≤ x ∧ atMost 1 x)) ∧ ¬ atMost 1 (x + 1) ∧
        atMost t (x - f.p - 1) ∧ ¬ atMost (t + 1) (x - f.p - 1) ∧
        let exact := t * 2 ^ ((x - f.p - 1) - min e (x - f.p - 1)).toNat = m * 2 ^ (e - min e (x - f.p - 1)).toNat
        let u := if exact then t else t ||| 1
        roundOdd f (.fin neg m e) = ⟨f.enc neg (u / 4) x, u % 4⟩)

/-- R62, R64: rounding to odd with a glaze loses nothing: the extended value of an element and its glaze, rounded back
to the format, is that element with that glaze. -/
def Obligations.RoundOddOfExt : Prop :=
  ∀ (f : Fmt) (x g : Nat), (f = .f64 ∨ f = .f32 ∨ f = .f16 ∨ f = .bf16) → x < 2 ^ f.w → g < 4 →
    (∀ n, f.ext x g ≠ .nan n) → (∀ n, f.ext x g ≠ .inf n) → roundOdd f (f.ext x g) = ⟨x, g⟩

/-- R141, R143, R144: `fadd`, `fmul` and `ffma` of one-element carriers round to odd the exact sum, product, and product
plus addend of their modified sources' extended values, poisoned when a source register is. -/
def Obligations.FloatSumsAndProducts : Prop :=
  ∀ (x : FArgs) (s : State), x.ft = .f32 ∨ x.ft = .f64 →
    let n := x.ft.regs
    let f := FTy.fmt x.ft
    let ev (c : GCtx) (m : FMod) (o : Opnd) (l : Nat) : FV := (carMod m f (carOf c x.ft o l 0)).ext f
    Computes s (.fadd x) x.k (frs x n n n 0) (fun c => c.ls.flatMap (fun l => c.wr x.d l
      (carImgs x.ft (c.pois x.a l n || c.pois x.b l n) [roundOdd f (sumFV c.rdn [ev c x.ma x.a l, ev c x.mb x.b l]).1]))) ∧
    Computes s (.fmul x) x.k (frs x n n n 0) (fun c => c.ls.flatMap (fun l => c.wr x.d l
      (carImgs x.ft (c.pois x.a l n || c.pois x.b l n) [roundOdd f (mulFV (ev c x.ma x.a l) (ev c x.mb x.b l)).1]))) ∧
    Computes s (.ffma x) x.k (frs x n n n n) (fun c => c.ls.flatMap (fun l => c.wr x.d l
      (carImgs x.ft (c.pois x.a l n || c.pois x.b l n || c.pois x.c l n)
        [roundOdd f (dotFV c.rdn [(ev c x.ma x.a l, ev c x.mb x.b l)] (ev c x.mc x.c l)).1])))

/-- R27, R94, R116: a register form reads no poison it must consume when no register of its group is poisoned: then it
always completes. -/
def Obligations.CleanRegistersComplete : Prop :=
  ∀ (i : Instr) (k : Com) (rs : List (Opnd × Nat)) (b : GBody) (s : State) (gid : Nat) (g : Group),
    regForm i = some (k, rs, b) → Issues s gid g k rs →
    (∀ l n, ((GCtx.make g k).g.vImg l n).p = false) → (∀ n, ((GCtx.make g k).g.sImg n).p = false) →
    ∃ o t g', b (GCtx.make g k) = .ok o ∧ exec i s = .next t ∧ RegDone s t gid g g' k o

-- Control flow

/-- R168, R172 to R174: when every lane of the running path goes to one PC the path goes there whole: `bra.whole` and
`brx.whole` decide in the lowest slot, the others take the lanes whose guard is true to the target and all others to the
next instruction. A call leaves the next instruction's address in its link pair. -/
def Obligations.BranchesGoTogether : Prop :=
  ∀ (k : Com) (d a : Opnd) (s : State) (gid : Nat) (g : Group),
    let c := GCtx.make g k
    let pc (f : Nat → DWord) (l : Nat) : DWord := if inMask c.act l then f l else c.next
    let one (f : Nat → DWord) : Prop :=
      ∀ l m, inMask c.run l = true → inMask c.run m = true → pc f l = pc f m
    let goes (i : Instr) (f : Nat → DWord) (w : List RegW) : Prop :=
      ∃ t g', exec i s = .next t ∧ Goes s t gid g g' f w
    let tgt (_ : Nat) : DWord := c.target k.imm
    (Issues s gid g k [] →
      goes (.braWhole k) (fun _ => if c.guard c.lowSlot then c.target k.imm else c.next) [] ∧
      (c.act = c.run ∨ c.act = 0 → goes (.braD k) (pc tgt) [] ∧ goes (.braEj k) (pc tgt) [])) ∧
    (Issues s gid g k [(a, 2)] →
      (c.guard c.lowSlot = true → c.consume [(a, 2)] [c.lowSlot] = none →
        goes (.brxWhole k a) (fun _ => c.pairPc a c.lowSlot) []) ∧
      (c.consume [(a, 2)] (maskLanes c.act) = none → one (c.pairPc a) →
        goes (.brxD k a) (pc (c.pairPc a)) [] ∧ goes (.ret k a) (pc (c.pairPc a)) [])) ∧
    (Issues s gid g k [(d, 2)] → one tgt → goes (.call k d) (pc tgt) (linkOut d c).w) ∧
    (Issues s gid g k [(d, 2), (a, 2)] → c.consume [(a, 2)] (maskLanes c.act) = none → one (c.pairPc a) →
      goes (.callX k d a) (pc (c.pairPc a)) (linkOut d c).w)

/-- R172: a divergent `bra.d` with room on the path stack. The larger side runs on, the taken one on equal counts; the
other waits, deferred at its own PC, under a new entry that names the whole running path, the waiting PC and the focal.
`bra.ej` does the same when its minority has more than 8 lanes. -/
def Obligations.DivergentBranchSplits : Prop :=
  ∀ (k : Com) (s : State) (gid : Nat) (g : Group),
    let c := GCtx.make g k
    let n := c.run &&& ~~~c.act
    let taken := maskCount n ≤ maskCount c.act
    let minor := if taken then n else c.act
    let major := if taken then c.act else n
    let pcMin := if taken then c.next else c.target k.imm
    let pcMaj := if taken then c.target k.imm else c.next
    let splits (i : Instr) : Prop := ∃ t g', exec i s = .next t ∧ SMap.get? t.groups gid = some g' ∧
      g'.stack = ⟨c.run, pcMin, c.target k.ext, 0⟩ :: g.stack ∧ g'.final = g.final ∧
      (∀ l, inMask major l = true → (g'.lane l).st = .active ∧ (g'.lane l).pc = pcMaj) ∧
      (∀ l, inMask minor l = true → (g'.lane l).st = .deferred ∧ (g'.lane l).pc = pcMin) ∧
      (∀ l, inMask c.run l = false → g'.lane l = g.lane l) ∧
      (∀ j, j ≠ gid → SMap.get? t.groups j = SMap.get? s.groups j)
    Issues s gid g k [] → c.act ≠ 0 → n ≠ 0 → g.stack.length < stackMax → pcMaj ≠ c.target k.ext →
    splits (.braD k) ∧ (8 < maskCount minor → splits (.braEj k))

/-- R177, R179, R181, R182: the ends and turns of paths. `exit` ends the lanes whose guard is true, each where it stands,
and the others go on; `fcs` gives a top entry without a focal its own address; `pswp` makes the whole running path wait at
the next instruction; both only go on where they do not act. Lanes that return from a compacted group stand in their home
group at the return focal with the registers, predicates and `%rng` they had. The model's own choices in it: logs 41, 43,
44. -/
def Obligations.PathEnds : Prop :=
  ∀ (k : Com) (s : State) (gid : Nat) (g : Group),
    let c := GCtx.make g k
    (Issues s gid g k [] →
      ((∀ l, (g.lane l).home = none) → ∃ t g', exec (.exit k) s = .next t ∧
        Goes s t gid g g' (fun l => if inMask c.act l then c.pc0 else (g.lane l).pc + comBytes k) [] ∧
        ∀ l, (g'.lane l).st = .exited ↔ ((g.lane l).st = .exited ∨ inMask c.act l = true)) ∧
      (∀ e r, g.stack = e :: r → c.act ≠ 0 → e.focal = nullFocal → exec (.fcs k) s =
        .next (jumped s gid g k (s.updGroup gid (fun g => { g with stack := { e with focal := c.pc0 } :: r })))) ∧
      ((g.stack = [] ∨ c.act = 0 ∨ g.topFocal ≠ nullFocal) → exec (.fcs k) s = .next (completed s gid g k s)) ∧
      (g.stack ≠ [] → c.act ≠ 0 → exec (.pswp k) s =
        .next (jumped s gid g k (s.updGroup gid (fun g => (g.advance c.run k).setSt c.run .deferred)))) ∧
      ((g.stack = [] ∨ c.act = 0) → exec (.pswp k) s = .next (completed s gid g k s))) ∧
    (SMap.get? s.groups gid = some g → g.atReturn = true →
      (∀ l, inMask g.runMask l = true → ∃ h hg, (g.lane l).home = some h ∧ h.gid ≠ gid ∧
        SMap.get? s.groups h.gid = some hg ∧ hg.runMask ≠ 0 ∧ (hg.lane h.lane).st = .ejected ∧
        h.lane < hg.lanes.length) →
      (∀ l m h h', inMask g.runMask l = true → inMask g.runMask m = true → (g.lane l).home = some h →
        (g.lane m).home = some h' → h.gid = h'.gid → h.lane = h'.lane → l = m) →
      ∃ t, exec (.compactReturn gid) s = .next t ∧ ∀ l h, inMask g.runMask l = true → (g.lane l).home = some h →
        ∃ hg, SMap.get? t.groups h.gid = some hg ∧ (hg.lane h.lane).st = .deferred ∧ (hg.lane h.lane).pc = g.runPc ∧
          (hg.lane h.lane).v = ((g.settleResults).lane l).v ∧ (hg.lane h.lane).pr = ((g.settleResults).lane l).pr ∧
          (hg.lane h.lane).rng = (g.lane l).rng ∧ (hg.lane h.lane).home = none)

-- Memory

/-- R191 to R201: loads and stores complete when no base or stored register is poisoned, every lane's access passes its
checks, no host holds a line written or keeps back a write that must be seen, and an order has nothing to wait for. Each
lane reads or writes its own stretches, in ascending lane order: a load delivers the images of its width, sign-extended for
the signed ones; `ldc` the value of its format rounded to odd into its carrier; `stc` stores the carrier finalised to its
format, once in each lane. The model's own choices in it: logs 72, 73. -/
def Obligations.LoadsAndStoresComplete : Prop :=
  ∀ (s : State) (gid : Nat) (g : Group),
    let load (x : MArgs) (n : Nat) (i : Instr) (rs : List (Opnd × Nat))
        (out : GCtx → List (Nat × Nat × Bool) → Out) : Prop :=
      let c := GCtx.make g x.k
      let off := c.memOff x.a x.ap
      let at' := c.scopeOf x.ap x.scope
      let s0 := withTlbs s gid c.g (specR x.pol n) x.ap n (c.bySlot c.ls) off
      Issues s gid g x.k rs → c.consume [(x.a, baseRegs x.ap)] c.ls = none →
      passes s gid c.g (specR x.pol n) x.ap n c.ls off → reaches s gid c.g (specR x.pol n) x.ap n c.ls off false →
      orderReady s0 gid c.g x.ord at' clR →
      ∃ s', ordered x.ord at' clR gid c s0 (fun s1 =>
          let r := s1.readLanes (s1.accOf c.g 0) (perfScope x.ord at') x.pol
            (laneSegs s gid c.g (specR x.pol n) x.ap n c.ls off)
          r.1.commit gid (out c r.2)) = .done s' ∧
        exec i s = .next (completed s gid g x.k s')
    let store (k : Com) (pol : Pol) (ap : BitVec 3) (a : Opnd) (ord : MOrd) (sc : Scope) (src : Opnd × Nat) (n : Nat)
        (i : Instr) (rs : List (Opnd × Nat)) (v : GCtx → Nat → Nat) (o : GCtx → State → State) : Prop :=
      let c := GCtx.make g k
      let off := c.memOff a ap
      let at' := c.scopeOf ap sc
      let s0 := withTlbs s gid c.g (specW pol n) ap n (c.bySlot c.ls) off
      Issues s gid g k rs → c.consume [(a, baseRegs ap), src] c.ls = none →
      passes s gid c.g (specW pol n) ap n c.ls off → unheld s gid c.g (specW pol n) ap n c.ls off →
      reaches s gid c.g (specW pol n) ap n c.ls off false → orderReady s0 gid c.g ord at' clW →
      ∃ s', ordered ord at' clW gid c s0 (fun s1 =>
          o c (s1.writeLanes (s1.accOf c.g 0) (perfScope ord at') pol (laneSegs s gid c.g (specW pol n) ap n c.ls off)
            (fun l => leBytes n (v c l)))) = .done s' ∧
        exec i s = .next (completed s gid g k s')
    (∀ x w, load x w.bytes (.ld x w) (mrs x w.regs)
      (fun c r => Out.of (r.flatMap (fun v => c.wr x.d v.1 (loadImgs w v.2.1 v.2.2))))) ∧
    (∀ x f, load x (ldcFmt f).1 (.ldc x f) (mrs x (if f == .f64f32 then 2 else 1)) (fun c r =>
      let val (v : Nat × Nat × Bool) : FV := (ldcFmt f).2.1.dec v.2.1
      { w := r.flatMap (fun v => c.wr x.d v.1 (carImgs (ldcFmt f).2.2 v.2.2 [roundOdd (FTy.fmt (ldcFmt f).2.2) (val v)]))
        fl := r.filterMap (fun v => if sigFlag [val v] == 0 then none else some (v.1, sigFlag [val v]))
        rng := [] })) ∧
    (∀ x w, store x.k x.pol x.ap x.a x.ord x.scope (x.d, w.regs) w.bytes (.st x w) (mrs x w.regs)
      (fun c l => c.data x.d l w.regs) (fun _ s1 => s1)) ∧
    (∀ x : StcArgs,
      let m := stcFmt x.f
      let fin (c : GCtx) (l : Nat) : FinR :=
        final m.2.1 (c.mode x.rm) x.sat (srBits (c.rngOf l)) ((carOf c m.1 x.b l 0).ext (FTy.fmt m.1))
      store x.k x.pol x.ap x.a (if x.rel then .rel else .rlx) x.scope (x.b, x.f.regs) m.2.2 (.stc x)
        [(x.a, baseRegs x.ap), (x.b, x.f.regs)] (fun c l => (fin c l).bits)
        (fun c s1 => s1.commit gid {
          w := []
          fl := c.ls.filterMap (fun l => if (fin c l).fl == 0 then none else some (l, (fin c l).fl))
          rng := c.ls.filterMap (fun l => if (fin c l).step then some (l, rngStep (c.rngOf l)) else none) }))

/-- R193, R198, R199, R348: plain loads and stores of memory of the core's own die. A store at a scope within the team
changes, for its core, exactly the bytes stored, the highest lane last, and no byte at the home; a load delivers those
bytes, least significant first, and changes none. -/
def Obligations.OwnDieLoadsAndStores : Prop :=
  ∀ (x : MArgs) (w : LdW) (s : State) (gid : Nat) (g : Group),
    let c := GCtx.make g x.k
    let off := c.memOff x.a x.ap
    x.ord = .rlx → (x.pol = .nrm ∨ x.pol = .str) → (x.scope = .grp ∨ x.scope = .team) → s.fused (s.accOf c.g 0) = false →
    s.roomFor g.core c.ls.length →
    c.consume [(x.a, baseRegs x.ap)] c.ls = none → Issues s gid g x.k (mrs x w.regs) →
    (c.consume [(x.a, baseRegs x.ap), (x.d, w.regs)] c.ls = none →
      passes s gid c.g (specW x.pol w.bytes) x.ap w.bytes c.ls off →
      unheld s gid c.g (specW x.pol w.bytes) x.ap w.bytes c.ls off →
      (∀ l ∈ c.ls, ∃ q es, s.chk c.g gid (specW x.pol w.bytes) x.ap (off l) w.bytes = .ok [q] es ∧
        q.len = w.bytes ∧ s.ownMiss g.core q) →
      let ws := (laneSegs s gid c.g (specW x.pol w.bytes) x.ap w.bytes c.ls off).flatMap (fun l =>
        (l.2.flatMap (fun q => (List.range q.len).map (fun j => q.pa + j))).zip
          (leBytes w.bytes (c.data x.d l.1 w.regs)))
      ∃ t, exec (.st x w) s = .next t ∧ t.mem = s.mem ∧ ∀ pa, t.coreByte g.core pa =
        match ws.reverse.find? (fun e => e.1 == pa) with
        | some e => e.2
        | none => s.coreByte g.core pa) ∧
    (passes s gid c.g (specR x.pol w.bytes) x.ap w.bytes c.ls off →
      (∀ l ∈ c.ls, ∃ q es, s.chk c.g gid (specR x.pol w.bytes) x.ap (off l) w.bytes = .ok [q] es ∧
        q.len = w.bytes ∧ s.ownMiss g.core q ∧ s.cleanSector (g.core / 128) q) →
      ∃ t g', exec (.ld x w) s = .next t ∧ t.mem = s.mem ∧ SMap.get? t.groups gid = some g' ∧
        (∀ pa, t.coreByte g.core pa = s.coreByte g.core pa) ∧
        g'.final = ((laneSegs s gid c.g (specR x.pol w.bytes) x.ap w.bytes c.ls off).flatMap (fun l =>
          c.wr x.d l.1 (loadImgs w (leNat (l.2.flatMap (fun q =>
            (List.range q.len).map (fun j => s.coreByte g.core (q.pa + j))))) false))).foldl RegW.onRegs g.final)

/-- R46, R198, R199: loads and stores through aperture code 7. A store changes exactly the bytes stored of the core's
team store, the highest lane last, and no byte of memory; a load delivers the bytes, poisoned when a word it reads is. -/
def Obligations.TeamStoreLoadsAndStores : Prop :=
  ∀ (x : MArgs) (w : LdW) (s : State) (gid : Nat) (g : Group),
    let c := GCtx.make g x.k
    let at' (l : Nat) : Nat := (s.scratch g.team).2 + (c.memOff x.a 7 l).toNat
    x.ord = .rlx → x.ap = 7 → x.pol ≠ .ms → Issues s gid g x.k (mrs x w.regs) →
    c.consume [(x.a, 1)] c.ls = none →
    (∀ l ∈ c.ls, (c.memOff x.a 7 l).toNat % w.bytes = 0 ∧
      (c.memOff x.a 7 l).toNat + w.bytes ≤ (s.scratch g.team).1) →
    (c.consume [(x.a, 1), (x.d, w.regs)] c.ls = none →
      let ws := c.ls.flatMap (fun l => ((List.range w.bytes).map (fun j => at' l + j)).zip
        (leBytes w.bytes (c.data x.d l w.regs)))
      ∃ t, exec (.st x w) s = .next t ∧ t.mem = s.mem ∧ ∀ a, (t.core g.core).tsByte a =
        match ws.reverse.find? (fun e => e.1 == a) with
        | some e => e.2
        | none => (s.core g.core).tsByte a) ∧
    (∃ t g', exec (.ld x w) s = .next t ∧ t.mem = s.mem ∧ SMap.get? t.groups gid = some g' ∧
      (∀ j, t.core j = s.core j) ∧
      g'.final = (c.ls.flatMap (fun l =>
        c.wr x.d l (loadImgs w (leNat ((List.range w.bytes).map (fun j => (s.core g.core).tsByte (at' l + j))))
          ((wordsOf (at' l) w.bytes).any (fun u => SMap.getD (s.core g.core).tsP false u))))).foldl RegW.onRegs g.final)

/-- R196, R204 to R207: an atomic completes when no operand is poisoned, its accesses pass, no host holds a line written or
keeps back a write that must be seen, and its order has nothing to wait for; its lanes act one after the other, in ascending
order, and each delivers the value that stood there. The model's own choices in it: logs 72, 73. -/
def Obligations.AtomicsComplete : Prop :=
  ∀ (i : Instr) (x : AtArgs) (ms withC : Bool) (fn : Nat) (f : GCtx → Nat → Nat → Nat) (s : State) (gid : Nat) (g : Group),
    atomForm i = some (x, ms, withC, fn, f) → Issues s gid g x.k (ars x withC) →
    let c := GCtx.make g x.k
    let n := atW x.ty / 8
    let sp : AccessSpec := ⟨needRW, ms, false, n⟩
    let off := c.memOff x.a x.ap
    let at' := c.scopeOf x.ap x.scope
    let cls := if ms then clMS else clAT
    let s0 := withTlbs s gid c.g sp x.ap n (c.bySlot c.ls) off
    c.consume ([(x.a, baseRegs x.ap), (x.b, x.ty.regs)] ++ (if withC then [(x.c, x.ty.regs)] else [])) c.ls = none →
    passes s gid c.g sp x.ap n c.ls off → unheld s gid c.g sp x.ap n c.ls off → reaches s gid c.g sp x.ap n c.ls off true →
    orderReady s0 gid c.g x.ord at' cls →
    ∃ s', ordered x.ord at' cls gid c s0 (fun s1 =>
          let v := s1.rmwLanes (s1.accOf c.g 0) (laneSegs s gid c.g sp x.ap n c.ls off) (atReq x fn c) (f c)
          v.1.commit gid (Out.of (v.2.flatMap (fun o => c.wr x.d o.1 (plainImgs x.ty.regs o.2.2 o.2.1))))) = .done s' ∧
      exec i s = .next (completed s gid g x.k s')

/-- R196, R204, R205: an unordered atomic on memory of the core's own die. At the home each lane replaces the value of
its location by the new one, in ascending lane order, no other byte of memory changes, and the registers get the values
that stood there. -/
def Obligations.AtomicsActAtHome : Prop :=
  ∀ (i : Instr) (x : AtArgs) (withC : Bool) (fn : Nat) (f : GCtx → Nat → Nat → Nat) (s : State) (gid : Nat) (g : Group),
    atomForm i = some (x, false, withC, fn, f) → Issues s gid g x.k (ars x withC) → x.ord = .rlx →
    let c := GCtx.make g x.k
    let n := atW x.ty / 8
    let sp : AccessSpec := ⟨needRW, false, false, n⟩
    let off := c.memOff x.a x.ap
    s.fused (s.accOf c.g 0) = false → s.roomFor g.core c.ls.length →
    c.consume ([(x.a, baseRegs x.ap), (x.b, x.ty.regs)] ++ (if withC then [(x.c, x.ty.regs)] else [])) c.ls = none →
    passes s gid c.g sp x.ap n c.ls off → unheld s gid c.g sp x.ap n c.ls off →
    (∀ l ∈ c.ls, ∃ q es, s.chk c.g gid sp x.ap (off l) n = .ok [q] es ∧ q.len = n ∧ s.ownMiss g.core q ∧
      SMap.get? (s.die (g.core / 128)).far (q.pa / 256) = none ∧ q.pa % n = 0 ∧ s.cleanSector (g.core / 128) q) →
    let r := (laneSegs s gid c.g sp x.ap n c.ls off).foldl (fun (m : List Host.Cell × List (Nat × Nat)) l => match l.2 with
      | q :: _ =>
        let old := leNat (Memory.getBytes m.1 q.pa n)
        (Memory.putBytes m.1 q.pa (leBytes n (f c l.1 old)), m.2 ++ [(l.1, old)])
      | [] => m) (s.mem, [])
    ∃ t g', exec i s = .next t ∧ t.mem = r.1 ∧ SMap.get? t.groups gid = some g' ∧
      g'.final = (r.2.flatMap (fun o => c.wr x.d o.1 (plainImgs x.ty.regs false o.2))).foldl RegW.onRegs g.final

/-- R202, R203, R309: `spill` and `fill` go on from register `%prog` and complete. Through the team store a spill writes
exactly the record of each register (under U=1 one of 8 bytes, else data, glaze and poison of each lane whose guard is
true) and a fill reads the images back from such records. -/
def Obligations.SpillsAndFills : Prop :=
  ∀ (x : SpArgs) (s : State) (gid : Nat) (g : Group),
    let c := GCtx.make g x.k
    let rs := [(x.r, x.n1.toNat + 1), (x.a, baseRegs x.ap)]
    let base := (s.scratch g.team).2 + (c.memOff x.a 7 c.low).toNat
    let size := if x.k.u then 8 else 192
    let js := (List.range (x.n1.toNat + 1)).drop g.prog.toNat
    let ls := if x.k.u then [0] else maskLanes c.act
    Issues s gid g x.k rs →
    (x.k.u = false → c.act = 0 →
      exec (.spill x) s = .next (completed s gid g x.k s) ∧ exec (.fill x) s = .next (completed s gid g x.k s)) ∧
    ((x.k.u = true ∨ c.act ≠ 0) → c.consume [(x.a, baseRegs x.ap)] [c.low] = none →
      (∀ s', spillLoop x false gid c s 193 g.prog.toNat s = .done s' →
        exec (.spill x) s = .next (completed s gid g x.k s')) ∧
      (∀ s', spillLoop x true gid c s 193 g.prog.toNat s = .done s' →
        exec (.fill x) s = .next (completed s gid g x.k s')) ∧
      (x.ap = 7 → x.pol ≠ .ms → x.n1.toNat < 192 → (c.memOff x.a 7 c.low).toNat % (if x.k.u then 8 else 64) = 0 →
        (c.memOff x.a 7 c.low).toNat + size * (x.n1.toNat + 1) ≤ (s.scratch g.team).1 → (s.scratch g.team).1 ≤ 2 ^ 32 →
        (let ws := js.flatMap (fun j => ls.flatMap (fun l =>
            recBytes x.k.u base j l (c.img x.r (if x.k.u then c.low else l) j)))
          ∃ t g', exec (.spill x) s = .next t ∧ t.mem = s.mem ∧ SMap.get? t.groups gid = some g' ∧ g'.final = g.final ∧
            ∀ a, (t.core g.core).tsByte a = match ws.reverse.find? (fun e => e.1 == a) with
              | some e => e.2
              | none => (s.core g.core).tsByte a) ∧
        (∃ t g', exec (.fill x) s = .next t ∧ t.mem = s.mem ∧ t.cores = s.cores ∧ SMap.get? t.groups gid = some g' ∧
          g'.final = (js.flatMap (fun j => ls.flatMap (fun l =>
            fillWrite x.r l j ((s.core g.core).recImage (recAt x.k.u base j l))))).foldl RegW.onRegs g.final)))

/-- R208, R209, R292: a `mred` with no lane whose guard is true completes its token at once; one whose packets all pass
their checks from packet `%prog` on sends them and goes on, and a new operation makes its token pending for it; a packet
that fails stops it with the packets below sent and `%prog` there. A packet is applied, unless a write that it must see
waits for a host, and a finished team swept; its operation ends with the last one, once no older operation of its group is
under way. The model's own choices in it: logs 79, 80. -/
def Obligations.ReducesPostAndApply : Prop :=
  (∀ (op idx : Nat) (s : State) (o : AOp), SMap.get? s.aops op = some o →
    (s.reachAll o.core true (o.mredSegs idx) = false → exec (.mredPacketApply op idx) s = .next (s.askHost s.heldUpd)) ∧
    (s.reachAll o.core true (o.mredSegs idx) = true → ∃ t u : State,
      exec (.mredPacketApply op idx) s = .next t ∧ t = u.sweepTeam o.team ∧
      (idx ∈ o.left → u.mem = (s.doMred o idx).1.mem) ∧ (idx ∉ o.left → u.mem = s.mem) ∧
      (o.isCopy = false → (∀ j, j ∈ o.left → j = idx) →
        (s.olderOp op o = true → SMap.get? u.aops op =
          some { o.applied idx with err := o.err || (o.left.contains idx && (s.doMred o idx).2) }) ∧
        (s.olderOp op o = false → u.aops = SMap.del s.aops op)))) ∧
  ∀ (x : MredArgs) (ret : Bool) (s : State) (gid : Nat) (g : Group),
    let i : Instr := if ret then .mredRet x else .mredLine x
    let c := GCtx.make g x.k
    let n := if ret then 1 else 2
    let ps := mredPkts x ret gid c s (4 - g.prog.toNat) g.prog.toNat
    Issues s gid g x.k (mrrs x n) → (g.prog ≠ 0 ∨ g.tokPending x.tok = false) →
    (c.act = 0 → exec i s = .next (completed s gid g x.k (s.updGroup gid (fun g => g.endTok x.tok .mred 0 stOk)))) ∧
    (c.act ≠ 0 → ps.2.2 = none →
      exec i s = .next (completed s gid g x.k ((mredSend x ret true gid c s ps.1).tlbFills c.g.core ps.2.1)) ∧
      (g.prog = 0 → ps.1 ≠ [] → ∃ t g', exec i s = .next t ∧ SMap.get? t.groups gid = some g' ∧
        SMap.get? t.aops s.nid = some (s.opOf gid c.g x.tok
          (mredKind x ret (((mredDst x ret gid c s).segs.head?.map (fun g => g.pa)).getD 0) ps.1) false) ∧
        g'.final = g.final ∧ g'.toks = (g.startTok x.tok .mred s.nid).toks ∧ t.mem = s.mem)) ∧
    (c.act ≠ 0 → ∀ j r t, ps.2.2 = some (j, .bad r t none) →
      t.cause ≠ 0x0F → exec i s = .next (takeTrap
        (((mredSend x ret false gid c s ps.1).tlbFills c.g.core ps.2.1).updGroup gid (fun g1 => g1.setProg j)) gid t))

/-- R210, R211, R214: a prefetch raises nothing and fills what its lanes' addresses lead to, off memory-side pages and the
team store; a `cmnt` acts on each line that its lanes' accesses reach, off the same; a fence waits for nothing when a
class set or the lanes are empty, else it waits until the accesses of its predecessor classes are performed, and completes
once the writes among them have reached their homes where its scope asks for that. -/
def Obligations.PrefetchMaintenanceAndFences : Prop :=
  ∀ (s : State) (gid : Nat) (g : Group),
    (∀ (i : Instr) (x : LnArgs) (lvl : CLvl), prefetchForm i = some (x, lvl) → Issues s gid g x.k (lnrs x) →
      let c := GCtx.make g x.k
      let ls := c.ls.filter (fun l => !c.pois x.a l (baseRegs x.ap))
      exec i s = .next (completed s gid g x.k
        (((plainSegs (ls.map (fun l => s.chk c.g gid ⟨needR, x.pol == .ms, false, 1⟩ x.ap (c.memOff x.a x.ap l) 1))).filter
          (fun q => s.reach (c.g.core / 128) false q)).foldl (fun s1 q => s1.fillLevel (s1.accOf c.g 0) x.pol lvl q) s))) ∧
    (∀ (i : Instr) (x : LnArgs) (f : State → Acc → Seg → State), maintForm i = some (x, f) →
      Issues s gid g x.k (lnrs x) →
      let c := GCtx.make g x.k
      let sp : AccessSpec := ⟨needR, false, false, 1⟩
      let off := c.memOff x.a x.ap
      c.consume [(x.a, baseRegs x.ap)] c.ls = none → passes s gid c.g sp x.ap 1 c.ls off →
      reaches s gid c.g sp x.ap 1 c.ls off false →
      exec i s = .next (completed s gid g x.k
        (((laneSegs s gid c.g sp x.ap 1 c.ls off).flatMap (fun l =>
          l.2.filter (fun q => !q.ts && !q.ms))).foldl (fun s1 q => f s1 (s1.accOf c.g 0) q)
            (withTlbs s gid c.g sp x.ap 1 (c.bySlot c.ls) off)))) ∧
    (∀ (k : Com) (sc : Scope) (pred succ : Byte), Issues s gid g k [] →
      let c := GCtx.make g k
      let at' := c.scopeOf 0 sc
      ((c.act = 0 ∨ pred = 0 ∨ succ = 0) → exec (.fnc k sc pred succ) s = .next (completed s gid g k s)) ∧
      (c.act ≠ 0 → pred ≠ 0 → succ ≠ 0 → s.fenceReady gid c.g at' pred = false →
        exec (.fnc k sc pred succ) s = .next (waited s gid g k .fence)) ∧
      (c.act ≠ 0 → pred ≠ 0 → succ ≠ 0 → s.fenceReady gid c.g at' pred = true →
        (s.fence c.g at' pred succ).fenceSent c.g sc pred = true →
        exec (.fnc k sc pred succ) s = .next (completed s gid g k (s.fence c.g at' pred succ))))

/-- R95, R213, R373 to R375: a `tier` whose pages all translate, with no operand poisoned, becomes an operation that queues
on every object its range overlaps and owes its group a status word; the status comes back once every object is done with
it, in the register it names, unless a younger write has taken that register. A waiting access begins the promotion of an
object in the lower tier; a promotion takes frames, those of one leaf one after the other, a demotion frees them once no
access that passed its checks against them is under way, and a failure, or the loss of the extent, leaves the object in the
lower tier. The model's own choices in it: logs 16, 50. -/
def Obligations.TierOperations : Prop :=
  (∀ (i : Instr) (x : TierArgs) (kind : Nat) (s : State) (gid : Nat) (g : Group),
    tierForm i = some (x, kind) → Issues s gid g x.k (trs x) →
    let c := GCtx.make g x.k
    let v := c.g.ctx / 256
    let len := c.data x.b c.low 1
    let off := c.memOff x.a x.ap c.low
    let rs := (if len == 0 then [] else pageOffs off.toNat len).map (fun o =>
      translate s c.g.core c.g.ctx (vaOf (c.g.aper x.ap) (if o < off.toNat then off else BitVec.ofNat 64 o)) needR)
    c.consume [(x.a, 2), (x.b, 1)] c.ls = none → (∀ r ∈ rs, ∀ cs s2, r ≠ .bad cs s2) →
    let objs := (rs.filterMap (fun r => match r with
      | .tier n => some n
      | .ok e => e.obj
      | .bad .. => none)).eraseDups
    let d : Option Nat := match x.d with | .s n => some n.val | _ => none
    let s1 := { s.fresh with tops := SMap.put s.tops s.nid ⟨gid, c.g.ctx, d, kind, objs, 0⟩ }
    let owes : List RegW := match d with | some r => [.o s.nid r] | none => []
    exec i s = .next (completed s gid g x.k (objs.foldl
      (fun s2 n => (s2.setObj v n { s2.obj v n with queue := (s2.obj v n).queue ++ [s.nid] }).tierKick 64 v n)
      (s1.updGroup gid (fun g => g.addResults owes))))) ∧
  (∀ (op : Nat) (s : State) (t : TierOp) (g : Group), SMap.get? s.tops op = some t → t.objs = [] →
    SMap.get? s.groups t.gid = some g →
    ∃ u g', exec (.tierStatusReturn op) s = .next u ∧ u.tops = SMap.del s.tops op ∧
      SMap.get? u.groups t.gid = some g' ∧ { u with tops := s.tops, groups := s.groups } = s ∧
      (op ∉ g.owed → g' = g) ∧
      (∀ (k r : Nat), g.pend[k]? = some [RegW.o op r] → (∀ (j : Nat) w r', j ≠ k → g.pend[j]? = some w → RegW.o op r' ∉ w) →
        g'.s = SMap.set g.s Image.zero r ⟨false, 0, BitVec.ofNat 32 t.status⟩ ∧ op ∉ g'.owed ∧ g'.lanes = g.lanes)) ∧
  (∀ (v n : Nat) (s : State),
    ((s.obj v n).st = .low → (s.obj v n).waiters ≠ [] →
      (s.objLost v n = false → exec (.tierPromote v n) s =
        .next (s.setObj v n { s.obj v n with st := .promoting, chain := s.askChain (s.obj v n) })) ∧
      (s.objLost v n = true → exec (.tierPromote v n) s =
        .next (s.setObj v n { s.obj v n with waiters := [] }).devDrain)) ∧
    ((s.obj v n).st = .promoting → s.objLost v n = true →
      exec (.tierPromotionComplete v n) s = exec (.tierFailure v n true) s) ∧
    (∀ fs, (s.obj v n).st = .promoting → s.objLost v n = false → s.pickFrames v n = some fs →
      (s.obj v n).queue = [] → s.devQ = [] →
      ∃ t o, exec (.tierPromotionComplete v n) s = .next t ∧ SMap.get? (t.vd v).objs n = some o ∧
        (o.st = .hbm ∨ o.st = .demoting) ∧ ((s.obj v n).chain = 0 → o.st = .hbm) ∧
        o.frames = fs ∧ o.waiters = [] ∧ t.groups = s.groups) ∧
    (∀ fs, s.pickFrames v n = some fs → s.objFrames v n ≤ fs.length ∧ ∀ f ∈ fs, f ∈ s.freeFrames v) ∧
    (∀ free k r, frameRun free k = some r → r.length = k ∧ (∀ f ∈ r, f ∈ free) ∧
      ∀ i f, r[i]? = some f → f = r.headD 0 + 65536 * i ∧ r.headD 0 % (65536 * k) = 0) ∧
    (let s1 := (s.obj v n).frames.foldl State.flushFrame (s.mapObj v n [])
     (s.obj v n).st = .demoting → (s.obj v n).queue = [] → (s.obj v n).frames.any s1.frameBusy = false →
      ∃ t o, exec (.tierDemotionComplete v n) s = .next t ∧ SMap.get? (t.vd v).objs n = some o ∧ o.st = .low ∧
        o.frames = [] ∧ t.groups = s.groups) ∧
    (∀ lost, (s.obj v n).st ≠ .promoting →
      exec (.tierFailure v n lost) s = .next (s.setObj v n { s.obj v n with lost := (s.obj v n).lost || lost })) ∧
    ((s.obj v n).st = .promoting → (s.obj v n).queue = [] → s.devQ = [] →
      ∃ t o, exec (.tierFailure v n true) s = .next t ∧ SMap.get? (t.vd v).objs n = some o ∧ o.st = .low ∧
        o.lost = true ∧ o.waiters = [] ∧ o.failed = [] ∧ t.mem = s.mem))

-- System and traps

/-- R35 to R38, R73, R273: `csr` on a register that exists, once no result of the group is outstanding. Every form delivers
the old value. A write that the register allows stores the source, the old value with the source's bits set, or with them
cleared: `%rng` in each lane that executes, under U=1 in every lane of the path, `%fflags` in the home groups of a
compacted group, every other register in the group. `%lstate.st` is written once the path stands at the next instruction.
A read-only register, and one of a handler outside it, raise Privilege; a number that names no register Illegal
Encoding. -/
def Obligations.ControlRegisters : Prop :=
  ∀ (x : CsrArgs) (s : State) (gid : Nat) (g : Group),
    let c := GCtx.make g x.k
    let forms : List (Instr × (Nat → Nat → Nat)) := [(.csrWr x, fun _ v => v), (.csrSet x, fun o v => o ||| v),
      (.csrClr x, fun o v => o &&& (v ^^^ (2 ^ 64 - 1)))]
    Issues s gid g x.k (csrRs x) →
    (Csr.ofNum x.num = none → ∀ i ∈ [Instr.csrRd x, .csrWr x, .csrSet x, .csrClr x],
      exec i s = .next (takeTrap s gid (illegal i))) ∧
    (∀ r, Csr.ofNum x.num = some r → g.pend = [] →
      let rd := s.csrClock c.g r
      exec (.csrRd x) s = .next (completed s gid g x.k (rd.1.commit gid (csrOut x r c rd.1 rd.2))) ∧
      (∀ i h, (i, h) ∈ forms → ∀ l0 ls, c.ls = l0 :: ls →
        ((Csr.ro r || (Csr.hOnly r && !g.inH)) = true → exec i s = .next (takeTrap s gid (privilege i))) ∧
        ((Csr.ro r || (Csr.hOnly r && !g.inH)) = false → c.consume [(x.a, r.regs)] c.ls = none →
          let new (l src : Nat) : Nat := h (s.csrVal c.g 0 r l) (c.data x.a src r.regs)
          let s1 := s.commit gid (csrOut x r c s 0)
          (r = .rng → exec i s = .next (completed s gid g x.k (s1.updGroup gid (fun g1 =>
            (if x.k.u then (maskLanes c.run).map (fun l => (l, l0)) else c.ls.map (fun l => (l, l))).foldl
              (fun g2 l => g2.updLane l.1 (fun y => { y with rng := rngWrite (new l.1 l.2) })) g1)))) ∧
          (r = .fflags → exec i s = .next (completed s gid g x.k (s1.setFlags gid c.g (BitVec.ofNat 5 (new l0 l0))))) ∧
          (r = .lst → exec i s = .next (jumped s gid g x.k
            ((s1.updGroup gid (fun g1 => (g1.settleResults).advance c.run x.k)).lstateWrite gid c.g (new l0 l0)))) ∧
          (r ≠ .rng → r ≠ .fflags → r ≠ .lst →
            exec i s = .next (completed s gid g x.k (s1.updGroup gid (fun g1 => g1.setCsr r (new l0 l0))))))))

/-- R272, R276: `nop` only goes on, and so does `stop` without a debugger; with one the group goes on and halts, with its
number, and the virtual device gets a halt notice. -/
def Obligations.NopsAndStops : Prop :=
  ∀ (k : Com) (s : State) (gid : Nat) (g : Group), Issues s gid g k [] →
    exec (.nop k) s = .next (completed s gid g k s) ∧
    let c := GCtx.make g k
    (s.debugged c.g.ctx = false → exec (.stop k) s = .next (completed s gid g k s)) ∧
    (s.debugged c.g.ctx = true → exec (.stop k) s = .next (completed s gid g k
      (((s.updGroup gid (fun g1 => { g1 with halted := some k.imm })).updCtx c.g.ctx
        (fun x => { x with halts := x.halts ++ [gid] })).fqPost (c.g.ctx / 256) (s.haltNotice c.g k.imm))))

/-- R304: trap entry. Every outstanding result is applied (a status word that a `tier` operation still owes the group is
waited for first); `%tcause`, `%tpc`, `%tval` and `%tvalh` are written, `%tpc` with the address of the faulting
instruction; every lane of the running path becomes a lane of the handler path, active at `%tvec` with `%tpc` as its
return PC; the other lanes, the path stack, registers, predicates, tokens, `%prog` and `%fflags` stay as they stood, and
so does every other group. With `%tvec` 0, or in its handler, the trap is unhandled. -/
def Obligations.TrapsEnterTheHandler : Prop :=
  ∀ (s : State) (gid : Nat) (g : Group) (t : Trap),
    SMap.get? s.groups gid = some g →
    let s0 := if t.cause == 0x11 || t.cause == 0x0F then s.clearFailed gid else s
    (g.owed ≠ [] →
      takeTrap s gid t = s.setGroup gid { g with wait := .raise t.cause t.tval t.tvalh, held := none, fresh := false }) ∧
    (g.owed = [] → g.inH = true → takeTrap s gid t = s0.unhandled gid 2 t g.runPc) ∧
    (g.owed = [] → g.inH = false → g.tvec = 0 → takeTrap s gid t = s0.unhandled gid 1 t g.runPc) ∧
    (g.owed = [] → g.inH = false → g.tvec ≠ 0 → ∃ g', SMap.get? (takeTrap s gid t).groups gid = some g' ∧
      g'.regs = g.final ∧ g'.pend = [] ∧
      g'.tcause = t.cause ∧ g'.tpc = g.runPc ∧ g'.tval = t.tval ∧ g'.tvalh = t.tvalh ∧ g'.inH = true ∧
      g'.hDepth = g.stack.length ∧
      (∀ l, inMask g.runMask l = true → (g'.lane l).hnd = true ∧ (g'.lane l).ret = g.runPc ∧ (g'.lane l).pc = g.tvec ∧
        (g'.lane l).st = .active) ∧
      (∀ l, inMask g.runMask l = false → (g'.lane l).pc = (g.lane l).pc ∧ (g'.lane l).st = (g.lane l).st ∧
        (g'.lane l).hnd = (g.lane l).hnd ∧ (g'.lane l).ret = (g.lane l).ret) ∧
      g'.wait = .no ∧ g'.held = none ∧ g'.stack = g.stack ∧ g'.toks = g.toks ∧ g'.prog = g.prog ∧ g'.fflags = g.fflags ∧ g'.tvec = g.tvec ∧
      (∀ j, j ≠ gid → SMap.get? (takeTrap s gid t).groups j = SMap.get? s.groups j) ∧
      { takeTrap s gid t with groups := s.groups, vds := s.vds } = s)

/-- R92, R101, R274, R300: the instructions whose effect is a trap. `trap` and `brkp` raise Software and Breakpoint with
their code, zero-extended; words that decode to no instruction raise Illegal Encoding with words 1 and 0; and the event
of any cause that a group raises takes it at the group's PC. -/
def Obligations.TrapInstructions : Prop :=
  (∀ (k : Com) (s : State) (gid : Nat) (g : Group), Issues s gid g k [] →
    exec (.trap k) s = .next (takeTrap s gid ⟨0x0D, k.imm.zeroExtend 64, 0⟩) ∧
    exec (.brkp k) s = .next (takeTrap s gid ⟨0x0E, k.imm.zeroExtend 64, 0⟩)) ∧
  (∀ (w0 w1 : Word) (s : State) (gid : Nat), s.cur = some gid →
    exec (.unassignedOpcode w0 w1) s = .next (takeTrap s gid ⟨1, w1 ++ w0, 0⟩)) ∧
  (∀ (gid : Nat) (cause : Byte) (tval : DWord) (tvalh : Half) (s : State) (g : Group),
    SMap.get? s.groups gid = some g → g.runMask ≠ 0 → causeRaised cause = true →
    exec (.trapEntry gid cause tval tvalh) s = .next (takeTrap s gid ⟨cause, tval, tvalh⟩))

/-- R307: a group whose trap is unhandled faults its grid, and no further team of the grid is dispatched. -/
def Obligations.UnhandledTrapsFaultTheGrid : Prop :=
  ∀ (s : State) (gid : Nat) (g : Group) (tm : Team) (gr : Grid) (t : Trap),
    SMap.get? s.groups gid = some g → g.owed = [] → (g.inH = true ∨ g.tvec = 0) →
    SMap.get? s.teams g.team = some tm → tm.det = false → SMap.get? s.grids tm.grid = some gr →
    ∃ gr', SMap.get? (takeTrap s gid t).grids tm.grid = some gr' ∧ gr'.fault = true ∧ ∀ p ∈ gr'.parts, p.ranges = []

/-- R194, R195, R300: a load, store or atomic one of whose lanes has a misaligned address raises Misaligned Address, with
the offset of the lowest such lane and the aperture, whatever its other lanes' accesses would raise. -/
def Obligations.MisalignedAccessesTrap : Prop :=
  ∀ (s : State) (gid : Nat) (g : Group),
    let traps (i : Instr) (k : Com) (a : Opnd) (ap : BitVec 3) (n : Nat) (rs os : List (Opnd × Nat)) : Prop :=
      let c := GCtx.make g k
      Issues s gid g k rs → c.consume os c.ls = none → ∀ l0,
        c.ls.find? (fun l => (c.memOff a ap l).toNat % n != 0) = some l0 →
        exec i s = .next (takeTrap s gid ⟨6, c.memOff a ap l0, if ap = 7 then 0xFFFF else g.aper ap⟩)
    (∀ x w, traps (.ld x w) x.k x.a x.ap w.bytes (mrs x w.regs) [(x.a, baseRegs x.ap)]) ∧
    (∀ x f, traps (.ldc x f) x.k x.a x.ap (ldcFmt f).1 (mrs x (if f == .f64f32 then 2 else 1)) [(x.a, baseRegs x.ap)]) ∧
    (∀ x w, traps (.st x w) x.k x.a x.ap w.bytes (mrs x w.regs) [(x.a, baseRegs x.ap), (x.d, w.regs)]) ∧
    (∀ x : StcArgs, traps (.stc x) x.k x.a x.ap (stcFmt x.f).2.2 [(x.a, baseRegs x.ap), (x.b, x.f.regs)]
      [(x.a, baseRegs x.ap), (x.b, x.f.regs)]) ∧
    (∀ i x ms withC fn f, atomForm i = some (x, ms, withC, fn, f) → traps i x.k x.a x.ap (atW x.ty / 8) (ars x withC)
      ([(x.a, baseRegs x.ap), (x.b, x.ty.regs)] ++ (if withC then [(x.c, x.ty.regs)] else [])))

/-- R275, R306: `rte` and `rte.nx` return where the path stack has its depth at entry and the running path is the handler
path, else they raise Privilege. After `rte` every lane of the handler path stands at its return PC; after `rte.nx` one
whose return PC is `%tpc` stands past the instruction there. The group is in no handler, and `%prog` is kept only by `rte`
when a lane goes back to `%tpc`. The model's own choices in it: log 37. -/
def Obligations.ReturnsFromTheHandler : Prop :=
  ∀ (k : Com) (s : State) (gid : Nat) (g : Group), Issues s gid g k [] →
    let back (t : State) (nx : Bool) (r : DWord) (s1 : State) : Prop :=
      t = jumped s gid g k (s1.updGroup gid (fun g1 => g1.rteGo nx r)) ∧
      ∃ g', SMap.get? t.groups gid = some g' ∧ g'.inH = false ∧ g'.wait = .no ∧ g'.final = g.final ∧
        (∀ l, (g'.lane l).hnd = false) ∧
        (∀ l, (g'.lane l).pc = if (g.lane l).hnd = true ∧ (g.lane l).st ≠ .exited ∧ l < 32 then
          (if (g.lane l).ret = g.tpc then r else (g.lane l).ret) else (g.lane l).pc) ∧
        (nx = true → g'.prog = 0)
    let c := GCtx.make g k
    (c.g.mayReturn = false → exec (.rte k) s = .next (takeTrap s gid (privilege (.rte k))) ∧
      exec (.rteNx k) s = .next (takeTrap s gid (privilege (.rteNx k)))) ∧
    (c.g.mayReturn = true →
      (∃ t, exec (.rte k) s = .next t ∧ back t false g.tpc s) ∧
      (∀ s1 w ws, s.fetch c.g gid g.tpc = (s1, .ok (w :: ws)) →
        ∃ t, exec (.rteNx k) s = .next t ∧ back t true (g.tpc + nxBytes w) s1))

-- The easel

/-- R223 to R236: what goes to the easel. With its canvases bound and of the type it needs, and its checks passed, each
of these completes by posting operations behind those of its easel: an `mma` one pass for each k-block from `%prog` on,
while the reservation table has room for them; the others one. A posted operation changes nothing else. -/
def Obligations.EaselInstructionsPost : Prop :=
  ∀ (s : State) (gid : Nat) (g : Group),
    let cl := g.core / 4
    let passes32 := ((s.cluster cl).ops.filter (fun o => o.isPass && !o.done)).length
    let posts (i : Instr) (k : Com) (rs : List (Opnd × Nat)) (pre : GCtx → Prop) (cv : Nat) (kind : GCtx → EKind) : Prop :=
      Issues s gid g k rs → pre (GCtx.make g k) →
        exec i s = .next (completed s gid g k (s.post gid (GCtx.make g k).g cv none 0 0 0 0 (kind (GCtx.make g k))))
    let bound (k : Com) (m : BitVec 4) (suits : CTy → Bool) (v : Nat × Canvas) : Prop :=
      s.canvasOf (GCtx.make g k).g m suits = .ok v
    (∀ (x : MmaArgs) cv, s.passCvs (GCtx.make g x.k).g [(x.cf.m, fun t => t == mmCanvas x.fmt)] = .ok [cv] →
      let n := (x.kn.toNat + 1) * (mmBlock x.fmt).2
      let b := (mmBlock x.fmt).2
      let c := GCtx.make g x.k
      Issues s gid g x.k [(x.a, n), (x.b, n), (x.c, x.kn.toNat + 1), (x.gam, if x.fmt == .f64 then 2 else 1)] →
      c.act ≠ 0 → passes32 + (x.kn.toNat + 1 - g.prog.toNat) ≤ 32 →
      exec (.mma x) s = .next (completed s gid g x.k (((List.range (x.kn.toNat + 1)).drop g.prog.toNat).foldl
        (fun s1 kb => s1.post gid c.g cv none kb x.kn.toNat (opndBase x.b + kb * b) b
          (.pass x.fmt x.mx x.za x.dk x.sat x.tr x.cf.q.toNat (fragImgs c x.a (kb * b) b) (fragImgs c x.b (kb * b) b)
            (if x.mx then scaleImgs c x.c kb else []) (gamImgs c x.dk x.gam (if x.fmt == .f64 then 2 else 1)))) s))) ∧
    (∀ k n1 cf a b v, bound k cf.m (fun t => t == lutTy n1) v →
      posts (.mlutB k n1 cf a b) k [(a, 32), (b, codeRegs n1)] (fun c => c.act ≠ 0) v.1
        (fun c => .lutB (n1.toNat + 1) (fragImgs c a 0 32) (c.imgs b c.low (codeRegs n1)) c.act)) ∧
    (∀ (x : LutArgs) v w, s.passCvs (GCtx.make g x.k).g [(x.cf.m, fun t => t == .f32), (x.mt, fun t => t == lutTy x.n1)] =
        .ok [v, w] →
      let c := GCtx.make g x.k
      let n := x.n1.toNat + 1
      Issues s gid g x.k [(x.b, 2 * n), (x.gam, 1)] → c.act ≠ 0 → passes32 < 32 →
      exec (.mlutA x) s = .next (completed s gid g x.k (s.post gid c.g v (some w) 0 0 (opndBase x.b) (2 * n)
        (.lutA n x.za x.dk x.cf.q.toNat w (fragImgs c x.b 0 (2 * n)) (gamImgs c x.dk x.gam 1) c.act)))) ∧
    (∀ k cf v, bound k cf.m (fun t => cySquare t || cf.wh) v →
      posts (.cnz k cf) k [] (fun _ => True) v.1 (fun _ => .zero cf.wh cf.q.toNat)) ∧
    (∀ (x : CnRegArgs) v, bound x.k x.cf.m (cnRegLoads x.f) v →
      posts (.cnldReg x) x.k [(x.r, 32 * x.f.regs)] (fun c => c.act ≠ 0) v.1
        (fun c => .loadReg x.f x.cf.q.toNat ((maskLanes c.act).map (fun l => (l, c.imgs x.r l (32 * x.f.regs)))))) ∧
    (∀ k cf r v, bound k cf.m (fun t => t == .f32 || t == .f64) v → (v.2.ty = .f64 → opndBase r % 2 = 0) →
      let n := rowRegs v.2.ty
      posts (.cnrowScl k cf r) k [(r, rowBlocks cf * n)] (fun c => c.act ≠ 0) v.1
        (fun c => .scale cf.wh cf.q.toNat (scaleRows c cf n r)) ∧
      posts (.cnrowCscl k cf r) k [(r, n)] (fun _ => True) v.1
        (fun c => .scale cf.wh cf.q.toNat ((List.range (regionN cf.wh)).map (fun j => (j, c.imgs r c.low n))))) ∧
    (∀ cv cv2 kb kn bb br kind,
      let t := s.post gid g cv cv2 kb kn bb br kind
      { t with nid := s.nid, clusters := s.clusters } = s ∧
      ∃ o, (t.cluster cl).ops = (s.cluster cl).ops ++ [o] ∧ o.id = s.nid ∧ o.gid = gid ∧ o.cv = cv ∧ o.cv2 = cv2 ∧
        o.kind = kind ∧ o.kb = kb ∧ o.kn = kn ∧ o.posted = s.clk ∧ o.done = false)

/-- R232 to R236: the canvas instructions that use memory or give results. With the rows' addresses checked, `cnld` posts
the elements of its rows; `cnst` finalises the region row by row, once no operation on the canvas is unwritten and no entry
of the region is poisoned, and posts the bytes, or writes the rows to registers; `cnrow.max` and `cnrow.sum` write the row's
result. The model's own choices in it: log 38. -/
def Obligations.CanvasLoadsStoresAndRows : Prop :=
  ∀ (s : State) (gid : Nat) (g : Group),
    let cl := g.core / 4
    let spec (x : CnMemArgs) (need : Machine.Need) : AccessSpec := ⟨need, false, true, x.f.bytes⟩
    let chks (x : CnMemArgs) (need : Machine.Need) : List Chk := (List.range (regionN x.cf.wh)).map (fun r =>
      s.chk (GCtx.make g x.k).g gid (spec x need) x.ap (rowOff x (GCtx.make g x.k) r) (regionN x.cf.wh * x.f.bytes))
    let checked (x : CnMemArgs) (need : Machine.Need) : Prop := ∀ b ∈ chks x need, ∃ gs es, b = .ok gs es
    let filled (x : CnMemArgs) (need : Machine.Need) : State := s.tlbFills (GCtx.make g x.k).g.core ((chks x need).flatMap (fun b => b.tlbs))
    let rows (x : CnMemArgs) (need : Machine.Need) : List (List Seg) := (chks x need).map (fun b => elemSegs x.f.bytes b.segs)
    let ready (x : CnMemArgs) (need : Machine.Need) : Prop :=
      Issues s gid g x.k [(x.a, baseRegs x.ap)] ∧
        (GCtx.make g x.k).consume [(x.a, baseRegs x.ap)] [(GCtx.make g x.k).low] = none ∧ checked x need ∧
        (need.w = true → s.hostLines ((chks x need).flatMap (fun b => b.segs)) = [])
    (∀ (x : CnMemArgs) v, s.canvasOf (GCtx.make g x.k).g x.cf.m (cnLoads x.f) = .ok v → ready x needR →
      exec (.cnldMem x) s = .next (completed s gid g x.k ((filled x needR).post gid (GCtx.make g x.k).g v.1 none 0 0 0 0
        (.loadMem x.f x.cf.wh x.cf.q.toNat (rows x needR))))) ∧
    (∀ (x : CnMemArgs) v, s.canvasOf (GCtx.make g x.k).g x.cf.m (cnStores x.f) = .ok v → ready x needW →
      s.canvasQuiet cl v.1 = true → canvasPoison v.2 x.cf = none →
      let c := GCtx.make g x.k
      let q := cnFinal c (maskLanes c.run) v.2 x.f x.rm x.sat x.cf (List.range (regionN x.cf.wh))
      exec (.cnstMem x) s = .next (completed s gid g x.k (((filled x needW).commit gid ⟨[], q.2.1, q.2.2⟩).post gid c.g v.1
        none 0 0 0 0 (.storeMem (rows x needW).flatten (q.1.flatMap (fun r => r.2.map (leBytes x.f.bytes))))))) ∧
    (∀ (x : CnRegArgs) v, s.canvasOf (GCtx.make g x.k).g x.cf.m (cnRegStores x.f) = .ok v → Issues s gid g x.k [(x.r, 32 * x.f.regs)] →
      s.canvasQuiet cl v.1 = true →
      let c := GCtx.make g x.k
      let q := cnFinal c (maskLanes c.act) v.2 x.f x.rm false x.cf (List.range 32)
      let w := (q.1.filter (fun r => inMask c.act r.1)).flatMap (fun r => c.wr x.r r.1
        ((r.2.zip (regionRow v.2 x.cf r.1)).flatMap (fun e => plainImgs x.f.regs e.2.p e.1)))
      c.act ≠ 0 → ∃ t g', exec (.cnstReg x) s = .next t ∧ SMap.get? t.groups gid = some g' ∧
        g'.final = w.foldl RegW.onRegs g.final ∧ t.mem = s.mem ∧ t.canvases = s.canvases) ∧
    (∀ k cf r v, s.canvasOf (GCtx.make g k).g cf.m cySquare = .ok v → (v.2.ty = .f64 → opndBase r % 2 = 0) →
      let b := rowBlocks cf
      Issues s gid g k [(r, b * rowRegs v.2.ty)] → s.canvasQuiet cl v.1 = true →
      let c := GCtx.make g k
      c.act ≠ 0 →
      ∀ i f, ((i, f) = (Instr.cnrowMax k cf r, rowMax v.2.ty) ∨
          (i, f) = (Instr.cnrowSum k cf r, rowTree (sumEntry v.2.ty) 6)) →
        ∃ t g', exec i s = .next t ∧ SMap.get? t.groups gid = some g' ∧ t.mem = s.mem ∧ t.canvases = s.canvases ∧
          g'.final = ((maskLanes c.act).flatMap (fun l => c.wr r l ((List.range b).flatMap (fun h =>
            (f (regionRow v.2 cf (32 * h + l))).imgs v.2.ty)))).foldl RegW.onRegs g.final)

/-- R216, R220 to R222: the canvas pool. `cnal.alloc` binds a fresh zero canvas when the pool has slots left for its
type, and fails when the bound ones alone leave none; a grow succeeds with slots free on the easel and none waiting
before it, fails beyond 32 slots and, without `.w`, when it would wait; `cnal.free` unbinds the name; `cnal.trim` gives
slots back that no canvas takes. A grow that must wait stands in the easel's queue, and is answered: the first once its slots are free, the last with
failure when every holder waits; its instruction then completes with that answer in the lanes of its issue. -/
def Obligations.CanvasPool : Prop :=
  ∀ (k : Com) (s : State) (gid : Nat) (g : Group) (t : Team),
    let c := GCtx.make g k
    let cl := g.core / 4
    let preds (pD : BitVec 3) (b : Bool) : List RegW := (maskLanes c.act).map (fun l => .p l pD.toNat b)
    let sets (i : Instr) (pD : BitVec 3) (b : Bool) (s' : State) : Prop := ∃ u g', exec i s = .next u ∧
      SMap.get? u.groups gid = some g' ∧ g'.final = (preds pD b).foldl RegW.onRegs g.final ∧
      u.teams = s'.teams ∧ u.canvases = s'.canvases ∧ (u.cluster cl).free = (s'.cluster cl).free ∧ u.mem = s.mem
    SMap.get? s.teams g.team = some t →
    (Issues s gid g k [] → ∀ cf,
      (∀ pD ty, c.act ≠ 0 → cf.m.toNat < t.canvas → SMap.get? t.binds cf.m.toNat = none →
        (s.slotsUsed g.team true + cySlots ty ≤ t.pool → sets (.cnalAlloc k pD ty cf) pD true
          { s with
            canvases := SMap.put s.canvases s.nid ⟨g.team, ty, true, []⟩
            teams := SMap.put s.teams g.team { t with binds := SMap.put t.binds cf.m.toNat s.nid } }) ∧
        (t.pool < s.slotsUsed g.team true + cySlots ty → t.pool < s.slotsUsed g.team false + cySlots ty →
          sets (.cnalAlloc k pD ty cf) pD false s)) ∧
      (∀ v, s.canvasOf c.g cf.m (fun _ => true) = .ok v → exec (.cnalFree k cf) s = .next (completed s gid g k
        { s with
          teams := SMap.put s.teams g.team { t with binds := SMap.del t.binds cf.m.toNat }
          canvases := SMap.put s.canvases v.1 { v.2 with bound := false } }.sweepCanvases))) ∧
    (∀ b, Issues s gid g k [(b, 1)] → c.consume [(b, 1)] [c.low] = none →
      (∀ pD i, (i = Instr.cnalGrow k pD b ∨ i = .cnalGrowW k pD b) → c.act ≠ 0 →
        (∀ w ∈ (s.cluster cl).grows, w.gid ≠ gid) →
        (s.growNow c.g (cnalN c b) = some true → sets i pD true (s.growPool cl g.team (cnalN c b))) ∧
        (s.growNow c.g (cnalN c b) = some false → sets i pD false s) ∧
        (s.growNow c.g (cnalN c b) = none → i = .cnalGrow k pD b → sets i pD false s)) ∧
      (∀ pD, c.act ≠ 0 → (∀ w ∈ (s.cluster cl).grows, w.gid ≠ gid) → s.growNow c.g (cnalN c b) = none →
        exec (.cnalGrowW k pD b) s = .next (waited (s.updCluster cl (fun x =>
          { x with grows := x.grows ++ [⟨gid, cnalN c b, k, pD, c.act⟩] })) gid g k .grow)) ∧
      (∀ n, n = min (min (cnalN c b) (t.pool - t.canvas)) (t.pool - s.slotsUsed g.team false) →
        n ≤ t.pool - s.slotsUsed g.team true →
        exec (.cnalTrim k b) s = .next (completed s gid g k
          (({ s with teams := SMap.put s.teams g.team { t with pool := t.pool - n } } : State).updCluster cl
            (fun x => { x with free := x.free + n }))))) ∧
    (∀ w ok h, s.growStep cl = some (w, ok) → SMap.get? s.groups w.gid = some h →
      ∃ u h', exec (.canvasGrowGrant cl) s = .next u ∧ u.mem = s.mem ∧
        (u.cluster cl).grows = (s.cluster cl).grows.filter (fun x => x.gid != w.gid) ∧
        (u.cluster cl).free = (s.cluster cl).free - (if ok then w.n else 0) ∧
        SMap.get? u.groups w.gid = some h' ∧ h'.wait = .no ∧
        h'.final = ((maskLanes w.act).map (fun l => RegW.p l w.pD.toNat ok)).foldl RegW.onRegs h.final ∧
        ∀ l, (h'.lane l).pc = if inMask h.runMask l then (h.lane l).pc + comBytes w.k else (h.lane l).pc)

/-- R93, R228, R237, R238, R279, R411, R412: `mwait` goes on once no easel operation of its group is incomplete, `mwait.m`
once none is on the canvas that its name named at its issue, posted or with a register result outstanding, ordered after the
engine's accesses; else it waits. A name that is not bound waits for nothing. A granted pass is done with those that join it;
an operation that completes leaves the easel, once no write that it must see waits for a host. The model's own choices in it:
logs 9, 75. -/
def Obligations.EaselCompletion : Prop :=
  (∀ (k : Com) (cf : CF) (s : State) (gid : Nat) (g : Group), Issues s gid g k [] →
    let c := GCtx.make g k
    let mine (o : EOp) : Prop := o ∈ (s.cluster (g.core / 4)).ops ∧ o.mine (g.ids gid) = true
    let out (e : Nat × RegW) : Prop := e ∈ g.eres ∧ ∃ w ∈ g.pend, e.2 ∈ w
    let cvs := match g.held with | some h => h.cvs | none => (s.bound? c.g cf.m).toList
    let onIt (o : EOp) : Prop := ∃ i ∈ cvs, o.cv = i ∨ o.cv2 = some i
    ((∀ o, ¬ mine o) → (∀ e, ¬ out e) → exec (.mwait k) s = .next (completed s gid g k (s.tokOrder c.g))) ∧
    ((∃ o, mine o) ∨ (∃ e, out e) → exec (.mwait k) s = .next (waited s gid g k .mwait)) ∧
    ((∀ o, mine o → ¬ onIt o) → (∀ e, out e → e.1 ∉ cvs) →
      exec (.mwaitM k cf) s = .next (completed s gid g k (s.tokOrder c.g))) ∧
    ((∃ o, mine o ∧ onIt o) ∨ (∃ e, out e ∧ e.1 ∈ cvs) →
      exec (.mwaitM k cf) s = .next (waited (s.holdCvs gid cvs) gid g k .mwait))) ∧
  (∀ (cl : Nat) (s : State),
    (∀ e, s.nextPass cl = some e → ∃ t, exec (.easelGrant cl) s = .next t ∧
      t = (s.easelDo cl e).fuse cl e 3 ∧ (∀ o ∈ (t.cluster cl).ops, o.id = e.id → o.done = true) ∧
      t.groups = s.groups ∧ t.mem = s.mem) ∧
    (∀ o, s.nextOp cl = some o → (o.done = true ∨ s.reachAll o.core false o.kind.segs = true) →
      ∃ t, exec (.easelOpComplete cl) s = .next t ∧
        t = (if o.done then s else s.easelDo cl o).easelEnd cl o.id ∧ ∀ x ∈ (t.cluster cl).ops, x.id ≠ o.id) ∧
    (∀ o, s.nextOp cl = some o → o.done = false → s.reachAll o.core false o.kind.segs = false →
      exec (.easelOpComplete cl) s = .next (s.askHost s.heldUpd)))

-- Asynchronous work, tokens and synchronisation

/-- R242 to R246, R249: copies. An `acpy` whose geometry is aligned completes its token at once when it moves nothing, goes
on when all its rows are posted, and otherwise posts its rows from `%prog` on, when each passes its checks and no host holds
a line it writes; `agth` and `asct` post one row for each lane whose guard is true. A new operation holds the rows and makes
its token pending; a copy that no host keeps back is performed, and completes only after the older ones of its group, and
with room for its event record, which it then posts. The model's own choices in it: log 24. -/
def Obligations.CopiesPost : Prop :=
  (∀ (x : AcpyArgs) (s : State) (gid : Nat) (g : Group),
    let c := GCtx.make g x.k
    let q := geomOf c x
    let n := if q.x == 0 then 0 else q.y * q.z
    let os := [(x.a, baseRegs x.dap), (x.b, baseRegs x.sap), (x.c, geomRegs x.dims.val)]
    let row (j : Nat) : CopyRow := ⟨(rowChk x q gid c s j).1.segs, (rowChk x q gid c s j).2.segs⟩
    let ev := (acpyEv x.k).map (copyRec c s)
    Issues s gid g x.k os → (g.prog ≠ 0 ∨ g.tokPending x.tok = false) → c.consume os [c.low] = none →
    geomTrap c x q = none →
    (n = 0 → (ev = none ∨ (s.cluster (c.g.core / 4)).evq.length < evqMax) →
      exec (.acpy x) s = .next (completed s gid g x.k (copyNone x.tok gid c s ev))) ∧
    (n ≠ 0 → n ≤ g.prog.toNat → exec (.acpy x) s = .next (completed s gid g x.k s)) ∧
    (g.prog.toNat < n → (∀ j, g.prog.toNat ≤ j → j < n →
        (∃ gs es, (rowChk x q gid c s j).1 = .ok gs es) ∧ (∃ gs es, (rowChk x q gid c s j).2 = .ok gs es) ∧
          s.hostLines (rowChk x q gid c s j).2.segs = []) →
      ∃ s', exec (.acpy x) s = .next (completed s gid g x.k s') ∧ s'.mem = s.mem ∧
        (g.prog = 0 →
          SMap.get? s'.aops s.nid = some (s.opOf gid c.g x.tok (.copy ((List.range n).map row) ev) false) ∧
          (SMap.get? s'.groups gid) = some (g.startTok x.tok .copy s.nid)))) ∧
  (∀ (x : GthArgs) (s : State) (gid : Nat) (g : Group),
    let c := GCtx.make g x.k
    let mem (scatter : Bool) (l : Nat) : Chk :=
      s.chk c.g gid ⟨if scatter then needW else needR, false, false, 4⟩ x.ap (gthRow x c l) x.k.imm.toNat
    let blk (scatter : Bool) (l : Nat) : Chk :=
      s.chk c.g gid ⟨if scatter then needR else needW, false, false, 4⟩ 7 (gthBlk x c l) x.k.imm.toNat
    let posts (i : Instr) (scatter : Bool) : Prop :=
      (c.act = 0 → exec i s = .next (completed s gid g x.k s)) ∧
      (c.act ≠ 0 → g.tokPending x.tok = false → c.consume (gthRs x) (maskLanes c.act) = none →
        (∀ l, inMask c.act l = true → (∃ gs es, mem scatter l = .ok gs es) ∧ (∃ gs es, blk scatter l = .ok gs es) ∧
          (scatter = true → s.hostLines ((mem scatter l).segs ++ (blk scatter l).segs) = [])) →
        ∃ s', exec i s = .next (completed s gid g x.k s') ∧ s'.mem = s.mem ∧
          SMap.get? s'.groups gid = some (g.startTok x.tok .copy s.nid) ∧
          SMap.get? s'.aops s.nid = some (s.opOf gid c.g x.tok
            (.copy ((maskLanes c.act).map (fun l => if scatter then ⟨(blk scatter l).segs, (mem scatter l).segs⟩
              else ⟨(mem scatter l).segs, (blk scatter l).segs⟩)) none) false))
    Issues s gid g x.k (gthRs x) → posts (.agth x) false ∧ posts (.asct x) true) ∧
  (∀ (op : Nat) (s : State) (o : AOp) (rows : List CopyRow) (ev : Option EvRec),
    SMap.get? s.aops op = some o → o.kind = .copy rows ev →
    let cl := o.core / 4
    let reach := s.reachAll o.core false o.kind.segs
    let lost := !o.ran && s.copyLost rows
    let done := s.doCopy (engAcc o.core o.team o.ctx 1 o.chain) rows (o.err || lost)
    let ends := s.olderOp op o = false ∧ (ev ≠ none → (s.cluster cl).evq.length < evqMax)
    (o.ran = false → reach = false → exec (.copyComplete op) s = .next (s.askHost s.heldUpd)) ∧
    ((o.ran = true ∨ reach = true) → ∃ u : State, exec (.copyComplete op) s = .next (u.sweepTeam o.team) ∧
      u.mem = (if o.ran then s else done).mem ∧
      (¬ ends → SMap.get? u.aops op = some { o with ran := true, err := o.err || lost } ∧
        (u.cluster cl).evq = (s.cluster cl).evq) ∧
      (ends → u.aops = SMap.del s.aops op ∧
        (u.cluster cl).evq = (s.cluster cl).evq ++ ev.toList.map (fun r => { r with stamp := s.clk }))))

/-- R30, R241, R247 to R249, R292, R296: tokens and event records. A wait goes on once every named token, or under `any` one
of them, is not pending, and every write that its operations stand for has reached the die; it frees those that are complete
under CLR, and under `any` delivers the set; what follows a complete token is ordered after its engine's accesses. A test
delivers the token's state. An event record is posted at the end of the cluster's queue once the release is performed and
there is room, and taken from its front. The model's own choices in it: log 79. -/
def Obligations.TokensAndEvents : Prop :=
  (∀ (k : Com) (s : State) (gid : Nat) (g : Group),
    let c := GCtx.make g k
    let found (ks : List Nat) : List Tok := ((c.g.ready ks).map c.g.tok).filter (fun t => t.st == .complete)
    let seen (ks : List Nat) : State := s.tokTake c.g (found ks)
    let freed (clr : Bool) (ks : List Nat) : State :=
      if clr then (seen ks).updGroup gid (fun g1 => g1.freeToks (c.g.ready ks)) else seen ks
    (∀ a clr, c.consume [(a, 1)] [c.low] = none →
      let ks := namedToks (c.data a c.low 1)
      (Issues s gid g k [(a, 1)] → (∀ j ∈ ks, (c.g.tok j).st ≠ .pending) → (seen ks).tokTook c.g (found ks) = true →
        exec (.tkwAll k clr a) s = .next (completed s gid g k (freed clr ks))) ∧
      (Issues s gid g k [(a, 1)] → (∃ j ∈ ks, (c.g.tok j).st = .pending) →
        exec (.tkwAll k clr a) s = .next (waited s gid g k .tkw)) ∧
      (∀ d, Issues s gid g k [(d, 1), (a, 1)] → (ks = [] ∨ ∃ j ∈ ks, (c.g.tok j).st ≠ .pending) →
        (seen ks).tokTook c.g (found ks) = true →
        exec (.tkwAny k clr d a) s = .next (completed s gid g k ((freed clr ks).commit gid
          (Out.of (c.wr d c.low (plainImgs 1 false (maskNum (c.g.ready ks))))))))) ∧
    (∀ pD (t : BitVec 4), Issues s gid g k [] →
      let tk := c.g.tok t.toNat
      let ks := if c.act != 0 && tk.st == .complete then [tk] else []
      let out (b : Bool) : Out := Out.of (c.ls.flatMap (fun l => c.wrP pD l b))
      (s.tokTake c.g ks).tokTook c.g ks = true →
      exec (.tkt k pD t) s = .next (completed s gid g k ((s.tokTake c.g ks).commit gid (out (tk.st != .pending)))) ∧
      exec (.tktErr k pD t) s = .next (completed s gid g k ((s.tokTake c.g ks).commit gid
        (out (tk.st == .complete && tk.status != stOk))))) ∧
    (∀ d (t : BitVec 4), Issues s gid g k [(d, 1)] →
      let tk := c.g.tok t.toNat
      let ks := if tk.st == .complete then [tk] else []
      (s.tokTake c.g ks).tokTook c.g ks = true →
      exec (.tktSt k d t) s = .next (completed s gid g k ((s.tokTake c.g ks).commit gid
        (Out.of (c.wr d c.low (plainImgs 1 false
          (match tk.st with | .free => 0 | .pending => 256 | .complete => 512 + tk.status.toNat))))))) ∧
    (∀ eng a, Issues s gid g k [(a, 1)] → c.consume [(a, 1)] [c.low] = none → s.released gid c.g .mod eng = true →
      (s.fence c.g .mod ordSet 0).fenceSent c.g .mod ordSet = true → (s.cluster (g.core / 4)).evq.length < evqMax →
      ∃ s' r, exec (.evq k eng a) s = .next (completed s gid g k s') ∧
        (s'.cluster (g.core / 4)).evq = (s.cluster (g.core / 4)).evq ++ [r] ∧ r.tag = k.imm.toNat % 65536 ∧
        r.vd = g.ctx / 256 ∧ r.value = BitVec.ofNat 32 (c.data a c.low 1) ∧ r.stamp = s.clk)) ∧
  (∀ (cl : Nat) (s : State) (r : EvRec) (rest : List EvRec), (s.cluster cl).evq = r :: rest →
    ∃ t, exec (.eventRecordTake cl) s = .next t ∧ (t.cluster cl).evq = rest ∧ t.groups = s.groups ∧ t.mem = s.mem ∧
      ∀ j gr, SMap.get? s.grids j = some gr → SMap.get? t.grids j =
        some (if gr.counts cl r then ({ gr with heldSeen := gr.heldSeen + 1 } : Grid).unhold else gr))

/-- R250 to R252, R292, R445: collectives. A call of a rank that its caller may name, with aligned buffers whose checks
pass, joins the rank's next instance with what the rank contributes and makes its token pending; with no element it
completes at once. A rank completes, after the older collectives of its group and as an acquire, with what every participant contributed, with
MISMATCH where they differ, with WDRN where a peer withdrew or the communicator is gone, and with OK or WDRN and no result
where the communicator was changed. The model's own choices in it: logs 57, 74, 83. -/
def Obligations.Collectives : Prop :=
  (∀ (x : AcolArgs) (s : State) (gid : Nat) (g : Group) (cm : Comm) (me : Rank),
    let c := GCtx.make g x.k
    let w := acBytes x.ty
    let sb := BitVec.ofNat 64 (c.data x.a c.low 2)
    let rb := BitVec.ofNat 64 (c.data x.b c.low 2)
    let n := c.data x.c c.low 1
    let p := cm.ranks.length
    let h := x.k.imm.toNat
    let r := x.k.ext.toNat % 2 ^ 16
    let joins (i : Instr) (kind : Nat) : Prop :=
      let snd := s.chk c.g gid ⟨needR, false, false, w⟩ x.ap sb (acSend kind n p * w)
      let rcv := s.chk c.g gid ⟨needW, false, false, w⟩ x.ap rb (acRecv kind n p * w)
      (∃ gs es, snd = .ok gs es) → (∃ gs es, rcv = .ok gs es) → s.hostLines rcv.segs = [] →
      s.reachAll c.g.core false (snd.segs ++ rcv.segs) = true →
      ∃ t g' k q, exec i s = .next t ∧ SMap.get? t.groups gid = some g' ∧ g'.final = g.final ∧
        g'.toks = (if n = 0 then g.endTok x.tok .coll q.id stOk else g.startTok x.tok .coll q.id).toks ∧
        SMap.getD t.mod.collSeq 0 (h * 4096 + r) = SMap.getD s.mod.collSeq 0 (h * 4096 + r) + 1 ∧
        k ∈ t.mod.colls ∧ k.comm = h ∧ k.inst = SMap.getD s.mod.collSeq 0 (h * 4096 + r) ∧ q ∈ k.ranks ∧ q.rank = r ∧
        q.gid = gid ∧ q.kind = kind ∧ q.ty = x.ty ∧ q.n = n ∧ q.data.length = acSend kind n p ∧ q.send = snd.segs ∧
        q.recv = rcv.segs
    Issues s gid g x.k (acrs x) → g.tokPending x.tok = false →
    c.consume [(x.a, 2), (x.b, 2), (x.c, 1)] [c.low] = none → sb.toNat % w = 0 → rb.toNat % w = 0 →
    s.acolRank c.g x.k = some (cm, me) →
    joins (.acolAllred x) 0 ∧ joins (.acolAllgath x) 1 ∧ joins (.acolRedscat x) 2) ∧
  (∀ (h r : Nat) (s : State) (k : Coll) (x : CollRank),
    s.mod.colls.find? (fun c => c.comm == h && c.ranks.any (fun x => x.rank == r) && !c.doneRanks.contains r) = some k →
    k.ranks.find? (fun x => x.rank == r) = some x →
    let s1 := s.joinAll (x.core / 128)
    let ends (st : Byte) (v : Option (List (Nat × Bool))) : State := (s1.draw.acEnd h k x st v).updMod Module.sweepColls
    let wait : Prop := s.mod.olderColl x = true
    let may : Prop := s.mod.olderColl x = false ∧ s.reachAll x.core false (x.send ++ x.recv) = true ∧
      s1.joinedAll (x.core / 128) = true
    (wait → exec (.collectiveComplete h r) s = .next s) ∧
    (may → s1.mod.comm? h = none → exec (.collectiveComplete h r) s = .next (ends stWdrn none)) ∧
    (∀ cm, may → s1.mod.comm? h = some cm →
      (k.wdrn = true → exec (.collectiveComplete h r) s = .next (ends stWdrn none)) ∧
      (k.wdrn = false → k.chg = true → ∃ st, (st = stOk ∨ st = stWdrn) ∧
        exec (.collectiveComplete h r) s = .next (ends st none)) ∧
      (∀ ps, k.wdrn = false → k.chg = false →
        (List.range cm.ranks.length).map (fun q => k.part cm.ranks r q) = ps.map some →
        let a := ps.headD ⟨0, 0, 0, [], []⟩
        ((∀ o ∈ ps, o.kind = a.kind ∧ o.ty = a.ty ∧ o.n = a.n) →
          exec (.collectiveComplete h r) s = .next (ends stOk (some (acResult x.kind x.ty x.n r ps)))) ∧
        ((∃ o ∈ ps, o.kind ≠ a.kind ∨ o.ty ≠ a.ty ∨ o.n ≠ a.n) →
          exec (.collectiveComplete h r) s = .next (ends stMismatch none)))))

/-- R253 to R259, R313, R406, R408: barriers and dependent launch. An arrival whose release is performed counts at its side;
a wait goes on once the generation exceeds its group's count, which then rises, with every write handed off that must come
along, and else it waits, or raises Barrier where no group of the team can come; `.sync` arrives, once, and waits; none may
be used undeclared or by a compacted group. `gate` goes on once the grid's predecessor is released, `rels` releases the
group. The model's own choices in it: logs 26, 79. -/
def Obligations.BarriersAndGates : Prop :=
  (∀ (x : BarArgs) (s : State) (gid : Nat) (g : Group), Issues s gid g x.k [] →
    let c := GCtx.make g x.k
    let n := x.n.toNat
    let sc := barScope x.lvl
    (s.barAt g x.lvl n = none → ∀ i ∈ [Instr.barArrive x, .barWait x, .barSync x],
      exec i s = .next (takeTrap s gid (barTrap 1))) ∧
    (∀ b, s.barAt g x.lvl n = some b →
      (g.compacted = true → ∀ i ∈ [Instr.barArrive x, .barWait x, .barSync x],
        exec i s = .next (takeTrap s gid (barTrap 2))) ∧
      (g.compacted = false →
        let sent := s.fence c.g sc ordSet 0
        let arrived := sent.arrive gid c.g x.lvl n b.arr
        let counted := g.prog != 0 || (g.inH && g.wait == .bar x.lvl n b.wai true)
        let went (s1 : State) : State := (s1.handOff c.g sc).updGroup gid (fun g1 => g1.bumpW x.lvl n b.wai)
        let came (s1 : State) : Prop := (s1.handOff c.g sc).handedOff c.g sc = true
        let may := s.released gid c.g sc x.eng = true ∧ sent.fenceSent c.g sc ordSet = true ∧
          (x.lvl = .team ∨ sent.inFlight gid c.g < 16)
        let passed := exceeds b.gen (g.wCount x.lvl n b.wai)
        let w : Wait := .bar x.lvl n b.wai false
        let dead := x.lvl == .team && (s.updGroup gid (fun g1 => { g1 with wait := w })).deadlocked g.team
        (may → exec (.barArrive x) s = .next (completed s gid g x.k arrived)) ∧
        (passed = true → came s →
          exec (.barWait x) s = .next (completed s gid g x.k (went s)) ∧
          (counted = true → exec (.barSync x) s = .next (completed s gid g x.k (went s)))) ∧
        (passed = false → dead = false → exec (.barWait x) s = .next (waited s gid g x.k w)) ∧
        (passed = false → dead = true →
          exec (.barWait x) s = .next (takeTrap (s.deadlock g.team gid) gid (barTrap 3))) ∧
        (∀ b1 g1, counted = false → may →
          let s1 := arrived.updGroup gid (fun g1 => g1.setProg 1)
          SMap.get? s1.groups gid = some g1 → s1.barAt g1 x.lvl n = some b1 → b1.wai = b.wai →
          exceeds b1.gen (g1.wCount x.lvl n b.wai) = true → came s1 →
          exec (.barSync x) s = .next (completed s gid g x.k (went s1)))))) ∧
  (∀ (s : State) (gid : Nat) (g : Group) (t : Team) (b : TBar) (n : Nat),
    SMap.get? s.teams g.team = some t → SMap.get? t.bars n = some b →
    ∃ t' b', SMap.get? (s.arrive gid g .team n 0).teams g.team = some t' ∧ SMap.get? t'.bars n = some b' ∧
      b'.empty = b.empty ∧ b'.full.tgt = b.full.tgt ∧
      (b.full.tgt ≤ b.full.cnt + 1 → b'.full.cnt = 0 ∧ b'.full.gen = b.full.gen + 1) ∧
      (b.full.cnt + 1 < b.full.tgt → b'.full.cnt = b.full.cnt + 1 ∧ b'.full.gen = b.full.gen)) ∧
  (∀ (i n : Nat) (s : State) (gr : Grid) (f : Nat × Nat), SMap.get? s.grids i = some gr → gr.fwd[n]? = some f →
    let gr' : Grid := { gr with fwd := gr.fwd.eraseIdx n }
    let gr' : Grid := if f.2 = 4 then { gr' with relTeams := gr.relTeams + 1 }
      else { gr' with bars := SMap.upd gr.bars f.2 BarSide.arrive }
    exec (.barrierArrivalForward i n) s = .next { s with grids := SMap.put s.grids i gr' }) ∧
  (∀ (k : Com) (eng : Bool) (s : State) (gid : Nat) (g : Group), Issues s gid g k [] →
    let c := GCtx.make g k
    (s.predReleased c.g.team = true → (s.handOff c.g .mod).handedOff c.g .mod = true →
      exec (.gate k) s = .next (completed s gid g k (s.handOff c.g .mod))) ∧
    (s.predReleased c.g.team = false → exec (.gate k) s = .next (waited s gid g k .gate)) ∧
    let sent := s.fence c.g .mod ordSet 0
    (s.released gid c.g .mod eng = true → sent.fenceSent c.g .mod ordSet = true → sent.inFlight gid c.g < 16 →
      ∃ t g', exec (.rels k eng) s = .next t ∧
      SMap.get? t.groups gid = some g' ∧ g'.released = true ∧ g'.final = g.final))

-- Tasks and continuations

/-- R260, R261, R394, R403: `rtsk.spawn` reads its record once its release is performed and no write that it must see waits
for a host, and, when the grid is admitted, makes its token pending for it; with 64 nested tasks of the context outstanding
it waits. `rtsk.done` truncates its grid and stops its dispatch: no range of it is left. The model's own choices in it: log
30. -/
def Obligations.RangeTasks : Prop :=
  ∀ (k : Com) (s : State) (gid : Nat) (g : Group),
    let c := GCtx.make g k
    (∀ ap tok a gs es, Issues s gid g k [(a, 2)] → g.tokPending tok = false → c.consume [(a, 2)] [c.low] = none →
      s.chk c.g gid ⟨needR, false, false, 256⟩ ap (c.memOff a ap c.low) 256 = .ok gs es →
      s.released gid c.g .die false = true → s.reachAll c.g.core false gs = true →
      (64 ≤ s.nested c.g.ctx → exec (.rtskSpawn k ap tok a) s = .next (waited s gid g k .spawn)) ∧
      (s.nested c.g.ctx < 64 →
        let s1 := (s.fence c.g .die ordSet 0).tlbFills c.g.core es
        let r := s1.readSegs (s1.accOf c.g 0) .die .nrm gs
        ∀ s2 i, r.1.acceptLaunch c.g.ctx (c.g.core / 128) 0 0 (c.memOff a ap c.low) (c.g.aper ap) r.2.1 r.2.2
            (some (gid, (tok.map (fun t => t.toNat)).getD 16)) (s1.gridOf c.g) gid = .ok s2 i →
          exec (.rtskSpawn k ap tok a) s = .next (completed s gid g k
            (evGridComplete i ((s2.updGrid i (fun g1 => { g1 with also := (c.g.ids gid).tail })).updGroup gid
              (fun g1 => g1.startTok tok .spawn i)))))) ∧
    (∀ t gr, Issues s gid g k [] → SMap.get? s.teams g.team = some t → SMap.get? s.grids t.grid = some gr →
      ∃ u gr', exec (.rtskDone k) s = .next u ∧ SMap.get? u.grids t.grid = some gr' ∧ gr'.trunc = true ∧
        (∀ p ∈ gr'.parts, p.ranges = []) ∧ u.mem = s.mem ∧
        (SMap.get? u.groups gid).map Group.final = some g.final)

/-- R262 to R271, R296, R332: continuations. Outside a handler and a compacted group, with an aligned address whose checks
pass, capacity enough, no result owed and its accesses performed, `susp` writes header and body of its group over an object
that is neither suspended nor resuming, the body as the group stands at the next instruction, keeps the completions of its
tokens, and the group leaves. On an object whose header passes its checks `resm` loads a detached group and consumes the
object, `resm.join` loads it into a spare slot of its team, or gives false where there is none, `ccpy` writes a copy with
the next GEN and every token complete, which it waits for, and `cdsc` discards it and the completions kept for it; a header
that fails raises its own trap, and a poisoned object sub-code 0x0A. The model's own choices in it: logs 27, 84. -/
def Obligations.Continuations : Prop :=
  ∀ (k : Com) (s : State) (gid : Nat) (g : Group),
    let c := GCtx.make g k
    let ac := s.accOf c.g 3
    let sp : AccessSpec := ⟨needRW, false, false, 1⟩
    let die := s.mod.dieReg (c.g.core / 128)
    (∀ sc rights ap a b gs es,
      let off := c.memOff a ap c.low
      let size := 0x80 + bodySize c.g
      let cap := c.data b c.low 1
      Issues s gid g k [(a, 2), (b, 1)] → c.g.compacted = false → c.g.inH = false →
      c.consume [(a, 2), (b, 1)] [c.low] = none → off.toNat % 256 = 0 →
      s.chk c.g gid ⟨needW, false, false, 1⟩ ap off size = .ok gs es → size ≤ cap → s.hostLines gs = [] →
      s.suspReady gid c.g sc = true → s.reachAll c.g.core true gs = true →
      let s1 := (s.tlbFills c.g.core es).updGroup gid (fun g1 => g1.settleResults)
      let at' := s1.accOf c.g 3
      let r := s1.objRead at' (subSegs gs 0 0x80)
      let h := parseHdr r.2.1
      let s2 := r.1.fence c.g sc suspSet 0
      (objPois r.1 gs 0x20 = true → exec (.susp k sc rights ap a b) s = .next (takeTrap r.1 gid (h.trap 0x0A))) ∧
      (objPois r.1 gs 0x20 = false → s2.fenceSent c.g sc suspSet = true → h.state ≠ stSusp → h.state ≠ stResuming →
        let g1 := { (g.settleResults).advance c.run k with prog := 0 }
        let hd := objHeader g1 0 ((h.gen + 1) % 2 ^ 64) stSusp rights.toNat (s2.mod.dieReg (c.g.core / 128))
          (s2.owner c.g.ctx) cap (crc64 (objBody g1))
        exec (.susp k sc rights ap a b) s = .next (jumped s gid g k
          (((s2.objWrite at' gs (hd ++ objBody g1)).holdToks g1.ctx sc g1).suspLeave gid g1)))) ∧
    (∀ a ap gs es, c.consume [(a, 2)] [c.low] = none →
      let off := c.memOff a ap c.low
      off.toNat % 256 = 0 → s.chk c.g gid sp ap off 0x80 = .ok gs es → s.hostLines gs = [] →
      s.reachAll c.g.core true gs = true →
      let s0 := s.tlbFills c.g.core es
      let r := s0.objRead ac gs
      let h := parseHdr r.2.1
      let owner := s0.owner c.g.ctx
      (Issues s gid g k [(a, 2)] →
        (objPois r.1 gs 0x80 = true → exec (.cdsc k ap a) s = .next (takeTrap r.1 gid (h.trap 0x0A))) ∧
        (∀ t, objPois r.1 gs 0x80 = false → h.check 2 die owner = some t →
          exec (.cdsc k ap a) s = .next (takeTrap r.1 gid t)) ∧
        (objPois r.1 gs 0x80 = false → h.check 2 die owner = none →
          let b := r.1.objRead ac (s.chk c.g gid ⟨needR, false, false, 1⟩ ap off (0x80 + h.size)).segs
          exec (.cdsc k ap a) s = .next (completed s gid g k
            ((b.1.dropToks c.g.ctx h (b.2.1.drop 0x80)).objState ac gs stDiscarded))) ∧
        (∀ sc pD t, h.check 0 die owner = some t →
          let e := if objPois r.1 gs 0x80 then h.trap 0x0A else t
          exec (.resm k sc ap pD a) s = .next (takeTrap r.1 gid e) ∧
          exec (.resmJoin k sc ap pD a) s = .next (takeTrap r.1 gid e)) ∧
        (∀ sc pD join t gs1 es1, SMap.get? s.teams c.g.team = some t → h.check 0 die owner = none →
          let p (v : Bool) (s1 : State) : State := s1.commit gid (Out.of (c.wrP pD c.low v))
          let slot := s0.spareSlot c.g.team
          let s2 := (r.1.tlbFills c.g.core es1).handOff c.g sc
          let q := s2.objRead ac gs1
          let body := q.2.1.drop 0x80
          (slot = none → exec (.resmJoin k sc ap pD a) s = .next (completed s gid g k (p false r.1))) ∧
          ((join = true → slot.isSome = true ∧ h.vbud ≤ t.maxBud ∧ h.sregs ≤ t.sregs) →
            s0.chk c.g gid sp ap off (0x80 + h.size) = .ok gs1 es1 → s2.handedOff c.g sc = true →
            s2.reachAll c.g.core true gs1 = true → q.2.2 = false → crc64 body = h.crc →
            (join = false → exec (.resm k sc ap pD a) s = .next (completed s gid g k
              (((p true q.1).loadDetached c sc h body).objState ac gs1 stConsumed))) ∧
            (join = true → exec (.resmJoin k sc ap pD a) s = .next (completed s gid g k
              (((p true q.1).loadJoined c sc h body (slot.getD 0) t).objState ac gs1 stConsumed)))))) ∧
      (∀ cc rights dap dgs des bgs bes dbs dbe capR,
        let dof := c.memOff cc dap c.low
        Issues s gid g k [(cc, 2), (a, 2), (capR, 1)] → g.wait ≠ .ccpy →
        c.consume [(cc, 2), (a, 2), (capR, 1)] [c.low] = none → dof.toNat % 256 = 0 →
        s.chk c.g gid sp dap dof 0x80 = .ok dgs des → s.hostLines (gs ++ dgs) = [] →
        s.reachAll c.g.core true (gs ++ dgs) = true →
        let s1 := s.tlbFills c.g.core (es ++ des)
        let r := s1.objRead ac gs
        let h := parseHdr r.2.1
        let q := (r.1.objState ac gs stResuming).objRead ac dgs
        let d := parseHdr q.2.1
        let cap := c.data capR c.low 1
        (∀ t, objPois r.1 gs 0x80 = false → h.check 1 die (s1.owner c.g.ctx) = some t →
          exec (.ccpy k rights ap dap cc a capR) s = .next (takeTrap r.1 gid t)) ∧
        (objPois r.1 gs 0x80 = false → h.check 1 die (s1.owner c.g.ctx) = none → objPois q.1 dgs 0x20 = false →
        d.state ≠ stSusp → d.state ≠ stResuming → 0x80 + h.size ≤ cap →
        s1.chk c.g gid sp ap off (0x80 + h.size) = .ok bgs bes → s1.chk c.g gid sp dap dof (0x80 + h.size) = .ok dbs dbe →
        s1.hostLines (bgs ++ dbs) = [] → s1.reachAll c.g.core true (bgs ++ dbs) = true →
        let v := (q.1.tlbFills c.g.core (bes ++ dbe)).objRead ac bgs
        let body := v.2.1.drop 0x80
        v.2.2 = false → crc64 body = h.crc →
        ((∃ e ∈ bodyToks h body, e.pending = true ∧ s1.tokFound c.g.ctx e = none) →
          exec (.ccpy k rights ap dap cc a capR) s = .next (waited v.1 gid g k .ccpy)) ∧
        ((∀ e ∈ bodyToks h body, e.pending = true → s1.tokFound c.g.ctx e ≠ none) →
          exec (.ccpy k rights ap dap cc a capR) s = .next (completed s gid g k
            ((v.1.objWrite ac dbs (copyObj v.2.1 h (doneEntries s1 c.g.ctx (bodyToks h body))
              ((max h.gen d.gen + 1) % 2 ^ 64) (h.rights &&& rights.toNat) die cap)).objState ac gs stSusp))))))

-- Groups, the dispatcher and grids

/-- R94 to R96, R181, R217, R301 to R303, R346, R355, R471: what befalls a group beside its instructions. A result that
returns is written to the group's registers, in the lanes in which it returns, once its team's accesses to memory-side pages
have their replies. An uncorrected error poisons the image,
memory unit, canvas entry or team-store word that it meets, a corrected one nothing, and both leave a record; group state
that is lost ends its group as an unhandled Poison Consumed of KIND 5, and state that is corrected is only counted. A group
whose lanes have all exited, with nothing outstanding, leaves its core. The model's own choices in it: logs 23, 68, 87. -/
def Obligations.GroupEvents : Prop :=
  ∀ (s : State) (gid : Nat) (g : Group), SMap.get? s.groups gid = some g →
    let sev (c : Bool) : Nat := if c then 0 else 1
    let recd (s1 : State) (src core ctx loc : Nat) (c : Bool) : State :=
      (s1.relRec src (sev c) (core / 128) (core / 4 % 32) (ctx + 1) loc).corrected (core / 4) c
    let ctxOf (t : Team) : Nat := (SMap.get? s.grids t.grid).elim 0 (fun g => g.ctx)
    (∀ idx m, s.reading g.team = true → exec (.resultReturn gid idx m) s = .next s) ∧
    (∀ idx m w, s.reading g.team = false → g.pend[idx]? = some w → ∃ g',
      let t := { s with groups := SMap.put s.groups gid g' }
      exec (.resultReturn gid idx m) s = .next t ∧
      g'.regs = (w.filter (fun x => match x with
        | .v l _ _ | .p l _ _ => inMask m l
        | .s .. => true
        | .o .. => false)).foldl RegW.onRegs g.regs) ∧
    (∀ part, part ≠ 0 → part.toNat ≤ 7 →
      exec (.groupStateLost gid part .corrected) s = .next (recd s 1 g.core g.ctx g.slot true) ∧
      ∀ num, let src := if part = 1 ∨ part = 5 ∨ part = 6 then num.toNat else 0
        exec (.groupStateLost gid part (.lost num)) s = .next ((recd s 1 g.core g.ctx g.slot false).unhandled gid 5
          ⟨7, BitVec.ofNat 64 (3 * 2 ^ 62 + part.toNat * 256 + src), 0⟩ g.runPc)) ∧
    (∀ r lane c, Opnd.isReg r = true → g.inRange (r, 1) = true → lane < 32 →
      exec (.regfileError gid r lane c) s =
        .next (recd (if c then s else s.setGroup gid (g.poisonReg r lane)) 1 g.core g.ctx lane c)) ∧
    (∀ n : Fin 60, SMap.wf Image.zero g.s = true → (g.poisonReg (.s n) 0).sImg n.val = { g.sImg n.val with p := true }) ∧
    (∀ pa e, s.holdsUnit (pa / 32) e.loc = false → exec (.memoryUnitError pa e) s = .next s) ∧
    (∀ pa e, s.holdsUnit (pa / 32) e.loc = true →
      let u := pa / 32
      let r := s.errUnit pa e.loc
      ∃ s1 t, exec (.memoryUnitError pa e) s = .next t ∧
        s1 = (if e.corrected then s else s.unitErr u e.loc).relRec r.1 (sev e.corrected) r.2.1 r.2.2 0 pa ∧
        t.mem = s1.mem ∧ t.poison = s1.poison ∧ t.groups = s.groups ∧
        ((∀ d, e.loc = .memory → s.mod.place pa = .die d → e.corrected = true →
          let k := stackOf s.mod pa
          let row := rowKey (bankRow s.mod k.2)
          t = s1.updStack k.1 (fun x => { x with rowCorr := SMap.put x.rowCorr row (SMap.getD x.rowCorr 0 row + 1) })) ∧
         (∀ d, e.loc = .memory → s.mod.place pa = .die d → e.corrected = false →
          let k := stackOf s.mod pa
          rowKey (bankRow s.mod k.2) ∈ (t.stack k.1).rowBad))) ∧
    (∀ u d, s.mod.place (32 * u) = .die d →
      (∀ l, SMap.get? (s.die d).l2 (u / 8) = some l → l.wr.testBit (u % 8) = true → s.unitErr u .memory = s) ∧
      (SMap.get? (s.die d).l2 (u / 8) = none → (∀ x ∈ (s.die d).msc, x.2.line ≠ u / 8) → SMap.wf false s.poison = true →
        (s.unitErr u .memory).unitP u = true) ∧
      (∀ l, SMap.get? (s.die d).l2 (u / 8) = some l → l.val.testBit (u % 8) = true →
        (s.unitErr u .l2).unitP u = true)) ∧
    (∀ u cn, (s.unitErr u (.l1 cn)).mem = s.mem ∧ SMap.get? ((s.unitErr u (.l1 cn)).core cn).l1 (u / 8) =
      (SMap.get? (s.core cn).l1 (u / 8)).map (fun l => { l with p := l.p ||| 2 ^ (u % 8) })) ∧
    (∀ team cid idx c cv t, SMap.get? s.canvases cid = some cv → SMap.get? s.teams team = some t → cv.team = team →
      let n := CTy.entries cv.ty
      let i := if cv.ty == .f64 then idx % n else idx
      idx < (if cv.ty == .f64 then 2 * n else n) → exec (.canvasEntryError team cid idx c) s =
        .next (recd (if c then s else s.updCanvas cid (fun x => { x with
          elems := SMap.set x.elems CElem.zero i { SMap.getD x.elems CElem.zero i with p := true } }))
          2 t.core (ctxOf t) idx c)) ∧
    (∀ team addr c t, SMap.get? s.teams team = some t → addr < t.scratch → s.inShadow team t = false →
      exec (.teamStoreError team addr c) s = .next (recd (if c then s else s.updCore t.core (fun x =>
        { x with tsP := SMap.set x.tsP false ((t.tsBase + addr) / 4) true })) 3 t.core (ctxOf t) addr c)) ∧
    (s.mayRetire gid g = true → exec (.groupRetire gid) s =
      .next (((s.removeGroup gid).countRelease g.team false).sweepTeam g.team)) ∧
    (s.mayRetire gid g = false → exec (.groupRetire gid) s = .next s)

/-- R387 to R395, R403, R413 to R415, R420 to R422, R433 to R435, R310, R314, R319, R373: packets. One that is no request
packet is refused with a record. One that arrives while acceptance is stopped, or behind one of its queue that waits, stays
queued, one that arrives during a reset of its VD is discarded, and one whose context table or record is a tier object waits
for it. A PASID that no entry in force names is refused. A LAUNCH whose record is read is admitted as a grid of that record,
refused or not; one with a misaligned or unreadable record, or without a free slot, is refused and counted. DESTROY ends the
grid of a queue slot, or reports NOSLOT; PREEMPT begins a cut; RESTORE reports what comes of its image, or resumes what a save
that faulted stopped; a packet that a cut of its context holds up waits for its end. The model's own choices in it: logs 30,
49, 55, 100. -/
def Obligations.PacketsAct : Prop :=
  ∀ (w : NotifyWr) (s : State),
    let p := parsePkt w.bytes
    let all : List (Nat × Instr) := [(1, .launch w), (2, .destroy w), (3, .destroyF w), (4, .preempt w), (5, .restore w)]
    (s.full = false → exec (.notifyWrite w) s = .next s ∧ ∀ e ∈ all, exec e.2 s = .next s) ∧
    (s.full = true → ∀ v r, s.notify w = .refuse v r → exec (.notifyWrite w) s = .next (s.refusePkt v r w)) ∧
    (s.full = true → ∀ v die q, s.notify w = .ok v die q → exec (.notifyWrite w) s = .next s) ∧
    (∀ v die q e, s.full = true → s.notify w = .ok v die q → e ∈ all → p.kind = e.1 →
      let busy := (s.vd v).saving = true ∨ ∃ x ∈ (s.vd v).queued, sameQueue w x = true
      ((s.vd v).reset ≠ 0 → exec e.2 s = .next s) ∧
      ((s.vd v).reset = 0 → busy → exec e.2 s = .next (s.updVd v (fun d => { d with queued := d.queued ++ [w] }))) ∧
      ((s.vd v).reset = 0 → ¬ busy →
        (∀ o, s.ctTier v = some o → exec e.2 s = .next ((s.awaitTier v o).putBack v w)) ∧
        (∀ s1, s.ctTier v = none → s.ctxOf v (notifyPas w) = (s1, none) →
          exec e.2 s = .next (s1.refusePkt v rsPasid w)))) ∧
    (∀ v die q s1 ctx, s.full = true → s.notify w = .ok v die q → s.takePkt true v w = (s, true) → s.ctTier v = none →
      s.ctxOf v (notifyPas w) = (s1, some ctx) →
      (p.kind = 1 →
        let refuse (s2 : State) (why : Nat) : State := (s2.refusePkt v why w).count die ctx
          (fun c => { c with refusals := State.ctr64 (c.refusals + 1) })
        let rd := s1.ctxRead die ctx 0 p.aper p.addr 256 256
        (p.addr.toNat % 256 ≠ 0 → exec (.launch w) s = .next (refuse s1 rsRecord)) ∧
        (p.addr.toNat % 256 = 0 →
          (∀ o, rd = .tier o → exec (.launch w) s = .next ((s1.awaitTier v o).putBack v w)) ∧
          (∀ s2 x, rd = .bad s2 x → exec (.launch w) s = .next (refuse s2 rsRecord)) ∧
          (∀ s2 b ps, rd = .ok s2 b ps →
            let a := s2.acceptLaunch ctx die q p.seq p.addr p.aper b (ps.any id) none none 0
            (a = .full → exec (.launch w) s = .next (refuse s2 rsQuota)) ∧
            (∀ o, a = .wait o → exec (.launch w) s = .next ((s2.awaitTier v o).putBack v w)) ∧
            (∀ s3 i, a = .ok s3 i → exec (.launch w) s = .next (evGridComplete i s3) ∧
              ∃ g, SMap.get? s3.grids i = some g ∧
                g.lr = parseRec b ∧ g.ctx = ctx ∧ g.vd = ctx / 256 ∧ g.recv = die ∧ g.queue = q ∧ g.seq = p.seq ∧
                g.addr = p.addr ∧ g.aper = p.aper ∧ g.teams = g.lr.gx * g.lr.gy * g.lr.gz ∧ g.posted = false ∧
                (g.refused ≠ none → ∀ x ∈ g.parts, x.ranges = [] ∧ x.st = .running) ∧
                (ps.any id = true → g.refused = some rsRecord))))) ∧
      (∀ force : Bool, p.kind = (if force then 3 else 2) →
        let i : Instr := if force then .destroyF w else .destroy w
        (s1.slotGrid v die p.qslot = none → exec i s = .next (s1.statusRec die ctx p csNoslot 0)) ∧
        (∀ n g, s1.slotGrid v die p.qslot = some (n, g) →
          (s1.cutOf g.ctx ≠ none → exec i s = .next (s1.waitCut g.ctx w)) ∧
          (s1.cutOf g.ctx = none →
            (g.posted = true ∨ s1.gridOver n g = true → exec i s = .next (s1.statusRec die ctx p csNoslot 0)) ∧
            (g.posted = false → s1.gridOver n g = false →
              exec i s = .next ((State.destroyGrid force 64 n s1).statusRec die ctx p csOk 0))))) ∧
      (∀ k, s1.cutOf ctx = some k → (p.kind = 4 → exec (.preempt w) s = .next (s1.waitCut ctx w)) ∧
        (p.kind = 5 → exec (.restore w) s = .next (s1.waitCut ctx w))) ∧
      (p.kind = 4 → s1.cutOf ctx = none → exec (.preempt w) s =
        .next (s1.beginCut ctx ⟨targetOf p.target, die, none, p.addr, p.aper, p.staddr, p.seq, []⟩)) ∧
      (p.kind = 5 → s1.cutOf ctx = none →
        let faulted := ∃ x, SMap.get? s1.ctxs ctx = some x ∧ ∃ f ∈ x.faults, f.2 = (p.aper, p.addr)
        let ar : Area := .space die ctx p.aper p.addr
        (faulted → exec (.restore w) s = .next ((s1.updCtx ctx (fun x =>
          { x with faults := x.faults.filter (fun f => f.2 != (p.aper, p.addr)) })).statusRec die ctx p csRestored 0)) ∧
        (¬ faulted →
          (p.addr.toNat % 4096 ≠ 0 ∨ s1.restoreImage ctx ar = .refused →
            exec (.restore w) s = .next (s1.statusRec die ctx p csRefused rsImage)) ∧
          (∀ s2, p.addr.toNat % 4096 = 0 → s1.restoreImage ctx ar = .ok s2 →
            exec (.restore w) s = .next (s2.statusRec die ctx p csRestored 0)) ∧
          (∀ s2, p.addr.toNat % 4096 = 0 → s1.restoreImage ctx ar = .wait s2 →
            exec (.restore w) s = .next (s2.putBack v w))))) ∧
    (∀ ctx c, (s.beginCut ctx c).mem = s.mem ∧ (SMap.get? s.ctxs ctx ≠ none → (s.beginCut ctx c).cutOf ctx = some c))

/-- R310 to R318: the write of an image. With no cut under way nothing happens, and while a `ccpy`, a result of its groups, a
packet of a base die's port or a `tier` operation is outstanding it waits, as it does for traffic that a host holds up and for
the tier object of its area; else, once nothing of it can move, the image is written, COMPLETE last, its teams leave their
cores, and the cut ends as SAVED; a failing check of the area leaves the context stopped in place with a save fault, the parts
before it written and COMPLETE clear. The model's own choices in it: logs 29, 53, 55, 101. -/
def Obligations.CutWrites : Prop :=
  ∀ (ctx : Nat) (s : State),
    (s.cutOf ctx = none → exec (.cutWrite ctx) s = .next s) ∧
    (∀ c, s.cutOf ctx = some c →
      let gs := s.cutGroups ctx c.target
      ((∃ e ∈ gs, e.2.wait = .ccpy ∨ e.2.owed ≠ []) ∨ s.cutBusy ctx c.target = true → exec (.cutWrite ctx) s = .next s) ∧
      ((∀ e ∈ gs, e.2.wait ≠ .ccpy ∧ e.2.owed = []) → s.cutBusy ctx c.target = false →
        let d := s.cutDrain (gs.map (fun e => e.1)) ctx c.target
        (d.quiet = false → exec (.cutWrite ctx) s = .next (s.askHost d.heldUpd)) ∧
        (d.quiet = true → d.cutBusy ctx c.target = true → exec (.cutWrite ctx) s = .next d) ∧
        (d.quiet = true → d.cutBusy ctx c.target = false →
          let h := gs.foldl (fun s e => match SMap.get? s.groups e.1 with | some g => s.lanesHome e.1 g | none => s) d
          let part := c.target != 0xFFFF
          let ar := c.area h ctx
          let im := c.image h ctx
          let clear := (0, im.2.1.take 6 ++ leBytes 2 (if part then 2 else 0) ++ im.2.1.drop 8)
          let bad := c.pa.isNone = true ∧ c.addr.toNat % 4096 ≠ 0
          (∀ t, (bad ∧ t = memTrap 6 c.aper c.addr) ∨ (¬ bad ∧ ar.writeTrap h 0 im.2.2 = some t) →
            exec (.cutWrite ctx) s = .next (d.saveFault ctx c ar (clear :: im.1) t)) ∧
          (¬ bad → ar.writeTrap h 0 im.2.2 = none →
            (∀ o, ar.tier h 0 im.2.2 needW = some o → exec (.cutWrite ctx) s = .next (s.awaitTier (ctx / 256) o)) ∧
            (ar.tier h 0 im.2.2 needW = none →
              let w1 := (clear :: im.1).foldl (fun s x => ar.write s ctx x.1 x.2) h
              let w2 := (ar.write w1.drainAll ctx 0 im.2.1).drainAll
              let w3 := (c.saved h ctx).teams.foldl (fun s e => s.unloadTeam e.1) w2
              ∃ w : State, exec (.cutWrite ctx) s = .next (w.endCut ctx c (!part) csSaved) ∧
                w.mem = w3.mem ∧ w.teams = w3.teams ∧ w.groups = w3.groups ∧ w.ctxs = w3.ctxs ∧
                (part = false → ∀ i g, SMap.get? w.grids i = some g → g.ctx = ctx →
                  g.fwd = [] ∧ ∀ p ∈ g.parts, p.ranges = [])))))) ∧
    (∀ tid t, SMap.get? s.teams tid = some t → (∀ e ∈ s.teams, e.1 = tid → e.2 = t) →
      ∀ e ∈ (s.unloadTeam tid).groups, e.2.team ≠ tid)

/-- R391 to R402, R404 to R409: dispatch. A grid starts once its predecessors no longer keep it and its context runs; a
charge takes from each VD's deficit what it consumed; a request takes work for a requester without any, and handing out or
splitting a range loses no index; a core's next team is prepared in a shadow slot, and started with its G groups once its
resources are free; a preparation or a record that meets a tier object waits for it; a grid that is over, with its engine
operations, posts its record and leaves. The model's own choices in
it: logs 47, 48, 95, 96. -/
def Obligations.DispatchProceeds : Prop :=
  (∀ (s : State) (i : Nat) (g : Grid), SMap.get? s.grids i = some g →
    (s.ctxHeld g.ctx = true → exec (.gridDispatchStart i) s = .next s) ∧
    (s.ctxHeld g.ctx = false → g.prevQ = none → s.drained g.pred = true → (∃ p ∈ g.parts, p.st = .queued) →
      let held := g.lr.held = true ∧ g.heldSeen < g.lr.waitcnt
      ∃ t g', exec (.gridDispatchStart i) s = .next t ∧ SMap.get? t.grids i = some g' ∧ { t with grids := s.grids } = s ∧
        { g' with parts := g.parts } = g ∧ g'.parts.map (fun p => (p.die, p.qslot, p.ranges)) =
          g.parts.map (fun p => (p.die, p.qslot, p.ranges)) ∧
        ∀ p' ∈ g'.parts, p'.st ≠ .queued ∧
          (p' ∈ g.parts ∨ p'.st = if held then .held else if p'.ranges = [] then .running else .dispatching)) ∧
    (s.gridOver i g = false ∨ s.gridBusy i = true ∨ s.olderSpawn i g = true → exec (.gridComplete i) s = .next s) ∧
    (∀ u, s.gridOver i g = true → s.gridBusy i = false → s.olderSpawn i g = false → g.posted = false →
      s.reportWaits g = some u → exec (.gridComplete i) s = .next u) ∧
    (s.gridOver i g = true → s.gridBusy i = false → s.olderSpawn i g = false → (g.posted = true ∨ s.reportWaits g = none) →
      let q := (g.parts.find? (fun p => p.die == g.recv)).elim 0xFFFF (fun p => p.qslot)
      let cl := g.recv * 32 + g.lr.evcl % 32
      let last (r : State) : State :=
        if g.lr.ev then
          (if 256 ≤ (r.cluster cl).evq.length then r
           else (r.evPost cl ⟨g.lr.evtag, g.vd, 3, BitVec.ofNat 32 (g.status + 256 * g.refused.getD 0), q, 0, 0, 0, 0⟩).gridEnd i g)
        else r.gridEnd i g
      (g.posted = true → exec (.gridComplete i) s = .next (last s)) ∧
      (g.posted = false → s.drainAll.quiet = false → exec (.gridComplete i) s =
        .next (s.drainAll.askHost s.drainAll.heldUpd)) ∧
      (g.posted = false → s.drainAll.quiet = true →
        let r := (s.drainAll.ctxReport g.recv g.ctx g.lr.compap g.lr.compoff (complRecord g.status (g.refused.getD 0) q g.seq
          g.retired (g.wu / 1024) g.lr.gridid)).updGrid i (fun g => { g with posted := true })
        exec (.gridComplete i) s = .next (if r.quiet then last r else r)))) ∧
  (∀ (s : State) (d : Nat), (SMap.keys (s.die d).meter).Nodup → ∃ t, exec (.fairShareCharge d) s = .next t ∧
    (t.die d).meter = (s.die d).meter ∧ t.mem = s.mem ∧
    ∀ e ∈ (s.die d).meter, SMap.getD (t.die d).charged 0 e.1 = e.2.wu1024 / 4 ∧
      (t.die d).defOf e.1 = (s.die d).defOf e.1 - ((e.2.wu1024 / 4 - SMap.getD (s.die d).charged 0 e.1 : Nat) : Int)) ∧
  (∀ (s : State) (q : Nat), s.placingOn (reqDie q) = none →
    (s.holdsWork q = true ∨ s.shadowCores q false = [] → exec (.workRequest q) s = .next s) ∧
    (s.holdsWork q = false → s.shadowCores q false ≠ [] →
      exec (.workRequest q) s = .next (State.takeWork q (s.grids.length + 1) [] s))) ∧
  (∀ n who rs rs', 0 < n → takeRange n who rs = some rs' →
    (rs'.map (fun r => r.hi - r.lo)).sum = (rs.map (fun r => r.hi - r.lo)).sum ∧
    ∃ r ∈ rs', r.holder = some who ∧ r.lo < r.hi) ∧
  (∀ (s : State) (c : Nat),
    let pick := s.grids.findSome? (fun e => (s.nextTake c e.2).map (fun x => (e.1, e.2, x)))
    (∀ g r cs, s.nextTake c g = some (r, cs) → cs.length = g.desc.n ∧ s.ctxHeld g.ctx = false ∧ r.lo < r.hi ∧
      r.holder = some (if g.desc.n = 1 then c else c / 4)) ∧
    (pick = none → exec (.teamPrepare c) s = .next s) ∧
    (∀ i g r cs, pick = some (i, g, r, cs) →
      let n := g.desc.n
      (∀ o, s.prepTier (c / 128) g = some o → exec (.teamPrepare c) s = .next (s.awaitTier g.vd o)) ∧
      (s.prepTier (c / 128) g = none →
        let s1 := s.updGrid i (fun g => { g with parts := g.parts.map (fun (p : Part) =>
          if p.die == c / 128 then
            ({ p with ranges := p.ranges.map (fun (x : Range) => if x == r then { x with lo := x.lo + n } else x) } : Part).settle
          else p) })
        let ts := blockTeams g i s.nid cs r.lo
        let s2 := ts.foldl (fun s x => ({ s with teams := SMap.put s.teams x.1 { x.2.2 with core := x.2.1 } }).updCore x.2.1
          (fun k => { k with shadow := k.shadow ++ [(⟨x.1, false, [], [], []⟩ : Shadow)] })) { s1 with nid := s.nid + n }
        (∀ s3 h, s2.prep 0 (c / 128) g = .ok s3 h → exec (.teamPrepare c) s = .next (ts.foldl (fun s x =>
          (s.entryBlock x.2.1 x.1 g).updCore x.2.1 (fun k =>
          { k with shadow := k.shadow.map (fun (y : Shadow) => if y.team == x.1 then { h with team := x.1 } else y) })) s3)) ∧
        (∀ s3 e, s2.prep 0 (c / 128) g = .bad s3 e → exec (.teamPrepare c) s =
          .next (s3.prepFault i (cs.headD c) ((ts.head?.map (fun x => x.2.2.lin)).getD 0) g e))))) ∧
  (∀ (s : State) (c : Nat), s.placingOn (c / 128) = none →
    let fit (h : Shadow) : Option (State × List (Nat × Team × Shadow)) :=
      (SMap.get? s.teams h.team).bind (fun t =>
        let ms := s.blockOf h.team t
        let held := match SMap.get? s.grids t.grid with | some g => s.ctxHeld g.ctx | none => true
        if held || ms.length != t.span || !ms.all (fun m => m.2.2.ready) then none
        else (s.holdAll (ms.map (fun m => (m.1, m.2.1.core, m.2.1)))).map (fun s' => (s', ms)))
    ((∀ h ∈ (s.core c).shadow, fit h = none) → exec (.teamRunnable c) s = .next s) ∧
    (∀ h rest s' ms, (s.core c).shadow = h :: rest → fit h = some (s', ms) → exec (.teamRunnable c) s = .next
      (ms.foldl (fun s m => if m.2.1.det then s else s.startTeam m.1 m.2.2) (s'.fuseCores (ms.map (fun m => m.1)))))) ∧
  (∀ (s : State) (tid : Nat) (h : Shadow) (t : Team) (g : Grid), SMap.get? s.teams tid = some t →
    SMap.get? s.grids t.grid = some g → ∀ k, k < t.g →
    SMap.get? (s.startTeam tid h).groups (s.nid + k) = some (startGroup g tid t k s.nid h))

-- The memory side

/-- R361 to R370, R7: base dies and register writes. A packet that its receiver does not take is refused with a record; one
that shares a unit with an earlier request waits behind it; else the rows that it needs are opened one after the other: at
once when open, not while another queued request needs the bank's open row, counted when activated, and at the threshold the
bank's requests are held and the alert counted. Service issues its column commands, closes rows that no request needs,
replies what a READ finds, applies a WRITE unit by unit, an ATOMIC lane by lane and a REDUCE as the sum of its rows, and
nothing whose data its home already has. STATUS reads and writes the control window. A reply frees its tag; the end of a
back-off window serves the request that raised it. A register write stores its field as it reads back, in full function (the
configuration space from stage 3 on), and one below it nothing; BAR0 reads zero below full function and BAR2 always, and the two
DVSECs answer at the port of die 0 alone. The model's own choices in it: logs 58, 60, 81, 85, 106, 107. -/
def Obligations.MemorySideEvents : Prop :=
  ∀ (s : State) (die stack : Nat),
    let n := stackIdx die stack
    let k := s.stack n
    (∀ (i : Instr) (kind : Nat) (p : BasePkt),
      (i = .read die stack p ∧ kind = 1) ∨ (i = .write die stack p ∧ kind = 2) ∨
        (i = .atomic die stack p ∧ kind = 3) ∨ (i = .reduce die stack p ∧ kind = 4) →
      (∀ m, k.q.findIdx? (fun x => qKind x.1 == kind && x.2 == p) = some m →
        let x := k.q.getD m (kind, p)
        exec i s = .next (if k.behind s.mod n (k.q.take m) x then s
          else (s.setStack n { k with q := k.q.eraseIdx m }).portGo die stack m (x.1.testBit 8) x)) ∧
      ((∀ x ∈ k.q, qKind x.1 ≠ kind ∨ x.2 ≠ p) →
        let earlier := k.q ++ k.wins.flatMap (fun w => w.2)
        (portOk kind p = false → exec i s = .next ((s.updStack n (fun k =>
          { k with replies := k.replies ++ [(kind, replyOf p, false, true)] })).relRec 7 1 die stack 0
            (lineAddr s.mod die stack p.line))) ∧
        (portOk kind p = true → (∃ y ∈ earlier, pktShares s.mod n y (kind, p) = true) →
          exec i s = .next (s.setStack n { k with q := k.q ++ [(kind, p)] })) ∧
        (portOk kind p = true → (∀ y ∈ earlier, pktShares s.mod n y (kind, p) = false) →
          (pktRows s.mod n (kind, p) = [] → exec i s = .next (s.portServe kind die stack p)) ∧
          (∀ b rest, pktRows s.mod n (kind, p) = b :: rest →
            let c := SMap.getD k.cnt 0 (rowKey b)
            let go (t : State) : State := t.portRun die stack k.q.length p (rest.length + 1) false (kind + 512)
            let used := k.keeps s.mod n b.1 = true
            (SMap.get? k.wins b.1 ≠ none → exec i s =
              .next (s.setStack n { k with heldN := k.heldN + 1, q := k.q ++ [(kind + 256, p)] })) ∧
            (SMap.get? k.wins b.1 = none → SMap.get? k.openRow b.1 = some b.2 → exec i s = .next (go s)) ∧
            (SMap.get? k.wins b.1 = none → SMap.get? k.openRow b.1 ≠ some b.2 →
              (used → exec i s = .next (s.setStack n { k with q := k.q ++ [(kind, p)] })) ∧
              (¬ used → c + 1 < k.thresh → exec i s = .next (go (s.setStack n
                { k with cnt := SMap.put k.cnt (rowKey b) (c + 1), openRow := SMap.put k.openRow b.1 b.2 }))) ∧
              (¬ used → k.thresh ≤ c + 1 → ∃ t, exec i s = .next t ∧ { t with hbms := s.hbms } = s ∧
                (t.stack n).replies = k.replies ∧ (t.stack n).alerts = k.alerts + 1 ∧ (t.stack n).lastagg = watchWord b ∧
                (t.stack n).heldN = k.heldN + 1 + (k.q.filter (waitsOn s.mod n b)).length ∧
                (t.stack n).q = k.q.map (fun y => if waitsOn s.mod n b y then heldMark y else y) ∧
                SMap.get? (t.stack n).wins b.1 = some [(kind + 256, p)])))))) ∧
    (∀ (t : State) p f h K m, pktRows t.mod n (K, p) = [] → t.portRun die stack m p f h K = t.portServe K die stack p) ∧
    (∀ kind (p : BasePkt),
      let r := s.portServe kind die stack p
      let pa := lineAddr s.mod die stack p.line
      ∃ q, (r.stack n).replies = k.replies ++ [(kind % 256, q, kind.testBit 8, false)] ∧ q.kind = p.kind ||| 0x80 ∧
        q.tag = p.tag ∧ q.line = p.line ∧ q.die = p.die ∧
        (r.stack n).cols = (pktLines s.mod n (kind, p)).flatMap (fun l =>
          (bursts (if s.mod.expander then [2, 1] else [4, 2, 1]) l.2 8 0).map (fun b => (b.1, b.2, l.1))) ∧
        (r.stack n).openRow = k.openRow.filter (fun e => k.q.any (fun x => (pktRows s.mod n x).contains e)) ∧
        (kind % 256 = 1 → r.mem = s.mem ∧
          q.write = (units8 p.mask.toNat).flatMap (fun u => Memory.getBytes s.mem (pa + 32 * u) 32)) ∧
        (kind % 256 ≠ 1 → p.done = true → q = replyOf p ∧ r.mem = s.mem) ∧
        (p.done = false → kind % 256 = 2 → ∀ u, units8 p.mask.toNat = [u] → p.write.length = 32 →
          r.mem = Memory.putBytes s.mem (pa + 32 * u) p.write) ∧
        (p.done = false → kind % 256 = 3 → ∀ l, p.lanes = [l] →
          let a := pa + l.1 % 256
          let w := atW (atyOf (p.opc.toNat / 16)) / 8
          r.mem = if SMap.getD s.poison false (a / 32) then s.mem else Memory.putBytes s.mem a
            (leBytes w (opcNew p.opc.toNat (leNat (Memory.getBytes s.mem a w)) l.2.1.toNat l.2.2.toNat))) ∧
        (p.done = false → kind % 256 = 4 →
          let ty : MredTy := match p.opc.toNat % 16 with | 0 => .f32 | 1 => .i32 | _ => .f64
          let e := mredElem ty
          (p.opc.getLsbD 4 = false → r.mem = Memory.putBytes s.mem pa
            ((s.rowSum ty p.rows (s.rowNums ty (pa / 256))).1.flatMap (leBytes e.2))) ∧
          (p.opc.getLsbD 4 = true → r.mem = s.mem ∧
            q.write = (s.rowSum ty p.rows (List.replicate e.1 0, false)).1.flatMap (leBytes e.2)))) ∧
    (∀ p, portOk 5 p = false → exec (.status die stack p) s = .next ((s.updStack n (fun k =>
      { k with replies := k.replies ++ [(5, replyOf p, false, true)] })).relRec 7 1 die stack 0 (lineAddr s.mod die stack p.line))) ∧
    (∀ p, portOk 5 p = true → ∃ t, exec (.status die stack p) s = .next t ∧ { t with hbms := s.hbms } = s ∧
      (t.stack n).openRow = k.openRow ∧ (t.stack n).replies = k.replies ++ [(5, replyOf { p with
        write := (p.lanes.filter (fun l => l.2.1 != 1)).flatMap (fun l => leBytes 4 ((t.stack n).ctlWord l.1)) },
        false, false)] ∧
      (∀ v, s.full = true → die < s.mod.dies → p.lanes = [(0, 1, v)] → (t.stack n).thresh = max 128 (v.toNat % 65536))) ∧
    (∀ tag, k.replies.find? (fun r => r.2.1.tag == tag) = none → exec (.packetReply die stack tag) s = .next s) ∧
    (∀ tag r, k.replies.find? (fun r => r.2.1.tag == tag) = some r →
      let k1 := { k with replies := k.replies.eraseP (fun r => r.2.1.tag == tag) }
      let s1 := s.setStack n (match k.waitq with
        | [] => k1
        | w :: ws => { k1 with waitq := ws, q := k.q ++ [(w.1, { w.2 with tag := tag })] })
      exec (.packetReply die stack tag) s = .next (if r.2.2.1 then s1.stall r.2.1.die r.2.1.ctx 4 true else s1)) ∧
    (∀ bank, SMap.get? k.wins bank = none → exec (.backoffWindowEnd die stack bank) s = .next s) ∧
    (∀ bank ws, SMap.get? k.wins bank = some ws →
      let k1 := { k with wins := SMap.del k.wins bank, rfmseq := k.rfmseq + 1 }
      exec (.backoffWindowEnd die stack bank) s = .next (match ws with
        | [] => s.setStack n k1
        | x :: _ => (s.setStack n { k1 with
            openRow := SMap.put k.openRow bank ((pktRows s.mod n x).head?.getD (bank, 0)).2 }).portGo die stack 0 false x)) ∧
    (∀ v, ∃ t, exec (.rgctlWrite die stack v) s = .next t ∧ { t with hbms := s.hbms } = s ∧
      (s.full = true → die < s.mod.dies → t.stack n = { k with thresh := max 128 (v.toNat % 65536), cnt := [] }) ∧
      (s.full = false ∨ s.mod.dies ≤ die → t = s)) ∧
    (∀ w v, ∃ t, exec (.watchWrite die stack w v) s = .next t ∧ { t with hbms := s.hbms } = s ∧
      (s.full = true → die < s.mod.dies → SMap.wf 0 k.watch = true → SMap.wf 0 k.walerts = true →
        SMap.getD (t.stack n).watch 0 w.val = (v &&& 0xFFE01FFF).toNat ∧ SMap.getD (t.stack n).walerts 0 w.val = 0) ∧
      (s.full = false ∨ s.mod.dies ≤ die → t = s)) ∧
    (∀ (r : DevReg) (v : DWord), ∃ t, exec (.registerWrite r v) s = .next t ∧
      ((∀ c op, r ≠ .cmd c op) → (∀ fn off, r ≠ .bar0 fn off) → (∀ port boot off, r ≠ .cfg port boot off) →
        t.mem = s.mem ∧ t.groups = s.groups) ∧ (s.config = false → t = s) ∧
      (s.full = true → match r with
        | .fsw d vd => d < s.mod.dies → vd < 256 → SMap.wf 0 (s.die d).fsw = true →
            t.weight d vd = v.toNat % 2 ^ 16 ∧ t.quota d vd = min 1024 (bits v.toNat 26 16)
        | .mscPart d i => d < s.mod.dies → i < 1024 → SMap.wf 0xFFFF0000 (s.die d).part = true →
            SMap.getD (t.die d).part 0xFFFF0000 i = (v &&& 0xFFFFF3F0).toNat
        | .vdField vd f => (t.vd vd).ent = (s.vd vd).ent.put f v ∧ (t.vd vd).inf =
            if (s.vd vd).ent.flags.testBit 0 = false ∧ (t.vd vd).ent.flags.testBit 0 = true
            then s.mod.debugOk (t.vd vd).ent else (s.vd vd).inf
        | .aqi i hi => i < 4096 → SMap.wf 0 s.aqis = true →
            SMap.getD t.aqis 0 i = if hi then SMap.getD s.aqis 0 i else (v &&& 0x000FFFFF000003FF).toNat
        | .owner vd f => (f = 0 → t.vd vd = { s.vd vd with ctbase := v, ctab := none }) ∧ (f = 8 → t.vd vd = { s.vd vd with fqbase := v }) ∧
            (f = 0x10 → t.vd vd = { s.vd vd with fqsize := ringSize (v.toNat % 2 ^ 32) }) ∧
            (f = 0x14 → t.vd vd = { s.vd vd with fqvec := v.toNat % 2 ^ 16 }) ∧
            (f = 0x18 → t.vd vd = { s.vd vd with fqhead := v.truncate 32 })
        | .remap vd i f =>
            let e := SMap.getD (s.vd vd).remap Remap.init i
            let e' := SMap.getD (t.vd vd).remap Remap.init i
            let send := v.toNat.testBit 30 = false ∧ e.pend = true ∧ v.toNat.testBit 31 = true
            ((s.vd vd).inf.nvec ≤ i → t = s) ∧
            (i < (s.vd vd).inf.nvec → (f = 0 → e' = { e with addr := v }) ∧
              (f = 8 → e' = { e with data := v.truncate 32 }) ∧
              (f = 12 → e' = { e with valid := v.toNat.testBit 31, mask := v.toNat.testBit 30,
                                      pend := e.pend && !decide send } ∧
                t.mod.out = s.mod.out ++ if send then [.msi e.addr e.data] else []))
        | .cmd c op => (op.toNat ∈ cmdOps → t = s) ∧ (op.toNat ∉ cmdOps → (s.vd c.win).cmds = [] →
            t = (s.cmdStatus op.toNat c cmdBad 0).updVd c.win (fun d => { d with cmds := [] }))
        | _ => True) ∧
      (s.config = true → match r with
        | .fctl => t.mod = { s.mod with modid := v.toNat % 16, neten := t.mod.neten } ∧
            (s.mod.expander = false → s.mod.featon.testBit 2 = true → t.mod.neten = v.toNat.testBit 4) ∧
            (s.mod.expander = true ∨ s.mod.featon.testBit 2 = false → t.mod.neten = s.mod.neten)
        | .fwtBase => t.mod = { s.mod with fwtbase := v.toNat - v.toNat % 4096 }
        | .commBase => t.mod = { s.mod with commbase := v.toNat - v.toNat % 16 }
        | .netBase => t.mod = { s.mod with netbase := v.toNat - v.toNat % 32 }
        | .taccBase => t.mod = if s.mod.expander then { s.mod with taccbase := v.toNat } else s.mod
        | .featSel i => ∀ j < 256, s.mod.featsel < 2 ^ 256 → t.mod.featsel.testBit j =
            if j / 64 = i.val then v.toNat.testBit (j % 64) else s.mod.featsel.testBit j
        | .rlSize => t.mod = { s.mod with rlsize := ringSize (v.toNat % 2 ^ 32) }
        | .flr vd => t.vd vd = { s.vd vd with reset :=
            if v ≠ 0 ∧ (s.vd vd).reset = 0 then 2 else (s.vd vd).reset }
        | .cfg port _ _ => port ≠ 0 → t = s
        | _ => True)) ∧
    (∀ fn off, s.bar2Read fn off = 0 ∧ (s.full = false → s.bar0Read fn off = 0)) ∧
    (∀ port boot off, port ≠ 0 → s.cfgRead port boot off = none) ∧
    (s.config = true → s.cfgRead 0 0 4 = some (Config.vendorId.toNat + 0x48 * 2 ^ 20) ∧ s.cfgRead 0 0 8 = some 1 ∧
      s.cfgRead 0 0 0x0C = some s.fctl ∧ s.cfgRead 0 1 4 = some (Config.vendorId.toNat + 0x80 * 2 ^ 20) ∧
      s.cfgRead 0 1 8 = some 2 ∧ s.cfgRead 0 1 0x0C = some s.bstat) ∧
    (s.stage = 15 → s.cfgRead 0 1 0x0C = some s.bstat) ∧
    (∀ d v (x : DWord), s.full = true → d < s.mod.dies → d < 16 → v < 256 → SMap.wf 0 (s.die d).fsw = true →
      ∃ t, exec (.registerWrite (.bar0 0 (0x400_0000 * d + 0x12_0000 + 8 * v)) x) s = .next t ∧ t.mem = s.mem ∧
        t.bar0Read 0 (0x400_0000 * d + 0x12_0000 + 8 * v) = x.toNat % 2 ^ 16 + min 1024 (bits x.toNat 26 16) * 2 ^ 16)

-- The fabric

/-- What each event of the fabric does. Mesh: a flit's retry is counted and nothing else (R439), a route runs over links from its
source to its destination along the row first, and with a failed link on it along the column first (R439, R441), a spare lane is
switched in with a record, and without one the link fails (R473). Updates: one is applied once its clock allows and no host
holds its line (R289, R440, R444); a home evicts a line after the guest copies (R353). Host: a snoop sends far lines home
(R444); a request is answered, with poison where nothing answers, once no other requester holds the lines it writes, and waits
behind an earlier one of its lines (R444, R448, R457, R462). Back-invalidations ask the other holders, and the last response lets
what waits go on; a full set of the snoop filter gives up an entry first (R457). A lost target's far lines go, and on the
expander a holder loses its extent (R455, R461). Tables are taken into force at a count's write, which marks a pending collective
whose communicator changes (R445, R447, R449, R451, R459). Transport: a packet is read back from its bytes, and a damaged one does
nothing; data is delivered once and in order, acknowledged or answered by NACK, resent and, after 16 resends, given up (R450 to
R453). Tasks: a doorbell, the signed packet, its acknowledgement, and the checks of a received one (R458, R459). An extent is
granted erased, or shared by a further holder of its tag, and released (R455), and ports go down and up, where a die uses the
nearest that is up (R442, R443, R446). The model's own choices in it: logs 25, 34, 63, 64, 89, 104, 105. -/
def Obligations.FabricEvents : Prop :=
  ∀ (s : State),
    (∀ a b, meshLink s.mod a b = true → SMap.wf Link.init s.mod.links = true →
      let l := SMap.getD s.mod.links Link.init (linkKey a b)
      let at' (t : State) : Link := SMap.getD t.mod.links Link.init (linkKey a b)
      (∃ t, exec (.meshFlitRetry a b) s = .next t ∧ at' t = { l with retries := l.retries + 1 } ∧ t.mem = s.mem) ∧
      (∃ t, exec (.linkFail a b) s = .next t ∧ at' t = { l with failed := true } ∧ t.mem = s.mem ∧
        (SMap.getD t.mod.links Link.init (linkKey b a)).failed = true ∧
        (s.mod.links = [] → ∀ x y, x < s.mod.dies → y < s.mod.dies →
          let r := meshRoute s.mod false x y
          t.mod.route x y = meshRoute s.mod (routeCrosses a b x r || routeCrosses b a x r) x y)) ∧
      (l.spares = 0 → exec (.meshLaneSpare a b) s = exec (.linkFail a b) s) ∧
      (l.spares ≠ 0 → exec (.meshLaneSpare a b) s =
        .next ((s.updLink a b (fun l => { l with spares := l.spares - 1, retries := 0 })).relRec 8 2 a b 0 0))) ∧
    (∀ f a b, a < s.mod.dies → b < s.mod.dies →
      let r := a :: meshRoute s.mod f a b
      r.length = meshHops s.mod a b + 1 ∧ r.getLast? = some b ∧
        (∀ k, k + 1 < r.length → meshLink s.mod (r.getD k 0) (r.getD (k + 1) 0) = true) ∧
        (s.mod.links = [] → s.mod.route a b = meshRoute s.mod false a b)) ∧
    (∀ die idx p, (s.die die).upd[idx]? = some p →
      (s.canApply die idx p = true → exec (.updateApply die idx) s = .next (s.applyUpd die idx)) ∧
      (s.canApply die idx p = false → (p.home && SMap.getD (s.die die).hostHeld false p.line) = false →
        exec (.updateApply die idx) s = .next s) ∧
      ((p.home && SMap.getD (s.die die).hostHeld false p.line) = true →
        exec (.updateApply die idx) s = .next (s.askHost [p.line]))) ∧
    (∀ die line, exec (.guestInvalidate die line) s = .next ((s.guestsOut die line).l2Wb (line * 256) true) ∧
      ∀ d < 16, (((s.guestsOut die line).l2Wb (line * 256) true).die d).guest =
        if (SMap.getD (s.die die).holders 0 line).testBit d then SMap.del (s.die d).guest line else (s.die d).guest) ∧
    (∀ line, exec (.hostSnoop line) s = .next (s.dies.foldl (fun s e => s.farWb e.1 line true) s) ∧
      ((∀ d, SMap.get? (s.die d).far line = none) → exec (.hostSnoop line) s = .next s)) ∧
    (∀ r : HostReq,
      let pa := HostReq.pa r
      let req := HostReq.req r
      let ls := linesOf pa (HostReq.len r)
      let on := s.full = true ∧ s.mod.featon.testBit 4 = true
      (¬ on → exec (.hostMemRequest r) s = .next (s.hostRefuse r)) ∧
      (on → (∀ d, s.mod.place pa ≠ .die d) →
        exec (.hostMemRequest r) s = .next ((s.relRec 12 1 0 0 0 pa).hostRefuse r)) ∧
      (∃ t bs, s.hostRefuse r = t ∧ t.mem = s.mem ∧ t.mod.out = s.mod.out ++ [.hostData pa bs (match r with
        | .read a n _ => (unitsOf a n).map (fun _ => true)
        | _ => [true])]) ∧
      (∀ d, on → s.mod.place pa = .die d →
        ((∃ q ∈ s.mod.snoopQ, ∃ l ∈ ls, l ∈ linesOf (HostReq.pa q.2) (HostReq.len q.2)) → exec (.hostMemRequest r) s =
          .next { s with mod := { s.mod with snoopQ := s.mod.snoopQ ++ [(false, r)] } }) ∧
        (s.mod.snoopQ = [] → s.mod.shared pa = false →
          ((∃ l ∈ ls, s.mod.holdersOf l (some req) ≠ []) → HostReq.isRead r = false → ∃ t, exec (.hostMemRequest r) s = .next t ∧
            t.mem = s.mem ∧ t.mod.snoopQ = [(false, r)] ∧
            ∀ l ∈ ls, s.mod.holdersOf l (some req) ≠ [] → ∃ b ∈ t.mod.backInvs, b.line = l) ∧
          (HostReq.isRead r = true ∨ (∀ l ∈ ls, s.mod.holdersOf l (some req) = []) → match r with
            | .read a n _ => ∃ t, exec (.hostMemRequest r) s = .next t ∧ t.mem = s.mem ∧
                t.mod.out = s.mod.out ++ [.hostData a (s.homeRead a n 0).2.1 ((unitsOf a n).map s.unitP)] ∧
                ∀ l ∈ ls, SMap.get? (t.die d).hostHeld l = some true ∧ (SMap.getD t.mod.snoop 0 l).testBit req = true
            | .write a x _ => exec (.hostMemRequest r) s = .next ((s.hostStore d a x).emit (.hostData a [] []))
            | .atomic a opc b c _ =>
                let n := atW (atyOf (opc / 16)) / 8
                let v := s.homeRead a n 0
                exec (.hostMemRequest r) s = .next ((if v.2.2 then v.1 else v.1.hostStore d a
                  ⟨leBytes n (opcNew opc (leNat v.2.1) b.toNat c.toNat), 0⟩).emit (.hostData a v.2.1 [v.2.2])))))) ∧
    (∀ line req (data : LineData),
      let pa := line * 256
      let room := SMap.get? s.mod.snoop line ≠ none ∨ (s.mod.snoopSet line).length < 16
      let others := s.mod.holdersOf line (some req)
      (s.mod.expander = false →
        exec (.backInvalidate line req data) s = .next ((s.dropLine line).emit (.backInvResp line))) ∧
      (∀ d, s.mod.expander = true → s.mod.place pa = .die d → data.bytes.length ≤ 256 → s.mod.snoopQ = [] →
        (room → others = [] → exec (.backInvalidate line req data) s = .next ((s.hostStore d pa data).holdLines d req [line])) ∧
        (room → others ≠ [] → ∃ t, exec (.backInvalidate line req data) s = .next t ∧ t.mem = s.mem ∧
          t.mod.snoopQ = [(true, .write pa data req)] ∧ (∃ b ∈ t.mod.backInvs, b.line = line) ∧
          (s.mod.backInvs = [] → t.mod.backInvs = [⟨line, others⟩] ∧ t.mod.out = s.mod.out ++ others.map (fun _ => .backInv line))) ∧
        (¬ room → (∀ v ∈ s.mod.snoopSet line, s.mod.holdersOf v none ≠ []) →
          ∃ t, exec (.backInvalidate line req data) s = .next t ∧ t.mem = s.mem ∧
            t.mod.snoopQ = [(true, .write pa data req)] ∧
            (s.mod.backInvs = [] → ∃ v ∈ s.mod.snoopSet line, t.mod.backInvs = [⟨v, s.mod.holdersOf v none⟩])))) ∧
    (∀ line holder, (∀ b ∈ s.mod.backInvs, b.line ≠ line) → exec (.backInvalidateResponse line holder) s = .next s) ∧
    (∀ line holder b, s.mod.backInvs.find? (fun b => b.line == line) = some b →
      (b.wait.filter (fun h => h != holder) ≠ [] → ∃ t, exec (.backInvalidateResponse line holder) s = .next t ∧
        t.mem = s.mem ∧ ({ b with wait := b.wait.filter (fun h => h != holder) } : BackInv) ∈ t.mod.backInvs) ∧
      (b.wait.filter (fun h => h != holder) = [] →
        let ended (t : State) : Prop := t.mem = s.mem ∧ t.mod.snoopQ = [] ∧
          t.mod.backInvs = s.mod.backInvs.eraseP (fun x => x.line == line)
        (s.mod.snoopQ = [] → ∃ t, exec (.backInvalidateResponse line holder) s = .next t ∧ ended t) ∧
        (∀ own r d, s.mod.snoopQ = [(own, r)] → s.mod.place (HostReq.pa r) = .die d → ∃ t : State, ended t ∧
          exec (.backInvalidateResponse line holder) s = .next (t.hostReq d own r)))) ∧
    (∀ target ext, (s.mod.expander = false ∨ ext = none) → ∃ s1 : State,
      exec (.targetLost target ext) s = .next (s1.vds.foldl (fun x v => v.2.objs.foldl (fun x o =>
        if x.objLost v.1 o.1 then evTierFailure v.1 o.1 true x else x) x) s1) ∧
      (s.mod.rlbase = 0 → s.mod.colls = [] → s.mod.backInvs = [] → s1.vds = s.vds) ∧
      (s.mod.backInvs = [] → (ext = none → target ∈ s1.mod.lost) ∧ (∀ e, ext = some e → e ∈ s1.mod.lostExt) ∧
        ∀ d l, SMap.get? s.dies d = some l → ∀ x ∈ (s1.die d).far, s1.mod.isLost (x.1 * 256) = false)) ∧
    (∀ target e, s.mod.expander = true →
      let t := s.takeExtent target e
      exec (.targetLost target (some e)) s = .next ((t.forgetLost).relRec 9 1 0 0 0 e.1) ∧
      (s.mod.backInvs = [] → t.mem = s.mem ∧ (∀ x ∈ t.mod.extents, ¬ (x.base = e.1 ∧ x.holder = target)) ∧
        ∀ l, inExt e (256 * l) = true → target ∉ t.mod.holdersOf l none)) ∧
    (s.config = false → ∀ v, exec (.fwtcntWrite v) s = .next s ∧ exec (.commcntWrite v) s = .next s ∧
      exec (.netcntWrite v) s = .next s ∧ exec (.tacccntWrite v) s = .next s) ∧
    (s.config = true → ∀ v,
      (∃ t, exec (.fwtcntWrite v) s = .next t ∧ t.mem = s.mem ∧ t.mod.fwtcnt = min v.toNat 4096 ∧ t.mod.lost = [] ∧
        t.mod.lostExt = [] ∧ t.mod.fwt = (List.range (min v.toNat 4096)).map s.fwtEntry) ∧
      (exec (.commcntWrite v) s = .next { s with mod := { s.mod with
        commcnt := min v.toNat 65536, comms := (List.range (min v.toNat 65536)).map s.commEntry,
        colls := s.mod.colls.map (fun c =>
          if s.mod.comms[c.comm]? = ((List.range (min v.toNat 65536)).map s.commEntry)[c.comm]? then c
          else { c with chg := true }) } }) ∧
      (exec (.netcntWrite v) s = .next { s with mod := { s.mod with
        netcnt := min v.toNat 65536,
        nets := (List.range (min v.toNat 65536)).map (fun i => ⟨Memory.getBytes s.mem (s.mod.netbase + 32 * i) 32⟩) } }) ∧
      (exec (.tacccntWrite v) s = .next (if s.mod.expander then { s with mod := { s.mod with
        tacccnt := min v.toNat 4096, taccs := (List.range (min v.toNat 4096)).map s.taccEntry } } else s))) ∧
    (∀ (p : NetMsg) psn, p.opc < 256 → p.comm < 2 ^ 32 → p.src < 65536 → p.dst < 65536 → p.psn < 2 ^ 32 → p.msg < 2 ^ 32 →
      p.offset < 2 ^ 32 → p.ack < 2 ^ 32 → p.data.length ≤ 4096 → NetPkt.msg? ⟨p.bytes, psn⟩ = some p) ∧
    (∀ c p, (s.mod.netPair c = none → s.netSend c p = s) ∧
      (∀ d a b, s.mod.netPair c = some (d, a, b) → s.mod.neten = true ∧ a.flag 0 = true ∧ b.flag 0 = true ∧
        ∃ f : NetFrame, s.netSend c p = s.emit (.net f) ∧ f.die = d ∧ f.payload = p.bytes ∧
          f.srcIp = (a.bytes.drop 0).take 16 ∧ f.dstIp = (b.bytes.drop 0).take 16 ∧ f.mac = (b.bytes.drop 0x10).take 6 ∧
          f.srcPort = leNat ((a.bytes.drop 0x1A).take 2) ∧ f.dstPort = leNat ((b.bytes.drop 0x1A).take 2))) ∧
    (∀ q, NetPkt.msg? q = none → exec (.data q) s = .next s ∧ exec (.ack q) s = .next s ∧ exec (.nack q) s = .next s ∧
      exec (.abort q) s = .next s) ∧
    (∀ q p, NetPkt.msg? q = some p →
      let c := (connOf s.mod p).retire p.ack
      (p.opc ≠ 1 → exec (.data q) s = .next s) ∧ (p.opc ≠ 2 → exec (.ack q) s = .next s) ∧
      (p.opc ≠ 3 → exec (.nack q) s = .next s) ∧ (p.opc ≠ 4 → exec (.abort q) s = .next s) ∧
      (p.opc = 1 → cxlPath s.mod p = true → exec (.data q) s = .next (s.deliver p q.psn)) ∧
      (s.mod.neten = false → (p.opc = 1 → cxlPath s.mod p = false → exec (.data q) s = .next s) ∧
        (p.opc = 2 → exec (.ack q) s = .next s) ∧ (p.opc = 3 → exec (.nack q) s = .next s) ∧
        (p.opc = 4 → exec (.abort q) s = .next s)) ∧
      (s.mod.neten = true →
        (p.opc = 1 → cxlPath s.mod p = false →
          (psnDiff p.psn c.expect = 0 → let c1 := { c with expect := (c.expect + 1) % 2 ^ 32 }
            exec (.data q) s = .next (((s.deliver p 0).updMod (fun m => m.setConn c1)).netSend c1 (ackPkt c1 2))) ∧
          (psnDiff p.psn c.expect ≠ 0 → exec (.data q) s = .next ((s.updMod (fun m => m.setConn c)).netSend c
            (ackPkt c (if psnDiff p.psn c.expect < 2 ^ 31 then 3 else 2))))) ∧
        (p.opc = 2 → exec (.ack q) s = .next (s.updMod (fun m => m.setConn c))) ∧
        (p.opc = 3 → (c.unacked = [] → exec (.nack q) s = .next (s.updMod (fun m => m.setConn c))) ∧
          (c.unacked ≠ [] → 16 ≤ c.resends → exec (.nack q) s = .next (s.connFail c.comm c.src c.dst)) ∧
          (c.unacked ≠ [] → c.resends < 16 → let c1 := { c with resends := c.resends + 1 }
            exec (.nack q) s = .next (c.unacked.foldl (fun s p => s.netSend c1 p) (s.updMod (fun m => m.setConn c1))))) ∧
        (p.opc = 4 → exec (.abort q) s = .next (s.connFail p.comm p.dst p.src)))) ∧
    (∀ h src dst,
      let c := s.mod.conn h src dst
      (c.unacked = [] → exec (.resendTimeout h src dst) s = .next s) ∧
      (∀ p ps, c.unacked = p :: ps →
        (16 ≤ c.resends → exec (.resendTimeout h src dst) s = .next (s.connFail h src dst)) ∧
        (c.resends < 16 → let c1 := { c with resends := c.resends + 1 }
          exec (.resendTimeout h src dst) s = .next ((s.updMod (fun m => m.setConn c1)).netSend c1 p)))) ∧
    (∀ vd die slot, die < 16 →
      let k := taskKey vd die slot
      let t := SMap.getD s.mod.tasks TaskSlot.init k
      let st (m : Module) : TaskSt := (SMap.getD m.tasks TaskSlot.init k).st
      (t.open' = true → ∃ u, exec (.doorbell vd die slot) s = .next u ∧ u.mem = s.mem ∧ st u.mod =
        if t.bodyOk = true ∧ (s.die die).lmsLeaf < 2 ^ 25 then .signing else .badbody) ∧
      (t.open' = false → exec (.doorbell vd die slot) s = .next s) ∧
      (t.st ≠ .signing → exec (.taskSigned vd die slot) s = .next s) ∧
      (t.st = .signing → (s.die die).lmsLeaf < 2 ^ 25 → ∃ u sg, exec (.taskSigned vd die slot) s = .next u ∧ u.mem = s.mem ∧
        st u.mod = .sent ∧ (u.die die).taskSeq = (s.die die).taskSeq + 1 ∧ sg.length = 96 + 4 + 1932 ∧
        u.mod.out = s.mod.out ++ [.task die (s.mod.taskTarget slot) (s.mod.portOf die) (t.body ++ leBytes 1 s.mod.modid ++
          leBytes 1 (s.mod.dieReg die) ++ [0, 0] ++ leBytes 4 s.mod.resets ++ leBytes 8 (s.die die).taskSeq ++ sg)]) ∧
      (t.st = .sent → ∃ u, exec (.taskAck vd die slot) s = .next u ∧ st u.mod = .free ∧ u.mem = s.mem) ∧
      (t.st ≠ .sent → exec (.taskAck vd die slot) s = .next s)) ∧
    (∀ b e l, s.mod.expander = false ∨ s.full = false ∨ s.mod.featon.testBit 5 = false →
      exec (.taskPacket b e l) s = .next s) ∧
    (∀ b e l, s.mod.expander = true → s.full = true → s.mod.featon.testBit 5 = true →
      let rst := fld b 0x144 4
      let seq := fld b 0x148 8
      let ack := s.emit (.taskAck (fld b 0x140 1) (fld b 0x141 1) seq)
      let hit := s.mod.taccs.findIdx? (fun x => x.takes b e l)
      (∀ i, hit = some i →
        let s1 := ack.updMod (fun m => { m with taccs := updAt m.taccs i (fun y => { y with lastrst := rst, lastseq := seq }) })
        let a := s.mod.taccbase + 256 * i
        exec (.taskPacket b e l) s = .next ((((s1.sysWrite (a + 8) (leBytes 4 rst) 0).sysWrite (a + 16) (leBytes 8 seq) 0).updMod
          (fun m => { m with taskQ := m.taskQ ++
            [⟨i, fld b 8 1, fld b 0x0C 4 % 2 ^ 20, (b.drop 0x40).take 256⟩] })).taskDrain)) ∧
      (hit = none → exec (.taskPacket b e l) s = .next (ack.taskRefuse
        (if s.mod.taccs.any (fun x => x.valid && x.xvd == fld b 8 1) then fld b 8 1 else 0)
        (fld b 0x140 1) (fld b 0x141 1) seq))) ∧
    (∀ (x : TaskAcc) b e l, x.takes b e l = true ↔ x.valid = true ∧ x.modid = fld b 0x140 1 ∧ x.die = fld b 0x141 1 ∧
      x.xvd = fld b 8 1 ∧ x.xpasid = fld b 0x0C 4 % 2 ^ 20 ∧ Config.sigOk 0 x.epub b e = true ∧
      Config.sigOk 1 (x.lpub.take 56) b l = true ∧
      (x.lastrst < fld b 0x144 4 ∨ (x.lastrst = fld b 0x144 4 ∧ x.lastseq < fld b 0x148 8))) ∧
    (∀ q : TaskIn,
      let w : NotifyWr := ⟨q.xvd, 0, true, some q.pasid, [1] ++ List.replicate 63 0⟩
      let t := s.updMod (fun m => { m with taskQ := [] })
      let wait (o : Nat) : State := (t.awaitTier q.xvd o).updMod (fun m => { m with taskQ := m.taskQ ++ [q] })
      s.mod.taskQ = [q] →
      (∀ o, t.ctTier q.xvd = some o → s.taskDrain = wait o) ∧
      (t.ctTier q.xvd = none → (∀ s1, t.ctxOf q.xvd q.pasid = (s1, none) → s.taskDrain = s1.refusePkt q.xvd rsPasid w) ∧
        (∀ s1 ctx, t.ctxOf q.xvd q.pasid = (s1, some ctx) →
          ∀ s2 i, s1.acceptLaunch ctx taskDie (2 ^ 32 + q.entry) 0 0 0 q.body false none none 0 = .ok s2 i →
            s.taskDrain = evGridComplete i s2))) ∧
    (∀ base size tag holder, s.mod.expander = true → size ≠ 0 → base % 2 ^ 28 = 0 → size % 2 ^ 28 = 0 →
      (∀ x ∈ s.mod.extents, overlap x.base x.size base size = false) → Memory.wf s.mem = true →
      ∃ t, exec (.extentGrant base size tag holder) s = .next t ∧
        t.mod.extents = s.mod.extents ++ [⟨base, size, tag, holder, s.nid + 1⟩] ∧
        ∀ a, Memory.get t.mem a = if base ≤ a ∧ a < base + size then 0 else Memory.get s.mem a) ∧
    (∀ base size tag holder e, s.mod.expander = true → size ≠ 0 → base % 2 ^ 28 = 0 → size % 2 ^ 28 = 0 →
      (∀ x ∈ s.mod.extents, overlap x.base x.size base size = true → x.is base size tag = true ∧ x.holder ≠ holder) →
      s.mod.extents.find? (fun x => x.is base size tag) = some e → exec (.extentGrant base size tag holder) s =
        .next { s with mod := { s.mod with extents := s.mod.extents ++ [{ e with holder := holder }] } }) ∧
    (∀ r, exec (.extentRelease r) s = .next (s.updMod (fun m => { m with
      extents := m.extents.filter (fun e => !(e.base == r.base && e.holder == r.holder)) }))) ∧
    (∀ port, ∃ t u, exec (.cxlPortDown port) s = .next t ∧ exec (.cxlPortUp port) s = .next u ∧
      (port < 4 → t.mod.portup.testBit port = false ∧ u.mod.portup.testBit port = true) ∧
      (port < 4 → s.mod.portup.testBit port = false → ∃ x, SMap.get? u.mod.ports port = some x ∧
        (x.rate = 128 ∨ x.rate = 64 ∨ x.rate = 32) ∧ (x.lanes = 16 ∨ x.lanes = 8)) ∧
      (∀ q, q ≠ port → t.mod.portup.testBit q = s.mod.portup.testBit q ∧ u.mod.portup.testBit q = s.mod.portup.testBit q)) ∧
    (∀ d, (s.mod.portOf d = none ↔ ∀ k < 4, s.mod.portup.testBit k = false) ∧
      (∀ k, s.mod.portOf d = some k → k < 4 ∧ s.mod.portup.testBit k = true ∧ ∀ j < 4, s.mod.portup.testBit j = true →
        meshHops s.mod d (s.mod.portDie k) < meshHops s.mod d (s.mod.portDie j) ∨
        (meshHops s.mod d (s.mod.portDie k) = meshHops s.mod d (s.mod.portDie j) ∧ k ≤ j)))

-- Tenants

/-- R418, R422, R424, R430, R432, R434, R435, R437: owner-window commands, and the writes that arm a tenant. Below full
function a command does nothing; one that arrives behind another of its window waits there; in a VF's window a command of the PF
completes BADCMD. A command that runs first has its effect, and then writes its status record and leaves its window's queue,
or stays there until what it waits for has come. CTXSYNC puts the entry as it stands in force, and a revoked context goes with its
grids, translations and counters. A report completes FAILED where no leader acts, its flash write fails, or the leader's lease
lapses before its release (R468). A function-level reset takes the steps of VDRESET. The model's own choices in it: logs 32, 33,
61, 100. -/
def Obligations.TenantCommands : Prop :=
  ∀ (s : State) (c : OwnCmd),
    let fin (op : Nat) (t : State) (st v : Nat) : State := (t.cmdStatus op c st v).updVd c.win (fun d => { d with cmds := [] })
    let on (op n : Nat) (t : State) : State := t.updVd c.win (fun d => { d with cmds := [(op + 256 * n, c)] })
    let pf : List (Instr × Nat) := [(.tlbiS2 c, 0x10), (.vdreset c, 0x11), (.vdsave c, 0x12), (.vdload c, 0x13), (.keygen c, 0x14)]
    let all : List (Instr × Nat) := [(.tlbiCtx c, 1), (.tlbiVa c, 2), (.ctxsync c, 3), (.dbgrel c, 4), (.report c, 5)] ++ pf
    let x := cmdCtx c
    let inval (i : Instr) (op : Nat) (s1 : State) (drop : TlbE → Bool) (sel : Nat → Bool) : Prop :=
      let r := (s1.tlbDrop drop).performed sel
      exec i s = .next (if r.2 then fin op r.1 cmdOk 0 else on op 1 (r.1.askHost r.1.heldUpd))
    (∀ e ∈ all, s.full = false → exec e.1 s = .next s) ∧
    (∀ e ∈ all, s.full = true → ∀ y ys, (s.vd c.win).cmds = y :: ys →
      exec e.1 s = .next (s.updVd c.win (fun d => { d with cmds := (y :: ys) ++ [(e.2, c)] }))) ∧
    (∀ e ∈ pf, s.full = true → (s.vd c.win).cmds = [] → c.win ≠ 0 → exec e.1 s = .next (fin e.2 s cmdBad 0)) ∧
    (s.full = true → (s.vd c.win).cmds = [] →
      inval (.tlbiCtx c) 1 s (fun e => e.ctx == x) (fun y => y == x) ∧
      inval (.tlbiVa c) 2 s (fun e => e.ctx == x && overlap e.va e.size (c.a.toNat + bits c.b.toNat 15 0 * 2 ^ 64)
        (65536 * bits c.b.toNat 47 16)) (fun y => y == x) ∧
      (
        let v := c.win % 256
        let n := c.ctx % 256
        let s1 := s.ctSync v n
        let k : Ctx := (SMap.get? s1.ctxs x).getD (deadCtx 0)
        (∀ o, s.ctTier v = some o → exec (.ctxsync c) s = .next (on 3 0 (s.awaitTier v o))) ∧
        (s.ctTier v = none →
          (∀ e, s1.ctEntry v n = some e → e.2.1.testBit 0 = false → exec (.ctxsync c) s = .next (fin 3 { s1 with
            ctxs := SMap.put s1.ctxs x { k with
              pasid := e.1 % 2 ^ 20, s1root := e.2.2, revoked := false, dbg := e.2.1.testBit 1 } } cmdOk 0)) ∧
          ((∀ e, s1.ctEntry v n = some e → e.2.1.testBit 0 = true) →
            ((∃ g ∈ s1.grids, g.2.ctx = x) →
              exec (.ctxsync c) s = .next (on 3 1 (s1.updCtx x (fun k => { k with revoked := true })))) ∧
            ((∀ g ∈ s1.grids, g.2.ctx ≠ x) →
              let w := if (SMap.get? s1.ctxs x).isSome then
                s1.withdraw (fun r => Rank.here s.mod r && r.vd == x / 256 && r.pasid == k.pasid) false else s1
              ∃ t : State, exec (.ctxsync c) s = .next (fin 3 t cmdOk 0) ∧ t.mem = w.mem ∧ t.groups = w.groups ∧
                t.mod = w.mod ∧ t.ctxs = SMap.del w.ctxs x ∧
                (∀ d, SMap.get? w.dies d ≠ none → (t.die d).ctr = SMap.del (w.die d).ctr x))))) ∧
      (∃ t : State, exec (.dbgrel c) s = .next (fin 4 t cmdOk 0) ∧ t.mem = s.mem ∧
        t.groups = s.groups.map (fun e => (e.1, if e.2.ctx = x then { e.2 with halted := none } else e.2))) ∧
      (s.leading = none ∨ c.rep = .noFlash → exec (.report c) s = .next (fin 5 s cmdFailed 0)) ∧
      (
        let v := if c.win == 0 then bits c.b.toNat 7 0 else c.win
        let blocks := (List.range s.mod.dies).flatMap (fun d => leBytes 1 d ++ List.replicate 7 0 ++
          (SMap.getD ((s.countLanes v).die d).meter Meter.init v).bytes)
        let stored (t : State) : Prop := t.mem = s.mem ∧ t.mod.seq = s.mod.seq + 1 ∧ SMap.get? t.mod.repFlash v = some blocks
        (∀ l, s.leading = some l → c.rep = .lapsed → ∃ t : State, exec (.report c) s = .next (fin 5 t cmdFailed 0) ∧ stored t ∧
          (t.die l).leaderOf = none) ∧
        (∀ l, s.leading = some l → c.rep = .released → (s.die l).lmsLeaf < 2 ^ 25 → ∃ t1 : State, ∃ sg, stored t1 ∧
          sg.length = 96 + 4 + 1932 ∧
          (
            let out := leBytes 4 0x4B544D52 ++ leBytes 2 1 ++ leBytes 1 v ++ leBytes 1 s.mod.dies ++ leBytes 8 (s.mod.seq + 1) ++
              leBytes 4 s.mod.resets ++ leBytes 1 l ++ List.replicate 11 0 ++ blocks ++ sg
            exec (.report c) s = .next (fin 5 (t1.cmdWrite c.win c.a.toNat out) cmdOk out.length)))) ∧
      (c.win = 0 →
        inval (.tlbiS2 c) 0x10 (s.readVd c.vd) (fun e => e.ctx / 256 == c.vd &&
          (c.b == 0 || overlap e.ipa e.size c.a.toNat (65536 * c.b.toNat))) (fun y => y / 256 == c.vd) ∧
        (
          let u := ((s.updVd c.vd (fun d => { d with queued := [], reset := 1 })).reclaim c.vd).withdraw
            (fun r => Rank.here s.mod r && r.vd == c.vd) true
          let t := { u with devQ := u.devQ.filter (fun a => a.vd != c.vd) }.drainAll
          (t.quiet = true → exec (.vdreset c) s =
            .next (fin 0x11 (t.updVd c.vd (fun d => d.ownerReset (c.vd == c.win))) cmdOk 0)) ∧
          (t.quiet = false → exec (.vdreset c) s = .next (on 0x11 1 t))) ∧
        (
          let live := s.liveCtxs c.vd
          let s1 := s.updVd c.vd (fun d => { d with saving := true })
          let busy := ∃ e ∈ s.ctxs, e.1 / 256 = c.vd ∧ e.2.cut.isSome = true
          ((∃ i ∈ live, s.saveEntry c i = 0) → exec (.vdsave c) s = .next (fin 0x12 s cmdFailed 0)) ∧
          ((∀ i ∈ live, s.saveEntry c i ≠ 0) → (busy → exec (.vdsave c) s = .next (on 0x12 1 s1)) ∧
            (¬ busy → live = [] → exec (.vdsave c) s = .next (fin 0x12 s1 cmdOk 0)) ∧
            (¬ busy → live ≠ [] → exec (.vdsave c) s = .next (on 0x12 2 (s1.saveAll c))))) ∧
        (
          let s1 := s.loadCtxs c
          (∀ i < 256, s1.saveEntry c i = 0 ∨ (SMap.get? s1.ctxs (256 * c.vd + i)).elim false (fun k => k.vstop) = false) →
          exec (.vdload c) s = .next (fin 0x13 (s1.updVd c.vd (fun d => { d with saving := false })) cmdOk 0)) ∧
        (∀ i s2,
          let s1 := s.loadCtxs c
          (i < 256 → s1.saveEntry c i ≠ 0 → (SMap.get? s1.ctxs (256 * c.vd + i)).elim false (fun k => k.vstop) = true →
          (∀ j < i, s1.saveEntry c j = 0 ∨ (SMap.get? s1.ctxs (256 * c.vd + j)).elim false (fun k => k.vstop) = false) →
          let r := s1.restoreImage (256 * c.vd + i) (.pa (s1.saveEntry c i) (s.mod.keyTag (s.vd c.vd).inf.skey))
          (r = .refused → exec (.vdload c) s = .next (fin 0x13 s1 cmdFailed 0)) ∧
          (r = .ok s2 → (∀ j, i < j → j < 256 →
              s2.saveEntry c j = 0 ∨ (SMap.get? s2.ctxs (256 * c.vd + j)).elim false (fun k => k.vstop) = false) →
            exec (.vdload c) s = .next (fin 0x13 (s2.updVd c.vd (fun d => { d with saving := false })) cmdOk 0)) ∧
          (r = .wait s2 → exec (.vdload c) s = .next (on 0x13 1 s2)))) ∧
        (
          let k := bits c.b.toNat 7 0
          (k = 0 → exec (.keygen c) s = .next (fin 0x14 s cmdFailed 0)) ∧
          (k ≠ 0 →
            let s1 := s.updMod (fun m => { m with keys := SMap.put m.keys k (SMap.getD m.keys 0 k + 1) })
            exec (.keygen c) s = .next (fin 0x14 (s1.retag k (s1.mod.keyTag k)) cmdOk 0))))) ∧
    (s.full = true → c.win = 0 → (s.vd 0).cmds = [(0x12 + 512, c)] →
      let busy := ∃ e ∈ s.ctxs, e.1 / 256 = c.vd ∧ e.2.cut.isSome = true
      (busy → evVdsave false c s = on 0x12 2 s) ∧ (¬ busy → evVdsave false c s = fin 0x12 s cmdOk 0)) ∧
    (∀ v, ((s.vd v).reset ≠ 2 ∨ s.vdSaving v = true → evFlr v s = s) ∧
      ((s.vd v).reset = 2 → s.vdSaving v = false → evFlr v s = (s.vdResetStep v false 2).1)) ∧
    (∀ v, (s.full = false ∨ (s.vd v).ent.flags.testBit 0 = true → exec (.vdEnable v) s = .next s) ∧
      (s.full = true → (s.vd v).ent.flags.testBit 0 = false → ∃ t, exec (.vdEnable v) s = .next t ∧
        { t with vds := s.vds } = s ∧ (t.vd v).ent = { (s.vd v).ent with flags := (s.vd v).ent.flags + 1 } ∧
        (t.vd v).inf = s.mod.debugOk (t.vd v).ent)) ∧
    (∀ v i, (s.full = false ∨ (s.vd v).inf.nvec ≤ i → exec (.remapUnmask v i) s = .next s) ∧
      (s.full = true → i < (s.vd v).inf.nvec →
        let e := SMap.getD (s.vd v).remap Remap.init i
        let send := e.pend = true ∧ e.valid = true
        ∃ t, exec (.remapUnmask v i) s = .next t ∧ t.mem = s.mem ∧
          SMap.getD (t.vd v).remap Remap.init i = { e with mask := false, pend := e.pend && !decide send } ∧
          t.mod.out = s.mod.out ++ if send then [.msi e.addr e.data] else []))

-- Start-up, the leader, records and power

/-- R312, R437, R462 to R474, R476 to R481: firmware and physical events. Power-on checks the firmware on every die; a
module whose dies have all trained elects die 0 and negotiates; NEG enters full function when BASE is selected. A leader
renews, a lapsed follower claims the next term, again when refused, grants, and leads once all it reaches have granted. Repairs use up a spare
and leave a record; attestation answers while a leader leads; samples and limits move the array clocks, and a supply or
temperature out of range removes power. The model's own choices in it: logs 14, 36, 66 to 70. -/
def Obligations.FirmwareAndPower : Prop :=
  ∀ (s : State),
    (∃ t, exec .powerOn s = .next t ∧ t.flash = s.flash ∧ t.groups = [] ∧ t.mem = [] ∧ t.mod.resets = s.mod.resets + 1 ∧
      t.mod.power = true ∧ ∀ d < s.mod.dies, (t.die d).stage = (match s.verify with | .ok _ => 2 | .error _ => 15) ∧
        ∀ w, s.verify = .error w → t.mod.fail = w) ∧
    (∀ die ok, (s.stage ≠ 2 ∨ s.mod.dies ≤ die → exec (.trainingComplete die ok) s = .next s) ∧
      (s.stage = 2 → die < s.mod.dies →
        (ok = false → exec (.trainingComplete die ok) s = .next (s.failed 3)) ∧
        (ok = true → ∃ t, exec (.trainingComplete die ok) s = .next t ∧ (t.die die).trained = true ∧ t.mem = s.mem ∧
          ((∀ d < s.mod.dies, d = die ∨ (s.die d).trained = true) → t.stage = 3 ∧ t.mod.leader = 0 ∧
            ∀ d < s.mod.dies, (t.die d).term = 1 ∧ (t.die d).leaderOf = if d = 0 then some 1 else none)))) ∧
    (s.stage ≠ 3 → exec .neg s = .next s) ∧
    (s.stage = 3 → let on := s.mod.featoff &&& s.mod.featsel
      ∃ t, exec .neg s = .next t ∧ t.mod.featon = on ∧ t.mem = s.mem ∧
        (on.testBit 0 = true → t.stage = 4 ∧ t.mod.fail = 0) ∧ (on.testBit 0 = false → t.stage = 3 ∧ t.mod.fail = 4)) ∧
    (∀ img which, (s.stage ≠ 15 → exec (.recoveryImage img which) s = .next s) ∧
      (s.stage = 15 → exec (.recoveryImage img which) s = .next { s with mod := { s.mod with
        copyA := if which then s.mod.copyA else img, copyB := if which then img else s.mod.copyB } })) ∧
    (∀ die, (s.config = false ∨ s.mod.dies ≤ die → exec (.svnRaise die) s = .next s) ∧
      (∀ b, s.config = true → die < s.mod.dies → s.verify = .ok b → ∃ t, exec (.svnRaise die) s = .next t ∧ t.mem = s.mem ∧
        (t.die die).svnMin = max (s.die die).svnMin (if b then s.mod.copyB.svn else s.mod.copyA.svn))) ∧
    (∀ v, (s.config = false → exec (.rlbaseWrite v) s = .next s) ∧
      (s.config = true → v.toNat < 4096 → exec (.rlbaseWrite v) s = .next { s with mod := { s.mod with rlbase := 0 } }) ∧
      (s.config = true → 4096 ≤ v.toNat → ∃ t, exec (.rlbaseWrite v) s = .next t ∧
        t.mod.rlbase = v.toNat - v.toNat % 4096 ∧ ∀ d < s.mod.dies, (t.die d).relBuf = [])) ∧
    (∀ die t, (s.die die).leaderOf = some t → exec (.renew die) s = .next { s with
      agenda := s.agenda ++ ((s.mod.reach die).filter (fun k => k != die)).map (fun k => Move.event (.renewReceive k t)) }) ∧
    (∀ die, (s.die die).leaderOf = none → exec (.renew die) s = .next s) ∧
    (∀ die term, ∃ t, exec (.renewReceive die term) s = .next t ∧ { t with dies := s.dies } = s ∧
      (term < (s.die die).term ∨ ((s.die die).leaderOf ≠ none ∧ term = (s.die die).term) → t.die die = s.die die) ∧
      ((s.die die).term < term ∨ ((s.die die).leaderOf = none ∧ term = (s.die die).term) →
        (t.die die).term = term ∧ (t.die die).lapsed = false ∧ (t.die die).leaderOf = none)) ∧
    (∀ die, ∃ t, exec (.leaseLapse die) s = .next t ∧ { t with dies := s.dies } = s ∧
      t.die die = (if (s.die die).leaderOf = none then { s.die die with lapsed := true } else s.die die)) ∧
    (∀ die, let d := s.die die
      let send (s : State) : State := (s.broadcast die (fun k => .claimReceive k die (d.term + 1))).tryLead die (d.term + 1)
      (d.lapsed = false ∨ d.leaderOf ≠ none ∨ (d.claimed = false ∧ d.term < d.claimSeen) → exec (.claim die) s = .next s) ∧
      (d.lapsed = true → d.leaderOf = none → d.claimed = true → exec (.claim die) s = .next (send s)) ∧
      (d.lapsed = true → d.leaderOf = none → d.claimed = false → d.claimSeen ≤ d.term → exec (.claim die) s = .next (send
        (s.setDie die { d with claimSeen := d.term + 1, claimed := true, grants := [die], granted := some (d.term + 1, die) })))) ∧
    (∀ die src term, let d := s.die die
      let seen := s.setDie die { d with claimSeen := max d.claimSeen term }
      (d.lapsed = false ∨ term ≤ d.term ∨ term < d.claimSeen → exec (.claimReceive die src term) s = .next seen) ∧
      (d.lapsed = true → d.term < term → d.claimSeen ≤ term →
        (∀ t c, d.granted = some (t, c) → (term < t ∨ (term = t ∧ c ≤ src)) →
          exec (.claimReceive die src term) s = .next seen) ∧
        (d.granted = none → src ≠ die → (s.die src).claimSeen = term → exec (.claimReceive die src term) s =
          .next (((seen.updDie die (fun x => { x with granted := some (term, src) })).updDie src (fun x =>
            { x with grants := x.grants.filter (fun k => k != die) ++ [die] })).tryLead src term)))) ∧
    (∀ die term,
      ((∀ k ∈ s.mod.reach die, k ∈ (s.die die).grants) → ((s.tryLead die term).die die).leaderOf = some term ∧
        (s.tryLead die term).mod.leader = die) ∧
      ((∃ k ∈ s.mod.reach die, k ∉ (s.die die).grants) → s.tryLead die term = s)) ∧
    (∀ die, ((s.die die).leaderOf = none → exec (.leaderLeaseEnd die) s = .next s) ∧
      ((s.die die).leaderOf ≠ none → ∃ t, exec (.leaderLeaseEnd die) s = .next t ∧
        t.die die = { s.die die with leaderOf := none, lapsed := true } ∧ t.mem = s.mem ∧
        t.mod.leader = if s.mod.leader = die then 0xFF else s.mod.leader)) ∧
    (∀ die, ∃ t, exec (.viral die) s = .next t ∧ t.mod.viral = true ∧ t.mod.out = s.mod.out ++ [.viral] ∧ t.groups = s.groups) ∧
    (∀ die k, (32 ≤ k ∨ s.mod.dies ≤ die ∨ (s.cluster (die * 32 + k)).retired = true →
        exec (.clusterRepair die k) s = .next s) ∧
      (k < 32 → die < s.mod.dies → (s.cluster (die * 32 + k)).retired = false →
        let cl := die * 32 + k
        let gs := s.groups.filter (fun g => g.2.core / 4 == cl)
        let ctxs := (gs.map (fun g => g.2.ctx)).eraseDups
        let d := ctxs.foldl (fun d x => d.cutDrain ((gs.filter (fun g => g.2.ctx == x)).map (fun g => g.1)) x cl)
          (s.withdrawWaits (gs.map (fun g => g.1)))
        let h := (gs.foldl (fun s e => match SMap.get? s.groups e.1 with | some g => s.lanesHome e.1 g | none => s) d).unshadow
          (fun t => t.core / 4 == cl)
        let n := (h.die die).spareCl
        let h := if 0 < n then h else h.refuseUnfit cl
        let xs := h.clusterSeats cl
        let out := (xs.foldl (fun s x => s.unloadTeam x.1) h).swapCluster cl (if 0 < n then some (34 - n) else none)
        (∀ x ∈ ctxs, s.cutOf x = none) → (∀ g ∈ gs, g.2.wait ≠ .ccpy ∧ g.2.owed = []) → d.quiet = true →
        (∀ x ∈ ctxs, d.cutBusy x cl = false) →
        (State.placeBlocks (blocksOf (xs.map (fun x => x.2))) out = none → exec (.clusterRepair die k) s = .next s) ∧
        (∀ p ts, State.placeBlocks (blocksOf (xs.map (fun x => x.2))) out = some (p, ts) →
          let live := ts.map (fun x => (x.1, match SMap.get? p.grids x.2.gi with
            | some g => { x.2 with grid := g }
            | none => x.2))
          let p1 := live.foldl (fun s x => s.loadSegment x.1 x.2) (p.fuseCores (live.map (fun x => x.1)))
          let p2 := live.foldl (fun s x => s.unsave x.2) (live.foldl (fun s x => s.loadObjects x.1 x.2) p1)
          exec (.clusterRepair die k) s =
            .next ((p2.updDie die (fun x => { x with spareCl := x.spareCl - 1 })).relRec 2 (if 0 < n then 2 else 3) die k 0 0)))) ∧
    (∀ cl spare, let c := (s.swapCluster cl spare).cluster cl
      c.tlb = [] ∧ c.corr = [] ∧ c.retired = spare.isNone ∧ c.phys = spare.getD (s.cluster cl).phys ∧
        c.ops = (s.cluster cl).ops ∧ c.evq = (s.cluster cl).evq) ∧
    (∀ die stack bank row, let n := stackIdx die stack
      let k := s.stack n
      let r := rowKey (bank, row)
      (SMap.getD k.rowCorr 0 r < 16 ∨ k.rowsLeft bank = 0 → exec (.rowRepair die stack bank row) s = .next s) ∧
      (16 ≤ SMap.getD k.rowCorr 0 r → k.rowsLeft bank ≠ 0 → ∃ s1 : State,
        exec (.rowRepair die stack bank row) s = .next (s1.relRec 7 2 die (stack % 2) 0 r) ∧ { s1 with hbms := s.hbms } = s ∧
        SMap.get? (s1.stack n).rowMap r = some (33 - k.rowsLeft bank) ∧ (s1.stack n).rowsLeft bank = k.rowsLeft bank - 1 ∧
        (s1.stack n).rowCorr = SMap.del k.rowCorr r ∧ (s1.stack n).cnt = SMap.del k.cnt r)) ∧
    (∀ die stack pc, let n := stackIdx die stack
      let k := s.stack n
      let bad := (k.rowBad.filter (fun r => rowPc r == pc)).length
      (k.sparePcs = 0 ∨ bad < 2 → exec (.pseudoChannelRepair die stack pc) s = .next s) ∧
      (k.sparePcs ≠ 0 → 2 ≤ bad → ∃ s1 : State,
        exec (.pseudoChannelRepair die stack pc) s = .next (s1.relRec 7 2 die (stack % 2) 0 pc) ∧
        { s1 with hbms := s.hbms } = s ∧ (s1.stack n).sparePcs = k.sparePcs - 1 ∧ (s1.stack n).q = k.q ∧
        SMap.get? (s1.stack n).pcMap pc = some (3 - k.sparePcs))) ∧
    (∀ die stack, exec (.dataRateChange die stack) s =
      .next (s.emit (.rate die (stack % 2) (s.streamsTo (stackIdx die stack))))) ∧
    (∀ i, (∀ c ∈ s.ctxs, c.2.cut = none) → s.streamsTo i = false) ∧
    (∀ n m, s.leading = none → exec (.challenge n) s = .next s ∧ exec (.getMeasurements n) s = .next s ∧
      exec (.lmsTranscriptSignature m) s = .next s ∧ ∀ slot, ∃ t, exec (.getCertificate slot) s = .next t ∧ t.mod = s.mod) ∧
    (∀ n m l, s.leading = some l →
      (∀ slot, ∃ t bs, exec (.getCertificate slot) s = .next t ∧ t.mem = s.mem ∧
        t.mod.out = s.mod.out ++ [.spdm 0 (leBytes 1 slot ++ bs)]) ∧
      (∃ t sg, exec (.challenge n) s = .next t ∧ t.mem = s.mem ∧ t.mod.out = s.mod.out ++ [.spdm 1 (n ++ sg)] ∧
        sg.length = 96) ∧
      (∃ t bs, exec (.getMeasurements n) s = .next t ∧ t.mem = s.mem ∧ t.mod.out = s.mod.out ++ [.spdm 2 (n ++ bs)]) ∧
      ((s.die l).lmsLeaf < 2 ^ 25 → ∃ t sg, exec (.lmsTranscriptSignature m) s = .next t ∧ t.mem = s.mem ∧
        t.mod.out = s.mod.out ++ [.spdm 3 sg] ∧ (t.die l).lmsLeaf = (s.die l).lmsLeaf + 1)) ∧
    (∀ pct, exec (.powerCapSet pct) s = .next { s with mod := { s.mod with cap := min 100 (max 40 pct) } }) ∧
    (∀ w, exec (.powerSample w) s = .next { s with mod := { s.mod with
      drop := if s.mod.maxWatts * s.mod.cap < 100 * w then min 17 (s.mod.drop + 1) else s.mod.drop - 1 } }) ∧
    (∀ mv, exec (.supplyOutOfRange mv) s = .next (if mv < 46000 ∨ 60000 < mv then s.trip 255 else s)) ∧
    (∀ die c, (s.mod.dies ≤ die → exec (.thermalSample die c) s = .next s) ∧
      (die < s.mod.dies → ∃ t, exec (.thermalSample die c) s = .next t ∧ t.mem = s.mem ∧ (t.die die).temp = c ∧
        (t.die die).heat = (if 95 < c then min 17 ((s.die die).heat + 1) else if c < 90 then (s.die die).heat - 1
          else (s.die die).heat) ∧
        t.mod.power = (s.mod.power && decide (c < 105)) ∧ t.mod.trip = if 105 ≤ c then some die else s.mod.trip))
end

