-- ==== Sys2Proof/Laws/State.lean ====
section
/-! SUPPORT. What each accessor of State leaves in each field: one lemma per field and update, true by rfl. -/

namespace Sys2Proof.Machine

-- setDie
@[simp] theorem State.setDie_clk (s : State) (d : Nat) (x : Die) : (s.setDie d x).clk = s.clk := rfl
@[simp] theorem State.setDie_agenda (s : State) (d : Nat) (x : Die) : (s.setDie d x).agenda = s.agenda := rfl
@[simp] theorem State.setDie_cur (s : State) (d : Nat) (x : Die) : (s.setDie d x).cur = s.cur := rfl
@[simp] theorem State.setDie_turn (s : State) (d : Nat) (x : Die) : (s.setDie d x).turn = s.turn := rfl
@[simp] theorem State.setDie_nid (s : State) (d : Nat) (x : Die) : (s.setDie d x).nid = s.nid := rfl
@[simp] theorem State.setDie_draws (s : State) (d : Nat) (x : Die) : (s.setDie d x).draws = s.draws := rfl
@[simp] theorem State.setDie_groups (s : State) (d : Nat) (x : Die) : (s.setDie d x).groups = s.groups := rfl
@[simp] theorem State.setDie_teams (s : State) (d : Nat) (x : Die) : (s.setDie d x).teams = s.teams := rfl
@[simp] theorem State.setDie_canvases (s : State) (d : Nat) (x : Die) : (s.setDie d x).canvases = s.canvases := rfl
@[simp] theorem State.setDie_cores (s : State) (d : Nat) (x : Die) : (s.setDie d x).cores = s.cores := rfl
@[simp] theorem State.setDie_clusters (s : State) (d : Nat) (x : Die) : (s.setDie d x).clusters = s.clusters := rfl
@[simp] theorem State.setDie_dies (s : State) (d : Nat) (x : Die) : (s.setDie d x).dies = SMap.put s.dies d x := rfl
@[simp] theorem State.setDie_hbms (s : State) (d : Nat) (x : Die) : (s.setDie d x).hbms = s.hbms := rfl
@[simp] theorem State.setDie_mem (s : State) (d : Nat) (x : Die) : (s.setDie d x).mem = s.mem := rfl
@[simp] theorem State.setDie_poison (s : State) (d : Nat) (x : Die) : (s.setDie d x).poison = s.poison := rfl
@[simp] theorem State.setDie_keyOf (s : State) (d : Nat) (x : Die) : (s.setDie d x).keyOf = s.keyOf := rfl
@[simp] theorem State.setDie_flash (s : State) (d : Nat) (x : Die) : (s.setDie d x).flash = s.flash := rfl
@[simp] theorem State.setDie_aops (s : State) (d : Nat) (x : Die) : (s.setDie d x).aops = s.aops := rfl
@[simp] theorem State.setDie_tops (s : State) (d : Nat) (x : Die) : (s.setDie d x).tops = s.tops := rfl
@[simp] theorem State.setDie_dones (s : State) (d : Nat) (x : Die) : (s.setDie d x).dones = s.dones := rfl
@[simp] theorem State.setDie_grids (s : State) (d : Nat) (x : Die) : (s.setDie d x).grids = s.grids := rfl
@[simp] theorem State.setDie_ctxs (s : State) (d : Nat) (x : Die) : (s.setDie d x).ctxs = s.ctxs := rfl
@[simp] theorem State.setDie_vds (s : State) (d : Nat) (x : Die) : (s.setDie d x).vds = s.vds := rfl
@[simp] theorem State.setDie_aqis (s : State) (d : Nat) (x : Die) : (s.setDie d x).aqis = s.aqis := rfl
@[simp] theorem State.setDie_devQ (s : State) (d : Nat) (x : Die) : (s.setDie d x).devQ = s.devQ := rfl
@[simp] theorem State.setDie_mod (s : State) (d : Nat) (x : Die) : (s.setDie d x).mod = s.mod := rfl

-- updDie
@[simp] theorem State.updDie_clk (s : State) (d : Nat) (f : Die → Die) : (s.updDie d f).clk = s.clk := rfl
@[simp] theorem State.updDie_agenda (s : State) (d : Nat) (f : Die → Die) : (s.updDie d f).agenda = s.agenda := rfl
@[simp] theorem State.updDie_cur (s : State) (d : Nat) (f : Die → Die) : (s.updDie d f).cur = s.cur := rfl
@[simp] theorem State.updDie_turn (s : State) (d : Nat) (f : Die → Die) : (s.updDie d f).turn = s.turn := rfl
@[simp] theorem State.updDie_nid (s : State) (d : Nat) (f : Die → Die) : (s.updDie d f).nid = s.nid := rfl
@[simp] theorem State.updDie_draws (s : State) (d : Nat) (f : Die → Die) : (s.updDie d f).draws = s.draws := rfl
@[simp] theorem State.updDie_groups (s : State) (d : Nat) (f : Die → Die) : (s.updDie d f).groups = s.groups := rfl
@[simp] theorem State.updDie_teams (s : State) (d : Nat) (f : Die → Die) : (s.updDie d f).teams = s.teams := rfl
@[simp] theorem State.updDie_canvases (s : State) (d : Nat) (f : Die → Die) : (s.updDie d f).canvases = s.canvases := rfl
@[simp] theorem State.updDie_cores (s : State) (d : Nat) (f : Die → Die) : (s.updDie d f).cores = s.cores := rfl
@[simp] theorem State.updDie_clusters (s : State) (d : Nat) (f : Die → Die) : (s.updDie d f).clusters = s.clusters := rfl
@[simp] theorem State.updDie_dies (s : State) (d : Nat) (f : Die → Die) : (s.updDie d f).dies = SMap.put s.dies d (f (s.die d)) := rfl
@[simp] theorem State.updDie_hbms (s : State) (d : Nat) (f : Die → Die) : (s.updDie d f).hbms = s.hbms := rfl
@[simp] theorem State.updDie_mem (s : State) (d : Nat) (f : Die → Die) : (s.updDie d f).mem = s.mem := rfl
@[simp] theorem State.updDie_poison (s : State) (d : Nat) (f : Die → Die) : (s.updDie d f).poison = s.poison := rfl
@[simp] theorem State.updDie_keyOf (s : State) (d : Nat) (f : Die → Die) : (s.updDie d f).keyOf = s.keyOf := rfl
@[simp] theorem State.updDie_flash (s : State) (d : Nat) (f : Die → Die) : (s.updDie d f).flash = s.flash := rfl
@[simp] theorem State.updDie_aops (s : State) (d : Nat) (f : Die → Die) : (s.updDie d f).aops = s.aops := rfl
@[simp] theorem State.updDie_tops (s : State) (d : Nat) (f : Die → Die) : (s.updDie d f).tops = s.tops := rfl
@[simp] theorem State.updDie_dones (s : State) (d : Nat) (f : Die → Die) : (s.updDie d f).dones = s.dones := rfl
@[simp] theorem State.updDie_grids (s : State) (d : Nat) (f : Die → Die) : (s.updDie d f).grids = s.grids := rfl
@[simp] theorem State.updDie_ctxs (s : State) (d : Nat) (f : Die → Die) : (s.updDie d f).ctxs = s.ctxs := rfl
@[simp] theorem State.updDie_vds (s : State) (d : Nat) (f : Die → Die) : (s.updDie d f).vds = s.vds := rfl
@[simp] theorem State.updDie_aqis (s : State) (d : Nat) (f : Die → Die) : (s.updDie d f).aqis = s.aqis := rfl
@[simp] theorem State.updDie_devQ (s : State) (d : Nat) (f : Die → Die) : (s.updDie d f).devQ = s.devQ := rfl
@[simp] theorem State.updDie_mod (s : State) (d : Nat) (f : Die → Die) : (s.updDie d f).mod = s.mod := rfl

-- setCore
@[simp] theorem State.setCore_clk (s : State) (c : Nat) (x : Core) : (s.setCore c x).clk = s.clk := rfl
@[simp] theorem State.setCore_agenda (s : State) (c : Nat) (x : Core) : (s.setCore c x).agenda = s.agenda := rfl
@[simp] theorem State.setCore_cur (s : State) (c : Nat) (x : Core) : (s.setCore c x).cur = s.cur := rfl
@[simp] theorem State.setCore_turn (s : State) (c : Nat) (x : Core) : (s.setCore c x).turn = s.turn := rfl
@[simp] theorem State.setCore_nid (s : State) (c : Nat) (x : Core) : (s.setCore c x).nid = s.nid := rfl
@[simp] theorem State.setCore_draws (s : State) (c : Nat) (x : Core) : (s.setCore c x).draws = s.draws := rfl
@[simp] theorem State.setCore_groups (s : State) (c : Nat) (x : Core) : (s.setCore c x).groups = s.groups := rfl
@[simp] theorem State.setCore_teams (s : State) (c : Nat) (x : Core) : (s.setCore c x).teams = s.teams := rfl
@[simp] theorem State.setCore_canvases (s : State) (c : Nat) (x : Core) : (s.setCore c x).canvases = s.canvases := rfl
@[simp] theorem State.setCore_cores (s : State) (c : Nat) (x : Core) : (s.setCore c x).cores = SMap.put s.cores c x := rfl
@[simp] theorem State.setCore_clusters (s : State) (c : Nat) (x : Core) : (s.setCore c x).clusters = s.clusters := rfl
@[simp] theorem State.setCore_dies (s : State) (c : Nat) (x : Core) : (s.setCore c x).dies = s.dies := rfl
@[simp] theorem State.setCore_hbms (s : State) (c : Nat) (x : Core) : (s.setCore c x).hbms = s.hbms := rfl
@[simp] theorem State.setCore_mem (s : State) (c : Nat) (x : Core) : (s.setCore c x).mem = s.mem := rfl
@[simp] theorem State.setCore_poison (s : State) (c : Nat) (x : Core) : (s.setCore c x).poison = s.poison := rfl
@[simp] theorem State.setCore_keyOf (s : State) (c : Nat) (x : Core) : (s.setCore c x).keyOf = s.keyOf := rfl
@[simp] theorem State.setCore_flash (s : State) (c : Nat) (x : Core) : (s.setCore c x).flash = s.flash := rfl
@[simp] theorem State.setCore_aops (s : State) (c : Nat) (x : Core) : (s.setCore c x).aops = s.aops := rfl
@[simp] theorem State.setCore_tops (s : State) (c : Nat) (x : Core) : (s.setCore c x).tops = s.tops := rfl
@[simp] theorem State.setCore_dones (s : State) (c : Nat) (x : Core) : (s.setCore c x).dones = s.dones := rfl
@[simp] theorem State.setCore_grids (s : State) (c : Nat) (x : Core) : (s.setCore c x).grids = s.grids := rfl
@[simp] theorem State.setCore_ctxs (s : State) (c : Nat) (x : Core) : (s.setCore c x).ctxs = s.ctxs := rfl
@[simp] theorem State.setCore_vds (s : State) (c : Nat) (x : Core) : (s.setCore c x).vds = s.vds := rfl
@[simp] theorem State.setCore_aqis (s : State) (c : Nat) (x : Core) : (s.setCore c x).aqis = s.aqis := rfl
@[simp] theorem State.setCore_devQ (s : State) (c : Nat) (x : Core) : (s.setCore c x).devQ = s.devQ := rfl
@[simp] theorem State.setCore_mod (s : State) (c : Nat) (x : Core) : (s.setCore c x).mod = s.mod := rfl

-- updCore
@[simp] theorem State.updCore_clk (s : State) (c : Nat) (f : Core → Core) : (s.updCore c f).clk = s.clk := rfl
@[simp] theorem State.updCore_agenda (s : State) (c : Nat) (f : Core → Core) : (s.updCore c f).agenda = s.agenda := rfl
@[simp] theorem State.updCore_cur (s : State) (c : Nat) (f : Core → Core) : (s.updCore c f).cur = s.cur := rfl
@[simp] theorem State.updCore_turn (s : State) (c : Nat) (f : Core → Core) : (s.updCore c f).turn = s.turn := rfl
@[simp] theorem State.updCore_nid (s : State) (c : Nat) (f : Core → Core) : (s.updCore c f).nid = s.nid := rfl
@[simp] theorem State.updCore_draws (s : State) (c : Nat) (f : Core → Core) : (s.updCore c f).draws = s.draws := rfl
@[simp] theorem State.updCore_groups (s : State) (c : Nat) (f : Core → Core) : (s.updCore c f).groups = s.groups := rfl
@[simp] theorem State.updCore_teams (s : State) (c : Nat) (f : Core → Core) : (s.updCore c f).teams = s.teams := rfl
@[simp] theorem State.updCore_canvases (s : State) (c : Nat) (f : Core → Core) : (s.updCore c f).canvases = s.canvases := rfl
@[simp] theorem State.updCore_cores (s : State) (c : Nat) (f : Core → Core) : (s.updCore c f).cores = SMap.put s.cores c (f (s.core c)) := rfl
@[simp] theorem State.updCore_clusters (s : State) (c : Nat) (f : Core → Core) : (s.updCore c f).clusters = s.clusters := rfl
@[simp] theorem State.updCore_dies (s : State) (c : Nat) (f : Core → Core) : (s.updCore c f).dies = s.dies := rfl
@[simp] theorem State.updCore_hbms (s : State) (c : Nat) (f : Core → Core) : (s.updCore c f).hbms = s.hbms := rfl
@[simp] theorem State.updCore_mem (s : State) (c : Nat) (f : Core → Core) : (s.updCore c f).mem = s.mem := rfl
@[simp] theorem State.updCore_poison (s : State) (c : Nat) (f : Core → Core) : (s.updCore c f).poison = s.poison := rfl
@[simp] theorem State.updCore_keyOf (s : State) (c : Nat) (f : Core → Core) : (s.updCore c f).keyOf = s.keyOf := rfl
@[simp] theorem State.updCore_flash (s : State) (c : Nat) (f : Core → Core) : (s.updCore c f).flash = s.flash := rfl
@[simp] theorem State.updCore_aops (s : State) (c : Nat) (f : Core → Core) : (s.updCore c f).aops = s.aops := rfl
@[simp] theorem State.updCore_tops (s : State) (c : Nat) (f : Core → Core) : (s.updCore c f).tops = s.tops := rfl
@[simp] theorem State.updCore_dones (s : State) (c : Nat) (f : Core → Core) : (s.updCore c f).dones = s.dones := rfl
@[simp] theorem State.updCore_grids (s : State) (c : Nat) (f : Core → Core) : (s.updCore c f).grids = s.grids := rfl
@[simp] theorem State.updCore_ctxs (s : State) (c : Nat) (f : Core → Core) : (s.updCore c f).ctxs = s.ctxs := rfl
@[simp] theorem State.updCore_vds (s : State) (c : Nat) (f : Core → Core) : (s.updCore c f).vds = s.vds := rfl
@[simp] theorem State.updCore_aqis (s : State) (c : Nat) (f : Core → Core) : (s.updCore c f).aqis = s.aqis := rfl
@[simp] theorem State.updCore_devQ (s : State) (c : Nat) (f : Core → Core) : (s.updCore c f).devQ = s.devQ := rfl
@[simp] theorem State.updCore_mod (s : State) (c : Nat) (f : Core → Core) : (s.updCore c f).mod = s.mod := rfl

-- setCluster
@[simp] theorem State.setCluster_clk (s : State) (c : Nat) (x : Cluster) : (s.setCluster c x).clk = s.clk := rfl
@[simp] theorem State.setCluster_agenda (s : State) (c : Nat) (x : Cluster) : (s.setCluster c x).agenda = s.agenda := rfl
@[simp] theorem State.setCluster_cur (s : State) (c : Nat) (x : Cluster) : (s.setCluster c x).cur = s.cur := rfl
@[simp] theorem State.setCluster_turn (s : State) (c : Nat) (x : Cluster) : (s.setCluster c x).turn = s.turn := rfl
@[simp] theorem State.setCluster_nid (s : State) (c : Nat) (x : Cluster) : (s.setCluster c x).nid = s.nid := rfl
@[simp] theorem State.setCluster_draws (s : State) (c : Nat) (x : Cluster) : (s.setCluster c x).draws = s.draws := rfl
@[simp] theorem State.setCluster_groups (s : State) (c : Nat) (x : Cluster) : (s.setCluster c x).groups = s.groups := rfl
@[simp] theorem State.setCluster_teams (s : State) (c : Nat) (x : Cluster) : (s.setCluster c x).teams = s.teams := rfl
@[simp] theorem State.setCluster_canvases (s : State) (c : Nat) (x : Cluster) : (s.setCluster c x).canvases = s.canvases := rfl
@[simp] theorem State.setCluster_cores (s : State) (c : Nat) (x : Cluster) : (s.setCluster c x).cores = s.cores := rfl
@[simp] theorem State.setCluster_clusters (s : State) (c : Nat) (x : Cluster) : (s.setCluster c x).clusters = SMap.put s.clusters c x := rfl
@[simp] theorem State.setCluster_dies (s : State) (c : Nat) (x : Cluster) : (s.setCluster c x).dies = s.dies := rfl
@[simp] theorem State.setCluster_hbms (s : State) (c : Nat) (x : Cluster) : (s.setCluster c x).hbms = s.hbms := rfl
@[simp] theorem State.setCluster_mem (s : State) (c : Nat) (x : Cluster) : (s.setCluster c x).mem = s.mem := rfl
@[simp] theorem State.setCluster_poison (s : State) (c : Nat) (x : Cluster) : (s.setCluster c x).poison = s.poison := rfl
@[simp] theorem State.setCluster_keyOf (s : State) (c : Nat) (x : Cluster) : (s.setCluster c x).keyOf = s.keyOf := rfl
@[simp] theorem State.setCluster_flash (s : State) (c : Nat) (x : Cluster) : (s.setCluster c x).flash = s.flash := rfl
@[simp] theorem State.setCluster_aops (s : State) (c : Nat) (x : Cluster) : (s.setCluster c x).aops = s.aops := rfl
@[simp] theorem State.setCluster_tops (s : State) (c : Nat) (x : Cluster) : (s.setCluster c x).tops = s.tops := rfl
@[simp] theorem State.setCluster_dones (s : State) (c : Nat) (x : Cluster) : (s.setCluster c x).dones = s.dones := rfl
@[simp] theorem State.setCluster_grids (s : State) (c : Nat) (x : Cluster) : (s.setCluster c x).grids = s.grids := rfl
@[simp] theorem State.setCluster_ctxs (s : State) (c : Nat) (x : Cluster) : (s.setCluster c x).ctxs = s.ctxs := rfl
@[simp] theorem State.setCluster_vds (s : State) (c : Nat) (x : Cluster) : (s.setCluster c x).vds = s.vds := rfl
@[simp] theorem State.setCluster_aqis (s : State) (c : Nat) (x : Cluster) : (s.setCluster c x).aqis = s.aqis := rfl
@[simp] theorem State.setCluster_devQ (s : State) (c : Nat) (x : Cluster) : (s.setCluster c x).devQ = s.devQ := rfl
@[simp] theorem State.setCluster_mod (s : State) (c : Nat) (x : Cluster) : (s.setCluster c x).mod = s.mod := rfl

-- updCluster
@[simp] theorem State.updCluster_clk (s : State) (c : Nat) (f : Cluster → Cluster) : (s.updCluster c f).clk = s.clk := rfl
@[simp] theorem State.updCluster_agenda (s : State) (c : Nat) (f : Cluster → Cluster) : (s.updCluster c f).agenda = s.agenda := rfl
@[simp] theorem State.updCluster_cur (s : State) (c : Nat) (f : Cluster → Cluster) : (s.updCluster c f).cur = s.cur := rfl
@[simp] theorem State.updCluster_turn (s : State) (c : Nat) (f : Cluster → Cluster) : (s.updCluster c f).turn = s.turn := rfl
@[simp] theorem State.updCluster_nid (s : State) (c : Nat) (f : Cluster → Cluster) : (s.updCluster c f).nid = s.nid := rfl
@[simp] theorem State.updCluster_draws (s : State) (c : Nat) (f : Cluster → Cluster) : (s.updCluster c f).draws = s.draws := rfl
@[simp] theorem State.updCluster_groups (s : State) (c : Nat) (f : Cluster → Cluster) : (s.updCluster c f).groups = s.groups := rfl
@[simp] theorem State.updCluster_teams (s : State) (c : Nat) (f : Cluster → Cluster) : (s.updCluster c f).teams = s.teams := rfl
@[simp] theorem State.updCluster_canvases (s : State) (c : Nat) (f : Cluster → Cluster) : (s.updCluster c f).canvases = s.canvases := rfl
@[simp] theorem State.updCluster_cores (s : State) (c : Nat) (f : Cluster → Cluster) : (s.updCluster c f).cores = s.cores := rfl
@[simp] theorem State.updCluster_clusters (s : State) (c : Nat) (f : Cluster → Cluster) : (s.updCluster c f).clusters = SMap.put s.clusters c (f (s.cluster c)) := rfl
@[simp] theorem State.updCluster_dies (s : State) (c : Nat) (f : Cluster → Cluster) : (s.updCluster c f).dies = s.dies := rfl
@[simp] theorem State.updCluster_hbms (s : State) (c : Nat) (f : Cluster → Cluster) : (s.updCluster c f).hbms = s.hbms := rfl
@[simp] theorem State.updCluster_mem (s : State) (c : Nat) (f : Cluster → Cluster) : (s.updCluster c f).mem = s.mem := rfl
@[simp] theorem State.updCluster_poison (s : State) (c : Nat) (f : Cluster → Cluster) : (s.updCluster c f).poison = s.poison := rfl
@[simp] theorem State.updCluster_keyOf (s : State) (c : Nat) (f : Cluster → Cluster) : (s.updCluster c f).keyOf = s.keyOf := rfl
@[simp] theorem State.updCluster_flash (s : State) (c : Nat) (f : Cluster → Cluster) : (s.updCluster c f).flash = s.flash := rfl
@[simp] theorem State.updCluster_aops (s : State) (c : Nat) (f : Cluster → Cluster) : (s.updCluster c f).aops = s.aops := rfl
@[simp] theorem State.updCluster_tops (s : State) (c : Nat) (f : Cluster → Cluster) : (s.updCluster c f).tops = s.tops := rfl
@[simp] theorem State.updCluster_dones (s : State) (c : Nat) (f : Cluster → Cluster) : (s.updCluster c f).dones = s.dones := rfl
@[simp] theorem State.updCluster_grids (s : State) (c : Nat) (f : Cluster → Cluster) : (s.updCluster c f).grids = s.grids := rfl
@[simp] theorem State.updCluster_ctxs (s : State) (c : Nat) (f : Cluster → Cluster) : (s.updCluster c f).ctxs = s.ctxs := rfl
@[simp] theorem State.updCluster_vds (s : State) (c : Nat) (f : Cluster → Cluster) : (s.updCluster c f).vds = s.vds := rfl
@[simp] theorem State.updCluster_aqis (s : State) (c : Nat) (f : Cluster → Cluster) : (s.updCluster c f).aqis = s.aqis := rfl
@[simp] theorem State.updCluster_devQ (s : State) (c : Nat) (f : Cluster → Cluster) : (s.updCluster c f).devQ = s.devQ := rfl
@[simp] theorem State.updCluster_mod (s : State) (c : Nat) (f : Cluster → Cluster) : (s.updCluster c f).mod = s.mod := rfl

-- setStack
@[simp] theorem State.setStack_clk (s : State) (k : Nat) (x : Stack) : (s.setStack k x).clk = s.clk := rfl
@[simp] theorem State.setStack_agenda (s : State) (k : Nat) (x : Stack) : (s.setStack k x).agenda = s.agenda := rfl
@[simp] theorem State.setStack_cur (s : State) (k : Nat) (x : Stack) : (s.setStack k x).cur = s.cur := rfl
@[simp] theorem State.setStack_turn (s : State) (k : Nat) (x : Stack) : (s.setStack k x).turn = s.turn := rfl
@[simp] theorem State.setStack_nid (s : State) (k : Nat) (x : Stack) : (s.setStack k x).nid = s.nid := rfl
@[simp] theorem State.setStack_draws (s : State) (k : Nat) (x : Stack) : (s.setStack k x).draws = s.draws := rfl
@[simp] theorem State.setStack_groups (s : State) (k : Nat) (x : Stack) : (s.setStack k x).groups = s.groups := rfl
@[simp] theorem State.setStack_teams (s : State) (k : Nat) (x : Stack) : (s.setStack k x).teams = s.teams := rfl
@[simp] theorem State.setStack_canvases (s : State) (k : Nat) (x : Stack) : (s.setStack k x).canvases = s.canvases := rfl
@[simp] theorem State.setStack_cores (s : State) (k : Nat) (x : Stack) : (s.setStack k x).cores = s.cores := rfl
@[simp] theorem State.setStack_clusters (s : State) (k : Nat) (x : Stack) : (s.setStack k x).clusters = s.clusters := rfl
@[simp] theorem State.setStack_dies (s : State) (k : Nat) (x : Stack) : (s.setStack k x).dies = s.dies := rfl
@[simp] theorem State.setStack_hbms (s : State) (k : Nat) (x : Stack) : (s.setStack k x).hbms = SMap.put s.hbms k x := rfl
@[simp] theorem State.setStack_mem (s : State) (k : Nat) (x : Stack) : (s.setStack k x).mem = s.mem := rfl
@[simp] theorem State.setStack_poison (s : State) (k : Nat) (x : Stack) : (s.setStack k x).poison = s.poison := rfl
@[simp] theorem State.setStack_keyOf (s : State) (k : Nat) (x : Stack) : (s.setStack k x).keyOf = s.keyOf := rfl
@[simp] theorem State.setStack_flash (s : State) (k : Nat) (x : Stack) : (s.setStack k x).flash = s.flash := rfl
@[simp] theorem State.setStack_aops (s : State) (k : Nat) (x : Stack) : (s.setStack k x).aops = s.aops := rfl
@[simp] theorem State.setStack_tops (s : State) (k : Nat) (x : Stack) : (s.setStack k x).tops = s.tops := rfl
@[simp] theorem State.setStack_dones (s : State) (k : Nat) (x : Stack) : (s.setStack k x).dones = s.dones := rfl
@[simp] theorem State.setStack_grids (s : State) (k : Nat) (x : Stack) : (s.setStack k x).grids = s.grids := rfl
@[simp] theorem State.setStack_ctxs (s : State) (k : Nat) (x : Stack) : (s.setStack k x).ctxs = s.ctxs := rfl
@[simp] theorem State.setStack_vds (s : State) (k : Nat) (x : Stack) : (s.setStack k x).vds = s.vds := rfl
@[simp] theorem State.setStack_aqis (s : State) (k : Nat) (x : Stack) : (s.setStack k x).aqis = s.aqis := rfl
@[simp] theorem State.setStack_devQ (s : State) (k : Nat) (x : Stack) : (s.setStack k x).devQ = s.devQ := rfl
@[simp] theorem State.setStack_mod (s : State) (k : Nat) (x : Stack) : (s.setStack k x).mod = s.mod := rfl

-- updStack
@[simp] theorem State.updStack_clk (s : State) (k : Nat) (f : Stack → Stack) : (s.updStack k f).clk = s.clk := rfl
@[simp] theorem State.updStack_agenda (s : State) (k : Nat) (f : Stack → Stack) : (s.updStack k f).agenda = s.agenda := rfl
@[simp] theorem State.updStack_cur (s : State) (k : Nat) (f : Stack → Stack) : (s.updStack k f).cur = s.cur := rfl
@[simp] theorem State.updStack_turn (s : State) (k : Nat) (f : Stack → Stack) : (s.updStack k f).turn = s.turn := rfl
@[simp] theorem State.updStack_nid (s : State) (k : Nat) (f : Stack → Stack) : (s.updStack k f).nid = s.nid := rfl
@[simp] theorem State.updStack_draws (s : State) (k : Nat) (f : Stack → Stack) : (s.updStack k f).draws = s.draws := rfl
@[simp] theorem State.updStack_groups (s : State) (k : Nat) (f : Stack → Stack) : (s.updStack k f).groups = s.groups := rfl
@[simp] theorem State.updStack_teams (s : State) (k : Nat) (f : Stack → Stack) : (s.updStack k f).teams = s.teams := rfl
@[simp] theorem State.updStack_canvases (s : State) (k : Nat) (f : Stack → Stack) : (s.updStack k f).canvases = s.canvases := rfl
@[simp] theorem State.updStack_cores (s : State) (k : Nat) (f : Stack → Stack) : (s.updStack k f).cores = s.cores := rfl
@[simp] theorem State.updStack_clusters (s : State) (k : Nat) (f : Stack → Stack) : (s.updStack k f).clusters = s.clusters := rfl
@[simp] theorem State.updStack_dies (s : State) (k : Nat) (f : Stack → Stack) : (s.updStack k f).dies = s.dies := rfl
@[simp] theorem State.updStack_hbms (s : State) (k : Nat) (f : Stack → Stack) : (s.updStack k f).hbms = SMap.put s.hbms k (f (s.stack k)) := rfl
@[simp] theorem State.updStack_mem (s : State) (k : Nat) (f : Stack → Stack) : (s.updStack k f).mem = s.mem := rfl
@[simp] theorem State.updStack_poison (s : State) (k : Nat) (f : Stack → Stack) : (s.updStack k f).poison = s.poison := rfl
@[simp] theorem State.updStack_keyOf (s : State) (k : Nat) (f : Stack → Stack) : (s.updStack k f).keyOf = s.keyOf := rfl
@[simp] theorem State.updStack_flash (s : State) (k : Nat) (f : Stack → Stack) : (s.updStack k f).flash = s.flash := rfl
@[simp] theorem State.updStack_aops (s : State) (k : Nat) (f : Stack → Stack) : (s.updStack k f).aops = s.aops := rfl
@[simp] theorem State.updStack_tops (s : State) (k : Nat) (f : Stack → Stack) : (s.updStack k f).tops = s.tops := rfl
@[simp] theorem State.updStack_dones (s : State) (k : Nat) (f : Stack → Stack) : (s.updStack k f).dones = s.dones := rfl
@[simp] theorem State.updStack_grids (s : State) (k : Nat) (f : Stack → Stack) : (s.updStack k f).grids = s.grids := rfl
@[simp] theorem State.updStack_ctxs (s : State) (k : Nat) (f : Stack → Stack) : (s.updStack k f).ctxs = s.ctxs := rfl
@[simp] theorem State.updStack_vds (s : State) (k : Nat) (f : Stack → Stack) : (s.updStack k f).vds = s.vds := rfl
@[simp] theorem State.updStack_aqis (s : State) (k : Nat) (f : Stack → Stack) : (s.updStack k f).aqis = s.aqis := rfl
@[simp] theorem State.updStack_devQ (s : State) (k : Nat) (f : Stack → Stack) : (s.updStack k f).devQ = s.devQ := rfl
@[simp] theorem State.updStack_mod (s : State) (k : Nat) (f : Stack → Stack) : (s.updStack k f).mod = s.mod := rfl

-- setVd
@[simp] theorem State.setVd_clk (s : State) (v : Nat) (x : Vd) : (s.setVd v x).clk = s.clk := rfl
@[simp] theorem State.setVd_agenda (s : State) (v : Nat) (x : Vd) : (s.setVd v x).agenda = s.agenda := rfl
@[simp] theorem State.setVd_cur (s : State) (v : Nat) (x : Vd) : (s.setVd v x).cur = s.cur := rfl
@[simp] theorem State.setVd_turn (s : State) (v : Nat) (x : Vd) : (s.setVd v x).turn = s.turn := rfl
@[simp] theorem State.setVd_nid (s : State) (v : Nat) (x : Vd) : (s.setVd v x).nid = s.nid := rfl
@[simp] theorem State.setVd_draws (s : State) (v : Nat) (x : Vd) : (s.setVd v x).draws = s.draws := rfl
@[simp] theorem State.setVd_groups (s : State) (v : Nat) (x : Vd) : (s.setVd v x).groups = s.groups := rfl
@[simp] theorem State.setVd_teams (s : State) (v : Nat) (x : Vd) : (s.setVd v x).teams = s.teams := rfl
@[simp] theorem State.setVd_canvases (s : State) (v : Nat) (x : Vd) : (s.setVd v x).canvases = s.canvases := rfl
@[simp] theorem State.setVd_cores (s : State) (v : Nat) (x : Vd) : (s.setVd v x).cores = s.cores := rfl
@[simp] theorem State.setVd_clusters (s : State) (v : Nat) (x : Vd) : (s.setVd v x).clusters = s.clusters := rfl
@[simp] theorem State.setVd_dies (s : State) (v : Nat) (x : Vd) : (s.setVd v x).dies = s.dies := rfl
@[simp] theorem State.setVd_hbms (s : State) (v : Nat) (x : Vd) : (s.setVd v x).hbms = s.hbms := rfl
@[simp] theorem State.setVd_mem (s : State) (v : Nat) (x : Vd) : (s.setVd v x).mem = s.mem := rfl
@[simp] theorem State.setVd_poison (s : State) (v : Nat) (x : Vd) : (s.setVd v x).poison = s.poison := rfl
@[simp] theorem State.setVd_keyOf (s : State) (v : Nat) (x : Vd) : (s.setVd v x).keyOf = s.keyOf := rfl
@[simp] theorem State.setVd_flash (s : State) (v : Nat) (x : Vd) : (s.setVd v x).flash = s.flash := rfl
@[simp] theorem State.setVd_aops (s : State) (v : Nat) (x : Vd) : (s.setVd v x).aops = s.aops := rfl
@[simp] theorem State.setVd_tops (s : State) (v : Nat) (x : Vd) : (s.setVd v x).tops = s.tops := rfl
@[simp] theorem State.setVd_dones (s : State) (v : Nat) (x : Vd) : (s.setVd v x).dones = s.dones := rfl
@[simp] theorem State.setVd_grids (s : State) (v : Nat) (x : Vd) : (s.setVd v x).grids = s.grids := rfl
@[simp] theorem State.setVd_ctxs (s : State) (v : Nat) (x : Vd) : (s.setVd v x).ctxs = s.ctxs := rfl
@[simp] theorem State.setVd_vds (s : State) (v : Nat) (x : Vd) : (s.setVd v x).vds = SMap.put s.vds v x := rfl
@[simp] theorem State.setVd_aqis (s : State) (v : Nat) (x : Vd) : (s.setVd v x).aqis = s.aqis := rfl
@[simp] theorem State.setVd_devQ (s : State) (v : Nat) (x : Vd) : (s.setVd v x).devQ = s.devQ := rfl
@[simp] theorem State.setVd_mod (s : State) (v : Nat) (x : Vd) : (s.setVd v x).mod = s.mod := rfl

-- updVd
@[simp] theorem State.updVd_clk (s : State) (v : Nat) (f : Vd → Vd) : (s.updVd v f).clk = s.clk := rfl
@[simp] theorem State.updVd_agenda (s : State) (v : Nat) (f : Vd → Vd) : (s.updVd v f).agenda = s.agenda := rfl
@[simp] theorem State.updVd_cur (s : State) (v : Nat) (f : Vd → Vd) : (s.updVd v f).cur = s.cur := rfl
@[simp] theorem State.updVd_turn (s : State) (v : Nat) (f : Vd → Vd) : (s.updVd v f).turn = s.turn := rfl
@[simp] theorem State.updVd_nid (s : State) (v : Nat) (f : Vd → Vd) : (s.updVd v f).nid = s.nid := rfl
@[simp] theorem State.updVd_draws (s : State) (v : Nat) (f : Vd → Vd) : (s.updVd v f).draws = s.draws := rfl
@[simp] theorem State.updVd_groups (s : State) (v : Nat) (f : Vd → Vd) : (s.updVd v f).groups = s.groups := rfl
@[simp] theorem State.updVd_teams (s : State) (v : Nat) (f : Vd → Vd) : (s.updVd v f).teams = s.teams := rfl
@[simp] theorem State.updVd_canvases (s : State) (v : Nat) (f : Vd → Vd) : (s.updVd v f).canvases = s.canvases := rfl
@[simp] theorem State.updVd_cores (s : State) (v : Nat) (f : Vd → Vd) : (s.updVd v f).cores = s.cores := rfl
@[simp] theorem State.updVd_clusters (s : State) (v : Nat) (f : Vd → Vd) : (s.updVd v f).clusters = s.clusters := rfl
@[simp] theorem State.updVd_dies (s : State) (v : Nat) (f : Vd → Vd) : (s.updVd v f).dies = s.dies := rfl
@[simp] theorem State.updVd_hbms (s : State) (v : Nat) (f : Vd → Vd) : (s.updVd v f).hbms = s.hbms := rfl
@[simp] theorem State.updVd_mem (s : State) (v : Nat) (f : Vd → Vd) : (s.updVd v f).mem = s.mem := rfl
@[simp] theorem State.updVd_poison (s : State) (v : Nat) (f : Vd → Vd) : (s.updVd v f).poison = s.poison := rfl
@[simp] theorem State.updVd_keyOf (s : State) (v : Nat) (f : Vd → Vd) : (s.updVd v f).keyOf = s.keyOf := rfl
@[simp] theorem State.updVd_flash (s : State) (v : Nat) (f : Vd → Vd) : (s.updVd v f).flash = s.flash := rfl
@[simp] theorem State.updVd_aops (s : State) (v : Nat) (f : Vd → Vd) : (s.updVd v f).aops = s.aops := rfl
@[simp] theorem State.updVd_tops (s : State) (v : Nat) (f : Vd → Vd) : (s.updVd v f).tops = s.tops := rfl
@[simp] theorem State.updVd_dones (s : State) (v : Nat) (f : Vd → Vd) : (s.updVd v f).dones = s.dones := rfl
@[simp] theorem State.updVd_grids (s : State) (v : Nat) (f : Vd → Vd) : (s.updVd v f).grids = s.grids := rfl
@[simp] theorem State.updVd_ctxs (s : State) (v : Nat) (f : Vd → Vd) : (s.updVd v f).ctxs = s.ctxs := rfl
@[simp] theorem State.updVd_vds (s : State) (v : Nat) (f : Vd → Vd) : (s.updVd v f).vds = SMap.put s.vds v (f (s.vd v)) := rfl
@[simp] theorem State.updVd_aqis (s : State) (v : Nat) (f : Vd → Vd) : (s.updVd v f).aqis = s.aqis := rfl
@[simp] theorem State.updVd_devQ (s : State) (v : Nat) (f : Vd → Vd) : (s.updVd v f).devQ = s.devQ := rfl
@[simp] theorem State.updVd_mod (s : State) (v : Nat) (f : Vd → Vd) : (s.updVd v f).mod = s.mod := rfl

-- setGroup
@[simp] theorem State.setGroup_clk (s : State) (i : Nat) (g : Group) : (s.setGroup i g).clk = s.clk := rfl
@[simp] theorem State.setGroup_agenda (s : State) (i : Nat) (g : Group) : (s.setGroup i g).agenda = s.agenda := rfl
@[simp] theorem State.setGroup_cur (s : State) (i : Nat) (g : Group) : (s.setGroup i g).cur = s.cur := rfl
@[simp] theorem State.setGroup_turn (s : State) (i : Nat) (g : Group) : (s.setGroup i g).turn = s.turn := rfl
@[simp] theorem State.setGroup_nid (s : State) (i : Nat) (g : Group) : (s.setGroup i g).nid = s.nid := rfl
@[simp] theorem State.setGroup_draws (s : State) (i : Nat) (g : Group) : (s.setGroup i g).draws = s.draws := rfl
@[simp] theorem State.setGroup_groups (s : State) (i : Nat) (g : Group) : (s.setGroup i g).groups = SMap.put s.groups i g := rfl
@[simp] theorem State.setGroup_teams (s : State) (i : Nat) (g : Group) : (s.setGroup i g).teams = s.teams := rfl
@[simp] theorem State.setGroup_canvases (s : State) (i : Nat) (g : Group) : (s.setGroup i g).canvases = s.canvases := rfl
@[simp] theorem State.setGroup_cores (s : State) (i : Nat) (g : Group) : (s.setGroup i g).cores = s.cores := rfl
@[simp] theorem State.setGroup_clusters (s : State) (i : Nat) (g : Group) : (s.setGroup i g).clusters = s.clusters := rfl
@[simp] theorem State.setGroup_dies (s : State) (i : Nat) (g : Group) : (s.setGroup i g).dies = s.dies := rfl
@[simp] theorem State.setGroup_hbms (s : State) (i : Nat) (g : Group) : (s.setGroup i g).hbms = s.hbms := rfl
@[simp] theorem State.setGroup_mem (s : State) (i : Nat) (g : Group) : (s.setGroup i g).mem = s.mem := rfl
@[simp] theorem State.setGroup_poison (s : State) (i : Nat) (g : Group) : (s.setGroup i g).poison = s.poison := rfl
@[simp] theorem State.setGroup_keyOf (s : State) (i : Nat) (g : Group) : (s.setGroup i g).keyOf = s.keyOf := rfl
@[simp] theorem State.setGroup_flash (s : State) (i : Nat) (g : Group) : (s.setGroup i g).flash = s.flash := rfl
@[simp] theorem State.setGroup_aops (s : State) (i : Nat) (g : Group) : (s.setGroup i g).aops = s.aops := rfl
@[simp] theorem State.setGroup_tops (s : State) (i : Nat) (g : Group) : (s.setGroup i g).tops = s.tops := rfl
@[simp] theorem State.setGroup_dones (s : State) (i : Nat) (g : Group) : (s.setGroup i g).dones = s.dones := rfl
@[simp] theorem State.setGroup_grids (s : State) (i : Nat) (g : Group) : (s.setGroup i g).grids = s.grids := rfl
@[simp] theorem State.setGroup_ctxs (s : State) (i : Nat) (g : Group) : (s.setGroup i g).ctxs = s.ctxs := rfl
@[simp] theorem State.setGroup_vds (s : State) (i : Nat) (g : Group) : (s.setGroup i g).vds = s.vds := rfl
@[simp] theorem State.setGroup_aqis (s : State) (i : Nat) (g : Group) : (s.setGroup i g).aqis = s.aqis := rfl
@[simp] theorem State.setGroup_devQ (s : State) (i : Nat) (g : Group) : (s.setGroup i g).devQ = s.devQ := rfl
@[simp] theorem State.setGroup_mod (s : State) (i : Nat) (g : Group) : (s.setGroup i g).mod = s.mod := rfl

-- updGroup
@[simp] theorem State.updGroup_clk (s : State) (i : Nat) (f : Group → Group) : (s.updGroup i f).clk = s.clk := rfl
@[simp] theorem State.updGroup_agenda (s : State) (i : Nat) (f : Group → Group) : (s.updGroup i f).agenda = s.agenda := rfl
@[simp] theorem State.updGroup_cur (s : State) (i : Nat) (f : Group → Group) : (s.updGroup i f).cur = s.cur := rfl
@[simp] theorem State.updGroup_turn (s : State) (i : Nat) (f : Group → Group) : (s.updGroup i f).turn = s.turn := rfl
@[simp] theorem State.updGroup_nid (s : State) (i : Nat) (f : Group → Group) : (s.updGroup i f).nid = s.nid := rfl
@[simp] theorem State.updGroup_draws (s : State) (i : Nat) (f : Group → Group) : (s.updGroup i f).draws = s.draws := rfl
@[simp] theorem State.updGroup_groups (s : State) (i : Nat) (f : Group → Group) : (s.updGroup i f).groups = SMap.upd s.groups i f := rfl
@[simp] theorem State.updGroup_teams (s : State) (i : Nat) (f : Group → Group) : (s.updGroup i f).teams = s.teams := rfl
@[simp] theorem State.updGroup_canvases (s : State) (i : Nat) (f : Group → Group) : (s.updGroup i f).canvases = s.canvases := rfl
@[simp] theorem State.updGroup_cores (s : State) (i : Nat) (f : Group → Group) : (s.updGroup i f).cores = s.cores := rfl
@[simp] theorem State.updGroup_clusters (s : State) (i : Nat) (f : Group → Group) : (s.updGroup i f).clusters = s.clusters := rfl
@[simp] theorem State.updGroup_dies (s : State) (i : Nat) (f : Group → Group) : (s.updGroup i f).dies = s.dies := rfl
@[simp] theorem State.updGroup_hbms (s : State) (i : Nat) (f : Group → Group) : (s.updGroup i f).hbms = s.hbms := rfl
@[simp] theorem State.updGroup_mem (s : State) (i : Nat) (f : Group → Group) : (s.updGroup i f).mem = s.mem := rfl
@[simp] theorem State.updGroup_poison (s : State) (i : Nat) (f : Group → Group) : (s.updGroup i f).poison = s.poison := rfl
@[simp] theorem State.updGroup_keyOf (s : State) (i : Nat) (f : Group → Group) : (s.updGroup i f).keyOf = s.keyOf := rfl
@[simp] theorem State.updGroup_flash (s : State) (i : Nat) (f : Group → Group) : (s.updGroup i f).flash = s.flash := rfl
@[simp] theorem State.updGroup_aops (s : State) (i : Nat) (f : Group → Group) : (s.updGroup i f).aops = s.aops := rfl
@[simp] theorem State.updGroup_tops (s : State) (i : Nat) (f : Group → Group) : (s.updGroup i f).tops = s.tops := rfl
@[simp] theorem State.updGroup_dones (s : State) (i : Nat) (f : Group → Group) : (s.updGroup i f).dones = s.dones := rfl
@[simp] theorem State.updGroup_grids (s : State) (i : Nat) (f : Group → Group) : (s.updGroup i f).grids = s.grids := rfl
@[simp] theorem State.updGroup_ctxs (s : State) (i : Nat) (f : Group → Group) : (s.updGroup i f).ctxs = s.ctxs := rfl
@[simp] theorem State.updGroup_vds (s : State) (i : Nat) (f : Group → Group) : (s.updGroup i f).vds = s.vds := rfl
@[simp] theorem State.updGroup_aqis (s : State) (i : Nat) (f : Group → Group) : (s.updGroup i f).aqis = s.aqis := rfl
@[simp] theorem State.updGroup_devQ (s : State) (i : Nat) (f : Group → Group) : (s.updGroup i f).devQ = s.devQ := rfl
@[simp] theorem State.updGroup_mod (s : State) (i : Nat) (f : Group → Group) : (s.updGroup i f).mod = s.mod := rfl

-- updTeam
@[simp] theorem State.updTeam_clk (s : State) (i : Nat) (f : Team → Team) : (s.updTeam i f).clk = s.clk := rfl
@[simp] theorem State.updTeam_agenda (s : State) (i : Nat) (f : Team → Team) : (s.updTeam i f).agenda = s.agenda := rfl
@[simp] theorem State.updTeam_cur (s : State) (i : Nat) (f : Team → Team) : (s.updTeam i f).cur = s.cur := rfl
@[simp] theorem State.updTeam_turn (s : State) (i : Nat) (f : Team → Team) : (s.updTeam i f).turn = s.turn := rfl
@[simp] theorem State.updTeam_nid (s : State) (i : Nat) (f : Team → Team) : (s.updTeam i f).nid = s.nid := rfl
@[simp] theorem State.updTeam_draws (s : State) (i : Nat) (f : Team → Team) : (s.updTeam i f).draws = s.draws := rfl
@[simp] theorem State.updTeam_groups (s : State) (i : Nat) (f : Team → Team) : (s.updTeam i f).groups = s.groups := rfl
@[simp] theorem State.updTeam_teams (s : State) (i : Nat) (f : Team → Team) : (s.updTeam i f).teams = SMap.upd s.teams i f := rfl
@[simp] theorem State.updTeam_canvases (s : State) (i : Nat) (f : Team → Team) : (s.updTeam i f).canvases = s.canvases := rfl
@[simp] theorem State.updTeam_cores (s : State) (i : Nat) (f : Team → Team) : (s.updTeam i f).cores = s.cores := rfl
@[simp] theorem State.updTeam_clusters (s : State) (i : Nat) (f : Team → Team) : (s.updTeam i f).clusters = s.clusters := rfl
@[simp] theorem State.updTeam_dies (s : State) (i : Nat) (f : Team → Team) : (s.updTeam i f).dies = s.dies := rfl
@[simp] theorem State.updTeam_hbms (s : State) (i : Nat) (f : Team → Team) : (s.updTeam i f).hbms = s.hbms := rfl
@[simp] theorem State.updTeam_mem (s : State) (i : Nat) (f : Team → Team) : (s.updTeam i f).mem = s.mem := rfl
@[simp] theorem State.updTeam_poison (s : State) (i : Nat) (f : Team → Team) : (s.updTeam i f).poison = s.poison := rfl
@[simp] theorem State.updTeam_keyOf (s : State) (i : Nat) (f : Team → Team) : (s.updTeam i f).keyOf = s.keyOf := rfl
@[simp] theorem State.updTeam_flash (s : State) (i : Nat) (f : Team → Team) : (s.updTeam i f).flash = s.flash := rfl
@[simp] theorem State.updTeam_aops (s : State) (i : Nat) (f : Team → Team) : (s.updTeam i f).aops = s.aops := rfl
@[simp] theorem State.updTeam_tops (s : State) (i : Nat) (f : Team → Team) : (s.updTeam i f).tops = s.tops := rfl
@[simp] theorem State.updTeam_dones (s : State) (i : Nat) (f : Team → Team) : (s.updTeam i f).dones = s.dones := rfl
@[simp] theorem State.updTeam_grids (s : State) (i : Nat) (f : Team → Team) : (s.updTeam i f).grids = s.grids := rfl
@[simp] theorem State.updTeam_ctxs (s : State) (i : Nat) (f : Team → Team) : (s.updTeam i f).ctxs = s.ctxs := rfl
@[simp] theorem State.updTeam_vds (s : State) (i : Nat) (f : Team → Team) : (s.updTeam i f).vds = s.vds := rfl
@[simp] theorem State.updTeam_aqis (s : State) (i : Nat) (f : Team → Team) : (s.updTeam i f).aqis = s.aqis := rfl
@[simp] theorem State.updTeam_devQ (s : State) (i : Nat) (f : Team → Team) : (s.updTeam i f).devQ = s.devQ := rfl
@[simp] theorem State.updTeam_mod (s : State) (i : Nat) (f : Team → Team) : (s.updTeam i f).mod = s.mod := rfl

-- updGrid
@[simp] theorem State.updGrid_clk (s : State) (i : Nat) (f : Grid → Grid) : (s.updGrid i f).clk = s.clk := rfl
@[simp] theorem State.updGrid_agenda (s : State) (i : Nat) (f : Grid → Grid) : (s.updGrid i f).agenda = s.agenda := rfl
@[simp] theorem State.updGrid_cur (s : State) (i : Nat) (f : Grid → Grid) : (s.updGrid i f).cur = s.cur := rfl
@[simp] theorem State.updGrid_turn (s : State) (i : Nat) (f : Grid → Grid) : (s.updGrid i f).turn = s.turn := rfl
@[simp] theorem State.updGrid_nid (s : State) (i : Nat) (f : Grid → Grid) : (s.updGrid i f).nid = s.nid := rfl
@[simp] theorem State.updGrid_draws (s : State) (i : Nat) (f : Grid → Grid) : (s.updGrid i f).draws = s.draws := rfl
@[simp] theorem State.updGrid_groups (s : State) (i : Nat) (f : Grid → Grid) : (s.updGrid i f).groups = s.groups := rfl
@[simp] theorem State.updGrid_teams (s : State) (i : Nat) (f : Grid → Grid) : (s.updGrid i f).teams = s.teams := rfl
@[simp] theorem State.updGrid_canvases (s : State) (i : Nat) (f : Grid → Grid) : (s.updGrid i f).canvases = s.canvases := rfl
@[simp] theorem State.updGrid_cores (s : State) (i : Nat) (f : Grid → Grid) : (s.updGrid i f).cores = s.cores := rfl
@[simp] theorem State.updGrid_clusters (s : State) (i : Nat) (f : Grid → Grid) : (s.updGrid i f).clusters = s.clusters := rfl
@[simp] theorem State.updGrid_dies (s : State) (i : Nat) (f : Grid → Grid) : (s.updGrid i f).dies = s.dies := rfl
@[simp] theorem State.updGrid_hbms (s : State) (i : Nat) (f : Grid → Grid) : (s.updGrid i f).hbms = s.hbms := rfl
@[simp] theorem State.updGrid_mem (s : State) (i : Nat) (f : Grid → Grid) : (s.updGrid i f).mem = s.mem := rfl
@[simp] theorem State.updGrid_poison (s : State) (i : Nat) (f : Grid → Grid) : (s.updGrid i f).poison = s.poison := rfl
@[simp] theorem State.updGrid_keyOf (s : State) (i : Nat) (f : Grid → Grid) : (s.updGrid i f).keyOf = s.keyOf := rfl
@[simp] theorem State.updGrid_flash (s : State) (i : Nat) (f : Grid → Grid) : (s.updGrid i f).flash = s.flash := rfl
@[simp] theorem State.updGrid_aops (s : State) (i : Nat) (f : Grid → Grid) : (s.updGrid i f).aops = s.aops := rfl
@[simp] theorem State.updGrid_tops (s : State) (i : Nat) (f : Grid → Grid) : (s.updGrid i f).tops = s.tops := rfl
@[simp] theorem State.updGrid_dones (s : State) (i : Nat) (f : Grid → Grid) : (s.updGrid i f).dones = s.dones := rfl
@[simp] theorem State.updGrid_grids (s : State) (i : Nat) (f : Grid → Grid) : (s.updGrid i f).grids = SMap.upd s.grids i f := rfl
@[simp] theorem State.updGrid_ctxs (s : State) (i : Nat) (f : Grid → Grid) : (s.updGrid i f).ctxs = s.ctxs := rfl
@[simp] theorem State.updGrid_vds (s : State) (i : Nat) (f : Grid → Grid) : (s.updGrid i f).vds = s.vds := rfl
@[simp] theorem State.updGrid_aqis (s : State) (i : Nat) (f : Grid → Grid) : (s.updGrid i f).aqis = s.aqis := rfl
@[simp] theorem State.updGrid_devQ (s : State) (i : Nat) (f : Grid → Grid) : (s.updGrid i f).devQ = s.devQ := rfl
@[simp] theorem State.updGrid_mod (s : State) (i : Nat) (f : Grid → Grid) : (s.updGrid i f).mod = s.mod := rfl

-- updCtx
@[simp] theorem State.updCtx_clk (s : State) (i : Nat) (f : Ctx → Ctx) : (s.updCtx i f).clk = s.clk := rfl
@[simp] theorem State.updCtx_agenda (s : State) (i : Nat) (f : Ctx → Ctx) : (s.updCtx i f).agenda = s.agenda := rfl
@[simp] theorem State.updCtx_cur (s : State) (i : Nat) (f : Ctx → Ctx) : (s.updCtx i f).cur = s.cur := rfl
@[simp] theorem State.updCtx_turn (s : State) (i : Nat) (f : Ctx → Ctx) : (s.updCtx i f).turn = s.turn := rfl
@[simp] theorem State.updCtx_nid (s : State) (i : Nat) (f : Ctx → Ctx) : (s.updCtx i f).nid = s.nid := rfl
@[simp] theorem State.updCtx_draws (s : State) (i : Nat) (f : Ctx → Ctx) : (s.updCtx i f).draws = s.draws := rfl
@[simp] theorem State.updCtx_groups (s : State) (i : Nat) (f : Ctx → Ctx) : (s.updCtx i f).groups = s.groups := rfl
@[simp] theorem State.updCtx_teams (s : State) (i : Nat) (f : Ctx → Ctx) : (s.updCtx i f).teams = s.teams := rfl
@[simp] theorem State.updCtx_canvases (s : State) (i : Nat) (f : Ctx → Ctx) : (s.updCtx i f).canvases = s.canvases := rfl
@[simp] theorem State.updCtx_cores (s : State) (i : Nat) (f : Ctx → Ctx) : (s.updCtx i f).cores = s.cores := rfl
@[simp] theorem State.updCtx_clusters (s : State) (i : Nat) (f : Ctx → Ctx) : (s.updCtx i f).clusters = s.clusters := rfl
@[simp] theorem State.updCtx_dies (s : State) (i : Nat) (f : Ctx → Ctx) : (s.updCtx i f).dies = s.dies := rfl
@[simp] theorem State.updCtx_hbms (s : State) (i : Nat) (f : Ctx → Ctx) : (s.updCtx i f).hbms = s.hbms := rfl
@[simp] theorem State.updCtx_mem (s : State) (i : Nat) (f : Ctx → Ctx) : (s.updCtx i f).mem = s.mem := rfl
@[simp] theorem State.updCtx_poison (s : State) (i : Nat) (f : Ctx → Ctx) : (s.updCtx i f).poison = s.poison := rfl
@[simp] theorem State.updCtx_keyOf (s : State) (i : Nat) (f : Ctx → Ctx) : (s.updCtx i f).keyOf = s.keyOf := rfl
@[simp] theorem State.updCtx_flash (s : State) (i : Nat) (f : Ctx → Ctx) : (s.updCtx i f).flash = s.flash := rfl
@[simp] theorem State.updCtx_aops (s : State) (i : Nat) (f : Ctx → Ctx) : (s.updCtx i f).aops = s.aops := rfl
@[simp] theorem State.updCtx_tops (s : State) (i : Nat) (f : Ctx → Ctx) : (s.updCtx i f).tops = s.tops := rfl
@[simp] theorem State.updCtx_dones (s : State) (i : Nat) (f : Ctx → Ctx) : (s.updCtx i f).dones = s.dones := rfl
@[simp] theorem State.updCtx_grids (s : State) (i : Nat) (f : Ctx → Ctx) : (s.updCtx i f).grids = s.grids := rfl
@[simp] theorem State.updCtx_ctxs (s : State) (i : Nat) (f : Ctx → Ctx) : (s.updCtx i f).ctxs = SMap.upd s.ctxs i f := rfl
@[simp] theorem State.updCtx_vds (s : State) (i : Nat) (f : Ctx → Ctx) : (s.updCtx i f).vds = s.vds := rfl
@[simp] theorem State.updCtx_aqis (s : State) (i : Nat) (f : Ctx → Ctx) : (s.updCtx i f).aqis = s.aqis := rfl
@[simp] theorem State.updCtx_devQ (s : State) (i : Nat) (f : Ctx → Ctx) : (s.updCtx i f).devQ = s.devQ := rfl
@[simp] theorem State.updCtx_mod (s : State) (i : Nat) (f : Ctx → Ctx) : (s.updCtx i f).mod = s.mod := rfl

-- updMod
@[simp] theorem State.updMod_clk (s : State) (f : Module → Module) : (s.updMod f).clk = s.clk := rfl
@[simp] theorem State.updMod_agenda (s : State) (f : Module → Module) : (s.updMod f).agenda = s.agenda := rfl
@[simp] theorem State.updMod_cur (s : State) (f : Module → Module) : (s.updMod f).cur = s.cur := rfl
@[simp] theorem State.updMod_turn (s : State) (f : Module → Module) : (s.updMod f).turn = s.turn := rfl
@[simp] theorem State.updMod_nid (s : State) (f : Module → Module) : (s.updMod f).nid = s.nid := rfl
@[simp] theorem State.updMod_draws (s : State) (f : Module → Module) : (s.updMod f).draws = s.draws := rfl
@[simp] theorem State.updMod_groups (s : State) (f : Module → Module) : (s.updMod f).groups = s.groups := rfl
@[simp] theorem State.updMod_teams (s : State) (f : Module → Module) : (s.updMod f).teams = s.teams := rfl
@[simp] theorem State.updMod_canvases (s : State) (f : Module → Module) : (s.updMod f).canvases = s.canvases := rfl
@[simp] theorem State.updMod_cores (s : State) (f : Module → Module) : (s.updMod f).cores = s.cores := rfl
@[simp] theorem State.updMod_clusters (s : State) (f : Module → Module) : (s.updMod f).clusters = s.clusters := rfl
@[simp] theorem State.updMod_dies (s : State) (f : Module → Module) : (s.updMod f).dies = s.dies := rfl
@[simp] theorem State.updMod_hbms (s : State) (f : Module → Module) : (s.updMod f).hbms = s.hbms := rfl
@[simp] theorem State.updMod_mem (s : State) (f : Module → Module) : (s.updMod f).mem = s.mem := rfl
@[simp] theorem State.updMod_poison (s : State) (f : Module → Module) : (s.updMod f).poison = s.poison := rfl
@[simp] theorem State.updMod_keyOf (s : State) (f : Module → Module) : (s.updMod f).keyOf = s.keyOf := rfl
@[simp] theorem State.updMod_flash (s : State) (f : Module → Module) : (s.updMod f).flash = s.flash := rfl
@[simp] theorem State.updMod_aops (s : State) (f : Module → Module) : (s.updMod f).aops = s.aops := rfl
@[simp] theorem State.updMod_tops (s : State) (f : Module → Module) : (s.updMod f).tops = s.tops := rfl
@[simp] theorem State.updMod_dones (s : State) (f : Module → Module) : (s.updMod f).dones = s.dones := rfl
@[simp] theorem State.updMod_grids (s : State) (f : Module → Module) : (s.updMod f).grids = s.grids := rfl
@[simp] theorem State.updMod_ctxs (s : State) (f : Module → Module) : (s.updMod f).ctxs = s.ctxs := rfl
@[simp] theorem State.updMod_vds (s : State) (f : Module → Module) : (s.updMod f).vds = s.vds := rfl
@[simp] theorem State.updMod_aqis (s : State) (f : Module → Module) : (s.updMod f).aqis = s.aqis := rfl
@[simp] theorem State.updMod_devQ (s : State) (f : Module → Module) : (s.updMod f).devQ = s.devQ := rfl
@[simp] theorem State.updMod_mod (s : State) (f : Module → Module) : (s.updMod f).mod = f s.mod := rfl

-- updTop
@[simp] theorem State.updTop_clk (s : State) (i : Nat) (f : TierOp → TierOp) : (s.updTop i f).clk = s.clk := rfl
@[simp] theorem State.updTop_agenda (s : State) (i : Nat) (f : TierOp → TierOp) : (s.updTop i f).agenda = s.agenda := rfl
@[simp] theorem State.updTop_cur (s : State) (i : Nat) (f : TierOp → TierOp) : (s.updTop i f).cur = s.cur := rfl
@[simp] theorem State.updTop_turn (s : State) (i : Nat) (f : TierOp → TierOp) : (s.updTop i f).turn = s.turn := rfl
@[simp] theorem State.updTop_nid (s : State) (i : Nat) (f : TierOp → TierOp) : (s.updTop i f).nid = s.nid := rfl
@[simp] theorem State.updTop_draws (s : State) (i : Nat) (f : TierOp → TierOp) : (s.updTop i f).draws = s.draws := rfl
@[simp] theorem State.updTop_groups (s : State) (i : Nat) (f : TierOp → TierOp) : (s.updTop i f).groups = s.groups := rfl
@[simp] theorem State.updTop_teams (s : State) (i : Nat) (f : TierOp → TierOp) : (s.updTop i f).teams = s.teams := rfl
@[simp] theorem State.updTop_canvases (s : State) (i : Nat) (f : TierOp → TierOp) : (s.updTop i f).canvases = s.canvases := rfl
@[simp] theorem State.updTop_cores (s : State) (i : Nat) (f : TierOp → TierOp) : (s.updTop i f).cores = s.cores := rfl
@[simp] theorem State.updTop_clusters (s : State) (i : Nat) (f : TierOp → TierOp) : (s.updTop i f).clusters = s.clusters := rfl
@[simp] theorem State.updTop_dies (s : State) (i : Nat) (f : TierOp → TierOp) : (s.updTop i f).dies = s.dies := rfl
@[simp] theorem State.updTop_hbms (s : State) (i : Nat) (f : TierOp → TierOp) : (s.updTop i f).hbms = s.hbms := rfl
@[simp] theorem State.updTop_mem (s : State) (i : Nat) (f : TierOp → TierOp) : (s.updTop i f).mem = s.mem := rfl
@[simp] theorem State.updTop_poison (s : State) (i : Nat) (f : TierOp → TierOp) : (s.updTop i f).poison = s.poison := rfl
@[simp] theorem State.updTop_keyOf (s : State) (i : Nat) (f : TierOp → TierOp) : (s.updTop i f).keyOf = s.keyOf := rfl
@[simp] theorem State.updTop_flash (s : State) (i : Nat) (f : TierOp → TierOp) : (s.updTop i f).flash = s.flash := rfl
@[simp] theorem State.updTop_aops (s : State) (i : Nat) (f : TierOp → TierOp) : (s.updTop i f).aops = s.aops := rfl
@[simp] theorem State.updTop_tops (s : State) (i : Nat) (f : TierOp → TierOp) : (s.updTop i f).tops = SMap.upd s.tops i f := rfl
@[simp] theorem State.updTop_dones (s : State) (i : Nat) (f : TierOp → TierOp) : (s.updTop i f).dones = s.dones := rfl
@[simp] theorem State.updTop_grids (s : State) (i : Nat) (f : TierOp → TierOp) : (s.updTop i f).grids = s.grids := rfl
@[simp] theorem State.updTop_ctxs (s : State) (i : Nat) (f : TierOp → TierOp) : (s.updTop i f).ctxs = s.ctxs := rfl
@[simp] theorem State.updTop_vds (s : State) (i : Nat) (f : TierOp → TierOp) : (s.updTop i f).vds = s.vds := rfl
@[simp] theorem State.updTop_aqis (s : State) (i : Nat) (f : TierOp → TierOp) : (s.updTop i f).aqis = s.aqis := rfl
@[simp] theorem State.updTop_devQ (s : State) (i : Nat) (f : TierOp → TierOp) : (s.updTop i f).devQ = s.devQ := rfl
@[simp] theorem State.updTop_mod (s : State) (i : Nat) (f : TierOp → TierOp) : (s.updTop i f).mod = s.mod := rfl

-- fresh
@[simp] theorem State.fresh_clk (s : State) : (s.fresh).clk = s.clk := rfl
@[simp] theorem State.fresh_agenda (s : State) : (s.fresh).agenda = s.agenda := rfl
@[simp] theorem State.fresh_cur (s : State) : (s.fresh).cur = s.cur := rfl
@[simp] theorem State.fresh_turn (s : State) : (s.fresh).turn = s.turn := rfl
@[simp] theorem State.fresh_nid (s : State) : (s.fresh).nid = s.nid + 1 := rfl
@[simp] theorem State.fresh_draws (s : State) : (s.fresh).draws = s.draws := rfl
@[simp] theorem State.fresh_groups (s : State) : (s.fresh).groups = s.groups := rfl
@[simp] theorem State.fresh_teams (s : State) : (s.fresh).teams = s.teams := rfl
@[simp] theorem State.fresh_canvases (s : State) : (s.fresh).canvases = s.canvases := rfl
@[simp] theorem State.fresh_cores (s : State) : (s.fresh).cores = s.cores := rfl
@[simp] theorem State.fresh_clusters (s : State) : (s.fresh).clusters = s.clusters := rfl
@[simp] theorem State.fresh_dies (s : State) : (s.fresh).dies = s.dies := rfl
@[simp] theorem State.fresh_hbms (s : State) : (s.fresh).hbms = s.hbms := rfl
@[simp] theorem State.fresh_mem (s : State) : (s.fresh).mem = s.mem := rfl
@[simp] theorem State.fresh_poison (s : State) : (s.fresh).poison = s.poison := rfl
@[simp] theorem State.fresh_keyOf (s : State) : (s.fresh).keyOf = s.keyOf := rfl
@[simp] theorem State.fresh_flash (s : State) : (s.fresh).flash = s.flash := rfl
@[simp] theorem State.fresh_aops (s : State) : (s.fresh).aops = s.aops := rfl
@[simp] theorem State.fresh_tops (s : State) : (s.fresh).tops = s.tops := rfl
@[simp] theorem State.fresh_dones (s : State) : (s.fresh).dones = s.dones := rfl
@[simp] theorem State.fresh_grids (s : State) : (s.fresh).grids = s.grids := rfl
@[simp] theorem State.fresh_ctxs (s : State) : (s.fresh).ctxs = s.ctxs := rfl
@[simp] theorem State.fresh_vds (s : State) : (s.fresh).vds = s.vds := rfl
@[simp] theorem State.fresh_aqis (s : State) : (s.fresh).aqis = s.aqis := rfl
@[simp] theorem State.fresh_devQ (s : State) : (s.fresh).devQ = s.devQ := rfl
@[simp] theorem State.fresh_mod (s : State) : (s.fresh).mod = s.mod := rfl

-- draw
@[simp] theorem State.draw_clk (s : State) : (s.draw).clk = s.clk := rfl
@[simp] theorem State.draw_agenda (s : State) : (s.draw).agenda = s.agenda := rfl
@[simp] theorem State.draw_cur (s : State) : (s.draw).cur = s.cur := rfl
@[simp] theorem State.draw_turn (s : State) : (s.draw).turn = s.turn := rfl
@[simp] theorem State.draw_nid (s : State) : (s.draw).nid = s.nid := rfl
@[simp] theorem State.draw_draws (s : State) : (s.draw).draws = s.draws + 1 := rfl
@[simp] theorem State.draw_groups (s : State) : (s.draw).groups = s.groups := rfl
@[simp] theorem State.draw_teams (s : State) : (s.draw).teams = s.teams := rfl
@[simp] theorem State.draw_canvases (s : State) : (s.draw).canvases = s.canvases := rfl
@[simp] theorem State.draw_cores (s : State) : (s.draw).cores = s.cores := rfl
@[simp] theorem State.draw_clusters (s : State) : (s.draw).clusters = s.clusters := rfl
@[simp] theorem State.draw_dies (s : State) : (s.draw).dies = s.dies := rfl
@[simp] theorem State.draw_hbms (s : State) : (s.draw).hbms = s.hbms := rfl
@[simp] theorem State.draw_mem (s : State) : (s.draw).mem = s.mem := rfl
@[simp] theorem State.draw_poison (s : State) : (s.draw).poison = s.poison := rfl
@[simp] theorem State.draw_keyOf (s : State) : (s.draw).keyOf = s.keyOf := rfl
@[simp] theorem State.draw_flash (s : State) : (s.draw).flash = s.flash := rfl
@[simp] theorem State.draw_aops (s : State) : (s.draw).aops = s.aops := rfl
@[simp] theorem State.draw_tops (s : State) : (s.draw).tops = s.tops := rfl
@[simp] theorem State.draw_dones (s : State) : (s.draw).dones = s.dones := rfl
@[simp] theorem State.draw_grids (s : State) : (s.draw).grids = s.grids := rfl
@[simp] theorem State.draw_ctxs (s : State) : (s.draw).ctxs = s.ctxs := rfl
@[simp] theorem State.draw_vds (s : State) : (s.draw).vds = s.vds := rfl
@[simp] theorem State.draw_aqis (s : State) : (s.draw).aqis = s.aqis := rfl
@[simp] theorem State.draw_devQ (s : State) : (s.draw).devQ = s.devQ := rfl
@[simp] theorem State.draw_mod (s : State) : (s.draw).mod = s.mod := rfl

-- emit
@[simp] theorem State.emit_clk (s : State) (m : OutMsg) : (s.emit m).clk = s.clk := rfl
@[simp] theorem State.emit_agenda (s : State) (m : OutMsg) : (s.emit m).agenda = s.agenda := rfl
@[simp] theorem State.emit_cur (s : State) (m : OutMsg) : (s.emit m).cur = s.cur := rfl
@[simp] theorem State.emit_turn (s : State) (m : OutMsg) : (s.emit m).turn = s.turn := rfl
@[simp] theorem State.emit_nid (s : State) (m : OutMsg) : (s.emit m).nid = s.nid := rfl
@[simp] theorem State.emit_draws (s : State) (m : OutMsg) : (s.emit m).draws = s.draws := rfl
@[simp] theorem State.emit_groups (s : State) (m : OutMsg) : (s.emit m).groups = s.groups := rfl
@[simp] theorem State.emit_teams (s : State) (m : OutMsg) : (s.emit m).teams = s.teams := rfl
@[simp] theorem State.emit_canvases (s : State) (m : OutMsg) : (s.emit m).canvases = s.canvases := rfl
@[simp] theorem State.emit_cores (s : State) (m : OutMsg) : (s.emit m).cores = s.cores := rfl
@[simp] theorem State.emit_clusters (s : State) (m : OutMsg) : (s.emit m).clusters = s.clusters := rfl
@[simp] theorem State.emit_dies (s : State) (m : OutMsg) : (s.emit m).dies = s.dies := rfl
@[simp] theorem State.emit_hbms (s : State) (m : OutMsg) : (s.emit m).hbms = s.hbms := rfl
@[simp] theorem State.emit_mem (s : State) (m : OutMsg) : (s.emit m).mem = s.mem := rfl
@[simp] theorem State.emit_poison (s : State) (m : OutMsg) : (s.emit m).poison = s.poison := rfl
@[simp] theorem State.emit_keyOf (s : State) (m : OutMsg) : (s.emit m).keyOf = s.keyOf := rfl
@[simp] theorem State.emit_flash (s : State) (m : OutMsg) : (s.emit m).flash = s.flash := rfl
@[simp] theorem State.emit_aops (s : State) (m : OutMsg) : (s.emit m).aops = s.aops := rfl
@[simp] theorem State.emit_tops (s : State) (m : OutMsg) : (s.emit m).tops = s.tops := rfl
@[simp] theorem State.emit_dones (s : State) (m : OutMsg) : (s.emit m).dones = s.dones := rfl
@[simp] theorem State.emit_grids (s : State) (m : OutMsg) : (s.emit m).grids = s.grids := rfl
@[simp] theorem State.emit_ctxs (s : State) (m : OutMsg) : (s.emit m).ctxs = s.ctxs := rfl
@[simp] theorem State.emit_vds (s : State) (m : OutMsg) : (s.emit m).vds = s.vds := rfl
@[simp] theorem State.emit_aqis (s : State) (m : OutMsg) : (s.emit m).aqis = s.aqis := rfl
@[simp] theorem State.emit_devQ (s : State) (m : OutMsg) : (s.emit m).devQ = s.devQ := rfl

-- meter
@[simp] theorem State.meter_clk (s : State) (d v : Nat) (f : Meter → Meter) : (s.meter d v f).clk = s.clk := rfl
@[simp] theorem State.meter_agenda (s : State) (d v : Nat) (f : Meter → Meter) : (s.meter d v f).agenda = s.agenda := rfl
@[simp] theorem State.meter_cur (s : State) (d v : Nat) (f : Meter → Meter) : (s.meter d v f).cur = s.cur := rfl
@[simp] theorem State.meter_turn (s : State) (d v : Nat) (f : Meter → Meter) : (s.meter d v f).turn = s.turn := rfl
@[simp] theorem State.meter_nid (s : State) (d v : Nat) (f : Meter → Meter) : (s.meter d v f).nid = s.nid := rfl
@[simp] theorem State.meter_draws (s : State) (d v : Nat) (f : Meter → Meter) : (s.meter d v f).draws = s.draws := rfl
@[simp] theorem State.meter_groups (s : State) (d v : Nat) (f : Meter → Meter) : (s.meter d v f).groups = s.groups := rfl
@[simp] theorem State.meter_teams (s : State) (d v : Nat) (f : Meter → Meter) : (s.meter d v f).teams = s.teams := rfl
@[simp] theorem State.meter_canvases (s : State) (d v : Nat) (f : Meter → Meter) : (s.meter d v f).canvases = s.canvases := rfl
@[simp] theorem State.meter_cores (s : State) (d v : Nat) (f : Meter → Meter) : (s.meter d v f).cores = s.cores := rfl
@[simp] theorem State.meter_clusters (s : State) (d v : Nat) (f : Meter → Meter) : (s.meter d v f).clusters = s.clusters := rfl
@[simp] theorem State.meter_hbms (s : State) (d v : Nat) (f : Meter → Meter) : (s.meter d v f).hbms = s.hbms := rfl
@[simp] theorem State.meter_mem (s : State) (d v : Nat) (f : Meter → Meter) : (s.meter d v f).mem = s.mem := rfl
@[simp] theorem State.meter_poison (s : State) (d v : Nat) (f : Meter → Meter) : (s.meter d v f).poison = s.poison := rfl
@[simp] theorem State.meter_keyOf (s : State) (d v : Nat) (f : Meter → Meter) : (s.meter d v f).keyOf = s.keyOf := rfl
@[simp] theorem State.meter_flash (s : State) (d v : Nat) (f : Meter → Meter) : (s.meter d v f).flash = s.flash := rfl
@[simp] theorem State.meter_aops (s : State) (d v : Nat) (f : Meter → Meter) : (s.meter d v f).aops = s.aops := rfl
@[simp] theorem State.meter_tops (s : State) (d v : Nat) (f : Meter → Meter) : (s.meter d v f).tops = s.tops := rfl
@[simp] theorem State.meter_dones (s : State) (d v : Nat) (f : Meter → Meter) : (s.meter d v f).dones = s.dones := rfl
@[simp] theorem State.meter_grids (s : State) (d v : Nat) (f : Meter → Meter) : (s.meter d v f).grids = s.grids := rfl
@[simp] theorem State.meter_ctxs (s : State) (d v : Nat) (f : Meter → Meter) : (s.meter d v f).ctxs = s.ctxs := rfl
@[simp] theorem State.meter_vds (s : State) (d v : Nat) (f : Meter → Meter) : (s.meter d v f).vds = s.vds := rfl
@[simp] theorem State.meter_aqis (s : State) (d v : Nat) (f : Meter → Meter) : (s.meter d v f).aqis = s.aqis := rfl
@[simp] theorem State.meter_devQ (s : State) (d v : Nat) (f : Meter → Meter) : (s.meter d v f).devQ = s.devQ := rfl
@[simp] theorem State.meter_mod (s : State) (d v : Nat) (f : Meter → Meter) : (s.meter d v f).mod = s.mod := rfl

-- count
@[simp] theorem State.count_clk (s : State) (d c : Nat) (f : CtxCtr → CtxCtr) : (s.count d c f).clk = s.clk := rfl
@[simp] theorem State.count_agenda (s : State) (d c : Nat) (f : CtxCtr → CtxCtr) : (s.count d c f).agenda = s.agenda := rfl
@[simp] theorem State.count_cur (s : State) (d c : Nat) (f : CtxCtr → CtxCtr) : (s.count d c f).cur = s.cur := rfl
@[simp] theorem State.count_turn (s : State) (d c : Nat) (f : CtxCtr → CtxCtr) : (s.count d c f).turn = s.turn := rfl
@[simp] theorem State.count_nid (s : State) (d c : Nat) (f : CtxCtr → CtxCtr) : (s.count d c f).nid = s.nid := rfl
@[simp] theorem State.count_draws (s : State) (d c : Nat) (f : CtxCtr → CtxCtr) : (s.count d c f).draws = s.draws := rfl
@[simp] theorem State.count_groups (s : State) (d c : Nat) (f : CtxCtr → CtxCtr) : (s.count d c f).groups = s.groups := rfl
@[simp] theorem State.count_teams (s : State) (d c : Nat) (f : CtxCtr → CtxCtr) : (s.count d c f).teams = s.teams := rfl
@[simp] theorem State.count_canvases (s : State) (d c : Nat) (f : CtxCtr → CtxCtr) : (s.count d c f).canvases = s.canvases := rfl
@[simp] theorem State.count_cores (s : State) (d c : Nat) (f : CtxCtr → CtxCtr) : (s.count d c f).cores = s.cores := rfl
@[simp] theorem State.count_clusters (s : State) (d c : Nat) (f : CtxCtr → CtxCtr) : (s.count d c f).clusters = s.clusters := rfl
@[simp] theorem State.count_hbms (s : State) (d c : Nat) (f : CtxCtr → CtxCtr) : (s.count d c f).hbms = s.hbms := rfl
@[simp] theorem State.count_mem (s : State) (d c : Nat) (f : CtxCtr → CtxCtr) : (s.count d c f).mem = s.mem := rfl
@[simp] theorem State.count_poison (s : State) (d c : Nat) (f : CtxCtr → CtxCtr) : (s.count d c f).poison = s.poison := rfl
@[simp] theorem State.count_keyOf (s : State) (d c : Nat) (f : CtxCtr → CtxCtr) : (s.count d c f).keyOf = s.keyOf := rfl
@[simp] theorem State.count_flash (s : State) (d c : Nat) (f : CtxCtr → CtxCtr) : (s.count d c f).flash = s.flash := rfl
@[simp] theorem State.count_aops (s : State) (d c : Nat) (f : CtxCtr → CtxCtr) : (s.count d c f).aops = s.aops := rfl
@[simp] theorem State.count_tops (s : State) (d c : Nat) (f : CtxCtr → CtxCtr) : (s.count d c f).tops = s.tops := rfl
@[simp] theorem State.count_dones (s : State) (d c : Nat) (f : CtxCtr → CtxCtr) : (s.count d c f).dones = s.dones := rfl
@[simp] theorem State.count_grids (s : State) (d c : Nat) (f : CtxCtr → CtxCtr) : (s.count d c f).grids = s.grids := rfl
@[simp] theorem State.count_ctxs (s : State) (d c : Nat) (f : CtxCtr → CtxCtr) : (s.count d c f).ctxs = s.ctxs := rfl
@[simp] theorem State.count_vds (s : State) (d c : Nat) (f : CtxCtr → CtxCtr) : (s.count d c f).vds = s.vds := rfl
@[simp] theorem State.count_aqis (s : State) (d c : Nat) (f : CtxCtr → CtxCtr) : (s.count d c f).aqis = s.aqis := rfl
@[simp] theorem State.count_devQ (s : State) (d c : Nat) (f : CtxCtr → CtxCtr) : (s.count d c f).devQ = s.devQ := rfl
@[simp] theorem State.count_mod (s : State) (d c : Nat) (f : CtxCtr → CtxCtr) : (s.count d c f).mod = s.mod := rfl

end Sys2Proof.Machine
end

