-- ==== Sys2Proof/Laws/Store.lean ====
section
/-! SUPPORT. Sparse maps: what a read gives after a write or a removal, and that writes keep the canonical form. -/

namespace Sys2Proof.Machine

variable {α : Type}

@[simp] theorem SMap.get?_nil (n : Nat) : SMap.get? ([] : SMap α) n = none := rfl

theorem SMap.get?_put_same (m : SMap α) (n : Nat) (x : α) : SMap.get? (SMap.put m n x) n = some x := by
  induction m with
  | nil => simp [SMap.put, SMap.get?]
  | cons e m ih =>
    obtain ⟨k, v⟩ := e
    by_cases h : n = k
    · simp [SMap.put, SMap.get?, h]
    · by_cases h2 : n < k
      · simp [SMap.put, SMap.get?, h, h2]
      · simp [SMap.put, SMap.get?, h, h2, ih]

theorem SMap.get?_put_other (m : SMap α) (n j : Nat) (x : α) (hj : j ≠ n) :
    SMap.get? (SMap.put m n x) j = SMap.get? m j := by
  induction m with
  | nil => simp [SMap.put, SMap.get?, hj]
  | cons e m ih =>
    obtain ⟨k, v⟩ := e
    by_cases h : n = k
    · subst h; simp [SMap.put, SMap.get?, hj]
    · by_cases h2 : n < k
      · simp only [SMap.put, SMap.get?, h, h2, beq_iff_eq, if_false, if_true, hj]
        by_cases h3 : j < n
        · have h4 : j ≠ k := by omega
          have h5 : j < k := by omega
          simp [h3, h4, h5]
        · simp [h3]
      · simp only [SMap.put, SMap.get?, h, h2, beq_iff_eq, if_false, ih]

theorem SMap.getD_put_same (m : SMap α) (d : α) (n : Nat) (x : α) : SMap.getD (SMap.put m n x) d n = x := by
  simp [SMap.getD, SMap.get?_put_same]

theorem SMap.getD_put_other (m : SMap α) (d : α) (n j : Nat) (x : α) (hj : j ≠ n) :
    SMap.getD (SMap.put m n x) d j = SMap.getD m d j := by
  simp [SMap.getD, SMap.get?_put_other m n j x hj]

theorem SMap.get?_upd_same (m : SMap α) (n : Nat) (f : α → α) :
    SMap.get? (SMap.upd m n f) n = (SMap.get? m n).map f := by
  unfold SMap.upd
  cases h : SMap.get? m n with
  | none => simp [h]
  | some x => simp [SMap.get?_put_same]

theorem SMap.get?_upd_other (m : SMap α) (n j : Nat) (f : α → α) (hj : j ≠ n) :
    SMap.get? (SMap.upd m n f) j = SMap.get? m j := by
  unfold SMap.upd
  cases h : SMap.get? m n with
  | none => rfl
  | some x => simp [SMap.get?_put_other m n j _ hj]

/-- An update that ends in the entry it began with. -/
theorem SMap.get?_upd_upd (m : SMap α) (n : Nat) (f g : α → α) :
    SMap.get? (SMap.upd (SMap.upd m n f) n g) n = (SMap.get? m n).map (g ∘ f) := by
  simp [SMap.get?_upd_same, Option.map_map]

-- The canonical form.

variable [DecidableEq α]

/-- The bound of a canonical map may be lowered. -/
theorem SMap.wfFrom_lower (d : α) (lo lo' : Option Nat) (m : SMap α)
    (h : SMap.wfFrom d lo m = true) (hl : ∀ a, lo' = some a → ∃ b, lo = some b ∧ a ≤ b) : SMap.wfFrom d lo' m = true := by
  cases m with
  | nil => rfl
  | cons e m =>
    obtain ⟨k, v⟩ := e
    simp only [SMap.wfFrom, Bool.and_eq_true] at h ⊢
    refine ⟨⟨?_, h.1.2⟩, h.2⟩
    cases lo' with
    | none => rfl
    | some a =>
      obtain ⟨b, rfl, hab⟩ := hl a rfl
      have := h.1.1
      simp only [decide_eq_true_eq] at this ⊢
      omega

theorem SMap.wfFrom_put (d : α) (lo : Option Nat) (m : SMap α) (n : Nat) (x : α)
    (h : SMap.wfFrom d lo m = true) (hn : ∀ a, lo = some a → a < n) (hx : x ≠ d) :
    SMap.wfFrom d lo (SMap.put m n x) = true := by
  induction m generalizing lo with
  | nil =>
    simp only [SMap.put, SMap.wfFrom, Bool.and_true, Bool.and_eq_true]
    refine ⟨?_, by simpa using hx⟩
    cases lo with
    | none => rfl
    | some a => simpa using hn a rfl
  | cons e m ih =>
    obtain ⟨k, v⟩ := e
    simp only [SMap.wfFrom, Bool.and_eq_true] at h
    by_cases h1 : n = k
    · subst h1
      simp only [SMap.put, beq_self_eq_true, if_true, SMap.wfFrom, Bool.and_eq_true]
      exact ⟨⟨h.1.1, by simpa using hx⟩, h.2⟩
    · by_cases h2 : n < k
      · simp only [SMap.put, beq_iff_eq, h1, h2, if_false, if_true, SMap.wfFrom, Bool.and_eq_true]
        refine ⟨⟨?_, by simpa using hx⟩, ⟨by simpa using h2, h.1.2⟩, h.2⟩
        cases lo with
        | none => rfl
        | some a => simpa using hn a rfl
      · simp only [SMap.put, beq_iff_eq, h1, h2, if_false, SMap.wfFrom, Bool.and_eq_true]
        exact ⟨h.1, ih (some k) h.2 (by intro a ha; cases ha; omega)⟩

theorem SMap.wfFrom_del (d : α) (lo : Option Nat) (m : SMap α) (n : Nat)
    (h : SMap.wfFrom d lo m = true) : SMap.wfFrom d lo (SMap.del m n) = true := by
  induction m generalizing lo with
  | nil => rfl
  | cons e m ih =>
    obtain ⟨k, v⟩ := e
    have h0 := h
    simp only [SMap.wfFrom, Bool.and_eq_true] at h
    by_cases h1 : n = k
    · subst h1
      simp only [SMap.del, beq_self_eq_true, if_true]
      refine SMap.wfFrom_lower d (some n) lo m h.2 ?_
      intro a ha
      refine ⟨n, rfl, ?_⟩
      have := h.1.1
      subst ha
      simp only [decide_eq_true_eq] at this
      omega
    · by_cases h2 : n < k
      · simpa [SMap.del, h1, h2] using h0
      · simp only [SMap.del, beq_iff_eq, h1, h2, if_false, SMap.wfFrom, Bool.and_eq_true]
        exact ⟨h.1, ih (some k) h.2⟩

/-- A write keeps the canonical form. -/
theorem SMap.wf_set (d : α) (m : SMap α) (n : Nat) (x : α) (h : SMap.wf d m = true) :
    SMap.wf d (SMap.set m d n x) = true := by
  unfold SMap.set SMap.wf at *
  split
  · exact SMap.wfFrom_del d none m n h
  · exact SMap.wfFrom_put d none m n x h (by simp) (by assumption)

/-- Every key of a canonical map lies above its bound. -/
theorem SMap.get?_below (d : α) (lo : Nat) (m : SMap α) (n : Nat) (h : SMap.wfFrom d (some lo) m = true) (hn : n ≤ lo) :
    SMap.get? m n = none := by
  cases m with
  | nil => rfl
  | cons e m =>
    obtain ⟨k, v⟩ := e
    simp only [SMap.wfFrom, Bool.and_eq_true, decide_eq_true_eq] at h
    have h1 : n ≠ k := by omega
    have h2 : n < k := by omega
    simp [SMap.get?, h1, h2]

theorem SMap.getD_del_same (d : α) (lo : Option Nat) (m : SMap α) (n : Nat) (h : SMap.wfFrom d lo m = true) :
    SMap.getD (SMap.del m n) d n = d := by
  induction m generalizing lo with
  | nil => rfl
  | cons e m ih =>
    obtain ⟨k, v⟩ := e
    simp only [SMap.wfFrom, Bool.and_eq_true] at h
    by_cases h1 : n = k
    · subst h1
      simp [SMap.del, SMap.getD, SMap.get?_below d n m n h.2 (Nat.le_refl n)]
    · by_cases h2 : n < k
      · simp [SMap.del, SMap.getD, SMap.get?, h1, h2]
      · have := ih (some k) h.2
        simpa [SMap.del, SMap.getD, SMap.get?, h1, h2] using this

theorem SMap.getD_del_other (d : α) (lo : Option Nat) (m : SMap α) (n j : Nat) (h : SMap.wfFrom d lo m = true)
    (hj : j ≠ n) : SMap.getD (SMap.del m n) d j = SMap.getD m d j := by
  induction m generalizing lo with
  | nil => rfl
  | cons e m ih =>
    obtain ⟨k, v⟩ := e
    simp only [SMap.wfFrom, Bool.and_eq_true] at h
    by_cases h1 : n = k
    · subst h1
      by_cases h3 : j < n
      · simp [SMap.del, SMap.getD, SMap.get?, hj, h3, SMap.get?_below d n m j h.2 (Nat.le_of_lt h3)]
      · simp [SMap.del, SMap.getD, SMap.get?, hj, h3]
    · by_cases h2 : n < k
      · simp [SMap.del, h1, h2]
      · have := ih (some k) h.2
        simp only [SMap.getD] at this
        by_cases h3 : j = k
        · simp [SMap.del, SMap.getD, SMap.get?, h1, h2, h3]
        · by_cases h4 : j < k
          · simp [SMap.del, SMap.getD, SMap.get?, h1, h2, h3, h4]
          · simpa [SMap.del, SMap.getD, SMap.get?, h1, h2, h3, h4] using this

/-- A read of the place written gives the value written. -/
theorem SMap.getD_set_same (d : α) (m : SMap α) (n : Nat) (x : α) (h : SMap.wf d m = true) :
    SMap.getD (SMap.set m d n x) d n = x := by
  unfold SMap.set
  split
  · rename_i hx; rw [SMap.getD_del_same d none m n h, hx]
  · exact SMap.getD_put_same m d n x

/-- A write leaves every other place. -/
theorem SMap.getD_set_other (d : α) (m : SMap α) (n j : Nat) (x : α) (h : SMap.wf d m = true) (hj : j ≠ n) :
    SMap.getD (SMap.set m d n x) d j = SMap.getD m d j := by
  unfold SMap.set
  split
  · exact SMap.getD_del_other d none m n j h hj
  · exact SMap.getD_put_other m d n j x hj

end Sys2Proof.Machine
end

