-- ==== Sys2Proof/Laws/Memory.lean ====
section
/-! SUPPORT. Physical memory: reads after writes, and that every memory operation keeps the canonical form. -/

namespace Sys2Proof.Machine

theorem Memory.wf_put (m : List Host.Cell) (a : Nat) (b : Byte) (h : Memory.wf m = true) :
    Memory.wf (Memory.put m a b) = true := SMap.wf_set _ m a b h

theorem Memory.get_put_same (m : List Host.Cell) (a : Nat) (b : Byte) (h : Memory.wf m = true) :
    Memory.get (Memory.put m a b) a = b := SMap.getD_set_same _ m a b h

theorem Memory.get_put_other (m : List Host.Cell) (a j : Nat) (b : Byte) (h : Memory.wf m = true) (hj : j ≠ a) :
    Memory.get (Memory.put m a b) j = Memory.get m j := SMap.getD_set_other _ m a j b h hj

theorem Memory.wf_putBytes (bs : List Byte) (m : List Host.Cell) (a : Nat) (h : Memory.wf m = true) :
    Memory.wf (Memory.putBytes m a bs) = true := by
  induction bs generalizing m a with
  | nil => exact h
  | cons b bs ih => exact ih _ _ (Memory.wf_put m a b h)

theorem Memory.get_putBytes_other (bs : List Byte) (m : List Host.Cell) (a j : Nat) (h : Memory.wf m = true)
    (hj : j < a ∨ a + bs.length ≤ j) : Memory.get (Memory.putBytes m a bs) j = Memory.get m j := by
  induction bs generalizing m a with
  | nil => rfl
  | cons b bs ih =>
    have hl : (b :: bs).length = bs.length + 1 := rfl
    rw [hl] at hj
    have h1 : j < a + 1 ∨ a + 1 + bs.length ≤ j := by omega
    have h2 : j ≠ a := by omega
    rw [Memory.putBytes, ih _ _ (Memory.wf_put m a b h) h1, Memory.get_put_other m a j b h h2]

theorem Memory.get_putBytes_in (bs : List Byte) (m : List Host.Cell) (a i : Nat) (h : Memory.wf m = true)
    (hi : i < bs.length) : Memory.get (Memory.putBytes m a bs) (a + i) = bs.getD i 0 := by
  induction bs generalizing m a i with
  | nil => simp at hi
  | cons b bs ih =>
    cases i with
    | zero =>
      show Memory.get (Memory.putBytes (Memory.put m a b) (a + 1) bs) a = b
      rw [Memory.get_putBytes_other bs _ (a + 1) a (Memory.wf_put m a b h) (by omega), Memory.get_put_same m a b h]
    | succ i =>
      have := ih (Memory.put m a b) (a + 1) i (Memory.wf_put m a b h) (by simpa using hi)
      rw [Memory.putBytes, show a + (i + 1) = a + 1 + i by omega, this]
      rfl

theorem Memory.wf_reset : Memory.wf State.reset.mem = true := rfl

/-- A fold of writes of single bytes keeps the form. -/
theorem Memory.wf_foldl_put (bs : List (Nat × Byte)) (m : List Host.Cell) (h : Memory.wf m = true) :
    Memory.wf (bs.foldl (fun m b => Memory.put m b.1 b.2) m) = true := by
  induction bs generalizing m with
  | nil => exact h
  | cons b bs ih => exact ih _ (Memory.wf_put m b.1 b.2 h)

theorem State.rekey_wf (s : State) (key u : Nat) (h : Memory.wf s.mem = true) : Memory.wf (s.rekey key u).mem = true := by
  unfold State.rekey
  split
  · exact h
  · exact Memory.wf_putBytes _ _ _ h

theorem State.rekeys_wf (us : List Nat) (s : State) (key : Nat) (h : Memory.wf s.mem = true) :
    Memory.wf (us.foldl (fun s u => s.rekey key u) s).mem = true := by
  induction us generalizing s with
  | nil => exact h
  | cons u us ih => exact ih _ (State.rekey_wf s key u h)

theorem State.homeWrite_wf (s : State) (a : Nat) (bs : List Byte) (key : Nat) (h : Memory.wf s.mem = true) :
    Memory.wf (s.homeWrite a bs key).mem = true := Memory.wf_putBytes _ _ _ (State.rekeys_wf _ s key h)

theorem State.homeBytes_wf (s : State) (bs : List (Nat × Byte)) (clr : List Nat) (key : Nat)
    (h : Memory.wf s.mem = true) : Memory.wf (s.homeBytes bs clr key).mem = true :=
  Memory.wf_foldl_put _ _ (State.rekeys_wf _ s key h)

@[simp] theorem State.poisonUnits_mem (s : State) (us : List Nat) : (s.poisonUnits us).mem = s.mem := rfl

theorem State.homeRead_mem (s : State) (a n key : Nat) : (s.homeRead a n key).1.mem = s.mem := by
  unfold State.homeRead
  dsimp only
  split <;> rfl

end Sys2Proof.Machine
end

