-- ==== Sys2Proof/Laws/Group.lean ====
section
/-! SUPPORT. Lanes and registers of a group under the operations that every instruction shares. -/

namespace Sys2Proof.Machine

-- Lists by index.

theorem map_updAt {α β : Type} (p : α → β) (f : α → α) (h : β → β) (xs : List α) (n : Nat)
    (hp : ∀ x, p (f x) = h (p x)) : (updAt xs n f).map p = updAt (xs.map p) n h := by
  induction xs generalizing n with
  | nil => rfl
  | cons x xs ih => cases n <;> simp [updAt, hp, ih]

theorem map_updAt_same {α β : Type} (p : α → β) (f : α → α) (xs : List α) (n : Nat)
    (hp : ∀ x, p (f x) = p x) : (updAt xs n f).map p = xs.map p := by
  induction xs generalizing n with
  | nil => rfl
  | cons x xs ih => cases n <;> simp [updAt, hp, ih]

theorem getD_updAt {α : Type} (xs : List α) (n j : Nat) (f : α → α) (d : α) :
    (updAt xs n f).getD j d = if j = n ∧ j < xs.length then f (xs.getD j d) else xs.getD j d := by
  induction xs generalizing n j with
  | nil => simp [updAt]
  | cons x xs ih =>
    cases n with
    | zero => cases j <;> simp [updAt]
    | succ n =>
      cases j with
      | zero => simp [updAt]
      | succ j =>
        have := ih n j
        simp only [List.getD_cons_succ] at this ⊢
        simp only [updAt, List.getD_cons_succ, this, List.length_cons, Nat.add_lt_add_iff_right, Nat.add_right_cancel_iff]

@[simp] theorem length_updAt {α : Type} (xs : List α) (n : Nat) (f : α → α) : (updAt xs n f).length = xs.length := by
  induction xs generalizing n with
  | nil => rfl
  | cons x xs ih => cases n <;> simp [updAt, ih]

-- Writes to registers.

theorem Group.regs_apply (g : Group) (w : RegW) : (RegW.apply g w).regs = RegW.onRegs g.regs w := by
  cases w with
  | v l n i =>
    simp only [RegW.apply, Group.regs, Group.updLane, RegW.onRegs]
    rw [map_updAt _ _ (fun x => (SMap.set x.1 Image.zero n i, x.2)) _ _ (fun _ => rfl)]
  | s n i => rfl
  | p l k b =>
    simp only [RegW.apply, Group.regs, Group.updLane, RegW.onRegs]
    rw [map_updAt _ _ (fun x => (x.1, setPred x.2 k b)) _ _ (fun _ => rfl)]
  | o op r => rfl

theorem Group.regs_applyAll (w : List RegW) (g : Group) : (applyAll g w).regs = w.foldl RegW.onRegs g.regs := by
  unfold applyAll
  induction w generalizing g with
  | nil => rfl
  | cons x w ih => simp [List.foldl_cons, ih, Group.regs_apply]

/-- Lists of writes on registers. -/
def onRegsAll (r : List (SMap Image × BitVec 7) × SMap Image) (ws : List (List RegW)) :
    List (SMap Image × BitVec 7) × SMap Image := ws.foldl (fun r w => w.foldl RegW.onRegs r) r

theorem Group.regs_foldl_applyAll (ws : List (List RegW)) (g : Group) :
    (ws.foldl applyAll g).regs = onRegsAll g.regs ws := by
  unfold onRegsAll
  induction ws generalizing g with
  | nil => rfl
  | cons w ws ih => simp [List.foldl_cons, ih, Group.regs_applyAll]

theorem Group.final_eq (g : Group) : g.final = onRegsAll g.regs g.pend := by
  unfold Group.final Group.settleResults
  exact Group.regs_foldl_applyAll g.pend g

/-- Statuses that are not known yet write nothing. -/
theorem onRegs_owed (w : List RegW) (r : List (SMap Image × BitVec 7) × SMap Image) (h : w.all RegW.owed = true) :
    w.foldl RegW.onRegs r = r := by
  induction w generalizing r with
  | nil => rfl
  | cons x w ih =>
    simp only [List.all_cons, Bool.and_eq_true] at h
    rw [List.foldl_cons, ih _ h.2]
    cases x <;> simp_all [RegW.owed, RegW.onRegs]

theorem onRegsAll_consNe (w : List RegW) (r : List (List RegW)) (x : List (SMap Image × BitVec 7) × SMap Image) :
    onRegsAll x (consNe w r) = onRegsAll (w.foldl RegW.onRegs x) r := by
  unfold consNe
  cases w <;> rfl

/-- The entry taken is the first that writes anything. -/
theorem onRegsAll_takeKnown (ws : List (List RegW)) (x : List RegW × List (List RegW)) (h : takeKnown ws = some x)
    (r : List (SMap Image × BitVec 7) × SMap Image) :
    onRegsAll r ws = onRegsAll (x.1.foldl RegW.onRegs r) x.2 := by
  induction ws generalizing x with
  | nil => simp [takeKnown] at h
  | cons w ws ih =>
    unfold takeKnown at h
    split at h
    · rename_i ho
      cases ht : takeKnown ws with
      | none => simp [ht] at h
      | some y =>
        simp only [ht, Option.map_some, Option.some.injEq] at h
        subst h
        have hd : (dropSame y.1 w).all RegW.owed = true := by
          simp only [dropSame, List.all_filter, List.all_eq_true] at ho ⊢
          intro z hz
          simp [ho z hz]
        show onRegsAll (w.foldl RegW.onRegs r) ws = _
        rw [onRegs_owed w r ho, ih y ht, onRegsAll_consNe, onRegs_owed _ _ hd]
    · cases h
      rfl

theorem Group.final_trimPend (n : Nat) (g : Group) : (trimPend n g).final = g.final := by
  induction n generalizing g with
  | zero => rfl
  | succ n ih =>
    unfold trimPend
    split
    · rfl
    · cases ht : takeKnown g.pend with
      | none => rfl
      | some x =>
        dsimp only
        rw [ih, Group.final_eq, Group.final_eq, onRegsAll_takeKnown g.pend x ht]
        show onRegsAll (applyAll g x.1).regs x.2 = _
        rw [Group.regs_applyAll]

/-- Once all results are back, a new result has been applied last (R95). -/
theorem Group.final_addResults (g : Group) (w : List RegW) :
    (g.addResults w).final = w.foldl RegW.onRegs g.final := by
  unfold Group.addResults
  cases w with
  | nil => rfl
  | cons x w =>
    simp only [List.isEmpty_cons, Bool.false_eq_true, if_false]
    have hp : ({ g with pend := g.pend ++ [x :: w] } : Group).final = (x :: w).foldl RegW.onRegs g.final := by
      rw [Group.final_eq, Group.final_eq]
      show onRegsAll g.regs (g.pend ++ [x :: w]) = _
      unfold onRegsAll
      rw [List.foldl_append]
      rfl
    split
    · exact hp
    · rw [Group.final_trimPend, hp]

-- What operations leave of a group.

/-- A lane but for its registers and predicates. -/
def Lane.bare (l : Lane) : Lane := { l with v := [], pr := 0 }

/-- A group but for its lanes, scalar registers, outstanding results and flags. -/
def Group.body (g : Group) : Group := { g with lanes := [], s := [], pend := [], fflags := 0 }

/-- A group but for what issuing a register form may change. -/
def Group.fixed (g : Group) : Group :=
  { g with lanes := [], s := [], stack := [], prog := 0, fflags := 0, pend := [], parked := false, wait := .no, held := none, fresh := false }

theorem Group.bare_apply (g : Group) (w : RegW) : (RegW.apply g w).lanes.map Lane.bare = g.lanes.map Lane.bare := by
  cases w with
  | v l n i => exact map_updAt_same _ _ _ _ (fun _ => rfl)
  | s n i => rfl
  | p l k b => exact map_updAt_same _ _ _ _ (fun _ => rfl)
  | o op r => rfl

theorem Group.body_apply (g : Group) (w : RegW) : (RegW.apply g w).body = g.body ∧
    (RegW.apply g w).fflags = g.fflags := by cases w <;> exact ⟨rfl, rfl⟩

theorem Group.applyAll_keeps (w : List RegW) (g : Group) : (applyAll g w).lanes.map Lane.bare = g.lanes.map Lane.bare ∧
    (applyAll g w).body = g.body ∧ (applyAll g w).fflags = g.fflags := by
  unfold applyAll
  induction w generalizing g with
  | nil => exact ⟨rfl, rfl, rfl⟩
  | cons x w ih =>
    have h := ih (RegW.apply g x)
    have h2 := Group.body_apply g x
    exact ⟨h.1.trans (Group.bare_apply g x), h.2.1.trans h2.1, h.2.2.trans h2.2⟩

theorem Group.trimPend_keeps (n : Nat) (g : Group) : (trimPend n g).lanes.map Lane.bare = g.lanes.map Lane.bare ∧
    (trimPend n g).body = g.body ∧ (trimPend n g).fflags = g.fflags := by
  induction n generalizing g with
  | zero => exact ⟨rfl, rfl, rfl⟩
  | succ n ih =>
    unfold trimPend
    split
    · exact ⟨rfl, rfl, rfl⟩
    · cases takeKnown g.pend with
      | none => exact ⟨rfl, rfl, rfl⟩
      | some x =>
        have h := ih { applyAll g x.1 with pend := x.2 }
        have h2 := Group.applyAll_keeps x.1 g
        exact ⟨h.1.trans h2.1, h.2.1.trans h2.2.1, h.2.2.trans h2.2.2⟩

theorem Group.addResults_keeps (g : Group) (w : List RegW) :
    (g.addResults w).lanes.map Lane.bare = g.lanes.map Lane.bare ∧ (g.addResults w).body = g.body ∧
    (g.addResults w).fflags = g.fflags := by
  unfold Group.addResults
  split
  · exact ⟨rfl, rfl, rfl⟩
  · split
    · exact ⟨rfl, rfl, rfl⟩
    · exact Group.trimPend_keeps _ _

-- Lanes of a mask.

theorem inMask_lt {m : Word} {l : Nat} (h : inMask m l = true) : l < 32 := by
  unfold inMask at h
  exact BitVec.lt_of_getLsbD h

theorem mem_maskLanes (m : Word) (l : Nat) : l ∈ maskLanes m ↔ inMask m l = true := by
  unfold maskLanes lanes32
  simp only [List.mem_filter, List.mem_range]
  exact ⟨fun h => h.2, fun h => ⟨inMask_lt h, h⟩⟩

theorem nodup_maskLanes (m : Word) : (maskLanes m).Nodup := by
  unfold maskLanes lanes32
  exact List.Pairwise.filter _ List.nodup_range

/-- A change of lanes that a projection does not see. -/
theorem Group.mapMask_map {β : Type} (p : Lane → β) (f : Lane → Lane) (hp : ∀ x, p (f x) = p x) (m : Word) (g : Group) :
    (g.mapMask m f).lanes.map p = g.lanes.map p := by
  unfold Group.mapMask
  induction maskLanes m generalizing g with
  | nil => rfl
  | cons l ls ih =>
    rw [List.foldl_cons, ih]
    exact map_updAt_same p f _ _ hp

/-- What a change of lanes leaves of the group. -/
theorem Group.mapMask_keeps (f : Lane → Lane) (m : Word) (g : Group) :
    { g.mapMask m f with lanes := [] } = { g with lanes := [] } := by
  unfold Group.mapMask
  induction maskLanes m generalizing g with
  | nil => rfl
  | cons l ls ih => rw [List.foldl_cons, ih]; rfl

theorem Group.lane_updLane (g : Group) (n l : Nat) (f : Lane → Lane) :
    (g.updLane n f).lane l = if l = n ∧ l < g.lanes.length then f (g.lane l) else g.lane l := by
  exact getD_updAt g.lanes n l f Lane.none

theorem Group.lane_foldl_updLane (f : Lane → Lane) (ls : List Nat) (hn : ls.Nodup) (g : Group) (l : Nat) :
    (ls.foldl (fun a l => a.updLane l f) g).lane l = if l ∈ ls ∧ l < g.lanes.length then f (g.lane l) else g.lane l := by
  induction ls generalizing g with
  | nil => simp
  | cons x ls ih =>
    have hx := List.nodup_cons.mp hn
    rw [List.foldl_cons, ih hx.2, Group.lane_updLane]
    have hl : (g.updLane x f).lanes.length = g.lanes.length := length_updAt _ _ _
    rw [hl]
    by_cases h1 : l = x
    · subst h1
      simp [hx.1]
    · simp [h1]

theorem Group.lane_mapMask (g : Group) (m : Word) (f : Lane → Lane) (l : Nat) :
    (g.mapMask m f).lane l = if inMask m l = true ∧ l < g.lanes.length then f (g.lane l) else g.lane l := by
  unfold Group.mapMask
  rw [Group.lane_foldl_updLane f _ (nodup_maskLanes m) g l]
  simp only [mem_maskLanes]

theorem Group.lane_ge (g : Group) (l : Nat) (h : g.lanes.length ≤ l) : g.lane l = Lane.none := by
  unfold Group.lane
  rw [List.getD_eq_getElem?_getD, List.getElem?_eq_none h]
  rfl

theorem inMask_maskOf (f : Nat → Bool) (l : Nat) : inMask (maskOf f) l = (decide (l < 32) && f l) := by
  have key : ∀ (n : Nat) (hn : n ≤ 32) (l : Nat),
      ((List.range n).foldl (fun (m : Word) l => if f l then m ||| (1#32 <<< l) else m) 0).getLsbD l =
        (decide (l < n) && f l) := by
    intro n
    induction n with
    | zero => intro _ l; simp
    | succ n ih =>
      intro hn l
      rw [List.range_succ, List.foldl_append]
      simp only [List.foldl_cons, List.foldl_nil]
      have hb := ih (by omega) l
      split
      · rename_i hf
        rw [BitVec.getLsbD_or, hb]
        by_cases h1 : l = n
        · subst h1; simp [hf]; omega
        · have : (1#32 <<< n).getLsbD l = false := by
            simp [BitVec.getLsbD_shiftLeft]
            intro _ _
            omega
          rw [this]
          by_cases h2 : l < n
          · have : l < n + 1 := by omega
            simp [h2, this]
          · have : ¬ l < n + 1 := by omega
            simp [h2, this]
      · rename_i hf
        rw [hb]
        by_cases h1 : l = n
        · subst h1; simp [hf]
        · by_cases h2 : l < n
          · have : l < n + 1 := by omega
            simp [h2, this]
          · have : ¬ l < n + 1 := by omega
            simp [h2, this]
  exact key 32 (Nat.le_refl 32) l

/-- A running lane is one of the group's lanes. -/
theorem Group.run_lt (g : Group) (l : Nat) (h : inMask g.runMask l = true) : l < g.lanes.length := by
  unfold Group.runMask at h
  rw [inMask_maskOf] at h
  simp only [Bool.and_eq_true, decide_eq_true_eq] at h
  by_cases hl : l < g.lanes.length
  · exact hl
  · rw [Group.lane_ge g l (by omega)] at h
    simp [Lane.none] at h

-- Path choice moves no PC and no register.

/-- What path choice leaves: every lane but for its state, and the group but for its lanes and its path stack. -/
structure Group.PathOnly (a b : Group) : Prop where
  lanes : b.lanes.map Lane.still = a.lanes.map Lane.still
  rest : { b with lanes := [], stack := [] } = { a with lanes := [], stack := [] }

theorem Group.PathOnly.refl (a : Group) : Group.PathOnly a a := ⟨rfl, rfl⟩
theorem Group.PathOnly.trans {a b c : Group} (h : Group.PathOnly a b) (k : Group.PathOnly b c) : Group.PathOnly a c :=
  ⟨k.lanes.trans h.lanes, k.rest.trans h.rest⟩

theorem Group.PathOnly.stack {a b : Group} (h : Group.PathOnly a b) (st : List Entry) :
    Group.PathOnly a { b with stack := st } := ⟨h.lanes, h.rest⟩

theorem Group.setSt_pathOnly (g : Group) (m : Word) (st : LaneSt) : Group.PathOnly g (g.setSt m st) := by
  refine ⟨Group.mapMask_map Lane.still (fun (x : Lane) => { x with st := st }) (fun _ => rfl) m g, ?_⟩
  have h := Group.mapMask_keeps (fun (x : Lane) => { x with st := st }) m g
  exact congrArg (fun (x : Group) => { x with stack := [] }) h

theorem chooseNext_pathOnly (n : Nat) (g : Group) (prev : Int) : Group.PathOnly g (chooseNext n g prev) := by
  induction n generalizing g prev with
  | zero => exact .refl g
  | succ n ih =>
    unfold chooseNext
    cases g.stack with
    | nil => exact .refl g
    | cons e rest =>
      dsimp only
      split
      · exact (Group.setSt_pathOnly g _ _).stack _
      · split
        · exact .refl g
        · split
          · exact (Group.setSt_pathOnly g _ _).stack _
          · exact Group.PathOnly.trans ((Group.PathOnly.refl g).stack rest) (ih _ _)

theorem parkLoop_pathOnly (n : Nat) (prev : Int) (g : Group) : Group.PathOnly g (parkLoop n prev g) := by
  induction n generalizing g prev with
  | zero => exact .refl g
  | succ n ih =>
    unfold parkLoop
    cases g.stack with
    | nil => exact .refl g
    | cons e rest =>
      dsimp only
      split
      · exact ((Group.setSt_pathOnly g _ _).trans (chooseNext_pathOnly _ _ _)).trans (ih _ _)
      · exact .refl g

theorem settle_pathOnly (g : Group) (prev : Int) : Group.PathOnly g (settle g prev) := by
  unfold settle
  split
  · exact (chooseNext_pathOnly _ _ _).trans (parkLoop_pathOnly _ _ _)
  · exact parkLoop_pathOnly _ _ _

theorem getD_map {α β : Type} (p : α → β) (xs : List α) (n : Nat) (d : α) :
    (xs.map p).getD n (p d) = p (xs.getD n d) := by
  induction xs generalizing n with
  | nil => rfl
  | cons x xs ih => cases n <;> simp [ih]

theorem Group.still_lane {a b : Group} (h : b.lanes.map Lane.still = a.lanes.map Lane.still) (l : Nat) :
    (b.lane l).still = (a.lane l).still := by
  have := congrArg (fun (x : List Lane) => x.getD l Lane.none.still) h
  simp only [getD_map] at this
  exact this

end Sys2Proof.Machine
end

