-- ==== Sys2Proof/Laws/Issue.lean ====
section
/-! SUPPORT. What issuing an instruction can do: it completes, traps, waits, or is refused for its registers. -/

namespace Sys2Proof.Machine

theorem issue_runs (i : Instr) (k : Com) (rs : List (Opnd × Nat)) (f : Nat → GCtx → State → Act) (s : State) (gid : Nat)
    (g : Group) (h : Issues s gid g k rs) :
    issue i k rs f s = .next (finish s gid (GCtx.make g k) (f gid (GCtx.make g k) s)) := by
  unfold issue
  simp [h.cur, h.grp, h.ranges, h.executes, Act.over, Nat.not_le.mpr h.owed]

theorem issue_skips (i : Instr) (k : Com) (rs : List (Opnd × Nat)) (f : Nat → GCtx → State → Act) (s : State) (gid : Nat)
    (g : Group) (hc : s.cur = some gid) (hg : SMap.get? s.groups gid = some g) (hr : rs.all g.inRange = true)
    (he : (GCtx.make g k).executes = false) :
    issue i k rs f s = .next (finish s gid (GCtx.make g k) (.done s)) := by
  unfold issue
  simp [hc, hg, hr, he]

theorem issue_outOfRange (i : Instr) (k : Com) (rs : List (Opnd × Nat)) (f : Nat → GCtx → State → Act) (s : State)
    (gid : Nat) (g : Group) (hc : s.cur = some gid) (hg : SMap.get? s.groups gid = some g)
    (hr : rs.all g.inRange = false) : issue i k rs f s = .next (takeTrap s gid (illegal i)) := by
  unfold issue
  simp [hc, hg, hr]

/-- Whatever an instruction does, its issue answers a next state. -/
theorem issue_next (i : Instr) (k : Com) (rs : List (Opnd × Nat)) (f : Nat → GCtx → State → Act) (s : State) :
    ∃ t, issue i k rs f s = .next t := by
  unfold issue
  cases s.cur with
  | none => exact ⟨_, rfl⟩
  | some gid =>
    dsimp only
    cases SMap.get? s.groups gid with
    | none => exact ⟨_, rfl⟩
    | some g =>
      dsimp only
      split
      · exact ⟨_, rfl⟩
      · split
        · exact ⟨_, rfl⟩
        · split <;> exact ⟨_, rfl⟩

-- Metering and charging (R397, R436).

theorem State.charge_frame (s0 s1 : State) (team v : Nat) :
    { s0.charge s1 team v with grids := s1.grids } = s1 := by
  unfold State.charge
  dsimp only
  split
  · split <;> rfl
  · rfl

theorem State.issued_frame (s s0 : State) (g : Group) :
    { s.issued s0 g with grids := s.grids, dies := s.dies } = s := by
  unfold State.issued
  have h := State.charge_frame s0 (s.meter (g.core / 128) (g.ctx / 256) (fun m => { m with issue := satAdd m.issue 1 }))
    g.team (g.ctx / 256)
  exact congrArg (fun (x : State) => { x with dies := s.dies, grids := s.grids }) h

theorem State.issued_groups (s s0 : State) (g : Group) : (s.issued s0 g).groups = s.groups := by
  have h := congrArg State.groups (State.issued_frame s s0 g)
  exact h

-- Flags and marks.

theorem State.markB_frame (s : State) (g : Group) (gid : Nat) (w : List RegW) :
    { s.markB g gid w with clusters := s.clusters } = s := by
  unfold State.markB
  dsimp only
  split <;> rfl

/-- A group but for its flags. -/
def Group.noFlags (g : Group) : Group := { g with fflags := 0 }

theorem State.updGroup_noFlags (s : State) (i : Nat) (f : Group → Group) (hf : ∀ g, (f g).noFlags = g.noFlags) (j : Nat) :
    (SMap.get? (s.updGroup i f).groups j).map Group.noFlags = (SMap.get? s.groups j).map Group.noFlags := by
  by_cases h : j = i
  · subst h
    rw [State.updGroup_groups, SMap.get?_upd_same]
    cases SMap.get? s.groups j <;> simp [hf]
  · rw [State.updGroup_groups, SMap.get?_upd_other _ _ _ _ h]

theorem State.raiseFlags_frame (s : State) (gid : Nat) (fl : List (Nat × Flags)) :
    { s.raiseFlags gid fl with groups := s.groups } = s ∧
    ∀ j, (SMap.get? (s.raiseFlags gid fl).groups j).map Group.noFlags = (SMap.get? s.groups j).map Group.noFlags := by
  unfold State.raiseFlags
  cases hg : SMap.get? s.groups gid with
  | none => exact ⟨rfl, fun _ => rfl⟩
  | some g =>
    dsimp only
    split
    · clear hg
      induction fl generalizing s with
      | nil => exact ⟨rfl, fun _ => rfl⟩
      | cons x fl ih =>
        rw [List.foldl_cons]
        cases (g.lane x.1).home with
        | none => exact ih s
        | some hm =>
          have h := ih (s.updGroup hm.gid (fun y => y.orFlags x.2))
          refine ⟨?_, fun j => (h.2 j).trans
            (State.updGroup_noFlags s hm.gid (fun (y : Group) => y.orFlags x.2) (fun _ => rfl) j)⟩
          exact congrArg (fun (y : State) => { y with groups := s.groups }) h.1
    · exact ⟨rfl, State.updGroup_noFlags s _ _ (fun _ => rfl)⟩

/-- Flags raised by the lanes of a group that is not compacted are its own. -/
theorem State.raiseFlags_plain (s : State) (gid : Nat) (g : Group) (fl : List (Nat × Flags))
    (hg : SMap.get? s.groups gid = some g) (hc : g.compacted = false) :
    SMap.get? (s.raiseFlags gid fl).groups gid = some (g.orFlags (orFlags (fl.map (fun x => x.2)))) := by
  unfold State.raiseFlags
  rw [hg]
  simp only [hc, Bool.false_eq_true, if_false]
  rw [State.updGroup_groups, SMap.get?_upd_same, hg]
  rfl

theorem Group.rng_foldl (rs : List (Nat × Word)) (g : Group) :
    (rs.foldl (fun g x => g.updLane x.1 (fun l => { l with rng := x.2 })) g).lanes.map (fun l => l.rng) =
      rs.foldl (fun r x => updAt r x.1 (fun _ => x.2)) (g.lanes.map (fun l => l.rng)) ∧
    (∀ {β : Type} (p : Lane → β), (∀ l r, p { l with rng := r } = p l) →
      (rs.foldl (fun g x => g.updLane x.1 (fun l => { l with rng := x.2 })) g).lanes.map p = g.lanes.map p) ∧
    { rs.foldl (fun g x => g.updLane x.1 (fun l => { l with rng := x.2 })) g with lanes := [] } = { g with lanes := [] } := by
  induction rs generalizing g with
  | nil => exact ⟨rfl, fun _ _ => rfl, rfl⟩
  | cons x rs ih =>
    have h := ih (g.updLane x.1 (fun l => { l with rng := x.2 }))
    refine ⟨?_, ?_, ?_⟩
    · rw [List.foldl_cons, h.1, List.foldl_cons]
      congr 1
      exact map_updAt _ _ (fun _ => x.2) _ _ (fun _ => rfl)
    · intro β p hp
      rw [List.foldl_cons, h.2.1 p hp]
      exact map_updAt_same p _ _ _ (fun l => hp l x.2)
    · rw [List.foldl_cons, h.2.2]
      rfl

/-- What the writes, flags and `%rng` steps of a register form leave, before its PCs move on. -/
theorem State.commit_spec (s : State) (gid : Nat) (g : Group) (o : Out) (hg : SMap.get? s.groups gid = some g) :
    { s.commit gid o with groups := s.groups, clusters := s.clusters } = s ∧
    (∀ j, j ≠ gid → (SMap.get? (s.commit gid o).groups j).map Group.noFlags = (SMap.get? s.groups j).map Group.noFlags) ∧
    ∃ g', SMap.get? (s.commit gid o).groups gid = some g' ∧ g'.final = o.w.foldl RegW.onRegs g.final ∧
      g'.lanes.map (fun l => l.pc) = g.lanes.map (fun l => l.pc) ∧
      g'.lanes.map (fun l => l.st) = g.lanes.map (fun l => l.st) ∧
      g'.lanes.map (fun l => l.rng) = o.rng.foldl (fun r x => updAt r x.1 (fun _ => x.2)) (g.lanes.map (fun l => l.rng)) ∧
      g'.body = g.body ∧ (g.compacted = false → g'.fflags = g.fflags ||| orFlags (o.fl.map (fun x => x.2))) := by
  unfold State.commit
  rw [hg]
  dsimp only
  have hr := Group.rng_foldl o.rng g
  generalize hg1 : o.rng.foldl (fun g x => g.updLane x.1 (fun l => { l with rng := x.2 })) g = g1 at hr
  obtain ⟨hr1, hr2, hr3⟩ := hr
  have ha := Group.addResults_keeps g1 o.w
  have hf := Group.final_addResults g1 o.w
  generalize hg2 : g1.addResults o.w = g2 at ha hf
  have hm := State.markB_frame (s.setGroup gid g2) g gid o.w
  generalize hs3 : (s.setGroup gid g2).markB g gid o.w = s3 at hm
  have hgr3 : s3.groups = SMap.put s.groups gid g2 := congrArg State.groups hm
  have hraise := State.raiseFlags_frame s3 gid o.fl
  have hget : SMap.get? s3.groups gid = some g2 := by rw [hgr3]; exact SMap.get?_put_same _ _ _
  have hplain := State.raiseFlags_plain s3 gid g2 o.fl hget
  have hlanes1 : g1.s = g.s ∧ g1.pend = g.pend ∧ g1.fflags = g.fflags ∧ g1.body = g.body ∧ g1.key = g.key := by
    refine ⟨?_, ?_, ?_, ?_, ?_⟩
    · have h := congrArg Group.s hr3; exact h
    · have h := congrArg Group.pend hr3; exact h
    · have h := congrArg Group.fflags hr3; exact h
    · have h := congrArg Group.body hr3; exact h
    · have h := congrArg Group.key hr3; exact h
  obtain ⟨hS1, hpend1, hff1, hbody1, hkey1⟩ := hlanes1
  have hreg1 : g1.regs = g.regs := by
    unfold Group.regs
    rw [hr2 (fun l => (l.v, l.pr)) (fun _ _ => rfl), hS1]
  have hfin1 : g1.final = g.final := by rw [Group.final_eq, Group.final_eq, hreg1, hpend1]
  have hbare {β : Type} (p : Lane → β) (hp : ∀ l, p l.bare = p l) : g2.lanes.map p = g1.lanes.map p := by
    have h := congrArg (List.map p) ha.1
    simpa [List.map_map, Function.comp_def, hp] using h
  refine ⟨?_, ?_, ?_⟩
  · have h1 := congrArg (fun (x : State) => { x with groups := s.groups, clusters := s.clusters }) hraise.1
    have h2 := congrArg (fun (x : State) => { x with groups := s.groups, clusters := s.clusters }) hm
    exact h1.trans h2
  · intro j hj
    rw [hraise.2 j, hgr3, SMap.get?_put_other _ _ _ _ hj]
  · have hno := hraise.2 gid
    rw [hget] at hno
    cases hq : SMap.get? (s3.raiseFlags gid o.fl).groups gid with
    | none => rw [hq] at hno; simp at hno
    | some g' =>
      rw [hq] at hno
      have hno2 : g'.noFlags = g2.noFlags := by simpa using hno
      have hl : g'.lanes = g2.lanes := by have h := congrArg Group.lanes hno2; exact h
      have hS : g'.s = g2.s := by have h := congrArg Group.s hno2; exact h
      have hP : g'.pend = g2.pend := by have h := congrArg Group.pend hno2; exact h
      have hB : g'.body = g2.body := by have h := congrArg Group.body hno2; exact h
      refine ⟨g', rfl, ?_, ?_, ?_, ?_, ?_, ?_⟩
      · have hR : g'.regs = g2.regs := by unfold Group.regs; rw [hl, hS]
        rw [Group.final_eq, hR, hP, ← Group.final_eq, hf, hfin1]
      · rw [hl, hbare _ (fun _ => rfl), hr2 _ (fun _ _ => rfl)]
      · rw [hl, hbare _ (fun _ => rfl), hr2 _ (fun _ _ => rfl)]
      · rw [hl, hbare _ (fun _ => rfl), hr1]
      · rw [hB, ha.2.1, hbody1]
      · intro hcg
        have hk2 : g2.key = g1.key := by have h := congrArg Group.key ha.2.1; exact h
        have hc2 : g2.compacted = false := by
          unfold Group.compacted at hcg ⊢
          rw [hk2, hkey1]; exact hcg
        have := hplain hc2
        rw [hq] at this
        cases this
        show g2.fflags ||| _ = _
        rw [ha.2.2, hff1]

/-- What the completion of an instruction leaves of its group. -/
theorem Group.complete_spec (g : Group) (run : Word) (inH : Bool) (k : Com) (low : Nat)
    (hrun : ∀ l, inMask run l = true → l < g.lanes.length) :
    let g' := (g.advance run k).complete inH k low
    g'.final = g.final ∧
    (∀ l, (g'.lane l).pc = if inMask run l then (g.lane l).pc + comBytes k else (g.lane l).pc) ∧
    g'.lanes.map (fun l => l.rng) = g.lanes.map (fun l => l.rng) ∧
    g'.fflags = g.fflags ∧ g'.prog = (if inH then g.prog else 0) ∧ g'.wait = .no ∧ g'.fixed = g.fixed ∧
    g'.pend = g.pend := by
  unfold Group.complete
  dsimp only
  generalize hg1 : ({ g.advance run k with
      prog := if inH then (g.advance run k).prog else 0
      parked := k.sw && !(g.advance run k).pend.isEmpty
      wait := Wait.no
      held := none
      fresh := false } : Group) = g1
  have hp := settle_pathOnly g1 low
  generalize hg2 : settle g1 low = g2 at hp
  have hkeep := Group.mapMask_keeps (fun (l : Lane) => { l with pc := l.pc + comBytes k }) run g
  have hregmap := Group.mapMask_map (fun l => (l.v, l.pr)) (fun (l : Lane) => { l with pc := l.pc + comBytes k })
    (fun _ => rfl) run g
  have hrngmap := Group.mapMask_map (fun l => l.rng) (fun (l : Lane) => { l with pc := l.pc + comBytes k })
    (fun _ => rfl) run g
  have hlane := Group.lane_mapMask g run (fun (l : Lane) => { l with pc := l.pc + comBytes k })
  have hl1 : g1.lanes = (g.mapMask run (fun (l : Lane) => { l with pc := l.pc + comBytes k })).lanes := by
    rw [← hg1]; rfl
  have hs1 : g1.s = g.s := by rw [← hg1]; have q := congrArg Group.s hkeep; exact q
  have hpend1 : g1.pend = g.pend := by rw [← hg1]; have q := congrArg Group.pend hkeep; exact q
  have hmap2 {β : Type} (p : Lane → β) (hq : ∀ l, p l.still = p l) : g2.lanes.map p = g1.lanes.map p := by
    have h := congrArg (List.map p) hp.lanes
    simpa [List.map_map, Function.comp_def, hq] using h
  have hs2 : g2.s = g1.s := by have q := congrArg Group.s hp.rest; exact q
  have hpend2 : g2.pend = g1.pend := by have q := congrArg Group.pend hp.rest; exact q
  refine ⟨?_, ?_, ?_, ?_, ?_, ?_, ?_, ?_⟩
  · rw [Group.final_eq, Group.final_eq]
    have h1 : g2.regs = g.regs := by
      unfold Group.regs
      rw [hmap2 _ (fun _ => rfl), hl1, hregmap, hs2, hs1]
    rw [h1, hpend2, hpend1]
  · intro l
    have h1 := Group.still_lane hp.lanes l
    have h2 : (g2.lane l).pc = (g1.lane l).pc := by have q := congrArg Lane.pc h1; exact q
    have h3 : g1.lane l = (g.mapMask run (fun (l : Lane) => { l with pc := l.pc + comBytes k })).lane l := by
      unfold Group.lane; rw [hl1]
    rw [h2, h3, hlane l]
    by_cases h : inMask run l = true
    · simp [h, hrun l h]
    · simp [h]
  · rw [hmap2 _ (fun _ => rfl), hl1, hrngmap]
  · have h1 : g2.fflags = g1.fflags := by have q := congrArg Group.fflags hp.rest; exact q
    rw [h1, ← hg1]; have q := congrArg Group.fflags hkeep; exact q
  · have h1 : g2.prog = g1.prog := by have q := congrArg Group.prog hp.rest; exact q
    have h2 : (g.advance run k).prog = g.prog := by have q := congrArg Group.prog hkeep; exact q
    rw [h1, ← hg1, ← h2]
  · have h1 : g2.wait = g1.wait := by have q := congrArg Group.wait hp.rest; exact q
    rw [h1, ← hg1]
  · have h1 : g2.fixed = g1.fixed := by have q := congrArg Group.fixed hp.rest; exact q
    rw [h1, ← hg1]; have q := congrArg Group.fixed hkeep; exact q
  · rw [hpend2, hpend1]

theorem runMask_of_st {a b : Group} (h : a.lanes.map (fun l => l.st) = b.lanes.map (fun l => l.st)) :
    a.runMask = b.runMask := by
  unfold Group.runMask
  congr 1
  funext l
  have := congrArg (fun (x : List LaneSt) => x.getD l (Lane.none).st) h
  simp only [getD_map (fun (l : Lane) => l.st)] at this
  show ((a.lanes.getD l Lane.none).st == _) = ((b.lanes.getD l Lane.none).st == _)
  rw [this]

/-- A register form that executes and traps on nothing completes: its writes, flags and steps, and its path goes on. -/
theorem issueG_done (i : Instr) (k : Com) (rs : List (Opnd × Nat)) (b : GBody) (s : State) (gid : Nat) (g : Group)
    (o : Out) (h : Issues s gid g k rs) (hb : b (GCtx.make g k) = .ok o) :
    ∃ t g', issueG i k rs b s = .next t ∧ RegDone s t gid g g' k o := by
  unfold issueG
  rw [issue_runs i k rs (runG b) s gid g h]
  have hact : runG b gid (GCtx.make g k) s = .done (s.commit gid o) := by unfold runG; rw [hb]
  rw [hact]
  obtain ⟨hfr, hoth, g1, hg1, hfin, hpc, hst, hrng, hbody, hff⟩ := State.commit_spec s gid g o h.grp
  have hrunm : g1.runMask = g.runMask := runMask_of_st hst
  have hspec := Group.complete_spec g1 g.runMask g.inH k (GCtx.make g k).lowSlot (fun l hl => by
    rw [← hrunm] at hl; exact Group.run_lt g1 l hl)
  obtain ⟨c1, c2, c3, c4, c5, c6, c7, _⟩ := hspec
  have hlanepc : ∀ l, (g1.lane l).pc = (g.lane l).pc := by
    intro l
    have := congrArg (fun (x : List DWord) => x.getD l (Lane.none).pc) hpc
    simp only [getD_map (fun (l : Lane) => l.pc)] at this
    exact this
  have hprog : g1.prog = g.prog := by have h := congrArg Group.prog hbody; exact h
  have hfix : g1.fixed = g.fixed := by have h := congrArg Group.fixed hbody; exact h
  have hseen : (GCtx.make g k).g.inH = g.inH := by
    show g.seen.inH = g.inH
    unfold Group.seen
    cases g.held <;> rfl
  refine ⟨finish s gid (GCtx.make g k) (.done (s.commit gid o)),
    (g1.advance g.runMask k).complete g.inH k (GCtx.make g k).lowSlot, rfl, ?_⟩
  unfold finish
  dsimp only
  rw [hseen]
  have hgr : ((s.commit gid o).issued s (GCtx.make g k).g).groups = (s.commit gid o).groups := State.issued_groups _ _ _
  have hif := State.issued_frame (s.commit gid o) s (GCtx.make g k).g
  constructor
  · show SMap.get? (SMap.upd ((s.commit gid o).issued s (GCtx.make g k).g).groups gid _) gid = _
    rw [SMap.get?_upd_same, hgr, hg1]
    rfl
  · rw [c1, hfin]
  · intro l; rw [c2 l, hlanepc l]
  · rw [c3, hrng]
  · intro hc; rw [c4, hff hc]
  · rw [c5, hprog]
  · exact c6
  · have h := congrArg (fun (x : Group) => { x with
      lanes := g.lanes, s := g.s, stack := g.stack, prog := g.prog, fflags := g.fflags, pend := g.pend
      parked := g.parked, wait := g.wait, held := g.held, fresh := g.fresh }) (c7.trans hfix)
    exact h
  · intro j hj
    show (SMap.get? (SMap.upd ((s.commit gid o).issued s (GCtx.make g k).g).groups gid _) j).map _ = _
    rw [SMap.get?_upd_other _ _ _ _ hj, hgr]
    exact hoth j hj
  · have h1 := congrArg (fun (x : State) => { x with groups := s.groups, grids := s.grids, dies := s.dies, clusters := s.clusters }) hif
    have h2 := congrArg (fun (x : State) => { x with grids := s.grids, dies := s.dies }) hfr
    exact h1.trans h2

end Sys2Proof.Machine
end

