-- ==== Sys2Proof/Laws/PerInstr.lean ====
section
/-! SUPPORT. What is proved of every instruction, one lemma for each constructor: family LiteralWords, the literal words
of a well-formed instruction (03 R84). -/

namespace Sys2Proof.Laws.LiteralWords

open Sys2Proof

/-- Absent literal words are zero (R84). -/
def Tidy (l : Len) (imm ext : Word) : Prop := (l = .two → imm = 0 ∧ ext = 0) ∧ (l = .three → ext = 0)

/-- The words of a well-formed instruction that has an encoding hold zero in every literal word that its length leaves
out (R84). -/
def Statement (i : Instr) : Prop := i.wf = true → ∀ r, i.raw = some r → Tidy r.len r.imm r.ext

theorem andL {a b : Bool} (h : (a && b) = true) : a = true := by cases a <;> simp_all
theorem andR {a b : Bool} (h : (a && b) = true) : b = true := by cases a <;> simp_all

theorem none_holds {i : Instr} (h : i.raw = none) : Statement i := fun _ r hr => by simp [h] at hr

theorem some_holds {i : Instr} {r : Raw} (h : i.raw = some r) (t : i.wf = true → Tidy r.len r.imm r.ext) : Statement i :=
  fun w r' hr => by
    rw [h] at hr
    cases hr
    exact t w

theorem Com.tidy_words {k : Com} {a b : Need} (h : k.words a b = true) : Tidy k.len k.imm k.ext := by
  have h1 := andL (andL h)
  constructor <;> intro hl <;> simp_all

theorem Com.tidy_srcs {k : Com} {os : List (Opnd × Nat)} (h : k.srcs os = true) : Tidy k.len k.imm k.ext :=
  Com.tidy_words (andR h)

theorem Com.tidy_bare {k : Com} {u : Bool} (h : k.bare u = true) : Tidy k.len k.imm k.ext := Com.tidy_words (andR h)

theorem IArgs.tidy_ok {x : IArgs} {s : Bool} {d a b c : Nat} (h : x.ok s d a b c = true) : Tidy x.k.len x.k.imm x.k.ext :=
  Com.tidy_srcs (andR h)

theorem FArgs.tidy_ok {x : FArgs} {p q r : Bool} {d a b c : Nat} (h : x.ok p q r d a b c = true) :
    Tidy x.k.len x.k.imm x.k.ext := Com.tidy_srcs (andR h)

theorem CmpArgs.tidy_ok {x : CmpArgs} {n : Nat} (h : x.ok n = true) : Tidy x.k.len x.k.imm x.k.ext := Com.tidy_srcs h

theorem VoteArgs.tidy_ok {x : VoteArgs} (h : x.ok = true) : Tidy x.k.len x.k.imm x.k.ext := Com.tidy_bare (andR h)

theorem MArgs.tidy_load {x : MArgs} {n : Nat} (h : x.loadOk n = true) : Tidy x.k.len x.k.imm x.k.ext :=
  Com.tidy_words (andR h)

theorem MArgs.tidy_store {x : MArgs} {n : Nat} (h : x.storeOk n = true) : Tidy x.k.len x.k.imm x.k.ext :=
  Com.tidy_words (andR h)

theorem AtArgs.tidy_ok {x : AtArgs} {ts : List ATy} {c : Bool} (h : x.ok ts c = true) : Tidy x.k.len x.k.imm x.k.ext :=
  Com.tidy_words (andR h)

theorem MredArgs.tidy_ok {x : MredArgs} {l : Bool} (h : x.ok l = true) : Tidy x.k.len x.k.imm x.k.ext :=
  Com.tidy_words (andR (andL (andL h)))

theorem MmaArgs.tidy_ok {x : MmaArgs} (h : x.ok = true) : Tidy x.k.len x.k.imm x.k.ext := Com.tidy_words (andR h)

theorem CnMemArgs.tidy_ok {x : CnMemArgs} (h : x.ok = true) : Tidy x.k.len x.k.imm x.k.ext := Com.tidy_words (andR h)

theorem CnRegArgs.tidy_ok {x : CnRegArgs} (h : x.ok = true) : Tidy x.k.len x.k.imm x.k.ext := Com.tidy_words (andR h)

theorem AcpyArgs.tidy_ok {x : AcpyArgs} (h : x.ok = true) : Tidy x.k.len x.k.imm x.k.ext := Com.tidy_words (andR h)

theorem GthArgs.tidy_ok {x : GthArgs} (h : x.ok = true) : Tidy x.k.len x.k.imm x.k.ext := Com.tidy_words (andR h)

theorem AcolArgs.tidy_ok {x : AcolArgs} (h : x.ok = true) : Tidy x.k.len x.k.imm x.k.ext := Com.tidy_words (andR h)

theorem BarArgs.tidy_ok {x : BarArgs} (h : x.ok = true) : Tidy x.k.len x.k.imm x.k.ext := Com.tidy_bare (andL h)

theorem CsrArgs.tidy_ok {x : CsrArgs} {w : Bool} (h : x.ok w = true) : Tidy x.k.len x.k.imm x.k.ext := by
  simp only [CsrArgs.ok] at h
  split at h
  · cases w
    · exact Com.tidy_words (andR (andR h))
    · exact Com.tidy_srcs (andR h)
  · simp at h

theorem iadd (x : IArgs) : Statement (.iadd x) :=
  some_holds rfl (fun h => IArgs.tidy_ok h)
theorem isub (x : IArgs) : Statement (.isub x) :=
  some_holds rfl (fun h => IArgs.tidy_ok h)
theorem imulLo (x : IArgs) : Statement (.imulLo x) :=
  some_holds rfl (fun h => IArgs.tidy_ok h)
theorem imulHi (x : IArgs) : Statement (.imulHi x) :=
  some_holds rfl (fun h => IArgs.tidy_ok h)
theorem imulWide (x : IArgs) : Statement (.imulWide x) :=
  some_holds rfl (fun h => IArgs.tidy_ok (andR h))
theorem imad (x : IArgs) : Statement (.imad x) :=
  some_holds rfl (fun h => IArgs.tidy_ok h)
theorem imadWide (x : IArgs) : Statement (.imadWide x) :=
  some_holds rfl (fun h => IArgs.tidy_ok (andR h))
theorem idiv (x : IArgs) : Statement (.idiv x) :=
  some_holds rfl (fun h => IArgs.tidy_ok (andR h))
theorem irem (x : IArgs) : Statement (.irem x) :=
  some_holds rfl (fun h => IArgs.tidy_ok (andR h))
theorem imin (x : IArgs) : Statement (.imin x) :=
  some_holds rfl (fun h => IArgs.tidy_ok h)
theorem imax (x : IArgs) : Statement (.imax x) :=
  some_holds rfl (fun h => IArgs.tidy_ok h)
theorem iabs (x : IArgs) : Statement (.iabs x) :=
  some_holds rfl (fun h => IArgs.tidy_ok (andR h))
theorem ineg (x : IArgs) : Statement (.ineg x) :=
  some_holds rfl (fun h => IArgs.tidy_ok (andR h))
theorem addc (x : CarryArgs) : Statement (.addc x) :=
  some_holds rfl (fun h => Com.tidy_srcs (andR h))
theorem subb (x : CarryArgs) : Statement (.subb x) :=
  some_holds rfl (fun h => Com.tidy_srcs (andR h))
theorem lop (x : IArgs) (tt : Byte) : Statement (.lop x tt) :=
  some_holds rfl (fun h => IArgs.tidy_ok (andR h))
theorem shl (x : IArgs) : Statement (.shl x) :=
  some_holds rfl (fun h => IArgs.tidy_ok h)
theorem shr (x : IArgs) : Statement (.shr x) :=
  some_holds rfl (fun h => IArgs.tidy_ok h)
theorem sra (x : IArgs) : Statement (.sra x) :=
  some_holds rfl (fun h => IArgs.tidy_ok h)
theorem rotl (x : IArgs) : Statement (.rotl x) :=
  some_holds rfl (fun h => IArgs.tidy_ok h)
theorem rotr (x : IArgs) : Statement (.rotr x) :=
  some_holds rfl (fun h => IArgs.tidy_ok h)
theorem shfWin (x : IArgs) : Statement (.shfWin x) :=
  some_holds rfl (fun h => IArgs.tidy_ok (andR h))
theorem shfRot (x : IArgs) : Statement (.shfRot x) :=
  some_holds rfl (fun h => IArgs.tidy_ok (andR h))
theorem clz (x : IArgs) : Statement (.clz x) :=
  some_holds rfl (fun h => IArgs.tidy_ok (andR h))
theorem ctz (x : IArgs) : Statement (.ctz x) :=
  some_holds rfl (fun h => IArgs.tidy_ok (andR h))
theorem popc (x : IArgs) : Statement (.popc x) :=
  some_holds rfl (fun h => IArgs.tidy_ok (andR h))
theorem brev (x : IArgs) : Statement (.brev x) :=
  some_holds rfl (fun h => IArgs.tidy_ok (andR h))
theorem bswap (x : IArgs) : Statement (.bswap x) :=
  some_holds rfl (fun h => IArgs.tidy_ok (andR h))
theorem cls (x : IArgs) : Statement (.cls x) :=
  some_holds rfl (fun h => IArgs.tidy_ok (andR h))
theorem bfxU (x : IArgs) : Statement (.bfxU x) :=
  some_holds rfl (fun h => IArgs.tidy_ok (andR h))
theorem bfxS (x : IArgs) : Statement (.bfxS x) :=
  some_holds rfl (fun h => IArgs.tidy_ok (andR h))
theorem bfi (x : IArgs) : Statement (.bfi x) :=
  some_holds rfl (fun h => IArgs.tidy_ok (andR h))
theorem prmt (x : IArgs) : Statement (.prmt x) :=
  some_holds rfl (fun h => IArgs.tidy_ok (andR h))
theorem lea (x : IArgs) (n : BitVec 3) : Statement (.lea x n) :=
  some_holds rfl (fun h => IArgs.tidy_ok (andR h))
theorem idpDp4 (x : IArgs) (sa : Bool) (sb : Bool) : Statement (.idpDp4 x sa sb) :=
  some_holds rfl (fun h => IArgs.tidy_ok (andR h))
theorem idpDp2 (x : IArgs) : Statement (.idpDp2 x) :=
  some_holds rfl (fun h => IArgs.tidy_ok (andR h))
theorem sad (x : IArgs) : Statement (.sad x) :=
  some_holds rfl (fun h => IArgs.tidy_ok (andR h))
theorem cvti (x : IArgs) (dt : ITy) (e : BitVec 2) : Statement (.cvti x dt e) :=
  some_holds rfl (fun h => IArgs.tidy_ok (andL h))
theorem mov (x : IArgs) : Statement (.mov x) :=
  some_holds rfl (fun h => IArgs.tidy_ok (andR h))
theorem mov64 (x : IArgs) : Statement (.mov64 x) :=
  some_holds rfl (fun h => IArgs.tidy_ok (andR h))
theorem movl (x : IArgs) : Statement (.movl x) :=
  some_holds rfl (fun h => Com.tidy_words (andR h))
theorem movl64 (x : IArgs) : Statement (.movl64 x) :=
  some_holds rfl (fun h => Com.tidy_words (andR h))
theorem sel (x : IArgs) (p : PF) : Statement (.sel x p) :=
  some_holds rfl (fun h => IArgs.tidy_ok (andR h))
theorem sel64 (x : IArgs) (p : PF) : Statement (.sel64 x p) :=
  some_holds rfl (fun h => IArgs.tidy_ok (andR h))
theorem icmp (x : CmpArgs) (ty : ITy) (cc : ICc) : Statement (.icmp x ty cc) :=
  some_holds rfl (fun h => CmpArgs.tidy_ok (andR h))
theorem plop (k : Com) (tt : Byte) (pD : BitVec 3) (pA : BitVec 3) (pB : BitVec 3) (pC : BitVec 3) : Statement (.plop k tt pD pA pB pC) :=
  some_holds rfl (fun h => Com.tidy_words (show k.words .no .no = true from h))
theorem voteSome (x : VoteArgs) : Statement (.voteSome x) :=
  some_holds rfl (fun h => VoteArgs.tidy_ok h)
theorem voteEvery (x : VoteArgs) : Statement (.voteEvery x) :=
  some_holds rfl (fun h => VoteArgs.tidy_ok h)
theorem voteSame (x : VoteArgs) : Statement (.voteSame x) :=
  some_holds rfl (fun h => VoteArgs.tidy_ok h)
theorem voteMask (x : VoteArgs) : Statement (.voteMask x) :=
  some_holds rfl (fun h => VoteArgs.tidy_ok h)
theorem voteCount (x : VoteArgs) : Statement (.voteCount x) :=
  some_holds rfl (fun h => VoteArgs.tidy_ok h)
theorem voteFirst (x : VoteArgs) : Statement (.voteFirst x) :=
  some_holds rfl (fun h => VoteArgs.tidy_ok h)
theorem pmovGet (k : Com) (d : Opnd) : Statement (.pmovGet k d) :=
  some_holds rfl (fun h => Com.tidy_words (andR h))
theorem pmovSet (k : Com) (mask : BitVec 7) (a : Opnd) : Statement (.pmovSet k mask a) :=
  some_holds rfl (fun h => Com.tidy_srcs (andR h))
theorem bcast (x : IArgs) : Statement (.bcast x) :=
  some_holds rfl (fun h => IArgs.tidy_ok (andR h))
theorem rdlane (x : IArgs) : Statement (.rdlane x) :=
  some_holds rfl (fun h => Com.tidy_words (andR h))
theorem bcast64 (x : IArgs) : Statement (.bcast64 x) :=
  some_holds rfl (fun h => IArgs.tidy_ok (andR h))
theorem rdlane64 (x : IArgs) : Statement (.rdlane64 x) :=
  some_holds rfl (fun h => Com.tidy_words (andR h))
theorem fadd (x : FArgs) : Statement (.fadd x) :=
  some_holds rfl (fun h => FArgs.tidy_ok h)
theorem fsub (x : FArgs) : Statement (.fsub x) :=
  some_holds rfl (fun h => FArgs.tidy_ok h)
theorem fmul (x : FArgs) : Statement (.fmul x) :=
  some_holds rfl (fun h => FArgs.tidy_ok h)
theorem ffma (x : FArgs) : Statement (.ffma x) :=
  some_holds rfl (fun h => FArgs.tidy_ok h)
theorem fmin (x : FArgs) : Statement (.fmin x) :=
  some_holds rfl (fun h => FArgs.tidy_ok h)
theorem fmax (x : FArgs) : Statement (.fmax x) :=
  some_holds rfl (fun h => FArgs.tidy_ok h)
theorem fminnum (x : FArgs) : Statement (.fminnum x) :=
  some_holds rfl (fun h => FArgs.tidy_ok h)
theorem fmaxnum (x : FArgs) : Statement (.fmaxnum x) :=
  some_holds rfl (fun h => FArgs.tidy_ok h)
theorem fdiv (x : FArgs) : Statement (.fdiv x) :=
  some_holds rfl (fun h => FArgs.tidy_ok h)
theorem fsqrt (x : FArgs) : Statement (.fsqrt x) :=
  some_holds rfl (fun h => FArgs.tidy_ok h)
theorem frcpRcp (x : FArgs) : Statement (.frcpRcp x) :=
  some_holds rfl (fun h => FArgs.tidy_ok h)
theorem frcpRsq (x : FArgs) : Statement (.frcpRsq x) :=
  some_holds rfl (fun h => FArgs.tidy_ok h)
theorem fsfuExp2 (x : FArgs) : Statement (.fsfuExp2 x) :=
  some_holds rfl (fun h => FArgs.tidy_ok (andR h))
theorem fsfuLog2 (x : FArgs) : Statement (.fsfuLog2 x) :=
  some_holds rfl (fun h => FArgs.tidy_ok (andR h))
theorem fsfuSin (x : FArgs) : Statement (.fsfuSin x) :=
  some_holds rfl (fun h => FArgs.tidy_ok (andR h))
theorem fsfuCos (x : FArgs) : Statement (.fsfuCos x) :=
  some_holds rfl (fun h => FArgs.tidy_ok (andR h))
theorem fsfuTanh (x : FArgs) : Statement (.fsfuTanh x) :=
  some_holds rfl (fun h => FArgs.tidy_ok (andR h))
theorem hdot2F16 (x : FArgs) : Statement (.hdot2F16 x) :=
  some_holds rfl (fun h => FArgs.tidy_ok (andR h))
theorem hdot2Bf16 (x : FArgs) : Statement (.hdot2Bf16 x) :=
  some_holds rfl (fun h => FArgs.tidy_ok (andR h))
theorem fscale (x : FArgs) : Statement (.fscale x) :=
  some_holds rfl (fun h => FArgs.tidy_ok h)
theorem fxtrExp (x : FArgs) : Statement (.fxtrExp x) :=
  some_holds rfl (fun h => FArgs.tidy_ok h)
theorem fxtrSig (x : FArgs) : Statement (.fxtrSig x) :=
  some_holds rfl (fun h => FArgs.tidy_ok h)
theorem frnd (x : RArgs) : Statement (.frnd x) :=
  some_holds rfl (fun h => Com.tidy_srcs (andR h))
theorem fcmpX (x : CmpArgs) (ft : FTy) (ma : FMod) (mb : FMod) (cc : FCc) : Statement (.fcmpX x ft ma mb cc) :=
  some_holds rfl (fun h => CmpArgs.tidy_ok (andR h))
theorem fcmpR (x : CmpArgs) (ft : FTy) (ma : FMod) (mb : FMod) (cc : FCc) (rm : RM) : Statement (.fcmpR x ft ma mb cc rm) :=
  some_holds rfl (fun h => CmpArgs.tidy_ok (andR h))
theorem fclass (x : FArgs) : Statement (.fclass x) :=
  some_holds rfl (fun h => FArgs.tidy_ok h)
theorem fclassP (k : Com) (ft : FTy) (pD : BitVec 3) (a : Opnd) (b : Opnd) : Statement (.fclassP k ft pD a b) :=
  some_holds rfl (fun h => Com.tidy_srcs (andR h))
theorem fcvt (k : Com) (df : FTy) (sf : FTy) (e : Bool) (d : Opnd) (a : Opnd) (b : Opnd) : Statement (.fcvt k df sf e d a b) :=
  some_holds rfl (fun h => Com.tidy_srcs (andR h))
theorem icvtf (k : Com) (df : FTy) (st : BitVec 2) (d : Opnd) (a : Opnd) (b : Opnd) : Statement (.icvtf k df st d a b) :=
  some_holds rfl (fun h => Com.tidy_srcs (andR h))
theorem fcvti (x : RArgs) (dt : BitVec 2) (sat : Bool) (e : Bool) : Statement (.fcvti x dt sat e) :=
  some_holds rfl (fun h => Com.tidy_srcs (andR h))
theorem fin (x : RArgs) : Statement (.fin x) :=
  some_holds rfl (fun h => Com.tidy_srcs (andR h))
theorem glzGet (x : FArgs) : Statement (.glzGet x) :=
  some_holds rfl (fun h => FArgs.tidy_ok h)
theorem glzSet (x : FArgs) : Statement (.glzSet x) :=
  some_holds rfl (fun h => FArgs.tidy_ok h)
theorem glzClr (x : FArgs) : Statement (.glzClr x) :=
  some_holds rfl (fun h => FArgs.tidy_ok h)
theorem glzTest (k : Com) (ft : FTy) (pD : BitVec 3) (a : Opnd) : Statement (.glzTest k ft pD a) :=
  some_holds rfl (fun h => Com.tidy_srcs h)
theorem mxsc (k : Com) (ef : EF) (d : Opnd) (a : Opnd) : Statement (.mxsc k ef d a) :=
  some_holds rfl (fun h => Com.tidy_words (andR h))
theorem fpk (k : Com) (ef : EF) (rm : RM) (sat : Bool) (scm : Fin 3) (d : Opnd) (a : Opnd) (b : Opnd) (c : Opnd) : Statement (.fpk k ef rm sat scm d a b c) :=
  some_holds rfl (fun h => Com.tidy_srcs (andR h))
theorem fupk (k : Com) (ef : EF) (scm : Fin 2) (d : Opnd) (a : Opnd) (b : Opnd) : Statement (.fupk k ef scm d a b) :=
  some_holds rfl (fun h => Com.tidy_srcs (andR h))
theorem rng (k : Com) (d : Opnd) : Statement (.rng k d) :=
  some_holds rfl (fun h => Com.tidy_words (andR h))
theorem braWhole (k : Com) : Statement (.braWhole k) :=
  some_holds rfl (fun h => Com.tidy_words (andR h))
theorem braD (k : Com) : Statement (.braD k) :=
  some_holds rfl (fun h => Com.tidy_words (andR h))
theorem braEj (k : Com) : Statement (.braEj k) :=
  some_holds rfl (fun h => Com.tidy_words (andR h))
theorem brxD (k : Com) (a : Opnd) : Statement (.brxD k a) :=
  some_holds rfl (fun h => Com.tidy_words (andR h))
theorem brxWhole (k : Com) (a : Opnd) : Statement (.brxWhole k a) :=
  some_holds rfl (fun h => Com.tidy_words (andR h))
theorem call (k : Com) (d : Opnd) : Statement (.call k d) :=
  some_holds rfl (fun h => Com.tidy_words (andR h))
theorem callX (k : Com) (d : Opnd) (a : Opnd) : Statement (.callX k d a) :=
  some_holds rfl (fun h => Com.tidy_words (andR h))
theorem ret (k : Com) (a : Opnd) : Statement (.ret k a) :=
  some_holds rfl (fun h => Com.tidy_words (andR h))
theorem fcs (k : Com) : Statement (.fcs k) :=
  some_holds rfl (fun h => Com.tidy_bare h)
theorem exit (k : Com) : Statement (.exit k) :=
  some_holds rfl (fun h => Com.tidy_bare h)
theorem pswp (k : Com) : Statement (.pswp k) :=
  some_holds rfl (fun h => Com.tidy_bare h)
theorem compactReturn (gid : Nat) : Statement (.compactReturn gid) := none_holds rfl
theorem lmap (k : Com) (d : Opnd) : Statement (.lmap k d) :=
  some_holds rfl (fun h => Com.tidy_words (andR h))
theorem lmapRd (k : Com) (d : Opnd) (b : Opnd) : Statement (.lmapRd k d b) :=
  some_holds rfl (fun h => Com.tidy_srcs (andR h))
theorem shflSel (x : ShArgs) : Statement (.shflSel x) :=
  some_holds rfl (fun h => Com.tidy_words (andR (andL h)))
theorem shflSlide (x : ShArgs) : Statement (.shflSlide x) :=
  some_holds rfl (fun h => Com.tidy_words (andR (andL h)))
theorem shflRot (x : ShArgs) : Statement (.shflRot x) :=
  some_holds rfl (fun h => Com.tidy_words (andR (andL h)))
theorem shflFlip (x : ShArgs) : Statement (.shflFlip x) :=
  some_holds rfl (fun h => Com.tidy_words (andR (andL h)))
theorem redux (k : Com) (op : RedOp) (d : Opnd) (a : Opnd) : Statement (.redux k op d a) :=
  some_holds rfl (fun h => Com.tidy_words (andR h))
theorem scan (k : Com) (op : RedOp) (ex : Bool) (d : Opnd) (a : Opnd) : Statement (.scan k op ex d a) :=
  some_holds rfl (fun h => Com.tidy_words (andR h))
theorem isectM (k : Com) (pD : BitVec 3) (a : Opnd) (b : Opnd) : Statement (.isectM k pD a b) :=
  some_holds rfl (fun h => Com.tidy_words (andR h))
theorem isectIx (k : Com) (d : Opnd) (a : Opnd) (b : Opnd) : Statement (.isectIx k d a b) :=
  some_holds rfl (fun h => Com.tidy_words (andR h))
theorem isectAdv (k : Com) (d : Opnd) (a : Opnd) (b : Opnd) : Statement (.isectAdv k d a b) :=
  some_holds rfl (fun h => Com.tidy_words (andR h))
theorem vsortAsc (k : Com) (kt : Kt) (d : Opnd) (a : Opnd) (b : Opnd) : Statement (.vsortAsc k kt d a b) :=
  some_holds rfl (fun h => Com.tidy_words (andR h))
theorem vsortDesc (k : Com) (kt : Kt) (d : Opnd) (a : Opnd) (b : Opnd) : Statement (.vsortDesc k kt d a b) :=
  some_holds rfl (fun h => Com.tidy_words (andR h))
theorem matchPeers (k : Com) (w64 : Bool) (d : Opnd) (a : Opnd) : Statement (.matchPeers k w64 d a) :=
  some_holds rfl (fun h => Com.tidy_words (andR h))
theorem matchUni (k : Com) (w64 : Bool) (d : Opnd) (a : Opnd) : Statement (.matchUni k w64 d a) :=
  some_holds rfl (fun h => Com.tidy_words (andR h))
theorem matchLead (k : Com) (w64 : Bool) (d : Opnd) (a : Opnd) : Statement (.matchLead k w64 d a) :=
  some_holds rfl (fun h => Com.tidy_words (andR h))
theorem ld (x : MArgs) (w : LdW) : Statement (.ld x w) :=
  some_holds rfl (fun h => MArgs.tidy_load h)
theorem st (x : MArgs) (w : LdW) : Statement (.st x w) :=
  some_holds rfl (fun h => MArgs.tidy_store (andR h))
theorem ldc (x : MArgs) (f : LdcF) : Statement (.ldc x f) :=
  some_holds rfl (fun h => MArgs.tidy_load (andR h))
theorem stc (x : StcArgs) : Statement (.stc x) :=
  some_holds rfl (fun h => Com.tidy_words (andR h))
theorem spill (x : SpArgs) : Statement (.spill x) :=
  some_holds rfl (fun h => Com.tidy_words (andR h))
theorem fill (x : SpArgs) : Statement (.fill x) :=
  some_holds rfl (fun h => Com.tidy_words (andR h))
theorem atomXchg (x : AtArgs) : Statement (.atomXchg x) :=
  some_holds rfl (fun h => AtArgs.tidy_ok (andR h))
theorem atomAdd (x : AtArgs) : Statement (.atomAdd x) :=
  some_holds rfl (fun h => AtArgs.tidy_ok h)
theorem atomAnd (x : AtArgs) : Statement (.atomAnd x) :=
  some_holds rfl (fun h => AtArgs.tidy_ok h)
theorem atomOr (x : AtArgs) : Statement (.atomOr x) :=
  some_holds rfl (fun h => AtArgs.tidy_ok h)
theorem atomXor (x : AtArgs) : Statement (.atomXor x) :=
  some_holds rfl (fun h => AtArgs.tidy_ok h)
theorem atomMin (x : AtArgs) : Statement (.atomMin x) :=
  some_holds rfl (fun h => AtArgs.tidy_ok h)
theorem atomMax (x : AtArgs) : Statement (.atomMax x) :=
  some_holds rfl (fun h => AtArgs.tidy_ok h)
theorem atomFadd (x : AtArgs) : Statement (.atomFadd x) :=
  some_holds rfl (fun h => AtArgs.tidy_ok (andR h))
theorem atomFmin (x : AtArgs) : Statement (.atomFmin x) :=
  some_holds rfl (fun h => AtArgs.tidy_ok (andR h))
theorem atomFmax (x : AtArgs) : Statement (.atomFmax x) :=
  some_holds rfl (fun h => AtArgs.tidy_ok (andR h))
theorem cas (x : AtArgs) : Statement (.cas x) :=
  some_holds rfl (fun h => AtArgs.tidy_ok h)
theorem atmsAdd (x : AtArgs) : Statement (.atmsAdd x) :=
  some_holds rfl (fun h => AtArgs.tidy_ok (andR h))
theorem atmsMin (x : AtArgs) : Statement (.atmsMin x) :=
  some_holds rfl (fun h => AtArgs.tidy_ok (andR h))
theorem atmsMax (x : AtArgs) : Statement (.atmsMax x) :=
  some_holds rfl (fun h => AtArgs.tidy_ok (andR h))
theorem atmsXchg (x : AtArgs) : Statement (.atmsXchg x) :=
  some_holds rfl (fun h => AtArgs.tidy_ok (andR h))
theorem atmsFadd (x : AtArgs) : Statement (.atmsFadd x) :=
  some_holds rfl (fun h => AtArgs.tidy_ok (andR h))
theorem atmsCas (x : AtArgs) : Statement (.atmsCas x) :=
  some_holds rfl (fun h => AtArgs.tidy_ok (andR h))
theorem mredLine (x : MredArgs) : Statement (.mredLine x) :=
  some_holds rfl (fun h => MredArgs.tidy_ok h)
theorem mredRet (x : MredArgs) : Statement (.mredRet x) :=
  some_holds rfl (fun h => MredArgs.tidy_ok h)
theorem pfL1 (x : LnArgs) : Statement (.pfL1 x) :=
  some_holds rfl (fun h => Com.tidy_words (andR h))
theorem pfL2 (x : LnArgs) : Statement (.pfL2 x) :=
  some_holds rfl (fun h => Com.tidy_words (andR h))
theorem pfMsc (x : LnArgs) : Statement (.pfMsc x) :=
  some_holds rfl (fun h => Com.tidy_words (andR h))
theorem cmntWb (x : LnArgs) : Statement (.cmntWb x) :=
  some_holds rfl (fun h => Com.tidy_words (andR h))
theorem cmntInv (x : LnArgs) : Statement (.cmntInv x) :=
  some_holds rfl (fun h => Com.tidy_words (andR h))
theorem cmntIc (x : LnArgs) : Statement (.cmntIc x) :=
  some_holds rfl (fun h => Com.tidy_words (andR h))
theorem tierPin (x : TierArgs) : Statement (.tierPin x) :=
  some_holds rfl (fun h => Com.tidy_words (andR h))
theorem tierUnpin (x : TierArgs) : Statement (.tierUnpin x) :=
  some_holds rfl (fun h => Com.tidy_words (andR h))
theorem tierPromoteHint (x : TierArgs) : Statement (.tierPromoteHint x) :=
  some_holds rfl (fun h => Com.tidy_words (andR h))
theorem tierDemote (x : TierArgs) : Statement (.tierDemote x) :=
  some_holds rfl (fun h => Com.tidy_words (andR h))
theorem tierStatusReturn (op : Nat) : Statement (.tierStatusReturn op) := none_holds rfl
theorem fnc (k : Com) (scope : Scope) (pred : Byte) (succ : Byte) : Statement (.fnc k scope pred succ) :=
  some_holds rfl (fun h => Com.tidy_bare h)
theorem mma (x : MmaArgs) : Statement (.mma x) :=
  some_holds rfl (fun h => MmaArgs.tidy_ok h)
theorem mlutB (k : Com) (n1 : BitVec 2) (cf : CF) (a : Opnd) (b : Opnd) : Statement (.mlutB k n1 cf a b) :=
  some_holds rfl (fun h => Com.tidy_words (andR h))
theorem mlutA (x : LutArgs) : Statement (.mlutA x) :=
  some_holds rfl (fun h => Com.tidy_words (andR h))
theorem cnalAlloc (k : Com) (pD : BitVec 3) (ty : CTy) (cf : CF) : Statement (.cnalAlloc k pD ty cf) :=
  some_holds rfl (fun h => Com.tidy_bare (andL h))
theorem cnalGrow (k : Com) (pD : BitVec 3) (b : Opnd) : Statement (.cnalGrow k pD b) :=
  some_holds rfl (fun h => Com.tidy_words (andR h))
theorem cnalGrowW (k : Com) (pD : BitVec 3) (b : Opnd) : Statement (.cnalGrowW k pD b) :=
  some_holds rfl (fun h => Com.tidy_words (andR h))
theorem canvasGrowGrant (cl : Nat) : Statement (.canvasGrowGrant cl) := none_holds rfl
theorem cnalFree (k : Com) (cf : CF) : Statement (.cnalFree k cf) :=
  some_holds rfl (fun h => Com.tidy_bare (andL h))
theorem cnalTrim (k : Com) (b : Opnd) : Statement (.cnalTrim k b) :=
  some_holds rfl (fun h => Com.tidy_words (andR h))
theorem cnz (k : Com) (cf : CF) : Statement (.cnz k cf) :=
  some_holds rfl (fun h => Com.tidy_bare (andL h))
theorem cnldMem (x : CnMemArgs) : Statement (.cnldMem x) :=
  some_holds rfl (fun h => CnMemArgs.tidy_ok (andR h))
theorem cnldReg (x : CnRegArgs) : Statement (.cnldReg x) :=
  some_holds rfl (fun h => CnRegArgs.tidy_ok (andR h))
theorem cnstMem (x : CnMemArgs) : Statement (.cnstMem x) :=
  some_holds rfl (fun h => CnMemArgs.tidy_ok (andR h))
theorem cnstReg (x : CnRegArgs) : Statement (.cnstReg x) :=
  some_holds rfl (fun h => CnRegArgs.tidy_ok (andR h))
theorem cnrowMax (k : Com) (cf : CF) (r : Opnd) : Statement (.cnrowMax k cf r) :=
  some_holds rfl (fun h => Com.tidy_bare (andL (andL h)))
theorem cnrowSum (k : Com) (cf : CF) (r : Opnd) : Statement (.cnrowSum k cf r) :=
  some_holds rfl (fun h => Com.tidy_bare (andL (andL h)))
theorem cnrowScl (k : Com) (cf : CF) (r : Opnd) : Statement (.cnrowScl k cf r) :=
  some_holds rfl (fun h => Com.tidy_bare (andL (andL h)))
theorem cnrowCscl (k : Com) (cf : CF) (r : Opnd) : Statement (.cnrowCscl k cf r) :=
  some_holds rfl (fun h => Com.tidy_bare (andL (andL h)))
theorem mwait (k : Com) : Statement (.mwait k) :=
  some_holds rfl (fun h => Com.tidy_bare h)
theorem mwaitM (k : Com) (cf : CF) : Statement (.mwaitM k cf) :=
  some_holds rfl (fun h => Com.tidy_bare (andL h))
theorem easelGrant (cl : Nat) : Statement (.easelGrant cl) := none_holds rfl
theorem easelOpComplete (cl : Nat) : Statement (.easelOpComplete cl) := none_holds rfl
theorem acpy (x : AcpyArgs) : Statement (.acpy x) :=
  some_holds rfl (fun h => AcpyArgs.tidy_ok h)
theorem agth (x : GthArgs) : Statement (.agth x) :=
  some_holds rfl (fun h => GthArgs.tidy_ok h)
theorem asct (x : GthArgs) : Statement (.asct x) :=
  some_holds rfl (fun h => GthArgs.tidy_ok h)
theorem copyComplete (op : Nat) : Statement (.copyComplete op) := none_holds rfl
theorem tkwAll (k : Com) (clr : Bool) (a : Opnd) : Statement (.tkwAll k clr a) :=
  some_holds rfl (fun h => Com.tidy_words (andR h))
theorem tkwAny (k : Com) (clr : Bool) (d : Opnd) (a : Opnd) : Statement (.tkwAny k clr d a) :=
  some_holds rfl (fun h => Com.tidy_words (andR h))
theorem tkt (k : Com) (pD : BitVec 3) (t : BitVec 4) : Statement (.tkt k pD t) :=
  some_holds rfl (fun h => Com.tidy_bare h)
theorem tktErr (k : Com) (pD : BitVec 3) (t : BitVec 4) : Statement (.tktErr k pD t) :=
  some_holds rfl (fun h => Com.tidy_bare h)
theorem tktSt (k : Com) (d : Opnd) (t : BitVec 4) : Statement (.tktSt k d t) :=
  some_holds rfl (fun h => Com.tidy_bare (andL h))
theorem evq (k : Com) (eng : Bool) (a : Opnd) : Statement (.evq k eng a) :=
  some_holds rfl (fun h => Com.tidy_words (andR h))
theorem eventRecordTake (cl : Nat) : Statement (.eventRecordTake cl) := none_holds rfl
theorem acolAllred (x : AcolArgs) : Statement (.acolAllred x) :=
  some_holds rfl (fun h => AcolArgs.tidy_ok h)
theorem acolAllgath (x : AcolArgs) : Statement (.acolAllgath x) :=
  some_holds rfl (fun h => AcolArgs.tidy_ok h)
theorem acolRedscat (x : AcolArgs) : Statement (.acolRedscat x) :=
  some_holds rfl (fun h => AcolArgs.tidy_ok h)
theorem collectiveComplete (comm : Nat) (rank : Nat) : Statement (.collectiveComplete comm rank) := none_holds rfl
theorem barArrive (x : BarArgs) : Statement (.barArrive x) :=
  some_holds rfl (fun h => BarArgs.tidy_ok h)
theorem barWait (x : BarArgs) : Statement (.barWait x) :=
  some_holds rfl (fun h => BarArgs.tidy_ok h)
theorem barSync (x : BarArgs) : Statement (.barSync x) :=
  some_holds rfl (fun h => BarArgs.tidy_ok h)
theorem barrierArrivalForward (grid : Nat) (n : Nat) : Statement (.barrierArrivalForward grid n) := none_holds rfl
theorem gate (k : Com) : Statement (.gate k) :=
  some_holds rfl (fun h => Com.tidy_bare h)
theorem rels (k : Com) (eng : Bool) : Statement (.rels k eng) :=
  some_holds rfl (fun h => Com.tidy_bare h)
theorem rtskSpawn (k : Com) (ap : BitVec 3) (t : Option (BitVec 4)) (a : Opnd) : Statement (.rtskSpawn k ap t a) :=
  some_holds rfl (fun h => Com.tidy_words (andR h))
theorem rtskDone (k : Com) : Statement (.rtskDone k) :=
  some_holds rfl (fun h => Com.tidy_bare h)
theorem susp (k : Com) (scope : Scope) (rights : BitVec 4) (ap : BitVec 3) (a : Opnd) (b : Opnd) : Statement (.susp k scope rights ap a b) :=
  some_holds rfl (fun h => Com.tidy_bare (andL (andL (andL (andL h)))))
theorem resm (k : Com) (scope : Scope) (ap : BitVec 3) (pD : BitVec 3) (a : Opnd) : Statement (.resm k scope ap pD a) :=
  some_holds rfl (fun h => Com.tidy_bare (andL (andL (andL h))))
theorem resmJoin (k : Com) (scope : Scope) (ap : BitVec 3) (pD : BitVec 3) (a : Opnd) : Statement (.resmJoin k scope ap pD a) :=
  some_holds rfl (fun h => Com.tidy_bare (andL (andL (andL h))))
theorem ccpy (k : Com) (rights : BitVec 4) (sap : BitVec 3) (dap : BitVec 3) (a : Opnd) (b : Opnd) (c : Opnd) : Statement (.ccpy k rights sap dap a b c) :=
  some_holds rfl (fun h => Com.tidy_bare (andL (andL (andL (andL (andL h))))))
theorem cdsc (k : Com) (ap : BitVec 3) (a : Opnd) : Statement (.cdsc k ap a) :=
  some_holds rfl (fun h => Com.tidy_bare (andL (andL h)))
theorem nop (k : Com) : Statement (.nop k) :=
  some_holds rfl (fun h => Com.tidy_bare h)
theorem csrRd (x : CsrArgs) : Statement (.csrRd x) :=
  some_holds rfl (fun h => CsrArgs.tidy_ok h)
theorem csrWr (x : CsrArgs) : Statement (.csrWr x) :=
  some_holds rfl (fun h => CsrArgs.tidy_ok h)
theorem csrSet (x : CsrArgs) : Statement (.csrSet x) :=
  some_holds rfl (fun h => CsrArgs.tidy_ok h)
theorem csrClr (x : CsrArgs) : Statement (.csrClr x) :=
  some_holds rfl (fun h => CsrArgs.tidy_ok h)
theorem trap (k : Com) : Statement (.trap k) :=
  some_holds rfl (fun h => Com.tidy_words (andR h))
theorem brkp (k : Com) : Statement (.brkp k) :=
  some_holds rfl (fun h => Com.tidy_words (andR h))
theorem rte (k : Com) : Statement (.rte k) :=
  some_holds rfl (fun h => Com.tidy_bare h)
theorem rteNx (k : Com) : Statement (.rteNx k) :=
  some_holds rfl (fun h => Com.tidy_bare h)
theorem stop (k : Com) : Statement (.stop k) :=
  some_holds rfl (fun h => Com.tidy_words (andR h))
theorem unassignedOpcode (w0 : Word) (w1 : Word) : Statement (.unassignedOpcode w0 w1) := none_holds rfl
theorem renewReceive (die : Nat) (term : Nat) : Statement (.renewReceive die term) := none_holds rfl
theorem claimReceive (die : Nat) (src : Nat) (term : Nat) : Statement (.claimReceive die src term) := none_holds rfl
theorem resultReturn (gid : Nat) (idx : Nat) (lanes : Word) : Statement (.resultReturn gid idx lanes) := none_holds rfl
theorem trapEntry (gid : Nat) (cause : Byte) (tval : DWord) (tvalh : Half) : Statement (.trapEntry gid cause tval tvalh) := none_holds rfl
theorem groupStateLost (gid : Nat) (part : Byte) (num : LostErr) : Statement (.groupStateLost gid part num) := none_holds rfl
theorem regfileError (gid : Nat) (reg : Opnd) (lane : Nat) (corrected : Bool) : Statement (.regfileError gid reg lane corrected) := none_holds rfl
theorem memoryUnitError (pa : Nat) (corrected : UnitErr) : Statement (.memoryUnitError pa corrected) := none_holds rfl
theorem groupRetire (gid : Nat) : Statement (.groupRetire gid) := none_holds rfl
theorem launch (w : NotifyWr) : Statement (.launch w) := none_holds rfl
theorem destroy (w : NotifyWr) : Statement (.destroy w) := none_holds rfl
theorem destroyF (w : NotifyWr) : Statement (.destroyF w) := none_holds rfl
theorem preempt (w : NotifyWr) : Statement (.preempt w) := none_holds rfl
theorem cutWrite (ctx : Nat) : Statement (.cutWrite ctx) := none_holds rfl
theorem restore (w : NotifyWr) : Statement (.restore w) := none_holds rfl
theorem gridDispatchStart (grid : Nat) : Statement (.gridDispatchStart grid) := none_holds rfl
theorem fairShareCharge (die : Nat) : Statement (.fairShareCharge die) := none_holds rfl
theorem workRequest (req : Nat) : Statement (.workRequest req) := none_holds rfl
theorem teamPrepare (core : Nat) : Statement (.teamPrepare core) := none_holds rfl
theorem teamRunnable (core : Nat) : Statement (.teamRunnable core) := none_holds rfl
theorem gridComplete (grid : Nat) : Statement (.gridComplete grid) := none_holds rfl
theorem mredPacketApply (op : Nat) (idx : Nat) : Statement (.mredPacketApply op idx) := none_holds rfl
theorem tierPromote (vd : Nat) (obj : Nat) : Statement (.tierPromote vd obj) := none_holds rfl
theorem tierPromotionComplete (vd : Nat) (obj : Nat) : Statement (.tierPromotionComplete vd obj) := none_holds rfl
theorem tierDemotionComplete (vd : Nat) (obj : Nat) : Statement (.tierDemotionComplete vd obj) := none_holds rfl
theorem tierFailure (vd : Nat) (obj : Nat) (lost : Bool) : Statement (.tierFailure vd obj lost) := none_holds rfl
theorem read (die : Nat) (stack : Nat) (p : BasePkt) : Statement (.read die stack p) := none_holds rfl
theorem write (die : Nat) (stack : Nat) (p : BasePkt) : Statement (.write die stack p) := none_holds rfl
theorem atomic (die : Nat) (stack : Nat) (p : BasePkt) : Statement (.atomic die stack p) := none_holds rfl
theorem reduce (die : Nat) (stack : Nat) (p : BasePkt) : Statement (.reduce die stack p) := none_holds rfl
theorem status (die : Nat) (stack : Nat) (p : BasePkt) : Statement (.status die stack p) := none_holds rfl
theorem packetReply (die : Nat) (stack : Nat) (tag : BitVec 12) : Statement (.packetReply die stack tag) := none_holds rfl
theorem backoffWindowEnd (die : Nat) (stack : Nat) (bank : Nat) : Statement (.backoffWindowEnd die stack bank) := none_holds rfl
theorem rgctlWrite (die : Nat) (stack : Nat) (val : Word) : Statement (.rgctlWrite die stack val) := none_holds rfl
theorem watchWrite (die : Nat) (stack : Nat) (w : Fin 16) (val : Word) : Statement (.watchWrite die stack w val) := none_holds rfl
theorem registerWrite (r : DevReg) (val : DWord) : Statement (.registerWrite r val) := none_holds rfl
theorem meshFlitRetry (a : Nat) (b : Nat) : Statement (.meshFlitRetry a b) := none_holds rfl
theorem updateApply (die : Nat) (idx : Nat) : Statement (.updateApply die idx) := none_holds rfl
theorem guestInvalidate (die : Nat) (line : Nat) : Statement (.guestInvalidate die line) := none_holds rfl
theorem linkFail (a : Nat) (b : Nat) : Statement (.linkFail a b) := none_holds rfl
theorem meshLaneSpare (a : Nat) (b : Nat) : Statement (.meshLaneSpare a b) := none_holds rfl
theorem hostSnoop (line : Nat) : Statement (.hostSnoop line) := none_holds rfl
theorem hostMemRequest (r : HostReq) : Statement (.hostMemRequest r) := none_holds rfl
theorem backInvalidate (line : Nat) (req : Nat) (data : LineData) : Statement (.backInvalidate line req data) := none_holds rfl
theorem targetLost (target : Nat) (ext : Option (Nat × Nat)) : Statement (.targetLost target ext) := none_holds rfl
theorem fwtcntWrite (val : Word) : Statement (.fwtcntWrite val) := none_holds rfl
theorem commcntWrite (val : Word) : Statement (.commcntWrite val) := none_holds rfl
theorem netcntWrite (val : Word) : Statement (.netcntWrite val) := none_holds rfl
theorem tacccntWrite (val : Word) : Statement (.tacccntWrite val) := none_holds rfl
theorem data (p : NetPkt) : Statement (.data p) := none_holds rfl
theorem ack (p : NetPkt) : Statement (.ack p) := none_holds rfl
theorem nack (p : NetPkt) : Statement (.nack p) := none_holds rfl
theorem abort (p : NetPkt) : Statement (.abort p) := none_holds rfl
theorem resendTimeout (comm : Nat) (src : Nat) (dst : Nat) : Statement (.resendTimeout comm src dst) := none_holds rfl
theorem doorbell (vd : Nat) (die : Nat) (slot : Nat) : Statement (.doorbell vd die slot) := none_holds rfl
theorem taskSigned (vd : Nat) (die : Nat) (slot : Nat) : Statement (.taskSigned vd die slot) := none_holds rfl
theorem taskAck (vd : Nat) (die : Nat) (slot : Nat) : Statement (.taskAck vd die slot) := none_holds rfl
theorem taskPacket (bytes : List Byte) (ecdsa : List Byte) (lms : List Byte) : Statement (.taskPacket bytes ecdsa lms) := none_holds rfl
theorem extentGrant (base : Nat) (size : Nat) (tag : Nat) (holder : Nat) : Statement (.extentGrant base size tag holder) := none_holds rfl
theorem extentRelease (base : ExtHold) : Statement (.extentRelease base) := none_holds rfl
theorem tlbiCtx (c : OwnCmd) : Statement (.tlbiCtx c) := none_holds rfl
theorem tlbiVa (c : OwnCmd) : Statement (.tlbiVa c) := none_holds rfl
theorem ctxsync (c : OwnCmd) : Statement (.ctxsync c) := none_holds rfl
theorem dbgrel (c : OwnCmd) : Statement (.dbgrel c) := none_holds rfl
theorem report (c : OwnCmd) : Statement (.report c) := none_holds rfl
theorem tlbiS2 (c : OwnCmd) : Statement (.tlbiS2 c) := none_holds rfl
theorem vdreset (c : OwnCmd) : Statement (.vdreset c) := none_holds rfl
theorem vdsave (c : OwnCmd) : Statement (.vdsave c) := none_holds rfl
theorem vdload (c : OwnCmd) : Statement (.vdload c) := none_holds rfl
theorem keygen (c : OwnCmd) : Statement (.keygen c) := none_holds rfl
theorem vdEnable (vd : Nat) : Statement (.vdEnable vd) := none_holds rfl
theorem remapUnmask (vd : Nat) (i : Nat) : Statement (.remapUnmask vd i) := none_holds rfl
theorem powerOn : Statement (.powerOn) := none_holds rfl
theorem trainingComplete (die : Nat) (ok : Bool) : Statement (.trainingComplete die ok) := none_holds rfl
theorem neg : Statement (.neg) := none_holds rfl
theorem recoveryImage (img : FwCopy) (which : Bool) : Statement (.recoveryImage img which) := none_holds rfl
theorem svnRaise (die : Nat) : Statement (.svnRaise die) := none_holds rfl
theorem rlbaseWrite (val : DWord) : Statement (.rlbaseWrite val) := none_holds rfl
theorem renew (die : Nat) : Statement (.renew die) := none_holds rfl
theorem leaseLapse (die : Nat) : Statement (.leaseLapse die) := none_holds rfl
theorem claim (die : Nat) : Statement (.claim die) := none_holds rfl
theorem viral (die : Nat) : Statement (.viral die) := none_holds rfl
theorem clusterRepair (die : Nat) (cl : Nat) : Statement (.clusterRepair die cl) := none_holds rfl
theorem rowRepair (die : Nat) (stack : Nat) (bank : Nat) (row : Nat) : Statement (.rowRepair die stack bank row) := none_holds rfl
theorem pseudoChannelRepair (die : Nat) (stack : Nat) (pc : Nat) : Statement (.pseudoChannelRepair die stack pc) := none_holds rfl
theorem dataRateChange (die : Nat) (stack : Nat) : Statement (.dataRateChange die stack) := none_holds rfl
theorem getCertificate (slot : Nat) : Statement (.getCertificate slot) := none_holds rfl
theorem challenge (nonce : List Byte) : Statement (.challenge nonce) := none_holds rfl
theorem getMeasurements (nonce : List Byte) : Statement (.getMeasurements nonce) := none_holds rfl
theorem lmsTranscriptSignature (msg : List Byte) : Statement (.lmsTranscriptSignature msg) := none_holds rfl
theorem powerCapSet (pct : Nat) : Statement (.powerCapSet pct) := none_holds rfl
theorem powerSample (watts : Nat) : Statement (.powerSample watts) := none_holds rfl
theorem supplyOutOfRange (millivolt : Nat) : Statement (.supplyOutOfRange millivolt) := none_holds rfl
theorem thermalSample (die : Nat) (celsius : Int) : Statement (.thermalSample die celsius) := none_holds rfl
theorem cxlPortDown (port : Nat) : Statement (.cxlPortDown port) := none_holds rfl
theorem cxlPortUp (port : Nat) : Statement (.cxlPortUp port) := none_holds rfl
theorem leaderLeaseEnd (die : Nat) : Statement (.leaderLeaseEnd die) := none_holds rfl
theorem backInvalidateResponse (line : Nat) (holder : Nat) : Statement (.backInvalidateResponse line holder) := none_holds rfl
theorem notifyWrite (w : NotifyWr) : Statement (.notifyWrite w) := none_holds rfl
theorem canvasEntryError (team : Nat) (cid : Nat) (idx : Nat) (corrected : Bool) : Statement (.canvasEntryError team cid idx corrected) := none_holds rfl
theorem teamStoreError (team : Nat) (addr : Nat) (corrected : Bool) : Statement (.teamStoreError team addr corrected) := none_holds rfl

end Sys2Proof.Laws.LiteralWords
end

