-- ==== Sys2Proof/Tests/Slice0.lean ====
section
/-! SUPPORT. Tests: ill-formed terms that WellFormed refuses, words written out from the spec's encodings, and for each
statement of Obligations.lean states and operands that meet its hypotheses. -/

namespace Sys2Proof.Tests

set_option Elab.async false

open Sys2Proof Sys2Proof.Machine

/-- Common fields: U, length, IMM32, EXT32; guard p7, no switch. -/
def com (u : Bool) (l : Len) (imm ext : Word) : Com := ⟨u, false, false, 7, l, imm, ext⟩
def k2 : Com := com false .two 0 0
def u2 : Com := com true .two 0 0
def k3 (imm : Word) : Com := com false .three imm 0
def u3 (imm : Word) : Com := com true .three imm 0

-- WellFormed: pairs of a legal instruction and one that differs from it in what the rule named forbids.

def wfAll (ps : List (Instr × Instr)) : Bool := ps.all (fun p => p.1.wf && !p.2.wf)

def iA : IArgs := ⟨k2, .u32, false, .v 3, .v 1, .v 2, .none⟩
def iB : IArgs := ⟨k2, .u32, false, .v 4, .v 2, .none, .none⟩
def fA : FArgs := ⟨k2, .f32, FMod.off, FMod.off, FMod.off, .v 3, .v 1, .v 2, .none⟩
def fB : FArgs := ⟨k2, .f32, FMod.off, FMod.off, FMod.off, .v 3, .v 1, .none, .none⟩

/-- R84 to R89, R115: absent and unused words, operand kinds, pairs. -/
theorem test_wf_operands : wfAll [
    (.iadd iA, .iadd { iA with k := { k2 with imm := 1 } }),
    (.iadd { iA with k := k3 0 }, .iadd { iA with k := k3 1 }),
    (.iadd { iA with k := k3 7, b := .lit }, .iadd { iA with k := k2, b := .lit }),
    (.iadd iA, .iadd { iA with b := .none }),
    (.iadd iA, .iadd { iA with c := .v 1 }),
    (.iadd iA, .iadd { iA with d := .s 3 }),
    (.iadd iA, .iadd { iA with d := .zero }),
    (.iadd { iA with k := u2, d := .s 3, a := .s 1, b := .s 2 }, .iadd { iA with k := u2, d := .s 3 }),
    (.iadd { iA with k := u2, d := .s 3, a := .s 1, b := .s 2 }, .iadd { iA with k := u2, d := .s 3, a := .lane, b := .s 2 }),
    (.iadd { iA with ty := .u64, d := .v 4, a := .v 2, b := .v 6 }, .iadd { iA with ty := .u64, d := .v 4, a := .v 1, b := .v 6 }),
    (.iadd { iA with ty := .u64, d := .v 4, a := .v 2, b := .v 6 }, .iadd { iA with ty := .u64, d := .v 3, a := .v 2, b := .v 6 })]
      = true := by decide +kernel

/-- R118 to R132: types and SAT of the integer forms. -/
theorem test_wf_integer : wfAll [
    (.imulLo iA, .imulLo { iA with sat := true }),
    (.imulWide { iA with d := .v 4 }, .imulWide { iA with ty := .u16x2, d := .v 4 }),
    (.imadWide { iA with d := .v 4, c := .v 6 }, .imadWide { iA with ty := .u64, d := .v 4, a := .v 2, c := .v 6 }),
    (.idiv iA, .idiv { iA with ty := .u8x4 }),
    (.irem iA, .irem { iA with sat := true }),
    (.imin iA, .imin { iA with sat := true }),
    (.iabs { iB with ty := .i32 }, .iabs iB),
    (.lop { iA with c := .zero } 0x88, .lop { iA with c := .zero, ty := .i32 } 0x88),
    (.shl iA, .shl { iA with sat := true }),
    (.shfWin { iA with c := .v 4 }, .shfWin { iA with c := .v 4, sat := true }),
    (.clz iB, .clz { iB with ty := .i32 }),
    (.bfi { iA with c := .v 4 }, .bfi { iA with ty := .u16x2, c := .v 4 }),
    (.lea { iA with d := .v 4, a := .v 2, b := .v 1, c := .v 3 } 2, .lea { iA with ty := .i8x4, d := .v 4, a := .v 2, b := .v 1, c := .v 3 } 2),
    (.idpDp2 { iA with ty := .i32, c := .v 4 }, .idpDp2 { iA with c := .v 4 }),
    (.sad { iA with c := .v 4 }, .sad { iA with ty := .u64, d := .v 4, a := .v 2, b := .v 6, c := .v 8 }),
    (.cvti { iB with ty := .u8x4 } .u32 3, .cvti { iB with ty := .u16x2 } .u32 2)] = true := by decide +kernel

/-- R117, R133 to R139: moves, compares, votes. -/
theorem test_wf_moves : wfAll [
    (.mov iB, .mov { iB with sat := true }),
    (.movl { iB with k := k3 5, a := .none }, .movl { iB with k := k2, a := .none }),
    (.movl { iB with k := k3 5, a := .none }, .movl { iB with k := k3 5 }),
    (.sel iA ⟨false, 1⟩, .sel { iA with c := .v 1 } ⟨false, 1⟩),
    (.icmp ⟨k2, 1, none, .v 1, .v 2⟩ .u32 .lt, .icmp ⟨k2, 1, none, .v 1, .v 2⟩ .u16x2 .lt),
    (.plop k2 0xAA 2 5 7 7, .plop (k3 1) 0xAA 2 5 7 7),
    (.voteMask ⟨u2, .s 1, ⟨false, 2⟩⟩, .voteMask ⟨k2, .s 1, ⟨false, 2⟩⟩),
    (.voteMask ⟨u2, .s 1, ⟨false, 2⟩⟩, .voteMask ⟨u2, .v 1, ⟨false, 2⟩⟩),
    (.pmovSet k2 0x7F (.v 1), .pmovSet u2 0x7F (.s 1)),
    (.bcast { iB with a := .s 2 }, .bcast iB),
    (.rdlane { iA with k := u2, d := .s 3, b := .s 2 }, .rdlane { iA with k := u2, d := .s 3, a := .s 1, b := .s 2 }),
    (.rdlane { iA with k := u2, d := .s 3, b := .s 2 }, .rdlane { iA with k := u2, d := .s 3, b := .zero })]
      = true := by decide +kernel

/-- R141 to R166: modifiers, carriers and format fields. -/
theorem test_wf_float : wfAll [
    (.fadd fA, .fadd { fA with mc := ⟨false, true⟩ }),
    (.ffma { fA with c := .v 4, mc := ⟨true, false⟩ }, .ffma fA),
    (.fsqrt fB, .fsqrt { fB with mb := ⟨false, true⟩ }),
    (.fsfuExp2 fB, .fsfuExp2 { fB with ft := .f64, d := .v 4, a := .v 2 }),
    (.hdot2F16 { fA with c := .v 4 }, .hdot2F16 { fA with ft := .bf16x2, c := .v 4 }),
    (.fscale fA, .fscale { fA with mb := ⟨false, true⟩ }),
    (.fclass fB, .fclass { fB with ma := ⟨true, false⟩ }),
    (.fclassP k2 .f32 1 (.v 1) (.v 2), .fclassP k2 .f16x2 1 (.v 1) (.v 2)),
    (.fcmpX ⟨k2, 1, none, .v 1, .v 2⟩ .f32 FMod.off FMod.off .lt, .fcmpX ⟨k2, 1, none, .v 1, .v 2⟩ .bf16x2 FMod.off FMod.off .lt),
    (.fcvt k2 .f64 .f32 false (.v 4) (.v 1) .none, .fcvt k2 .f32 .f32 false (.v 4) (.v 1) .none),
    (.fcvt k2 .f32 .f16x2 true (.v 4) (.v 1) .none, .fcvt k2 .f64 .f32 true (.v 4) (.v 1) .none),
    (.icvtf k2 .f16x2 0 (.v 4) (.v 1) (.v 2), .icvtf k2 .f16x2 0 (.v 4) (.v 1) .none),
    (.fcvti ⟨k2, .f16x2, .rne, .v 4, .v 1⟩ 0 false true, .fcvti ⟨k2, .f32, .rne, .v 4, .v 1⟩ 0 false true),
    (.mxsc u2 .e4m3 (.s 1) (.v 2), .mxsc k2 .e4m3 (.v 1) (.v 2)),
    (.fpk k2 .e4m3 .rne true 0 (.v 4) (.v 1) .none .none, .fpk k2 .e2m1 .rne true 0 (.v 4) (.v 1) .none .none),
    (.fpk k2 .e4m3 .rne false 2 (.v 4) (.v 1) .none (.s 3), .fpk k2 .e4m3 .rne false 2 (.v 4) (.v 1) .none (.v 3)),
    (.fupk k2 .e4m3 1 (.v 4) (.v 1) (.v 2), .fupk k2 .e4m3 0 (.v 4) (.v 1) (.v 2)),
    (.rng k2 (.v 1), .rng u2 (.s 1))] = true := by decide +kernel

/-- R168 to R190: branches and cross-lane forms. -/
theorem test_wf_control : wfAll [
    (.braWhole (k3 8), .braWhole (k3 6)),
    (.braWhole (k3 8), .braWhole k2),
    (.braD (com false .four 8 12), .braD (com false .four 8 13)),
    (.braD (com false .four 8 12), .braD (k3 8)),
    (.brxD (k3 8) (.v 2), .brxD (k3 8) (.v 3)),
    (.brxWhole k2 (.s 2), .brxWhole k2 .zero),
    (.call (k3 8) (.v 2), .call (k3 8) (.s 2)),
    (.ret k2 (.v 2), .ret (com true .two 0 0) (.s 2)),
    (.fcs k2, .fcs u2),
    (.shflSel ⟨k2, false, false, 0, .v 3, .v 1, .v 2, .none⟩, .shflSel ⟨k2, false, true, 0, .v 3, .v 1, .v 2, .none⟩),
    (.shflSel ⟨k2, true, false, 0, .v 4, .v 2, .v 1, .none⟩, .shflSel ⟨k2, true, false, 0, .v 4, .v 1, .v 2, .none⟩),
    (.redux k2 .addU32 (.v 2) (.v 1), .redux (k3 1) .addU32 (.v 2) .lit),
    (.scan k2 .addU64 false (.v 4) (.v 2), .scan u2 .addU64 false (.s 4) (.s 2)),
    (.isectAdv u2 (.s 1) (.s 2) .zero, .isectAdv k2 (.v 1) (.v 2) .zero),
    (.vsortAsc k2 .u32 (.v 4) (.v 2) .none, .vsortAsc k2 .u32 (.v 4) (.v 5) .none),
    (.vsortDesc k2 .u32 (.v 4) (.v 2) (.v 3), .vsortDesc k2 .u32 (.v 4) (.v 2) (.v 4)),
    (.matchUni k2 true (.v 1) (.v 2), .matchUni k2 true (.v 1) (.v 3)),
    (.lmapRd u2 (.s 1) (.s 2), .lmapRd k2 (.v 1) (.v 2))] = true := by decide +kernel

def mA : MArgs := ⟨k2, .nrm, 0, .die, .rlx, .v 3, .v 2⟩
def atA : AtArgs := ⟨com false .four 8 0x18, 2, .u32, .die, .rlx, .v 6, .v 10, .v 4, .none⟩

/-- R191 to R215: memory forms. -/
theorem test_wf_memory : wfAll [
    (.ld mA .w32, .ld { mA with ord := .rel } .w32),
    (.ld { mA with ap := 7, a := .v 1 } .w32, .ld { mA with ap := 7, a := .v 1, pol := .str } .w32),
    (.ld mA .w32, .ld { mA with a := .v 1 } .w32),
    (.ld { mA with d := .v 4 } .w128, .ld { mA with d := .v 6 } .w128),
    (.ld mA .w32, .ld { mA with k := com false .four 0 4 } .w32),
    (.st mA .w32, .st { mA with ord := .acq } .w32),
    (.st mA .u8, .st mA .i8),
    (.st mA .w32, .st { mA with k := k3 4, d := .lit } .w32),
    (.ldc mA .bf16, .ldc { mA with k := u2, d := .s 3, a := .s 2 } .bf16),
    (.stc ⟨k2, .nrm, 0, .e4m3, .rne, true, false, .die, .v 2, .v 1⟩, .stc ⟨k2, .nrm, 0, .bf16, .rne, true, false, .die, .v 2, .v 1⟩),
    (.spill ⟨k2, .nrm, 0, 191, .v 0, .s 2⟩, .spill ⟨k2, .nrm, 0, 192, .v 0, .s 2⟩),
    (.fill ⟨u2, .nrm, 7, 1, .s 4, .s 1⟩, .fill ⟨u2, .nrm, 7, 1, .v 4, .s 1⟩),
    (.atomAdd atA, .atomAdd { atA with ty := .f32 }),
    (.atomAdd atA, .atomAdd { atA with k := com false .four 8 0x19 }),
    (.atomAdd atA, .atomAdd { atA with k := com false .four 8 0x118 }),
    (.atomFadd { atA with ty := .f32, ap := 7 }, .atomFadd { atA with ty := .f64, d := .v 6, b := .v 4, ap := 7 }),
    (.cas { atA with c := .v 5 }, .cas atA),
    (.atmsAdd atA, .atmsAdd { atA with ap := 7 }),
    (.mredLine ⟨k3 0x100, .f32, 1, some 0, .v 1, .s 2, .s 4⟩, .mredLine ⟨k3 0x104, .f32, 1, some 0, .v 1, .s 2, .s 4⟩),
    (.mredLine ⟨k3 0x100, .f32, 1, some 0, .v 1, .s 2, .s 4⟩, .mredLine ⟨k3 0x100, .f32, 1, some 0, .v 1, .s 2, .s 5⟩),
    (.pfL1 ⟨k2, .nrm, 0, .l1, .v 2⟩, .pfL1 ⟨k2, .nrm, 0, .l2, .v 2⟩),
    (.cmntWb ⟨k2, .nrm, 0, .all, .v 2⟩, .cmntWb ⟨k2, .str, 0, .all, .v 2⟩),
    (.tierPin ⟨u2, 0, .s 1, .s 2, .s 4⟩, .tierPin ⟨u2, 7, .s 1, .s 2, .s 4⟩),
    (.fnc k2 .die 2 8, .fnc u2 .die 2 8)] = true := by decide +kernel

def mmA : MmaArgs := ⟨k3 0xC6, false, .bf16, false, true, false, false, 0, .s 6, ⟨false, 1, 2⟩, .v 16, .v 32, .none⟩
def cnA : CnMemArgs := ⟨u3 128, .f32, .nrm, 0, .rne, false, ⟨false, 0, 1⟩, .s 2⟩

/-- R216 to R240: easel forms. -/
theorem test_wf_easel : wfAll [
    (.mma mmA, .mma { mmA with cf := ⟨true, 0, 2⟩ }),
    (.mma mmA, .mma { mmA with k := k3 0x2C6 }),
    (.mma mmA, .mma { mmA with mx := true, c := .v 3 }),
    (.mma mmA, .mma { mmA with za := true }),
    (.mma mmA, .mma { mmA with sat := true }),
    (.mma mmA, .mma { mmA with tr := true }),
    (.mma { mmA with dk := false, gam := .none, k := k3 0xFF }, .mma { mmA with dk := false }),
    (.mlutB k2 0 ⟨false, 0, 1⟩ (.v 0) (.s 1), .mlutB k2 0 ⟨false, 1, 1⟩ (.v 0) (.s 1)),
    (.mlutA ⟨k3 0xFF, 0, false, false, .none, ⟨false, 1, 1⟩, 2, .v 0⟩, .mlutA ⟨k3 0x100FF, 0, false, false, .none, ⟨false, 1, 1⟩, 2, .v 0⟩),
    (.cnalGrow k2 1 (.s 2), .cnalGrow k2 1 (.v 2)),
    (.cnalFree u2 ⟨false, 0, 1⟩, .cnalFree k2 ⟨false, 0, 1⟩),
    (.cnz u2 ⟨true, 0, 1⟩, .cnz u2 ⟨true, 1, 1⟩),
    (.cnldMem cnA, .cnldMem { cnA with k := u3 130 }),
    (.cnldMem cnA, .cnldMem { cnA with k := u3 64 }),
    (.cnldMem cnA, .cnldMem { cnA with pol := .ms }),
    (.cnstMem { cnA with f := .e4m3, sat := true }, .cnstMem { cnA with sat := true }),
    (.cnstReg ⟨k2, .f32, .rne, ⟨false, 1, 1⟩, .v 0⟩, .cnstReg ⟨k2, .f32, .rne, ⟨true, 0, 1⟩, .v 0⟩),
    (.cnrowMax k2 ⟨false, 1, 1⟩ (.v 0), .cnrowMax k2 ⟨false, 1, 1⟩ (.s 0)),
    (.cnrowCscl u2 ⟨false, 1, 1⟩ (.s 0), .cnrowCscl u2 ⟨false, 1, 1⟩ (.v 0)),
    (.mwaitM u2 ⟨false, 0, 1⟩, .mwaitM k2 ⟨false, 0, 1⟩)] = true := by decide +kernel

def acA : AcpyArgs := ⟨u2, 0, 2, .nrm, 0, 0, some 3, .s 4, .s 6, .s 8⟩
def gtA : GthArgs := ⟨k3 256, .nrm, 0, some 1, .s 1, .s 2, .v 3⟩

/-- R241 to R278: asynchronous, synchronisation, task and system forms. -/
theorem test_wf_async_system : wfAll [
    (.acpy acA, .acpy { acA with dap := 7, a := .s 4 }),
    (.acpy acA, .acpy { acA with pol := .ms }),
    (.acpy acA, .acpy { acA with k := com true .four 0 2 }),
    (.agth gtA, .agth { gtA with k := k3 6 }),
    (.asct { gtA with k := k3 65532 }, .asct { gtA with k := k3 65536 }),
    (.agth gtA, .agth { gtA with ap := 7, b := .s 2 }),
    (.tkwAll u2 true (.s 1), .tkwAll u2 true .zero),
    (.tkwAny u2 true (.s 1) (.s 2), .tkwAny u2 true (.v 1) (.s 2)),
    (.tkt k2 1 7, .tkt u2 1 7),
    (.evq (u3 0xFFFF) false (.s 1), .evq (u3 0x10000) false (.s 1)),
    (.acolAllred ⟨com true .four 1 2, .nrm, .f32, 0, none, .s 2, .s 4, .s 6⟩, .acolAllred ⟨com true .four 1 0x10002, .nrm, .f32, 0, none, .s 2, .s 4, .s 6⟩),
    (.barSync ⟨u2, .team, false, 15⟩, .barSync ⟨u2, .clus, false, 4⟩),
    (.gate u2, .gate k2),
    (.rtskSpawn u2 0 (some 1) (.s 2), .rtskSpawn u2 7 (some 1) (.s 2)),
    (.susp u2 .mod 7 0 (.s 0) (.s 10), .susp u2 .team 7 0 (.s 0) (.s 10)),
    (.resm u2 .mod 1 2 (.s 20), .resm u2 .grp 1 2 (.s 20)),
    (.ccpy u2 1 0 0 (.s 2) (.s 4) (.s 6), .ccpy u2 1 0 7 (.s 2) (.s 4) (.s 6)),
    (.cdsc u2 0 (.s 2), .cdsc u2 0 (.s 3)),
    (.nop u2, .nop (u3 1)),
    (.csrRd ⟨u2, 0x41, .s 2, .none⟩, .csrRd ⟨u2, 0x42, .s 2, .none⟩),
    (.csrRd ⟨k2, 0x60, .v 2, .none⟩, .csrRd ⟨u2, 0x60, .s 2, .none⟩),
    (.csrWr ⟨u2, 0x30, .none, .s 2⟩, .csrWr ⟨u2, 0x30, .none, .s 3⟩),
    (.trap (u3 9), .trap (k3 9)),
    (.rte u2, .rte k2)] = true := by decide +kernel

-- Decoding: words written out from the encoding tables and worked examples of the spec.

/-- What a list of words decodes to, as a list, so that one theorem covers a family. -/
def reads (ps : List (List Word × Instr)) : Bool := ps.all (fun p => decodeWords p.1 == p.2)

/-- R82 to R90, R118, R124, R133: `!p3? iadd^ v17, s4, #100`, `iadd s5, s4, #100`, `and v3, v1, v2`, `mov v2, v1`. -/
theorem test_decode_integer : reads [
    ([0x6208D80D, 0x0000FFFE, 0x64], .iadd ⟨⟨false, true, true, 3, .three, 0x64, 0⟩, .u32, false, .v 17, .s 4, .lit, .none⟩),
    ([0xE262B809, 0x0000FFFE, 0x64], .iadd ⟨u3 0x64, .u32, false, .s 5, .s 4, .lit, .none⟩),
    ([0x0081B850, 0x8800FD02], .lop ⟨k2, .u32, false, .v 3, .v 1, .v 2, .zero⟩ 0x88),
    ([0x00813900, 0x0000FFFF], .mov ⟨k2, .u32, false, .v 2, .v 1, .none, .none⟩)] = true := by decide +kernel

/-- R141, R144, R160: `fadd v3, v1, -v2` and the worked `fpk.e4m3.mx v40, v8, s12`. -/
theorem test_decode_float : reads [
    ([0x0081B980, 0x0010FF02], .fadd ⟨k2, .f32, FMod.off, ⟨false, true⟩, FMod.off, .v 3, .v 1, .v 2, .none⟩),
    ([0x04143A20, 0x009CCCFF], .fpk k2 .e4m3 .dyn false 2 (.v 40) (.v 8) .none (.s 12))] = true := by decide +kernel

/-- R172, R182, R186, chapter 06: `bra.d`, `pswp`, `redux.fadd.f32^ v25, v24`, `exit`. -/
theorem test_decode_control : reads [
    ([0x7FFF8A82, 0x0100FFFF, 0x30, 0x3C], .braD ⟨false, false, false, 1, .four, 0x30, 0x3C⟩),
    ([0x7FFFBAB0, 0x0000FFFF], .pswp k2),
    ([0x0C0CBB0C, 0x0900FFFF], .redux { k2 with sw := true } .faddF32 (.v 25) (.v 24)),
    ([0x7FFFBAA8, 0x0000FFFF], .exit k2)] = true := by decide +kernel

/-- R191 to R214: worked loads, stores, atomics, reduces and fences. -/
theorem test_decode_memory : reads [
    ([0xE0643B84, 0x00E1FFFF], .ld ⟨{ u2 with sw := true }, .ms, 1, .grp, .rlx, .s 8, .s 0⟩ .w32),
    ([0x057F8B91, 0x0000FF19, 0x200], .stc ⟨⟨false, false, false, 1, .three, 0x200, 0⟩, .nrm, 0, .bf16, .rne, false, false, .grp, .v 10, .v 25⟩),
    ([0x05033BC2, 0x0102FF04, 8, 0x18], .atomAdd atA),
    ([0x0E0DABC6, 0x0000FF14, 0, 0x18],
      .atomXchg ⟨⟨false, true, false, 5, .four, 0, 0x18⟩, 0, .u32, .die, .rlx, .v 27, .v 28, .v 20, .none⟩),
    ([0x05000BD9, 0x00C1C6C0, 0x100], .mredLine ⟨⟨false, false, false, 1, .three, 0x100, 0⟩, .f32, 1, some 0, .v 10, .s 0, .s 6⟩),
    ([0x7F81BBF0, 0x0208FFFF], .fnc k2 .die 2 8)] = true := by decide +kernel

/-- R223: `mma.bf16.ac.dk m2.q1, v16, v32, s6` and its four-block form. -/
theorem test_decode_easel : reads [
    ([0x08093C81, 0x0260FF20, 0xC6], .mma mmA),
    ([0x08101C81, 0x0260FF30, 0x300C6], .mma { mmA with
      k := ⟨false, false, false, 3, .three, 0x300C6, 0⟩, kn := 3, cf := ⟨false, 2, 0⟩, b := .v 48 })] = true := by decide +kernel

/-- R243 to R275: copies, tokens, barriers, continuations, returns, control registers. -/
theorem test_decode_async_system : reads [
    ([0xE201BD80, 0x0200C8C6], .acpy acA),
    ([0x03813DA4, 0x0000FFFF], .tkt { k2 with sw := true } 2 7),
    ([0xFFFFBE00, 0x0100FFFF], .barWait ⟨u2, .team, false, 0⟩),
    ([0xFFFFBE00, 0x0201FFFF], .barSync ⟨u2, .team, false, 1⟩),
    ([0xEA013E88, 0x4001FFFF], .resm u2 .mod 1 2 (.s 20)),
    ([0xE07FBE80, 0x4700FFCA], .susp u2 .mod 7 0 (.s 0) (.s 10)),
    ([0xFFFFBF18, 0x0100FFFF], .rteNx u2),
    ([0xFFE13F08, 0x004100FF], .csrRd ⟨u2, 0x41, .s 2, .none⟩)] = true := by decide +kernel

/-- R82, R92, R101: an illegal length, an opcode with a dash, and an operand byte that the form does not use. -/
theorem test_decode_refuses : reads [
    ([0x0081B853, 0x8800FD02], .unassignedOpcode 0x0081B853 0),
    ([0x00813800, 0x0000FFFF], .unassignedOpcode 0x00813800 0x0000FFFF),
    ([0x00813900, 0x000000FF], .unassignedOpcode 0x00813900 0x000000FF),
    ([0x0081B851, 0x8800FD02], .unassignedOpcode 0x0081B851 0x8800FD02)] = true := by decide +kernel

-- The states of the witnesses.

theorem issues_of {s : State} {gid : Nat} {g : Group} {k : Com} {rs : List (Opnd × Nat)}
    (h : (s.cur == some gid && SMap.get? s.groups gid == some g && g.runMask != 0 && rs.all g.inRange &&
      decide (g.owed.length < 32) && (GCtx.make g k).executes && s.lim == none) = true) : Issues s gid g k rs := by
  simp only [Bool.and_eq_true, beq_iff_eq, bne_iff_ne, decide_eq_true_eq] at h
  obtain ⟨⟨⟨⟨⟨⟨cur, grp⟩, run⟩, ranges⟩, owed⟩, executes⟩, lim⟩ := h
  exact { cur, grp, run, ranges, owed, executes, lim }

/-- Group 2 of team 1 issues on core 0: every budget at its largest, aperture 0 over 64 KiB of HBM of die 0, 4 KiB of
team store, two canvas slots. -/
def g0 : Group := hostGroup 1
def t0 : Team := { hostTeam with scratch := 4096, canvas := 2, pool := 2 }
def dataTlb : TlbE := ⟨0, vaOf 0 0, 65536, 0x100000, 0, true, true, false, false, false, 0, none⟩
def s0 : State :=
  let s := State.reset.withFetchWord 64 0
  let t := s.updCore 0 (fun c => { c with tlb := dataTlb :: c.tlb })
  { t with cur := some 2, teams := [(1, t0)] }
/-- The same with another group. -/
def sG (g : Group) : State := { s0 with groups := [(2, g)] }

def okB {ε α : Type} : Except ε α → Bool
  | .ok _ => true
  | .error _ => false
def okC : Chk → Bool
  | .ok .. => true
  | _ => false
theorem okB_ok {ε α : Type} {x : Except ε α} (h : okB x = true) : ∃ a, x = .ok a := by
  cases x with
  | ok a => exact ⟨a, rfl⟩
  | error e => cases h
theorem okC_ok {x : Chk} (h : okC x = true) : ∃ gs es, x = .ok gs es := by
  cases x with
  | ok gs es => exact ⟨gs, es, rfl⟩
  | _ => cases h
theorem okIs {x : Chk} {g : List Seg} (h : (match x with | .ok gs _ => gs == g | _ => false) = true) :
    ∃ es, x = .ok g es := by
  cases x with
  | ok gs es => exact ⟨es, by rw [beq_iff_eq.mp h]⟩
  | _ => cases h
theorem fetch_ok {x : State × Fetched} (h : (match x.2 with | .ok _ => true | _ => false) = true) :
    ∃ s ws, x = (s, .ok ws) := by
  obtain ⟨a, b⟩ := x
  cases b with
  | ok ws => exact ⟨a, ws, rfl⟩
  | _ => cases h
theorem errB {ε α : Type} {x : Except ε α} (h : okB x = false) : ∃ e, x = .error e := by
  cases x with
  | error e => exact ⟨e, rfl⟩
  | ok a => cases h
theorem doneB {x : Act} (h : (match x with | .done _ => true | _ => false) = true) : ∃ s, x = .done s := by
  cases x with
  | done s => exact ⟨s, rfl⟩
  | _ => cases h
theorem isNext {s : Host.Outcome State Fault Refusal} (h : (match s with | .next _ => true | _ => false) = true) :
    ∃ t, s = .next t := by
  cases s with
  | next t => exact ⟨t, rfl⟩
  | fault e => cases h
  | refused r => cases h

-- Witnesses: states and operands that meet the hypotheses of each statement.

theorem wit_DecodeEncode : (Instr.iadd iA).wf = true ∧ (Instr.iadd iA).raw.isSome = true := by decide +kernel

theorem wit_EncodeDecode : (decodeWords [0x0081B850, 0x8800FD02]).raw.isSome = true := by decide +kernel

theorem wit_BadLengthsRefused : slice 2 0 (0x0081B853 : Word) = 3#2 ∧ lenOf 0x0081B851 = some .three ∧
    [(0x8800FD02 : Word)].length + 1 < Len.three.count := by decide +kernel

theorem wit_StepRunsDecoded : let s := State.reset.withFetchWord 64 0xFFFF00813900
    let s2 : State := { s with clk := s.clk + 1, agenda := [] }
    s.mod.power = true ∧ s.agenda = [.issue 2] ∧ SMap.get? s.groups 2 = some g0 ∧ State.ready s2 g0 = true ∧
    2 ∈ s2.pickOn g0.core ∧ ∃ s1 ws, State.fetch (s2.takeTurn g0.core 2) g0 2 g0.runPc = (s1, .ok ws) := by
  refine ⟨by decide +kernel, by decide +kernel, by decide +kernel, by decide +kernel, by decide +kernel, fetch_ok ?_⟩
  decide +kernel
/-- A group with a trap still to take, and one that is not ready, on which no choice falls. -/
theorem wit_StepRunsDecoded_others : (let g := { g0 with wait := .raise 1 0 0 }
      2 ∈ (sG g).pickOn 0 ∧ (sG g).ready g = true) ∧
    2 ∉ (sG { g0 with halted := some 1 }).pickOn 0 := by decide +kernel

theorem wit_FetchReadsBlock :
    (∃ es, s0.chkPiece g0.core g0.ctx 2 ⟨needX, false, false, 4⟩ g0.code 0 32 = .ok [⟨false, 0, false, 0, 32⟩] es) ∧
    (SMap.get? (s0.core g0.core).ic 0 = none ∧ s0.mod.place 0 = .die (g0.core / 128) ∧
      (s0.die 0).l2.length + (s0.die 0).guest.length + (s0.die 0).far.length < 24576 ∧
      SMap.getD s0.keyOf 0 0 = 0 ∧ s0.unitP 0 = false ∧ ∀ e ∈ (s0.die 0).msc, e.2.line = 0 → e.2.p = 0) ∧
    (let held : List Word := List.replicate 8 5
     let s := s0.updCore g0.core (fun c => { c with ic := [(0, (held, false))] })
     SMap.get? (s.core g0.core).ic 0 = some (held, false) ∧ held.length = 8 ∧
       ∃ es, s.chkPiece g0.core g0.ctx 2 ⟨needX, false, false, 4⟩ g0.code 0 32 = .ok [⟨false, 0, false, 0, 32⟩] es) :=
  ⟨okIs (by decide +kernel), by decide +kernel, by decide +kernel, by rfl, okIs (by decide +kernel)⟩

theorem wit_StepTakesEvent : s0.mod.power = true ∧
    (let s : State := { State.reset with clk := 1, mod := { Module.init with power := false } }
     s.mod.power = false ∧ s.agenda.head? ≠ some (.event .powerOn)) := by decide +kernel

/-- Power about to come. -/
theorem wit_StepTakesEvent_power : let s : State := { State.reset with agenda := [.event .powerOn], mod := { Module.init with power := false } }
    s.mod.power = false ∧ s.agenda = [.event .powerOn] := by decide +kernel

theorem wit_StepKeepsMemoryForm : State.MemoryForm (State.reset.withFetchWord 64 0xFFFF00813900) ∧
    ∃ t, step (State.reset.withFetchWord 64 0xFFFF00813900) = .next t :=
  ⟨⟨by decide +kernel, by decide +kernel⟩, isNext (by decide +kernel)⟩

theorem wit_RegisterFormsComplete : regForm (.iadd iA) = some (iA.k, irs iA 1 1 1 0, opAdd iA) ∧
    Issues s0 2 g0 iA.k (irs iA 1 1 1 0) ∧ ∃ o, opAdd iA (GCtx.make g0 iA.k) = .ok o :=
  ⟨rfl, issues_of (by decide +kernel), okB_ok (by decide +kernel)⟩

/-- A group with 8 vector registers, and one that holds a poisoned `v1` in lane 0. -/
def gSmall : Group := { g0 with vb := 8 }
def gPoison : Group := { g0 with lanes := updAt g0.lanes 0 (fun l => { l with v := [(1, ⟨true, 0, 0⟩)] }) }

theorem wit_RegisterFormsTrapOrSkip :
    (SMap.get? (sG gSmall).groups 2 = some gSmall ∧ (irs { iA with d := .v 8 } 1 1 1 0).all gSmall.inRange = false) ∧
    ((irs iA 1 1 1 0).all g0.inRange = true ∧ (GCtx.make g0 { k2 with gn := true }).executes = false) ∧
    ((irs iA 1 1 1 0).all gPoison.inRange = true ∧ (GCtx.make gPoison k2).executes = true ∧
      ∃ t, opIcmp ⟨k2, 1, none, .v 1, .v 2⟩ .u32 .lt (GCtx.make gPoison k2) = .error t) :=
  ⟨by decide +kernel, by decide +kernel, by decide +kernel, by decide +kernel, errB (by decide +kernel)⟩

/-- A group that `tier` owes 32 statuses. -/
def gOwes : Group := { g0 with pend := (List.range 32).map (fun i => [.o i 1]) }
theorem wit_RegisterFormsTrapOrSkip_owed : (irs iA 1 1 1 0).all gOwes.inRange = true ∧ (GCtx.make gOwes k2).executes = true ∧
    (∃ o, opAdd iA (GCtx.make gOwes k2) = .ok o) ∧ 32 ≤ gOwes.owed.length :=
  ⟨by decide +kernel, by decide +kernel, okB_ok (by decide +kernel), by decide +kernel⟩

theorem wit_CompletionAdvances : SMap.get? s0.groups 2 = some g0 ∧ g0.runMask ≠ 0 := by decide +kernel

/-- R116 at its ends: a form with and one without SAT, on one and on four elements. -/
theorem wit_IntegerArithmetic : (∀ i ∈ [Instr.iadd iA, .isub { iA with sat := true }, .imulLo iA, .imulHi iA,
      .imad { iA with c := .v 4 }, .idiv iA, .irem iA, .imin iA, .imax { iA with ty := .i8x4 },
      .iabs { iB with ty := .i32 }, .ineg { iB with ty := .i32, sat := true }], i.wf = true) ∧
    Issues s0 2 g0 k2 (irs iA 1 1 1 1) ∧ Issues s0 2 g0 k2 (irs iB 1 1 0 0) :=
  ⟨by decide +kernel, issues_of (by decide +kernel), issues_of (by decide +kernel)⟩

theorem wit_ShiftsAndReversals : Issues s0 2 g0 iA.k (irs iA 1 1 1 0) ∧ Issues s0 2 g0 iB.k (irs iB 1 1 0 0) ∧
    iB.ty = .u32 := ⟨issues_of (by decide +kernel), issues_of (by decide +kernel), rfl⟩

theorem wit_TruthTables : Issues s0 2 g0 k2 (irs iA 1 1 1 1) ∧ Issues s0 2 g0 k2 [] :=
  ⟨issues_of (by decide +kernel), issues_of (by decide +kernel)⟩

theorem wit_CarryChains : Issues s0 2 g0 k2 [(.v 3, 1), (.v 1, 1), (.v 2, 1)] ∧
    (GCtx.make g0 k2).consume [(.v 1, 1), (.v 2, 1)] (GCtx.make g0 k2).ls = none :=
  ⟨issues_of (by decide +kernel), by decide +kernel⟩

theorem wit_IntegerCompares : Issues s0 2 g0 k2 [(.v 1, 2), (.v 2, 2)] ∧
    (GCtx.make g0 k2).consume [(.v 0, 2), (.v 2, 2)] (GCtx.make g0 k2).ls = none :=
  ⟨issues_of (by decide +kernel), by decide +kernel⟩

theorem wit_MovesCopyImages : Issues s0 2 g0 k2 (irs iA 1 1 1 0) ∧ Issues s0 2 g0 k2 (irs iA 2 2 2 0) ∧
    (let x : IArgs := { iA with k := u2, d := .s 3, b := .s 2 }
     Issues s0 2 g0 u2 (irs x 1 1 1 1) ∧ (GCtx.make g0 u2).consume [(x.b, 1)] (GCtx.make g0 u2).ls = none) :=
  ⟨issues_of (by decide +kernel), issues_of (by decide +kernel), issues_of (by decide +kernel), by decide +kernel⟩

/-- R64 where its clauses meet: below and at 2^(emax + 1). -/
theorem wit_RoundOddNarrows : ¬ (1 * 2 ^ ((Fmt.f32.emax + 1) - min 127 (Fmt.f32.emax + 1)).toNat ≤
      1 * 2 ^ ((127 : Int) - min 127 (Fmt.f32.emax + 1)).toNat) ∧
    1 * 2 ^ ((Fmt.f32.emax + 1) - min 128 (Fmt.f32.emax + 1)).toNat ≤
      1 * 2 ^ ((128 : Int) - min 128 (Fmt.f32.emax + 1)).toNat := by decide +kernel

theorem wit_RoundOddOfExt : 0x3F800001 < 2 ^ Fmt.f32.w ∧
    (∀ n, Fmt.f32.ext 0x3F800001 3 ≠ .nan n) ∧ (∀ n, Fmt.f32.ext 0x3F800001 3 ≠ .inf n) := by
  have h : Fmt.f32.ext 0x3F800001 3 = .fin false (4 * 0x800001 + 3) (-25) := by decide +kernel
  rw [h]
  exact ⟨by decide +kernel, fun _ c => (by cases c), fun _ c => (by cases c)⟩

theorem wit_FloatSumsAndProducts : Issues s0 2 g0 k2 (frs fA 1 1 1 1) ∧ Issues s0 2 g0 k2 (frs { fA with a := .v 2, d := .v 4 } 2 2 2 0) :=
  ⟨issues_of (by decide +kernel), issues_of (by decide +kernel)⟩

theorem wit_CleanRegistersComplete : Issues s0 2 g0 k2 (irs iA 1 1 1 0) ∧
    (∀ l n, (g0.vImg l n).p = false) ∧ ∀ n, (g0.sImg n).p = false := by
  have hl : ∀ l, (g0.lane l).v = [] := by
    intro l
    rcases Nat.lt_or_ge l 32 with h | h
    · exact (by decide +kernel : ∀ l < 32, (g0.lane l).v = []) l h
    · simp [Group.lane, g0, hostGroup, lanes32, List.getD, h, Lane.none]
  exact ⟨issues_of (by decide +kernel), fun l n => by simp [Group.vImg, hl, SMap.getD, SMap.get?, Image.zero], fun n => rfl⟩

-- Control flow

theorem wit_BranchesGoTogether : let c := GCtx.make g0 k2
    Issues s0 2 g0 k2 [] ∧ (c.act = c.run ∨ c.act = 0) ∧ Issues s0 2 g0 k2 [(.v 0, 2)] ∧ c.guard c.lowSlot = true ∧
    c.consume [(.v 0, 2)] [c.lowSlot] = none ∧ c.consume [(.v 0, 2)] (maskLanes c.act) = none ∧
    Issues s0 2 g0 k2 [(.v 2, 2), (.v 0, 2)] ∧
    (∀ l m, inMask c.run l = true → inMask c.run m = true →
      (if inMask c.act l then c.pairPc (.v 0) l else c.next) = if inMask c.act m then c.pairPc (.v 0) m else c.next) := by
  refine ⟨issues_of (by decide +kernel), Or.inl (by decide +kernel), issues_of (by decide +kernel), by decide +kernel,
    by decide +kernel, by decide +kernel, issues_of (by decide +kernel), fun l m hl hm => ?_⟩
  have h : ∀ l, inMask (GCtx.make g0 k2).run l = true → l < 32 := by
    intro l h
    rcases Nat.lt_or_ge l 32 with q | q
    · exact q
    · simp [inMask, BitVec.getLsbD_of_ge _ _ q] at h
  exact (by decide +kernel : ∀ l < 32, ∀ m < 32,
    (if inMask (GCtx.make g0 k2).act l then (GCtx.make g0 k2).pairPc (.v 0) l else (GCtx.make g0 k2).next) =
      if inMask (GCtx.make g0 k2).act m then (GCtx.make g0 k2).pairPc (.v 0) m else (GCtx.make g0 k2).next) l (h l hl) m (h m hm)

/-- Predicate p0 true in the lanes below `n`. -/
def gPred (n : Nat) : Group := { g0 with lanes := g0.lanes.mapIdx (fun i l => { l with pr := if i < n then 1 else 0 }) }
def kP : Com := ⟨false, false, false, 0, .four, 0x100, 0x200⟩

/-- 20 lanes taken and 12 not, and 9 taken and 23 not. -/
theorem wit_DivergentBranchSplits : ∀ n ∈ [20, 9], let g := gPred n
    let c := GCtx.make g kP
    c.act ≠ 0 ∧ c.run &&& ~~~c.act ≠ 0 ∧ g.stack.length < stackMax ∧ c.next ≠ c.target kP.ext ∧
    c.target kP.imm ≠ c.target kP.ext ∧ 8 < min (maskCount c.act) (maskCount (c.run &&& ~~~c.act)) := by decide +kernel
theorem wit_DivergentBranchSplits_issues : Issues (sG (gPred 20)) 2 (gPred 20) kP [] := issues_of (by decide +kernel)

def eNull : Entry := ⟨0xFFFFFFFF, 0, nullFocal, 0⟩
theorem wit_PathEnds_ends : Issues s0 2 g0 k2 [] ∧ (∀ l, (g0.lane l).home = none) ∧
    (let g := { g0 with stack := [eNull] }
     Issues (sG g) 2 g k2 [] ∧ g.stack = eNull :: [] ∧ (GCtx.make g k2).act ≠ 0 ∧ eNull.focal = nullFocal) := by
  refine ⟨issues_of (by decide +kernel), fun l => ?_, issues_of (by decide +kernel), rfl, by decide +kernel, rfl⟩
  rcases Nat.lt_or_ge l 32 with h | h
  · exact (by decide +kernel : ∀ l < 32, (g0.lane l).home = none) l h
  · simp [Group.lane, g0, hostGroup, lanes32, List.getD, h, Lane.none]

/-- Group 2 compacted, with its lane 0 from lane 3 of group 5, standing at its return focal; group 5 runs on. -/
def gComp : Group := { g0 with key := some (64, 0), lanes := g0.lanes.mapIdx (fun i l =>
  if i = 0 then { l with home := some ⟨5, 0, 3⟩ } else { l with st := .exited }) }
def gHome : Group := { g0 with lanes := updAt g0.lanes 3 (fun l => { l with st := .ejected }) }
def sComp : State := { s0 with groups := [(2, gComp), (5, gHome)] }

theorem wit_PathEnds_returns : SMap.get? sComp.groups 2 = some gComp ∧ gComp.atReturn = true ∧
    (∀ l, inMask gComp.runMask l = true → ∃ h hg, (gComp.lane l).home = some h ∧ h.gid ≠ 2 ∧
        SMap.get? sComp.groups h.gid = some hg ∧ hg.runMask ≠ 0 ∧ (hg.lane h.lane).st = .ejected ∧
        h.lane < hg.lanes.length) ∧
    (∀ l m h h', inMask gComp.runMask l = true → inMask gComp.runMask m = true → (gComp.lane l).home = some h →
        (gComp.lane m).home = some h' → h.gid = h'.gid → h.lane = h'.lane → l = m) := by
  have h0 : ∀ l, inMask gComp.runMask l = true → l = 0 := by
    intro l h
    rcases Nat.lt_or_ge l 32 with q | q
    · exact (by decide +kernel : ∀ l < 32, inMask gComp.runMask l = true → l = 0) l q h
    · simp [inMask, BitVec.getLsbD_of_ge _ _ q] at h
  refine ⟨by decide +kernel, by decide +kernel, fun l h => ?_, fun l m _ _ hl hm _ _ _ _ => by rw [h0 l hl, h0 m hm]⟩
  rw [h0 l h]
  exact ⟨⟨5, 0, 3⟩, gHome, by decide +kernel, by decide +kernel, by decide +kernel, by decide +kernel, by decide +kernel,
    by decide +kernel⟩

-- Memory

def passB (s : State) (g : Group) (sp : AccessSpec) (code : BitVec 3) (n : Nat) (ls : List Nat) (off : Nat → DWord) : Bool :=
  ls.all (fun l => okC (s.chk g 2 sp code (off l) n))
theorem passes_of {s : State} {g : Group} {sp : AccessSpec} {code : BitVec 3} {n : Nat} {ls : List Nat} {off : Nat → DWord}
    (h : passB s g sp code n ls off = true) : passes s 2 g sp code n ls off :=
  fun l hl => okC_ok (List.all_eq_true.mp h l hl)

/-- The address of lane `l` is 4·l, in every pair from `v2` and in `v1`. -/
def gAddr : Group := { g0 with lanes := g0.lanes.mapIdx (fun i l =>
  { l with v := [(1, ⟨false, 0, BitVec.ofNat 32 (4 * i)⟩), (2, ⟨false, 0, BitVec.ofNat 32 (4 * i)⟩)] }) }
def sA : State := sG gAddr
def cA : GCtx := GCtx.make gAddr k2

/-- The state with the translations of the accesses of a kind cached. -/
def sTlb (sp : AccessSpec) : State := withTlbs sA 2 gAddr sp 0 4 (cA.bySlot cA.ls) (cA.memOff (.v 2) 0)

theorem wit_LoadsAndStoresComplete : Issues sA 2 gAddr k2 (mrs mA 1) ∧
    cA.consume [(.v 2, baseRegs 0), (.v 3, 1)] cA.ls = none ∧
    (∀ sp ∈ [specR .nrm 4, specW .nrm 4], passes sA 2 gAddr sp 0 4 cA.ls (cA.memOff (.v 2) 0) ∧
      reaches sA 2 gAddr sp 0 4 cA.ls (cA.memOff (.v 2) 0) false) ∧
    unheld sA 2 gAddr (specW .nrm 4) 0 4 cA.ls (cA.memOff (.v 2) 0) ∧
    orderReady (sTlb (specR .nrm 4)) 2 gAddr .sc .sys clR ∧ orderReady (sTlb (specW .nrm 4)) 2 gAddr .rel .die clW := by
  refine ⟨issues_of (by decide +kernel), by decide +kernel, ?_, by unfold unheld; decide +kernel,
    by unfold orderReady; decide +kernel, by unfold orderReady; decide +kernel⟩
  have h : [specR .nrm 4, specW .nrm 4].all (fun sp => passB sA gAddr sp 0 4 cA.ls (cA.memOff (.v 2) 0)) = true := by
    decide +kernel
  intro sp m
  refine ⟨passes_of (List.all_eq_true.mp h sp m), ?_⟩
  revert sp
  unfold reaches
  decide +kernel

def ownB (s : State) (sp : AccessSpec) (code : BitVec 3) (n : Nat) (off : Nat → DWord) (l : Nat) : Bool :=
  match s.chk gAddr 2 sp code (off l) n with
  | .ok [q] _ => q == ⟨false, 0x100000 + 4 * l, false, 0, 4⟩
  | _ => false
theorem ownB_ok {s : State} {sp : AccessSpec} {code : BitVec 3} {n l : Nat} {off : Nat → DWord}
    (h : ownB s sp code n off l = true) : ∃ es, s.chk gAddr 2 sp code (off l) n = .ok [⟨false, 0x100000 + 4 * l, false, 0, 4⟩] es := by
  unfold ownB at h
  split at h
  · next q es e => exact ⟨es, by rw [e, beq_iff_eq.mp h]⟩
  · cases h
theorem ownMiss_of (l : Nat) (h : l < 32) : sA.ownMiss gAddr.core ⟨false, 0x100000 + 4 * l, false, 0, 4⟩ := by
  refine ⟨rfl, rfl, ?_, ?_, ?_, rfl, fun u _ => rfl⟩
  · exact (by decide +kernel : ∀ l < 32, 0x100000 + 4 * l < diagBase) l h
  · exact (by decide +kernel : ∀ l < 32, (0x100000 + 4 * l) % 64 + 4 ≤ 64) l h
  · exact (by decide +kernel : ∀ l < 32, sA.mod.place (0x100000 + 4 * l) = .die 0) l h

theorem cleanSector_of (l : Nat) (h : l < 32) : sA.cleanSector 0 ⟨false, 0x100000 + 4 * l, false, 0, 4⟩ := by
  refine ⟨fun u hu => ?_, fun e h => by cases h⟩
  replace hu : u / 2 = (0x100000 + 4 * l) / 64 := hu
  have hu : u = 2 * ((0x100000 + 4 * l) / 64) + u % 2 := by omega
  have k := (by decide +kernel : ∀ l < 32, ∀ j < 2, sA.unitP (2 * ((0x100000 + 4 * l) / 64) + j) = false) l h (u % 2)
    (Nat.mod_lt _ (by decide))
  rwa [← hu] at k

theorem wit_OwnDieLoadsAndStores : mA.ord = .rlx ∧ sA.fused (sA.accOf gAddr 0) = false ∧
    sA.roomFor gAddr.core cA.ls.length ∧
    (∀ l ∈ cA.ls, ∃ q es, sA.chk gAddr 2 (specW .nrm 4) 0 (cA.memOff (.v 2) 0 l) 4 = .ok [q] es ∧ q.len = 4 ∧
      sA.ownMiss gAddr.core q) ∧
    (∀ l ∈ cA.ls, ∃ q es, sA.chk gAddr 2 (specR .nrm 4) 0 (cA.memOff (.v 2) 0 l) 4 = .ok [q] es ∧ q.len = 4 ∧
      sA.ownMiss gAddr.core q ∧ sA.cleanSector 0 q) := by
  have hl : ∀ l ∈ cA.ls, l < 32 := by decide +kernel
  have hw : cA.ls.all (ownB sA (specW .nrm 4) 0 4 (cA.memOff (.v 2) 0)) = true := by decide +kernel
  have hr : cA.ls.all (ownB sA (specR .nrm 4) 0 4 (cA.memOff (.v 2) 0)) = true := by decide +kernel
  refine ⟨rfl, by decide +kernel, by unfold State.roomFor; decide +kernel, fun l h => ?_, fun l h => ?_⟩
  · obtain ⟨es, e⟩ := ownB_ok (List.all_eq_true.mp hw l h)
    exact ⟨_, es, e, rfl, ownMiss_of l (hl l h)⟩
  · obtain ⟨es, e⟩ := ownB_ok (List.all_eq_true.mp hr l h)
    exact ⟨_, es, e, rfl, ownMiss_of l (hl l h), cleanSector_of l (hl l h)⟩

/-- The highest offset of the team store that a word has. -/
def gTs : Group := { g0 with s := [(1, ⟨false, 0, 4092⟩)] }
theorem wit_TeamStoreLoadsAndStores : let s := sG gTs
    let c := GCtx.make gTs k2
    Issues s 2 gTs k2 [(.v 3, 1), (.s 1, 1)] ∧ c.consume [(.s 1, 1), (.v 3, 1)] c.ls = none ∧
    ∀ l ∈ c.ls, (c.memOff (.s 1) 7 l).toNat % 4 = 0 ∧ (c.memOff (.s 1) 7 l).toNat + 4 ≤ (s.scratch gTs.team).1 :=
  ⟨issues_of (by decide +kernel), by decide +kernel, by decide +kernel⟩

def atB : AtArgs := ⟨k2, 0, .u32, .die, .rlx, .v 6, .v 2, .v 4, .v 5⟩
def spRW : AccessSpec := ⟨needRW, false, false, 4⟩
theorem wit_AtomicsComplete : atomForm (.cas atB) = some (atB, false, true, 5, casLane atB) ∧
    Issues sA 2 gAddr k2 (ars atB true) ∧ cA.consume [(.v 2, 2), (.v 4, 1), (.v 5, 1)] cA.ls = none ∧
    passes sA 2 gAddr spRW 0 4 cA.ls (cA.memOff (.v 2) 0) ∧ unheld sA 2 gAddr spRW 0 4 cA.ls (cA.memOff (.v 2) 0) ∧
    reaches sA 2 gAddr spRW 0 4 cA.ls (cA.memOff (.v 2) 0) true ∧ orderReady (sTlb spRW) 2 gAddr .ar .die clAT ∧
    orderReady (sTlb spRW) 2 gAddr .acq .mod clMS :=
  ⟨rfl, issues_of (by decide +kernel), by decide +kernel, passes_of (by decide +kernel),
   by unfold unheld; decide +kernel, by unfold reaches; decide +kernel, by unfold orderReady; decide +kernel,
   by unfold orderReady; decide +kernel⟩

theorem wit_AtomicsActAtHome : sA.fused (sA.accOf gAddr 0) = false ∧ sA.roomFor gAddr.core cA.ls.length ∧
    ∀ l ∈ cA.ls, ∃ q es, sA.chk gAddr 2 spRW 0 (cA.memOff (.v 2) 0 l) 4 = .ok [q] es ∧ q.len = 4 ∧
      sA.ownMiss gAddr.core q ∧ SMap.get? (sA.die (gAddr.core / 128)).far (q.pa / 256) = none ∧ q.pa % 4 = 0 ∧
      sA.cleanSector 0 q := by
  have hl : ∀ l ∈ cA.ls, l < 32 := by decide +kernel
  have hw : cA.ls.all (ownB sA spRW 0 4 (cA.memOff (.v 2) 0)) = true := by decide +kernel
  refine ⟨by decide +kernel, by unfold State.roomFor; decide +kernel, fun l h => ?_⟩
  obtain ⟨es, e⟩ := ownB_ok (List.all_eq_true.mp hw l h)
  exact ⟨_, es, e, rfl, ownMiss_of l (hl l h), rfl,
    (by decide +kernel : ∀ l < 32, (0x100000 + 4 * l) % 4 = 0) l (hl l h), cleanSector_of l (hl l h)⟩

/-- A spill of two registers through the team store from offset 64 on, and one that has no lane. -/
def spA (k : Com) : SpArgs := ⟨k, .nrm, 7, 1, .v 4, .s 1⟩
def gSp : Group := { g0 with s := [(1, ⟨false, 0, 64⟩)] }
theorem wit_SpillsAndFills : let s := sG gSp
    let c := GCtx.make gSp k2
    Issues s 2 gSp k2 [((.v 4), 2), (.s 1, 1)] ∧ c.act ≠ 0 ∧ c.consume [(.s 1, 1)] [c.low] = none ∧
    (∃ s', spillLoop (spA k2) false 2 c s 193 gSp.prog.toNat s = .done s') ∧
    (∃ s', spillLoop (spA k2) true 2 c s 193 gSp.prog.toNat s = .done s') ∧
    ((c.memOff (.s 1) 7 c.low).toNat % 64 = 0 ∧ (c.memOff (.s 1) 7 c.low).toNat + 192 * 2 ≤ (s.scratch gSp.team).1 ∧
      (s.scratch gSp.team).1 ≤ 2 ^ 32) := by
  refine ⟨issues_of ?_, ?_, ?_, doneB ?_, doneB ?_, ?_⟩ <;> decide +kernel
theorem wit_SpillsAndFills_idle : Issues (sG (gPred 0)) 2 (gPred 0) { k2 with gp := 0 } [((.v 4), 2), (.s 1, 1)] ∧
    (GCtx.make (gPred 0) { k2 with gp := 0 }).act = 0 := ⟨issues_of (by decide +kernel), by decide +kernel⟩

/-- A row of 256 bytes at offset 0 of aperture 0 for each lane, to a line at offset 0x8000. -/
def mrA : MredArgs := ⟨⟨false, false, false, 7, .three, 0x100, 0⟩, .f32, 0, some 3, .v 2, .s 2, .s 4⟩
def gMr : Group := { g0 with s := [(2, ⟨false, 0, 0x8000⟩), (4, ⟨false, 0, 0x8000⟩)] }
def sMs : State := { (sG gMr).updCore 0 (fun c => { c with tlb := { dataTlb with ms := true } :: c.tlb.drop 1 }) with
  mod := { s0.mod with featon := 0x3F } }
theorem wit_ReducesPostAndApply_send : let c := GCtx.make gMr mrA.k
    let ps := mredPkts mrA false 2 c sMs 4 0
    Issues sMs 2 gMr mrA.k (mrrs mrA 2) ∧ (gMr.prog = 0 ∧ gMr.tokPending mrA.tok = false ∧ c.act ≠ 0 ∧
      ps.2.2.isNone = true ∧ ps.1.isEmpty = false) :=
  ⟨issues_of (by decide +kernel), by decide +kernel⟩

/-- The row of lane 1 has poison in its register, so that packet 0 stops. -/
def gMrP : Group := { gMr with lanes := updAt gMr.lanes 1 (fun l => { l with v := [(2, ⟨true, 0, 0⟩)] }) }
theorem wit_ReducesPostAndApply_stop : let s := { sMs with groups := [(2, gMrP)] }
    Issues s 2 gMrP mrA.k (mrrs mrA 2) ∧ (match (mredPkts mrA false 2 (GCtx.make gMrP mrA.k) s 4 0).2.2 with
      | some (j, .bad _ t none) => j == 0 && t.cause != 0x0F
      | _ => false) = true := ⟨issues_of (by decide +kernel), by decide +kernel⟩

def oMr : AOp := ⟨2, [], 0, 0, 1, 0, 0, some 3, .mredLine .f32 0x108000 [⟨[(0, 0x100000)], false⟩], false, false, false⟩
def sMr : State := { s0 with aops := [(7, oMr), (9, oMr)] }
/-- A write of die 2 to a line of die 1 that a host holds; the home of that line knows of it. -/
def updFar : UpdPkt := ⟨2, 1, [0, 0, 1], true, 2 ^ 29 + 5, [(2 ^ 37 + 1280, 9)], 0, 0, 0, 0, 0, 0, 2, false⟩
def heldDies : List (Nat × Die) :=
  [(1, { Die.init with clock := [0, 0, 1], upd := [updFar], hostHeld := [(2 ^ 29 + 5, true)] })]
/-- The reduce of a line of die 1, at whose home that write waits. -/
def oMrFar : AOp := { oMr with kind := .mredLine .f32 (2 ^ 37) [⟨[(0, 0x100000)], false⟩] }
def sMrHeld : State := { s0 with aops := [(7, oMrFar)], dies := heldDies }
theorem wit_ReducesPostAndApply_apply : SMap.get? sMr.aops 7 = some oMr ∧ SMap.get? sMr.aops 9 = some oMr ∧
    (oMr.left = [0] ∧ oMr.isCopy = false ∧ sMr.olderOp 7 oMr = false ∧ sMr.olderOp 9 oMr = true) ∧
    sMr.reachAll 0 true (oMr.mredSegs 0) = true ∧ SMap.get? sMrHeld.aops 7 = some oMrFar ∧
    sMrHeld.reachAll 0 true (oMrFar.mredSegs 0) = false := by decide +kernel

/-- A copy of 64 bytes in flight. -/
def oCp : AOp := ⟨2, [], 0, 0, 1, 0, 0, some 3,
  .copy [⟨[⟨false, 0x100000, false, 0, 64⟩], [⟨false, 0x101000, false, 0, 64⟩]⟩] none, false, false, false⟩

theorem wit_PrefetchMaintenanceAndFences : let x : LnArgs := ⟨k2, .nrm, 0, .l1, .v 2⟩
    prefetchForm (.pfL2 x) = some (x, .l2) ∧ maintForm (.cmntIc x) = some (x, State.icDrop) ∧
    Issues sA 2 gAddr k2 (lnrs x) ∧ cA.consume [(.v 2, 2)] cA.ls = none ∧
    passes sA 2 gAddr ⟨needR, false, false, 1⟩ 0 1 cA.ls (cA.memOff (.v 2) 0) ∧
    reaches sA 2 gAddr ⟨needR, false, false, 1⟩ 0 1 cA.ls (cA.memOff (.v 2) 0) false ∧
    (cA.act ≠ 0 ∧ sA.fenceReady 2 gAddr .sys 2 = true ∧ (sA.fence gAddr .sys 2 2).fenceSent gAddr .sys 2 = true) ∧
    ({ sA with aops := [(7, oCp)] } : State).fenceReady 2 gAddr .die 8 = false := by
  refine ⟨rfl, rfl, issues_of ?_, ?_, passes_of ?_, by unfold reaches; decide +kernel, ?_, ?_⟩ <;> decide +kernel

def tiA : TierArgs := ⟨u2, 0, .s 1, .s 2, .s 4⟩
def sTop : State := { s0 with tops := [(9, ⟨2, 0, some 1, 0, [], 0⟩)] }
/-- Object 5 of VD 0, a flash object by its table entry, with a pool of two frames. -/
def sObj (o : TObj) : State := { s0 with
  mem := Memory.putBytes s0.mem 0x2000A0 [1]
  vds := [(0, { Vd.init with objs := [(5, o)], inf := { VdEnt.init with totbase := 0x200000, tpbase := 0x300000, tpframes := 2 } })] }
/-- A group that the operation 9 owes a status in `s1`, and one whose `s1` has a younger write. -/
def gOwe : Group := { g0 with pend := [[.o 9 1]] }
def sOwe (g : Group) : State := { sTop with groups := [(2, g)] }
theorem wit_TierOperations : tierForm (.tierPin tiA) = some (tiA, 0) ∧ Issues s0 2 g0 u2 (trs tiA) ∧
    ((GCtx.make g0 u2).consume [(tiA.a, 2), (tiA.b, 1)] (GCtx.make g0 u2).ls = none ∧
      (GCtx.make g0 u2).data tiA.b (GCtx.make g0 u2).low 1 = 0) ∧
    (SMap.get? (sOwe g0).tops 9 = some ⟨2, 0, some 1, 0, [], 0⟩ ∧ SMap.get? (sOwe g0).groups 2 = some g0 ∧ 9 ∉ g0.owed) ∧
    (SMap.get? (sOwe gOwe).groups 2 = some gOwe ∧ gOwe.pend[0]? = some [.o 9 1] ∧ gOwe.pend.length = 1) ∧
    (let o := (sObj { TObj.init with waiters := [2] }).obj 0 5
     o.st = .low ∧ o.waiters ≠ [] ∧ o.lost = false) ∧
    (let s := sObj { TObj.init with st := .promoting }
     (s.obj 0 5).st = .promoting ∧ (s.freeFrames 0).take (s.objFrames 0 5) = [0x300000] ∧ s.objFrames 0 5 = 1 ∧
       (s.obj 0 5).queue = []) ∧
    (let s := sObj { TObj.init with st := .demoting, frames := [0x300000] }
     let s1 := (s.obj 0 5).frames.foldl State.flushFrame (s.mapObj 0 5 [])
     (s.obj 0 5).st = .demoting ∧ (s.obj 0 5).queue = [] ∧ (s.obj 0 5).frames.any s1.frameBusy = false) :=
  ⟨rfl, issues_of (by decide +kernel), by decide +kernel⟩

/-- The frames of an object of one, and a lost and a sound object that accesses wait for. -/
theorem wit_TierOperations_frames : let s := sObj { TObj.init with st := .promoting }
    s.objLost 0 5 = false ∧ s.pickFrames 0 5 = some [0x300000] ∧ s.devQ = [] ∧
    frameRun [0x300000, 0x310000] 1 = some [0x300000] ∧ (frameRun [0x310000, 0x320000] 2).isNone = true ∧
    (sObj { TObj.init with st := .low, waiters := [2], lost := true }).objLost 0 5 = true := by decide +kernel

-- System and traps

/-- A group in its handler, all of whose lanes go back to the trapping instruction at 16. -/
def gH : Group := { g0 with inH := true, tvec := 0x40, tpc := 16, lanes := g0.lanes.map (fun l => { l with hnd := true, ret := 16, pc := 0x40 }) }
def csrA (n : BitVec 12) : CsrArgs := ⟨u2, n, .s 2, .s 4⟩

/-- An allowed write of each kind, in a handler where it needs one; a read-only register, and one of a handler outside. -/
theorem wit_ControlRegisters : Issues s0 2 g0 u2 (csrRs (csrA 0x41)) ∧ Issues (sG gH) 2 gH u2 (csrRs (csrA 0x52)) ∧
    Csr.ofNum 0x42 = none ∧
    (∀ e ∈ [((0x41 : BitVec 12), Csr.fflags), (0x60, .rng), (0x40, .rmode)], Csr.ofNum e.1 = some e.2 ∧
      (Csr.ro e.2 || (Csr.hOnly e.2 && !g0.inH)) = false ∧
      (GCtx.make g0 u2).consume [(.s 4, e.2.regs)] (GCtx.make g0 u2).ls = none) ∧
    (Csr.ofNum 0x52 = some .lst ∧ (Csr.ro .lst || (Csr.hOnly .lst && !gH.inH)) = false ∧
      (GCtx.make gH u2).consume [(.s 4, Csr.regs .lst)] (GCtx.make gH u2).ls = none) ∧
    (∀ e ∈ [((0x00 : BitVec 12), Csr.lane), (0x50, .lsel)], Csr.ofNum e.1 = some e.2 ∧
      (Csr.ro e.2 || (Csr.hOnly e.2 && !g0.inH)) = true) ∧
    g0.pend = [] ∧ g0.owed = [] ∧ (GCtx.make g0 u2).ls = [0] :=
  ⟨issues_of (by decide +kernel), issues_of (by decide +kernel), by decide +kernel, by decide +kernel, by decide +kernel,
   by decide +kernel, rfl, rfl, by decide +kernel⟩

def sDbg : State := { s0 with
  ctxs := [(0, ⟨0, 0, false, true, none, false, false, [], []⟩)]
  vds := [(0, { Vd.init with inf := { VdEnt.init with flags := 4 } })]
  mod := { s0.mod with featon := 0x3F } }
theorem wit_NopsAndStops : Issues s0 2 g0 u2 [] ∧ s0.debugged 0 = false ∧ sDbg.debugged 0 = true :=
  ⟨issues_of (by decide +kernel), by decide +kernel, by decide +kernel⟩

theorem wit_TrapsEnterTheHandler :
    (SMap.get? (sG { g0 with tvec := 0x40 }).groups 2 = some { g0 with tvec := 0x40 }) ∧ g0.owed = [] ∧ g0.tvec = 0 ∧
    g0.inH = false ∧ gH.inH = true ∧ ({ g0 with pend := [[.o 3 1]] } : Group).owed ≠ [] := by decide +kernel

theorem wit_TrapInstructions : Issues s0 2 g0 u2 [] ∧ s0.cur = some 2 ∧ SMap.get? s0.groups 2 = some g0 ∧
    g0.runMask ≠ 0 ∧ causeRaised 4 = true :=
  ⟨issues_of (by decide +kernel), by decide +kernel, by decide +kernel, by decide +kernel, by decide +kernel⟩

/-- A grid of one team, with one more to dispatch on die 0. -/
def gr0 : Grid :=
  { recv := 0, vd := 0, ctx := 0, queue := 0, prevQ := none, succ := false, seq := 0, addr := 0, aper := 0
    lr := { flags := 0, desc := 0, codeap := 0, apers := [], gx := 2, gy := 1, gz := 1, argoff := 0, argap := 0, prio := 0
            seed := 0, gridid := 0, pred := 0, chain := 0, dies := 1, msix := 0, compoff := 0, compap := 0, evtag := 0
            evcl := 0, wcl := 0, waittag := 0, waitcnt := 0, tslen := 0, tsap := 0, tsoff := 0 }
    desc := { span := 1, fuse := false, cores := false, entry := 0, tvec := 0, codesize := 0, g := 1, s := 0, p := 0, c := 0
              vbn := 24, vbp := 0, vbc := 0, sregs := 16, scratch := 0, canvas := 0, curve := 0, argbytes := 0, shx := 32
              shy := 1, shz := 1, strip := 0, barp := [], barc := [] }
    teams := 2, parts := [⟨0, 0, .dispatching, [⟨1, 2, some 0⟩]⟩], pred := none, parent := none, parentGrid := none, ran := 1
    retired := 0, relTeams := 0, trunc := false, fault := false, heldSeen := 0, accepted := 0, wu := 0, bars := [], blocks := []
    fwd := [], det := 0, also := [], saved := 0, relGrps := [], placing := false, refused := none, posted := false, tag := 0 }
def sGrid : State := { s0 with grids := [(7, gr0)], teams := [(1, { t0 with grid := 7 })] }

theorem wit_UnhandledTrapsFaultTheGrid : SMap.get? sGrid.groups 2 = some g0 ∧ g0.owed = [] ∧ g0.tvec = 0 ∧
    SMap.get? sGrid.teams g0.team = some { t0 with grid := 7 } ∧ t0.det = false ∧ SMap.get? sGrid.grids 7 = some gr0 := by
  decide +kernel

/-- Lane 0 is aligned, lane 1 is the lowest that is not. -/
def gOdd : Group := { g0 with lanes := g0.lanes.mapIdx (fun i l => { l with v := [(2, ⟨false, 0, BitVec.ofNat 32 (2 * i)⟩)] }) }
theorem wit_MisalignedAccessesTrap : Issues (sG gOdd) 2 gOdd k2 (mrs mA 1) ∧
    (GCtx.make gOdd k2).consume [(.v 2, 2), (.v 3, 1)] (GCtx.make gOdd k2).ls = none ∧
    (GCtx.make gOdd k2).ls.find? (fun l => ((GCtx.make gOdd k2).memOff (.v 2) 0 l).toNat % 4 != 0) = some 1 ∧
    Issues (sG gOdd) 2 gOdd k2 (ars atB true) :=
  ⟨issues_of (by decide +kernel), by decide +kernel, by decide +kernel, issues_of (by decide +kernel)⟩

theorem wit_ReturnsFromTheHandler : Issues (sG gH) 2 gH u2 [] ∧ gH.mayReturn = true ∧ g0.mayReturn = false ∧
    ∃ s1 ws, (sG gH).fetch gH 2 gH.tpc = (s1, .ok ws) ∧ ws ≠ [] := by
  refine ⟨issues_of (by decide +kernel), by decide +kernel, by decide +kernel, ?_⟩
  have h : (match ((sG gH).fetch gH 2 gH.tpc).2 with | .ok ws => !ws.isEmpty | _ => false) = true := by decide +kernel
  obtain ⟨s1, ws, e⟩ := fetch_ok (x := (sG gH).fetch gH 2 gH.tpc) (by decide +kernel)
  rw [e] at h
  exact ⟨s1, ws, e, by rintro rfl; cases h⟩

-- The easel

/-- `m1` is an FP32 canvas, `m2` a one-bit table; the pool has four slots. -/
def tCv : Team := { t0 with canvas := 4, pool := 4, binds := [(1, 3), (2, 4)] }
def sCv : State := { s0 with
  canvases := [(3, ⟨1, .f32, true, []⟩), (4, ⟨1, .lut1, true, []⟩)]
  teams := [(1, tCv)], nid := 9 }
def f1 : CF := ⟨false, 0, 1⟩
theorem cvOk {m : BitVec 4} {p : CTy → Bool} (h : okB (sCv.canvasOf g0 m p) = true) : ∃ v, sCv.canvasOf g0 m p = .ok v := okB_ok h

theorem wit_EaselInstructionsPost : (∃ v, sCv.canvasOf g0 1 (fun t => t == mmCanvas .bf16) = .ok v) ∧
    (∃ v, sCv.canvasOf g0 2 (fun t => t == lutTy 0) = .ok v) ∧ (∃ v, sCv.canvasOf g0 1 (cnRegLoads .f32) = .ok v) ∧
    Issues sCv 2 g0 (k3 0xC6) [(.v 16, (mmBlock .bf16).2), (.v 32, (mmBlock .bf16).2), (.none, 1), (.s 6, 1)] ∧
    Issues sCv 2 g0 k2 [(.v 0, 32), (.s 0, codeRegs 0)] ∧ Issues sCv 2 g0 k2 [] ∧
    ((GCtx.make g0 k2).act ≠ 0 ∧ ((sCv.cluster 0).ops.filter (fun o => o.isPass && !o.done)).length + 1 ≤ 32) := by
  refine ⟨cvOk ?_, cvOk ?_, cvOk ?_, issues_of ?_, issues_of ?_, issues_of ?_, ?_⟩ <;> decide +kernel
/-- Both canvases of a pass, and the type of `m1`, which takes any row register. -/
theorem wit_EaselInstructionsPost_tables : (∃ v, sCv.passCvs g0 [(1, fun t => t == mmCanvas .bf16)] = .ok [v]) ∧
    (∃ v w, sCv.passCvs g0 [(1, fun t => t == .f32), (2, fun t => t == lutTy 0)] = .ok [v, w]) ∧
    ∃ v, sCv.canvasOf g0 1 (fun t => t == .f32 || t == .f64) = .ok v ∧ v.2.ty ≠ .f64 :=
  ⟨⟨3, by rfl⟩, ⟨3, 4, by rfl⟩, (3, ⟨1, .f32, true, []⟩), by rfl, by decide⟩

theorem wit_CanvasLoadsStoresAndRows : Issues sCv 2 g0 cnA.k [(.s 2, 2)] ∧
    (GCtx.make g0 cnA.k).consume [(.s 2, 2)] [(GCtx.make g0 cnA.k).low] = none ∧
    (∃ v, sCv.canvasOf g0 1 (cnStores .f32) = .ok v) ∧ (∃ v, sCv.canvasOf g0 1 (cnRegStores .f32) = .ok v) ∧
    (∃ v, sCv.canvasOf g0 1 cySquare = .ok v) ∧
    (∀ r < 32, ∃ gs es, sCv.chk g0 2 ⟨needW, false, true, 4⟩ 0 (rowOff cnA (GCtx.make g0 cnA.k) r) 128 = .ok gs es) ∧
    (∀ r < 32, ∃ gs es, sCv.chk g0 2 ⟨needR, false, true, 4⟩ 0 (rowOff cnA (GCtx.make g0 cnA.k) r) 128 = .ok gs es) ∧
    (sCv.hostLines ((List.range 32).flatMap (fun r =>
        (sCv.chk g0 2 ⟨needW, false, true, 4⟩ 0 (rowOff cnA (GCtx.make g0 cnA.k) r) 128).segs)) = [] ∧
      sCv.canvasQuiet 0 3 = true ∧ canvasPoison ⟨1, .f32, true, []⟩ f1 = none) ∧
    Issues sCv 2 g0 k2 [(.v 0, 32)] ∧ Issues sCv 2 g0 k2 [] := by
  have hw : (List.range 32).all (fun r => okC (sCv.chk g0 2 ⟨needW, false, true, 4⟩ 0 (rowOff cnA (GCtx.make g0 cnA.k) r) 128)) = true := by
    decide +kernel
  have hr : (List.range 32).all (fun r => okC (sCv.chk g0 2 ⟨needR, false, true, 4⟩ 0 (rowOff cnA (GCtx.make g0 cnA.k) r) 128)) = true := by
    decide +kernel
  refine ⟨issues_of ?_, ?_, cvOk ?_, cvOk ?_, cvOk ?_,
    fun r h => okC_ok (List.all_eq_true.mp hw r (List.mem_range.mpr h)),
    fun r h => okC_ok (List.all_eq_true.mp hr r (List.mem_range.mpr h)), ?_, issues_of ?_, issues_of ?_⟩ <;> decide +kernel

/-- Allocations that fit and that do not, grows at once, refused and waiting, an answered wait, a trim, a step of the
grows. -/
theorem wit_CanvasPool : SMap.get? sCv.teams g0.team = some tCv ∧ Issues sCv 2 g0 k2 [] ∧ (GCtx.make g0 k2).act ≠ 0 ∧
    SMap.get? tCv.binds 0 = none ∧ sCv.slotsUsed 1 true + cySlots .i32 ≤ tCv.pool ∧
    (let t : Team := { tCv with pool := 2 }
     let s : State := { sCv with teams := [(1, t)] }
     t.pool < s.slotsUsed 1 true + cySlots .f64 ∧ t.pool < s.slotsUsed 1 false + cySlots .f64) ∧
    (∃ v, sCv.canvasOf g0 1 (fun _ => true) = .ok v) ∧
    Issues sCv 2 g0 k2 [(.lit, 1)] := by
  refine ⟨?_, issues_of ?_, ?_, ?_, ?_, ?_, cvOk ?_, issues_of ?_⟩ <;> decide +kernel
/-- A grow that waits alone, on an easel with one slot free and on one with none, its team the only holder. -/
def sGrow (free : Nat) : State := sCv.updCluster 0 (fun x => { x with free := free, grows := [⟨2, 1, k2, 1, 3⟩] })
theorem wit_CanvasPool_grows : (GCtx.make g0 (k3 1)).consume [(.lit, 1)] [(GCtx.make g0 (k3 1)).low] = none ∧
    (∀ w ∈ (sCv.cluster 0).grows, w.gid ≠ 2) ∧ sCv.growNow g0 1 = some true ∧ sCv.growNow g0 33 = some false ∧
    (sCv.updCluster 0 (fun x => { x with free := 0 })).growNow g0 1 = none ∧
    min (min 1 (tCv.pool - tCv.canvas)) (tCv.pool - sCv.slotsUsed 1 false) ≤ tCv.pool - sCv.slotsUsed 1 true ∧
    ((sGrow 1).growStep 0 = some (⟨2, 1, k2, 1, 3⟩, true) ∧ (sGrow 0).growStep 0 = some (⟨2, 1, k2, 1, 3⟩, false) ∧
      SMap.get? (sGrow 0).groups 2 = some g0) := by decide +kernel

def opZ : EOp := ⟨11, 2, [], 0, 1, 0, 3, none, .zero false 0, 0, 0, 0, 0, 0, 0, 0, false, false⟩
def opP : EOp := { opZ with id := 12, kind := .pass .bf16 false false false false false 0 [] [] [] [] }
/-- A group with a register result of canvas 3 outstanding. -/
def gRes : Group := { g0 with eres := [(3, .s 1 Image.zero)], pend := [[.s 1 Image.zero]] }
def sEz (os : List EOp) : State := sCv.updCluster 0 (fun x => { x with ops := os })
theorem wit_EaselCompletion : Issues (sEz [opZ]) 2 g0 u2 [] ∧ (∀ o ∈ (sCv.cluster 0).ops, o.gid ≠ 2) ∧
    (∃ o ∈ ((sEz [opZ]).cluster 0).ops, o.mine (g0.ids 2) = true ∧ ∃ i ∈ ((sEz [opZ]).bound? g0 1).toList, o.cv = i ∨ o.cv2 = some i) ∧
    (g0.held = none ∧ gRes.eres = [(3, .s 1 Image.zero)] ∧ (∃ e ∈ gRes.eres, ∃ w ∈ gRes.pend, e.2 ∈ w)) ∧
    ((sEz [opP]).nextPass 0).isSome = true ∧ ((sEz [opZ]).nextOp 0).isSome = true :=
  ⟨issues_of (by decide +kernel), by decide +kernel, ⟨opZ, by decide +kernel, by decide +kernel, 3, by decide +kernel, Or.inl rfl⟩,
   by decide +kernel, by decide +kernel, by decide +kernel⟩

-- Asynchronous work, tokens and synchronisation

/-- A copy of 64 bytes from offset 0 to 0x1000 (R243); one of none; one with its row posted. -/
def gCp : Group := { g0 with s := [(4, ⟨false, 0, 0x1000⟩), (8, ⟨false, 0, 64⟩)] }
theorem wit_CopiesPost_acpy : let s := sG gCp
    let c := GCtx.make gCp acA.k
    let q := geomOf c acA
    Issues s 2 gCp u2 [(.s 4, 2), (.s 6, 2), (.s 8, geomRegs 0)] ∧ Issues s0 2 g0 u2 [(.s 4, 2), (.s 6, 2), (.s 8, geomRegs 0)] ∧
    (gCp.prog = 0 ∧ gCp.tokPending acA.tok = false ∧ c.consume [(.s 4, 2), (.s 6, 2), (.s 8, geomRegs 0)] [c.low] = none ∧
      (geomTrap c acA q).isNone = true ∧ (if q.x == 0 then 0 else q.y * q.z) = 1 ∧ okC (rowChk acA q 2 c s 0).1 = true ∧
      okC (rowChk acA q 2 c s 0).2 = true ∧ s.hostLines (rowChk acA q 2 c s 0).2.segs = []) ∧
    (let c0 := GCtx.make g0 acA.k
     (if (geomOf c0 acA).x == 0 then 0 else (geomOf c0 acA).y * (geomOf c0 acA).z) = 0) :=
  ⟨issues_of (by decide +kernel), issues_of (by decide +kernel), by decide +kernel, by decide +kernel⟩

def gtB : GthArgs := { gtA with k := k3 64 }
theorem wit_CopiesPost_gather : let c := GCtx.make g0 gtB.k
    Issues s0 2 g0 gtB.k (gthRs gtB) ∧ Issues (sG (gPred 0)) 2 (gPred 0) { k2 with gp := 0 } (gthRs gtB) ∧
    (c.act ≠ 0 ∧ g0.tokPending gtB.tok = false ∧ c.consume (gthRs gtB) (maskLanes c.act) = none ∧
      ∀ l ∈ maskLanes c.act, okC (s0.chk g0 2 ⟨needR, false, false, 4⟩ 0 (gthRow gtB c l) 64) = true ∧
        okC (s0.chk g0 2 ⟨needW, false, false, 4⟩ 7 (gthBlk gtB c l) 64) = true) ∧
    (GCtx.make (gPred 0) { k2 with gp := 0 }).act = 0 :=
  ⟨issues_of (by decide +kernel), issues_of (by decide +kernel), by decide +kernel, by decide +kernel⟩

def sCp : State := { s0 with aops := [(7, oCp), (9, oCp)] }
/-- A copy from die 1, whose home knows of that write. -/
def oCpFar : AOp := { oCp with kind := .copy [⟨[⟨false, 2 ^ 37 + 1280, false, 0, 64⟩], [⟨false, 0x101000, false, 0, 64⟩]⟩] none }
theorem wit_CopiesPost_complete : SMap.get? sCp.aops 7 = some oCp ∧ SMap.get? sCp.aops 9 = some oCp ∧
    (oCp.ran = false ∧ sCp.reachAll oCp.core false oCp.kind.segs = true ∧ sCp.olderOp 7 oCp = false ∧
      sCp.olderOp 9 oCp = true ∧ (sCp.cluster 0).evq.length < evqMax) ∧
    (let s : State := { s0 with aops := [(7, oCpFar)], dies := heldDies }
     SMap.get? s.aops 7 = some oCpFar ∧ s.reachAll oCpFar.core false oCpFar.kind.segs = false) := by decide +kernel

/-- Token 0 complete, token 1 pending; the mask in `s1`. -/
def gTk (m : Nat) : Group := { g0 with
  s := [(1, ⟨false, 0, BitVec.ofNat 32 m⟩)]
  toks := updAt (updAt g0.toks 0 (fun t => { t with st := .complete })) 1 (fun t => { t with st := .pending }) }
def evR : EvRec := ⟨0, 0, 0, 0, 0, 0, 0, 0, 0⟩
def sEv : State := s0.updCluster 0 (fun x => { x with evq := [evR] })
/-- The complete tokens that a wait on the set of the mask finds. -/
def foundToks (m : Nat) : List Tok := (((gTk m).ready (namedToks m)).map (gTk m).tok).filter (fun t => t.st == .complete)
theorem wit_TokensAndEvents : Issues (sG (gTk 1)) 2 (gTk 1) u2 [(.s 2, 1), (.s 1, 1)] ∧
    Issues (sG (gTk 1)) 2 (gTk 1) u2 [(.s 1, 1)] ∧ Issues s0 2 g0 k2 [] ∧
    (∀ m ∈ [1, 2, 3], (SMap.get? (sG (gTk m)).groups 2 = some (gTk m)) ∧
      (GCtx.make (gTk m) u2).consume [(.s 1, 1)] [(GCtx.make (gTk m) u2).low] = none ∧
      ((sG (gTk m)).tokTake (gTk m) (foundToks m)).tokTook (gTk m) (foundToks m) = true) ∧
    ((∀ j ∈ namedToks 1, ((gTk 1).tok j).st ≠ .pending) ∧ (∃ j ∈ namedToks 2, ((gTk 2).tok j).st = .pending) ∧
      ∃ j ∈ namedToks 3, ((gTk 3).tok j).st ≠ .pending) ∧
    (s0.released 2 g0 .mod true = true ∧ (s0.cluster 0).evq.length < evqMax ∧ (sEv.cluster 0).evq = evR :: []) :=
  ⟨issues_of (by decide +kernel), issues_of (by decide +kernel), issues_of (by decide +kernel), by decide +kernel⟩

/-- Communicator 1 of two ranks of this module, both of context 0. -/
def rk : Rank := ⟨1, 0, 0, 0, 0, 0⟩
def cm : Comm := ⟨true, 0, [rk, rk]⟩
def acR : AcolArgs := ⟨com true .four 1 0, .nrm, .f32, 0, some 2, .s 4, .s 6, .s 8⟩
def gAc : Group := { g0 with s := [(4, ⟨false, 0, 0x1000⟩), (6, ⟨false, 0, 0x2000⟩), (8, ⟨false, 0, 8⟩)] }
def sAc : State := { (sG gAc) with mod := { s0.mod with comms := [⟨false, 0, []⟩, cm], commcnt := 2, featon := 0x3F } }
def cR (r n : Nat) : CollRank :=
  ⟨r, 2, [], 0, 0, 1, 0, some 2, 5, 0, .f32, n, [], [], [], List.replicate n 0, List.replicate n false⟩
/-- A collective of both ranks; `w` says that a peer withdrew, `ch` that the communicator was changed. -/
def coll2 (n1 : Nat) (w ch : Bool) : Coll := ⟨1, 0, [cR 0 2, cR 1 n1], [], w, ch, []⟩
def sCol (k : Coll) : State := { sAc with mod := { sAc.mod with colls := [k] } }

theorem wit_Collectives : let c := GCtx.make gAc acR.k
    Issues sAc 2 gAc acR.k (acrs acR) ∧ sAc.acolRank c.g acR.k = some (cm, rk) ∧
    (gAc.tokPending acR.tok = false ∧ c.consume [(acR.a, 2), (acR.b, 2), (acR.c, 1)] [c.low] = none ∧
      c.data acR.a c.low 2 % 4 = 0 ∧ c.data acR.b c.low 2 % 4 = 0) ∧
    (let snd := sAc.chk c.g 2 ⟨needR, false, false, 4⟩ 0 (BitVec.ofNat 64 (c.data acR.a c.low 2)) (acSend 0 8 2 * 4)
     let rcv := sAc.chk c.g 2 ⟨needW, false, false, 4⟩ 0 (BitVec.ofNat 64 (c.data acR.b c.low 2)) (acRecv 0 8 2 * 4)
     okC snd = true ∧ okC rcv = true ∧ sAc.hostLines rcv.segs = [] ∧ sAc.reachAll 0 false (snd.segs ++ rcv.segs) = true) :=
  ⟨issues_of (by decide +kernel), by decide +kernel⟩

theorem wit_Collectives_ends : (∀ e ∈ [(2, false, false), (2, true, false), (3, false, false), (2, false, true)],
      let k := coll2 e.1 e.2.1 e.2.2
      let s := sCol k
      (s.joinAll 0).joinedAll 0 = true ∧ (s.joinAll 0).mod.comm? 1 = some cm ∧
      (s.mod.colls.find? (fun c => c.comm == 1 && c.ranks.any (fun x => x.rank == 0) && !c.doneRanks.contains 0) = some k) ∧
        k.ranks.find? (fun x => x.rank == 0) = some (cR 0 2) ∧ s.mod.olderColl (cR 0 2) = false ∧
        s.reachAll 0 false ((cR 0 2).send ++ (cR 0 2).recv) = true) ∧
    (sCol (coll2 2 false false)).mod.comm? 1 = some cm ∧
    (let m := (sCol (coll2 2 false false)).mod
     ({ m with comms := [] } : Module).comm? 1 = none ∧
       ({ m with colls := { coll2 2 false false with comm := 0, ranks := [{ cR 0 2 with id := 4 }] } :: m.colls } : Module).olderColl
         (cR 0 2) = true) := by decide +kernel

theorem wit_Collectives_parts : ∃ ps qs : List AcPart,
    (List.range 2).map (fun q => (coll2 2 false false).part cm.ranks 0 q) = ps.map some ∧
    (List.range 2).map (fun q => (coll2 3 false false).part cm.ranks 0 q) = qs.map some ∧
    (∀ o ∈ ps, o.kind = 0 ∧ o.ty = acCode .f32 ∧ o.n = 2) ∧ ∃ o ∈ qs, o.n ≠ (qs.headD ⟨0, 0, 0, [], []⟩).n := by
  let p (n : Nat) : AcPart := ⟨0, acCode .f32, n, List.replicate n 0, List.replicate n false⟩
  exact ⟨[p 2, p 2], [p 2, p 3], rfl, rfl, by decide, by decide⟩

/-- Team barrier 0 is declared with a target of two, and barrier 1, which no group but one has to reach. -/
def b2 : TBar := ⟨false, ⟨2, 1, 1⟩, ⟨0, 0, 0⟩⟩
def b1 : TBar := ⟨false, ⟨1, 0, 0⟩, ⟨0, 0, 0⟩⟩
def tBar : Team := { t0 with grid := 7, bars := [(0, b2), (1, b1)] }
def sBar : State := { sGrid with teams := [(1, tBar)] }
/-- The state of a wait of the group on a side of a team barrier. -/
def sWaits (n : Nat) (s : State) : State := s.updGroup 2 (fun g1 => { g1 with wait := .bar .team n 0 false })
theorem wit_BarriersAndGates : Issues sBar 2 g0 u2 [] ∧ Issues { sBar with groups := [(2, gComp)] } 2 gComp u2 [] ∧
    (sBar.barAt g0 .team 2).isNone = true ∧
    ((sBar.barAt g0 .team 0).any (fun b => exceeds b.gen (g0.wCount .team 0 b.wai)) = true ∧
      (sBar.barAt g0 .team 1).any (fun b => !exceeds b.gen (g0.wCount .team 1 b.wai)) = true) ∧
    (g0.compacted = false ∧ gComp.compacted = true ∧ sBar.released 2 g0 .team false = true ∧ sBar.inFlight 2 g0 < 16 ∧
      (sBar.handOff g0 .team).handedOff g0 .team = true) ∧
    ((sWaits 1 sBar).deadlocked g0.team = true ∧
      (sWaits 1 { sBar with groups := sBar.groups ++ [(4, { g0 with slot := 1 })] }).deadlocked g0.team = false) := by
  refine ⟨issues_of ?_, issues_of ?_, ?_, ?_, ?_, ?_⟩ <;> decide +kernel
/-- A `.sync` whose arrival completes the side. -/
theorem wit_BarriersAndGates_sync : let s1 := ((sBar.fence g0 .team ordSet 0).arrive 2 g0 .team 1 0).updGroup 2 (fun g1 => g1.setProg 1)
    (g0.prog != 0 || (g0.inH && g0.wait == .bar .team 1 0 true)) = false ∧
    ((SMap.get? s1.groups 2).any (fun g1 => (s1.barAt g1 .team 1).any (fun b => exceeds b.gen (g1.wCount .team 1 0) &&
      b.wai == 0))) = true ∧ (s1.handOff g0 .team).handedOff g0 .team = true := by decide +kernel
theorem wit_BarriersAndGates_teams : SMap.get? sBar.teams g0.team = some tBar ∧ SMap.get? tBar.bars 0 = some b2 ∧
    b2.full.tgt ≤ b2.full.cnt + 1 ∧ (⟨2, 0, 1⟩ : BarSide).cnt + 1 < (⟨2, 0, 1⟩ : BarSide).tgt ∧
    (∀ f ∈ [(2, 0), (2, 4)], ({ gr0 with fwd := [f] } : Grid).fwd[0]? = some f) ∧ sBar.predReleased 1 = true ∧
    (sBar.handOff g0 .mod).handedOff g0 .mod = true ∧ sBar.released 2 g0 .mod true = true ∧
    ({ sBar with grids := [(6, gr0), (7, { gr0 with pred := some 6 })] } : State).predReleased 1 = false := by decide +kernel

-- Tasks and continuations

theorem wit_RangeTasks : let c := GCtx.make g0 u2
    let k := sGrid.chk g0 2 ⟨needR, false, false, 256⟩ 0 (c.memOff (.s 2) 0 c.low) 256
    Issues sGrid 2 g0 u2 [(.s 2, 2)] ∧ Issues sGrid 2 g0 u2 [] ∧ (g0.tokPending (some 1) = false ∧
    c.consume [(.s 2, 2)] [c.low] = none ∧ okC k = true ∧
    sGrid.released 2 g0 .die false = true ∧ sGrid.reachAll g0.core false k.segs = true) ∧ sGrid.nested 0 < 64 ∧
    64 ≤ ({ sGrid with grids := (List.range 64).map (fun i => (7 + i, { gr0 with parent := some (2, 0) })) } : State).nested 0 ∧
    SMap.get? sGrid.teams g0.team = some { t0 with grid := 7 } ∧ SMap.get? sGrid.grids 7 = some gr0 :=
  ⟨issues_of (by decide +kernel), issues_of (by decide +kernel), by decide +kernel⟩
def accOk : Accept → Bool
  | .ok .. => true
  | _ => false
/-- The record that a spawn reads there is taken up. -/
theorem wit_RangeTasks_spawn : let s := { sGrid with dies := [(0, { Die.init with stage := 4, fsw := [(0, 0x100001)] })] }
    let s1 := s.fence g0 .die ordSet 0
    let c := GCtx.make g0 u2
    let r := s1.readSegs (s1.accOf g0 0) .die .nrm (s.chk g0 2 ⟨needR, false, false, 256⟩ 0 (c.memOff (.s 2) 0 c.low) 256).segs
    accOk (r.1.acceptLaunch 0 0 0 0 (c.memOff (.s 2) 0 c.low) (g0.aper 0) r.2.1 r.2.2 (some (2, 1)) (s1.gridOf g0) 2) = true := by
  decide +kernel

/-- A group with the smallest budgets, a capacity of 16 KiB in `s10` and offset 0x8000 in `s2`, `s3`. -/
def gSu : Group := { g0 with vb := 8, sn := 12, s := [(2, ⟨false, 0, 0x8000⟩), (10, ⟨false, 0, 0x4000⟩)] }
/-- The bytes other than zero of a suspended object of it (R262), as `susp` of such a group writes them. -/
def objMem : List Host.Cell :=
  ((([(0, 79), (1, 67), (2, 84), (3, 75), (4, 1), (8, 1), (16, 1), (20, 15), (29, 64), (40, 255), (41, 255), (49, 1),
    (50, 12), (64, 192), (65, 9), (72, 64), (73, 9), (80, 193), (81, 3), (82, 20), (83, 143), (84, 71), (85, 222),
    (86, 239), (87, 227), (657, 128), (721, 64), (2352, 1), (2356, 1), (2358, 1), (2360, 32), (2362, 1), (2364, 1)] : List (Nat × Nat)) ++
    (List.range 32).map (fun i => (2368 + 4 * i, 1)))).map (fun (e : Nat × Nat) => (0x100000 + e.1, BitVec.ofNat 8 e.2))
def sOb : State := { (sG gSu) with mem := objMem, teams := [(1, { t0 with sp := 1 })] }
def cSu : GCtx := GCtx.make gSu u2
def segOb (n : Nat) : List Seg := [⟨false, 0x100000, false, 0, n⟩]

theorem crcChunks {l : List Byte} {a : List Nat} : ∀ n, (∀ k < n, ((l.drop (64 * k)).take 64).foldl crcByte (a.getD k 0) = a.getD (k + 1) 0) →
    (l.take (64 * n)).foldl crcByte (a.getD 0 0) = a.getD n 0 := by
  intro n
  induction n with
  | zero => intro _; rfl
  | succ n ih =>
    intro h
    rw [Nat.mul_succ, List.take_add, List.foldl_append, ih (fun k hk => h k (Nat.lt_succ_of_lt hk)), h n (Nat.lt_succ_self n)]
def objCrcs : List Nat :=
  [0, 0, 0, 0, 0, 0, 0, 0, 0, 12145595838829112561, 5967585955440179767, 2823260508954230453, 5563067854143112016, 9031547181828436129, 5917195718482554855, 11140983258735127795, 15157053146814623340, 2584924664697575875, 8643363209932325951, 7726193393150150984, 4486725339406158637, 8674887405932752998, 5561751156814809071, 9634270602566166315, 18323278670621676096, 14931857398587950167, 14683547077807886484, 5571544445629838126, 8325392549306806806, 10268221370039984861, 9888722578872890990, 11120154826125421121, 10590980860899724342, 2730755134392363195, 211346117612158845, 7276670257978914571, 4441340599777106593, 16424590764967986113]
/-- CRC-64 of the object's body, 64 bytes at a time. -/
theorem obj_crc_chunks : let q := sOb.objRead (sOb.accOf gSu 3) (segOb (2496))
   ∀ k < 37, (((q.2.1.drop 0x80).drop (64 * k)).take 64).foldl crcByte (objCrcs.getD k 0) = objCrcs.getD (k + 1) 0 := by decide +kernel
theorem obj_crc : let q := sOb.objRead (sOb.accOf gSu 3) (segOb 2496)
    crc64 (q.2.1.drop 0x80) = 0xE3EFDE478F1403C1 := by
  intro q
  have h := crcChunks 37 obj_crc_chunks
  have e : (q.2.1.drop 0x80).drop (64 * 37) = [] := by decide +kernel
  have t : (q.2.1.drop 0x80).take (64 * 37) = q.2.1.drop 0x80 := by
    have := List.take_append_drop (64 * 37) (q.2.1.drop 0x80)
    rwa [e, List.append_nil] at this
  rw [t] at h
  exact h.trans rfl

/-- An object whose header holds poison, and one that suspended already. -/
def sPois : State := { sOb with poison := [(0x8000, true)] }
theorem wit_Continuations_susp : let size := 0x80 + bodySize gSu
    Issues (sG gSu) 2 gSu u2 [(.s 0, 2), (.s 10, 1)] ∧
    (∃ es, (sG gSu).chk gSu 2 ⟨needW, false, false, 1⟩ 0 (cSu.memOff (.s 0) 0 cSu.low) size = .ok (segOb size) es) ∧
    (gSu.compacted = false ∧ gSu.inH = false ∧ cSu.consume [(.s 0, 2), (.s 10, 1)] [cSu.low] = none ∧
      (cSu.memOff (.s 0) 0 cSu.low).toNat % 256 = 0 ∧ size ≤ cSu.data (.s 10) cSu.low 1 ∧
      (sG gSu).hostLines (segOb size) = [] ∧ (sG gSu).suspReady 2 gSu .sys = true ∧
      (sG gSu).reachAll gSu.core true (segOb size) = true) ∧
    (let s1 := (sG gSu).updGroup 2 (fun g1 => g1.settleResults)
     let r := s1.objRead (s1.accOf gSu 3) (subSegs (segOb size) 0 0x80)
     let h := parseHdr r.2.1
     objPois r.1 (segOb size) 0x20 = false ∧ (r.1.fence gSu .sys suspSet 0).fenceSent gSu .sys suspSet = true ∧ h.state ≠ stSusp ∧
       h.state ≠ stResuming) ∧
    (let s1 := sPois.updGroup 2 (fun g1 => g1.settleResults)
     objPois (s1.objRead (s1.accOf gSu 3) (subSegs (segOb size) 0 0x80)).1 (segOb size) 0x20 = true) :=
  ⟨issues_of (by decide +kernel), okIs (by decide +kernel), by decide +kernel⟩

theorem wit_Continuations_objects : let r := sOb.objRead (sOb.accOf gSu 3) (segOb 0x80)
    let h := parseHdr r.2.1
    Issues sOb 2 gSu u2 [(.s 0, 2)] ∧
    (∃ es, sOb.chk gSu 2 ⟨needRW, false, false, 1⟩ 0 (cSu.memOff (.s 0) 0 cSu.low) 0x80 = .ok (segOb 0x80) es) ∧
    (cSu.consume [(.s 0, 2)] [cSu.low] = none ∧ sOb.hostLines (segOb 0x80) = [] ∧ sOb.reachAll gSu.core true (segOb 0x80) = true) ∧
    (∀ right ∈ [0, 2], objPois r.1 (segOb 0x80) 0x80 = false ∧ (h.check right (sOb.mod.dieReg 0) (sOb.owner gSu.ctx)).isNone = true) ∧
    (objPois (sPois.objRead (sPois.accOf gSu 3) (segOb 0x80)).1 (segOb 0x80) 0x80 = true ∧
      ((parseHdr ((sG gSu).objRead (sOb.accOf gSu 3) (segOb 0x80)).2.1).check 2 0 0).isSome = true) := by
  refine ⟨issues_of ?_, okIs ?_, ?_⟩ <;> decide +kernel

theorem wit_Continuations_resm : let r := sOb.objRead (sOb.accOf gSu 3) (segOb 0x80)
    let h := parseHdr r.2.1
    (∃ es, sOb.chk gSu 2 ⟨needRW, false, false, 1⟩ 0 (cSu.memOff (.s 0) 0 cSu.low) (0x80 + h.size) = .ok (segOb 2496) es) ∧
    (SMap.get? sOb.teams gSu.team = some { t0 with sp := 1 } ∧ (sOb.spareSlot gSu.team).isSome = true ∧
      ((sG gSu).spareSlot gSu.team).isNone = true ∧ h.vbud ≤ t0.maxBud ∧ h.sregs ≤ t0.sregs ∧ h.size = 2368 ∧
      h.crc = 0xE3EFDE478F1403C1) ∧
    ((r.1.handOff gSu .mod).handedOff gSu .mod = true ∧ (r.1.handOff gSu .mod).reachAll gSu.core true (segOb 2496) = true) ∧
    (sOb.objRead (sOb.accOf gSu 3) (segOb 2496)).2.2 = false ∧
    crc64 ((sOb.objRead (sOb.accOf gSu 3) (segOb 2496)).2.1.drop 0x80) = 0xE3EFDE478F1403C1 := by
  refine ⟨okIs ?_, ?_, ?_, ?_, obj_crc⟩ <;> decide +kernel

def segDst (n : Nat) : List Seg := [⟨false, 0x108000, false, 0, n⟩]
theorem wit_Continuations_ccpy : let ac := sOb.accOf gSu 3
    let h := parseHdr (sOb.objRead ac (segOb 0x80)).2.1
    let d := parseHdr (sOb.objRead ac (segDst 0x80)).2.1
    Issues sOb 2 gSu u2 [(.s 2, 2), (.s 0, 2), (.s 10, 1)] ∧
    (∃ es, sOb.chk gSu 2 ⟨needRW, false, false, 1⟩ 0 (cSu.memOff (.s 2) 0 cSu.low) 0x80 = .ok (segDst 0x80) es) ∧
    (∃ es, sOb.chk gSu 2 ⟨needRW, false, false, 1⟩ 0 (cSu.memOff (.s 2) 0 cSu.low) (0x80 + h.size) = .ok (segDst 2496) es) ∧
    (gSu.wait ≠ .ccpy ∧ cSu.consume [(.s 2, 2), (.s 0, 2), (.s 10, 1)] [cSu.low] = none ∧
      (∀ n ∈ [0x80, 2496], sOb.hostLines (segOb n ++ segDst n) = [] ∧ sOb.reachAll gSu.core true (segOb n ++ segDst n) = true)) ∧
    ((h.check 1 (sOb.mod.dieReg 0) (sOb.owner gSu.ctx)).isNone = true ∧ objPois sOb (segDst 0x80) 0x20 = false ∧ d.state ≠ stSusp ∧
      d.state ≠ stResuming ∧ 0x80 + h.size ≤ cSu.data (.s 10) cSu.low 1) ∧
    ∀ e ∈ bodyToks h ((sOb.objRead ac (segOb (0x80 + h.size))).2.1.drop 0x80), e.pending = true →
      (sOb.tokFound gSu.ctx e).isSome = true := by
  refine ⟨issues_of ?_, okIs ?_, okIs ?_, ?_, ?_, ?_⟩ <;> decide +kernel
/-- A listed token whose operation is in flight. -/
theorem wit_Continuations_pending : ({ sOb with dones := [(9, ⟨0, true, 0, .mod⟩)] } : State).tokFound 0 ⟨3, true, 0, 1, 9⟩ = none := by
  decide +kernel

-- The dispatcher

/-- A module in full function: VD 0 is enabled, context 0 maps aperture 0 to the same physical addresses (R425). -/
def cells (l : List (Nat × Nat)) : List Host.Cell := l.map (fun e => (e.1, BitVec.ofNat 8 e.2))
def ptMem : List Host.Cell := cells [(0x400000, 3), (0x400002, 0x41), (0x410000, 3), (0x410002, 0x42), (0x420000, 0x39)]
def ctx0 : Ctx := ⟨0, 0x400000, false, false, none, false, false, [], []⟩
/-- The context table in force: context 0 has PASID 0. -/
def tab0 : SMap (Nat × Nat × Nat) := [(0, (0x80000000, 0, 0x400000))]
def ent0 : VdEnt := { VdEnt.init with flags := 1 }
def sF : State := { State.reset with
  mem := ptMem, ctxs := [(0, ctx0)], vds := [(0, { Vd.init with ent := ent0, inf := ent0, ctbase := 0x500000, ctab := some tab0 })]
  dies := (List.range 16).map (fun d => (d, { Die.init with stage := 4, fsw := [(0, 0x100001)] }))
  mod := { Module.init with featon := 0x3F, resets := 1, leader := 0 }, nid := 20 }
/-- A request packet of a kind for an address, on the first notify region of the PF (R387, R420). -/
def pkt (kind addr : Nat) : NotifyWr := ⟨0, 0, true, some 0, leBytes 2 kind ++ leBytes 2 0xFFFF ++ leBytes 4 7 ++
  leBytes 8 addr ++ leBytes 2 0 ++ leBytes 2 0xFFFF ++ List.replicate 44 0⟩
/-- An image of a context without teams at 0x600000, as CUT_WRITE leaves it (R315). -/
def imgMem : List Host.Cell := ptMem ++ cells [(0x600000, 68), (0x600001, 67), (0x600002, 84), (0x600003, 75), (0x600004, 1),
  (0x600006, 1), (0x600018, 128), (0x600020, 128), (0x600028, 128), (0x600030, 128), (0x600040, 128), (0x600048, 140),
  (0x600049, 224), (0x60004A, 79), (0x60004B, 248), (0x60004C, 221), (0x60004D, 119), (0x60004E, 196), (0x60004F, 141)]
/-- The same module with stage 2 on: the second 512 MiB are tier object 5 (R425, R429). -/
def ent2 : VdEnt := { VdEnt.init with flags := 3, s2root := 0x700000 }
def sT : State := { sF with
  mem := ptMem ++ cells [(0x700000, 3), (0x700002, 0x71), (0x710000, 0x39), (0x710008, 0xB9), (0x71000A, 5)]
  vds := [(0, { Vd.init with ent := ent2, inf := ent2, ctbase := 0x500000, ctab := some tab0 })] }
def arOf (a : DWord) : Area := .space 0 0 0 a
def resOk : RestRes → Nat
  | .ok _ => 0
  | .refused => 1
  | .wait _ => 2

def rdCode : DevRd → Nat
  | .ok .. => 0
  | .bad .. => 1
  | .tier _ => 2

theorem wit_PacketsAct : sF.full = true ∧ s0.full = false ∧ sF.notify (pkt 1 0x500000) = .ok 0 0 0 ∧
    sF.notify { pkt 1 0 with fn := 3 } = .refuse 3 rsKind ∧ (sF.takePkt true 0 (pkt 1 0x500000)).2 = true ∧
    (sF.ctxOf 0 (notifyPas (pkt 1 0x500000))).2 = some 0 ∧ (parsePkt (pkt 1 0x500000).bytes).kind = 1 ∧
    (parsePkt (pkt 1 0x500010).bytes).addr.toNat % 256 ≠ 0 ∧ (sF.ctxTier 0 0 0 0x500000 256).isNone = true ∧
    rdCode (sF.ctxRead 0 0 0 0 0x500000 256 256) = 0 ∧ rdCode (sF.ctxRead 0 0 0 1 0x500000 256 256) = 1 ∧
    rdCode (sT.ctxRead 0 0 0 0 0x20000000 256 256) = 2 ∧
    accOk (sF.acceptLaunch 0 0 0 7 0x500000 0 (List.replicate 256 0) false none none 0) = true ∧
    (sF.slotGrid 0 0 0).isNone = true ∧
    (let s : State := { sF with grids := [(7, gr0)] }
     (s.slotGrid 0 0 0).isSome = true ∧ s.cutOf gr0.ctx = none ∧ gr0.posted = false ∧ s.gridOver 7 gr0 = false) ∧
    resOk (sF.restoreImage 0 (arOf 0x600000)) = 1 ∧ resOk ({ sF with mem := imgMem }.restoreImage 0 (arOf 0x600000)) = 0 ∧
    resOk (sT.restoreImage 0 (arOf 0x20000000)) = 2 := by decide +kernel

/-- A VD in reset, one that saves, one with an earlier packet of the queue, and one whose context table is a tier object; a PASID
that no entry names; packets of every kind. -/
def sVd (s : State) (f : Vd → Vd) : State := s.updVd 0 f
theorem wit_PacketsAct_queues : ((sVd sF (fun d => { d with reset := 1 })).vd 0).reset ≠ 0 ∧
    ((sVd sF (fun d => { d with saving := true })).vd 0).saving = true ∧
    ((sVd sF (fun d => { d with queued := [pkt 2 0] })).vd 0).queued.any (sameQueue (pkt 1 0x500000)) = true ∧
    ((sVd sT (fun d => { d with ctbase := 0x20000000 })).ctTier 0).isSome = true ∧ sF.ctTier 0 = none ∧
    (sF.ctxOf 0 (notifyPas { pkt 1 0 with pasid := some 5 })).2.isNone = true ∧
    (∀ k ∈ [(1, 0x600000), (2, 0), (3, 0), (4, 0x600000), (5, 0x600000)], (parsePkt (pkt k.1 k.2).bytes).kind = k.1 ∧
      sF.notify (pkt k.1 k.2) = .ok 0 0 0) := by
  refine ⟨?_, ?_, ?_, ?_, ?_, ?_, ?_⟩ <;> decide +kernel

/-- The context has a cut under way; a save of it faulted for the area of the packet, and for another. -/
def pkR : NotifyWr := pkt 5 0x600000
def sFc (x : Ctx) : State := ((({ sF with ctxs := [(0, x)] }).takePkt true 0 pkR).1.ctxOf 0 (notifyPas pkR)).1
def ctxCut : Ctx := { ctx0 with cut := some ⟨0xFFFF, 0, none, 0x600000, 0, 0, 7, []⟩ }
def ctxFault (a : DWord) : Ctx := { ctx0 with faults := [(0xFFFF, 0, a)] }
theorem wit_PacketsAct_cuts : ((parsePkt pkR.bytes).kind = 5 ∧ (parsePkt pkR.bytes).addr = 0x600000) ∧
    (∀ x ∈ [ctxCut, ctxFault 0x600000, ctxFault 0x700000], (sFc x).ctxs = [(0, x)]) ∧
    ((sFc ctxCut).cutOf 0).isSome = true ∧ ((sFc (ctxFault 0x600000)).cutOf 0).isNone = true := by decide +kernel

/-- Nothing of the device is due, and no group is there. -/
theorem wit_StepTakesEvent_idle : sF.mod.power = true ∧ sF.agenda = [] ∧
    (State.autoEvent { sF with clk := sF.clk + 1 }).isNone = true ∧ (State.pick { sF with clk := sF.clk + 1 }).isNone = true := by
  decide +kernel

-- What befalls groups

/-- Group 2 with a result outstanding, and group 5 whose lanes have all exited. -/
def gPend : Group := { g0 with pend := [[.v 0 1 ⟨false, 0, 7⟩, .s 2 ⟨false, 0, 8⟩]] }
def gDone : Group := { g0 with lanes := g0.lanes.map (fun l => { l with st := .exited }) }
def sGe : State := { s0 with
  canvases := [(3, ⟨1, .f32, true, []⟩)]
  groups := [(2, gPend), (5, gDone)]
  mod := { s0.mod with fwt := [⟨2 ^ 42, 2 ^ 28, 1, 1, 0, [3], []⟩] } }

theorem wit_GroupEvents : SMap.get? sGe.groups 2 = some gPend ∧ gPend.pend[0]?.isSome = true ∧ (7 : BitVec 8).toNat ≤ 7 ∧
    (Opnd.isReg (.v 191) = true ∧ gPend.inRange (.v 191, 1) = true) ∧ SMap.wf Image.zero gPend.s = true ∧
    sGe.mod.place (2 ^ 43) = .hole ∧ sGe.mod.place (2 ^ 41 - 1) = .die 15 ∧ sGe.mod.place (2 ^ 42) = .cxl 1 3 0 ∧
    SMap.get? sGe.canvases 3 = some ⟨1, .f32, true, []⟩ ∧ 1023 < CTy.entries .f32 ∧
    (SMap.get? sGe.teams 1 = some t0 ∧ 4095 < t0.scratch ∧ sGe.inShadow 1 t0 = false) ∧
    sGe.mayRetire 2 gPend = false ∧ SMap.get? sGe.groups 5 = some gDone ∧ sGe.mayRetire 5 gDone = true := by
  decide +kernel

/-- A READ of the team's memory-side access has no reply yet. -/
theorem wit_GroupEvents_reading : sGe.reading gPend.team = false ∧
    ({ sGe with hbms := [(0, { Stack.init with q := [(1, ⟨1, 1, 0, 0, 0, 0, 0, 0, [], [], [], 1, false, 0⟩)] })] } : State).reading
      gPend.team = true := by decide +kernel

/-- Units of a line that L2 holds, with unit 1 written, and a copy in an L1. -/
def sUnits : State := { sGe with
  dies := [(0, { Die.init with l2 := [(0, ⟨0, 0, 0, 3, 2, 0⟩)] })]
  cores := [(0, { Core.init with l1 := [(0, ⟨List.replicate 256 0, 15, 0, 0, [], 0, 0, false, 0, 0⟩)] })] }
theorem wit_GroupEvents_units : (sUnits.holdsUnit 0 .memory = true ∧ sUnits.holdsUnit 0 .l2 = true ∧ sUnits.holdsUnit 8 .l2 = false ∧
      sUnits.holdsUnit 0 (.l1 0) = true ∧ sUnits.mod.place 0 = .die 0) ∧
    (SMap.get? (sUnits.die 0).l2 0 = some ⟨0, 0, 0, 3, 2, 0⟩ ∧ (2 : Nat).testBit 1 = true ∧ (3 : Nat).testBit 0 = true) ∧
    (SMap.get? (sUnits.die 0).l2 1 = none ∧ (∀ x ∈ (sUnits.die 0).msc, x.2.line ≠ 1) ∧ SMap.wf false sUnits.poison = true) := by
  decide +kernel

-- Cuts

/-- A cut of the whole of context 0, into an area of an aperture. -/
def cutAt (aper : Half) (a : DWord) : Cut := ⟨0xFFFF, 0, none, a, aper, 0, 7, []⟩
def sCut (c : Cut) (s : State) : State := { s with ctxs := [(0, { ctx0 with cut := some c })] }
/-- The state that the check of the area sees, and the end of the image's parts, for a context without teams or grids. -/
def cutSees (c : Cut) (s : State) : State × Nat :=
  let d := s.cutDrain [] 0 c.target
  (d, (d.imageParts 0 false ⟨[], [], []⟩
    (fun o => match (c.area d 0).read d (o + 8) 8 with | some b => leNat b | none => 0)).1.foldl
      (fun m x => max m (x.1 + x.2.length)) 0x80)

/-- A good area, one misaligned, one in an aperture that is not mapped. -/
theorem wit_CutWrites : sF.cutOf 0 = none ∧
    (∀ e ∈ [((0 : Half), (0x600000 : Nat)), (0, 0x600010), (1, 0x600000)], let c := cutAt e.1 (BitVec.ofNat 64 e.2)
      let s := sCut c sF
      s.cutOf 0 = some c ∧ s.cutGroups 0 c.target = [] ∧ (s.cutDrain [] 0 c.target).quiet = true) ∧
    (let c := cutAt 0 0x600000
     let x := cutSees c (sCut c sF)
     (c.area x.1 0).writeTrap x.1 0 x.2 = none ∧ (c.area x.1 0).tier x.1 0 x.2 needW = none) ∧
    0x600010 % 4096 ≠ 0 ∧
    (let c := cutAt 1 0x600000
     let x := cutSees c (sCut c sF)
     ((c.area x.1 0).writeTrap x.1 0 x.2).isSome = true) := by decide +kernel

/-- A group that copies an object, and one with a `tier` status owed, in a cut of their context. -/
theorem wit_CutWrites_waits : ∀ g ∈ [{ g0 with wait := .ccpy }, { g0 with pend := [[.o 3 1]] }],
    let s : State := { sCut (cutAt 0 0x600000) sF with groups := [(2, g)], teams := [(1, { t0 with grid := 7 })], grids := [(7, gr0)] }
    ∃ e ∈ s.cutGroups 0 0xFFFF, e.2.wait = .ccpy ∨ e.2.owed ≠ [] := by decide +kernel
/-- Traffic that a host holds up, and an area in a tier object. -/
theorem wit_CutWrites_held : (let s : State := { sCut (cutAt 0 0x600000) sF with dies := heldDies }
      (s.cutDrain [] 0 0xFFFF).quiet = false) ∧
    (let c := cutAt 0 0x20000000
     let x := cutSees c (sCut c sT)
     (c.area x.1 0).writeTrap x.1 0 x.2 = none ∧ ((c.area x.1 0).tier x.1 0 x.2 needW).isSome = true) := by decide +kernel

/-- A reply of a base die is on its way, and a `tier` operation of a group of the cut. -/
theorem wit_CutWrites_busy :
    (let s : State := { sCut (cutAt 0 0x600000) sF with hbms := [(0, { Stack.init with replies :=
        [(1, ⟨1, 1, 0, 0, 0, 0, 0, 0, [], [], [], 0, false, 0⟩, false, false)] })] }
     s.cutBusy 0 0xFFFF = true) ∧ (sCut (cutAt 0 0x600000) sF).cutBusy 0 0xFFFF = false ∧
    ((sCut (cutAt 0 0x600000) sF).cutDrain [] 0 0xFFFF).cutBusy 0 0xFFFF = false := by decide +kernel

-- Dispatch

/-- A grid of teams without a span, in context 0; the same queued, finished, and with launch arguments that do not map. -/
def gN : Grid := { gr0 with desc := { gr0.desc with span := 0 } }
def gQ : Grid := { gN with parts := [⟨0, 0, .queued, [⟨0, 2, none⟩]⟩] }
def gOver : Grid := { gN with parts := [⟨0, 0, .running, []⟩] }
def gArg : Grid := { gN with lr := { gN.lr with argap := 1 }, desc := { gN.desc with argbytes := 4 } }
def sD (g : Grid) : State := { sF with grids := [(7, g)] }
/-- A team of grid 7, prepared in a shadow slot of core 0. -/
def tSh : Team := { hostTeam with grid := 7 }
def hSh : Shadow := ⟨9, true, [], [], []⟩
def sSh : State := ({ sD gN with teams := [(9, tSh)] } : State).updCore 0 (fun k => { k with shadow := [hSh] })
/-- The first work that a core holds. -/
def pickOf (s : State) (c : Nat) : Option (Nat × Grid × Range × List Nat) :=
  s.grids.findSome? (fun e => (s.nextTake c e.2).map (fun x => (e.1, e.2, x)))
def prepCode : Prep → Nat
  | .ok .. => 0
  | .bad .. => 1
  | .tier _ => 2
def prepState (s : State) (g : Grid) : State :=
  let s1 := s.updGrid 7 (fun g => { g with parts := g.parts.map (fun (p : Part) =>
    if p.die == 0 then ({ p with ranges := p.ranges.map (fun (x : Range) =>
      if x == ⟨1, 2, some 0⟩ then { x with lo := x.lo + 1 } else x) } : Part).settle else p) })
  (blockTeams g 7 s.nid [0] 1).foldl (fun s x =>
    ({ s with teams := SMap.put s.teams x.1 { x.2.2 with core := x.2.1 } }).updCore x.2.1
      (fun k => { k with shadow := k.shadow ++ [(⟨x.1, false, [], [], []⟩ : Shadow)] })) { s1 with nid := s.nid + 1 }

theorem wit_DispatchProceeds :
    ({ sD gQ with ctxs := [] } : State).ctxHeld 0 = true ∧
    ((sD gQ).ctxHeld 0 = false ∧ gQ.prevQ = none ∧ (sD gQ).drained gQ.pred = true ∧ gQ.parts.any (fun p => p.st == .queued) = true) ∧
    (sD gQ).gridOver 7 gQ = false ∧
    ((sD gOver).gridOver 7 gOver = true ∧ gOver.lr.ev = false ∧ gOver.posted = false ∧ (sD gOver).gridBusy 7 = false ∧
      (sD gOver).drainAll.quiet = true) ∧
    (SMap.keys (({ sF with dies := [(0, { Die.init with meter := [(0, Meter.init), (3, Meter.init)] })] } : State).die 0).meter).Nodup ∧
    ((sD gN).placingOn (reqDie 0) = none ∧ (sD gN).holdsWork 0 = true ∧ (sD gQ).holdsWork 0 = false ∧
      (sD gQ).shadowCores 0 false ≠ []) ∧
    ((takeRange 2 1 [⟨0, 8, some 0⟩]).isSome = true ∧ (takeRange 2 1 [⟨0, 3, some 0⟩]).isNone = true) ∧
    (sSh.placingOn 0 = none ∧ (sSh.core 0).shadow = [hSh] ∧ SMap.get? sSh.teams 9 = some tSh ∧
      (let ms := sSh.blockOf 9 tSh
       (sSh.ctxHeld gN.ctx || ms.length != tSh.span || !ms.all (fun m => m.2.2.ready)) = false ∧
       (sSh.holdAll (ms.map (fun m => (m.1, m.2.1.core, m.2.1)))).isSome = true)) ∧
    (SMap.get? sSh.grids 7 = some gN ∧ 0 < tSh.g) := by decide +kernel

/-- A core without work, and one that takes a team whose preparation succeeds, fails, or meets a tier object. -/
def gTie : Grid := { gArg with lr := { gArg.lr with argap := 0, argoff := 0x20000000 } }
theorem wit_DispatchProceeds_prepare : (pickOf (sD gQ) 0).isNone = true ∧
    ([gN, gArg].all (fun g => pickOf (sD g) 0 == some (7, g, ⟨1, 2, some 0⟩, [0])) = true) ∧
    (∀ g ∈ [gN, gArg], g.desc.n = 1 ∧ (sD g).prepTier 0 g = none) ∧
    (({ sT with grids := [(7, gTie)] } : State).prepTier 0 gTie).isSome = true ∧
    prepCode ((prepState (sD gN) gN).prep 0 0 gN) = 0 ∧ prepCode ((prepState (sD gArg) gArg).prep 0 0 gArg) = 1 := by
  refine ⟨?_, ?_, ?_, ?_, ?_, ?_⟩ <;> decide +kernel
/-- A finished grid whose record meets a tier object, or waits behind an earlier one of its VD. -/
def gTail : Grid := { gOver with lr := { gOver.lr with compoff := 0x20000000 } }
theorem wit_DispatchProceeds_waits : (({ sT with grids := [(7, gTail)] } : State).reportWaits gTail).isSome = true ∧
    (({ sD gOver with devQ := [.irq 0 1] } : State).reportWaits gOver).isSome = true ∧
    ((sD gOver).reportWaits gOver).isNone = true := by
  refine ⟨?_, ?_, ?_⟩ <;> decide +kernel

/-- A finished grid that posts an event record, with room and without, and one behind an older one of its parent. -/
def gEv : Grid := { gOver with lr := { gOver.lr with flags := 8 }, posted := true }
def gKid : Grid := { gOver with parent := some (2, 1) }
theorem wit_DispatchProceeds_ends : ((sD gEv).gridOver 7 gEv = true ∧ (sD gEv).gridBusy 7 = false ∧ (sD gEv).olderSpawn 7 gEv = false ∧ gEv.lr.ev = true ∧
      ((sD gEv).cluster 0).evq.length < 256 ∧
      256 ≤ (((sD gEv).updCluster 0 (fun x => { x with evq := List.replicate 256 evR })).cluster 0).evq.length) ∧
    (sD gOver).olderSpawn 7 gOver = false ∧
    ({ sD gKid with grids := [(6, gKid), (7, gKid)] } : State).olderSpawn 7 gKid = true ∧
    ({ sD gOver with aops := [(7, { oMr with grid := 7 })] } : State).gridBusy 7 = true ∧
    (let s : State := { sD gOver with dies := heldDies }
     s.gridOver 7 gOver = true ∧ s.gridBusy 7 = false ∧ s.drainAll.quiet = false) := by decide +kernel

-- The memory side

def pk (kind : BitVec 8) (l : Nat) (m : BitVec 8) (t : BitVec 12) : BasePkt :=
  ⟨kind, m, t, 0, 0, 0, 0, l, List.replicate 32 9, [], [], 0, false, 0⟩
/-- Stack 0 of die 0 with two requests queued, the second of an open row, a reply, a window on a bank, and rows at and below the
threshold. -/
def k0 : Stack := { Stack.init with
  q := [(1, pk 1 0 1 1), (1, pk 1 1 1 6)], replies := [(1, pk 1 0 1 2, false, false)], thresh := 2
  wins := [(0, [(1, pk 1 0 4 3)])], openRow := [(32, 0)], cnt := [(rowKey (64, 0), 1)] }
def sK : State := { sF with hbms := [(0, k0)] }
def remap0 : Remap := ⟨0, 0, true, true, true⟩
def sReg : State := { sF with
  vds := [(0, { Vd.init with ent := ent0, inf := { ent0 with nvec := 2 }, remap := [(0, remap0)] })] }

/-- A REDUCE in return mode of no row, which needs no row. -/
def pkRet : BasePkt := { pk 4 0 0 4 with opc := 0x10 }
def pkAt : BasePkt := { pk 3 0 1 4 with lanes := [(8, 1, 2)] }

/-- Packets that are queued, refused, behind another, need no row, meet a window, an open row, or a row that must be opened: below
and at the threshold, and while another request needs the bank's open row. -/
theorem wit_MemorySideEvents_packets : sK.stack (stackIdx 0 0) = k0 ∧
    (k0.q.findIdx? (fun x => qKind x.1 == 1 && x.2 == pk 1 0 1 1) = some 0 ∧ ∀ x ∈ k0.q, qKind x.1 ≠ 2 ∨ x.2 ≠ pk 2 1 2 4) ∧
    (portOk 2 (pk 1 1 2 4) = false ∧ portOk 2 (pk 2 1 2 4) = true ∧ portOk 3 pkAt = true ∧ portOk 4 pkRet = true ∧
      portOk 5 (pk 5 0 0 4) = true ∧ portOk 5 (pk 1 0 0 4) = false) ∧
    ((∃ y ∈ k0.q, pktShares sK.mod 0 y (2, pk 2 1 1 4) = true) ∧
      ∀ x ∈ [(2, pk 2 0 2 4), (2, pk 2 1 2 4), (2, pk 2 2 2 4), (2, pk 2 3 2 4), (2, pk 2 32769 2 4), (4, pkRet)],
        ∀ y ∈ k0.q ++ k0.wins.flatMap (fun w => w.2), pktShares sK.mod 0 y x = false) ∧
    pktRows sK.mod 0 (4, pkRet) = [] ∧
    ((pktRows sK.mod 0 (2, pk 2 0 2 4)).head?.any (fun b => (SMap.get? k0.wins b.1).isSome) = true ∧
      (pktRows sK.mod 0 (2, pk 2 1 2 4)).head?.any (fun b => SMap.get? k0.openRow b.1 == some b.2) = true ∧
      ∀ l ∈ [2, 3, 32769], (pktRows sK.mod 0 (2, pk 2 l 2 4)).head?.any (fun b =>
        (SMap.get? k0.wins b.1).isNone && SMap.get? k0.openRow b.1 != some b.2) = true) ∧
    (bankRow sK.mod 32769 = (32, 1) ∧ (pktRows sK.mod 0 (1, pk 1 1 1 6)).head? = some (32, 0) ∧
      SMap.getD k0.cnt 0 (rowKey (bankRow sK.mod 3)) + 1 < k0.thresh ∧
      k0.thresh ≤ SMap.getD k0.cnt 0 (rowKey (bankRow sK.mod 2)) + 1) := by decide +kernel

theorem wit_MemorySideEvents_service : (units8 (2#8).toNat = [1] ∧ (pk 2 0 2 4).write.length = 32 ∧ (pk 2 0 2 4).done = false ∧
      ({ pk 2 0 2 4 with done := true } : BasePkt).done = true ∧ pkAt.lanes = [(8, 1, 2)] ∧ pkAt.done = false ∧
      pkRet.opc.getLsbD 4 = true ∧ (pk 4 0 0 4).opc.getLsbD 4 = false ∧ qKind 513 = 1) ∧
    ((k0.replies.find? (fun r => r.2.1.tag == 5)).isNone = true ∧ (k0.replies.find? (fun r => r.2.1.tag == 2)).isSome = true) ∧
    (SMap.get? k0.wins 1 = none ∧ SMap.get? k0.wins 0 = some [(1, pk 1 0 4 3)]) ∧
    ({ pk 5 0 0 4 with lanes := [(0, 1, 500)] } : BasePkt).lanes = [(0, 1, 500)] ∧
    (sK.full = true ∧ 15 < sK.mod.dies ∧ s0.full = false ∧ sK.mod.dies ≤ 16) ∧
    (SMap.wf 0 k0.watch = true ∧ SMap.wf 0 k0.walerts = true) := by decide +kernel

theorem wit_MemorySideEvents_registers : s0.config = false ∧
    (SMap.wf 0 (sK.die 15).fsw = true ∧ SMap.wf 0xFFFF0000 (sK.die 15).part = true ∧ SMap.wf 0 sK.aqis = true) ∧
    ((sReg.vd 0).ent.flags.testBit 0 = true ∧ (sReg.vd 0).inf.nvec = 2 ∧ (sReg.vd 1).ent.flags.testBit 0 = false ∧
      SMap.getD (sReg.vd 0).remap Remap.init 0 = remap0 ∧ remap0.pend = true) ∧
    (sK.config = true ∧ sK.mod.expander = false ∧ sK.mod.featon.testBit 2 = true ∧ s0.mod.featon.testBit 2 = false ∧
      sK.mod.featsel < 2 ^ 256) := by decide +kernel

def diesAt (d0 d1 : Die) (stage : Nat) : List (Nat × Die) :=
  (0, { d0 with stage := stage }) :: (1, { d1 with stage := stage }) ::
    ((List.range 14).map (fun d => (d + 2, { Die.init with stage := stage, trained := true })))
/-- Dies in a stage, the first two given. -/
def sDies (d0 d1 : Die) (stage : Nat) : State := { sF with dies := diesAt d0 d1 stage }

/-- Reads and writes by address: the FSW of VD 3 on die 2, and the DVSEC headers. -/
theorem wit_MemorySideEvents_addresses : sK.full = true ∧ 2 < sK.mod.dies ∧ SMap.wf 0 (sK.die 2).fsw = true ∧
    (sK.bar0Write 0 (0x400_0000 * 2 + 0x12_0000 + 8 * 3) 0x07FF_1234).bar0Read 0 (0x400_0000 * 2 + 0x12_0000 + 8 * 3) =
      0x0400_1234 ∧
    sK.cfgRead 0 0 8 = some 1 ∧ sK.cfgRead 0 1 8 = some 2 ∧ sK.cfgRead 1 0 8 = none ∧ (sDies Die.init Die.init 15).stage = 15 := by
  refine ⟨?_, ?_, ?_, ?_, ?_, ?_, ?_, ?_⟩ <;> decide +kernel

-- The fabric

def lineOf (b : Byte) : Line := ⟨List.replicate 256 b, 15, 0, 0, [], 0, 0, false, 0, 0⟩
/-- Update packets to die 0: one that may apply, one behind a packet it has not seen, one whose line a host holds. -/
def u1 : UpdPkt := ⟨1, 1, [0, 1], false, 5, [(1280, 9)], 0, 0, 0, 0, 0, 0, 1, false⟩
def upd3 : UpdPkt := ⟨1, 2, [0, 2], false, 5, [(1280, 10)], 0, 0, 0, 0, 0, 0, 1, false⟩
def updH : UpdPkt := ⟨2, 1, [0, 0, 1], true, 6, [(1536, 9)], 0, 0, 0, 0, 0, 0, 2, false⟩
def sUp : State := { sF with dies := [(0, { Die.init with upd := [u1, upd3, updH], hostHeld := [(6, true)] })] }
/-- A packet of an OPC and number, from rank 1 to rank 0 of a communicator. -/
def netM (opc comm psn : Nat) : NetMsg := ⟨opc, comm, 1, 0, psn, 0, 0, 0, [1]⟩
def netP (opc comm psn : Nat) : NetPkt := ⟨(netM opc comm psn).bytes, 0⟩
/-- Its last byte changed. -/
def netBad : NetPkt := ⟨(netM 1 0 0).bytes.dropLast ++ [0], 0⟩
def endp (f : Nat) : NetE := ⟨List.replicate 0x16 1 ++ leBytes 1 f ++ List.replicate 9 2⟩
/-- Network communicator 0, and communicator 1 whose two ranks use the CXL path; a packet to rank 1 is unacknowledged. -/
def sNet : State := { sF with mod := { sF.mod with
  neten := true
  comms := [⟨true, 0, [⟨2, 0, 0, 0, 0, 0⟩, ⟨2, 1, 0, 0, 16, 0⟩]⟩, ⟨true, 0, [⟨1, 0, 0, 0, 0, 0⟩, ⟨1, 1, 0, 0, 0, 0⟩]⟩]
  nets := List.replicate 17 (endp 1)
  conns := [⟨0, 0, 1, 1, 3, [netM 1 0 0], 0⟩, ⟨0, 0, 2, 1, 0, [netM 1 0 0], 16⟩]
  fwt := [⟨2 ^ 42, 2 ^ 28, 1, 1, 0, [3], []⟩] } }
/-- An expander whose task acceptance entry 0 takes tasks of module 3; two hosts share line 4, and two lines are being
invalidated. -/
def sX : State := { sF with
  dies := (List.range 4).map (fun d => (d, { Die.init with stage := 4 }))
  mod := { sF.mod with
    expander := true, taccs := [⟨true, 3, 0, 0, 0, 1, 5, [], []⟩], snoop := [(4, 6)], backInvs := [⟨9, [1, 2]⟩, ⟨10, [1]⟩]
    extents := [⟨2 ^ 30, 2 ^ 28, 0, 0, 1⟩] } }
/-- A task packet from a module and a die, with RESETS and SEQ. -/
def taskB (mod rst seq : Nat) : List Byte := List.replicate 0x140 0 ++ leBytes 1 mod ++ leBytes 1 0 ++ [0, 0] ++ leBytes 4 rst ++
  leBytes 8 seq
def slotIn (st : TaskSt) (ok : Bool) : TaskSlot :=
  ⟨(if ok then leBytes 4 0x4B54584B ++ leBytes 2 1 else [0, 0, 0, 0, 0, 0]) ++ List.replicate 314 0, st⟩
/-- Slots 0 to 3 of die 0: a good body, a bad one, one being signed and one sent. -/
def sTk : State := { sF with mod := { sF.mod with tasks :=
  [(taskKey 0 0 0, slotIn .free true), (taskKey 0 0 1, slotIn .badbody false), (taskKey 0 0 2, slotIn .signing true),
   (taskKey 0 0 3, slotIn .sent true)] } }
def tkAt (n : Nat) : TaskSlot := SMap.getD sTk.mod.tasks TaskSlot.init (taskKey 0 0 n)

theorem wit_FabricEvents : (meshLink sF.mod 0 1 = true ∧ SMap.wf Link.init sF.mod.links = true ∧
      (SMap.getD sF.mod.links Link.init (linkKey 0 1)).spares ≠ 0 ∧
      (SMap.getD [(linkKey 0 1, (⟨false, 0, 0⟩ : Link))] Link.init (linkKey 0 1)).spares = 0) ∧
    ((sUp.die 0).upd[0]? = some u1 ∧ sUp.canApply 0 0 u1 = true ∧ (u1.home && SMap.getD (sUp.die 0).hostHeld false u1.line) = false ∧
      (sUp.die 0).upd[1]? = some upd3 ∧ sUp.canApply 0 1 upd3 = false ∧ (sUp.die 0).upd[2]? = some updH ∧
      (updH.home && SMap.getD (sUp.die 0).hostHeld false updH.line) = true) ∧
    (SMap.getD (sF.die 0).holders 0 5 = 0 ∧ (sF.dies.all (fun d => (SMap.get? d.2.far 5).isNone) = true)) ∧
    (sNet.mod.place (2 ^ 42) = .cxl 1 3 0 ∧ sF.mod.place 0x500000 = .die 0 ∧ sF.full = true ∧ sF.mod.featon.testBit 4 = true ∧
      s0.full = false ∧ s0.config = false ∧ sF.config = true ∧ sF.mod.links = [] ∧ sF.mod.dies = 16 ∧ sX.mod.dies = 4) ∧
    (sF.mod.expander = false ∧ sX.mod.expander = true ∧ SMap.getD sX.mod.snoop 0 4 = 6 ∧ SMap.getD sX.mod.snoop 0 5 = 0) ∧
    ((∀ b ∈ sX.mod.backInvs, b.line ≠ 4) ∧ sX.mod.backInvs.find? (fun b => b.line == 9) = some ⟨9, [1, 2]⟩ ∧
      [1, 2].filter (fun h => h != 1) ≠ [] ∧ sX.mod.backInvs.find? (fun b => b.line == 10) = some ⟨10, [1]⟩ ∧
      [1].filter (fun h => h != 1) = [] ∧ sX.mod.snoopQ = [] ∧ sX.mod.place 0x500 = .die 0) ∧
    ((sNet.mod.conn 0 1 0).unacked = [] ∧ (sNet.mod.conn 0 0 1).unacked = [netM 1 0 0] ∧ (sNet.mod.conn 0 0 1).resends < 16 ∧
      16 ≤ (sNet.mod.conn 0 0 2).resends) ∧
    ((tkAt 0).open' = true ∧ (tkAt 0).bodyOk = true ∧ (tkAt 1).open' = true ∧ (tkAt 1).bodyOk = false ∧ (tkAt 2).open' = false ∧
      (tkAt 2).st = .signing ∧ (tkAt 3).st = .sent ∧ (sTk.die 0).lmsLeaf < 2 ^ 25) ∧
    (sX.full = true ∧ sX.mod.featon.testBit 5 = true ∧
      (sX.mod.taccs.findIdx? (fun x => x.takes (taskB 4 1 6) [] [])).isNone = true ∧ fld (taskB 3 1 6) 0x144 4 = 1 ∧
      5 < fld (taskB 3 1 6) 0x148 8) ∧
    (∀ x ∈ sX.mod.extents, overlap x.base x.size (2 ^ 30 + 2 ^ 28) (2 ^ 28) = false) ∧ Memory.wf sX.mem = true := by
  decide +kernel

/-- The module of `sX` with a full set of its snoop filter. -/
def mFull : Module := { sX.mod with snoop := (List.range 16).map (fun i => (524288 * i, 2)), backInvs := [] }

/-- The transport: a damaged packet, packets of each OPC in and out of order on each path, and their connections. -/
theorem wit_FabricEvents_transport : (NetPkt.msg? netBad).isNone = true ∧
    (∀ o ∈ [1, 2, 3, 4], NetPkt.msg? (netP o 0 3) = some (netM o 0 3)) ∧ cxlPath sNet.mod (netM 1 1 0) = true ∧
    cxlPath sNet.mod (netM 1 0 3) = false ∧ sNet.mod.neten = true ∧ sF.mod.neten = false ∧ cxlPath sF.mod (netM 1 0 3) = false ∧
    (psnDiff 3 ((connOf sNet.mod (netM 1 0 3)).retire 0).expect = 0 ∧
      psnDiff 4 ((connOf sNet.mod (netM 1 0 4)).retire 0).expect ≠ 0) ∧
    (let c := (connOf sNet.mod (netM 3 0 3)).retire 0
     c.unacked = [netM 1 0 0] ∧ c.resends < 16) ∧
    (let c := (connOf sNet.mod ⟨3, 0, 2, 0, 0, 0, 0, 0, []⟩).retire 0
     c.unacked = [netM 1 0 0] ∧ 16 ≤ c.resends) ∧
    ((connOf sF.mod (netM 3 0 3)).retire 0).unacked = [] ∧
    sNet.mod.netPair ⟨0, 0, 1, 1, 3, [], 0⟩ = some (0, endp 1, endp 1) ∧ sNet.mod.netPair ⟨0, 0, 2, 1, 3, [], 0⟩ = none := by
  refine ⟨?_, ?_, ?_, ?_, ?_, ?_, ?_, ?_, ?_, ?_, ?_, ?_, ?_⟩ <;> decide +kernel

/-- A requester's reads, writes and atomics of line 4, which requester 1 and 2 hold, and of line 5, which none does. -/
theorem wit_FabricEvents_requests : sX.mod.shared 0x500 = false ∧ sX.mod.place 0x400 = .die 0 ∧
    (∀ r ∈ [HostReq.read 0x400 64 1, .write 0x500 ⟨[1], 0⟩ 1, .atomic 0x500 0x20 1 2 1],
      HostReq.isRead r = true ∨ ∀ l ∈ linesOf (HostReq.pa r) (HostReq.len r), sX.mod.holdersOf l (some (HostReq.req r)) = []) ∧
    (let r := HostReq.write 0x400 ⟨[1], 0⟩ 1
     HostReq.isRead r = false ∧ (linesOf 0x400 (HostReq.len r)).any (fun l => !(sX.mod.holdersOf l (some 1)).isEmpty) = true) ∧
    (let s : State := { sX with mod := { sX.mod with snoopQ := [(false, .write 0x400 ⟨[1], 0⟩ 1)] } }
     (s.mod.snoopQ.any (fun q => (linesOf (HostReq.pa q.2) (HostReq.len q.2)).any (linesOf 0x400 64).contains)) = true) ∧
    sF.mod.place (2 ^ 43) = .hole := by
  refine ⟨?_, ?_, ?_, ?_, ?_, ?_⟩ <;> decide +kernel

/-- A task packet that waits in the queue, its context known, unknown, or in a table that is a tier object. -/
def sTask (s : State) (pasid : Nat) : State := { s with mod := { s.mod with taskQ := [⟨0, 0, pasid, List.replicate 256 0⟩] } }
theorem wit_FabricEvents_tasks : sF.ctTier 0 = none ∧ (sF.ctxOf 0 0).2 = some 0 ∧ (sF.ctxOf 0 5).2 = none ∧
    accOk (sF.acceptLaunch 0 taskDie (2 ^ 32) 0 0 0 (List.replicate 256 0) false none none 0) = true ∧
    (({ sT with vds := [(0, { Vd.init with ent := ent2, inf := ent2, ctbase := 0x20000000 })] } : State).ctTier 0).isSome = true ∧
    (sTask sF 0).mod.taskQ = [⟨0, 0, 0, List.replicate 256 0⟩] := by
  refine ⟨?_, ?_, ?_, ?_, ?_, ?_⟩ <;> decide +kernel

theorem wit_FabricEvents_shared : (SMap.get? sX.mod.snoop 4 ≠ none ∧ (sX.mod.snoopSet 5).length < 16 ∧
      sX.mod.holdersOf 4 (some 1) ≠ [] ∧ sX.mod.holdersOf 5 (some 1) = [] ∧ sX.mod.snoopQ = []) ∧
    (mFull.expander = true ∧ SMap.get? mFull.snoop (524288 * 16) = none ∧ ¬ (mFull.snoopSet (524288 * 16)).length < 16 ∧
      (∀ v ∈ mFull.snoopSet (524288 * 16), mFull.holdersOf v none ≠ []) ∧ mFull.backInvs = []) ∧
    (∀ x ∈ sX.mod.extents, overlap x.base x.size (2 ^ 30) (2 ^ 28) = true → x.is (2 ^ 30) (2 ^ 28) 0 = true ∧ x.holder ≠ 5) ∧
    sX.mod.extents.find? (fun x => x.is (2 ^ 30) (2 ^ 28) 0) = some ⟨2 ^ 30, 2 ^ 28, 0, 0, 1⟩ := by
  refine ⟨?_, ?_, ?_, ?_⟩ <;> decide +kernel

/-- One die only: its copy of a line is the only one that a host can ask for. -/
theorem wit_FabricEvents_hostSnoop : ({ sF with dies := [(0, { Die.init with far := [(5, lineOf 1)] })] } : State).dies =
    [(0, { Die.init with far := [(5, lineOf 1)] })] := by rfl

-- Tenants

def cmd (win ctx : Nat) (a b : DWord) : OwnCmd := ⟨win, 0, ctx, 1, a, b, 0x690000, .released⟩
/-- A context table at 0x500000 with entry 0 valid; a save table at 0x680000 that names the image at 0x600000. -/
def tabMem : List Host.Cell := cells [(0x500000, 5), (0x500003, 0x80), (0x50000A, 0x40)]
def vd0 : Vd := { Vd.init with ent := ent0, inf := ent0, ctbase := 0x500000, ctab := some [] }
def sTab : State := { sF with mem := ptMem ++ tabMem, vds := [(0, vd0)] }
/-- A command of the PF, one of a VF, and one whose save table is `a`. -/
def cP : OwnCmd := cmd 0 0 0 0
def cV : OwnCmd := cmd 3 0 0 0
def cS : OwnCmd := cmd 0 0 0x680000 0
/-- A VD whose context 0 waits, stopped, for an image, of which `m` is the memory. -/
def svMem : List Host.Cell := cells [(0x680002, 0x60)]
def sLoad (m : List Host.Cell) : State := { sF with mem := m ++ svMem, ctxs := [(0, { ctx0 with vstop := true })] }
/-- Every context but 0 is without an image, and context 0 is cached. -/
def loadsOne (s : State) : Bool :=
  (List.range 256).all (fun i => s.saveEntry cS i == 0 || (SMap.get? s.ctxs (256 * cS.vd + i)).isSome) &&
    (List.range 256).all (fun i => i == 0 || s.saveEntry cS i == 0) && s.saveEntry cS 0 != 0 &&
    (SMap.get? s.ctxs 0).elim false (fun k => k.vstop)
theorem foldl_same {α β : Type} {f : β → α → β} {b : β} : ∀ l : List α, (∀ a ∈ l, f b a = b) → l.foldl f b = b
  | [], _ => rfl
  | a :: l, h => by
    rw [List.foldl_cons, h a List.mem_cons_self]
    exact foldl_same l (fun x hx => h x (List.mem_cons_of_mem a hx))
theorem loadCtxs_same {s : State} {c : OwnCmd}
    (h : (List.range 256).all (fun i => s.saveEntry c i == 0 || (SMap.get? s.ctxs (256 * c.vd + i)).isSome) = true) :
    s.loadCtxs c = s := foldl_same _ (fun i hi => if_pos (List.all_eq_true.mp h i hi))

theorem wit_TenantCommands : s0.full = false ∧ sF.full = true ∧
    (({ sF with vds := [(0, { vd0 with cmds := [(5, cV)] })] } : State).vd 0).cmds = [(5, cV)] ∧
    ((sF.vd 0).cmds = [] ∧ cP.win = 0 ∧ (sF.vd 3).cmds = [] ∧ cV.win ≠ 0) ∧
    (((sTab.ctSync 0 0).ctEntry 0 0).any (fun e => !e.2.1.testBit 0) = true ∧ ((sTab.ctSync 0 1).ctEntry 0 1).isNone = true ∧
      sTab.ctTier 0 = none ∧
      (({ sT with vds := [(0, { Vd.init with ent := ent2, inf := ent2, ctbase := 0x20000000 })] } : State).ctTier 0).isSome = true) ∧
    (((sD gN).ctSync 0 0).grids.any (fun g => g.2.ctx == cmdCtx cP) = true ∧ (sTab.ctSync 0 1).grids = [] ∧
      (SMap.get? sTab.dies 15).isSome = true) ∧
    (sF.leading = none ∧ (let s : State := { sF with dies := [(0, { Die.init with leaderOf := some 1 })] }
      s.leading = some 0 ∧ (s.die 0).lmsLeaf < 2 ^ 25)) ∧
    ((sF.vdResetStep 0 true 1).2 = true ∧
      (({ sF with dies := [(0, { Die.init with upd := [updH], hostHeld := [(6, true)] })] } : State).vdResetStep 0 true 1).2 = false) ∧
    ((({ sF with vds := [(0, { vd0 with reset := 2 })] } : State).vd 0).reset = 2 ∧ sF.vdSaving 0 = false) ∧
    ((sD gN).liveCtxs 0 = [0] ∧ (sD gN).saveEntry cP 0 = 0 ∧ ({ sD gN with mem := ptMem ++ svMem } : State).saveEntry cS 0 ≠ 0 ∧
      (sF.liveCtxs 0 = []) ∧ (sF.ctxs.all (fun e => e.2.cut.isNone) = true) ∧
      ((sCut (cutAt 0 0) sF).ctxs.any (fun e => e.1 / 256 == 0 && e.2.cut.isSome) = true)) ∧
    bits (0x100 : Nat) 7 0 = 0 ∧ bits (0xFF : Nat) 7 0 ≠ 0 ∧
    (({ sF with vds := [(0, { vd0 with cmds := [(0x12 + 512, cP)] })] } : State).vd 0).cmds = [(0x12 + 512, cP)] ∧
    ((sF.vd 0).ent.flags.testBit 0 = true ∧ (sF.vd 1).ent.flags.testBit 0 = false) ∧
    ((sReg.vd 0).inf.nvec ≤ 2 ∧ 1 < (sReg.vd 0).inf.nvec) := by
  refine ⟨?_, ?_, ?_, ?_, ?_, ?_, ?_, ?_, ?_, ?_, ?_, ?_, ?_, ?_, ?_⟩ <;> decide +kernel

/-- VDLOAD: nothing to restore, an image that is none, and one that is restored. -/
theorem wit_TenantCommands_loads :
    ((List.range 256).all (fun i => sF.saveEntry cP i == 0) = true) ∧ loadsOne (sLoad ptMem) = true ∧
    loadsOne (sLoad imgMem) = true := by decide +kernel
theorem wit_TenantCommands_images : resOk ((sLoad ptMem).restoreImage 0 (.pa 0x600000 0)) = 1 ∧
    resOk ((sLoad imgMem).restoreImage 0 (.pa 0x600000 0)) = 0 ∧
    (sLoad imgMem).saveEntry cS 0 = 0x600000 ∧ (sLoad imgMem).mod.keyTag ((sLoad imgMem).vd 0).inf.skey = 0 := by decide +kernel
/-- A report in each of its ends, an OP that R424 does not define, and one that it does. -/
theorem wit_TenantCommands_report : ({ cV with rep := .noFlash } : OwnCmd).rep = .noFlash ∧
    ({ cV with rep := .lapsed } : OwnCmd).rep = .lapsed ∧ cV.rep = .released ∧ (6 : Byte).toNat ∉ cmdOps ∧
    (5 : Byte).toNat ∈ cmdOps := by decide

theorem wit_TenantCommands_same {s : State} (h : loadsOne s = true) : s.loadCtxs cS = s := by
  rw [loadsOne, Bool.and_eq_true, Bool.and_eq_true, Bool.and_eq_true] at h
  exact loadCtxs_same h.1.1.1

-- Start-up, the leader, records and power

def dTr : Die := { Die.init with trained := true }
/-- A die that leads term 4, one whose lease has lapsed and one that has granted to die 5. -/
def dLead : Die := { Die.init with leaderOf := some 4, term := 4, lapsed := false }
def dLap : Die := { Die.init with term := 3, claimSeen := 3, lapsed := true }
def dGr : Die := { dLap with granted := some (4, 5) }
def dClaim : Die := { dLap with claimSeen := 4, claimed := true, grants := (List.range 16) }
/-- A team without groups on core 0, of a grid whose teams fit on no core. -/
def sRep (g : Nat) : State := { sF with
  grids := [(7, { gOver with desc := { gOver.desc with g := g } })], teams := [(9, tSh)] }
def repairOut (s : State) : State × List (Nat × Seat) :=
  let d := s.withdrawWaits []
  let h := d.unshadow (fun t => t.core / 4 == 0)
  let xs := h.clusterSeats 0
  ((xs.foldl (fun s x => s.unloadTeam x.1) h).swapCluster 0 (some 32), xs)
theorem noRoom (s : State) (c : Nat) (t : Team) (h : t.g = 17) : s.coreRoom c t = none :=
  if_neg (fun x => by simp only [Bool.and_eq_true, decide_eq_true_eq] at x; omega)
theorem placeBlock_full (s : State) (x : Seat) (h : x.team.g = 17) : s.placeBlock [x] = none := by
  simp [State.placeBlock, coreSets, noRoom, h]

theorem wit_FirmwareAndPower : (s0.stage ≠ 2 ∧ (sDies Die.init dTr 2).stage = 2 ∧ 15 < sF.mod.dies ∧
      (∀ d < (sDies Die.init dTr 2).mod.dies, d = 0 ∨ ((sDies Die.init dTr 2).die d).trained = true)) ∧
    (sF.stage = 4 ∧ (sDies dTr dTr 3).stage = 3 ∧ (1 &&& 1 : Nat).testBit 0 = true ∧ (1 &&& 2 : Nat).testBit 0 = false) ∧
    (sDies dTr dTr 15).stage = 15 ∧ s0.config = false ∧ sF.config = true ∧
    (match sF.verify with | .ok b => b | .error _ => true) = false ∧
    ((0xFFF : DWord).toNat < 4096 ∧ 4096 ≤ (0x1000 : DWord).toNat) ∧
    (let s := sDies dLead dLap 4
     (s.die 0).leaderOf = some 4 ∧ (s.die 1).leaderOf = none ∧ (s.die 1).lapsed = true ∧ (s.die 1).claimSeen ≤ (s.die 1).term ∧
     (s.die 0).lapsed = false ∧ 2 < (s.die 1).term ∧ (s.die 1).term < 4 ∧ s.mod.leader = 0 ∧ s.leading = some 0 ∧
     (s.die 0).lmsLeaf < 2 ^ 25) ∧
    (let s := sDies dGr dClaim 4
     (s.die 0).granted = some (4, 5) ∧ (s.die 0).term < 4 ∧ (s.die 0).claimSeen ≤ 4 ∧
     (s.die 1).granted = none ∧ (s.die 1).claimSeen = 4 ∧ (s.die 1).claimed = true ∧ (s.die 1).lapsed = true ∧
     (s.die 1).leaderOf = none ∧ (s.die 0).claimed = false ∧ (s.die 2).granted = none ∧
     (∀ k ∈ s.mod.reach 1, k ∈ (s.die 1).grants) ∧ (s.mod.reach 0).any (fun k => !(s.die 0).grants.contains k) = true) ∧
    ((sF.cluster 31).retired = false ∧ (∀ g ∈ (sRep 1).groups, g.2.core / 4 ≠ 0) ∧ ((sRep 1).withdrawWaits []).quiet = true ∧
      (State.placeBlocks (blocksOf ((repairOut (sRep 1)).2.map (fun x => x.2))) (repairOut (sRep 1)).1).isSome = true) ∧
    (let k : Stack := { Stack.init with rowCorr := [(rowKey (0, 3), 16), (rowKey (0, 4), 15)], rowBad := [5, 6, 8192 * 16] }
     (k.rowBad.filter (fun r => rowPc r == 0)).length = 2 ∧ (k.rowBad.filter (fun r => rowPc r == 1)).length < 2 ∧
     16 ≤ SMap.getD k.rowCorr 0 (rowKey (0, 3)) ∧ SMap.getD k.rowCorr 0 (rowKey (0, 4)) < 16 ∧ k.rowsLeft 0 ≠ 0 ∧ k.sparePcs ≠ 0) ∧
    sF.leading = none := by decide +kernel

theorem wit_FirmwareAndPower_noRoom :
    State.placeBlocks (blocksOf ((repairOut (sRep 17)).2.map (fun x => x.2))) (repairOut (sRep 17)).1 = none := by
  have h : (blocksOf ((repairOut (sRep 17)).2.map (fun x => x.2))).map (fun b => b.map (fun x => x.team.g)) = [[17]] := by
    decide +kernel
  obtain ⟨b, hb, hm⟩ := List.map_eq_singleton_iff.mp h
  obtain ⟨x, hx, hg⟩ := List.map_eq_singleton_iff.mp hm
  rw [hb, hx, State.placeBlocks, placeBlock_full _ x hg, Option.bind_none]
end Sys2Proof.Tests
end

section
/-! Proofs about numbers (02_numbers.md): what `ilog` and `quant` compute, as comparisons of n·2^k with the exact value
m·2^e, and from them the rounding to odd of R64. -/

namespace Sys2Proof.Proofs.Numbers

open Sys2Proof Sys2Proof.Machine

/-- n·2^k ≤ m·2^e, both brought to the smaller exponent, as the statement of R64 writes it. -/
abbrev ScaledLe (n : Nat) (k : Int) (m : Nat) (e : Int) : Prop :=
  n * 2 ^ (k - min e k).toNat ≤ m * 2 ^ (e - min e k).toNat

/-- n·2^k = m·2^e, both brought to the smaller exponent. -/
abbrev ScaledEq (n : Nat) (k : Int) (m : Nat) (e : Int) : Prop :=
  n * 2 ^ (k - min e k).toNat = m * 2 ^ (e - min e k).toNat

section Comparison
variable {n m : Nat} {k e : Int}

theorem scaledLe_of_le (h : k ≤ e) : ScaledLe n k m e ↔ n ≤ m * 2 ^ (e - k).toNat := by
  rw [ScaledLe, Int.min_eq_right h, Int.sub_self, Int.toNat_zero, Nat.pow_zero, Nat.mul_one]

theorem scaledLe_of_lt (h : e < k) : ScaledLe n k m e ↔ n * 2 ^ (k - e).toNat ≤ m := by
  rw [ScaledLe, Int.min_eq_left (Int.le_of_lt h), Int.sub_self, Int.toNat_zero, Nat.pow_zero, Nat.mul_one]

theorem scaledEq_of_le (h : k ≤ e) : ScaledEq n k m e ↔ n = m * 2 ^ (e - k).toNat := by
  rw [ScaledEq, Int.min_eq_right h, Int.sub_self, Int.toNat_zero, Nat.pow_zero, Nat.mul_one]

theorem scaledEq_of_lt (h : e < k) : ScaledEq n k m e ↔ n * 2 ^ (k - e).toNat = m := by
  rw [ScaledEq, Int.min_eq_left (Int.le_of_lt h), Int.sub_self, Int.toNat_zero, Nat.pow_zero, Nat.mul_one]

/-- `ilog` is the floor of the binary logarithm: the powers of two up to m·2^e are those up to its exponent. -/
theorem scaledLe_one_iff (hm : m ≠ 0) : ScaledLe 1 k m e ↔ k ≤ ilog m e := by
  unfold ilog
  rcases (Int.lt_or_le e k).symm with h | h
  · have hpos : 1 ≤ m * 2 ^ (e - k).toNat := Nat.mul_pos (Nat.pos_of_ne_zero hm) (Nat.two_pow_pos _)
    rw [scaledLe_of_le h]
    omega
  · rw [scaledLe_of_lt h, Nat.one_mul, ← Nat.le_log2 hm]
    omega

/-- `quant` is the floor: the multiples of 2^q up to m·2^e are those up to its quotient. -/
theorem scaledLe_iff_le_quant : ScaledLe n k m e ↔ n ≤ (quant m e k).1 := by
  rcases (Int.lt_or_le e k).symm with h | h
  · rw [scaledLe_of_le h, quant, if_pos h]
  · rw [scaledLe_of_lt h, quant, if_neg (Int.not_le.mpr h), Nat.le_div_iff_mul_le (Nat.two_pow_pos _)]

/-- `quant` reports a discarded part just when its quotient is not m·2^e itself. -/
theorem scaledEq_quant_iff : ScaledEq (quant m e k).1 k m e ↔ (quant m e k).2 = false := by
  rcases (Int.lt_or_le e k).symm with h | h
  · rw [scaledEq_of_le h, quant, if_pos h]
    exact iff_of_true rfl rfl
  · rw [scaledEq_of_lt h, quant, if_neg (Int.not_le.mpr h), ← Nat.dvd_iff_div_mul_eq,
      Nat.dvd_iff_mod_eq_zero, bne_eq_false_iff_eq]

end Comparison

section RoundOdd
variable (f : Fmt) (neg : Bool) {m : Nat} {e : Int}

/-- R64's exponent of a value in range: that of the value, but no less than emin. -/
def narrowExp (f : Fmt) (m : Nat) (e : Int) : Int := max (ilog m e) f.emin

/-- The exponent of R64's q, a quarter of the data's unit. -/
def quarterExp (f : Fmt) (m : Nat) (e : Int) : Int := narrowExp f m e - f.p - 1

/-- R64's t: the value in quarters of the data's unit, with what is cut off or-ed into the last bit. -/
def narrowSig (f : Fmt) (m : Nat) (e : Int) : Nat :=
  let tq := quant m e (quarterExp f m e)
  if tq.2 then tq.1 ||| 1 else tq.1

theorem roundOdd_zero (e : Int) : roundOdd f (.fin neg 0 e) = ⟨f.sign neg, 0⟩ := rfl

theorem roundOdd_of_overflow (hm : m ≠ 0) (h : f.emax + 1 ≤ ilog m e) :
    roundOdd f (.fin neg m e) = ⟨f.maxFin neg, 3⟩ := by
  rw [roundOdd, if_neg (mt beq_iff_eq.mp hm), if_pos h]

theorem roundOdd_of_inRange (hm : m ≠ 0) (h : ¬ f.emax + 1 ≤ ilog m e) :
    roundOdd f (.fin neg m e) =
      ⟨f.enc neg (narrowSig f m e / 4) (narrowExp f m e), narrowSig f m e % 4⟩ := by
  rw [roundOdd, if_neg (mt beq_iff_eq.mp hm), if_neg h]
  rfl

/-- The exponent is emin, or lies above it with 2^x at most the value. -/
theorem narrowExp_bounds (hm : m ≠ 0) :
    narrowExp f m e = f.emin ∨ (f.emin ≤ narrowExp f m e ∧ ScaledLe 1 (narrowExp f m e) m e) := by
  rw [scaledLe_one_iff hm, narrowExp]
  omega

theorem not_scaledLe_narrowExp_succ (hm : m ≠ 0) : ¬ ScaledLe 1 (narrowExp f m e + 1) m e := by
  rw [scaledLe_one_iff hm, narrowExp]
  omega

theorem narrowSig_eq (f : Fmt) (m : Nat) (e : Int) :
    narrowSig f m e =
      let t := (quant m e (quarterExp f m e)).1
      if ScaledEq t (quarterExp f m e) m e then t else t ||| 1 := by
  simp only [scaledEq_quant_iff, narrowSig]
  cases (quant m e (quarterExp f m e)).2 with
  | false => rfl
  | true => rfl

end RoundOdd

/-- Settles O20: the exponent of R64 is `narrowExp`, and its t before the sticky bit the quotient of `quant`. -/
theorem roundOddNarrows : Obligations.RoundOddNarrows := by
  intro f _
  refine ⟨fun _ => rfl, fun _ => rfl, roundOdd_zero f, fun neg m e hm => ⟨fun h => ?overflow, fun h => ?cut⟩⟩
  case overflow => exact roundOdd_of_overflow f neg hm ((scaledLe_one_iff hm).mp h)
  case cut =>
    have quotient_le := (scaledLe_iff_le_quant (m := m) (k := quarterExp f m e) (e := e)).mpr (Nat.le_refl _)
    have succ_not_le := mt (scaledLe_iff_le_quant (m := m) (k := quarterExp f m e) (e := e)).mp (Nat.not_succ_le_self _)
    have result := roundOdd_of_inRange f neg hm (mt (scaledLe_one_iff hm).mpr h)
    rw [narrowSig_eq] at result
    exact ⟨narrowExp f m e, _, narrowExp_bounds f hm, not_scaledLe_narrowExp_succ f hm, quotient_le, succ_not_le, result⟩

end Sys2Proof.Proofs.Numbers
end

section
/-! Trap entry (11_traps_preemption.md R304): what settled results and the entry leave of a group, and which of its
outcomes a raised cause has. -/

namespace Sys2Proof.Proofs.TrapEntry

open Sys2Proof Sys2Proof.Machine

section Results

variable (g : Group)

/-- A group but for what returning results change (R95, R97): registers, predicates and the results themselves. -/
def beyondResults : Group := { g with lanes := [], s := [], pend := [], parked := false }

theorem applyAll_beyondResults (w : List RegW) : beyondResults (applyAll g w) = beyondResults g := by
  obtain ⟨-, body_eq, fflags_eq⟩ := Group.applyAll_keeps w g
  calc beyondResults (applyAll g w)
      = beyondResults { (applyAll g w).body with fflags := (applyAll g w).fflags } := rfl
    _ = beyondResults { g.body with fflags := g.fflags } := by rw [body_eq, fflags_eq]

theorem foldl_applyAll_same {β : Type} (p : Group → β) (hp : ∀ w a, p (applyAll a w) = p a) (ws : List (List RegW)) :
    p (ws.foldl applyAll g) = p g := by
  induction ws generalizing g with
  | nil => rfl
  | cons w ws ih => exact (ih (applyAll g w)).trans (hp w g)

theorem settleResults_beyondResults : beyondResults g.settleResults = beyondResults g :=
  foldl_applyAll_same g beyondResults (fun w a => applyAll_beyondResults a w) g.pend

theorem settleResults_lanes_bare : g.settleResults.lanes.map Lane.bare = g.lanes.map Lane.bare :=
  foldl_applyAll_same g (fun a => a.lanes.map Lane.bare) (fun w a => (Group.applyAll_keeps w a).1) g.pend

theorem settleResults_lane_bare (l : Nat) : (g.settleResults.lane l).bare = (g.lane l).bare := by
  have lanes_eq := congrArg (fun xs => xs.getD l Lane.none.bare) (settleResults_lanes_bare g)
  simp only [getD_map] at lanes_eq
  exact lanes_eq

theorem settleResults_runMask : g.settleResults.runMask = g.runMask := by
  have st_eq := congrArg (List.map Lane.st) (settleResults_lanes_bare g)
  rw [List.map_map, List.map_map] at st_eq
  exact runMask_of_st st_eq

theorem owedLeft_eq_nil (ws : List (List RegW)) (h : ∀ w ∈ ws, ∀ x ∈ w, x.owed = false) : owedLeft ws = [] := by
  induction ws with
  | nil => rfl
  | cons w ws ih =>
    have none_left (now : List RegW) : (dropSame now w).filter RegW.owed = [] := by
      rw [List.filter_eq_nil_iff]
      intro x hx
      rw [h w List.mem_cons_self x (List.mem_filter.mp hx).1]
      exact Bool.false_ne_true
    rw [owedLeft, none_left, ih fun v hv => h v (List.mem_cons_of_mem _ hv)]
    rfl

variable {g}

theorem known_of_owed_eq_nil (h : g.owed = []) : ∀ w ∈ g.pend, ∀ x ∈ w, x.owed = false := by
  intro w hw x hx
  rw [Group.owed, List.flatMap_eq_nil_iff] at h
  have not_status := List.filterMap_eq_nil_iff.mp (h w hw) x hx
  cases x with
  | o op r => cases not_status
  | v l n i => rfl
  | s n i => rfl
  | p l k b => rfl

theorem settleResults_pend (h : g.owed = []) : g.settleResults.pend = [] :=
  owedLeft_eq_nil g.pend (known_of_owed_eq_nil h)

end Results

section Entry

variable (g : Group) (t : Trap) (pc : DWord) {l : Nat}

theorem active_of_running {g : Group} (h : inMask g.runMask l = true) : (g.lane l).st = .active := by
  rw [Group.runMask, inMask_maskOf, Bool.and_eq_true, beq_iff_eq] at h
  exact h.2

/-- What the entry makes of a lane of the running path (R304 steps 3 and 4). -/
def handlerLane (tvec pc : DWord) (x : Lane) : Lane := { x with hnd := true, ret := pc, pc := tvec }

/-- A group whose running path has become the handler path. -/
def handlerPath : Group := g.mapMask g.runMask (handlerLane g.tvec pc)

theorem handlerPath_frame : { handlerPath g pc with lanes := [] } = { g with lanes := [] } :=
  Group.mapMask_keeps (handlerLane g.tvec pc) g.runMask g

theorem handlerPath_regs : (handlerPath g pc).regs = g.regs :=
  Prod.ext (Group.mapMask_map (fun x => (x.v, x.pr)) (handlerLane g.tvec pc) (fun _ => rfl) g.runMask g)
    (congrArg Group.s (handlerPath_frame g pc) :)

theorem handlerPath_lane_running (h : inMask g.runMask l = true) :
    (handlerPath g pc).lane l = handlerLane g.tvec pc (g.lane l) := by
  rw [handlerPath, Group.lane_mapMask, if_pos ⟨h, Group.run_lt g l h⟩]

theorem handlerPath_lane_other (h : inMask g.runMask l = false) : (handlerPath g pc).lane l = g.lane l := by
  simp [handlerPath, Group.lane_mapMask, h]

/-- A group but for what trap entry changes. -/
def beyondEntry (g : Group) : Group :=
  { beyondResults g with
    tcause := 0, tpc := 0, tval := 0, tvalh := 0, inH := false, hDepth := 0, wait := .no, held := none, fresh := false }

theorem enter_beyondEntry : beyondEntry (g.enter t pc) = beyondEntry g :=
  calc beyondEntry (g.enter t pc)
      = beyondEntry { handlerPath g.settleResults pc with lanes := [] } := rfl
    _ = beyondEntry { g.settleResults with lanes := [] } := congrArg beyondEntry (handlerPath_frame ..)
    _ = beyondEntry (beyondResults g.settleResults) := rfl
    _ = beyondEntry (beyondResults g) := congrArg beyondEntry (settleResults_beyondResults g)

theorem enter_regs : (g.enter t pc).regs = g.final := handlerPath_regs g.settleResults pc

variable {g}

theorem enter_pend (h : g.owed = []) : (g.enter t pc).pend = [] :=
  (congrArg Group.pend (handlerPath_frame g.settleResults pc) :).trans (settleResults_pend h)

theorem enter_hDepth : (g.enter t pc).hDepth = g.stack.length :=
  (congrArg (fun (a : Group) => a.stack.length) (settleResults_beyondResults g) :)

theorem enter_lane_running (h : inMask g.runMask l = true) :
    ((g.enter t pc).lane l).bare = handlerLane g.tvec pc (g.lane l).bare := by
  have tvec_eq : g.settleResults.tvec = g.tvec := (congrArg Group.tvec (settleResults_beyondResults g) :)
  rw [← settleResults_runMask] at h
  calc ((g.enter t pc).lane l).bare
      = handlerLane g.settleResults.tvec pc (g.settleResults.lane l).bare :=
        congrArg Lane.bare (handlerPath_lane_running g.settleResults pc h)
    _ = handlerLane g.tvec pc (g.lane l).bare := by rw [tvec_eq, settleResults_lane_bare]

theorem enter_lane_other (h : inMask g.runMask l = false) : ((g.enter t pc).lane l).bare = (g.lane l).bare := by
  rw [← settleResults_runMask] at h
  exact (congrArg Lane.bare (handlerPath_lane_other g.settleResults pc h)).trans (settleResults_lane_bare g l)

end Entry

section Outcome

variable {s : State} {gid : Nat} {g : Group} (t : Trap)

theorem takeTrap_of_owed (hg : SMap.get? s.groups gid = some g) (ho : g.owed ≠ []) :
    takeTrap s gid t =
      s.setGroup gid { g with wait := .raise t.cause t.tval t.tvalh, held := none, fresh := false } := by
  simp [takeTrap, hg, ho]

/-- The state once the tier failure that a trap may report is forgotten (R375). -/
def reported (s : State) (gid : Nat) (t : Trap) : State :=
  if t.cause == 0x11 || t.cause == 0x0F then s.clearFailed gid else s

theorem reported_frame : { reported s gid t with vds := s.vds } = s := by
  unfold reported
  split <;> rfl

theorem reported_groups : (reported s gid t).groups = s.groups := (congrArg State.groups (reported_frame t) :)

theorem takeTrap_inHandler (hg : SMap.get? s.groups gid = some g) (ho : g.owed = []) (hh : g.inH = true) :
    takeTrap s gid t = (reported s gid t).unhandled gid 2 t g.runPc := by
  simp [takeTrap, reported, hg, ho, hh]

theorem takeTrap_noVector (hg : SMap.get? s.groups gid = some g) (ho : g.owed = []) (hh : g.inH = false)
    (hv : g.tvec = 0) : takeTrap s gid t = (reported s gid t).unhandled gid 1 t g.runPc := by
  simp [takeTrap, reported, hg, ho, hh, hv]

section Handled

variable (hg : SMap.get? s.groups gid = some g) (ho : g.owed = []) (hh : g.inH = false) (hv : g.tvec ≠ 0)
include hg ho hh hv

theorem takeTrap_enters : takeTrap s gid t = (reported s gid t).setGroup gid (g.enter t g.runPc) := by
  have nonzero : g.tvec ≠ 0#64 := hv
  simp [takeTrap, reported, hg, ho, hh, nonzero]

theorem takeTrap_groups_same : SMap.get? (takeTrap s gid t).groups gid = some (g.enter t g.runPc) := by
  rw [takeTrap_enters t hg ho hh hv, State.setGroup_groups, SMap.get?_put_same]

theorem takeTrap_groups_other {j : Nat} (hj : j ≠ gid) :
    SMap.get? (takeTrap s gid t).groups j = SMap.get? s.groups j := by
  rw [takeTrap_enters t hg ho hh hv, State.setGroup_groups, SMap.get?_put_other _ _ _ _ hj, reported_groups]

theorem takeTrap_frame : { takeTrap s gid t with groups := s.groups, vds := s.vds } = s := by
  rw [takeTrap_enters t hg ho hh hv]
  exact (congrArg (fun (a : State) => { a with groups := s.groups }) (reported_frame (gid := gid) t) :)

end Handled

end Outcome

/-- Settles O38: `takeTrap` has one outcome for each of R304's cases, and in the last its group is `Group.enter` of what
it was, whose lanes and other fields the entry lemmas give. -/
theorem trapsEnterTheHandler : Obligations.TrapsEnterTheHandler := by
  intro s gid g t hg
  refine ⟨takeTrap_of_owed t hg, takeTrap_inHandler t hg, takeTrap_noVector t hg, fun ho hh hv => ?handled⟩
  case handled =>
    have kept := enter_beyondEntry g t g.runPc
    refine ⟨g.enter t g.runPc, takeTrap_groups_same t hg ho hh hv, enter_regs g t g.runPc, enter_pend t g.runPc ho,
      rfl, rfl, rfl, rfl, rfl, enter_hDepth t g.runPc, fun l running => ?running, fun l other => ?other,
      rfl, rfl, (congrArg Group.stack kept :), (congrArg Group.toks kept :), (congrArg Group.prog kept :),
      (congrArg Group.fflags kept :), (congrArg Group.tvec kept :),
      fun j => takeTrap_groups_other t hg ho hh hv, takeTrap_frame t hg ho hh hv⟩
    case running =>
      have lane_eq := enter_lane_running t g.runPc running
      exact ⟨(congrArg Lane.hnd lane_eq :), (congrArg Lane.ret lane_eq :), (congrArg Lane.pc lane_eq :),
        (congrArg Lane.st lane_eq :).trans (active_of_running running)⟩
    case other =>
      have lane_eq := enter_lane_other t g.runPc other
      exact ⟨(congrArg Lane.pc lane_eq :), (congrArg Lane.st lane_eq :), (congrArg Lane.hnd lane_eq :),
        (congrArg Lane.ret lane_eq :)⟩

end Sys2Proof.Proofs.TrapEntry
end

section
/-! Proofs about the encoding (03_encoding_assembly.md): what the fields of an encoded instruction read back as, that its
words give back its fields, and from both that decode and encode are inverse to each other. -/

namespace Sys2Proof.Proofs.Encoding

open Sys2Proof

section Fields

variable {v n : Nat}

theorem slice_append_right (x : BitVec v) (y : BitVec n) : slice n 0 (x ++ y) = y := by
  refine BitVec.eq_of_getLsbD_eq fun i hi => ?_
  rw [slice, BitVec.getLsbD_extractLsb', BitVec.getLsbD_append]
  simp [hi]

theorem slice_append_left (k lo : Nat) (x : BitVec v) (y : BitVec n) (h : n ≤ lo) :
    slice k lo (x ++ y) = slice k (lo - n) x := by
  refine BitVec.eq_of_getLsbD_eq fun i hi => ?_
  simp only [slice, BitVec.getLsbD_extractLsb', BitVec.getLsbD_append, hi]
  rw [if_neg (by omega), Nat.sub_add_comm h]

theorem slice_whole (x : BitVec n) : slice n 0 x = x := by
  refine BitVec.eq_of_getLsbD_eq fun i hi => ?_
  simp [slice]

theorem getLsbD_append_left (lo : Nat) (x : BitVec v) (y : BitVec n) (h : n ≤ lo) :
    (x ++ y).getLsbD lo = x.getLsbD (lo - n) := by
  rw [BitVec.getLsbD_append, if_neg (by omega)]

theorem getLsbD_append_right (lo : Nat) (x : BitVec v) (y : BitVec n) (h : lo < n) :
    (x ++ y).getLsbD lo = y.getLsbD lo := by
  rw [BitVec.getLsbD_append, if_pos h]

theorem getLsbD_bit (b : Bool) : (bit b).getLsbD 0 = b := by cases b <;> rfl

end Fields

theorem byte_v (n : Fin 192) : (Opnd.v n).byte.toNat = n.val := by
  rw [Opnd.byte, BitVec.toNat_ofNat]
  exact Nat.mod_eq_of_lt (by omega)

theorem byte_s (n : Fin 60) : (Opnd.s n).byte.toNat = 192 + n.val := by
  rw [Opnd.byte, BitVec.toNat_ofNat]
  exact Nat.mod_eq_of_lt (by omega)

/-- R85: an operand byte names its operand. -/
theorem ofByte_byte (o : Opnd) : Opnd.ofByte o.byte = o := by
  cases o with
  | v n => simp [Opnd.ofByte, byte_v]
  | s n => simp [Opnd.ofByte, byte_s]
  | lane | zero | lit | none => simp [Opnd.ofByte, Opnd.byte]

theorem rm_of_code (x : RM) : RM.of x.code = x := by cases x <;> rfl

theorem fmod_of_code (x : FMod) : FMod.of x.code = x := by
  obtain ⟨a, b⟩ := x
  cases a <;> cases b <;> rfl

theorem pf_of_byte (x : PF) : PF.of x.byte = x := by
  simp (disch := decide) only [PF.of, PF.byte, slice_append_right, getLsbD_append_left, getLsbD_append_right,
    Nat.reduceSub, getLsbD_bit]

theorem cf_of_byte (x : CF) : CF.of x.byte = x := by
  simp (disch := decide) only [CF.of, CF.byte, slice_append_right, slice_append_left, getLsbD_append_left,
    getLsbD_append_right, Nat.reduceSub, getLsbD_bit]

theorem tokOf_tokByte (x : Option (BitVec 4)) : tokOf (tokByte x) = x := by
  cases x with
  | none => rfl
  | some t =>
    revert t
    decide

theorem combOf_code (x : Option (Comb × PF)) : combOf (combCode x) (combByte x) = x := by
  rcases x with _ | ⟨c, p⟩
  · rfl
  · rw [combByte, combOf, pf_of_byte]
    cases c <;> rfl

theorem slice_pByte (p : BitVec 3) : slice 3 0 (pByte p) = p := slice_append_right _ _

/-- What is read of the fields of MOD, FN and the operand bytes is what was put there. -/
theorem fieldsReadBack :
    (∀ {v n : Nat} (x : BitVec v) (y : BitVec n), slice n 0 (x ++ y) = y) ∧
    (∀ {v n : Nat} (k lo : Nat) (x : BitVec v) (y : BitVec n), n ≤ lo → slice k lo (x ++ y) = slice k (lo - n) x) ∧
    (∀ {n : Nat} (x : BitVec n), slice n 0 x = x) ∧
    (∀ {v n : Nat} (lo : Nat) (x : BitVec v) (y : BitVec n), n ≤ lo → (x ++ y).getLsbD lo = x.getLsbD (lo - n)) ∧
    (∀ {v n : Nat} (lo : Nat) (x : BitVec v) (y : BitVec n), lo < n → (x ++ y).getLsbD lo = y.getLsbD lo) ∧
    (∀ b, (bit b).getLsbD 0 = b) ∧ (∀ o : Opnd, Opnd.ofByte o.byte = o) ∧ (∀ x : RM, RM.of x.code = x) ∧
    (∀ x : FMod, FMod.of x.code = x) ∧ (∀ x : PF, PF.of x.byte = x) ∧ (∀ x : CF, CF.of x.byte = x) ∧
    (∀ x : Option (BitVec 4), tokOf (tokByte x) = x) ∧ (∀ p, slice 3 0 (pByte p) = p) ∧
    (∀ x : Option (Comb × PF), combOf (combCode x) (combByte x) = x) :=
  ⟨slice_append_right, slice_append_left, slice_whole, getLsbD_append_left, getLsbD_append_right, getLsbD_bit, ofByte_byte,
    rm_of_code, fmod_of_code, pf_of_byte, cf_of_byte, tokOf_tokByte, slice_pByte, combOf_code⟩

/-- An enumeration's code, in a field wide enough for it, reads back as the element. -/
theorem codesReadBack :
    (∀ t : ITy, ITy.ofNat (BitVec.ofNat 3 t.ctorIdx).toNat = t) ∧ (∀ t : ITy, ITy.ofNat (BitVec.ofNat 8 t.ctorIdx).toNat = t) ∧
    (∀ t : FTy, FTy.ofNat (BitVec.ofNat 2 t.ctorIdx).toNat = t) ∧ (∀ t : FTy, FTy.ofNat (BitVec.ofNat 8 t.ctorIdx).toNat = t) ∧
    (∀ t : ICc, ICc.ofNat (BitVec.ofNat 8 t.ctorIdx).toNat = t) ∧ (∀ t : FCc, FCc.ofNat (BitVec.ofNat 3 t.ctorIdx).toNat = t) ∧
    (∀ t : EF, EF.ofNat (BitVec.ofNat 8 t.ctorIdx).toNat = t) ∧ (∀ t : Kt, Kt.ofNat (BitVec.ofNat 2 t.ctorIdx).toNat = t) ∧
    (∀ t : RedOp, RedOp.ofNat (BitVec.ofNat 8 t.ctorIdx).toNat = t) ∧ (∀ t : Scope, Scope.ofNat (BitVec.ofNat 3 t.ctorIdx).toNat = t) ∧
    (∀ t : MOrd, MOrd.ofNat (BitVec.ofNat 3 t.ctorIdx).toNat = t) ∧ (∀ t : Pol, Pol.ofNat (BitVec.ofNat 2 t.ctorIdx).toNat = t) ∧
    (∀ t : LdW, LdW.ofNat (BitVec.ofNat 3 t.ctorIdx).toNat = t) ∧ (∀ t : LdcF, LdcF.ofNat (BitVec.ofNat 3 t.ctorIdx).toNat = t) ∧
    (∀ t : StcF, StcF.ofNat (BitVec.ofNat 3 t.ctorIdx).toNat = t) ∧ (∀ t : ATy, ATy.ofNat (BitVec.ofNat 3 t.ctorIdx).toNat = t) ∧
    (∀ t : MredTy, MredTy.ofNat (BitVec.ofNat 3 t.ctorIdx).toNat = t) ∧ (∀ t : CLvl, CLvl.ofNat (BitVec.ofNat 3 t.ctorIdx).toNat = t) ∧
    (∀ t : CnF, CnF.ofNat (BitVec.ofNat 3 t.ctorIdx).toNat = t) ∧ (∀ t : MFmt, MFmt.ofNat (BitVec.ofNat 7 t.ctorIdx).toNat = t) ∧
    (∀ t : CTy, CTy.ofNat (BitVec.ofNat 8 t.ctorIdx).toNat = t) ∧ (∀ t : AcTy, AcTy.ofNat (BitVec.ofNat 3 t.ctorIdx).toNat = t) ∧
    (∀ t : BLvl, BLvl.ofNat (BitVec.ofNat 2 t.ctorIdx).toNat = t) ∧ (∀ t : Scope, Scope.ofNat (BitVec.ofNat 8 t.ctorIdx).toNat = t) ∧
    (∀ t : Fin 5, Fin.ofNat 5 (BitVec.ofNat 3 t.val).toNat = t) ∧ (∀ t : Fin 3, Fin.ofNat 3 (BitVec.ofNat 2 t.val).toNat = t) ∧
    (∀ t : Fin 2, Fin.ofNat 2 (BitVec.ofNat 2 t.val).toNat = t) := by
  refine ⟨?_, ?_, ?_, ?_, ?_, ?_, ?_, ?_, ?_, ?_, ?_, ?_, ?_, ?_, ?_, ?_, ?_, ?_, ?_, ?_, ?_, ?_, ?_, ?_, by decide, by decide, by decide⟩ <;>
    (intro t; cases t <;> rfl)

/-- Codes of 8 bits, of which some forms read fewer. -/
theorem shortCodesReadBack :
    (∀ t : FTy, FTy.ofNat (slice 2 0 (BitVec.ofNat 8 t.ctorIdx)).toNat = t) ∧
    (∀ t : Kt, Kt.ofNat (slice 2 0 (BitVec.ofNat 8 t.ctorIdx)).toNat = t) ∧
    (∀ t : FCc, FCc.ofNat (BitVec.ofNat 8 t.ctorIdx).toNat = t) ∧
    (∀ df sf : FTy, FTy.ofNat (slice 2 2 (BitVec.ofNat 8 (4 * df.ctorIdx + sf.ctorIdx))).toNat = df) ∧
    (∀ df sf : FTy, FTy.ofNat (slice 2 0 (BitVec.ofNat 8 (4 * df.ctorIdx + sf.ctorIdx))).toNat = sf) :=
  ⟨by intro t; cases t <;> rfl, by intro t; cases t <;> rfl, by intro t; cases t <;> rfl, by intro t u; cases t <;> cases u <;> rfl,
    by intro t u; cases t <;> cases u <;> rfl⟩

theorem toNat_append_mod {v n : Nat} (y : BitVec v) (o : BitVec n) : (y ++ o).toNat % 2 ^ n = o.toNat := by
  rw [BitVec.toNat_append, ← Nat.shiftLeft_add_eq_or_of_lt o.isLt, Nat.shiftLeft_eq, Nat.mul_comm, Nat.mul_add_mod,
    Nat.mod_eq_of_lt o.isLt]

theorem slice_append_slice {w : Nat} (k n lo m : Nat) (x : BitVec w) (h : lo = m + n) :
    slice k lo x ++ slice n m x = slice (k + n) m x := by
  refine BitVec.eq_of_getLsbD_eq fun i hi => ?_
  rw [BitVec.getLsbD_append]
  simp only [slice, BitVec.getLsbD_extractLsb']
  split
  · rw [decide_eq_true (by omega), decide_eq_true hi]
  · rw [decide_eq_true (by omega), decide_eq_true hi, show lo + (i - n) = m + i by omega]

section Shapes

variable {k : Com} {op fn : BitVec 8} {r : Raw}

theorem int_fields {ex : BitVec 4} {x : IArgs} (h : Enc.int op fn ex x = some r) :
    r.op = op ∧ r.fn = fn ∧ r.i = x := by
  cases h
  simp (disch := decide) only [Raw.i, Com.mk', Raw.com, fieldsReadBack, codesReadBack, Nat.reduceSub, and_self]

theorem flt_fields {x : FArgs} (h : Enc.flt op fn x = some r) : r.op = op ∧ r.fn = fn ∧ r.f = x := by
  cases h
  simp (disch := decide) only [Raw.f, Com.mk', Raw.com, fieldsReadBack, codesReadBack, Nat.reduceSub, and_self]

theorem carry_fields {x : CarryArgs} (h : Enc.carry fn x = some r) : r.op = 0x09 ∧ r.fn = fn ∧ r.carry = x := by
  cases h
  obtain ⟨k, pO, _ | p, d, a, b⟩ := x
  · simp (disch := decide) only [Raw.carry, Com.mk', Raw.com, fieldsReadBack, Nat.reduceSub, Option.isSome_none, and_self,
      Bool.false_eq_true, if_false]
  · simp (disch := decide) only [Raw.carry, Com.mk', Raw.com, fieldsReadBack, Nat.reduceSub, Option.isSome_some, and_self,
      if_true]

theorem rnd_fields {hi : BitVec 3} {x : RArgs} (h : Enc.rnd op fn hi x = some r) :
    r.op = op ∧ r.fn = fn ∧ r.rnd = x ∧ r.md.getLsbD 5 = hi.getLsbD 0 ∧ r.md.getLsbD 6 = hi.getLsbD 1 := by
  cases h
  simp (disch := decide) only [Raw.rnd, Com.mk', Raw.com, fieldsReadBack, codesReadBack, Nat.reduceSub, and_self]

theorem fcmp_fields {x : CmpArgs} {ft : FTy} {ma mb : FMod} (h : Enc.fcmp fn x ft ma mb = some r) :
    r.op = 0x35 ∧ r.fn = fn ∧ r.fcmp = x ∧ r.f.ft = ft ∧ r.f.ma = ma ∧ r.f.mb = mb := by
  cases h
  simp (disch := decide) only [Raw.fcmp, Raw.f, Com.mk', Raw.com, fieldsReadBack, codesReadBack, Nat.reduceSub, and_self]

theorem vote_fields {x : VoteArgs} (h : Enc.vote fn x = some r) : r.op = 0x25 ∧ r.fn = fn ∧ r.vote = x := by
  cases h
  simp (disch := decide) only [Raw.vote, Com.mk', Raw.com, fieldsReadBack, and_self]

theorem gen_fields {md : BitVec 8} {d a b c : Opnd} (h : Enc.gen k op fn md d a b c = some r) :
    r.op = op ∧ r.fn = fn ∧ r.md = md ∧ r.com = k ∧ r.oD = d ∧ r.oA = a ∧ r.oB = b ∧ r.oC = c := by
  cases h
  simp (disch := decide) only [Raw.oA, Raw.oB, Raw.oC, Raw.oD, Com.mk', Raw.com, fieldsReadBack, and_self]

theorem shfl_fields {x : ShArgs} (h : Enc.shfl fn x = some r) : r.op = 0x60 ∧ r.fn = fn ∧ r.shfl = x := by
  cases h
  simp (disch := decide) only [Raw.shfl, Com.mk', Raw.com, fieldsReadBack, codesReadBack, Nat.reduceSub, and_self]

theorem load_fields {x : MArgs} {w : BitVec 3} (h : Enc.load op x w = some r) :
    r.op = op ∧ r.load = x ∧ r.m53 = w.toNat := by
  cases h
  simp (disch := decide) only [Raw.load, Raw.pol, Raw.ap, Raw.m53, Enc.so, Enc.mmod, Com.mk', Raw.com, fieldsReadBack,
    codesReadBack, Nat.reduceSub, and_self]

theorem atom_fields {pol : Pol} {x : AtArgs} (h : Enc.atom op fn pol x = some r) (hx : x.k.ext = x.ext) :
    r.op = op ∧ r.fn = fn ∧ r.atom = x := by
  cases h
  simp (disch := decide) only [Raw.atom, Raw.ap, Raw.m53, Enc.mmod, Com.mk', Raw.com, fieldsReadBack, hx, AtArgs.ext,
    codesReadBack, Nat.reduceSub, true_and]
  rw [← AtArgs.ext, ← hx]

theorem mred_fields {x : MredArgs} (h : Enc.mred fn x = some r) : r.op = 0x7B ∧ r.fn = fn ∧ r.mred = x := by
  cases h
  simp (disch := decide) only [Raw.mred, Raw.ap, Raw.m53, Enc.mmod, Com.mk', Raw.com, fieldsReadBack,
    codesReadBack, Nat.reduceSub, and_self]

theorem line_fields {x : LnArgs} (h : Enc.line op fn x = some r) : r.op = op ∧ r.fn = fn ∧ r.line = x := by
  cases h
  simp (disch := decide) only [Raw.line, Raw.pol, Raw.ap, Raw.m53, Enc.mmod, Com.mk', Raw.com, fieldsReadBack,
    codesReadBack, Nat.reduceSub, and_self]

theorem tier_fields {x : TierArgs} (h : Enc.tier fn x = some r) : r.op = 0x81 ∧ r.fn = fn ∧ r.tier = x := by
  cases h
  simp (disch := decide) only [Raw.tier, Raw.ap, Com.mk', Raw.com, fieldsReadBack, and_self]

theorem gth_fields {x : GthArgs} (h : Enc.gth op x = some r) : r.op = op ∧ r.gth = x := by
  cases h
  simp (disch := decide) only [Raw.gth, Raw.pol, Raw.ap, Enc.mmod, Com.mk', Raw.com, fieldsReadBack, codesReadBack,
    Nat.reduceSub, and_self]

theorem acol_fields {x : AcolArgs} (h : Enc.acol fn x = some r) : r.op = 0xB6 ∧ r.fn = fn ∧ r.acol = x := by
  cases h
  simp (disch := decide) only [Raw.acol, Raw.pol, Raw.ap, Raw.m53, Enc.mmod, Com.mk', Raw.com, fieldsReadBack,
    codesReadBack, Nat.reduceSub, and_self]

theorem bar_fields {o : BitVec 2} {x : BarArgs} (h : Enc.bar o x = some r) :
    r.op = 0xC0 ∧ r.fn.toNat % 4 = o.toNat ∧ r.bar = x := by
  cases h
  refine ⟨rfl, toNat_append_mod _ o, ?_⟩
  simp (disch := decide) only [Raw.bar, Com.mk', Raw.com, fieldsReadBack, codesReadBack, Nat.reduceSub]

theorem csr_fields {x : CsrArgs} (h : Enc.csr fn x = some r) : r.op = 0xE1 ∧ r.fn = fn ∧ r.csr = x := by
  cases h
  have hnum : slice 4 8 x.num ++ slice 8 0 x.num = x.num := (slice_append_slice 4 8 8 0 x.num rfl).trans (slice_whole _)
  simp (disch := decide) only [Raw.csr, Com.mk', Raw.com, fieldsReadBack, hnum, and_self]

end Shapes

theorem AtArgs.ext_of_ok {x : AtArgs} {tys : List ATy} {c : Bool} (h : x.ok tys c = true) : x.k.ext = x.ext := by
  simp only [AtArgs.ok, Bool.and_eq_true, beq_iff_eq] at h
  exact h.1.2

/-- R140, R166, R190, R215, R240, R278: OP and FN of an instruction's fields name it, and its operands read back. -/
theorem instr?_of_raw (i : Instr) (r : Raw) (hw : i.wf = true) (h : i.raw = some r) : r.instr? = some i := by
  cases i
  case iadd x | isub x | imulLo x | imulHi x | imulWide x | imad x | imadWide x | idiv x | irem x | imin x | imax x |
      iabs x | ineg x | lop x tt | shl x | shr x | sra x | rotl x | rotr x | shfWin x | shfRot x | clz x | ctz x | popc x |
      brev x | bswap x | cls x | bfxU x | bfxS x | bfi x | prmt x | idpDp2 x | sad x =>
    obtain ⟨hop, hfn, rfl⟩ := int_fields h
    cases r; cases hop; cases hfn; rfl
  case lea x n | idpDp4 x sa sb | cvti x dt e =>
    obtain ⟨hop, hfn, hx⟩ := int_fields h
    cases h
    conv => rhs; rw [← hx]
    simp (disch := decide) only [Raw.instr?, Raw.int?, BitVec.reduceToNat, Nat.reduceLT, if_true, Com.mk',
      fieldsReadBack, codesReadBack, Nat.reduceSub]
  case addc x | subb x =>
    obtain ⟨hop, hfn, rfl⟩ := carry_fields h
    cases r; cases hop; cases hfn; rfl
  case mov x | mov64 x | movl x | movl64 x | bcast x | rdlane x | bcast64 x | rdlane64 x =>
    obtain ⟨hop, hfn, rfl⟩ := int_fields h
    cases r; cases hop; cases hfn; rfl
  case sel x p | sel64 x p =>
    have unused : x.c = .none := by
      simp only [Instr.wf, Bool.and_eq_true, beq_iff_eq] at hw
      exact hw.1.2
    cases h
    simp (disch := decide) only [Raw.instr?, Raw.move?, Raw.iSel, Raw.i, Raw.com, Com.mk', BitVec.reduceToNat, Nat.reduceLT,
      if_true, if_false, fieldsReadBack, codesReadBack, Nat.reduceSub, ← unused]
  case icmp x ty cc =>
    cases h
    simp (disch := decide) only [Raw.instr?, Raw.move?, Raw.pD, Raw.oA, Raw.oB, Raw.com, Com.mk', BitVec.reduceToNat,
      Nat.reduceLT, if_true, if_false, fieldsReadBack, codesReadBack, Nat.reduceSub]
  case plop k tt pD pA pB pC =>
    cases h
    simp only [Raw.instr?, Raw.move?, Raw.pD, Raw.com, Com.mk', BitVec.reduceToNat, Nat.reduceLT, if_true, if_false,
      fieldsReadBack]
  case voteSome x | voteEvery x | voteSame x | voteMask x | voteCount x | voteFirst x =>
    obtain ⟨hop, hfn, rfl⟩ := vote_fields h
    cases r; cases hop; cases hfn; rfl
  case pmovGet k d | pmovSet k m a =>
    obtain ⟨hop, hfn, hmd, hk, hd, ha, hb, hc⟩ := gen_fields h
    simp only [Raw.instr?, Raw.move?, hop, hfn, hmd, hk, hd, ha, BitVec.reduceToNat, Nat.reduceLT, if_true, if_false,
      fieldsReadBack]
  case fadd x | fsub x | fmul x | ffma x | fmin x | fmax x | fminnum x | fmaxnum x | fdiv x | fsqrt x | frcpRcp x |
      frcpRsq x | fsfuExp2 x | fsfuLog2 x | fsfuSin x | fsfuCos x | fsfuTanh x | hdot2F16 x | hdot2Bf16 x | fscale x |
      fxtrExp x | fxtrSig x | fclass x | glzGet x | glzSet x | glzClr x =>
    obtain ⟨hop, hfn, rfl⟩ := flt_fields h
    cases r; cases hop; cases hfn; rfl
  case frnd x | fin x | fcvti x dt sat e =>
    obtain ⟨hop, hfn, hx, h5, h6⟩ := rnd_fields h
    simp (disch := decide) only [Raw.instr?, Raw.flt?, hop, hfn, hx, h5, h6, BitVec.reduceToNat, Nat.reduceLT, if_true,
      if_false, fieldsReadBack, Nat.reduceSub]
  case fcmpX x ft ma mb cc =>
    obtain ⟨hop, hfn, hx, hft, hma, hmb⟩ := fcmp_fields h
    have hlt : (BitVec.ofNat 8 cc.ctorIdx).toNat < 0x80 := by cases cc <;> decide
    simp only [Raw.instr?, Raw.flt?, hop, hfn, hx, hft, hma, hmb, hlt, BitVec.reduceToNat, Nat.reduceLT, if_true, if_false,
      shortCodesReadBack]
  case fcmpR x ft ma mb cc rm =>
    obtain ⟨hop, hfn, hx, hft, hma, hmb⟩ := fcmp_fields h
    have hge : ¬ ((1 : BitVec 1) ++ rm.code ++ (0 : BitVec 1) ++ BitVec.ofNat 3 cc.ctorIdx).toNat < 0x80 := by
      cases cc <;> cases rm <;> decide
    simp (disch := decide) only [Raw.instr?, Raw.flt?, hop, hfn, hx, hft, hma, hmb, hge, BitVec.reduceToNat, Nat.reduceLT,
      if_true, if_false, fieldsReadBack, codesReadBack, Nat.reduceSub]
  case fclassP k ft pD a b | glzTest k ft pD a =>
    cases h
    simp only [Raw.instr?, Raw.flt?, Raw.f, Raw.pD, Raw.oA, Raw.oB, Raw.com, Com.mk', BitVec.reduceToNat, Nat.reduceLT,
      if_true, if_false, fieldsReadBack, shortCodesReadBack]
  case fcvt k df sf e d a b | icvtf k df ty d a b | mxsc k ef d a | fpk k ef rm sat scm d a b c | fupk k ef scm d a b |
      rng k d =>
    obtain ⟨hop, hfn, hmd, hk, hd, ha, hb, hc⟩ := gen_fields h
    simp (disch := decide) only [Raw.instr?, Raw.flt?, hop, hfn, hmd, hk, hd, ha, hb, hc, BitVec.reduceToNat, Nat.reduceLT,
      if_true, if_false, fieldsReadBack, codesReadBack, shortCodesReadBack, Nat.reduceSub, Enc.m0]
  case braWhole k | braD k | braEj k | brxD k a | brxWhole k a | call k d | callX k d a | ret k a | fcs k | exit k | pswp k |
      lmap k d | lmapRd k d b | isectIx k d a b | isectAdv k d a b =>
    obtain ⟨hop, hfn, hmd, hk, hd, ha, hb, hc⟩ := gen_fields h
    subst_vars
    cases r; cases hop; cases hfn; rfl
  case redux k op d a | scan k op ex d a | vsortAsc k kt d a b | vsortDesc k kt d a b | matchPeers k w d a |
      matchUni k w d a | matchLead k w d a =>
    obtain ⟨hop, hfn, hmd, hk, hd, ha, hb, hc⟩ := gen_fields h
    simp (disch := decide) only [Raw.instr?, Raw.ctl?, hop, hfn, hmd, hk, hd, ha, hb, BitVec.reduceToNat, Nat.reduceLT,
      if_true, if_false, fieldsReadBack, codesReadBack, shortCodesReadBack, Enc.m0]
  case isectM k pD a b =>
    cases h
    simp only [Raw.instr?, Raw.ctl?, Raw.pD, Raw.oA, Raw.oB, Raw.com, Com.mk', BitVec.reduceToNat, Nat.reduceLT, if_true,
      if_false, fieldsReadBack]
  case shflSel x | shflSlide x | shflRot x | shflFlip x =>
    obtain ⟨hop, hfn, rfl⟩ := shfl_fields h
    cases r; cases hop; cases hfn; rfl
  case ld x w | ldc x w =>
    obtain ⟨hop, hx, hm⟩ := load_fields h
    simp only [Raw.instr?, Raw.mem?, hop, hx, hm, BitVec.reduceToNat, Nat.reduceLT, if_true, if_false, codesReadBack]
  case st x w =>
    cases h
    simp (disch := decide) only [Raw.instr?, Raw.mem?, Raw.store, Raw.load, Raw.pol, Raw.ap, Raw.m53, Enc.so, Enc.mmod,
      Raw.com, Com.mk', BitVec.reduceToNat, Nat.reduceLT, if_true, if_false, fieldsReadBack, codesReadBack, Nat.reduceSub]
  case stc x =>
    cases h
    simp (disch := decide) only [Raw.instr?, Raw.mem?, Raw.oA, Raw.oB, Raw.pol, Raw.ap, Raw.m53, Enc.rsat, Enc.mmod,
      Raw.com, Com.mk', BitVec.reduceToNat, Nat.reduceLT, if_true, if_false, fieldsReadBack, codesReadBack, Nat.reduceSub]
  case spill x | fill x =>
    obtain ⟨hop, hfn, hmd, hk, hd, ha, hb, hc⟩ := gen_fields h
    simp (disch := decide) only [Raw.instr?, Raw.mem?, Raw.pol, Raw.ap, Enc.mmod, hop, hfn, hmd, hk, hd, ha, hb,
      BitVec.reduceToNat, Nat.reduceLT, if_true, if_false, fieldsReadBack, codesReadBack, Nat.reduceSub]
  case atomXchg x | atomAdd x | atomAnd x | atomOr x | atomXor x | atomMin x | atomMax x | atomFadd x | atomFmin x |
      atomFmax x | cas x | atmsAdd x | atmsMin x | atmsMax x | atmsXchg x | atmsFadd x | atmsCas x =>
    have hext : x.k.ext = x.ext := by
      simp only [Instr.wf, AtArgs.ok, Bool.and_eq_true, beq_iff_eq] at hw
      simp only [hw]
    obtain ⟨hop, hfn, rfl⟩ := atom_fields h hext
    cases r; cases hop; cases hfn; rfl
  case mredLine x | mredRet x =>
    obtain ⟨hop, hfn, rfl⟩ := mred_fields h
    cases r; cases hop; cases hfn; rfl
  case pfL1 x | pfL2 x | pfMsc x | cmntWb x | cmntInv x | cmntIc x =>
    obtain ⟨hop, hfn, rfl⟩ := line_fields h
    cases r; cases hop; cases hfn; rfl
  case tierPin x | tierUnpin x | tierPromoteHint x | tierDemote x =>
    obtain ⟨hop, hfn, rfl⟩ := tier_fields h
    cases r; cases hop; cases hfn; rfl
  case fnc k sc pred succ =>
    have hsc : Scope.ofNat (noOp : BitVec 8).toNat = .sys := rfl
    cases h
    simp only [Raw.instr?, Raw.mem?, Raw.com, Com.mk', BitVec.reduceToNat, Nat.reduceLT, if_true, if_false, codesReadBack]
  case mma x =>
    have himm : x.k.imm = mmaImm x.kn x.gam := by
      simp only [Instr.wf, MmaArgs.ok, Bool.and_eq_true, beq_iff_eq] at hw
      exact hw.1.2
    cases h
    simp (disch := decide) only [Raw.instr?, Raw.easel?, Raw.oA, Raw.oB, Raw.oC, Raw.com, Com.mk', BitVec.reduceToNat,
      Nat.reduceLT, if_true, if_false, fieldsReadBack, codesReadBack, Nat.reduceSub, himm, mmaImm]
    rw [← mmaImm, ← himm]
  case mlutA x =>
    have himm : x.k.imm = mmaImm 0 x.gam := by
      simp only [Instr.wf, Bool.and_eq_true, beq_iff_eq] at hw
      exact hw.1.2
    cases h
    simp (disch := decide) only [Raw.instr?, Raw.easel?, Raw.tA, Raw.oB, Raw.com, Com.mk', BitVec.reduceToNat,
      Nat.reduceLT, if_true, if_false, fieldsReadBack, codesReadBack, Nat.reduceSub, himm, mmaImm]
    rw [← mmaImm, ← himm]
  case mlutB k n1 cf a b | cnalAlloc k pD ty cf | cnalGrow k pD b | cnalGrowW k pD b | cnalFree k cf | cnalTrim k b |
      cnz k cf | cnrowMax k cf r | cnrowSum k cf r | cnrowScl k cf r | cnrowCscl k cf r | mwaitM k cf =>
    cases h
    simp only [Raw.instr?, Raw.easel?, Raw.pD, Raw.oA, Raw.oB, Raw.oD, Raw.com, Com.mk', BitVec.reduceToNat,
      Nat.reduceLT, if_true, if_false, fieldsReadBack, codesReadBack]
  case cnldMem x =>
    simp only [Instr.wf, Bool.and_eq_true, beq_iff_eq, Bool.not_eq_true'] at hw
    obtain ⟨⟨hrm, hsat⟩, -⟩ := hw
    cases h
    simp (disch := decide) only [Raw.instr?, Raw.easel?, Raw.pol, Raw.ap, Raw.m53, Raw.oA, Raw.com, Com.mk', Enc.mmod,
      BitVec.reduceToNat, Nat.reduceLT, if_true, if_false, fieldsReadBack, codesReadBack, Nat.reduceSub, ← hrm, ← hsat]
  case cnldReg x =>
    simp only [Instr.wf, Bool.and_eq_true, beq_iff_eq] at hw
    obtain ⟨⟨hrm, -⟩, -⟩ := hw
    cases h
    simp (disch := decide) only [Raw.instr?, Raw.easel?, Raw.pol, Raw.ap, Raw.m53, Raw.oA, Raw.com, Com.mk', Enc.mmod,
      BitVec.reduceToNat, Nat.reduceLT, if_true, if_false, fieldsReadBack, codesReadBack, Nat.reduceSub, ← hrm]
  case cnstMem x | cnstReg x =>
    cases h
    simp (disch := decide) only [Raw.instr?, Raw.easel?, Raw.pol, Raw.ap, Raw.m53, Raw.oA, Raw.oD, Raw.com, Com.mk', Enc.mmod,
      Enc.rsat, BitVec.reduceToNat, Nat.reduceLT, if_true, if_false, fieldsReadBack, codesReadBack, Nat.reduceSub,
      Bool.false_eq_true]
  case mwait k =>
    obtain ⟨hop, hfn, hmd, rfl, hd, ha, hb, hc⟩ := gen_fields h
    cases r; cases hop; cases hfn; rfl
  case acpy x =>
    cases h
    simp (disch := decide) only [Raw.instr?, Raw.sys?, Raw.pol, Raw.ap, Raw.oA, Raw.oB, Raw.oC, Raw.com, Com.mk',
      BitVec.reduceToNat, Nat.reduceLT, if_true, if_false, fieldsReadBack, codesReadBack, Nat.reduceSub]
  case agth x | asct x =>
    obtain ⟨hop, rfl⟩ := gth_fields h
    cases r; cases hop; rfl
  case acolAllred x | acolAllgath x | acolRedscat x =>
    obtain ⟨hop, hfn, rfl⟩ := acol_fields h
    cases r; cases hop; cases hfn; rfl
  case csrRd x | csrWr x | csrSet x | csrClr x =>
    obtain ⟨hop, hfn, rfl⟩ := csr_fields h
    cases r; cases hop; cases hfn; rfl
  case barArrive x | barWait x | barSync x =>
    obtain ⟨hop, hfn, hx⟩ := bar_fields h
    simp only [Raw.instr?, Raw.sys?, hop, hfn, hx, BitVec.reduceToNat, Nat.reduceLT, if_false, Nat.reduceBEq, if_true,
      Bool.false_eq_true]
  case gate k | rtskDone k | nop k | trap k | rte k | rteNx k | brkp k | stop k =>
    obtain ⟨hop, hfn, hmd, rfl, hd, ha, hb, hc⟩ := gen_fields h
    cases r; cases hop; cases hfn; rfl
  case tkwAll k clr a | tkwAny k clr d a | evq k eng a | rels k eng | susp k sc ri ap a b | ccpy k ri sap dap a b c |
      cdsc k ap a =>
    obtain ⟨hop, hfn, hmd, hk, hd, ha, hb, hc⟩ := gen_fields h
    simp (disch := decide) only [Raw.instr?, Raw.sys?, Raw.ap, hop, hfn, hmd, hk, hd, ha, hb, hc, BitVec.reduceToNat,
      Nat.reduceLT, if_true, if_false, fieldsReadBack, codesReadBack, Nat.reduceSub, Enc.m0, Enc.apm]
  case tkt k pD t | tktErr k pD t | tktSt k d t | rtskSpawn k ap t a =>
    cases h
    simp only [Raw.instr?, Raw.sys?, Raw.ap, Raw.pD, Raw.tA, Raw.oA, Raw.oD, Raw.com, Com.mk', BitVec.reduceToNat,
      Nat.reduceLT, if_true, if_false, fieldsReadBack, Enc.apm]
  case resm k sc ap pD a | resmJoin k sc ap pD a =>
    cases h
    simp (disch := decide) only [Raw.instr?, Raw.sys?, Raw.ap, Raw.pD, Raw.oA, Raw.com, Com.mk', BitVec.reduceToNat,
      Nat.reduceLT, if_true, if_false, fieldsReadBack, codesReadBack, Nat.reduceSub, Enc.apm]
    rfl
  all_goals cases h

/-- The words that an instruction's length leaves out are zero (R84). -/
def Padded (k : Com) : Prop := (k.len = .two → k.imm = 0) ∧ (k.len ≠ .four → k.ext = 0)

theorem padded_of_words {k : Com} {a b : Need} (h : k.words a b = true) : Padded k := by
  simp only [Com.words, Bool.and_eq_true] at h
  obtain ⟨⟨hlen, -⟩, -⟩ := h
  unfold Padded
  cases hl : k.len <;> simp_all

theorem words_eq_false {k : Com} (h : ¬ Padded k) (a b : Need) : k.words a b = false :=
  Bool.eq_false_iff.mpr fun hw => h (padded_of_words hw)

theorem com_mk' (k : Com) (op fn md d a b c : BitVec 8) : (k.mk' op fn md d a b c).com = k := rfl

/-- Each form's legality says how it uses words 2 and 3, and that makes the absent ones zero. -/
theorem com_padded (i : Instr) (r : Raw) (hw : i.wf = true) (h : i.raw = some r) : Padded r.com := by
  refine Classical.byContradiction fun hp => ?_
  have misused := words_eq_false hp
  cases i
  case sel x p | sel64 x p =>
    cases h
    have misused : ∀ a b, x.k.words a b = false := misused
    simp only [Instr.wf, IArgs.ok, Com.srcs, Com.litWords, misused, Bool.and_false, Bool.false_eq_true] at hw
  all_goals
    cases h <;>
    simp only [com_mk'] at misused <;>
    simp only [Instr.wf, IArgs.ok, FArgs.ok, FArgs.one, FArgs.two, CmpArgs.ok, VoteArgs.ok, Com.srcs, Com.litWords, Com.bare,
      MArgs.loadOk, MArgs.storeOk, AtArgs.ok, MredArgs.ok, MmaArgs.ok, CnMemArgs.ok, CnRegArgs.ok, AcpyArgs.ok, GthArgs.ok,
      AcolArgs.ok, BarArgs.ok, CsrArgs.ok, misused, Bool.and_false, Bool.false_and, Bool.false_eq_true] at hw
  case csrRd x | csrWr x | csrSet x | csrClr x => split at hw <;> simp at hw

theorem lenOf_word0 (r : Raw) : lenOf r.word0 = some r.len := by
  rw [lenOf, Raw.word0, slice_append_right]
  cases r.len <;> rfl

/-- LEN of word 0 is the code of the length it names. -/
theorem lenCode_of_lenOf {w0 : Word} {l : Len} (h : lenOf w0 = some l) : l.code = slice 2 0 w0 := by
  unfold lenOf at h
  split at h <;> cases h <;> exact BitVec.eq_of_toNat_eq (Eq.symm ‹_›)

/-- R82, R83: words 0 and 1 give back the fields, where the absent words are zero. -/
theorem ofWords_words {r : Raw} {w2 w3 : Word} (h2 : r.len ≠ .two → w2 = r.imm) (h3 : r.len = .four → w3 = r.ext)
    (hp : Padded r.com) : Raw.ofWords r.len r.word0 r.word1 w2 w3 = r := by
  obtain ⟨himm, hext⟩ := hp
  have imm_eq : (Raw.ofWords r.len r.word0 r.word1 w2 w3).imm = r.imm := by
    unfold Raw.ofWords
    cases hl : r.len with
    | two => exact (himm hl).symm
    | three | four => exact h2 (by simp [hl])
  have ext_eq : (Raw.ofWords r.len r.word0 r.word1 w2 w3).ext = r.ext := by
    unfold Raw.ofWords
    cases hl : r.len with
    | two | three => exact (hext (by simp [Raw.com, hl])).symm
    | four => exact h3 hl
  have first_two : Raw.ofWords r.len r.word0 r.word1 w2 w3 = { r with
      imm := (Raw.ofWords r.len r.word0 r.word1 w2 w3).imm
      ext := (Raw.ofWords r.len r.word0 r.word1 w2 w3).ext } := by
    simp (disch := decide) only [Raw.ofWords, Raw.word0, Raw.word1, fieldsReadBack, Nat.reduceSub]
  rw [first_two, imm_eq, ext_eq]

theorem words_length (r : Raw) : r.words.length = r.len.count := by
  unfold Raw.words
  cases r.len <;> rfl

theorem legal?_eq_some {r : Raw} {i : Instr} : r.legal? = some i ↔ r.instr? = some i ∧ i.wf = true ∧ i.raw = some r := by
  unfold Raw.legal?
  cases r.instr? with
  | none => simp
  | some j =>
    simp only [Bool.and_eq_true, beq_iff_eq, Option.ite_none_right_eq_some, Option.some.injEq]
    constructor
    · rintro ⟨⟨hw, hr⟩, rfl⟩
      exact ⟨rfl, hw, hr⟩
    · rintro ⟨rfl, hw, hr⟩
      exact ⟨⟨hw, hr⟩, rfl⟩

/-- Fields that a legal instruction has are read from their own words, whatever follows. -/
theorem decodeWords_words {r : Raw} {i : Instr} (hp : Padded r.com) (hi : r.legal? = some i) (rest : List Word) :
    decodeWords (r.words ++ rest) = i := by
  have enough : ¬ (r.words ++ rest).length < r.len.count := by
    rw [List.length_append, words_length]; omega
  have first : (r.words ++ rest).getD 0 0 = r.word0 := by unfold Raw.words; cases r.len <;> rfl
  have second : (r.words ++ rest).getD 1 0 = r.word1 := by unfold Raw.words; cases r.len <;> rfl
  have third (h : r.len ≠ .two) : (r.words ++ rest).getD 2 0 = r.imm := by
    unfold Raw.words
    cases hl : r.len with
    | two => exact absurd hl h
    | three | four => rfl
  have fourth (h : r.len = .four) : (r.words ++ rest).getD 3 0 = r.ext := by
    unfold Raw.words
    rw [h]
    rfl
  rw [decodeWords, first, lenOf_word0]
  dsimp only
  rw [if_neg enough, second, ofWords_words third fourth hp, hi]

/-- Settles O1: OP and FN name the instruction, its operands and literal words read back, and so its fields are legal. -/
theorem decodeEncode : Obligations.DecodeEncode := by
  intro i rest hw hr
  obtain ⟨r, h⟩ := Option.isSome_iff_exists.mp hr
  rw [encode, h]
  exact decodeWords_words (com_padded i r hw h) (legal?_eq_some.mpr ⟨instr?_of_raw i r hw h, hw, h⟩) rest

theorem bit_getLsbD {w : Nat} (x : BitVec w) (n : Nat) : bit (x.getLsbD n) = slice 1 n x := by
  refine BitVec.eq_of_getLsbD_eq fun i hi => ?_
  obtain rfl : i = 0 := by omega
  rw [getLsbD_bit, slice, BitVec.getLsbD_extractLsb', decide_eq_true hi, Bool.true_and, Nat.add_zero]

theorem word0_ofWords {l : Len} {w0 w1 w2 w3 : Word} (h : lenOf w0 = some l) : (Raw.ofWords l w0 w1 w2 w3).word0 = w0 := by
  have parts : slice 1 31 w0 ++ slice 8 23 w0 ++ slice 8 15 w0 ++ slice 1 14 w0 ++ slice 3 11 w0 ++ slice 8 3 w0 ++
      slice 1 2 w0 ++ slice 2 0 w0 = w0 := by
    simp (disch := decide) only [slice_append_slice]
    exact slice_whole w0
  simpa only [Raw.word0, Raw.ofWords, bit_getLsbD, lenCode_of_lenOf h] using parts

theorem word1_ofWords {l : Len} {w0 w1 w2 w3 : Word} : (Raw.ofWords l w0 w1 w2 w3).word1 = w1 := by
  have parts : slice 8 24 w1 ++ slice 8 16 w1 ++ slice 8 8 w1 ++ slice 8 0 w1 = w1 := by
    simp (disch := decide) only [slice_append_slice]
    exact slice_whole w1
  exact parts

/-- The words of the fields read from a list that holds them all are its first ones. -/
theorem words_ofWords_isPrefix {l : Len} {ws : List Word} (hl : lenOf (ws.getD 0 0) = some l) (hlen : l.count ≤ ws.length) :
    (Raw.ofWords l (ws.getD 0 0) (ws.getD 1 0) (ws.getD 2 0) (ws.getD 3 0)).words <+: ws := by
  rw [Raw.words, word0_ofWords hl, word1_ofWords]
  rcases ws with _ | ⟨w0, _ | ⟨w1, ws⟩⟩
  · cases l <;> cases hlen
  · cases l <;> simp [Len.count] at hlen
  · cases l with
    | two => exact ⟨ws, rfl⟩
    | three =>
      rcases ws with _ | ⟨w2, ws⟩
      · simp [Len.count] at hlen
      · exact ⟨ws, rfl⟩
    | four =>
      rcases ws with _ | ⟨w2, _ | ⟨w3, ws⟩⟩
      · simp [Len.count] at hlen
      · simp [Len.count] at hlen
      · exact ⟨ws, rfl⟩

/-- What decode can answer: no instruction, or the legal one whose fields it reads. -/
theorem decodeWords_cases (ws : List Word) :
    (∃ w0 w1, decodeWords ws = .unassignedOpcode w0 w1) ∨
    ∃ l, lenOf (ws.getD 0 0) = some l ∧ l.count ≤ ws.length ∧
      (Raw.ofWords l (ws.getD 0 0) (ws.getD 1 0) (ws.getD 2 0) (ws.getD 3 0)).legal? = some (decodeWords ws) := by
  unfold decodeWords
  dsimp only
  split
  · exact .inl ⟨_, _, rfl⟩
  · next l hl =>
    split
    · exact .inl ⟨_, _, rfl⟩
    · next hlen =>
      split
      · next i hi => exact .inr ⟨l, hl, by omega, hi⟩
      · exact .inl ⟨_, _, rfl⟩

/-- Settles O2: decode answers only instructions that are legal and whose fields are those read. -/
theorem encodeDecode : Obligations.EncodeDecode := by
  intro ws
  rcases decodeWords_cases ws with ⟨w0, w1, h⟩ | ⟨l, hl, hlen, h⟩
  · rw [h]
    exact ⟨rfl, fun h => by cases h⟩
  · obtain ⟨-, hw, hr⟩ := legal?_eq_some.mp h
    refine ⟨hw, fun _ => ?_⟩
    rw [encode, hr]
    exact words_ofWords_isPrefix hl hlen

/-- Settles O4: LEN is looked at first, and then the words that it asks for. -/
theorem badLengthsRefused : Obligations.BadLengthsRefused := by
  intro w0 ws
  refine ⟨fun h => ?_, fun l hl hlen => ?_⟩
  · have none_named : lenOf ((w0 :: ws).getD 0 0) = none := by
      show lenOf w0 = none
      rw [lenOf, h]
      rfl
    rw [decodeWords, none_named]
    rfl
  · have named : lenOf ((w0 :: ws).getD 0 0) = some l := hl
    rw [decodeWords, named]
    exact if_pos hlen

/-- Settles O3: each of the ten lists computes. -/
theorem specWordsDecode : Obligations.SpecWordsDecode := by
  unfold Obligations.SpecWordsDecode
  decide

end Sys2Proof.Proofs.Encoding
end

section
/-! PROOF. The register forms: which of them can raise Poison Consumed, that they complete otherwise, and the one form that
the schedule can stop between two of its steps. -/

namespace Sys2Proof.Proofs.RegisterForms
open Sys2Proof Sys2Proof.Machine

-- The meaning of a register form.

theorem issue_congr (i : Instr) (k : Com) (rs : List (Opnd × Nat)) (f f' : Nat → GCtx → State → Act) (s : State)
    (h : ∀ gid c, f gid c s = f' gid c s) : issue i k rs f s = issue i k rs f' s := by
  unfold issue
  simp only [h]

theorem stepsTo_unlimited (s : State) (g : Group) (k0 n : Nat) (h : s.lim = none) : s.stepsTo g k0 n = n := by
  unfold State.stepsTo
  rw [h]

/-- A sort that the schedule does not stop runs to its last stage. -/
theorem actVsort_unlimited (desc : Bool) (kt : Kt) (d a b : Opnd) (gid : Nat) (c : GCtx) (s : State) (h : s.lim = none) :
    actVsort desc kt d a b gid c s = runG (opVsort desc kt d a b 5) gid c s := by
  unfold actVsort
  rw [stepsTo_unlimited s c.g _ 5 h]
  rfl

/-- `exec` issues a register form with the computation that `regForm` names. -/
theorem exec_regForm {i : Instr} {k : Com} {rs : List (Opnd × Nat)} {b : GBody} {s : State}
    (h : regForm i = some (k, rs, b)) (hl : s.lim = none) : exec i s = issueG i k rs b s := by
  cases i
  case vsortAsc | vsortDesc =>
    cases h
    exact issue_congr _ _ _ _ _ s fun gid c => actVsort_unlimited _ _ _ _ _ gid c s hl
  all_goals cases h
  all_goals rfl

-- What a register form can raise.

/-- A computation fails only with the Poison Consumed of operands that it consumes. -/
def Consumes (b : GBody) : Prop :=
  ∀ c, (∃ o, b c = .ok o) ∨ ∃ os ls t, c.consume os ls = some t ∧ b c = .error t

theorem consumes_ok (f : GCtx → Out) : Consumes (fun c => .ok (f c)) := fun c => .inl ⟨f c, rfl⟩

theorem consumes_check (os : GCtx → List (Opnd × Nat)) (ls : GCtx → List Nat) (b : GBody) (hb : Consumes b) :
    Consumes (fun c => match c.consume (os c) (ls c) with | some t => .error t | none => b c) := by
  intro c
  cases h : c.consume (os c) (ls c) with
  | some t => exact .inr ⟨os c, ls c, t, h, by simp only [h]⟩
  | none => simpa only [h] using hb c

theorem consumes_unpoisoned (os : GCtx → List (Opnd × Nat)) (f : GCtx → Out) :
    Consumes (fun c => c.unpoisoned (os c) (f c)) :=
  consumes_check os GCtx.ls _ (consumes_ok f)

theorem consumes_ctlForm (k : Opnd) (b : GBody) (hb : Consumes b) : Consumes (ctlForm k b) :=
  consumes_check (fun _ => [(k, 1)]) GCtx.ls b hb

/-- `isect.m` consumes a in the lanes that execute and then b in the whole path. -/
theorem consumes_isectM (pD : BitVec 3) (a b : Opnd) : Consumes (opIsectM pD a b) := by
  intro c
  unfold opIsectM
  cases ha : c.consume [(a, 1)] c.ls with
  | some t => exact .inr ⟨_, _, t, ha, by simp⟩
  | none =>
    cases hb : c.consume [(b, 1)] (if c.ls.isEmpty then [] else maskLanes c.run) with
    | some t => exact .inr ⟨_, _, t, hb, by simp⟩
    | none => exact .inl ⟨_, by simp only [Option.or]; rfl⟩

theorem consumes_vsort (desc : Bool) (kt : Kt) (d a b : Opnd) (m : Nat) : Consumes (opVsort desc kt d a b m) := by
  intro c
  unfold opVsort
  dsimp only
  split <;> exact .inl ⟨_, rfl⟩

theorem consumes_regForm {i : Instr} {k : Com} {rs : List (Opnd × Nat)} {b : GBody}
    (h : regForm i = some (k, rs, b)) : Consumes b := by
  cases i
  case addc | subb | prmt | pmovSet | icmp | rdlane | rdlane64 | fcmpX | fcmpR | fclassP | glzTest | shflSel | shflSlide |
      shflRot | shflFlip | lmapRd =>
    cases h
    exact consumes_unpoisoned _ _
  case bfxU | bfxS | bfi =>
    cases h
    exact consumes_ctlForm _ _ (consumes_ok _)
  case isectM => cases h; exact consumes_isectM _ _ _
  case vsortAsc | vsortDesc => cases h; exact consumes_vsort _ _ _ _ _ _
  all_goals cases h
  all_goals exact consumes_ok _

/-- What consuming a poisoned operand raises (R302). -/
theorem consume_some {c : GCtx} {os : List (Opnd × Nat)} {ls : List Nat} {t : Trap} (h : c.consume os ls = some t) :
    (∃ o i l, (c.img o l i).p = true) ∧ t.cause = 7 ∧ t.tvalh = 0 := by
  unfold GCtx.consume at h
  obtain ⟨o, _, ho⟩ := List.exists_of_findSome?_eq_some h
  obtain ⟨i, _, hi⟩ := List.exists_of_findSome?_eq_some ho
  obtain ⟨l, _, hl⟩ := List.exists_of_findSome?_eq_some hi
  split at hl
  · rename_i hp
    cases hl
    exact ⟨⟨o.1, i, l, hp⟩, rfl, rfl⟩
  · cases hl

/-- With no poisoned register no operand is poisoned. -/
theorem img_clean {c : GCtx} (hv : ∀ l n, (c.g.vImg l n).p = false) (hs : ∀ n, (c.g.sImg n).p = false) (o : Opnd)
    (l i : Nat) : (c.img o l i).p = false := by
  cases o with
  | v n => exact hv l _
  | s n => exact hs _
  | lane => unfold GCtx.img; dsimp only; split <;> rfl
  | lit => rfl
  | zero => rfl
  | none => rfl

-- The obligations.

/-- Settles O11: `regForm` names the computation, and a register form that raises nothing completes. -/
theorem registerFormsComplete : Obligations.RegisterFormsComplete := by
  intro i k rs b s gid g o hi h hb
  rw [exec_regForm hi h.lim]
  exact issueG_done i k rs b s gid g o h hb

/-- Settles O23: a register form fails only where it consumes a poisoned operand, and none is. -/
theorem cleanRegistersComplete : Obligations.CleanRegistersComplete := by
  intro i k rs b s gid g hi h hv hs
  obtain ⟨o, ho⟩ | ⟨os, ls, t, ht, -⟩ := consumes_regForm hi (GCtx.make g k)
  · obtain ⟨t, g', ht, hd⟩ := registerFormsComplete i k rs b s gid g o hi h ho
    exact ⟨o, t, g', ho, ht, hd⟩
  · obtain ⟨⟨o, i, l, hp⟩, -, -⟩ := consume_some ht
    rw [img_clean hv hs] at hp
    cases hp

/-- Settles O13: `complete_spec` for the lanes that issued; metering changes only counters of grids and dies. -/
theorem completionAdvances : Obligations.CompletionAdvances := by
  intro s s' gid g g1 k hg1 hlen hrun
  have hin : ∀ l, inMask g.runMask l = true → l < g1.lanes.length := fun l hl => hlen ▸ Group.run_lt g l hl
  obtain ⟨hfin, hpc, -, hff, hprog, hwait, hfix, -⟩ :=
    Group.complete_spec g1 g.runMask g.inH k (GCtx.make g k).lowSlot hin
  have hinH : (GCtx.make g k).g.inH = g.inH := by
    show g.seen.inH = g.inH
    unfold Group.seen
    cases g.held <;> rfl
  have hgr : (s'.issued s (GCtx.make g k).g).groups = s'.groups := State.issued_groups _ _ _
  unfold completed finish
  dsimp only
  rw [hinH]
  refine ⟨_, ?_, hfin, hwait, hprog, hff, (congrArg Group.toks hfix :), hpc, fun j hj => ?_, ?_⟩
  · rw [State.updGroup_groups, SMap.get?_upd_same, hgr, hg1]
    rfl
  · rw [State.updGroup_groups, SMap.get?_upd_other _ _ _ _ hj, hgr]
  · exact congrArg (fun (x : State) => { x with groups := s'.groups }) (State.issued_frame s' s (GCtx.make g k).g)

-- A sort that the schedule stops.

/-- A group of one lane, in which p0 is false, that awaits the statuses of 32 `tier` operations. -/
def owingGroup : Group :=
  { hostGroup 0 with
    lanes := [⟨.active, 0, 0, [], 1, 0, none, false, 0⟩], pend := (List.range 32).map (fun i => [RegW.o i 0]) }

/-- The schedule ends the issue of that group's next long instruction before its third step. -/
def limitedState : State := { State.reset with cur := some 0, lim := some 2, groups := [(0, owingGroup)] }

/-- Common fields of a form with guard p0. -/
def guardedByP0 : Com := ⟨false, false, false, 0, .two, 0, 0⟩

/-- A sort that executes in no lane of that group. -/
def idleSort : Instr := .vsortAsc guardedByP0 .u32 (.v 0) (.v 2) .none

/-- What the group waits for after an outcome. -/
def waitAfter (r : Res) : Option Wait :=
  match r with
  | .next t => (SMap.get? t.groups 0).map (fun g => g.wait)
  | _ => none

/-- Refutes O12: with 32 statuses owed, a sort of no lane that the schedule stops between two steps waits for its next step,
where the statement has it completed (the statement leaves the schedule's limit out). -/
theorem not_registerFormsTrapOrSkip : ¬ Obligations.RegisterFormsTrapOrSkip := by
  intro h
  obtain ⟨-, -, -, hfull⟩ := h idleSort guardedByP0 [(.v 0, 2), (.v 2, 1), (.none, 1)]
    (opVsort false .u32 (.v 0) (.v 2) .none 5) limitedState 0 owingGroup rfl rfl rfl
  have hexec := hfull (Out.of []) (by decide) (by decide) rfl (by decide)
  have hstops : waitAfter (exec idleSort limitedState) = some .step := rfl
  rw [hexec] at hstops
  exact absurd hstops (by decide)

end Sys2Proof.Proofs.RegisterForms
end

section
/-! PROOF. The schedule: whose turn it is, what a turn does, and what holds right after reset. -/

namespace Sys2Proof.Proofs.Steps
open Sys2Proof Sys2Proof.Machine

-- The core's choice (R410).

theorem choosable_ready {s : State} {e : Nat × Group} (h : s.choosable e = true) : s.ready e.2 = true := by
  unfold State.choosable at h
  simp only [Bool.and_eq_true] at h
  exact h.1.1

/-- Every group of a core's choice is one of the choosable groups of the core. -/
theorem mem_pickOn {s : State} {c k : Nat} (h : k ∈ s.pickOn c) :
    k ∈ ((s.groupsOn c).filter s.choosable).map (fun e => e.1) := by
  unfold State.pickOn at h
  dsimp only at h
  split at h
  · rename_i p hp
    obtain ⟨-, hc⟩ := Option.filter_eq_some_iff.mp hp
    rw [List.mem_singleton.mp h]
    exact List.contains_iff_mem.mp hc
  · have hk := List.mem_of_mem_take h
    simp only [List.mem_append, List.mem_filter] at hk
    exact hk.elim And.left And.left

theorem pickOn_ready {s : State} {c k : Nat} (h : k ∈ s.pickOn c) :
    ∃ g, (k, g) ∈ s.groups ∧ g.core = c ∧ s.ready g = true := by
  obtain ⟨⟨k', g⟩, he, rfl⟩ := List.mem_map.mp (mem_pickOn h)
  obtain ⟨hon, hch⟩ := List.mem_filter.mp he
  obtain ⟨hmem, hcore⟩ := List.mem_filter.mp hon
  exact ⟨g, hmem, by simpa using hcore, choosable_ready hch⟩

theorem pickOn_length (s : State) (c : Nat) : (s.pickOn c).length ≤ 2 := by
  unfold State.pickOn
  dsimp only
  split
  · simp
  · exact List.length_take_le _ _

-- A turn.

theorem takeTurn_shadow (s : State) (c gid d : Nat) : ((s.takeTurn c gid).core d).shadow = (s.core d).shadow := by
  unfold State.takeTurn
  dsimp only
  unfold State.core
  rw [State.updCore_cores]
  by_cases h : d = c
  · subst h
    rw [SMap.getD_put_same]
    split <;> rfl
  · rw [SMap.getD_put_other _ _ _ _ _ h]

theorem takeTurn_ready (s : State) (c gid : Nat) (g : Group) : (s.takeTurn c gid).ready g = s.ready g := by
  have hin : ∀ tid t, (s.takeTurn c gid).inShadow tid t = s.inShadow tid t := by
    intro tid t
    unfold State.inShadow
    rw [takeTurn_shadow]
  unfold State.ready
  simp only [hin]
  rfl

theorem takeTurn_groups (s : State) (c gid : Nat) : (s.takeTurn c gid).groups = s.groups := rfl

theorem issueTurn_notChosen {s : State} {gid : Nat} {g : Group} (hg : SMap.get? s.groups gid = some g)
    (h : gid ∉ s.pickOn g.core) : s.issueTurn gid = .next s := by
  unfold State.issueTurn
  simp [hg, h]

theorem issueTurn_chosen {s : State} {gid : Nat} {g : Group} (hg : SMap.get? s.groups gid = some g)
    (h : gid ∈ s.pickOn g.core) : s.issueTurn gid = (s.takeTurn g.core gid).issueGroup gid := by
  unfold State.issueTurn
  simp [hg, h]

/-- A ready group that has a trap to take takes it. -/
theorem issueGroup_raise {s : State} {gid : Nat} {g : Group} {c : Byte} {v : DWord} {h : Half}
    (hg : SMap.get? s.groups gid = some g) (hr : s.ready g = true) (hw : g.wait = .raise c v h) :
    s.issueGroup gid = .next (takeTrap s gid ⟨c, v, h⟩) := by
  unfold State.issueGroup
  simp [hg, hr, hw]

/-- A ready group with no trap to take executes what its words decode to. -/
theorem issueGroup_fetched {s s1 : State} {gid : Nat} {g : Group} {ws : List Word}
    (hg : SMap.get? s.groups gid = some g) (hr : s.ready g = true) (hw : ∀ c v h, g.wait ≠ .raise c v h)
    (hf : s.fetch g gid g.runPc = (s1, .ok ws)) :
    s.issueGroup gid = (match exec (decodeWords ws) { s1 with cur := some gid } with
      | .next t => .next { t with cur := none }
      | .fault e => .fault e
      | .refused r => .refused r) := by
  unfold State.issueGroup
  simp only [hg, hr, Bool.not_true, Bool.false_eq_true, if_false]
  cases hwait : g.wait
  case raise c v h => exact absurd hwait (hw c v h)
  all_goals rw [hf] <;> rfl

-- A step.

theorem step_move {s : State} {m : Move} {rest : List Move} (hp : s.mod.power = true) (ha : s.agenda = m :: rest) :
    step s = ({ s with clk := s.clk + 1, agenda := rest } : State).move m := by
  unfold step State.mayMove
  simp [hp, ha]

theorem step_idle {s : State} (hp : s.mod.power = true) (ha : s.agenda = []) :
    step s = ({ s with clk := s.clk + 1 } : State).idleStep := by
  unfold step State.mayMove
  simp only [hp, Bool.true_or, Bool.not_true, Bool.false_eq_true, if_false]
  split
  · rename_i m rest hm
    rw [ha] at hm
    cases hm
  · rfl

/-- Settles O5: the step of an issue is the group's turn. -/
theorem stepRunsDecoded : Obligations.StepRunsDecoded := by
  intro s gid g rest hp ha hg s0 turn
  have hstep : step s = s0.issueTurn gid := step_move hp ha
  have hg0 : SMap.get? s0.groups gid = some g := hg
  have hgt : SMap.get? turn.groups gid = some g := hg
  refine ⟨fun hno => ?_, fun s1 ws hin hr hw hf => ?_, fun c v h hin hr hw => ?_, fun c => ?_⟩
  · rw [hstep, issueTurn_notChosen hg0 hno]
  · rw [hstep, issueTurn_chosen hg0 hin]
    exact issueGroup_fetched hgt ((takeTurn_ready s0 g.core gid g).trans hr) hw hf
  · rw [hstep, issueTurn_chosen hg0 hin]
    exact issueGroup_raise hgt ((takeTurn_ready s0 g.core gid g).trans hr) hw
  · exact ⟨pickOn_length s0 c, fun k hk => pickOn_ready hk⟩

/-- No instruction stops the machine: each is issued, or is an event, which has a next state. -/
theorem exec_next (i : Instr) (s : State) : ∃ t, exec i s = .next t := by
  cases i
  case nop k | trap k | brkp k => exact issue_next _ k [] (fun _ _ s => _) s
  any_goals exact ⟨_, rfl⟩
  all_goals exact issue_next _ _ _ _ _

theorem issueNext_none {s : State} (h : s.pick = none) : s.issueNext = none := by
  unfold State.issueNext
  rw [h]
  rfl

theorem idleStep_nothing {s s1 : State} (hs : s1 = if s.clk % 4096 = 0 then s.chargeAll else s) (he : s1.autoEvent = none)
    (hp : s1.pick = none) : s.idleStep = .next s1 := by
  unfold State.idleStep
  dsimp only
  simp only [beq_iff_eq, ← hs, he, issueNext_none hp]
  split <;> rfl

/-- Settles O7. -/
theorem stepTakesEvent : Obligations.StepTakesEvent := by
  intro s
  refine ⟨fun i rest hp ha => step_move hp ha, fun hp ha he hpick => ?_, fun hp ha => ?_, fun rest hp ha => ?_,
    fun i => exec_next i s⟩
  · rw [step_idle hp ha]
    exact idleStep_nothing rfl he hpick
  · unfold step State.mayMove
    simp [hp, ha]
  · unfold step State.mayMove
    simp [hp, ha]
    rfl

/-- Settles O8: each value is read off the state right after reset. -/
theorem resetValues : Obligations.ResetValues := by
  refine ⟨rfl, rfl, rfl, rfl, rfl, rfl, rfl, rfl, rfl, rfl, fun v => ⟨rfl, rfl, rfl, rfl⟩, fun k => ⟨rfl, rfl⟩,
    fun c => rfl, fun d => rfl, rfl, rfl, rfl⟩

/-- Settles O9: memory and flash are empty right after reset. -/
theorem resetHasMemoryForm : Obligations.ResetHasMemoryForm := ⟨Memory.wf_reset, rfl⟩

end Sys2Proof.Proofs.Steps
end

section
/-! PROOFS (O10): rules for the canonical form of memory: updates of other fields, conditionals and folds. -/

namespace Sys2Proof.Proofs.MemoryForm
open Sys2Proof Sys2Proof.Machine

theorem update_form {s : State} (h : s.MemoryForm) (clk agenda cur lim turn nid draws groups teams canvases cores
    clusters dies hbms poison keyOf aops tops dones grids ctxs vds aqis devQ mod) :
    State.MemoryForm ⟨clk, agenda, cur, lim, turn, nid, draws, groups, teams, canvases, cores, clusters, dies, hbms,
        s.mem,
      poison, keyOf, s.flash, aops, tops, dones, grids, ctxs, vds, aqis, devQ, mod⟩ := h

theorem ite_form {p : Prop} {_ : Decidable p} {a b : State} (ha : a.MemoryForm) (hb : b.MemoryForm) :
    (if p then a else b).MemoryForm := by
  split <;> assumption

theorem fst_ite_form {α : Type} {p : Prop} {_ : Decidable p} {a b : State × α} (ha : a.1.MemoryForm)
    (hb : b.1.MemoryForm) : (if p then a else b).1.MemoryForm := by
  split <;> assumption

theorem state_ite_form {p : Prop} {_ : Decidable p} {a b : Act} (ha : a.state.MemoryForm)
    (hb : b.state.MemoryForm) : (if p then a else b).state.MemoryForm := by
  split <;> assumption

theorem foldl_form {α : Type} {f : State → α → State} {s : State} (h : s.MemoryForm)
    (hf : ∀ s x, s.MemoryForm → (f s x).MemoryForm) (xs : List α) : (xs.foldl f s).MemoryForm := by
  induction xs generalizing s with
  | nil => exact h
  | cons x xs ih => exact ih (hf s x h)

theorem fst_foldl_form {α β : Type} {f : State × β → α → State × β} {p : State × β} (h : p.1.MemoryForm)
    (hf : ∀ p x, p.1.MemoryForm → (f p x).1.MemoryForm) (xs : List α) : (xs.foldl f p).1.MemoryForm := by
  induction xs generalizing p with
  | nil => exact h
  | cons x xs ih => exact ih (hf p x h)

theorem form_of_pair {α : Type} {p : State × α} {s : State} {a : α} (h : p.1.MemoryForm) (e : p = (s, a)) :
    s.MemoryForm := by
  subst e
  exact h

end Sys2Proof.Proofs.MemoryForm
end

section
/-! PROOFS (O10): writes of memory, caches and updates on their way keep the canonical form. -/

namespace Sys2Proof.Proofs.MemoryForm

-- Theorem by theorem: the many that are elaborated at once would each take a thread.
set_option Elab.async false
open Sys2Proof Sys2Proof.Machine

theorem State.setDie_form {s : State} (h : s.MemoryForm) (d x) : (s.setDie d x).MemoryForm := h

theorem State.updDie_form {s : State} (h : s.MemoryForm) (d f) : (s.updDie d f).MemoryForm := h

theorem State.setCore_form {s : State} (h : s.MemoryForm) (c x) : (s.setCore c x).MemoryForm := h

theorem State.updCore_form {s : State} (h : s.MemoryForm) (c f) : (s.updCore c f).MemoryForm := h

theorem State.setCluster_form {s : State} (h : s.MemoryForm) (c x) : (s.setCluster c x).MemoryForm := h

theorem State.updCluster_form {s : State} (h : s.MemoryForm) (c f) : (s.updCluster c f).MemoryForm := h

theorem State.setStack_form {s : State} (h : s.MemoryForm) (k x) : (s.setStack k x).MemoryForm := h

theorem State.updStack_form {s : State} (h : s.MemoryForm) (k f) : (s.updStack k f).MemoryForm := h

theorem State.setVd_form {s : State} (h : s.MemoryForm) (v x) : (s.setVd v x).MemoryForm := h

theorem State.updVd_form {s : State} (h : s.MemoryForm) (v f) : (s.updVd v f).MemoryForm := h

theorem State.setGroup_form {s : State} (h : s.MemoryForm) (i g) : (s.setGroup i g).MemoryForm := h

theorem State.updGroup_form {s : State} (h : s.MemoryForm) (i f) : (s.updGroup i f).MemoryForm := h

theorem State.updTeam_form {s : State} (h : s.MemoryForm) (i f) : (s.updTeam i f).MemoryForm := h

theorem State.updGrid_form {s : State} (h : s.MemoryForm) (i f) : (s.updGrid i f).MemoryForm := h

theorem State.updCtx_form {s : State} (h : s.MemoryForm) (i f) : (s.updCtx i f).MemoryForm := h

theorem State.updMod_form {s : State} (h : s.MemoryForm) (f) : (s.updMod f).MemoryForm := h

theorem State.updTop_form {s : State} (h : s.MemoryForm) (i f) : (s.updTop i f).MemoryForm := h

theorem State.fresh_form {s : State} (h : s.MemoryForm) : (s.fresh).MemoryForm := h

theorem State.draw_form {s : State} (h : s.MemoryForm) : (s.draw).MemoryForm := h

theorem State.emit_form {s : State} (h : s.MemoryForm) (o) : (s.emit o).MemoryForm := h

theorem State.meter_form {s : State} (h : s.MemoryForm) (d v f) : (s.meter d v f).MemoryForm := h

theorem State.count_form {s : State} (h : s.MemoryForm) (d c f) : (s.count d c f).MemoryForm := h

theorem State.stall_form {s : State} (h : s.MemoryForm) (d c cause timed) : (s.stall d c cause timed).MemoryForm := h

theorem State.cxlRead_form {s : State} (h : s.MemoryForm) (d c) : (s.cxlRead d c).MemoryForm := by
  unfold State.cxlRead
  grind [State.stall_form, State.draw_form]

theorem State.lostHit_form {s : State} (h : s.MemoryForm) (d c) : (s.lostHit d c).MemoryForm := h

theorem State.charge_form {s1 : State} (h : s1.MemoryForm) (s0 : State) (team v) :
    (s0.charge s1 team v).MemoryForm := by
  unfold State.charge
  grind [State.updGrid_form]

theorem State.freeBytes_form {s : State} (h : s.MemoryForm) (n) : (s.freeBytes n).1.MemoryForm := h

theorem State.homeRead_form {s : State} (h : s.MemoryForm) (a n key) : (s.homeRead a n key).1.MemoryForm := by
  unfold State.homeRead
  grind [State.draw_form]

theorem State.rekey_form {s : State} (h : s.MemoryForm) (key u) : (s.rekey key u).MemoryForm := by
  refine ⟨State.rekey_wf s key u h.1, ?_⟩
  unfold State.rekey
  split <;> exact h.2

theorem State.homeWrite_form {s : State} (h : s.MemoryForm) (a bs key) : (s.homeWrite a bs key).MemoryForm :=
  ⟨State.homeWrite_wf s a bs key h.1, (foldl_form h (fun _ u hs => State.rekey_form hs key u) (unitsOf a
      bs.length)).2⟩

theorem State.homeBytes_form {s : State} (h : s.MemoryForm) (bs clr key) :
    (s.homeBytes bs clr key).MemoryForm :=
  ⟨State.homeBytes_wf s bs clr key h.1,
    (foldl_form h (fun _ u hs => State.rekey_form hs key u) (bs.map (fun b : Nat × Byte => b.1 / 32)).eraseDups).2⟩

theorem State.poisonUnits_form {s : State} (h : s.MemoryForm) (us) : (s.poisonUnits us).MemoryForm := h

theorem State.readCyc_form {s : State} (h : s.MemoryForm) (d) : (s.readCyc d).1.MemoryForm := h

theorem State.tlbFill_form {s : State} (h : s.MemoryForm) (core e) : (s.tlbFill core e).MemoryForm := h

theorem State.tlbDrop_form {s : State} (h : s.MemoryForm) (f) : (s.tlbDrop f).MemoryForm := h

theorem State.portReq_form {s : State} (h : s.MemoryForm) (kind pa mask q ctx) :
    (s.portReq kind pa mask q ctx).MemoryForm := by
  unfold State.portReq
  grind [State.setStack_form, State.meter_form]

theorem State.portSend_form {s : State} (h : s.MemoryForm) (kind pa mask ctx) :
    (s.portSend kind pa mask ctx).MemoryForm := by
  unfold State.portSend
  grind [State.portReq_form]

theorem State.mscOut_form {s : State} (h : s.MemoryForm) (d l) : (s.mscOut d l).MemoryForm := by
  unfold State.mscOut
  grind [State.portSend_form, State.poisonUnits_form]

theorem State.mscEvict_form {s : State} (h : s.MemoryForm) (d k) : (s.mscEvict d k).MemoryForm := by
  unfold State.mscEvict
  grind [State.mscOut_form, State.updDie_form]

theorem State.mscReq_form {s : State} (h : s.MemoryForm) (pa mask kind a) : (s.mscReq pa mask kind a).MemoryForm := by
  unfold State.mscReq
  grind [State.portSend_form, State.updDie_form, State.stall_form, State.mscEvict_form, State.setDie_form]

theorem State.l2Wb_form {s : State} (h : s.MemoryForm) (pa drop) : (s.l2Wb pa drop).MemoryForm := by
  unfold State.l2Wb
  grind [State.poisonUnits_form, State.mscReq_form, State.updDie_form]

theorem State.guestDrop_form {s : State} (h : s.MemoryForm) (d line) : (s.guestDrop d line).MemoryForm := h

theorem State.cxlMeter_form {s : State} (h : s.MemoryForm) (d ctx n) : (s.cxlMeter d ctx n).MemoryForm := h

theorem State.farWb_form {s : State} (h : s.MemoryForm) (d line drop) : (s.farWb d line drop).MemoryForm := by
  unfold State.farWb
  grind [State.poisonUnits_form, State.homeBytes_form, State.cxlMeter_form, State.updDie_form]

theorem State.guestsOut_form {s : State} (h : s.MemoryForm) (d line) : (s.guestsOut d line).MemoryForm := by
  unfold State.guestsOut
  grind [foldl_form, State.guestDrop_form, State.updDie_form, fst_foldl_form]

theorem State.l2Room_form {s : State} (h : s.MemoryForm) (dN line) : (s.l2Room dN line).MemoryForm := by
  unfold State.l2Room
  grind [State.l2Wb_form, State.guestsOut_form, State.draw_form, State.guestDrop_form, State.farWb_form]

theorem State.l2Use_form {s : State} (h : s.MemoryForm) (line need wr at' a) :
    (s.l2Use line need wr at' a).MemoryForm := by
  unfold State.l2Use
  grind [State.l2Room_form, State.mscReq_form, State.updDie_form]

theorem State.stamp_form {s : State} (h : s.MemoryForm) (d) : (s.stamp d).MemoryForm := h

end Sys2Proof.Proofs.MemoryForm
end

section
/-! PROOFS (O10): translation, the far lines and the accesses of the device keep the canonical form. -/

namespace Sys2Proof.Proofs.MemoryForm

-- Theorem by theorem: the many that are elaborated at once would each take a thread.
set_option Elab.async false
open Sys2Proof Sys2Proof.Machine

theorem State.sendUpd_form {s : State} (h : s.MemoryForm) (d p) : (s.sendUpd d p).MemoryForm := h

theorem State.fanOut_form {s : State} (h : s.MemoryForm) (home skip p) : (s.fanOut home skip p).MemoryForm := by
  unfold State.fanOut
  grind [foldl_form, State.sendUpd_form, fst_foldl_form]

theorem State.homeApply_form {s : State} (h : s.MemoryForm) (bs m key at' a) :
    (s.homeApply bs m key at' a).MemoryForm := by
  unfold State.homeApply
  grind [State.homeBytes_form, State.l2Use_form, State.updDie_form, State.poisonUnits_form]

theorem State.askHost_form {s : State} (h : s.MemoryForm) (ls) : (s.askHost ls).MemoryForm := by
  unfold State.askHost
  grind [foldl_form, State.updMod_form, State.emit_form, fst_foldl_form]

theorem State.homeHold_form {s : State} (h : s.MemoryForm) (home line bs m key a) :
    (s.homeHold home line bs m key a).MemoryForm := by
  unfold State.homeHold
  grind [State.stamp_form, State.askHost_form, State.sendUpd_form]

theorem State.homeStore_form {s : State} (h : s.MemoryForm) (home bs m key a) :
    (s.homeStore home bs m key a).MemoryForm := by
  unfold State.homeStore
  grind [State.homeHold_form, State.homeApply_form, State.stamp_form, State.fanOut_form]

theorem State.guestApply_form {s : State} (h : s.MemoryForm) (d p) : (s.guestApply d p).MemoryForm := by
  unfold State.guestApply
  grind [State.updDie_form]

theorem State.applyUpd_form {s : State} (h : s.MemoryForm) (d idx) : (s.applyUpd d idx).MemoryForm := by
  unfold State.applyUpd
  grind [State.updDie_form, State.fanOut_form, State.homeApply_form, State.guestApply_form]

theorem State.pump_form (sel : Nat → UpdPkt → Bool) (n : Nat) {s : State} (h : s.MemoryForm) :
    (State.pump sel n s).MemoryForm := by
  induction n generalizing s with
  | zero => exact h
  | succ n ih =>
    unfold State.pump
    split
    · exact ih (State.applyUpd_form h _ _)
    · exact h

theorem State.join_form {s : State} (h : s.MemoryForm) (d line c) : (s.join d line c).MemoryForm := by
  unfold State.join
  grind [State.pump_form, State.updDie_form]

theorem State.meet_form {s : State} (h : s.MemoryForm) (d h line) : (s.meet d h line).MemoryForm := by
  unfold State.meet
  grind [State.join_form]

theorem State.spread_form {s : State} (h : s.MemoryForm) (d) : (s.spread d).MemoryForm := by
  unfold State.spread
  grind [State.pump_form]

theorem State.joinAll_form {s : State} (h : s.MemoryForm) (d) : (s.joinAll d).MemoryForm := by
  unfold State.joinAll
  grind [State.join_form]

theorem State.settleUpd_form {s : State} (h : s.MemoryForm) : (s.settleUpd).MemoryForm := by
  unfold State.settleUpd
  grind [State.pump_form]

theorem State.devStore_form {s : State} (h : s.MemoryForm) (home bs m key a) :
    (s.devStore home bs m key a).MemoryForm := by
  unfold State.devStore
  grind [State.homeStore_form, State.mscReq_form, State.poisonUnits_form, State.homeBytes_form]

theorem State.devWrite_form {s : State} (h : s.MemoryForm) (pa bs key ctx cls) :
    (s.devWrite pa bs key ctx cls).MemoryForm := by
  unfold State.devWrite
  grind [foldl_form, State.devStore_form, State.homeWrite_form, fst_foldl_form]

theorem State.relNew_form {s : State} (h : s.MemoryForm) (r) : (s.relNew r).MemoryForm := by
  unfold State.relNew
  grind [State.updDie_form, State.updMod_form, State.devWrite_form]

theorem State.relWrite_form {s : State} (h : s.MemoryForm) (r) : (s.relWrite r).MemoryForm := by
  unfold State.relWrite
  grind [State.updDie_form, State.devWrite_form, State.relNew_form]

theorem State.relRec_form {s : State} (h : s.MemoryForm) (src sev d unit ctx loc) :
    (s.relRec src sev d unit ctx loc).MemoryForm := by
  unfold State.relRec
  grind [State.readCyc_form, State.relWrite_form]

theorem State.sysWriteAs_form {s : State} (h : s.MemoryForm) (pa bs key ctx cls) :
    (s.sysWriteAs pa bs key ctx cls).MemoryForm := by
  unfold State.sysWriteAs
  grind [State.relRec_form, State.devWrite_form]

theorem State.sysWrite_form {s : State} (h : s.MemoryForm) (pa bs key) : (s.sysWrite pa bs key).MemoryForm := by
  unfold State.sysWrite
  grind [State.sysWriteAs_form]

theorem State.copyOf_form {s : State} (h : s.MemoryForm) (line key) : (s.copyOf line key).1.MemoryForm := by
  unfold State.copyOf
  grind [State.homeRead_form]

theorem State.guestLine_form {s : State} (h : s.MemoryForm) (d home pa key a) :
    (s.guestLine d home pa key a).1.MemoryForm := by
  unfold State.guestLine
  grind [State.join_form, State.copyOf_form, State.updDie_form, State.l2Use_form, State.l2Room_form]

theorem State.farLine_form {s : State} (h : s.MemoryForm) (pa key a) : (s.farLine pa key a).1.MemoryForm := by
  unfold State.farLine
  grind [State.copyOf_form, State.l2Room_form, State.cxlRead_form, State.cxlMeter_form, State.updDie_form]

theorem State.holeRead_form {s : State} (h : s.MemoryForm) (a pa n) : (s.holeRead a pa n).1.MemoryForm := by
  unfold State.holeRead
  grind [State.freeBytes_form, State.relRec_form]

theorem State.holeWrite_form {s : State} (h : s.MemoryForm) (a pa) : (s.holeWrite a pa).MemoryForm := by
  unfold State.holeWrite
  grind [State.relRec_form]

theorem State.l2Get_form {s : State} (h : s.MemoryForm) (a sys pa n key) : (s.l2Get a sys pa n key).1.MemoryForm := by
  unfold State.l2Get
  grind [State.holeRead_form, State.homeRead_form, State.l2Use_form, State.guestLine_form, State.cxlRead_form,
    State.cxlMeter_form, State.farWb_form, State.farLine_form]

theorem State.l2Read_form {s : State} (h : s.MemoryForm) (a sys pa n key) : (s.l2Read a sys pa n key).1.MemoryForm :=
    by
  unfold State.l2Read
  grind [State.l2Get_form]

theorem State.l2Write_form {s : State} (h : s.MemoryForm) (a sys bs m key) : (s.l2Write a sys bs m key).MemoryForm :=
    by
  unfold State.l2Write
  grind [State.holeWrite_form, State.homeStore_form, State.guestLine_form, State.stamp_form, State.updDie_form,
    State.sendUpd_form, State.farWb_form, State.lostHit_form, State.poisonUnits_form, State.homeBytes_form,
    State.cxlMeter_form, State.farLine_form]

theorem State.l1Send_form {s : State} (h : s.MemoryForm) (a c line mask) : (s.l1Send a c line mask).MemoryForm := by
  unfold State.l1Send
  grind [State.updCore_form, State.l2Write_form]

theorem State.l1Out_form {s : State} (h : s.MemoryForm) (a c line) : (s.l1Out a c line).MemoryForm := by
  unfold State.l1Out
  grind [State.updCore_form, State.l1Send_form]

theorem State.l1Room_form {s : State} (h : s.MemoryForm) (a c) : (s.l1Room a c).MemoryForm := by
  unfold State.l1Room
  grind [State.l1Out_form, State.draw_form]

theorem State.l1Line_form {s : State} (h : s.MemoryForm) (a c line key first) :
    (s.l1Line a c line key first).MemoryForm := by
  unfold State.l1Line
  grind [State.l1Out_form, State.updCore_form, State.l1Room_form]

theorem State.l1Fill_form {s : State} (h : s.MemoryForm) (a c g first) : (s.l1Fill a c g first).MemoryForm := by
  unfold State.l1Fill
  grind [State.l2Get_form, State.updCore_form]

theorem State.readPast_form {s : State} (h : s.MemoryForm) (a c g) : (s.readPast a c g).1.MemoryForm := by
  unfold State.readPast
  grind [State.l2Get_form]

theorem State.msSend_form {s : State} (h : s.MemoryForm) (kind pa n q a) : (s.msSend kind pa n q a).MemoryForm := by
  unfold State.msSend
  grind [State.portReq_form, State.cxlMeter_form]

theorem State.meetAt_form {s : State} (h : s.MemoryForm) (d pa) : (s.meetAt d pa).MemoryForm := by
  unfold State.meetAt
  grind [State.meet_form]

theorem State.spoilLine_form {s : State} (h : s.MemoryForm) (line) : (s.spoilLine line).MemoryForm := h

theorem State.msPut_form {s : State} (h : s.MemoryForm) (pa bs) : (s.msPut pa bs).MemoryForm := by
  unfold State.msPut
  grind [State.freeBytes_form, State.spoilLine_form, State.homeWrite_form]

theorem State.msGet_form {s : State} (h : s.MemoryForm) (pa n) : (s.msGet pa n).1.MemoryForm := by
  unfold State.msGet
  grind [State.freeBytes_form, State.homeRead_form]

theorem State.msRead_form {s : State} (h : s.MemoryForm) (pa n a) : (s.msRead pa n a).1.MemoryForm := by
  unfold State.msRead
  grind [State.holeRead_form, State.msGet_form, State.msSend_form, State.meetAt_form]

theorem State.msWrite_form {s : State} (h : s.MemoryForm) (pa bs a) : (s.msWrite pa bs a).MemoryForm := by
  unfold State.msWrite
  grind [State.holeWrite_form, State.lostHit_form, State.msSend_form, State.msPut_form, State.meetAt_form]

theorem State.ringBell_form {s : State} (h : s.MemoryForm) (k) : (s.ringBell k).MemoryForm := by
  unfold State.ringBell
  grind [State.updMod_form]

theorem State.taskWrite_form {s : State} (h : s.MemoryForm) (k o bs) : (s.taskWrite k o bs).MemoryForm := by
  unfold State.taskWrite
  grind [State.updMod_form, foldl_form, State.ringBell_form, fst_foldl_form]

theorem State.readCell_form {s : State} (h : s.MemoryForm) (a sc pol g) : (s.readCell a sc pol g).1.MemoryForm := by
  unfold State.readCell
  grind [State.holeRead_form, State.msRead_form, State.l2Read_form, State.readPast_form, State.l1Fill_form,
    State.l1Line_form, State.l1Send_form]

theorem State.writeCell_form {s : State} (h : s.MemoryForm) (a sc pol g bs) :
    (s.writeCell a sc pol g bs).MemoryForm := by
  unfold State.writeCell
  grind [State.taskWrite_form, State.msWrite_form, State.l2Write_form, State.updCore_form, State.l1Line_form,
    State.l1Send_form]

theorem State.tsWrite_form {s : State} (h : s.MemoryForm) (core a bs p) : (s.tsWrite core a bs p).MemoryForm := h

theorem State.readSeg_form {s : State} (h : s.MemoryForm) (a sc pol g) : (s.readSeg a sc pol g).1.MemoryForm := by
  unfold State.readSeg
  grind [foldl_form, State.readCell_form, fst_foldl_form]

theorem State.writeSeg_form {s : State} (h : s.MemoryForm) (a sc pol g bs) : (s.writeSeg a sc pol g bs).MemoryForm :=
    by
  unfold State.writeSeg
  grind [State.tsWrite_form, foldl_form, State.writeCell_form, fst_foldl_form]

theorem State.readSegs_form {s : State} (h : s.MemoryForm) (a sc pol gs) : (s.readSegs a sc pol gs).1.MemoryForm := by
  unfold State.readSegs
  grind [foldl_form, State.readSeg_form, fst_foldl_form]

theorem State.writeSegs_form {s : State} (h : s.MemoryForm) (a sc pol gs bs) :
    (s.writeSegs a sc pol gs bs).MemoryForm := by
  unfold State.writeSegs
  grind [foldl_form, State.writeSeg_form, fst_foldl_form]

theorem State.poisonSegs_form {s : State} (h : s.MemoryForm) (a gs) : (s.poisonSegs a gs).MemoryForm := by
  refine foldl_form h (fun s g hs => ?_) gs
  split
  · exact hs
  · exact hs

theorem State.l1Flush_form {s : State} (h : s.MemoryForm) (a c sel) : (s.l1Flush a c sel).MemoryForm := by
  unfold State.l1Flush
  grind [foldl_form, State.l1Send_form, fst_foldl_form]

theorem State.l1Clean_form {s : State} (h : s.MemoryForm) (c) : (s.l1Clean c).MemoryForm := h

theorem State.fenceCaches_form {s : State} (h : s.MemoryForm) (a sc rel acq push) :
    (s.fenceCaches a sc rel acq push).MemoryForm := by
  unfold State.fenceCaches
  grind [foldl_form, State.l1Flush_form, State.l1Clean_form, State.spread_form, State.l1Out_form, State.farWb_form,
    fst_foldl_form]

theorem State.vector_form {s : State} (h : s.MemoryForm) (v vec) : (s.vector v vec).1.MemoryForm := by
  unfold State.vector
  grind [State.setVd_form, State.emit_form]

theorem State.awaitTier_form {s : State} (h : s.MemoryForm) (v n) : (s.awaitTier v n).MemoryForm := by
  unfold State.awaitTier
  grind [State.updVd_form]

theorem State.tierSeen_form {s : State} (h : s.MemoryForm) (v who) : (s.tierSeen v who).MemoryForm := h

theorem State.devFail_form {s : State} (h : s.MemoryForm) (die ctx who t) : (s.devFail die ctx who t).MemoryForm := by
  unfold State.devFail
  grind [State.lostHit_form, State.tierSeen_form]

theorem State.devGet_form {s : State} (h : s.MemoryForm) (a who g) : (s.devGet a who g).1.MemoryForm := by
  unfold State.devGet
  grind [State.freeBytes_form, State.relRec_form, foldl_form, State.msRead_form, State.cxlRead_form,
    State.cxlMeter_form, State.homeRead_form, fst_foldl_form]

theorem State.devSet_form {s : State} (h : s.MemoryForm) (a who g bs) : (s.devSet a who g bs).MemoryForm := by
  unfold State.devSet
  grind [State.relRec_form, foldl_form, State.msWrite_form, State.cxlMeter_form, State.devWrite_form, fst_foldl_form]

theorem State.devGets_form {s : State} (h : s.MemoryForm) (a who gs) : (s.devGets a who gs).1.MemoryForm := by
  unfold State.devGets
  grind [foldl_form, State.devGet_form, fst_foldl_form]

theorem State.devSets_form {s : State} (h : s.MemoryForm) (a who gs bs) : (s.devSets a who gs bs).MemoryForm := by
  unfold State.devSets
  grind [foldl_form, State.devSet_form, fst_foldl_form]

/-- What a read of the device comes to keeps the form. -/
def DevRd.Form : DevRd → Prop
  | .ok s _ _ | .bad s _ => s.MemoryForm
  | .tier _ => True

theorem DevRd.after_form {s : State} {r : DevRd} (h : s.MemoryForm) (hr : DevRd.Form r) : (DevRd.after s
    r).MemoryForm := by
  cases r <;> assumption

/-- What a write of the device comes to keeps the form. -/
def DevWr.Form : DevWr → Prop
  | .ok s | .bad s _ => s.MemoryForm
  | .tier _ => True

theorem State.ctxRead_form {s : State} (h : s.MemoryForm) (die ctx who ap off n piece) :
    DevRd.Form (s.ctxRead die ctx who ap off n piece) := by
  unfold State.ctxRead
  grind [DevRd.Form, fst_foldl_form, State.devGets_form, State.devFail_form]

theorem State.ctxWrite_form {s : State} (h : s.MemoryForm) (die ctx cls ap off bs) :
    DevWr.Form (s.ctxWrite die ctx cls ap off bs) := by
  unfold State.ctxWrite
  grind [DevWr.Form, State.devSets_form, State.devFail_form]

theorem State.ipaPut_form {s : State} (h : s.MemoryForm) (v ipa bs) : (s.ipaPut v ipa bs).MemoryForm := by
  unfold State.ipaPut
  grind [State.devSets_form, State.tierSeen_form]

theorem State.raiseVec_form {s : State} (h : s.MemoryForm) (v vec) : (s.raiseVec v vec).MemoryForm := by
  unfold State.raiseVec
  grind [State.vector_form, update_form]

theorem State.postNow_form {s : State} (h : s.MemoryForm) (v bs) : (s.postNow v bs).1.MemoryForm := by
  unfold State.postNow
  grind [State.setVd_form, State.awaitTier_form, State.updVd_form, State.ipaPut_form, State.raiseVec_form]

theorem State.devDo_form {s : State} (h : s.MemoryForm) (x0) : (s.devDo x0).1.MemoryForm := by
  unfold State.devDo
  grind [State.postNow_form, State.raiseVec_form, State.awaitTier_form, State.ipaPut_form, State.ctxWrite_form,
    DevWr.Form]

theorem devLoop_form (as : List DevAct) (kept : List DevAct) {s : State} (h : s.MemoryForm) :
    (devLoop as kept s).MemoryForm := by
  induction as generalizing kept s with
  | nil => exact h
  | cons a as ih =>
    unfold devLoop
    split
    · exact ih _ h
    · exact ih _ (State.devDo_form h a)

theorem State.devDrain_form {s : State} (h : s.MemoryForm) : (s.devDrain).MemoryForm := by
  unfold State.devDrain
  grind [devLoop_form, update_form]

theorem State.devPut_form {s : State} (h : s.MemoryForm) (a) : (s.devPut a).MemoryForm := by
  unfold State.devPut
  grind [State.devDrain_form, update_form]

theorem State.ipaWrite_form {s : State} (h : s.MemoryForm) (v ipa bs) : (s.ipaWrite v ipa bs).MemoryForm := by
  unfold State.ipaWrite
  grind [State.devPut_form]

theorem State.interrupt_form {s : State} (h : s.MemoryForm) (v vec) : (s.interrupt v vec).MemoryForm := by
  unfold State.interrupt
  grind [State.devPut_form]

theorem State.fqPost_form {s : State} (h : s.MemoryForm) (v bs) : (s.fqPost v bs).MemoryForm := by
  unfold State.fqPost
  grind [State.devPut_form]

theorem State.ctxReport_form {s : State} (h : s.MemoryForm) (die ctx ap off bs) :
    (s.ctxReport die ctx ap off bs).MemoryForm := by
  unfold State.ctxReport
  grind [State.devPut_form]

end Sys2Proof.Proofs.MemoryForm
end

section
/-! PROOFS (O10): the easel, team stores and canvases keep the canonical form. -/

namespace Sys2Proof.Proofs.MemoryForm
open Sys2Proof Sys2Proof.Machine

theorem State.tokDone_form {s : State} (h : s.MemoryForm) (op status) : (s.tokDone op status).MemoryForm := h

theorem State.opEnd_form {s : State} (h : s.MemoryForm) (id o status) : (s.opEnd id o status).MemoryForm := by
  unfold State.opEnd
  grind [State.tokDone_form, update_form]

theorem State.evPost_form {s : State} (h : s.MemoryForm) (cl r) : (s.evPost cl r).MemoryForm := h

theorem State.newOp_form {s : State} (h : s.MemoryForm) (gid g tok kind part) :
    (s.newOp gid g tok kind part).MemoryForm := h

theorem State.copyWord_form {s : State} (h : s.MemoryForm) (a src dst) : (s.copyWord a src dst).MemoryForm := by
  unfold State.copyWord
  grind [State.readSeg_form, State.writeSeg_form, State.poisonSegs_form]

theorem State.scramble_form {s : State} (h : s.MemoryForm) (a gs) : (s.scramble a gs).MemoryForm := by
  unfold State.scramble
  grind [foldl_form, State.freeBytes_form, State.writeSeg_form, fst_foldl_form]

theorem State.doCopy_form {s : State} (h : s.MemoryForm) (a rows lost) : (s.doCopy a rows lost).MemoryForm := by
  unfold State.doCopy
  grind [State.scramble_form, foldl_form, State.copyWord_form, fst_foldl_form]

theorem State.mredRead_form {s : State} (h : s.MemoryForm) (a ty k pa) : (s.mredRead a ty k pa).1.MemoryForm := by
  unfold State.mredRead
  grind [State.meetAt_form, State.holeRead_form, State.msGet_form, State.msSend_form, State.cxlRead_form,
    State.cxlMeter_form]

theorem State.mredRows_form {s : State} (h : s.MemoryForm) (a ty k rows acc) :
    (s.mredRows a ty k rows acc).1.MemoryForm := by
  unfold State.mredRows
  grind [foldl_form, State.mredRead_form, fst_foldl_form]

theorem State.mredReq_form {s : State} (h : s.MemoryForm) (a ty ret dst j rows) :
    (s.mredReq a ty ret dst j rows).MemoryForm := by
  unfold State.mredReq
  grind [State.msSend_form]

theorem State.mredLineDo_form {s : State} (h : s.MemoryForm) (a ty dst rows) :
    (s.mredLineDo a ty dst rows).MemoryForm := by
  unfold State.mredLineDo
  grind [State.mredReq_form, State.meetAt_form, State.mredRead_form, State.mredRows_form, State.holeWrite_form,
    State.msPut_form, State.poisonUnits_form]

theorem State.mredRetDo_form {s : State} (h : s.MemoryForm) (a ty dst j rows first) :
    (s.mredRetDo a ty dst j rows first).MemoryForm := by
  unfold State.mredRetDo
  grind [State.mredReq_form, State.mredRows_form, State.tsWrite_form]

theorem State.doMred_form {s : State} (h : s.MemoryForm) (o j) : (s.doMred o j).1.MemoryForm := by
  unfold State.doMred
  grind [State.scramble_form, State.lostHit_form, State.mredRetDo_form, State.mredLineDo_form]

theorem State.opTry_form {s : State} (h : s.MemoryForm) (id o force) : (s.opTry id o force).MemoryForm := by
  unfold State.opTry
  grind [State.opEnd_form, State.evPost_form, update_form]

theorem State.mredStep_form {s : State} (h : s.MemoryForm) (id j force) : (s.mredStep id j force).MemoryForm := by
  unfold State.mredStep
  grind [State.doMred_form, State.charge_form, State.opTry_form, update_form]

theorem State.copyStep_form {s : State} (h : s.MemoryForm) (id force) : (s.copyStep id force).MemoryForm := by
  unfold State.copyStep
  grind [State.charge_form, State.doCopy_form, State.lostHit_form, State.opTry_form]

theorem State.updCanvas_form {s : State} (h : s.MemoryForm) (i f) : (s.updCanvas i f).MemoryForm := h

theorem State.cnRead_form {s : State} (h : s.MemoryForm) (a gs) : (s.cnRead a gs).1.MemoryForm := by
  unfold State.cnRead
  grind [foldl_form, State.readSeg_form, fst_foldl_form]

theorem State.easelApply_form {s : State} (h : s.MemoryForm) (o) : (s.easelApply o).MemoryForm := by
  unfold State.easelApply
  grind [State.updCanvas_form, foldl_form, State.cnRead_form, State.lostHit_form, State.writeSeg_form, fst_foldl_form]

theorem State.easelDo_form {s : State} (h : s.MemoryForm) (cl o) : (s.easelDo cl o).MemoryForm := by
  unfold State.easelDo
  grind [State.charge_form, State.meter_form, State.easelApply_form, State.updCluster_form]

theorem State.sweepCanvases_form {s : State} (h : s.MemoryForm) : (s.sweepCanvases).MemoryForm := h

theorem State.easelEnd_form {s : State} (h : s.MemoryForm) (cl id) : (s.easelEnd cl id).MemoryForm := h

theorem State.easelDrain_form {s : State} (h : s.MemoryForm) (sel) : (s.easelDrain sel).MemoryForm := by
  unfold State.easelDrain
  grind [foldl_form, State.easelDo_form, State.easelEnd_form, fst_foldl_form]

theorem State.engineDrain_form {s : State} (h : s.MemoryForm) (sel) : (s.engineDrain sel).MemoryForm := by
  unfold State.engineDrain
  grind [foldl_form, State.copyStep_form, State.mredStep_form, fst_foldl_form]

end Sys2Proof.Proofs.MemoryForm
end

section
/-! PROOFS (O10): ends of groups, issue, loads, stores, atomics and spills keep the canonical form. -/

namespace Sys2Proof.Proofs.MemoryForm

-- Theorem by theorem: the many that are elaborated at once would each take a thread.
set_option Elab.async false
open Sys2Proof Sys2Proof.Machine

theorem State.s2Notice_form {s : State} (h : s.MemoryForm) (cause ctx ipa va kind) :
    (s.s2Notice cause ctx ipa va kind).MemoryForm := by
  unfold State.s2Notice
  grind [State.fqPost_form]

theorem State.flushTeam_form {s : State} (h : s.MemoryForm) (g) : (s.flushTeam g).MemoryForm := by
  unfold State.flushTeam
  grind [foldl_form, State.l1Flush_form, fst_foldl_form]

theorem State.countRelease_form {s : State} (h : s.MemoryForm) (tid closing) :
    (s.countRelease tid closing).MemoryForm := by
  unfold State.countRelease
  grind [State.updGrid_form, State.updTeam_form]

theorem State.unfuse_form {s : State} (h : s.MemoryForm) (a cores) : (s.unfuse a cores).MemoryForm := by
  unfold State.unfuse
  grind [foldl_form, State.updCore_form, State.l1Flush_form, fst_foldl_form]

theorem State.endTeam_form {s : State} (h : s.MemoryForm) (tid ran) : (s.endTeam tid ran).MemoryForm := by
  unfold State.endTeam
  grind [State.countRelease_form, State.unfuse_form, State.updCluster_form, State.updCore_form, State.updGrid_form,
    update_form]

theorem State.sweepTeam_form {s : State} (h : s.MemoryForm) (tid) : (s.sweepTeam tid).MemoryForm := by
  unfold State.sweepTeam
  grind [State.endTeam_form]

theorem State.laneTime_form {s : State} (h : s.MemoryForm) (g) : (s.laneTime g).MemoryForm := h

theorem State.removeGroup_form {s : State} (h : s.MemoryForm) (gid) : (s.removeGroup gid).MemoryForm := by
  unfold State.removeGroup
  grind [State.laneTime_form, State.flushTeam_form, State.updCluster_form, update_form]

theorem State.discardGroup_form {s : State} (h : s.MemoryForm) (gid) : (s.discardGroup gid).MemoryForm := by
  unfold State.discardGroup
  grind [State.engineDrain_form, State.easelDrain_form, State.removeGroup_form]

theorem State.stopDispatch_form {s : State} (h : s.MemoryForm) (i) : (s.stopDispatch i).MemoryForm := h

theorem State.cutGrid_form {s : State} (h : s.MemoryForm) (i all) : (s.cutGrid i all).MemoryForm := by
  unfold State.cutGrid
  grind [foldl_form, State.discardGroup_form, State.updGrid_form, State.endTeam_form, fst_foldl_form]

theorem State.unhandled_form {s : State} (h : s.MemoryForm) (gid kind t pc) :
    (s.unhandled gid kind t pc).MemoryForm := by
  unfold State.unhandled
  grind [State.fqPost_form, State.removeGroup_form, State.endTeam_form, State.discardGroup_form, State.updGrid_form,
    State.cutGrid_form, State.stopDispatch_form]

theorem State.raiseFlags_form {s : State} (h : s.MemoryForm) (gid fl) : (s.raiseFlags gid fl).MemoryForm := by
  unfold State.raiseFlags
  grind [foldl_form, State.updGroup_form, fst_foldl_form]

theorem State.markB_form {s : State} (h : s.MemoryForm) (g gid w) : (s.markB g gid w).MemoryForm := by
  unfold State.markB
  grind [State.updCluster_form]

theorem State.commit_form {s : State} (h : s.MemoryForm) (gid o) : (s.commit gid o).MemoryForm := by
  unfold State.commit
  grind [foldl_form, State.setGroup_form, State.raiseFlags_form, State.markB_form, fst_foldl_form]

theorem State.stopAt_form {s s0 : State} (h : s.MemoryForm) (h0 : s0.MemoryForm) (gid k g) :
    (s.stopAt s0 gid k g).MemoryForm := by
  unfold State.stopAt
  grind [State.updGroup_form]

theorem State.issued_form {s : State} (h : s.MemoryForm) (s0 g) : (s.issued s0 g).MemoryForm := by
  unfold State.issued
  grind [State.charge_form, State.meter_form]

theorem State.clearFailed_form {s : State} (h : s.MemoryForm) (gid) : (s.clearFailed gid).MemoryForm := h

theorem takeTrap_form {s : State} (h : s.MemoryForm) (gid t) : (takeTrap s gid t).MemoryForm := by
  unfold takeTrap
  grind [State.setGroup_form, State.clearFailed_form, State.unhandled_form]

theorem finish_form {a : Act} (h : a.state.MemoryForm) (s gid c) : (finish s gid c a).MemoryForm := by
  cases a with
  | done t => exact State.updGroup_form (State.issued_form h _ _) _ _
  | jump t => exact State.updGroup_form (State.issued_form h _ _) _ _
  | trap t e => exact takeTrap_form h _ _
  | wait t w => exact State.updGroup_form h _ _

/-- An outcome keeps the form. -/
def Res.Form (r : Res) : Prop := ∀ t, r = .next t → t.MemoryForm

theorem issue_form {i : Instr} {k : Com} {rs : List (Opnd × Nat)} {f : Nat → GCtx → State → Act} {s : State}
    (h : s.MemoryForm) (hf : ∀ gid c, (f gid c s).state.MemoryForm) : Res.Form (issue i k rs f s) := by
  unfold issue
  grind [Res.Form, finish_form, takeTrap_form, Act.state]

theorem runG_form {s : State} (h : s.MemoryForm) (b gid c) : (runG b gid c s).state.MemoryForm := by
  unfold runG
  grind [State.commit_form, Act.state]

theorem State.withG_form {s : State} (h : s.MemoryForm) (gid f) : (s.withG gid f).MemoryForm := h

theorem State.homeLane_form {s : State} (h : s.MemoryForm) (h f) : (s.homeLane h f).MemoryForm := by
  unfold State.homeLane
  grind [State.updGroup_form]

theorem State.exitLane_form {s : State} (h : s.MemoryForm) (gid l pc) : (s.exitLane gid l pc).MemoryForm := by
  unfold State.exitLane
  grind [State.homeLane_form, State.updGroup_form]

theorem State.tierWait_form {s : State} (h : s.MemoryForm) (gid g obj) : (s.tierWait gid g obj).MemoryForm := by
  unfold State.tierWait
  grind [State.setVd_form, State.stall_form]

theorem chkFail_form {s : State} (h : s.MemoryForm) (gid c kind x0) : (chkFail gid c s kind x0).state.MemoryForm := by
  unfold chkFail
  grind [State.s2Notice_form, State.lostHit_form, State.tierWait_form, Act.state]

theorem State.tlbFills_form {s : State} (h : s.MemoryForm) (core es) : (s.tlbFills core es).MemoryForm := by
  unfold State.tlbFills
  grind [foldl_form, State.tlbFill_form, fst_foldl_form]

theorem State.hostWait_form {s : State} (h : s.MemoryForm) : (s.hostWait).state.MemoryForm := by
  unfold State.hostWait
  grind [State.askHost_form, Act.state]

theorem memGo_form {s : State} (h : s.MemoryForm) {k : List (Nat × List Seg) → State → Act}
    (hk : ∀ ls s, s.MemoryForm → (k ls s).state.MemoryForm) (gid c kind sp code n ls off) :
    (memGo gid c s kind sp code n ls off k).state.MemoryForm := by
  unfold memGo
  grind [Act.state, State.askHost_form, State.hostWait_form, State.tlbFills_form, chkFail_form]

theorem State.fence_form {s : State} (h : s.MemoryForm) (g sc pred succ) : (s.fence g sc pred succ).MemoryForm := by
  unfold State.fence
  grind [State.fenceCaches_form]

theorem State.handOff_form {s : State} (h : s.MemoryForm) (g sc) : (s.handOff g sc).MemoryForm := by
  unfold State.handOff
  grind [State.joinAll_form, State.fenceCaches_form]

theorem State.tokOrder_form {s : State} (h : s.MemoryForm) (g) : (s.tokOrder g).MemoryForm := by
  unfold State.tokOrder
  grind [State.handOff_form]

theorem ordered_form {s : State} (h : s.MemoryForm) {k : State → State} (hk : ∀ s, s.MemoryForm → (k s).MemoryForm)
    (ord sc cls gid c) : (ordered ord sc cls gid c s k).state.MemoryForm := by
  unfold ordered
  grind [Act.state, State.fence_form, State.settleUpd_form, State.hostWait_form]

theorem State.readLanes_form {s : State} (h : s.MemoryForm) (a sc pol ls) : (s.readLanes a sc pol ls).1.MemoryForm :=
    by
  unfold State.readLanes
  grind [foldl_form, State.readSegs_form, fst_foldl_form]

theorem actLd_form {s : State} (h : s.MemoryForm) (x w gid c) : (actLd x w gid c s).state.MemoryForm := by
  unfold actLd
  grind [memGo_form, ordered_form, State.readLanes_form, State.commit_form, Act.state]

theorem actLdc_form {s : State} (h : s.MemoryForm) (x f gid c) : (actLdc x f gid c s).state.MemoryForm := by
  unfold actLdc
  grind [memGo_form, ordered_form, State.readLanes_form, State.commit_form, Act.state]

theorem State.writeLanes_form {s : State} (h : s.MemoryForm) (a sc pol ls v) :
    (s.writeLanes a sc pol ls v).MemoryForm := by
  unfold State.writeLanes
  grind [foldl_form, State.writeSegs_form, fst_foldl_form]

theorem actSt_form {s : State} (h : s.MemoryForm) (x w gid c) : (actSt x w gid c s).state.MemoryForm := by
  unfold actSt
  grind [memGo_form, ordered_form, State.writeLanes_form, Act.state]

theorem actStc_form {s : State} (h : s.MemoryForm) (x gid c) : (actStc x gid c s).state.MemoryForm := by
  unfold actStc
  grind [memGo_form, ordered_form, State.writeLanes_form, State.commit_form, Act.state]

theorem spillReg_form {s : State} (h : s.MemoryForm) (c a pol r k gs) : (spillReg c s a pol r k gs).MemoryForm := by
  unfold spillReg
  grind [State.writeSegs_form, foldl_form, fst_foldl_form]

theorem fillReg_form {s : State} (h : s.MemoryForm) (c gid a pol r k gs) :
    (fillReg c s gid a pol r k gs).MemoryForm := by
  unfold fillReg
  grind [State.readSegs_form, State.commit_form, foldl_form, fst_foldl_form]

theorem spillLoop_form (x : SpArgs) (isFill : Bool) (gid : Nat) (c : GCtx) {s0 : State} (h0 : s0.MemoryForm) (f k :
    Nat)
    {s : State} (h : s.MemoryForm) : (spillLoop x isFill gid c s0 f k s).state.MemoryForm := by
  induction f generalizing k s with
  | zero => exact h
  | succ f ih =>
    unfold spillLoop
    grind [Act.state, State.stopAt_form, State.askHost_form, State.hostWait_form, State.tlbFills_form, fillReg_form,
      spillReg_form, chkFail_form, State.withG_form]

theorem actSpill_form {s : State} (h : s.MemoryForm) (x isFill gid c) :
    (actSpill x isFill gid c s).state.MemoryForm := by
  unfold actSpill
  grind [spillLoop_form, Act.state]

theorem State.atomStore_form {s : State} (h : s.MemoryForm) (home pa bs key a) :
    (s.atomStore home pa bs key a).MemoryForm := by
  unfold State.atomStore
  grind [State.homeStore_form, State.stamp_form, State.homeApply_form, State.updDie_form, State.fanOut_form]

theorem State.rmw_form {s : State} (h : s.MemoryForm) (a g q f) : (s.rmw a g q f).1.MemoryForm := by
  unfold State.rmw
  grind [State.tsWrite_form, State.taskWrite_form, State.holeRead_form, State.farWb_form, State.l1Out_form,
    State.meetAt_form, State.msSend_form, State.l2Use_form, State.cxlRead_form, State.cxlMeter_form,
    State.msGet_form, State.homeRead_form, State.atomStore_form, State.msPut_form, State.homeWrite_form]

theorem State.rmwLanes_form {s : State} (h : s.MemoryForm) (a ls q f) : (s.rmwLanes a ls q f).1.MemoryForm := by
  unfold State.rmwLanes
  grind [foldl_form, State.rmw_form, fst_foldl_form]

theorem actAtomic_form {s : State} (h : s.MemoryForm) (x ms cls fn withC f gid c) :
    (actAtomic x ms cls fn withC f gid c s).state.MemoryForm := by
  unfold actAtomic
  grind [memGo_form, ordered_form, State.rmwLanes_form, State.commit_form, Act.state]

theorem actAtom_form {x2 : State} (h : x2.MemoryForm) (op x x0 x1) : (actAtom op x x0 x1 x2).state.MemoryForm := by
  unfold actAtom
  grind [actAtomic_form, Act.state]

theorem actCas_form {x2 : State} (h : x2.MemoryForm) (x x0 x1) : (actCas x x0 x1 x2).state.MemoryForm := by
  unfold actCas
  grind [actAtomic_form, Act.state]

theorem actAtms_form {x2 : State} (h : x2.MemoryForm) (op x x0 x1) : (actAtms op x x0 x1 x2).state.MemoryForm := by
  unfold actAtms
  grind [actAtomic_form, Act.state]

theorem actAtmsCas_form {x2 : State} (h : x2.MemoryForm) (x x0 x1) : (actAtmsCas x x0 x1 x2).state.MemoryForm := by
  unfold actAtmsCas
  grind [actAtomic_form, Act.state]

theorem mredSend_form {s : State} (h : s.MemoryForm) (x ret whole gid c ps) :
    (mredSend x ret whole gid c s ps).MemoryForm := by
  unfold mredSend
  grind [State.withG_form, State.newOp_form, update_form]

theorem actMred_form {s : State} (h : s.MemoryForm) (x ret gid c) : (actMred x ret gid c s).state.MemoryForm := by
  unfold actMred
  grind [State.withG_form, State.tlbFills_form, mredSend_form, State.stopAt_form, chkFail_form, Act.state]

theorem evMredPacketApply_form {s : State} (h : s.MemoryForm) (op idx) : (evMredPacketApply op idx s).MemoryForm := by
  unfold evMredPacketApply
  grind [State.askHost_form, State.sweepTeam_form, State.mredStep_form]

theorem State.fillLevel_form {s : State} (h : s.MemoryForm) (a pol lvl g) : (s.fillLevel a pol lvl g).MemoryForm := by
  unfold State.fillLevel
  grind [State.readSeg_form, State.l2Read_form, State.mscReq_form]

theorem actPf_form {s : State} (h : s.MemoryForm) (x lvl gid c) : (actPf x lvl gid c s).state.MemoryForm := by
  unfold actPf
  grind [foldl_form, State.fillLevel_form, Act.state, fst_foldl_form]

theorem State.maintain_form {s : State} (h : s.MemoryForm) (a lvl inv g) : (s.maintain a lvl inv g).MemoryForm := by
  unfold State.maintain
  grind [State.l1Out_form, State.l1Send_form, State.l2Wb_form, State.guestsOut_form, State.guestDrop_form,
    State.farWb_form, State.mscEvict_form, State.updDie_form, State.mscOut_form]

theorem actCmnt_form {s : State} (h : s.MemoryForm) {f : State → Acc → Seg → State}
    (hf : ∀ s a g, s.MemoryForm → (f s a g).MemoryForm) (x gid c) : (actCmnt x f gid c s).state.MemoryForm := by
  unfold actCmnt
  split
  · exact h
  · refine memGo_form h (fun ls t ht => ?_) ..
    exact foldl_form (f := fun s g => f s (s.accOf c.g 0) g) ht (fun s g hs => hf s _ g hs) _

theorem State.icDrop_form {s : State} (h : s.MemoryForm) (a g) : (s.icDrop a g).MemoryForm := h

theorem actFnc_form {s : State} (h : s.MemoryForm) (scope pred succ gid c) :
    (actFnc scope pred succ gid c s).state.MemoryForm := by
  unfold actFnc
  grind [State.fence_form, State.hostWait_form, Act.state]

end Sys2Proof.Proofs.MemoryForm
end

section
/-! PROOFS (O10): copies, tokens, branches, packets and dispatch keep the canonical form. -/

namespace Sys2Proof.Proofs.MemoryForm
open Sys2Proof Sys2Proof.Machine

theorem copySend_form {s : State} (h : s.MemoryForm) (tok whole gid c rows ev) :
    (copySend tok whole gid c s rows ev).MemoryForm := by
  unfold copySend
  grind [State.withG_form, State.newOp_form, update_form]

theorem copyNone_form {s : State} (h : s.MemoryForm) (tok gid c ev) : (copyNone tok gid c s ev).MemoryForm := by
  unfold copyNone
  grind [State.withG_form, State.evPost_form]

theorem actAcpy_form {s : State} (h : s.MemoryForm) (x gid c) : (actAcpy x gid c s).state.MemoryForm := by
  unfold actAcpy
  dsimp only
  split <;> grind [copyNone_form, State.tlbFills_form, copySend_form, State.stopAt_form, chkFail_form,
    State.withG_form, State.askHost_form, Act.state]

theorem actGth_form {s : State} (h : s.MemoryForm) (x scatter gid c) : (actGth x scatter gid c s).state.MemoryForm :=
    by
  unfold actGth
  grind [State.askHost_form, State.tlbFills_form, copySend_form, chkFail_form, Act.state]

theorem evCopyComplete_form {s : State} (h : s.MemoryForm) (op) : (evCopyComplete op s).MemoryForm := by
  unfold evCopyComplete
  grind [State.askHost_form, State.sweepTeam_form, State.copyStep_form]

theorem State.tokTake_form {s : State} (h : s.MemoryForm) (g ks) : (s.tokTake g ks).MemoryForm := by
  unfold State.tokTake
  grind [foldl_form, State.handOff_form, fst_foldl_form]

theorem actTkw_form {s : State} (h : s.MemoryForm) (any clr d a gid c) :
    (actTkw any clr d a gid c s).state.MemoryForm := by
  unfold actTkw
  grind [State.tokTake_form, State.askHost_form, State.withG_form, State.commit_form, Act.state]

theorem tokTest_form {s : State} (h : s.MemoryForm) (k act gid c o) : (tokTest k act gid c s o).state.MemoryForm := by
  unfold tokTest
  grind [State.tokTake_form, State.commit_form, State.hostWait_form, Act.state]

theorem actTkt_form {s : State} (h : s.MemoryForm) (pD t f gid c) : (actTkt pD t f gid c s).state.MemoryForm := by
  unfold actTkt
  grind [tokTest_form, Act.state]

theorem actTktSt_form {s : State} (h : s.MemoryForm) (d t gid c) : (actTktSt d t gid c s).state.MemoryForm := by
  unfold actTktSt
  grind [tokTest_form, Act.state]

theorem releaseThen_form {s : State} (h : s.MemoryForm) {k : State → Act}
    (hk : ∀ s, s.MemoryForm → (k s).state.MemoryForm) (sc eng w gid c) :
    (releaseThen sc eng w gid c s k).state.MemoryForm := by
  unfold releaseThen
  grind [Act.state, State.fence_form, State.askHost_form]

theorem actEvq_form {s : State} (h : s.MemoryForm) (eng a gid c) : (actEvq eng a gid c s).state.MemoryForm := by
  unfold actEvq
  grind [releaseThen_form, State.evPost_form, Act.state]

theorem evEventRecordTake_form {s : State} (h : s.MemoryForm) (cl) : (evEventRecordTake cl s).MemoryForm := by
  unfold evEventRecordTake
  grind [State.updCluster_form, update_form]

theorem State.codeBlock_form {s : State} (h : s.MemoryForm) (a pa key ms) : (s.codeBlock a pa key ms).1.MemoryForm :=
    by
  unfold State.codeBlock
  grind [State.msRead_form, State.draw_form, State.l2Read_form, State.updCore_form]

theorem State.fetch_form {s : State} (h : s.MemoryForm) (g gid pc) : (s.fetch g gid pc).1.MemoryForm := by
  unfold State.fetch
  grind [State.codeBlock_form, foldl_form, State.tlbFill_form, State.relRec_form, fst_foldl_form]

theorem State.fetchTrap_form {s : State} (h : s.MemoryForm) (gid g t s2) : (s.fetchTrap gid g t s2).MemoryForm := by
  unfold State.fetchTrap
  grind [State.s2Notice_form, takeTrap_form, State.lostHit_form]

theorem State.eject_form {s : State} (h : s.MemoryForm) (gid m pc f) :
    ∀ s', s.eject gid m pc f = some s' → s'.MemoryForm := by
  unfold State.eject
  grind [State.setGroup_form, State.fresh_form]

theorem braSplit_form {s : State} (h : s.MemoryForm) (ej gid c) : (braSplit ej gid c s).state.MemoryForm := by
  unfold braSplit
  grind [State.withG_form, State.eject_form, Act.state]

theorem ejectAll_form (gid f) (ps : List (DWord × Word)) {s : State} (h : s.MemoryForm) :
    ∀ s', ejectAll gid f ps s = .ok s' → s'.MemoryForm := by
  induction ps generalizing s with
  | nil => intro s' hs; cases hs; exact h
  | cons p ps ih =>
    unfold ejectAll
    grind [State.eject_form, State.withG_form]

theorem pathSplit_form {s : State} (h : s.MemoryForm) (f spare pc gid c) :
    (pathSplit f spare pc gid c s).state.MemoryForm := by
  unfold pathSplit
  grind [State.withG_form, Act.state, ejectAll_form]

theorem targetOk_form {s : State} (h : s.MemoryForm) {k : Act} (hk : k.state.MemoryForm) (c a ls) :
    (targetOk c a ls s k).state.MemoryForm := by
  unfold targetOk
  grind [Act.state]

theorem actBraWhole_form {s : State} (h : s.MemoryForm) (gid c) : (actBraWhole gid c s).state.MemoryForm := h

theorem actBrx_form {s : State} (h : s.MemoryForm) (a gid c) : (actBrx a gid c s).state.MemoryForm := by
  unfold actBrx
  grind [targetOk_form, pathSplit_form, Act.state]

theorem actBrxWhole_form {s : State} (h : s.MemoryForm) (a gid c) : (actBrxWhole a gid c s).state.MemoryForm := by
  unfold actBrxWhole
  grind [targetOk_form, State.withG_form, Act.state]

theorem withLink_form {s : State} (h : s.MemoryForm) {split : State → Act}
    (hk : ∀ s, s.MemoryForm → (split s).state.MemoryForm) (d gid c) : (withLink d gid c split s).state.MemoryForm :=
        by
  unfold withLink
  split
  · exact h
  · exact hk _ (State.commit_form h _ _)

theorem actCall_form {s : State} (h : s.MemoryForm) (d gid c) : (actCall d gid c s).state.MemoryForm := by
  unfold actCall
  grind [withLink_form, pathSplit_form, Act.state]

theorem actCallX_form {s : State} (h : s.MemoryForm) (d a gid c) : (actCallX d a gid c s).state.MemoryForm := by
  unfold actCallX
  grind [targetOk_form, withLink_form, pathSplit_form, Act.state]

theorem actRet_form {s : State} (h : s.MemoryForm) (a gid c) : (actRet a gid c s).state.MemoryForm := by
  unfold actRet
  grind [targetOk_form, pathSplit_form, Act.state]

theorem actFcs_form {s : State} (h : s.MemoryForm) (gid c) : (actFcs gid c s).state.MemoryForm := by
  unfold actFcs
  grind [State.withG_form, Act.state]

theorem actExit_form {s : State} (h : s.MemoryForm) (gid c) : (actExit gid c s).state.MemoryForm := by
  unfold actExit
  grind [State.withG_form, foldl_form, State.exitLane_form, Act.state, fst_foldl_form]

theorem actPswp_form {s : State} (h : s.MemoryForm) (gid c) : (actPswp gid c s).state.MemoryForm := by
  unfold actPswp
  grind [State.withG_form, Act.state]

theorem State.returnLane_form {s : State} (h : s.MemoryForm) (gid l f) : (s.returnLane gid l f).MemoryForm := by
  unfold State.returnLane
  grind [State.updGroup_form, State.homeLane_form]

theorem evCompactReturn_form {s : State} (h : s.MemoryForm) (gid) : (evCompactReturn gid s).MemoryForm := by
  unfold evCompactReturn
  grind [State.withG_form, foldl_form, State.returnLane_form, fst_foldl_form]

theorem State.takePkt_form {s : State} (h : s.MemoryForm) (new v w) : (s.takePkt new v w).1.MemoryForm := by
  unfold State.takePkt
  grind [State.setVd_form]

theorem State.putBack_form {s : State} (h : s.MemoryForm) (v w) : (s.putBack v w).MemoryForm := h

theorem State.refusePkt_form {s : State} (h : s.MemoryForm) (vd reason w) : (s.refusePkt vd reason w).MemoryForm := by
  unfold State.refusePkt
  grind [State.fqPost_form]

theorem State.ctLoad_form {s : State} (h : s.MemoryForm) (v) : (s.ctLoad v).MemoryForm := by
  unfold State.ctLoad
  grind [State.setVd_form]

theorem State.ctSync_form {s : State} (h : s.MemoryForm) (v c) : (s.ctSync v c).MemoryForm := by
  unfold State.ctSync
  grind [State.ctLoad_form, State.updVd_form]

theorem State.ctxOf_form {s : State} (h : s.MemoryForm) (v pasid) : (s.ctxOf v pasid).1.MemoryForm := by
  unfold State.ctxOf
  grind [State.ctLoad_form, update_form]

theorem State.refusedCount_form {s : State} (h : s.MemoryForm) (v die pasid) :
    (s.refusedCount v die pasid).MemoryForm := by
  unfold State.refusedCount
  grind [State.ctxOf_form, State.count_form]

theorem State.packet_form {s : State} (h : s.MemoryForm) {act : State → Nat → Nat → Nat → Pkt → State}
    (ha : ∀ s v d q p, s.MemoryForm → (act s v d q p).MemoryForm) (new kind w) :
    (s.packet new kind w act).MemoryForm := by
  unfold State.packet
  grind [State.refusePkt_form, State.refusedCount_form, State.takePkt_form, State.awaitTier_form, State.putBack_form,
    update_form]

theorem State.hold_form {s : State} (h : s.MemoryForm) (tid c t) :
    ∀ s', s.hold tid c t = some s' → s'.MemoryForm := by
  unfold State.hold
  split
  · simp
  · split
    · simp
    · rintro _ ⟨⟩
      exact h

/-- A fold that goes on only from a state keeps the form. -/
theorem foldl_bind_form {α : Type} {f : α → State → Option State}
    (hf : ∀ x s, s.MemoryForm → ∀ s', f x s = some s' → s'.MemoryForm) (xs : List α) (a : Option State)
    (ha : ∀ s, a = some s → s.MemoryForm) : ∀ s', xs.foldl (fun a x => a.bind (f x)) a = some s' → s'.MemoryForm := by
  induction xs generalizing a with
  | nil => exact ha
  | cons x xs ih => exact ih _ fun s hs => by grind [Option.bind_eq_some_iff]

theorem State.holdAll_form {s : State} (h : s.MemoryForm) (ts) :
    ∀ s', s.holdAll ts = some s' → s'.MemoryForm :=
  foldl_bind_form (f := fun (x : Nat × Nat × Team) s => s.hold x.1 x.2.1 x.2.2) (fun x _ hs => State.hold_form hs x.1
      x.2.1 x.2.2) ts (some s)
    fun _ hs => by cases hs; exact h

theorem State.idle_form {s : State} (h : s.MemoryForm) : (s.idle).MemoryForm := h

theorem State.seatBlock_form {s : State} (h : s.MemoryForm) (gi d c0 g) :
    ∀ r, s.seatBlock gi d c0 g = some r → r.1.MemoryForm := by
  intro r hr
  obtain ⟨cs, -, hcs⟩ := List.exists_of_findSome?_eq_some hr
  obtain ⟨t, ht, rfl⟩ := Option.map_eq_some_iff.mp hcs
  exact State.holdAll_form h _ t ht

theorem State.seatBlocks_form (gi d g) (n c : Nat) {a : State × List Nat} (h : a.1.MemoryForm) :
    ∀ r, State.seatBlocks gi d g n c a = some r → r.1.MemoryForm := by
  induction n generalizing c a with
  | zero => rintro _ ⟨⟩; exact h
  | succ n ih =>
    unfold State.seatBlocks
    split
    · rename_i b hb
      exact ih _ (a := (b.1, a.2 ++ b.2)) (State.seatBlock_form h _ _ _ _ b hb)
    · simp

/-- A fold that goes on only from a state with something else keeps the form. -/
theorem foldl_opt_fst_form {α β : Type} {f : Option (State × β) → α → Option (State × β)}
    (hf : ∀ a x, (∀ r, a = some r → r.1.MemoryForm) → ∀ r, f a x = some r → r.1.MemoryForm) (xs : List α)
    (a : Option (State × β)) (ha : ∀ r, a = some r → r.1.MemoryForm) :
    ∀ r, xs.foldl f a = some r → r.1.MemoryForm := by
  induction xs generalizing a with
  | nil => exact ha
  | cons x xs ih => exact ih _ (hf a x ha)

theorem State.seatWhole_form {s : State} (h : s.MemoryForm) (gi g) :
    ∀ r, s.seatWhole gi g = some r → r.1.MemoryForm := by
  unfold State.seatWhole
  refine foldl_opt_fst_form (fun a p ha => foldl_opt_fst_form (fun a r ha b hb => ?_) _ a ha) _ _
    fun r hr => by cases hr; exact h
  obtain ⟨x, rfl, hx⟩ := Option.bind_eq_some_iff.mp hb
  split at hx
  · exact State.seatBlocks_form _ _ _ _ _ (ha x rfl) b hx
  · cases hx

/-- What admitting a launch comes to keeps the form. -/
def Accept.Form : Accept → Prop
  | .ok s _ => s.MemoryForm
  | _ => True

theorem State.acceptLaunch_form {s : State} (h : s.MemoryForm) (ctx die queue seq addr aper rb bad parent pgrid who) :
    Accept.Form (s.acceptLaunch ctx die queue seq addr aper rb bad parent pgrid who) := by
  unfold State.acceptLaunch
  extract_lets v r0 r named holders slots rd
  split
  · trivial
  · split
    · trivial
    · refine State.count_form (update_form (State.fresh_form ?_) ..) _ _ _
      have hrd := DevRd.after_form h (State.ctxRead_form h die ctx who r.codeap r.desc 128 128)
      grind [foldl_form, State.updDie_form, State.updGrid_form]

theorem State.drainAll_form {s : State} (h : s.MemoryForm) : (s.drainAll).MemoryForm := by
  unfold State.drainAll
  grind [State.settleUpd_form, foldl_form, State.farWb_form, fst_foldl_form]

theorem State.endChain_form {s : State} (h : s.MemoryForm) (v chain) : (s.endChain v chain).MemoryForm := by
  unfold State.endChain
  grind [foldl_form, State.updDie_form, State.mscOut_form, State.updVd_form, fst_foldl_form]

theorem State.gridEnd_form {s : State} (h : s.MemoryForm) (i g) : (s.gridEnd i g).MemoryForm := by
  unfold State.gridEnd
  grind [State.interrupt_form, State.tokDone_form, State.count_form, State.endChain_form, update_form]

theorem State.reportWaits_form {s : State} (h : s.MemoryForm) (g) :
    ∀ s', s.reportWaits g = some s' → s'.MemoryForm := by
  unfold State.reportWaits
  grind [State.awaitTier_form, Option.map_eq_some_iff]

theorem evGridComplete_form {s : State} (h : s.MemoryForm) (i) : (evGridComplete i s).MemoryForm := by
  unfold evGridComplete
  grind [State.reportWaits_form, State.drainAll_form, State.askHost_form, State.updGrid_form, State.ctxReport_form,
    State.evPost_form, State.gridEnd_form]

theorem evLaunch_form {s : State} (h : s.MemoryForm) (new w) : (evLaunch new w s).MemoryForm := by
  unfold evLaunch
  grind [State.packet_form, State.ctxOf_form, State.refusePkt_form, State.count_form, State.putBack_form,
    State.awaitTier_form, evGridComplete_form, State.ctxRead_form, DevRd.Form, State.acceptLaunch_form, Accept.Form]

theorem evGridDispatchStart_form {s : State} (h : s.MemoryForm) (i) : (evGridDispatchStart i s).MemoryForm := by
  unfold evGridDispatchStart
  grind [State.updGrid_form]

theorem evFairShareCharge_form {s : State} (h : s.MemoryForm) (d) : (evFairShareCharge d s).MemoryForm := h

theorem State.chargeAll_form {s : State} (h : s.MemoryForm) : (s.chargeAll).MemoryForm := by
  unfold State.chargeAll
  grind [foldl_form, evFairShareCharge_form, fst_foldl_form]

theorem State.select_form {s : State} (h : s.MemoryForm) (d ts) : (s.select d ts).1.MemoryForm := by
  unfold State.select
  grind [foldl_form, State.setDie_form, fst_foldl_form]

/-- What preparing a team comes to keeps the form. -/
def Prep.Form : Prep → Prop
  | .ok s _ | .bad s _ => s.MemoryForm
  | .tier _ => True

theorem State.prep_form {s : State} (h : s.MemoryForm) (tid die g) : Prep.Form (s.prep tid die g) := by
  unfold State.prep
  grind [Prep.Form, DevRd.Form, State.ctxRead_form]

theorem State.entryBlock_form {s : State} (h : s.MemoryForm) (core tid g) : (s.entryBlock core tid g).MemoryForm := by
  unfold State.entryBlock
  grind [State.codeBlock_form]

theorem State.prepFault_form {s : State} (h : s.MemoryForm) (gi core lin g t) :
    (s.prepFault gi core lin g t).MemoryForm := by
  unfold State.prepFault
  grind [State.fqPost_form, State.cutGrid_form, State.stopDispatch_form, State.updGrid_form]

theorem State.tsPlace_form {s : State} (h : s.MemoryForm) (c base size ctx) :
    (s.tsPlace c base size ctx).MemoryForm := by
  unfold State.tsPlace
  grind [State.draw_form, State.setCore_form]

theorem State.startTeam_form {s : State} (h : s.MemoryForm) (tid hd) : (s.startTeam tid hd).MemoryForm := by
  unfold State.startTeam
  grind [State.tsPlace_form, foldl_form, State.tsWrite_form, State.fresh_form, State.setGroup_form,
    State.updGrid_form, State.draw_form, State.meter_form, State.count_form, fst_foldl_form]

theorem State.startAll_form (gi : Nat) (ts : List Nat) {s : State} (h : s.MemoryForm) :
    (s.startAll gi ts).MemoryForm := by
  induction ts generalizing s with
  | nil => exact h
  | cons tid r ih =>
    unfold State.startAll
    have hp := fun t g => State.prep_form h tid t g
    grind [Prep.Form, State.startTeam_form, State.prepFault_form, State.awaitTier_form]

theorem State.fuseCores_form {s : State} (h : s.MemoryForm) (tids) : (s.fuseCores tids).MemoryForm := by
  unfold State.fuseCores
  grind [foldl_form, State.updTeam_form, State.unfuse_form, fst_foldl_form]

theorem State.placeWhole_form {s : State} (h : s.MemoryForm) (gi g) : (s.placeWhole gi g).MemoryForm := by
  unfold State.placeWhole
  split
  · exact State.awaitTier_form h ..
  · split
    · grind [State.updGrid_form]
    · next s' tids hs =>
      have hs' : s'.MemoryForm := State.seatWhole_form h gi g _ hs
      exact State.startAll_form gi tids (State.fuseCores_form (State.updGrid_form hs' ..) _)

theorem State.takeWork_form (q f : Nat) (ex : List Nat) {s : State} (h : s.MemoryForm) :
    (State.takeWork q f ex s).MemoryForm := by
  induction f generalizing ex s with
  | zero => exact h
  | succ f ih =>
    have hsel := fun vs => State.select_form h (reqDie q) vs
    unfold State.takeWork
    extract_lets d cand
    split
    · next s' hq => exact form_of_pair (hsel _) hq
    · next s' v hq =>
      have hs' : s'.MemoryForm := form_of_pair (hsel _) hq
      grind [State.placeWhole_form, State.updGrid_form]

theorem evWorkRequest_form {s : State} (h : s.MemoryForm) (q) : (evWorkRequest q s).MemoryForm := by
  unfold evWorkRequest
  grind [State.placeWhole_form, State.takeWork_form]

theorem evTeamPrepare_form {s : State} (h : s.MemoryForm) (c) : (evTeamPrepare c s).MemoryForm := by
  unfold evTeamPrepare
  grind [State.awaitTier_form, State.updGrid_form, foldl_form, State.updCore_form, State.prepFault_form,
    State.entryBlock_form, update_form, State.prep_form, Prep.Form, fst_foldl_form]

theorem evTeamRunnable_form {s : State} (h : s.MemoryForm) (c) : (evTeamRunnable c s).MemoryForm := by
  unfold evTeamRunnable
  split
  · exact h
  · extract_lets go
    have hgo : ∀ r, go = some r → r.1.MemoryForm := by
      intro r hr
      obtain ⟨hd, -, hf⟩ := List.exists_of_findSome?_eq_some hr
      have hh := fun ts => State.holdAll_form h ts
      grind [Option.map_eq_some_iff]
    clear_value go
    cases go with
    | none => exact h
    | some r =>
      have hr := hgo r rfl
      grind [foldl_form, State.fuseCores_form, State.startTeam_form]

end Sys2Proof.Proofs.MemoryForm
end

section
/-! PROOFS (O10): collectives, barriers, continuations and system instructions keep the canonical form. -/

namespace Sys2Proof.Proofs.MemoryForm
open Sys2Proof Sys2Proof.Machine

theorem State.netSend_form {s : State} (h : s.MemoryForm) (c p) : (s.netSend c p).MemoryForm := by
  unfold State.netSend
  grind [State.emit_form]

theorem State.acSendTo_form {s : State} (h : s.MemoryForm) (hd inst src dst a b x) :
    (s.acSendTo hd inst src dst a b x).MemoryForm := by
  unfold State.acSendTo
  grind [foldl_form, State.emit_form, State.netSend_form, State.updMod_form, fst_foldl_form]

theorem State.acElems_form {s : State} (h : s.MemoryForm) (a w gs n) : (s.acElems a w gs n).1.MemoryForm := by
  unfold State.acElems
  grind [foldl_form, State.readSegs_form, fst_foldl_form]

theorem State.l1Release_form {s : State} (h : s.MemoryForm) (a gs) : (s.l1Release a gs).MemoryForm := by
  unfold State.l1Release
  grind [foldl_form, State.l1Flush_form, fst_foldl_form]

theorem actAcol_form {s : State} (h : s.MemoryForm) (kind x gid c) : (actAcol kind x gid c s).state.MemoryForm := by
  unfold actAcol
  dsimp only
  repeat' split
  all_goals grind [State.askHost_form, State.hostWait_form, State.l1Release_form, State.tlbFills_form,
    State.readSegs_form, State.acElems_form, State.updMod_form, State.fresh_form, foldl_form, State.acSendTo_form,
    State.withG_form, chkFail_form, Act.state, fst_foldl_form]

theorem State.acEnd_form {s : State} (h : s.MemoryForm) (hd c x status res) :
    (s.acEnd hd c x status res).MemoryForm := by
  unfold State.acEnd
  grind [State.lostHit_form, State.readSegs_form, State.acElems_form, State.scramble_form, foldl_form,
    State.writeSegs_form, State.poisonSegs_form, State.tokDone_form, State.updMod_form, fst_foldl_form]

theorem State.acFinish_form {s : State} (h : s.MemoryForm) (hd c x o) : (s.acFinish hd c x o).MemoryForm := by
  unfold State.acFinish
  grind [State.updMod_form, State.acEnd_form, State.draw_form]

theorem evCollectiveComplete_form {s : State} (h : s.MemoryForm) (hd r) : (evCollectiveComplete hd r s).MemoryForm :=
    by
  unfold evCollectiveComplete
  grind [State.askHost_form, State.joinAll_form, State.acFinish_form]

theorem State.collScramble_form {s : State} (h : s.MemoryForm) (sel named c) :
    (s.collScramble sel named c).MemoryForm := by
  unfold State.collScramble
  grind [foldl_form, State.scramble_form, fst_foldl_form]

theorem State.withdraw_form {s : State} (h : s.MemoryForm) (sel named) : (s.withdraw sel named).MemoryForm := by
  unfold State.withdraw
  grind [foldl_form, State.collScramble_form, State.updMod_form, fst_foldl_form]

theorem State.arrive_form {s : State} (h : s.MemoryForm) (gid g lvl n side) :
    (s.arrive gid g lvl n side).MemoryForm := by
  unfold State.arrive
  grind [State.updTeam_form, State.updGrid_form]

theorem State.deadlock_form {s : State} (h : s.MemoryForm) (tid gid) : (s.deadlock tid gid).MemoryForm := by
  unfold State.deadlock
  grind [foldl_form, takeTrap_form, fst_foldl_form]

theorem barWait_form {s : State} (h : s.MemoryForm) (sync lvl n gid c) :
    (barWait sync lvl n gid c s).state.MemoryForm := by
  unfold barWait
  grind [State.handOff_form, State.withG_form, State.askHost_form, State.deadlock_form, Act.state]

theorem barArrive_form {s : State} (h : s.MemoryForm) {k : State → Act}
    (hk : ∀ s, s.MemoryForm → (k s).state.MemoryForm) (x b gid c) : (barArrive x b gid c s k).state.MemoryForm := by
  refine releaseThen_form h (fun s hs => ?_) ..
  grind [Act.state, State.arrive_form]

theorem actBar_form {s : State} (h : s.MemoryForm) (op x gid c) : (actBar op x gid c s).state.MemoryForm := by
  unfold actBar
  grind [barArrive_form, barWait_form, State.withG_form, Act.state]

theorem evBarrierArrivalForward_form {s : State} (h : s.MemoryForm) (i n) :
    (evBarrierArrivalForward i n s).MemoryForm := by
  unfold evBarrierArrivalForward
  grind [State.updGrid_form]

theorem actGate_form {s : State} (h : s.MemoryForm) (gid c) : (actGate gid c s).state.MemoryForm := by
  unfold actGate
  grind [State.handOff_form, State.askHost_form, Act.state]

theorem State.sendRelease_form {s : State} (h : s.MemoryForm) (gid g) : (s.sendRelease gid g).MemoryForm := by
  unfold State.sendRelease
  grind [State.countRelease_form, State.updGrid_form]

theorem actRels_form {s : State} (h : s.MemoryForm) (eng gid c) : (actRels eng gid c s).state.MemoryForm := by
  unfold actRels
  grind [releaseThen_form, State.sendRelease_form, State.withG_form, Act.state]

theorem State.claimTok_form {x : State × List Tok} (h : x.1.MemoryForm) (ctx t) :
    (State.claimTok x ctx t).1.MemoryForm := by
  unfold State.claimTok
  grind [update_form]

theorem State.adopt_form {s : State} (h : s.MemoryForm) (gid g) : (s.adopt gid g).MemoryForm := h

theorem State.takeToks_form {s : State} (h : s.MemoryForm) (ctx hd b) : (s.takeToks ctx hd b).1.MemoryForm := by
  unfold State.takeToks
  grind [foldl_form, State.claimTok_form, fst_foldl_form]

theorem State.holdToks_form {s : State} (h : s.MemoryForm) (ctx sc g) : (s.holdToks ctx sc g).MemoryForm := h

theorem State.homeRd_form {s : State} (h : s.MemoryForm) (a g) : (s.homeRd a g).1.MemoryForm := by
  unfold State.homeRd
  grind [State.msRead_form, State.meetAt_form, State.farWb_form, State.l1Out_form, State.holeRead_form,
    State.homeRead_form, State.l2Use_form, State.cxlRead_form, State.cxlMeter_form]

theorem State.homeWr_form {s : State} (h : s.MemoryForm) (a g bs) : (s.homeWr a g bs).MemoryForm := by
  unfold State.homeWr
  grind [State.msWrite_form, State.meetAt_form, State.farWb_form, State.l1Out_form, State.holeWrite_form,
    State.atomStore_form, State.lostHit_form, State.homeWrite_form, State.cxlMeter_form]

theorem State.objRead_form {s : State} (h : s.MemoryForm) (a gs) : (s.objRead a gs).1.MemoryForm := by
  unfold State.objRead
  grind [foldl_form, State.homeRd_form, fst_foldl_form]

theorem State.objWrite_form {s : State} (h : s.MemoryForm) (a gs bs) : (s.objWrite a gs bs).MemoryForm := by
  unfold State.objWrite
  grind [foldl_form, State.homeWr_form, fst_foldl_form]

theorem State.objState_form {s : State} (h : s.MemoryForm) (a gs st) : (s.objState a gs st).MemoryForm := by
  unfold State.objState
  grind [State.objWrite_form]

theorem actSpawn_form {s : State} (h : s.MemoryForm) (ap tok a gid c) :
    (actSpawn ap tok a gid c s).state.MemoryForm := by
  unfold actSpawn
  grind [State.hostWait_form, State.tlbFills_form, State.fence_form, State.readSegs_form, chkFail_form,
    State.updGrid_form, evGridComplete_form, State.withG_form, Act.state, State.acceptLaunch_form, Accept.Form]

theorem actDone_form {s : State} (h : s.MemoryForm) (x0 c) : (actDone x0 c s).state.MemoryForm := by
  unfold actDone
  grind [State.stopDispatch_form, State.updGrid_form, Act.state]

theorem State.suspLeave_form {s : State} (h : s.MemoryForm) (gid g) : (s.suspLeave gid g).MemoryForm := by
  unfold State.suspLeave
  grind [State.updTeam_form, State.sweepTeam_form, State.removeGroup_form]

theorem actSusp_form {s : State} (h : s.MemoryForm) (sc rights ap a b gid c) :
    (actSusp sc rights ap a b gid c s).state.MemoryForm := by
  unfold actSusp
  refine state_ite_form h (state_ite_form h ?_)
  split
  · exact h
  extract_lets off size cap
  split
  · exact h
  split
  · extract_lets held s1 ac r hd s2
    have hr : r.1.MemoryForm := State.objRead_form (State.withG_form (State.tlbFills_form h ..) ..) ..
    have h2 : s2.MemoryForm := State.fence_form hr ..
    grind [State.askHost_form, State.holdToks_form, State.suspLeave_form, State.objWrite_form, Act.state]
  · exact chkFail_form h ..

theorem State.loadGroup_form {s : State} (h : s.MemoryForm) (g sc) : (s.loadGroup g sc).MemoryForm := by
  unfold State.loadGroup
  grind [State.handOff_form, State.adopt_form, State.setGroup_form, State.fresh_form]

theorem State.loadDetached_form {s : State} (h : s.MemoryForm) (c sc hd b) : (s.loadDetached c sc hd b).MemoryForm :=
    by
  unfold State.loadDetached
  split
  · exact h
  extract_lets tid s1 s0 t s2 order k0 s3 core k
  refine State.loadGroup_form (State.takeToks_form ?_ ..) ..
  have h2 : s2.MemoryForm := State.updGrid_form (update_form (State.fresh_form h) ..) ..
  clear_value s2
  have h3 : s3.MemoryForm := by
    have hh : ∀ k, ((s2.hold tid k t).getD s2).MemoryForm := fun k => by
      cases hk : s2.hold tid k t with
      | none => exact h2
      | some x => exact State.hold_form h2 tid k t x hk
    grind [State.updCore_form, update_form]
  exact h3

theorem State.loadJoined_form {s : State} (h : s.MemoryForm) (c sc hd b slot t) :
    (s.loadJoined c sc hd b slot t).MemoryForm := by
  unfold State.loadJoined
  grind [State.takeToks_form, State.loadGroup_form]

theorem actResm_form {s : State} (h : s.MemoryForm) (join sc ap pD a gid c) :
    (actResm join sc ap pD a gid c s).state.MemoryForm := by
  unfold actResm
  dsimp only
  repeat' split
  all_goals grind [State.askHost_form, State.hostWait_form, State.tlbFills_form, State.objRead_form,
    State.commit_form, State.handOff_form, State.loadJoined_form, State.loadDetached_form, State.objState_form,
    chkFail_form, Act.state]

theorem actCcpy_form {s : State} (h : s.MemoryForm) (rights sap dap a b cc gid c) :
    (actCcpy rights sap dap a b cc gid c s).state.MemoryForm := by
  unfold actCcpy
  cases c.consume [(a, 2), (b, 2), (cc, 1)] [c.low] with
  | some t => exact h
  | none =>
    dsimp -zeta only
    extract_lets so dof cap sp ac sh dh mine back w
    refine state_ite_form h (state_ite_form h ?_)
    have hb : ∀ t : State, t.MemoryForm → (back t).MemoryForm := fun t ht => by
      show State.MemoryForm (if _ then _ else _)
      exact ite_form ht (State.objState_form ht ..)
    clear_value back
    split
    · extract_lets held s1 r hd ours hd' die q d full ss ds gen
      have hr : r.1.MemoryForm := State.objRead_form (State.tlbFills_form h ..) ..
      refine state_ite_form (State.askHost_form h _) (state_ite_form (State.askHost_form h _) ?_)
      split
      · exact ite_form (hb _ hr) hr
      have hq : q.1.MemoryForm := State.objRead_form (State.objState_form hr ..) ..
      clear_value q
      refine state_ite_form (hb _ hq) (state_ite_form (hb _ hq) (state_ite_form (hb _ hq) ?_))
      grind [State.askHost_form, State.tierWait_form, State.objWrite_form, State.objRead_form, State.tlbFills_form,
        chkFail_form, Act.state]
    · exact State.tierWait_form h ..
    · exact chkFail_form (ite_form (hb _ h) h) ..

theorem State.dropToks_form {s : State} (h : s.MemoryForm) (ctx hd b) : (s.dropToks ctx hd b).MemoryForm := h

theorem actCdsc_form {s : State} (h : s.MemoryForm) (ap a gid c) : (actCdsc ap a gid c s).state.MemoryForm := by
  unfold actCdsc
  grind [State.askHost_form, State.hostWait_form, State.objRead_form, State.tlbFills_form, State.objState_form,
    State.dropToks_form, chkFail_form, Act.state]

theorem State.setFlags_form {s : State} (h : s.MemoryForm) (gid g v) : (s.setFlags gid g v).MemoryForm := by
  unfold State.setFlags
  grind [foldl_form, State.updGroup_form, fst_foldl_form]

theorem State.lstateWrite_form {s : State} (h : s.MemoryForm) (gid g v) : (s.lstateWrite gid g v).MemoryForm := by
  unfold State.lstateWrite
  grind [State.exitLane_form]

theorem State.csrClock_form {s : State} (h : s.MemoryForm) (g r) : (s.csrClock g r).1.MemoryForm := by
  unfold State.csrClock
  grind [State.readCyc_form]

theorem actCsr_form {s : State} (h : s.MemoryForm) (f i x gid c) : (actCsr f i x gid c s).state.MemoryForm := by
  unfold actCsr
  dsimp only
  split <;> grind [State.csrClock_form, State.commit_form, State.withG_form, foldl_form, State.lstateWrite_form,
    State.setFlags_form, Act.state, fst_foldl_form]

theorem actRte_form {s : State} (h : s.MemoryForm) (i gid c) : (actRte i gid c s).state.MemoryForm := by
  unfold actRte
  grind [State.withG_form, Act.state]

theorem actRteNx_form {s : State} (h : s.MemoryForm) (i gid c) : (actRteNx i gid c s).state.MemoryForm := by
  unfold actRteNx
  grind [State.fetch_form, State.withG_form, State.s2Notice_form, State.tierWait_form, Act.state]

theorem actStop_form {s : State} (h : s.MemoryForm) (gid c) : (actStop gid c s).state.MemoryForm := by
  unfold actStop
  grind [State.withG_form, State.updCtx_form, State.fqPost_form, Act.state]

theorem evIllegal_form {s : State} (h : s.MemoryForm) (i) : (evIllegal i s).MemoryForm := by
  unfold evIllegal
  grind [takeTrap_form]

theorem evResultReturn_form {s : State} (h : s.MemoryForm) (gid idx lanes) :
    (evResultReturn gid idx lanes s).MemoryForm := by
  unfold evResultReturn
  grind [State.updGroup_form]

end Sys2Proof.Proofs.MemoryForm
end

section
/-! PROOFS (O10): cuts, context images and their restoring keep the canonical form. -/

namespace Sys2Proof.Proofs.MemoryForm
open Sys2Proof Sys2Proof.Machine

theorem evTrapEntry_form {s : State} (h : s.MemoryForm) (gid cause tval tvalh) :
    (evTrapEntry gid cause tval tvalh s).MemoryForm := by
  unfold evTrapEntry
  grind [takeTrap_form]

theorem State.corrected_form {s : State} (h : s.MemoryForm) (cl c) : (s.corrected cl c).MemoryForm := by
  unfold State.corrected
  grind [State.updCluster_form]

theorem State.coreRec_form {s : State} (h : s.MemoryForm) (src core ctx loc c) :
    (s.coreRec src core ctx loc c).MemoryForm := by
  unfold State.coreRec
  grind [State.corrected_form, State.relRec_form]

theorem evGroupStateLost_form {s : State} (h : s.MemoryForm) (gid part e) :
    (evGroupStateLost gid part e s).MemoryForm := by
  unfold evGroupStateLost
  grind [State.coreRec_form, State.unhandled_form]

theorem evRegfileError_form {s : State} (h : s.MemoryForm) (gid reg lane corrected) :
    (evRegfileError gid reg lane corrected s).MemoryForm := by
  unfold evRegfileError
  grind [State.setGroup_form, State.coreRec_form]

theorem State.memErr_form {s : State} (h : s.MemoryForm) (d u) : (s.memErr d u).MemoryForm := by
  unfold State.memErr
  grind [State.updDie_form, State.poisonUnits_form]

theorem State.unitErr_form {s : State} (h : s.MemoryForm) (u at') : (s.unitErr u at').MemoryForm := by
  unfold State.unitErr
  grind [State.memErr_form, State.poisonUnits_form, State.updDie_form, State.updCore_form]

theorem evMemoryUnitError_form {s : State} (h : s.MemoryForm) (pa e) : (evMemoryUnitError pa e s).MemoryForm := by
  unfold evMemoryUnitError
  grind [State.relRec_form, State.unitErr_form, State.updStack_form, State.corrected_form]

theorem evCanvasEntryError_form {s : State} (h : s.MemoryForm) (team cid idx corrected) :
    (evCanvasEntryError team cid idx corrected s).MemoryForm := by
  unfold evCanvasEntryError
  grind [State.updCanvas_form, State.coreRec_form]

theorem evTeamStoreError_form {s : State} (h : s.MemoryForm) (team addr corrected) :
    (evTeamStoreError team addr corrected s).MemoryForm := by
  unfold evTeamStoreError
  grind [State.updCore_form, State.coreRec_form]

theorem evGroupRetire_form {s : State} (h : s.MemoryForm) (gid) : (evGroupRetire gid s).MemoryForm := by
  unfold evGroupRetire
  grind [State.sweepTeam_form, State.countRelease_form, State.removeGroup_form]

theorem State.destroyGrid_form (force : Bool) (f : Nat) (i : Nat) {s : State} (h : s.MemoryForm) :
    (State.destroyGrid force f i s).MemoryForm := by
  induction f generalizing i s with
  | zero => exact h
  | succ f ih =>
    unfold State.destroyGrid
    grind [evGridComplete_form, foldl_form, State.stopDispatch_form, State.updGrid_form, State.cutGrid_form]

theorem State.statusRec_form {s : State} (h : s.MemoryForm) (die ctx p status reason) :
    (s.statusRec die ctx p status reason).MemoryForm := by
  unfold State.statusRec
  grind [State.ctxReport_form]

theorem State.waitCut_form {s : State} (h : s.MemoryForm) (ctx w) : (s.waitCut ctx w).MemoryForm := h

theorem evDestroy_form {s : State} (h : s.MemoryForm) (new kind w) : (evDestroy new kind w s).MemoryForm := by
  unfold evDestroy
  grind [State.packet_form, State.ctxOf_form, State.refusePkt_form, State.statusRec_form, State.waitCut_form,
    State.destroyGrid_form]

theorem State.unshadow_form {s : State} (h : s.MemoryForm) (sel) : (s.unshadow sel).MemoryForm := by
  unfold State.unshadow
  grind [foldl_form, State.updGrid_form, update_form, fst_foldl_form]

theorem State.withdrawWaits_form {s : State} (h : s.MemoryForm) (gs) : (s.withdrawWaits gs).MemoryForm := by
  unfold State.withdrawWaits
  grind [foldl_form, State.updGroup_form, update_form, fst_foldl_form]

theorem State.beginCut_form {s : State} (h : s.MemoryForm) (ctx c) : (s.beginCut ctx c).MemoryForm := by
  unfold State.beginCut
  grind [State.updCtx_form, State.withdrawWaits_form, State.unshadow_form]

theorem evPreempt_form {s : State} (h : s.MemoryForm) (new w) : (evPreempt new w s).MemoryForm := by
  unfold evPreempt
  grind [State.packet_form, State.ctxOf_form, State.refusePkt_form, State.waitCut_form, State.beginCut_form]

theorem Area.touch_form {s : State} (h : s.MemoryForm) (n x0) : (Area.touch s n x0).MemoryForm := by
  unfold Area.touch
  grind [DevRd.after_form, State.ctxRead_form, DevRd.Form]

theorem Area.write_form {s : State} (h : s.MemoryForm) (ctx off bs x0) : (Area.write s ctx off bs x0).MemoryForm := by
  unfold Area.write
  grind [State.sysWriteAs_form, State.ctxWrite_form, DevWr.Form]

theorem State.lanesHome_form {s : State} (h : s.MemoryForm) (gid g) : (s.lanesHome gid g).MemoryForm := by
  unfold State.lanesHome
  grind [foldl_form, State.updGroup_form, State.removeGroup_form, fst_foldl_form]

theorem State.collDrain_form {s : State} (h : s.MemoryForm) (ctx target) : (s.collDrain ctx target).MemoryForm := by
  refine foldl_form h (fun s c hs => foldl_form hs (fun s x hs => ?_) _) _
  refine ite_form hs ?_
  split
  · next k _ =>
    cases s.acOutcome c.comm k x with
    | none => exact hs
    | some o => exact State.acFinish_form hs ..
  · exact hs

theorem State.cutArrivals_form {s : State} (h : s.MemoryForm) (ctx part gs) :
    (s.cutArrivals ctx part gs).MemoryForm := h

theorem State.cutDrain_form {s : State} (h : s.MemoryForm) (gs ctx target) : (s.cutDrain gs ctx target).MemoryForm :=
    by
  unfold State.cutDrain
  grind [foldl_form, State.updGroup_form, State.engineDrain_form, State.collDrain_form, State.easelDrain_form,
    State.cutArrivals_form, State.flushTeam_form, State.drainAll_form, fst_foldl_form]

theorem State.unloadTeam_form {s : State} (h : s.MemoryForm) (tid) : (s.unloadTeam tid).MemoryForm := by
  unfold State.unloadTeam
  grind [foldl_form, State.removeGroup_form, State.holdToks_form, State.unfuse_form, State.updCluster_form,
    State.updCore_form, State.updGrid_form, update_form, fst_foldl_form]

theorem State.endCut_form {s : State} (h : s.MemoryForm) (ctx c stop status) :
    (s.endCut ctx c stop status).MemoryForm := by
  unfold State.endCut
  grind [State.updCtx_form, State.ctxReport_form, foldl_form, State.updVd_form, fst_foldl_form]

theorem State.saveFault_form {s : State} (h : s.MemoryForm) (ctx c ar parts t) :
    (s.saveFault ctx c ar parts t).MemoryForm := by
  unfold State.saveFault
  grind [foldl_form, Area.write_form, State.fqPost_form, State.updCtx_form, State.endCut_form, fst_foldl_form]

theorem evCutWrite_form {s : State} (h : s.MemoryForm) (ctx) : (evCutWrite ctx s).MemoryForm := by
  unfold evCutWrite
  split
  · exact h
  extract_lets gs d t part ar im open' ends tr w1 w2 w3 late src w4 w5
  refine ite_form h ?_
  have hd : d.MemoryForm := State.cutDrain_form h ..
  clear_value d
  refine ite_form (State.askHost_form h _) (ite_form hd ?_)
  have ht : t.MemoryForm := foldl_form hd (by grind [State.lanesHome_form]) _
  clear_value t
  split
  · exact State.saveFault_form hd ..
  · exact State.awaitTier_form h ..
  · have h1 : w1.MemoryForm := foldl_form ht (by grind [Area.write_form]) _
    have h3 : w3.MemoryForm :=
      foldl_form (State.drainAll_form (Area.write_form (State.drainAll_form h1) ..)) (by grind
          [State.unloadTeam_form]) _
    have h4 : w4.MemoryForm := update_form (State.draw_form h3) ..
    exact State.endCut_form (ite_form h4 (foldl_form h4 (by grind [State.updGrid_form]) _)) ..

theorem State.placeBlock_form {s : State} (h : s.MemoryForm) (b) : ∀ r, s.placeBlock b = some r → r.1.MemoryForm := by
  intro r hr
  unfold State.placeBlock at hr
  split at hr
  · cases hr
    exact h
  · obtain ⟨d, -, hd⟩ := List.exists_of_findSome?_eq_some hr
    obtain ⟨cs, -, hc⟩ := List.exists_of_findSome?_eq_some hd
    obtain ⟨t, ht, rfl⟩ := Option.map_eq_some_iff.mp hc
    have hf : t.MemoryForm := State.holdAll_form h _ t ht
    exact foldl_form (update_form hf ..) (fun s y hs => State.updTeam_form hs ..) _

theorem State.placeBlocks_form (bs : List (List Seat)) {s : State} (h : s.MemoryForm) :
    ∀ r, State.placeBlocks bs s = some r → r.1.MemoryForm := by
  induction bs generalizing s with
  | nil =>
    intro r hr
    cases hr
    exact h
  | cons b bs ih =>
    intro r hr
    obtain ⟨x, hx, hy⟩ := Option.bind_eq_some_iff.mp hr
    obtain ⟨y, hb, rfl⟩ := Option.map_eq_some_iff.mp hy
    exact ih (State.placeBlock_form h b x hx) y hb

theorem State.loadCanvases_form {s : State} (h : s.MemoryForm) (tid top seg) :
    (s.loadCanvases tid top seg).MemoryForm := by
  unfold State.loadCanvases
  grind [foldl_form, State.updTeam_form, State.fresh_form, update_form, fst_foldl_form]

theorem State.loadSegment_form {s : State} (h : s.MemoryForm) (tid x) : (s.loadSegment tid x).MemoryForm := by
  unfold State.loadSegment
  grind [State.tsPlace_form, State.tsWrite_form, State.updCore_form, foldl_form, State.loadCanvases_form,
    State.updTeam_form, State.updGrid_form, fst_foldl_form]

theorem State.loadObjects_form {s : State} (h : s.MemoryForm) (tid x) : (s.loadObjects tid x).MemoryForm := by
  unfold State.loadObjects
  grind [foldl_form, State.takeToks_form, State.loadGroup_form, fst_foldl_form]

theorem State.consumeObjects_form {s : State} (h : s.MemoryForm) (ar x) : (s.consumeObjects ar x).MemoryForm := by
  unfold State.consumeObjects
  grind [foldl_form, Area.write_form, fst_foldl_form]

theorem State.unsave_form {s : State} (h : s.MemoryForm) (x) : (s.unsave x).MemoryForm := h

theorem State.mailbox_form {s : State} (h : s.MemoryForm) (ctx m r) : (s.mailbox ctx m r).MemoryForm := by
  unfold State.mailbox
  grind [State.updGrid_form]

theorem State.loadGrids_form {s : State} (h : s.MemoryForm) (ctx m last) : (s.loadGrids ctx m last).MemoryForm := by
  unfold State.loadGrids
  grind [foldl_form, State.updGrid_form, fst_foldl_form]

/-- What restoring an image comes to keeps the form. -/
def RestRes.Form : RestRes → Prop
  | .refused => True
  | .wait s | .ok s => s.MemoryForm

theorem State.restoreImage_form {s : State} (h : s.MemoryForm) (ctx ar) : RestRes.Form (s.restoreImage ctx ar) := by
  unfold State.restoreImage
  extract_lets size
  split
  · exact State.awaitTier_form h ..
  split
  · trivial
  · extract_lets xs
    split
    · exact h
    split
    · exact h
    · next s' ts hp =>
      have hs : s'.MemoryForm := State.placeBlocks_form _ h _ hp
      refine State.updCtx_form ?_ ..
      grind [foldl_form, State.consumeObjects_form, State.unsave_form, State.loadObjects_form, State.mailbox_form,
        State.loadSegment_form, State.loadGrids_form, State.fuseCores_form, Area.touch_form]

theorem evRestore_form {s : State} (h : s.MemoryForm) (new w) : (evRestore new w s).MemoryForm := by
  unfold evRestore
  refine State.packet_form h (fun s v die _ p hs => ?_) _ _ _
  have hc := State.ctxOf_form hs v (notifyPas w)
  split
  · next s' hq => exact State.refusePkt_form (form_of_pair hc hq) ..
  · next s' ctx hq =>
    have hs' : s'.MemoryForm := form_of_pair hc hq
    have hr := State.restoreImage_form hs' ctx (.space die ctx p.aper p.addr)
    grind [State.statusRec_form, State.waitCut_form, State.putBack_form, State.updCtx_form, RestRes.Form]

end Sys2Proof.Proofs.MemoryForm
end

section
/-! PROOFS (O10): base dies, owner windows and the easel keep the canonical form. -/

namespace Sys2Proof.Proofs.MemoryForm

-- Theorem by theorem: the many that are elaborated at once would each take a thread.
set_option Elab.async false
open Sys2Proof Sys2Proof.Machine

theorem State.portStore_form {s : State} (h : s.MemoryForm) (pa bs poison) : (s.portStore pa bs poison).MemoryForm :=
  ⟨Memory.wf_putBytes _ _ _ h.1, h.2⟩

theorem State.portAtomic_form {s : State} (h : s.MemoryForm) (pa opc l) : (s.portAtomic pa opc l).MemoryForm := by
  unfold State.portAtomic
  grind [State.portStore_form]

theorem State.portReduce_form {s : State} (h : s.MemoryForm) (pa p) : (s.portReduce pa p).1.MemoryForm := by
  unfold State.portReduce
  grind [State.portStore_form]

theorem State.portApply_form {s : State} (h : s.MemoryForm) (kind die stack p) :
    (s.portApply kind die stack p).1.MemoryForm := by
  unfold State.portApply
  grind [foldl_form, State.portStore_form, State.portAtomic_form, State.portReduce_form, fst_foldl_form]

theorem State.portServe_form {s : State} (h : s.MemoryForm) (kind die stack p) :
    (s.portServe kind die stack p).MemoryForm := by
  unfold State.portServe
  grind [State.portApply_form, State.updStack_form]

theorem State.portRun_form (die stack n : Nat) (p : BasePkt) (fuel : Nat) (held : Bool) (kind : Nat) {s : State} (h :
    s.MemoryForm) :
    (State.portRun die stack n p fuel held kind s).MemoryForm := by
  induction fuel generalizing held kind s with
  | zero => exact State.portServe_form h ..
  | succ fuel ih =>
    unfold State.portRun
    grind [State.portServe_form, State.setStack_form]

theorem State.portGo_form {s : State} (h : s.MemoryForm) (die stack n held x) :
    (s.portGo die stack n held x).MemoryForm := by
  unfold State.portGo
  grind [State.portRun_form]

theorem State.portRefuse_form {s : State} (h : s.MemoryForm) (kind die stack p) :
    (s.portRefuse kind die stack p).MemoryForm := by
  unfold State.portRefuse
  grind [State.relRec_form, State.updStack_form]

theorem State.portPacket_form {s : State} (h : s.MemoryForm) (kind die stack p) :
    (s.portPacket kind die stack p).MemoryForm := by
  unfold State.portPacket
  grind [State.portGo_form, State.setStack_form, State.portRefuse_form]

theorem evPacketReply_form {s : State} (h : s.MemoryForm) (die stack tag) :
    (evPacketReply die stack tag s).MemoryForm := by
  unfold evPacketReply
  grind [State.setStack_form, State.stall_form]

theorem evBackoffWindowEnd_form {s : State} (h : s.MemoryForm) (die stack bank) :
    (evBackoffWindowEnd die stack bank s).MemoryForm := by
  unfold evBackoffWindowEnd
  grind [State.setStack_form, State.portGo_form]

theorem evRgctlWrite_form {s : State} (h : s.MemoryForm) (die stack v) : (evRgctlWrite die stack v s).MemoryForm := by
  unfold evRgctlWrite
  grind [State.updStack_form]

theorem evWatchWrite_form {s : State} (h : s.MemoryForm) (die stack w v) :
    (evWatchWrite die stack w v s).MemoryForm := by
  unfold evWatchWrite
  grind [State.updStack_form]

theorem State.ctlWrite_form {s : State} (h : s.MemoryForm) (die stack off v) :
    (s.ctlWrite die stack off v).MemoryForm := by
  unfold State.ctlWrite
  grind [evRgctlWrite_form, evWatchWrite_form]

theorem evStatus_form {s : State} (h : s.MemoryForm) (die stack p) : (evStatus die stack p s).MemoryForm := by
  unfold evStatus
  grind [State.portRefuse_form, State.updStack_form, foldl_form, State.ctlWrite_form, fst_foldl_form]

/-- What running a command comes to keeps the form. -/
def CmdRes.Form : CmdRes → Prop
  | .done s _ _ | .wait s _ => s.MemoryForm

theorem State.cmdWrite_form {s : State} (h : s.MemoryForm) (win addr bs) : (s.cmdWrite win addr bs).MemoryForm := by
  unfold State.cmdWrite
  grind [State.sysWrite_form, State.ipaWrite_form]

theorem State.cmdStatus_form {s : State} (h : s.MemoryForm) (op c status value) :
    (s.cmdStatus op c status value).MemoryForm := by
  unfold State.cmdStatus
  grind [State.cmdWrite_form]

theorem State.command_form {s : State} (h : s.MemoryForm) {act : Nat → State → CmdRes}
    (ha : ∀ n s, s.MemoryForm → CmdRes.Form (act n s)) (new op pf c) : (s.command new op pf c act).MemoryForm := by
  unfold State.command
  grind [CmdRes.Form, State.updVd_form, State.cmdStatus_form]

theorem CmdRes.foldl_form {α : Type} {f : CmdRes → α → CmdRes} (hf : ∀ r x, CmdRes.Form r → CmdRes.Form (f r x))
    (xs : List α) {r : CmdRes} (h : CmdRes.Form r) : CmdRes.Form (xs.foldl f r) := by
  induction xs generalizing r with
  | nil => exact h
  | cons x xs ih => exact ih (hf r x h)

theorem evBadCmd_form {s : State} (h : s.MemoryForm) (new c op) : (evBadCmd new c op s).MemoryForm := by
  refine State.command_form h (fun n s hs => ?_) ..
  exact hs

theorem State.readVd_form {s : State} (h : s.MemoryForm) (v) : (s.readVd v).MemoryForm := h

theorem State.remapCtl_form {s : State} (h : s.MemoryForm) (v i valid mask) :
    (s.remapCtl v i valid mask).MemoryForm := by
  unfold State.remapCtl
  grind [State.setVd_form, State.emit_form]

theorem evRegisterWrite_form {s : State} (h : s.MemoryForm) (r v) : (evRegisterWrite r v s).MemoryForm := by
  unfold evRegisterWrite
  grind [State.updDie_form, State.updVd_form, State.readVd_form, State.remapCtl_form, State.updMod_form,
    evBadCmd_form, update_form]

theorem actVsort_form {s : State} (h : s.MemoryForm) (desc kt d a b gid c) :
    (actVsort desc kt d a b gid c s).state.MemoryForm := by
  unfold actVsort
  grind [runG_form, State.withG_form, State.commit_form, Act.state]

theorem State.performed_form {s : State} (h : s.MemoryForm) (sel) : (s.performed sel).1.MemoryForm := by
  unfold State.performed
  grind [State.settleUpd_form]

theorem State.invalidate_form {s : State} (h : s.MemoryForm) (drop sel) : CmdRes.Form (s.invalidate drop sel) := by
  have hr := State.tlbDrop_form h drop
  unfold State.invalidate
  grind [CmdRes.Form, State.askHost_form, State.performed_form]

theorem evTlbiCtx_form {s : State} (h : s.MemoryForm) (new c) : (evTlbiCtx new c s).MemoryForm :=
  State.command_form h (fun _ _ hs => State.invalidate_form hs ..) ..

theorem evTlbiVa_form {s : State} (h : s.MemoryForm) (new c) : (evTlbiVa new c s).MemoryForm :=
  State.command_form h (fun _ _ hs => State.invalidate_form hs ..) ..

theorem evTlbiS2_form {s : State} (h : s.MemoryForm) (new c) : (evTlbiS2 new c s).MemoryForm :=
  State.command_form h (fun _ _ hs => State.invalidate_form (State.readVd_form hs _) ..) ..

theorem State.freeCtx_form {s : State} (h : s.MemoryForm) (x) : (s.freeCtx x).MemoryForm := h

theorem evCtxsync_form {s : State} (h : s.MemoryForm) (new c) : (evCtxsync new c s).MemoryForm := by
  refine State.command_form h (fun n s hs => ?_) ..
  grind [CmdRes.Form, State.awaitTier_form, State.ctSync_form, State.updCtx_form, State.withdraw_form,
    State.freeCtx_form, update_form]

theorem evDbgrel_form {s : State} (h : s.MemoryForm) (new c) : (evDbgrel new c s).MemoryForm := by
  refine State.command_form h (fun n s hs => ?_) ..
  exact State.updCtx_form (i := cmdCtx c) (f := fun k => { k with halts := [] }) hs

theorem State.lmsSign_form {s : State} (h : s.MemoryForm) (die) : (s.lmsSign die).1.MemoryForm := by
  unfold State.lmsSign
  grind [State.relRec_form, State.setDie_form, State.freeBytes_form]

theorem State.signBoth_form {s : State} (h : s.MemoryForm) (die) : (s.signBoth die).1.MemoryForm := by
  unfold State.signBoth
  grind [State.lmsSign_form, State.freeBytes_form]

theorem State.countLanes_form {s : State} (h : s.MemoryForm) (v) : (s.countLanes v).MemoryForm := by
  unfold State.countLanes
  grind [foldl_form, State.laneTime_form, fst_foldl_form]

theorem State.reportFlash_form {s : State} (h : s.MemoryForm) (v) : (s.reportFlash v).MemoryForm := by
  unfold State.reportFlash
  grind [State.countLanes_form, State.updMod_form]

theorem State.leaseEnd_form {s : State} (h : s.MemoryForm) (die) : (s.leaseEnd die).MemoryForm := by
  unfold State.leaseEnd
  grind [State.updMod_form, State.updDie_form]

theorem evReport_form {s : State} (h : s.MemoryForm) (new c) : (evReport new c s).MemoryForm := by
  refine State.command_form h (fun n s hs => ?_) ..
  grind [CmdRes.Form, State.reportFlash_form, State.leaseEnd_form, State.signBoth_form, State.cmdWrite_form]

theorem State.reclaim_form {s : State} (h : s.MemoryForm) (v) : (s.reclaim v).MemoryForm := by
  unfold State.reclaim
  grind [State.engineDrain_form, foldl_form, State.discardGroup_form, State.endTeam_form, State.stopDispatch_form,
    State.freeCtx_form, State.mscEvict_form, update_form, fst_foldl_form]

theorem State.vdResetStep_form {s : State} (h : s.MemoryForm) (v own how) : (s.vdResetStep v own how).1.MemoryForm :=
    by
  unfold State.vdResetStep
  grind [State.updVd_form, State.withdraw_form, State.reclaim_form, State.drainAll_form, update_form]

theorem evVdreset_form {s : State} (h : s.MemoryForm) (new c) : (evVdreset new c s).MemoryForm := by
  refine State.command_form h (fun n s hs => ?_) ..
  have hr := State.vdResetStep_form hs c.vd (c.vd == c.win) 1
  grind [CmdRes.Form]

theorem evFlr_form {s : State} (h : s.MemoryForm) (v) : (evFlr v s).MemoryForm := by
  unfold evFlr
  grind [State.vdResetStep_form]

theorem State.saveAll_form {s : State} (h : s.MemoryForm) (c) : (s.saveAll c).MemoryForm := by
  unfold State.saveAll
  grind [foldl_form, State.beginCut_form, fst_foldl_form]

theorem evVdsave_form {s : State} (h : s.MemoryForm) (new c) : (evVdsave new c s).MemoryForm := by
  refine State.command_form h (fun n s hs => ?_) ..
  grind [CmdRes.Form, State.updVd_form, State.saveAll_form]

theorem State.loadCtxs_form {s : State} (h : s.MemoryForm) (c) : (s.loadCtxs c).MemoryForm := by
  unfold State.loadCtxs
  grind [foldl_form, update_form, fst_foldl_form]

theorem evVdload_form {s : State} (h : s.MemoryForm) (new c) : (evVdload new c s).MemoryForm := by
  refine State.command_form h (fun n s hs => ?_) ..
  have hi := fun t (ht : State.MemoryForm t) x a => State.restoreImage_form ht x a
  have h0 : CmdRes.Form (.done (s.loadCtxs c) cmdOk 0) := State.loadCtxs_form hs c
  extract_lets key
  dsimp -zeta only
  generalize List.range 256 = is
  split
  · next t st v hq =>
    have ht : CmdRes.Form (.done t st v) := by
      rw [← hq]
      refine CmdRes.foldl_form (fun r i hr => ?_) _ h0
      grind [CmdRes.Form, RestRes.Form]
    exact ite_form (State.updVd_form ht ..) ht
  · refine CmdRes.foldl_form (fun r i hr => ?_) _ h0
    grind [CmdRes.Form, RestRes.Form]

theorem State.retag_form {s : State} (h : s.MemoryForm) (k n) : (s.retag k n).MemoryForm := h

theorem evKeygen_form {s : State} (h : s.MemoryForm) (new c) : (evKeygen new c s).MemoryForm := by
  refine State.command_form h (fun n s hs => ?_) ..
  grind [CmdRes.Form, State.updMod_form, State.retag_form]

theorem evVdEnable_form {s : State} (h : s.MemoryForm) (v) : (evVdEnable v s).MemoryForm := by
  unfold evVdEnable
  grind [State.readVd_form, State.updVd_form]

theorem evRemapUnmask_form {s : State} (h : s.MemoryForm) (v i) : (evRemapUnmask v i s).MemoryForm := by
  unfold evRemapUnmask
  grind [State.remapCtl_form]

theorem evNotifyWrite_form {s : State} (h : s.MemoryForm) (w) : (evNotifyWrite w s).MemoryForm := by
  unfold evNotifyWrite
  grind [State.refusePkt_form]

theorem actAlloc_form {s : State} (h : s.MemoryForm) (pD ty cf gid c) :
    (actAlloc pD ty cf gid c s).state.MemoryForm := by
  unfold actAlloc
  grind [State.fresh_form, State.updTeam_form, State.commit_form, Act.state, update_form]

theorem State.growPool_form {s : State} (h : s.MemoryForm) (cl tid n) : (s.growPool cl tid n).MemoryForm := h

theorem actGrow_form {s : State} (h : s.MemoryForm) (wait pD b gid c) :
    (actGrow wait pD b gid c s).state.MemoryForm := by
  unfold actGrow
  grind [State.commit_form, State.growPool_form, State.updCluster_form, Act.state]

theorem State.growDone_form {s : State} (h : s.MemoryForm) (cl w b) : (s.growDone cl w b).MemoryForm := by
  unfold State.growDone
  have h1 : State.MemoryForm (s.updCluster cl (fun c => { c with grows := c.grows.filter (fun x => x.gid != w.gid)
      })) :=
    State.updCluster_form h ..
  extract_lets t
  split
  · exact h1
  · exact finish_form (a := .done _) (State.commit_form h1 ..) ..

theorem evCanvasGrowGrant_form {s : State} (h : s.MemoryForm) (cl) : (evCanvasGrowGrant cl s).MemoryForm := by
  unfold evCanvasGrowGrant
  grind [State.growDone_form, State.growPool_form, State.count_form]

theorem actCnFree_form {s : State} (h : s.MemoryForm) (cf x0 c) : (actCnFree cf x0 c s).state.MemoryForm := by
  unfold actCnFree
  grind [State.updTeam_form, State.sweepCanvases_form, Act.state, update_form]

theorem actTrim_form {s : State} (h : s.MemoryForm) (b x0 c) : (actTrim b x0 c s).state.MemoryForm := by
  unfold actTrim
  grind [State.updTeam_form, State.updCluster_form, Act.state]

theorem State.post_form {s : State} (h : s.MemoryForm) (gid g cv cv2 kb kn bBase bRegs k) :
    (s.post gid g cv cv2 kb kn bBase bRegs k).MemoryForm := h

theorem State.holdCvs_form {s : State} (h : s.MemoryForm) (gid cvs) : (s.holdCvs gid cvs).MemoryForm := h

theorem mmaPost_form {s0 : State} (h0 : s0.MemoryForm) (x : MmaArgs) (cv gid : Nat) (c : GCtx) (f kb : Nat) {s :
    State}
    (h : s.MemoryForm) : (mmaPost x cv gid c s0 f kb s).state.MemoryForm := by
  induction f generalizing kb s with
  | zero => exact h
  | succ f ih =>
    unfold mmaPost
    refine state_ite_form h (state_ite_form ?_ ?_)
    · exact State.holdCvs_form (State.stopAt_form h h0 ..) ..
    · exact ih _ (State.post_form h ..)

theorem actMma_form {s : State} (h : s.MemoryForm) (x gid c) : (actMma x gid c s).state.MemoryForm := by
  unfold actMma
  grind [mmaPost_form, Act.state]

theorem actMlutB_form {s : State} (h : s.MemoryForm) (n1 cf a b gid c) :
    (actMlutB n1 cf a b gid c s).state.MemoryForm := by
  unfold actMlutB
  grind [State.post_form, Act.state]

theorem actMlutA_form {s : State} (h : s.MemoryForm) (x gid c) : (actMlutA x gid c s).state.MemoryForm := by
  unfold actMlutA
  grind [State.holdCvs_form, State.post_form, Act.state]

theorem actCnz_form {s : State} (h : s.MemoryForm) (cf gid c) : (actCnz cf gid c s).state.MemoryForm := by
  unfold actCnz
  grind [State.post_form, Act.state]

theorem cnCheck_form {s : State} (h : s.MemoryForm) {k : List (List Seg) → State → Act}
    (hk : ∀ ls s, s.MemoryForm → (k ls s).state.MemoryForm) (x need gid c) :
    (cnCheck x need gid c s k).state.MemoryForm := by
  unfold cnCheck
  grind [Act.state, State.askHost_form, State.tlbFills_form, chkFail_form]

theorem actCnldMem_form {s : State} (h : s.MemoryForm) (x gid c) : (actCnldMem x gid c s).state.MemoryForm := by
  unfold actCnldMem
  grind [cnCheck_form, State.post_form, Act.state]

theorem actCnldReg_form {s : State} (h : s.MemoryForm) (x gid c) : (actCnldReg x gid c s).state.MemoryForm := by
  unfold actCnldReg
  grind [State.post_form, Act.state]

theorem actCnstMem_form {s : State} (h : s.MemoryForm) (x gid c) : (actCnstMem x gid c s).state.MemoryForm := by
  unfold actCnstMem
  grind [cnCheck_form, State.commit_form, State.post_form, Act.state]

theorem State.commitCv_form {s : State} (h : s.MemoryForm) (gid cv o) : (s.commitCv gid cv o).MemoryForm := by
  unfold State.commitCv
  grind [State.updGroup_form, State.commit_form]

theorem actCnstReg_form {s : State} (h : s.MemoryForm) (x gid c) : (actCnstReg x gid c s).state.MemoryForm := by
  unfold actCnstReg
  grind [State.commitCv_form, Act.state]

theorem actRowGet_form {s : State} (h : s.MemoryForm) (cf r f gid c) : (actRowGet cf r f gid c s).state.MemoryForm :=
    by
  unfold actRowGet
  grind [State.commitCv_form, Act.state]

theorem actRowScl_form {s : State} (h : s.MemoryForm) (cf r gid c) : (actRowScl cf r gid c s).state.MemoryForm := by
  unfold actRowScl
  grind [State.post_form, Act.state]

theorem actRowCscl_form {s : State} (h : s.MemoryForm) (cf r gid c) : (actRowCscl cf r gid c s).state.MemoryForm := by
  unfold actRowCscl
  grind [State.post_form, Act.state]

theorem actMwait_form {s : State} (h : s.MemoryForm) (m gid c) : (actMwait m gid c s).state.MemoryForm := by
  unfold actMwait
  refine state_ite_form ?_ (State.tokOrder_form h _)
  cases s.mwaitCvs c.g m with
  | none => exact h
  | some cvs => exact State.holdCvs_form h ..

theorem State.fuse_form {s : State} (h : s.MemoryForm) (cl e) (n : Nat) : (s.fuse cl e n).MemoryForm := by
  induction n with
  | zero => exact h
  | succ n ih =>
    unfold State.fuse
    grind [State.easelDo_form]

theorem evEaselGrant_form {s : State} (h : s.MemoryForm) (cl) : (evEaselGrant cl s).MemoryForm := by
  unfold evEaselGrant
  grind [State.fuse_form, State.easelDo_form]

theorem evEaselOpComplete_form {s : State} (h : s.MemoryForm) (cl) : (evEaselOpComplete cl s).MemoryForm := by
  unfold evEaselOpComplete
  grind [State.askHost_form, State.easelEnd_form, State.easelDo_form]

end Sys2Proof.Proofs.MemoryForm
end

section
/-! PROOFS (O10): tiers, the fabric and firmware keep the canonical form. -/

namespace Sys2Proof.Proofs.MemoryForm

-- Theorem by theorem: the many that are elaborated at once would each take a thread.
set_option Elab.async false
open Sys2Proof Sys2Proof.Machine

theorem State.setObj_form {s : State} (h : s.MemoryForm) (v n o) : (s.setObj v n o).MemoryForm := h

theorem State.topDone_form {s : State} (h : s.MemoryForm) (op v n bits) : (s.topDone op v n bits).MemoryForm := h

theorem wfFrom_filter {α : Type} [DecidableEq α] (d : α) (p : Nat × α → Bool) (lo : Option Nat) (m : SMap α)
    (h : SMap.wfFrom d lo m = true) : SMap.wfFrom d lo (m.filter p) = true := by
  induction m generalizing lo with
  | nil => rfl
  | cons e m ih =>
    obtain ⟨k, v⟩ := e
    rw [List.filter_cons]
    simp only [SMap.wfFrom, Bool.and_eq_true] at h
    obtain ⟨⟨hlo, hv⟩, hm⟩ := h
    split
    · simp only [SMap.wfFrom, Bool.and_eq_true]
      exact ⟨⟨hlo, hv⟩, ih _ hm⟩
    · refine ih lo (SMap.wfFrom_lower d (some k) lo m hm fun a ha => ⟨k, rfl, ?_⟩)
      subst ha
      exact Nat.le_of_lt (of_decide_eq_true hlo)

/-- A fold of writes of single bytes at an offset keeps the form. -/
theorem wf_foldl_put_add (a : Nat) (cs m : List Host.Cell) (h : Memory.wf m = true) :
    Memory.wf (cs.foldl (fun m c => Memory.put m (a + c.1) c.2) m) = true := by
  induction cs generalizing m with
  | nil => exact h
  | cons c cs ih => exact ih _ (Memory.wf_put m _ c.2 h)

theorem State.startPromote_form {s : State} (h : s.MemoryForm) (v n) : (s.startPromote v n).MemoryForm := h

theorem State.mapObj_form {s : State} (h : s.MemoryForm) (v n frames) : (s.mapObj v n frames).MemoryForm := by
  unfold State.mapObj
  grind [foldl_form, State.devWrite_form, State.tlbDrop_form, fst_foldl_form]

theorem State.tierKick_form (f v n : Nat) {s : State} (h : s.MemoryForm) : (State.tierKick f v n s).MemoryForm := by
  induction f generalizing s with
  | zero => exact h
  | succ f ih =>
    have go : ∀ op b, State.MemoryForm (State.tierKick f v n (s.topDone op v n b)) :=
      fun op b => ih (State.topDone_form h ..)
    unfold State.tierKick
    grind [State.setObj_form, State.startPromote_form, State.topDone_form]

theorem actTier_form {s : State} (h : s.MemoryForm) (kind x gid c) : (actTier kind x gid c s).state.MemoryForm := by
  unfold actTier
  grind [chkFail_form, State.fresh_form, State.withG_form, foldl_form, State.tierKick_form, State.setObj_form,
    Act.state, update_form, fst_foldl_form]

theorem evTierStatusReturn_form {s : State} (h : s.MemoryForm) (op) : (evTierStatusReturn op s).MemoryForm := by
  unfold evTierStatusReturn
  grind [State.updGroup_form, update_form]

theorem evTierPromote_form {s : State} (h : s.MemoryForm) (v n) : (evTierPromote v n s).MemoryForm := by
  unfold evTierPromote
  grind [State.devDrain_form, State.setObj_form, State.startPromote_form]

theorem State.makeRoom_form {s : State} (h : s.MemoryForm) (v) : (s.makeRoom v).MemoryForm := by
  unfold State.makeRoom
  grind [State.setObj_form]

theorem State.dropFrame_form {s : State} (h : s.MemoryForm) (f) : (s.dropFrame f).MemoryForm := h

theorem State.flushFrame_form {s : State} (h : s.MemoryForm) (f) : (s.flushFrame f).MemoryForm := by
  unfold State.flushFrame
  grind [State.settleUpd_form, foldl_form, State.l1Flush_form, fst_foldl_form]

theorem State.tierCopyIn_form {s : State} (h : s.MemoryForm) (v n frames) : (s.tierCopyIn v n frames).MemoryForm := by
  refine foldl_form h (fun s f hs => ?_) _
  exact ⟨wf_foldl_put_add _ _ _ (wfFrom_filter 0 _ none _ hs.1), hs.2⟩

theorem State.writeBack_form {s : State} (h : s.MemoryForm) (v src frames u) :
    (s.writeBack v src frames u).MemoryForm := by
  unfold State.writeBack
  grind [State.homeRead_form, State.meter_form, State.homeWrite_form, State.poisonUnits_form]

theorem evTierFailure_form {s : State} (h : s.MemoryForm) (v n lost) : (evTierFailure v n lost s).MemoryForm := by
  unfold evTierFailure
  grind [State.setObj_form, foldl_form, State.stall_form, State.relRec_form, State.topDone_form, State.devDrain_form,
    State.tierKick_form, fst_foldl_form]

theorem State.lateWaits_form {s : State} (h : s.MemoryForm) (gs) : (s.lateWaits gs).MemoryForm := by
  unfold State.lateWaits
  grind [foldl_form, State.cxlRead_form, fst_foldl_form]

theorem State.chainLeft_form {s : State} (h : s.MemoryForm) (v n) : (s.chainLeft v n).MemoryForm := by
  unfold State.chainLeft
  grind [State.setObj_form]

theorem evTierPromotionComplete_form {s : State} (h : s.MemoryForm) (v n) :
    (evTierPromotionComplete v n s).MemoryForm := by
  unfold evTierPromotionComplete
  grind [evTierFailure_form, State.makeRoom_form, State.tierCopyIn_form, State.mapObj_form, State.setVd_form,
    foldl_form, State.meter_form, State.lateWaits_form, State.updTop_form, State.devDrain_form, State.chainLeft_form,
    State.tierKick_form, fst_foldl_form]

theorem evTierDemotionComplete_form {s : State} (h : s.MemoryForm) (v n) :
    (evTierDemotionComplete v n s).MemoryForm := by
  unfold evTierDemotionComplete
  grind [foldl_form, State.flushFrame_form, State.mapObj_form, State.askHost_form, State.writeBack_form,
    State.dropFrame_form, State.setObj_form, State.topDone_form, State.tierKick_form, fst_foldl_form]

theorem State.updLink_form {s : State} (h : s.MemoryForm) (a b f) : (s.updLink a b f).MemoryForm := by
  unfold State.updLink
  grind [State.updMod_form]

theorem evMeshFlitRetry_form {s : State} (h : s.MemoryForm) (a b) : (evMeshFlitRetry a b s).MemoryForm := by
  unfold evMeshFlitRetry
  grind [State.updLink_form]

theorem State.markOld_form {s : State} (h : s.MemoryForm) (a b) : (s.markOld a b).MemoryForm := h

theorem evLinkFail_form {s : State} (h : s.MemoryForm) (a b) : (evLinkFail a b s).MemoryForm := by
  unfold evLinkFail
  grind [State.updLink_form, State.markOld_form]

theorem evMeshLaneSpare_form {s : State} (h : s.MemoryForm) (a b) : (evMeshLaneSpare a b s).MemoryForm := by
  unfold evMeshLaneSpare
  grind [evLinkFail_form, State.relRec_form, State.updLink_form]

theorem evUpdateApply_form {s : State} (h : s.MemoryForm) (die idx) : (evUpdateApply die idx s).MemoryForm := by
  unfold evUpdateApply
  grind [State.applyUpd_form, State.askHost_form]

theorem evGuestInvalidate_form {s : State} (h : s.MemoryForm) (die line) :
    (evGuestInvalidate die line s).MemoryForm := by
  unfold evGuestInvalidate
  grind [State.l2Wb_form, State.guestsOut_form]

theorem evHostSnoop_form {s : State} (h : s.MemoryForm) (line) : (evHostSnoop line s).MemoryForm := by
  unfold evHostSnoop
  grind [foldl_form, State.farWb_form, fst_foldl_form]

theorem State.dropLine_form {s : State} (h : s.MemoryForm) (line) : (s.dropLine line).MemoryForm := by
  unfold State.dropLine
  grind [foldl_form, State.updCore_form, State.l1Flush_form, State.farWb_form, fst_foldl_form]

theorem State.askHolders_form {s : State} (h : s.MemoryForm) (line hs) : (s.askHolders line hs).MemoryForm := by
  unfold State.askHolders
  grind [State.updMod_form, foldl_form, State.emit_form, fst_foldl_form]

theorem State.snoopRoom_form {s : State} (h : s.MemoryForm) (line) : (s.snoopRoom line).1.MemoryForm := by
  unfold State.snoopRoom
  grind [State.updMod_form, State.draw_form, State.askHolders_form]

theorem State.hostRefuse_form {s : State} (h : s.MemoryForm) (r) : (s.hostRefuse r).MemoryForm := by
  unfold State.hostRefuse
  grind [State.freeBytes_form, State.emit_form]

theorem State.holdLines_form {s : State} (h : s.MemoryForm) (d req ls) : (s.holdLines d req ls).MemoryForm := h

theorem State.hostStore_form {s : State} (h : s.MemoryForm) (d pa x) : (s.hostStore d pa x).MemoryForm := by
  unfold State.hostStore
  grind [foldl_form, State.devStore_form, State.updDie_form, fst_foldl_form]

theorem State.hostServe_form {s : State} (h : s.MemoryForm) (d r) : (s.hostServe d r).MemoryForm := by
  unfold State.hostServe
  grind [State.homeRead_form, State.emit_form, State.holdLines_form, State.hostStore_form]

theorem State.hostQueue_form {s : State} (h : s.MemoryForm) (own r) : (s.hostQueue own r).MemoryForm := h

theorem State.hostReq_form {s : State} (h : s.MemoryForm) (d own r) : (s.hostReq d own r).MemoryForm := by
  unfold State.hostReq
  grind [foldl_form, State.snoopRoom_form, State.hostQueue_form, State.askHolders_form, State.holdLines_form,
    State.hostStore_form, State.hostServe_form, fst_foldl_form]

theorem evHostMemRequest_form {s : State} (h : s.MemoryForm) (r) : (evHostMemRequest r s).MemoryForm := by
  unfold evHostMemRequest
  grind [State.hostRefuse_form, State.hostReq_form, State.relRec_form]

theorem evBackInvalidate_form {s : State} (h : s.MemoryForm) (line req data) :
    (evBackInvalidate line req data s).MemoryForm := by
  unfold evBackInvalidate
  grind [State.emit_form, State.dropLine_form, State.hostReq_form]

theorem State.hostRetry_form {s : State} (h : s.MemoryForm) : (s.hostRetry).MemoryForm := by
  unfold State.hostRetry
  grind [foldl_form, State.hostReq_form, State.updMod_form, fst_foldl_form]

theorem State.backInvEnd_form {s : State} (h : s.MemoryForm) (b) : (s.backInvEnd b).MemoryForm := by
  unfold State.backInvEnd
  grind [State.updMod_form, State.updDie_form, State.hostRetry_form]

theorem State.backInvResponse_form {s : State} (h : s.MemoryForm) (b holder) :
    (s.backInvResponse b holder).MemoryForm := by
  unfold State.backInvResponse
  grind [State.backInvEnd_form, State.updMod_form]

theorem evBackInvalidateResponse_form {s : State} (h : s.MemoryForm) (line holder) :
    (evBackInvalidateResponse line holder s).MemoryForm := by
  unfold evBackInvalidateResponse
  grind [State.backInvResponse_form]

theorem State.freePick_form {s : State} (h : s.MemoryForm) (l) : (s.freePick l).1.MemoryForm := h

theorem evCxlPortDown_form {s : State} (h : s.MemoryForm) (port) : (evCxlPortDown port s).MemoryForm := h

theorem evCxlPortUp_form {s : State} (h : s.MemoryForm) (port) : (evCxlPortUp port s).MemoryForm := by
  unfold evCxlPortUp
  grind [State.freePick_form, State.updMod_form]

theorem evFwtcntWrite_form {s : State} (h : s.MemoryForm) (v) : (evFwtcntWrite v s).MemoryForm := by
  unfold evFwtcntWrite
  grind [State.updMod_form, update_form]

theorem evCommcntWrite_form {s : State} (h : s.MemoryForm) (v) : (evCommcntWrite v s).MemoryForm := by
  unfold evCommcntWrite
  grind [State.updMod_form]

theorem evNetcntWrite_form {s : State} (h : s.MemoryForm) (v) : (evNetcntWrite v s).MemoryForm := by
  unfold evNetcntWrite
  grind [State.updMod_form]

theorem evTacccntWrite_form {s : State} (h : s.MemoryForm) (v) : (evTacccntWrite v s).MemoryForm := by
  unfold evTacccntWrite
  grind [State.updMod_form]

theorem State.deliver_form {s : State} (h : s.MemoryForm) (p bad) : (s.deliver p bad).MemoryForm := h

theorem onPacket_form {s : State} (h : s.MemoryForm) {f : NetMsg → State → State}
    (hf : ∀ p s, s.MemoryForm → (f p s).MemoryForm) (opc q) : (onPacket opc q f s).MemoryForm := by
  unfold onPacket
  grind

theorem State.onData_form {s : State} (h : s.MemoryForm) (p bad) : (s.onData p bad).MemoryForm := by
  unfold State.onData
  dsimp only
  repeat' split
  all_goals grind [State.deliver_form, State.netSend_form, State.updMod_form]

theorem evData_form {s : State} (h : s.MemoryForm) (q) : (evData q s).MemoryForm := by
  unfold evData
  grind [onPacket_form, State.onData_form]

theorem evAck_form {s : State} (h : s.MemoryForm) (q) : (evAck q s).MemoryForm := by
  unfold evAck
  grind [onPacket_form, State.updMod_form]

theorem State.connFail_form {s : State} (h : s.MemoryForm) (hd src dst) : (s.connFail hd src dst).MemoryForm := by
  unfold State.connFail
  grind [State.updMod_form, foldl_form, State.acEnd_form, fst_foldl_form]

theorem State.resend_form {s : State} (h : s.MemoryForm) (c ps) : (s.resend c ps).MemoryForm := by
  unfold State.resend
  grind [State.updMod_form, State.connFail_form, foldl_form, State.netSend_form, fst_foldl_form]

theorem evNack_form {s : State} (h : s.MemoryForm) (q) : (evNack q s).MemoryForm := by
  unfold evNack
  grind [onPacket_form, State.resend_form]

theorem evAbort_form {s : State} (h : s.MemoryForm) (q) : (evAbort q s).MemoryForm := by
  unfold evAbort
  grind [onPacket_form, State.connFail_form]

theorem evResendTimeout_form {s : State} (h : s.MemoryForm) (hd src dst) :
    (evResendTimeout hd src dst s).MemoryForm := by
  unfold evResendTimeout
  grind [State.resend_form]

theorem State.cutOff_form {s : State} (h : s.MemoryForm) : (s.cutOff).MemoryForm := by
  unfold State.cutOff
  grind [foldl_form, State.connFail_form, State.draw_form, fst_foldl_form]

theorem State.forgetLost_form {s : State} (h : s.MemoryForm) : (s.forgetLost).MemoryForm := by
  unfold State.forgetLost
  grind [foldl_form, State.updMod_form, State.updDie_form, fst_foldl_form]

theorem State.takeExtent_form {s : State} (h : s.MemoryForm) (holder e) : (s.takeExtent holder e).MemoryForm := by
  unfold State.takeExtent
  grind [State.updMod_form, foldl_form, State.backInvResponse_form, fst_foldl_form]

theorem evTargetLost_form {s : State} (h : s.MemoryForm) (target ext) : (evTargetLost target ext s).MemoryForm := by
  unfold evTargetLost
  grind [State.relRec_form, State.forgetLost_form, State.takeExtent_form, State.updMod_form, State.cutOff_form,
    foldl_form, State.backInvResponse_form, evTierFailure_form, update_form, fst_foldl_form]

theorem evDoorbell_form {s : State} (h : s.MemoryForm) (vd die slot) : (evDoorbell vd die slot s).MemoryForm := by
  unfold evDoorbell
  grind [State.ringBell_form]

theorem evTaskSigned_form {s : State} (h : s.MemoryForm) (vd die slot) : (evTaskSigned vd die slot s).MemoryForm := by
  unfold evTaskSigned
  grind [State.updMod_form, State.signBoth_form, State.emit_form, State.setDie_form]

theorem evTaskAck_form {s : State} (h : s.MemoryForm) (vd die slot) : (evTaskAck vd die slot s).MemoryForm := by
  unfold evTaskAck
  grind [State.updMod_form]

theorem State.taskTry_form {s : State} (h : s.MemoryForm) (q) : (s.taskTry q).1.MemoryForm := by
  unfold State.taskTry
  grind [State.awaitTier_form, State.ctxOf_form, State.refusePkt_form, State.count_form, evGridComplete_form,
    State.acceptLaunch_form, Accept.Form]

theorem State.taskDrain_form {s : State} (h : s.MemoryForm) : (s.taskDrain).MemoryForm := by
  unfold State.taskDrain
  grind [foldl_form, State.updMod_form, State.taskTry_form, fst_foldl_form]

theorem State.taskRefuse_form {s : State} (h : s.MemoryForm) (v modid die seq) :
    (s.taskRefuse v modid die seq).MemoryForm := by
  unfold State.taskRefuse
  grind [State.fqPost_form]

theorem evTaskPacket_form {s : State} (h : s.MemoryForm) (b ecdsa lms) : (evTaskPacket b ecdsa lms s).MemoryForm := by
  unfold evTaskPacket
  grind [State.emit_form, State.updMod_form, State.sysWrite_form, State.taskDrain_form, State.taskRefuse_form]

theorem evExtentGrant_form {s : State} (h : s.MemoryForm) (base size tag holder) :
    (evExtentGrant base size tag holder s).MemoryForm := by
  unfold evExtentGrant
  refine ite_form h ?_
  split
  · exact State.updMod_form h _
  · exact ⟨wfFrom_filter 0 _ none _ h.1, h.2⟩

theorem evExtentRelease_form {s : State} (h : s.MemoryForm) (r) : (evExtentRelease r s).MemoryForm := h

theorem State.allDies_form {s : State} (h : s.MemoryForm) (f) : (s.allDies f).MemoryForm := by
  unfold State.allDies
  grind [foldl_form, State.updDie_form, fst_foldl_form]

theorem State.failed_form {s : State} (h : s.MemoryForm) (why) : (s.failed why).MemoryForm := by
  unfold State.failed
  grind [State.updMod_form, State.allDies_form]

theorem State.cold_form {s : State} (h : s.MemoryForm) : (s.cold).MemoryForm := ⟨rfl, h.2⟩

theorem evPowerOn_form {s : State} (h : s.MemoryForm) : (evPowerOn s).MemoryForm := by
  unfold evPowerOn
  grind [State.cold_form, State.allDies_form, State.failed_form]

theorem evTrainingComplete_form {s : State} (h : s.MemoryForm) (die ok) : (evTrainingComplete die ok s).MemoryForm :=
    by
  unfold evTrainingComplete
  grind [State.failed_form, State.updDie_form, State.updMod_form, State.allDies_form]

theorem evNeg_form {s : State} (h : s.MemoryForm) : (evNeg s).MemoryForm := by
  unfold evNeg
  grind [State.updMod_form, State.allDies_form]

theorem evRecoveryImage_form {s : State} (h : s.MemoryForm) (img which) : (evRecoveryImage img which s).MemoryForm :=
    by
  unfold evRecoveryImage
  grind [State.updMod_form]

theorem evSvnRaise_form {s : State} (h : s.MemoryForm) (die) : (evSvnRaise die s).MemoryForm := by
  unfold evSvnRaise
  grind [State.updDie_form]

theorem evRlbaseWrite_form {s : State} (h : s.MemoryForm) (v) : (evRlbaseWrite v s).MemoryForm := by
  unfold evRlbaseWrite
  grind [State.updMod_form, foldl_form, State.updDie_form, State.relWrite_form, fst_foldl_form]

theorem State.broadcast_form {s : State} (h : s.MemoryForm) (d msg) : (s.broadcast d msg).MemoryForm := h

theorem evRenew_form {s : State} (h : s.MemoryForm) (die) : (evRenew die s).MemoryForm := by
  unfold evRenew
  grind [State.broadcast_form]

theorem evRenewReceive_form {s : State} (h : s.MemoryForm) (die term) : (evRenewReceive die term s).MemoryForm := h

theorem evLeaseLapse_form {s : State} (h : s.MemoryForm) (die) : (evLeaseLapse die s).MemoryForm := h

theorem State.lead_form {s : State} (h : s.MemoryForm) (die term) : (s.lead die term).MemoryForm := by
  unfold State.lead
  grind [State.relRec_form, evRenew_form, State.updMod_form, State.updDie_form]

theorem State.tryLead_form {s : State} (h : s.MemoryForm) (die term) : (s.tryLead die term).MemoryForm := by
  unfold State.tryLead
  grind [State.lead_form]

theorem evClaim_form {s : State} (h : s.MemoryForm) (die) : (evClaim die s).MemoryForm := by
  unfold evClaim
  grind [State.tryLead_form, State.broadcast_form, State.setDie_form]

theorem evClaimReceive_form {s : State} (h : s.MemoryForm) (die src term) :
    (evClaimReceive die src term s).MemoryForm := by
  unfold evClaimReceive
  grind [State.setDie_form, State.updDie_form, State.tryLead_form]

theorem evLeaderLeaseEnd_form {s : State} (h : s.MemoryForm) (die) : (evLeaderLeaseEnd die s).MemoryForm := by
  unfold evLeaderLeaseEnd
  grind [State.leaseEnd_form]

theorem evViral_form {s : State} (h : s.MemoryForm) (die) : (evViral die s).MemoryForm := by
  unfold evViral
  grind [State.relRec_form, State.emit_form, State.updMod_form]

theorem State.freeRanges_form {s : State} (h : s.MemoryForm) (cl) : (s.freeRanges cl).MemoryForm := h

theorem State.swapCluster_form {s : State} (h : s.MemoryForm) (cl spare) : (s.swapCluster cl spare).MemoryForm := by
  unfold State.swapCluster
  grind [State.updCluster_form, State.freeRanges_form]

theorem State.refuseUnfit_form {s : State} (h : s.MemoryForm) (cl) : (s.refuseUnfit cl).MemoryForm := by
  unfold State.refuseUnfit
  grind [State.idle_form, State.swapCluster_form, foldl_form, State.count_form, State.cutGrid_form,
    State.stopDispatch_form, State.updGrid_form, State.seatWhole_form, fst_foldl_form]

theorem evClusterRepair_form {s : State} (h : s.MemoryForm) (die k) : (evClusterRepair die k s).MemoryForm := by
  unfold evClusterRepair
  refine ite_form h (ite_form h ?_)
  extract_lets gs d t0 t1 spares t2 xs o1 o2
  have hd : d.MemoryForm := foldl_form (State.withdrawWaits_form h _) (fun s x hs => State.cutDrain_form hs ..) _
  refine ite_form h ?_
  have h0 : t0.MemoryForm := foldl_form hd (by grind [State.lanesHome_form]) _
  have h2 : t2.MemoryForm := ite_form (State.unshadow_form h0 _) (State.refuseUnfit_form (State.unshadow_form h0 _) _)
  have ho : o2.MemoryForm := State.swapCluster_form (foldl_form h2 (by grind [State.unloadTeam_form]) _) _ _
  split
  · exact h
  · next p ts hp =>
    have hp' : p.MemoryForm := State.placeBlocks_form _ ho _ hp
    refine State.relRec_form (State.updDie_form ?_ ..) ..
    grind [foldl_form, State.unsave_form, State.loadObjects_form, State.loadSegment_form, State.fuseCores_form]

theorem evRowRepair_form {s : State} (h : s.MemoryForm) (die stack bank row) :
    (evRowRepair die stack bank row s).MemoryForm := by
  unfold evRowRepair
  grind [State.relRec_form, State.setStack_form]

theorem evPseudoChannelRepair_form {s : State} (h : s.MemoryForm) (die stack pc) :
    (evPseudoChannelRepair die stack pc s).MemoryForm := by
  unfold evPseudoChannelRepair
  grind [State.relRec_form, State.setStack_form]

theorem evDataRateChange_form {s : State} (h : s.MemoryForm) (die stack) :
    (evDataRateChange die stack s).MemoryForm := h

theorem State.spdm_form {s : State} (h : s.MemoryForm) (kind bytes) : (s.spdm kind bytes).MemoryForm := by
  unfold State.spdm
  grind [State.freeBytes_form, State.emit_form]

theorem evGetCertificate_form {s : State} (h : s.MemoryForm) (slot) : (evGetCertificate slot s).MemoryForm := by
  unfold evGetCertificate
  grind [State.freeBytes_form, State.draw_form, State.spdm_form]

theorem evChallenge_form {s : State} (h : s.MemoryForm) (nonce) : (evChallenge nonce s).MemoryForm := by
  unfold evChallenge
  grind [State.spdm_form]

theorem evGetMeasurements_form {s : State} (h : s.MemoryForm) (nonce) : (evGetMeasurements nonce s).MemoryForm := by
  unfold evGetMeasurements
  grind [State.spdm_form]

theorem evLmsTranscriptSignature_form {s : State} (h : s.MemoryForm) (_msg) :
    (evLmsTranscriptSignature _msg s).MemoryForm := by
  unfold evLmsTranscriptSignature
  grind [State.lmsSign_form, State.emit_form]

theorem evPowerCapSet_form {s : State} (h : s.MemoryForm) (pct) : (evPowerCapSet pct s).MemoryForm := h

theorem evPowerSample_form {s : State} (h : s.MemoryForm) (watts) : (evPowerSample watts s).MemoryForm := h

theorem State.trip_form {s : State} (h : s.MemoryForm) (die) : (s.trip die).MemoryForm := h

theorem evSupplyOutOfRange_form {s : State} (h : s.MemoryForm) (mv) : (evSupplyOutOfRange mv s).MemoryForm := by
  unfold evSupplyOutOfRange
  grind [State.trip_form]

theorem evThermalSample_form {s : State} (h : s.MemoryForm) (die c) : (evThermalSample die c s).MemoryForm := by
  unfold evThermalSample
  grind [State.updDie_form, State.trip_form]

end Sys2Proof.Proofs.MemoryForm
end

section
/-! PROOFS (O10): register writes keep the canonical form. -/

namespace Sys2Proof.Proofs.MemoryForm
open Sys2Proof Sys2Proof.Machine

theorem State.dieWrite_form {s : State} (h : s.MemoryForm) (d o v) : (s.dieWrite d o v).MemoryForm := by
  unfold State.dieWrite
  grind [evRegisterWrite_form, evRgctlWrite_form, evWatchWrite_form]

theorem State.modWrite_form {s : State} (h : s.MemoryForm) (o v) : (s.modWrite o v).MemoryForm := by
  unfold State.modWrite
  grind [evRegisterWrite_form]

theorem State.bar0Write_form {s : State} (h : s.MemoryForm) (fn off v) : (s.bar0Write fn off v).MemoryForm := by
  unfold State.bar0Write
  grind [evRegisterWrite_form, State.modWrite_form, State.dieWrite_form]

theorem State.fabricWrite_form {s : State} (h : s.MemoryForm) (off v) : (s.fabricWrite off v).MemoryForm := by
  unfold State.fabricWrite
  grind [evRegisterWrite_form, evFwtcntWrite_form, evCommcntWrite_form, evNetcntWrite_form, evTacccntWrite_form]

theorem State.bootWrite_form {s : State} (h : s.MemoryForm) (off v) : (s.bootWrite off v).MemoryForm := by
  unfold State.bootWrite
  grind [evNeg_form, evRegisterWrite_form, evRlbaseWrite_form]

theorem State.cfgWrite_form {s : State} (h : s.MemoryForm) (port boot off v) :
    (s.cfgWrite port boot off v).MemoryForm := by
  unfold State.cfgWrite
  grind [State.fabricWrite_form, State.bootWrite_form]

theorem evRegWrite_form {s : State} (h : s.MemoryForm) (r v) : (evRegWrite r v s).MemoryForm := by
  unfold evRegWrite
  grind [State.bar0Write_form, State.cfgWrite_form, evRegisterWrite_form]

end Sys2Proof.Proofs.MemoryForm
end

section
/-! PROOFS (O10): every instruction, every event and so every step keeps the canonical form. -/

namespace Sys2Proof.Proofs.MemoryForm
open Sys2Proof Sys2Proof.Machine

-- Instructions and events.

theorem next_form {t : State} (h : t.MemoryForm) : Res.Form (.next t) := by
  intro u hu
  cases hu
  exact h

/-- Every instruction and every event keeps the form: an event steps to a state with it, and an instruction is issued
with an effect that keeps it. -/
theorem exec_form {s : State} (h : s.MemoryForm) (i : Instr) : Res.Form (exec i s) := by
  cases i
  case braWhole => exact issue_form h fun _ _ => actBraWhole_form h ..
  case brxD => exact issue_form h fun _ _ => actBrx_form h ..
  case brxWhole => exact issue_form h fun _ _ => actBrxWhole_form h ..
  case call => exact issue_form h fun _ _ => actCall_form h ..
  case callX => exact issue_form h fun _ _ => actCallX_form h ..
  case ret => exact issue_form h fun _ _ => actRet_form h ..
  case fcs => exact issue_form h fun _ _ => actFcs_form h ..
  case exit => exact issue_form h fun _ _ => actExit_form h ..
  case pswp => exact issue_form h fun _ _ => actPswp_form h ..
  case compactReturn => exact next_form (evCompactReturn_form h ..)
  case vsortAsc => exact issue_form h fun _ _ => actVsort_form h ..
  case vsortDesc => exact issue_form h fun _ _ => actVsort_form h ..
  case ld => exact issue_form h fun _ _ => actLd_form h ..
  case st => exact issue_form h fun _ _ => actSt_form h ..
  case ldc => exact issue_form h fun _ _ => actLdc_form h ..
  case stc => exact issue_form h fun _ _ => actStc_form h ..
  case spill => exact issue_form h fun _ _ => actSpill_form h ..
  case fill => exact issue_form h fun _ _ => actSpill_form h ..
  case atomXchg => exact issue_form h fun _ _ => actAtom_form h ..
  case atomAdd => exact issue_form h fun _ _ => actAtom_form h ..
  case atomAnd => exact issue_form h fun _ _ => actAtom_form h ..
  case atomOr => exact issue_form h fun _ _ => actAtom_form h ..
  case atomXor => exact issue_form h fun _ _ => actAtom_form h ..
  case atomMin => exact issue_form h fun _ _ => actAtom_form h ..
  case atomMax => exact issue_form h fun _ _ => actAtom_form h ..
  case atomFadd => exact issue_form h fun _ _ => actAtom_form h ..
  case atomFmin => exact issue_form h fun _ _ => actAtom_form h ..
  case atomFmax => exact issue_form h fun _ _ => actAtom_form h ..
  case cas => exact issue_form h fun _ _ => actCas_form h ..
  case atmsAdd => exact issue_form h fun _ _ => actAtms_form h ..
  case atmsMin => exact issue_form h fun _ _ => actAtms_form h ..
  case atmsMax => exact issue_form h fun _ _ => actAtms_form h ..
  case atmsXchg => exact issue_form h fun _ _ => actAtms_form h ..
  case atmsFadd => exact issue_form h fun _ _ => actAtms_form h ..
  case atmsCas => exact issue_form h fun _ _ => actAtmsCas_form h ..
  case mredLine => exact issue_form h fun _ _ => actMred_form h ..
  case mredRet => exact issue_form h fun _ _ => actMred_form h ..
  case pfL1 => exact issue_form h fun _ _ => actPf_form h ..
  case pfL2 => exact issue_form h fun _ _ => actPf_form h ..
  case pfMsc => exact issue_form h fun _ _ => actPf_form h ..
  case cmntWb => exact issue_form h fun _ _ => actCmnt_form h (fun _ _ _ hs => State.maintain_form hs ..) ..
  case cmntInv => exact issue_form h fun _ _ => actCmnt_form h (fun _ _ _ hs => State.maintain_form hs ..) ..
  case cmntIc => exact issue_form h fun _ _ => actCmnt_form h (fun _ _ _ hs => State.icDrop_form hs ..) ..
  case tierPin => exact issue_form h fun _ _ => actTier_form h ..
  case tierUnpin => exact issue_form h fun _ _ => actTier_form h ..
  case tierPromoteHint => exact issue_form h fun _ _ => actTier_form h ..
  case tierDemote => exact issue_form h fun _ _ => actTier_form h ..
  case tierStatusReturn => exact next_form (evTierStatusReturn_form h ..)
  case fnc => exact issue_form h fun _ _ => actFnc_form h ..
  case mma => exact issue_form h fun _ _ => actMma_form h ..
  case mlutB => exact issue_form h fun _ _ => actMlutB_form h ..
  case mlutA => exact issue_form h fun _ _ => actMlutA_form h ..
  case cnalAlloc => exact issue_form h fun _ _ => actAlloc_form h ..
  case cnalGrow => exact issue_form h fun _ _ => actGrow_form h ..
  case cnalGrowW => exact issue_form h fun _ _ => actGrow_form h ..
  case canvasGrowGrant => exact next_form (evCanvasGrowGrant_form h ..)
  case cnalFree => exact issue_form h fun _ _ => actCnFree_form h ..
  case cnalTrim => exact issue_form h fun _ _ => actTrim_form h ..
  case cnz => exact issue_form h fun _ _ => actCnz_form h ..
  case cnldMem => exact issue_form h fun _ _ => actCnldMem_form h ..
  case cnldReg => exact issue_form h fun _ _ => actCnldReg_form h ..
  case cnstMem => exact issue_form h fun _ _ => actCnstMem_form h ..
  case cnstReg => exact issue_form h fun _ _ => actCnstReg_form h ..
  case cnrowMax => exact issue_form h fun _ _ => actRowGet_form h ..
  case cnrowSum => exact issue_form h fun _ _ => actRowGet_form h ..
  case cnrowScl => exact issue_form h fun _ _ => actRowScl_form h ..
  case cnrowCscl => exact issue_form h fun _ _ => actRowCscl_form h ..
  case mwait => exact issue_form h fun _ _ => actMwait_form h ..
  case mwaitM => exact issue_form h fun _ _ => actMwait_form h ..
  case easelGrant => exact next_form (evEaselGrant_form h ..)
  case easelOpComplete => exact next_form (evEaselOpComplete_form h ..)
  case acpy => exact issue_form h fun _ _ => actAcpy_form h ..
  case agth => exact issue_form h fun _ _ => actGth_form h ..
  case asct => exact issue_form h fun _ _ => actGth_form h ..
  case copyComplete => exact next_form (evCopyComplete_form h ..)
  case tkwAll => exact issue_form h fun _ _ => actTkw_form h ..
  case tkwAny => exact issue_form h fun _ _ => actTkw_form h ..
  case tkt => exact issue_form h fun _ _ => actTkt_form h ..
  case tktErr => exact issue_form h fun _ _ => actTkt_form h ..
  case tktSt => exact issue_form h fun _ _ => actTktSt_form h ..
  case evq => exact issue_form h fun _ _ => actEvq_form h ..
  case eventRecordTake => exact next_form (evEventRecordTake_form h ..)
  case acolAllred => exact issue_form h fun _ _ => actAcol_form h ..
  case acolAllgath => exact issue_form h fun _ _ => actAcol_form h ..
  case acolRedscat => exact issue_form h fun _ _ => actAcol_form h ..
  case collectiveComplete => exact next_form (evCollectiveComplete_form h ..)
  case barArrive => exact issue_form h fun _ _ => actBar_form h ..
  case barWait => exact issue_form h fun _ _ => actBar_form h ..
  case barSync => exact issue_form h fun _ _ => actBar_form h ..
  case barrierArrivalForward => exact next_form (evBarrierArrivalForward_form h ..)
  case gate => exact issue_form h fun _ _ => actGate_form h ..
  case rels => exact issue_form h fun _ _ => actRels_form h ..
  case rtskSpawn => exact issue_form h fun _ _ => actSpawn_form h ..
  case rtskDone => exact issue_form h fun _ _ => actDone_form h ..
  case susp => exact issue_form h fun _ _ => actSusp_form h ..
  case resm => exact issue_form h fun _ _ => actResm_form h ..
  case resmJoin => exact issue_form h fun _ _ => actResm_form h ..
  case ccpy => exact issue_form h fun _ _ => actCcpy_form h ..
  case cdsc => exact issue_form h fun _ _ => actCdsc_form h ..
  case csrRd => exact issue_form h fun _ _ => actCsr_form h ..
  case csrWr => exact issue_form h fun _ _ => actCsr_form h ..
  case csrSet => exact issue_form h fun _ _ => actCsr_form h ..
  case csrClr => exact issue_form h fun _ _ => actCsr_form h ..
  case rte => exact issue_form h fun _ _ => actRte_form h ..
  case rteNx => exact issue_form h fun _ _ => actRteNx_form h ..
  case stop => exact issue_form h fun _ _ => actStop_form h ..
  case unassignedOpcode => exact next_form (evIllegal_form h ..)
  case renewReceive => exact next_form (evRenewReceive_form h ..)
  case claimReceive => exact next_form (evClaimReceive_form h ..)
  case resultReturn => exact next_form (evResultReturn_form h ..)
  case trapEntry => exact next_form (evTrapEntry_form h ..)
  case groupStateLost => exact next_form (evGroupStateLost_form h ..)
  case regfileError => exact next_form (evRegfileError_form h ..)
  case memoryUnitError => exact next_form (evMemoryUnitError_form h ..)
  case groupRetire => exact next_form (evGroupRetire_form h ..)
  case launch => exact next_form (evLaunch_form h ..)
  case destroy => exact next_form (evDestroy_form h ..)
  case destroyF => exact next_form (evDestroy_form h ..)
  case preempt => exact next_form (evPreempt_form h ..)
  case cutWrite => exact next_form (evCutWrite_form h ..)
  case restore => exact next_form (evRestore_form h ..)
  case gridDispatchStart => exact next_form (evGridDispatchStart_form h ..)
  case fairShareCharge => exact next_form (evFairShareCharge_form h ..)
  case workRequest => exact next_form (evWorkRequest_form h ..)
  case teamPrepare => exact next_form (evTeamPrepare_form h ..)
  case teamRunnable => exact next_form (evTeamRunnable_form h ..)
  case gridComplete => exact next_form (evGridComplete_form h ..)
  case mredPacketApply => exact next_form (evMredPacketApply_form h ..)
  case tierPromote => exact next_form (evTierPromote_form h ..)
  case tierPromotionComplete => exact next_form (evTierPromotionComplete_form h ..)
  case tierDemotionComplete => exact next_form (evTierDemotionComplete_form h ..)
  case tierFailure => exact next_form (evTierFailure_form h ..)
  case read => exact next_form (State.portPacket_form h ..)
  case write => exact next_form (State.portPacket_form h ..)
  case atomic => exact next_form (State.portPacket_form h ..)
  case reduce => exact next_form (State.portPacket_form h ..)
  case status => exact next_form (evStatus_form h ..)
  case packetReply => exact next_form (evPacketReply_form h ..)
  case backoffWindowEnd => exact next_form (evBackoffWindowEnd_form h ..)
  case rgctlWrite => exact next_form (evRgctlWrite_form h ..)
  case watchWrite => exact next_form (evWatchWrite_form h ..)
  case registerWrite => exact next_form (evRegWrite_form h ..)
  case meshFlitRetry => exact next_form (evMeshFlitRetry_form h ..)
  case updateApply => exact next_form (evUpdateApply_form h ..)
  case guestInvalidate => exact next_form (evGuestInvalidate_form h ..)
  case linkFail => exact next_form (evLinkFail_form h ..)
  case meshLaneSpare => exact next_form (evMeshLaneSpare_form h ..)
  case hostSnoop => exact next_form (evHostSnoop_form h ..)
  case hostMemRequest => exact next_form (evHostMemRequest_form h ..)
  case backInvalidate => exact next_form (evBackInvalidate_form h ..)
  case targetLost => exact next_form (evTargetLost_form h ..)
  case fwtcntWrite => exact next_form (evFwtcntWrite_form h ..)
  case commcntWrite => exact next_form (evCommcntWrite_form h ..)
  case netcntWrite => exact next_form (evNetcntWrite_form h ..)
  case tacccntWrite => exact next_form (evTacccntWrite_form h ..)
  case data => exact next_form (evData_form h ..)
  case ack => exact next_form (evAck_form h ..)
  case nack => exact next_form (evNack_form h ..)
  case abort => exact next_form (evAbort_form h ..)
  case resendTimeout => exact next_form (evResendTimeout_form h ..)
  case doorbell => exact next_form (evDoorbell_form h ..)
  case taskSigned => exact next_form (evTaskSigned_form h ..)
  case taskAck => exact next_form (evTaskAck_form h ..)
  case taskPacket => exact next_form (evTaskPacket_form h ..)
  case extentGrant => exact next_form (evExtentGrant_form h ..)
  case extentRelease => exact next_form (evExtentRelease_form h ..)
  case tlbiCtx => exact next_form (evTlbiCtx_form h ..)
  case tlbiVa => exact next_form (evTlbiVa_form h ..)
  case ctxsync => exact next_form (evCtxsync_form h ..)
  case dbgrel => exact next_form (evDbgrel_form h ..)
  case report => exact next_form (evReport_form h ..)
  case tlbiS2 => exact next_form (evTlbiS2_form h ..)
  case vdreset => exact next_form (evVdreset_form h ..)
  case vdsave => exact next_form (evVdsave_form h ..)
  case vdload => exact next_form (evVdload_form h ..)
  case keygen => exact next_form (evKeygen_form h ..)
  case vdEnable => exact next_form (evVdEnable_form h ..)
  case remapUnmask => exact next_form (evRemapUnmask_form h ..)
  case powerOn => exact next_form (evPowerOn_form h ..)
  case trainingComplete => exact next_form (evTrainingComplete_form h ..)
  case neg => exact next_form (evNeg_form h ..)
  case recoveryImage => exact next_form (evRecoveryImage_form h ..)
  case svnRaise => exact next_form (evSvnRaise_form h ..)
  case rlbaseWrite => exact next_form (evRlbaseWrite_form h ..)
  case renew => exact next_form (evRenew_form h ..)
  case leaseLapse => exact next_form (evLeaseLapse_form h ..)
  case claim => exact next_form (evClaim_form h ..)
  case viral => exact next_form (evViral_form h ..)
  case clusterRepair => exact next_form (evClusterRepair_form h ..)
  case rowRepair => exact next_form (evRowRepair_form h ..)
  case pseudoChannelRepair => exact next_form (evPseudoChannelRepair_form h ..)
  case dataRateChange => exact next_form (evDataRateChange_form h ..)
  case getCertificate => exact next_form (evGetCertificate_form h ..)
  case challenge => exact next_form (evChallenge_form h ..)
  case getMeasurements => exact next_form (evGetMeasurements_form h ..)
  case lmsTranscriptSignature => exact next_form (evLmsTranscriptSignature_form h ..)
  case powerCapSet => exact next_form (evPowerCapSet_form h ..)
  case powerSample => exact next_form (evPowerSample_form h ..)
  case supplyOutOfRange => exact next_form (evSupplyOutOfRange_form h ..)
  case thermalSample => exact next_form (evThermalSample_form h ..)
  case cxlPortDown => exact next_form (evCxlPortDown_form h ..)
  case cxlPortUp => exact next_form (evCxlPortUp_form h ..)
  case leaderLeaseEnd => exact next_form (evLeaderLeaseEnd_form h ..)
  case backInvalidateResponse => exact next_form (evBackInvalidateResponse_form h ..)
  case notifyWrite => exact next_form (evNotifyWrite_form h ..)
  case canvasEntryError => exact next_form (evCanvasEntryError_form h ..)
  case teamStoreError => exact next_form (evTeamStoreError_form h ..)
  case braD => exact issue_form h fun _ _ => braSplit_form h ..
  case braEj => exact issue_form h fun _ _ => braSplit_form h ..
  case nop k => exact issue_form (f := fun _ _ s => .done s) h fun _ _ => h
  case trap k => exact issue_form (f := fun _ _ s => .trap s (softTrap 0x0D k)) h fun _ _ => h
  case brkp k => exact issue_form (f := fun _ _ s => .trap s (softTrap 0x0E k)) h fun _ _ => h
  all_goals exact issue_form h fun _ _ => runG_form h ..

/-- A change of state that keeps the form. -/
def Keeps (f : State → State) : Prop := ∀ s : State, s.MemoryForm → (f s).MemoryForm

-- The device's own steps.

/-- Every change of a list keeps the form. -/
def AllKeep (fs : List (State → State)) : Prop := ∀ f ∈ fs, Keeps f

theorem AllKeep.nil : AllKeep [] := by
  intro f hf
  cases hf

theorem AllKeep.cons {f : State → State} {fs : List (State → State)} (h : Keeps f) (hs : AllKeep fs) : AllKeep (f ::
    fs) := by
  intro g hg
  obtain rfl | hg := List.mem_cons.mp hg
  · exact h
  · exact hs g hg

theorem AllKeep.single {f : State → State} (h : Keeps f) : AllKeep [f] := .cons h .nil

theorem AllKeep.append {fs gs : List (State → State)} (hf : AllKeep fs) (hg : AllKeep gs) : AllKeep (fs ++ gs) :=
  fun f h => (List.mem_append.mp h).elim (hf f) (hg f)

theorem AllKeep.map {α : Type} {f : α → State → State} (hf : ∀ x, Keeps (f x)) (xs : List α) : AllKeep (xs.map f) :=
    by
  intro g hg
  obtain ⟨x, -, rfl⟩ := List.mem_map.mp hg
  exact hf x

theorem AllKeep.flatMap {α : Type} {f : α → List (State → State)} (hf : ∀ x, AllKeep (f x)) (xs : List α) :
    AllKeep (xs.flatMap f) := by
  intro g hg
  obtain ⟨x, -, hx⟩ := List.mem_flatMap.mp hg
  exact hf x g hx

theorem AllKeep.ite {p : Prop} {_ : Decidable p} {fs gs : List (State → State)} (hf : AllKeep fs) (hg : AllKeep gs) :
    AllKeep (if p then fs else gs) := by
  split <;> assumption

theorem cmdEvent_keeps (op : Nat) (c : OwnCmd) : Keeps (cmdEvent op c) := by
  unfold cmdEvent
  split
  · exact fun _ h => evTlbiCtx_form h ..
  · exact fun _ h => evTlbiVa_form h ..
  · exact fun _ h => evCtxsync_form h ..
  · exact fun _ h => evDbgrel_form h ..
  · exact fun _ h => evReport_form h ..
  · exact fun _ h => evTlbiS2_form h ..
  · exact fun _ h => evVdreset_form h ..
  · exact fun _ h => evVdsave_form h ..
  · exact fun _ h => evVdload_form h ..
  · exact fun _ h => evKeygen_form h ..
  · exact fun _ h => evBadCmd_form h ..

theorem pktEvent_keeps (w : NotifyWr) : Keeps (pktEvent w) := by
  unfold pktEvent
  split
  · exact fun _ h => evLaunch_form h ..
  · exact fun _ h => evDestroy_form h ..
  · exact fun _ h => evDestroy_form h ..
  · exact fun _ h => evPreempt_form h ..
  · exact fun _ h => evRestore_form h ..

theorem dueOwner_keeps (s : State) : AllKeep s.dueOwner := by
  refine .append (.flatMap (fun v => .append (.append ?_ ?_) (.map pktEvent_keeps _)) _)
    (.map (fun c _ h => evCutWrite_form h ..) _)
  · split
    · exact .single (cmdEvent_keeps _ _)
    · exact .nil
  · exact .ite (.single fun _ h => evFlr_form h ..) .nil

theorem qEvent_keeps (k : Nat) (x : Nat × BasePkt) : Keeps (fun s =>
    if qKind x.1 == 5 then evStatus (k / 2) (k % 2) x.2 s
    else s.portPacket (qKind x.1) (k / 2) (k % 2) x.2) :=
  fun _ h => ite_form (evStatus_form h ..) (State.portPacket_form h ..)

theorem portEvents_keep (k : Nat × Stack) : AllKeep (
    k.2.q.map (fun x s => if qKind x.1 == 5 then evStatus (k.1 / 2) (k.1 % 2) x.2 s
                          else s.portPacket (qKind x.1) (k.1 / 2) (k.1 % 2) x.2) ++
    (match k.2.replies with | r :: _ => [evPacketReply (k.1 / 2) (k.1 % 2) r.2.1.tag] | [] => []) ++
    (SMap.keys k.2.wins).map (fun b => evBackoffWindowEnd (k.1 / 2) (k.1 % 2) b)) := by
  refine .append (.append (.map (qEvent_keeps k.1) _) ?_) (.map (fun b _ h => evBackoffWindowEnd_form h ..) _)
  split
  · exact .single fun _ h => evPacketReply_form h ..
  · exact .nil

theorem tierEvents_keep (v : Nat × Vd) : AllKeep (v.2.objs.flatMap (fun o =>
    (if o.2.waiters.isEmpty && o.2.queue.isEmpty then [] else [evTierPromote v.1 o.1]) ++
    [evTierPromotionComplete v.1 o.1, evTierDemotionComplete v.1 o.1])) := by
  refine .flatMap (fun o => .append (.ite .nil (.single ?_)) (.cons ?_ (.single ?_))) _
  · exact fun _ h => evTierPromote_form h ..
  · exact fun _ h => evTierPromotionComplete_form h ..
  · exact fun _ h => evTierDemotionComplete_form h ..

theorem dueMemory_keeps (s : State) : AllKeep s.dueMemory := by
  unfold State.dueMemory
  refine .append (.append (.flatMap (fun d => ?_) _) (.flatMap portEvents_keep _)) (.flatMap tierEvents_keep _)
  exact .map (fun i _ h => evUpdateApply_form h ..) _

theorem dueRepairs_keeps (s : State) : AllKeep s.dueRepairs := by
  refine .append ?_ ?_
  · exact .map (fun c _ h => evClusterRepair_form h ..) _
  · refine .flatMap (fun k => .append ?_ ?_) _
    · exact .map (fun r _ h => evRowRepair_form h ..) _
    · exact .map (fun p _ h => evPseudoChannelRepair_form h ..) _

theorem dueGroups_keeps (s : State) : AllKeep s.dueGroups := by
  refine .flatMap (fun g => .append (.ite .nil (.single ?_)) (.cons ?_ (.single ?_))) _
  · exact fun _ h => evResultReturn_form h ..
  · exact fun _ h => evCompactReturn_form h ..
  · exact fun _ h => evGroupRetire_form h ..

theorem dueEngines_keeps (s : State) : AllKeep s.dueEngines := by
  refine .append (.append (.append (.append (.append ?_ ?_) ?_) ?_) ?_) ?_
  · refine .flatMap (fun o => ?_) _
    split
    · exact .single fun _ h => evCopyComplete_form h ..
    · exact .map (fun j _ h => evMredPacketApply_form h ..) _
  · exact .map (fun o _ h => evTierStatusReturn_form h ..) _
  · refine .flatMap (fun c => .append (.append (.ite .nil (.cons ?_ (.single ?_))) (.ite .nil (.single ?_)))
      (.ite .nil (.single ?_))) _
    · exact fun _ h => evEaselGrant_form h ..
    · exact fun _ h => evEaselOpComplete_form h ..
    · exact fun _ h => evCanvasGrowGrant_form h ..
    · exact fun _ h => evEventRecordTake_form h ..
  · exact .flatMap (fun c => .map (fun r _ h => evCollectiveComplete_form h ..) _) _
  · exact .map (fun t _ h => evTaskSigned_form h ..) _
  · exact .ite .nil (.single fun _ h => State.taskDrain_form h ..)

theorem dueGrids_keeps (s : State) : AllKeep s.dueGrids := by
  refine .append (.append ?_ ?_) ?_
  · refine .flatMap (fun g => .append (.cons ?_ (.single ?_)) (.map ?_ _)) _
    · exact fun _ h => evGridDispatchStart_form h ..
    · exact fun _ h => evGridComplete_form h ..
    · exact fun n _ h => evBarrierArrivalForward_form h ..
  · exact .map (fun c _ h => evTeamRunnable_form h ..) _
  · refine .flatMap (fun d => .ite .nil (.append (.append ?_ ?_) ?_)) _
    · exact .map (fun c _ h => evTeamPrepare_form h ..) _
    · exact .ite (.map (fun k _ h => evWorkRequest_form h ..) _) .nil
    · exact .ite (.map (fun c _ h => evWorkRequest_form h ..) _) .nil

theorem firstEvent_form {s t : State} (h : s.MemoryForm) (fs : List (State → State)) (hf : AllKeep fs)
    (ht : firstEvent s fs = some t) : t.MemoryForm := by
  induction fs with
  | nil => cases ht
  | cons f fs ih =>
    unfold firstEvent at ht
    have hs := hf f (List.mem_cons_self ..) s h
    have hr : AllKeep fs := fun k hk => hf k (List.mem_cons_of_mem f hk)
    grind

theorem mem_rotated {α : Type} {k : Nat} {l : List α} {x : α} (h : x ∈ rotated k l) : x ∈ l := by
  unfold rotated at h
  exact (List.mem_append.mp h).elim List.mem_of_mem_drop List.mem_of_mem_take

theorem State.autoEvent_form {s t : State} (h : s.MemoryForm) (ht : s.autoEvent = some t) : t.MemoryForm := by
  unfold State.autoEvent at ht
  split at ht
  · cases ht
    exact evPowerOn_form h
  · refine firstEvent_form h _ (fun f hf => ?_) ht
    obtain ⟨l, hl, hfl⟩ := List.mem_flatMap.mp hf
    have hl' := mem_rotated hl
    have hf' := mem_rotated hfl
    simp only [List.mem_cons, List.not_mem_nil, or_false] at hl'
    rcases hl' with rfl | rfl | rfl | rfl | rfl | rfl
    · exact dueOwner_keeps s f hf'
    · exact dueMemory_keeps s f hf'
    · exact dueRepairs_keeps s f hf'
    · exact dueGroups_keeps s f hf'
    · exact dueEngines_keeps s f hf'
    · exact dueGrids_keeps s f hf'

-- Issue and steps.

theorem State.issueGroup_form {s : State} (h : s.MemoryForm) (gid : Nat) : Res.Form (s.issueGroup gid) := by
  unfold State.issueGroup
  split
  · exact next_form h
  · next g _ =>
    split
    · exact next_form h
    · split
      · exact next_form (takeTrap_form h ..)
      · have hf := State.fetch_form h g gid g.runPc
        extract_lets f
        split
        · next ws _ =>
          have he := exec_form (s := { f.1 with cur := some gid }) hf (decodeWords ws)
          split
          · next t ht => exact next_form (he t ht)
          · intro u hu
            cases hu
          · intro u hu
            cases hu
        · exact next_form (State.fetchTrap_form hf ..)
        · exact next_form (State.tierWait_form hf ..)

theorem State.takeTurn_form {s : State} (h : s.MemoryForm) (c gid : Nat) : (s.takeTurn c gid).MemoryForm := h

theorem State.issueTurn_form {s : State} (h : s.MemoryForm) (gid : Nat) : Res.Form (s.issueTurn gid) := by
  unfold State.issueTurn
  split
  · exact next_form h
  · split
    · exact State.issueGroup_form (State.takeTurn_form h ..) gid
    · exact next_form h

theorem State.issueNext_form {s : State} (h : s.MemoryForm) {r : Res} (hr : s.issueNext = some r) : Res.Form r := by
  obtain ⟨x, -, rfl⟩ := Option.map_eq_some_iff.mp hr
  split
  · split
    · exact State.issueGroup_form (update_form (State.takeTurn_form h ..) ..) _
    · exact next_form (State.updGroup_form h ..)
  · exact next_form h

theorem State.idleStep_form {s : State} (h : s.MemoryForm) : Res.Form s.idleStep := by
  unfold State.idleStep
  extract_lets s1
  have h1 : s1.MemoryForm := ite_form (State.chargeAll_form h) h
  clear_value s1
  have ha := fun t ht => State.autoEvent_form (t := t) h1 ht
  have hi := fun r hr => State.issueNext_form h1 (r := r) hr
  split
  · cases he : s1.autoEvent with
    | some t => exact next_form (ha t he)
    | none =>
      cases hr : s1.issueNext with
      | some r => exact hi r hr
      | none => exact next_form h1
  · cases hr : s1.issueNext with
    | some r => exact hi r hr
    | none =>
      cases he : s1.autoEvent with
      | some t => exact next_form (ha t he)
      | none => exact next_form h1

theorem State.move_form {s : State} (h : s.MemoryForm) (m : Move) : Res.Form (s.move m) := by
  cases m with
  | issue gid => exact State.issueTurn_form h gid
  | part gid k =>
    have hi := State.issueTurn_form (s := { s with lim := some k }) h gid
    unfold State.move
    dsimp only
    split
    · next t ht => exact next_form (update_form (hi t ht) ..)
    · exact hi
  | event i => exact exec_form (s := { s with cur := none }) h i

theorem step_form {s : State} (h : s.MemoryForm) : Res.Form (step s) := by
  unfold step
  split
  · intro u hu
    cases hu
  · split
    · exact State.move_form (update_form h ..) _
    · exact State.idleStep_form (update_form h ..)

/-- Settles O10: every function that a step is made of keeps the form, from the writes of memory up. -/
theorem stepKeepsMemoryForm : Obligations.StepKeepsMemoryForm := fun _ t h ht => step_form h t ht

end Sys2Proof.Proofs.MemoryForm
end

section
/-! PROOFS. System instructions: `nop`, `stop`, `csr`, and the instructions and events whose effect is a trap. -/

namespace Sys2Proof.Proofs.System
open Sys2Proof Sys2Proof.Machine

-- What an issuing instruction sees of its group (R93).

theorem seen_pend (g : Group) : g.seen.pend = g.pend := by
  unfold Group.seen
  cases g.held <;> rfl

theorem seen_inH (g : Group) : g.seen.inH = g.inH := by
  unfold Group.seen
  cases g.held <;> rfl

/-- What a held copy may change of a lane. -/
theorem seen_lane (g : Group) (l : Nat) :
    ({ g.seen.lane l with v := [], pr := 0 } : Lane) = { g.lane l with v := [], pr := 0 } := by
  unfold Group.seen Group.lane
  cases g.held with
  | none => rfl
  | some h =>
    simp only [List.getD_eq_getElem?_getD, List.getElem?_map, List.getElem?_zipIdx]
    cases g.lanes[l]? <;> rfl

theorem seen_vlane (g : Group) (l : Nat) : g.seen.vlane l = g.vlane l := by
  have h : (g.seen.lane l).home = (g.lane l).home := congrArg (fun x => x.home) (seen_lane g l)
  unfold Group.vlane
  rw [h]

/-- Settles O37: the effect of each is read off once it is issued. -/
theorem nopsAndStops : Obligations.NopsAndStops := by
  intro k s gid g h
  refine ⟨issue_runs _ _ _ (fun _ _ s => .done s) _ _ _ h, fun hd => ?_, fun hd => ?_⟩
  all_goals
    refine (issue_runs _ _ _ actStop _ _ _ h).trans ?_
    unfold actStop
    rw [hd]
    rfl

-- Traps.

theorem illegal_unassigned (w0 w1 : Word) : illegal (.unassignedOpcode w0 w1) = ⟨1, w1 ++ w0, 0⟩ := rfl

/-- Settles O39: an instruction that traps takes its trap, and so does the event of a raised cause. -/
theorem trapInstructions : Obligations.TrapInstructions := by
  refine ⟨fun k s gid g h => ⟨?_, ?_⟩, fun w0 w1 s gid hc => ?_, fun gid cause tval tvalh s g hg hr hc => ?_⟩
  · exact issue_runs _ _ _ (fun _ _ s => .trap s (softTrap 0x0D k)) _ _ _ h
  · exact issue_runs _ _ _ (fun _ _ s => .trap s (softTrap 0x0E k)) _ _ _ h
  · show Host.Outcome.next (evIllegal _ s) = _
    unfold evIllegal
    rw [hc, illegal_unassigned]
  · show Host.Outcome.next (evTrapEntry gid cause tval tvalh s) = _
    have hr' : (g.runMask != 0) = true := bne_iff_ne.mpr hr
    unfold evTrapEntry
    simp only [hg, hc, hr', Bool.and_self, if_true]

-- Control registers.

theorem actCsr_unnamed {f : Option (Nat → Nat → Nat)} {i : Instr} {x : CsrArgs} {gid : Nat} {c : GCtx} {s : State}
    (h : Csr.ofNum x.num = none) : actCsr f i x gid c s = .trap s (illegal i) := by
  unfold actCsr
  rw [h]

theorem actCsr_read {i : Instr} {x : CsrArgs} {gid : Nat} {c : GCtx} {s : State} {r : Csr}
    (h : Csr.ofNum x.num = some r) (hp : c.g.pend = []) :
    actCsr none i x gid c s =
      .done ((s.csrClock c.g r).1.commit gid (csrOut x r c (s.csrClock c.g r).1 (s.csrClock c.g r).2)) := by
  unfold actCsr
  rw [h]
  simp [hp]

theorem actCsr_refused {f : Nat → Nat → Nat} {i : Instr} {x : CsrArgs} {gid : Nat} {c : GCtx} {s : State} {r : Csr} {l0 : Nat}
    {ls : List Nat} (h : Csr.ofNum x.num = some r) (hp : c.g.pend = []) (hl : c.ls = l0 :: ls)
    (hr : (Csr.ro r || (Csr.hOnly r && !c.g.inH)) = true) : actCsr (some f) i x gid c s = .trap s (privilege i) := by
  unfold actCsr
  rw [h]
  simp [hp, hl, hr]

/-- A write that the register allows, by register. -/
theorem actCsr_write {f : Nat → Nat → Nat} {i : Instr} {x : CsrArgs} {gid : Nat} {c : GCtx} {s : State} {r : Csr} {l0 : Nat}
    {ls : List Nat} (h : Csr.ofNum x.num = some r) (hp : c.g.pend = []) (hl : c.ls = l0 :: ls)
    (hr : (Csr.ro r || (Csr.hOnly r && !c.g.inH)) = false) (hc : c.consume [(x.a, r.regs)] c.ls = none) :
    let new (l src : Nat) : Nat := f (s.csrVal c.g 0 r l) (c.data x.a src r.regs)
    let s1 := s.commit gid (csrOut x r c s 0)
    (r = .rng → actCsr (some f) i x gid c s = .done (s1.updGroup gid (fun g1 =>
      (if c.k.u then (maskLanes c.run).map (fun l => (l, l0)) else c.ls.map (fun l => (l, l))).foldl
        (fun g2 l => g2.updLane l.1 (fun y => { y with rng := rngWrite (new l.1 l.2) })) g1))) ∧
    (r = .fflags → actCsr (some f) i x gid c s = .done (s1.setFlags gid c.g (BitVec.ofNat 5 (new l0 l0)))) ∧
    (r = .lst → actCsr (some f) i x gid c s = .jump
      ((s1.updGroup gid (fun g1 => (g1.settleResults).advance c.run c.k)).lstateWrite gid c.g (new l0 l0))) ∧
    (r ≠ .rng → r ≠ .fflags → r ≠ .lst →
      actCsr (some f) i x gid c s = .done (s1.updGroup gid (fun g1 => g1.setCsr r (new l0 l0)))) := by
  intro new s1
  unfold actCsr
  rw [h]
  rw [hl] at hc ⊢
  simp only [hp, hr, hc, List.isEmpty_nil, Bool.not_true, Bool.false_eq_true, if_false]
  cases r
  case rng => exact ⟨fun _ => rfl, fun h => (nomatch h), fun h => (nomatch h), fun h => absurd rfl h⟩
  case fflags => exact ⟨fun h => (nomatch h), fun _ => rfl, fun h => (nomatch h), fun _ h => absurd rfl h⟩
  case lst => exact ⟨fun h => (nomatch h), fun h => (nomatch h), fun _ => rfl, fun _ _ h => absurd rfl h⟩
  all_goals exact ⟨fun h => (nomatch h), fun h => (nomatch h), fun h => (nomatch h), fun _ _ _ => rfl⟩

/-- Settles O36: a number that names no register, a read, a refused write, and a write, one after the other. -/
theorem controlRegisters : Obligations.ControlRegisters := by
  intro x s gid g c forms hi
  have hrd := issue_runs (.csrRd x) x.k (csrRs x) (actCsr none (.csrRd x) x) s gid g hi
  have hwr := fun f i => issue_runs i x.k (csrRs x) (actCsr (some f) i x) s gid g hi
  refine ⟨fun hn i hm => ?_, fun r hr hp => ?_⟩
  · have key : ∀ f i, finish s gid c (actCsr f i x gid c s) = takeTrap s gid (illegal i) := fun f i => by
      rw [actCsr_unnamed hn]
      rfl
    simp only [List.mem_cons, List.not_mem_nil, or_false] at hm
    obtain rfl | rfl | rfl | rfl := hm
    · exact hrd.trans (congrArg _ (key _ _))
    · exact (hwr _ _).trans (congrArg _ (key _ _))
    · exact (hwr _ _).trans (congrArg _ (key _ _))
    · exact (hwr _ _).trans (congrArg _ (key _ _))
  · have hp' : c.g.pend = [] := (seen_pend g).trans hp
    have hH : c.g.inH = g.inH := seen_inH g
    refine ⟨hrd.trans ?_, fun i f hm l0 ls hl => ?_⟩
    · rw [actCsr_read hr hp']
      rfl
    · have hx : exec i s = .next (finish s gid c (actCsr (some f) i x gid c s)) := by
        simp only [forms, List.mem_cons, List.not_mem_nil, or_false, Prod.mk.injEq] at hm
        obtain ⟨rfl, rfl⟩ | ⟨rfl, rfl⟩ | ⟨rfl, rfl⟩ := hm
        · exact hwr _ _
        · exact hwr _ _
        · exact hwr _ _
      refine ⟨fun ht => ?_, fun ht hc => ?_⟩
      · rw [hx, actCsr_refused hr hp' hl (by rw [hH]; exact ht)]
        rfl
      · obtain ⟨h1, h2, h3, h4⟩ := actCsr_write (f := f) (i := i) (gid := gid) (s := s) hr hp' hl (by rw [hH]; exact ht) hc
        refine ⟨fun h => ?_, fun h => ?_, fun h => ?_, fun ha hb hc => ?_⟩
        · rw [hx, h1 h]
          rfl
        · rw [hx, h2 h]
          rfl
        · rw [hx, h3 h]
          rfl
        · rw [hx, h4 ha hb hc]
          rfl

end Sys2Proof.Proofs.System
end

section
/-! PROOFS. The values of the integer forms: elementwise arithmetic, shifts, truth tables, carries, compares, moves. -/

namespace Sys2Proof.Proofs.Integer
open Sys2Proof Sys2Proof.Machine

-- From a register form's computation to the registers it leaves.

/-- A register form whose computation always gives the writes `w` makes them. -/
theorem computes_of_regForm {s : State} {i : Instr} {k : Com} {rs : List (Opnd × Nat)} {b : GBody} {w : GCtx → List RegW}
    (hi : regForm i = some (k, rs, b)) (hb : ∀ c, c.k = k → b c = .ok (Out.of (w c))) : Computes s i k rs w := by
  intro gid g h
  obtain ⟨t, g', ht, hd⟩ := RegisterForms.registerFormsComplete i k rs b s gid g _ hi h (hb _ rfl)
  exact ⟨t, g', ht, hd.grp, hd.regs⟩

/-- One that consumes its operands makes its writes when none of them is poisoned. -/
theorem done_of_unpoisoned {s : State} {i : Instr} {k : Com} {rs os : List (Opnd × Nat)} {b : GBody} {w : List RegW}
    {gid : Nat} {g : Group} (hi : regForm i = some (k, rs, b)) (h : Issues s gid g k rs)
    (hb : b (GCtx.make g k) = (GCtx.make g k).unpoisoned os (Out.of w))
    (hc : (GCtx.make g k).consume os (GCtx.make g k).ls = none) :
    ∃ t g', exec i s = .next t ∧ SMap.get? t.groups gid = some g' ∧ g'.final = w.foldl RegW.onRegs g.final := by
  have hb' : b (GCtx.make g k) = .ok (Out.of w) := by
    rw [hb]
    unfold GCtx.unpoisoned
    rw [hc]
  obtain ⟨t, g', ht, hd⟩ := RegisterForms.registerFormsComplete i k rs b s gid g _ hi h hb'
  exact ⟨t, g', ht, hd.grp, hd.regs⟩

-- Elements.

theorem elem_testBit (w k x i : Nat) : (elem w k x).testBit i = (decide (i < w) && x.testBit (w * k + i)) := by
  unfold elem
  rw [Nat.testBit_mod_two_pow, Nat.testBit_div_two_pow, Nat.add_comm]

theorem elem_lt (w k x : Nat) : elem w k x < 2 ^ w := Nat.mod_lt _ (Nat.two_pow_pos w)

/-- The number whose elements of width `w` are `f 0` to `f (n - 1)`. -/
def packed (w : Nat) (f : Nat → Nat) (n : Nat) : Nat := (List.range n).foldl (fun r k => r + f k * 2 ^ (w * k)) 0

theorem packed_succ (w : Nat) (f : Nat → Nat) (n : Nat) : packed w f (n + 1) = packed w f n + f n * 2 ^ (w * n) := by
  unfold packed
  rw [List.range_succ, List.foldl_append]
  rfl

theorem packed_lt {w : Nat} {f : Nat → Nat} (hf : ∀ k, f k < 2 ^ w) (n : Nat) : packed w f n < 2 ^ (w * n) := by
  induction n with
  | zero => simp [packed]
  | succ n ih =>
    calc packed w f (n + 1) = packed w f n + f n * 2 ^ (w * n) := packed_succ w f n
      _ < 2 ^ (w * n) + f n * 2 ^ (w * n) := by omega
      _ = (f n + 1) * 2 ^ (w * n) := (Nat.add_comm ..).trans (Nat.succ_mul ..).symm
      _ ≤ 2 ^ w * 2 ^ (w * n) := Nat.mul_le_mul_right _ (hf n)
      _ = 2 ^ (w * (n + 1)) := by rw [← Nat.pow_add, Nat.mul_succ, Nat.add_comm]

theorem elem_packed {w : Nat} {f : Nat → Nat} (hf : ∀ k, f k < 2 ^ w) {n j : Nat} (hj : j < n) :
    elem w j (packed w f n) = f j := by
  refine Nat.eq_of_testBit_eq fun i => ?_
  rw [elem_testBit]
  by_cases hi : i < w
  · simp only [hi, decide_true, Bool.true_and]
    induction n with
    | zero => omega
    | succ n ih =>
      rw [packed_succ, Nat.add_comm, Nat.mul_comm, Nat.testBit_two_pow_mul_add _ (packed_lt hf n)]
      by_cases hn : j = n
      · subst hn
        rw [if_neg (Nat.not_lt.mpr (Nat.le_add_right ..)), Nat.add_sub_cancel_left]
      · have hlt : w * j + i < w * n := by
          calc w * j + i < w * j + w := by omega
            _ = w * (j + 1) := (Nat.mul_succ w j).symm
            _ ≤ w * n := Nat.mul_le_mul_left w (by omega)
        rw [if_pos hlt]
        exact ih (by omega)
  · have : f j < 2 ^ i := Nat.lt_of_lt_of_le (hf j) (Nat.pow_le_pow_right (by omega) (by omega))
    simp [hi, Nat.testBit_lt_two_pow this]

theorem elem_elemwise {ty : ITy} {f : Nat → Nat → Nat → Nat} (hf : ∀ a b c, f a b c < 2 ^ ty.width) (a b c : Nat) {j : Nat}
    (hj : j < ty.elems) :
    elem ty.width j (elemwise ty f a b c) = f (elem ty.width j a) (elem ty.width j b) (elem ty.width j c) :=
  elem_packed (f := fun k => f (elem ty.width k a) (elem ty.width k b) (elem ty.width k c)) (fun _ => hf _ _ _) hj

-- Arithmetic.

theorem wrap_lt (w : Nat) (v : Int) : wrap w v < 2 ^ w := by
  have hp : (0 : Int) < (2 ^ w : Nat) := Int.natCast_pos.mpr (Nat.two_pow_pos w)
  have h1 := Int.emod_lt_of_pos v hp
  have h2 := Int.emod_nonneg v (Int.ne_of_gt hp)
  unfold wrap
  omega

theorem wrap_cast (w : Nat) (v : Int) : ((wrap w v : Nat) : Int) = v % (2 ^ w : Nat) := by
  have h := Int.emod_nonneg v (b := (2 ^ w : Nat)) (Int.ne_of_gt (Int.natCast_pos.mpr (Nat.two_pow_pos w)))
  unfold wrap
  omega

theorem wrap_sub_emod (w : Nat) (v : Int) : (((wrap w v : Nat) : Int) - v) % (2 : Int) ^ w = 0 := by
  rw [wrap_cast]
  push_cast
  rw [Int.sub_emod, Int.emod_emod, Int.sub_self, Int.zero_emod]

theorem ITy.width_pos (ty : ITy) : 0 < ty.width := by cases ty <;> decide

/-- Reading back a wrapped value that lies in the type's range gives it. -/
theorem ival_wrap {ty : ITy} {v : Int} (h1 : intMin ty.signed ty.width ≤ v) (h2 : v ≤ intMax ty.signed ty.width) :
    ival ty (wrap ty.width v) = v := by
  have hc := wrap_cast ty.width v
  cases ty
  all_goals
    simp only [ival, intMin, intMax, toSigned, ITy.signed, ITy.width, if_true, if_false, Bool.false_eq_true] at h1 h2 hc ⊢
    omega

theorem intMin_le_intMax (ty : ITy) : intMin ty.signed ty.width ≤ intMax ty.signed ty.width := by
  have hp : 0 < 2 ^ (ty.width - 1) := Nat.two_pow_pos _
  have hq : 0 < 2 ^ ty.width := Nat.two_pow_pos _
  unfold intMin intMax
  split <;> omega

theorem clamp_eq {lo hi : Int} (h : lo ≤ hi) (v : Int) : clamp lo hi v = max lo (min hi v) := by
  unfold clamp
  split
  · omega
  · split <;> omega

theorem ival_reduce_sat (ty : ITy) (v : Int) : ival ty (reduce ty.signed ty.width true v) =
    max (intMin ty.signed ty.width) (min (intMax ty.signed ty.width) v) := by
  have h := intMin_le_intMax ty
  unfold reduce
  rw [if_pos rfl, clamp_eq h]
  exact ival_wrap (by omega) (by omega)

theorem reduce_lt (s : Bool) (w : Nat) (sat : Bool) (v : Int) : reduce s w sat v < 2 ^ w := wrap_lt w _

/-- What a form's own function `f'` may be for the rule's `f`: equal modulo 2^w, and equal under SAT. -/
def AgreesWith (x : IArgs) (f' f : Int → Int → Int → Int) : Prop :=
  ∀ a b c, (x.sat = false → (f' a b c - f a b c) % (2 : Int) ^ x.ty.width = 0) ∧ (x.sat = true → f' a b c = f a b c)

theorem AgreesWith.refl (x : IArgs) (f : Int → Int → Int → Int) : AgreesWith x f f := by
  intro a b c
  simp

/-- An elementwise form keeps its rule. -/
theorem arithRule_of_agrees {i : Instr} {x : IArgs} {nb nc : Nat} {f f' : Int → Int → Int → Int}
    (hi : regForm i = some (x.k, irs x x.ty.regs x.ty.regs nb nc, arith x nb nc f'))
    (hf : i.wf = true → AgreesWith x f' f) : ArithRule i x nb nc f := by
  intro hw s
  refine ⟨fun c l => elemwise x.ty (fun a b c => reduce x.ty.signed x.ty.width x.sat (f' (ival x.ty a) (ival x.ty b)
      (ival x.ty c))) (c.data x.a l x.ty.regs) (c.data x.b l nb) (c.data x.c l nc), computes_of_regForm hi fun _ _ => rfl,
    fun c l j hj => ?_⟩
  dsimp only
  rw [elem_elemwise (fun _ _ _ => reduce_lt _ _ _ _) _ _ _ hj]
  generalize ival x.ty (elem x.ty.width j (c.data x.a l x.ty.regs)) = va
  generalize ival x.ty (elem x.ty.width j (c.data x.b l nb)) = vb
  generalize ival x.ty (elem x.ty.width j (c.data x.c l nc)) = vc
  obtain ⟨h0, h1⟩ := hf hw va vb vc
  refine ⟨fun hs => ?_, fun hs => ?_⟩
  · have hd := wrap_sub_emod x.ty.width (f' va vb vc)
    unfold reduce
    rw [hs, if_neg Bool.false_ne_true]
    have e : (((wrap x.ty.width (f' va vb vc) : Nat) : Int) - f va vb vc) =
        (((wrap x.ty.width (f' va vb vc) : Nat) : Int) - f' va vb vc) + (f' va vb vc - f va vb vc) := by omega
    rw [e, Int.add_emod, hd, h0 hs]
    rfl
  · rw [hs, ival_reduce_sat, h1 hs]

theorem arithRule_self {i : Instr} {x : IArgs} {nb nc : Nat} {f : Int → Int → Int → Int}
    (hi : regForm i = some (x.k, irs x x.ty.regs x.ty.regs nb nc, arith x nb nc f)) : ArithRule i x nb nc f :=
  arithRule_of_agrees hi fun _ => .refl x f

theorem IArgs.sat_of_ok {x : IArgs} {d a b c : Nat} (h : x.ok false d a b c = true) : x.sat = false := by
  unfold IArgs.ok at h
  simp only [Bool.and_eq_true] at h
  simpa using h.1.1

theorem ITy.two_pow_width (ty : ITy) : (2 : Int) ^ ty.width = 2 * 2 ^ (ty.width - 1) := by
  rw [← Int.pow_succ', Nat.sub_add_cancel (ITy.width_pos ty)]

theorem intMin_true (w : Nat) : intMin true w = -(2 : Int) ^ (w - 1) := by
  simp [intMin]

theorem divRem_agrees {x : IArgs} (hs : x.sat = false) :
    AgreesWith x (fun a b _ => (divRem x.ty.signed x.ty.width a b).1) (fun a b _ => if b = 0 then -1 else a.tdiv b) ∧
    AgreesWith x (fun a b _ => (divRem x.ty.signed x.ty.width a b).2) (fun a b _ => if b = 0 then a else a.tmod b) := by
  refine ⟨fun a b _ => ⟨fun _ => ?_, fun h => by simp [hs] at h⟩, fun a b _ => ⟨fun _ => ?_, fun h => by simp [hs] at h⟩⟩
  all_goals
    unfold divRem
    by_cases hb : b = 0
    · simp [hb]
    · simp only [beq_iff_eq, hb, if_false]
      split
      · next h =>
        simp only [Bool.and_eq_true, beq_iff_eq] at h
        obtain ⟨⟨-, rfl⟩, rfl⟩ := h
        rw [ITy.two_pow_width, intMin_true]
        have double (p : Int) : -p - p = -(2 * p) := by omega
        simp [double]
      · simp

/-- Settles O14: each form computes element by element, wrapped or clamped; division alone departs from the exact value,
by 2^w, where the quotient leaves the range. -/
theorem integerArithmetic : Obligations.IntegerArithmetic := by
  intro x
  have hsat {d a b c : Nat} (h : (x.ty.single && x.ok false d a b c) = true) : x.sat = false :=
    IArgs.sat_of_ok (Bool.and_eq_true _ _ ▸ h).2
  refine ⟨arithRule_self rfl, arithRule_self rfl, arithRule_self rfl, ?_, arithRule_self rfl,
    arithRule_of_agrees rfl fun h => (divRem_agrees (hsat h)).1,
    arithRule_of_agrees rfl fun h => (divRem_agrees (hsat h)).2,
    arithRule_self rfl, arithRule_self rfl, arithRule_self rfl, arithRule_self rfl⟩
  refine arithRule_of_agrees rfl fun _ a b c => ?_
  simp

end Sys2Proof.Proofs.Integer
end

section
/-! PROOFS. The values of the integer forms on bits: shifts, rotates, reversal, truth tables, carries, compares, moves. -/

namespace Sys2Proof.Proofs.Integer
open Sys2Proof Sys2Proof.Machine

-- Shifts and rotates.

theorem shlW_eq (w a n : Nat) : shlW w a n = (BitVec.ofNat w a <<< n).toNat := by
  unfold shlW
  rw [BitVec.toNat_shiftLeft, BitVec.toNat_ofNat, Nat.shiftLeft_eq, Nat.mod_mul_mod]
  split
  · next h =>
    rw [Nat.mod_eq_zero_of_dvd]
    exact Nat.dvd_mul_left_of_dvd (Nat.pow_dvd_pow 2 h) a
  · rfl

theorem shrW_eq {w a : Nat} (h : a < 2 ^ w) (n : Nat) : shrW w a n = (BitVec.ofNat w a >>> n).toNat := by
  unfold shrW
  rw [BitVec.toNat_ushiftRight, BitVec.toNat_ofNat, Nat.mod_eq_of_lt h, Nat.shiftRight_eq_div_pow]
  split
  · next hn =>
    rw [Nat.div_eq_of_lt (Nat.lt_of_lt_of_le h (Nat.pow_le_pow_right (by omega) hn))]
  · rfl

theorem toSigned_eq {w a : Nat} (hw : 0 < w) (h : a < 2 ^ w) : toSigned w a = (BitVec.ofNat w a).toInt := by
  unfold toSigned
  rw [BitVec.toInt_eq_toNat_cond, BitVec.toNat_ofNat, Nat.mod_eq_of_lt h]
  have hp : 2 ^ w = 2 * 2 ^ (w - 1) := by rw [Nat.mul_comm, Nat.two_pow_pred_mul_two hw]
  push_cast
  split <;> split <;> omega

/-- Shifting a value out of its width leaves its sign. -/
theorem ediv_two_pow_min {w : Nat} {v : Int} (h1 : -(2 ^ w : Nat) ≤ v) (h2 : v < (2 ^ w : Nat)) (n : Nat) :
    v / (2 ^ min n w : Nat) = v / (2 ^ n : Nat) := by
  by_cases hn : n ≤ w
  · rw [Nat.min_eq_left hn]
  · rw [Nat.min_eq_right (by omega)]
    have hle : (2 ^ w : Nat) ≤ 2 ^ n := Nat.pow_le_pow_right (by omega) (by omega)
    have hw : 0 < 2 ^ w := Nat.two_pow_pos w
    by_cases hv : 0 ≤ v
    · rw [Int.ediv_eq_zero_of_lt hv h2, Int.ediv_eq_zero_of_lt hv (by omega)]
    · have key : ∀ m : Nat, 2 ^ w ≤ m → v / (m : Int) = -1 := fun m hm =>
        ((Int.ediv_emod_unique (r := v + m) (by omega)).mpr ⟨by omega, by omega, by omega⟩).1
      rw [key _ (Nat.le_refl _), key _ hle]

theorem sraW_eq {w a : Nat} (hw : 0 < w) (h : a < 2 ^ w) (n : Nat) :
    sraW w a n = ((BitVec.ofNat w a).sshiftRight n).toNat := by
  have h1 := BitVec.le_toInt (BitVec.ofNat w a)
  have h2 := BitVec.toInt_lt (x := BitVec.ofNat w a)
  have hp : 2 ^ w = 2 * 2 ^ (w - 1) := by rw [Nat.mul_comm, Nat.two_pow_pred_mul_two hw]
  have hp' : ((2 ^ w : Nat) : Int) = 2 * 2 ^ (w - 1) := by rw [hp]; push_cast; rfl
  have h0 : (0 : Int) < 2 ^ (w - 1) := Int.pow_pos (by decide)
  unfold sraW
  rw [toSigned_eq hw h, ediv_two_pow_min (by omega) (by omega), ← Int.shiftRight_eq_div_pow,
    ← BitVec.toInt_sshiftRight]
  unfold wrap
  rw [← BitVec.toNat_ofInt, BitVec.ofInt_toInt]

/-- The two parts of a number turned left by `m` places do not meet. -/
theorem shifted_or {w m a : Nat} (hm : m ≤ w) (h : a < 2 ^ w) :
    a * 2 ^ m % 2 ^ w + a / 2 ^ (w - m) = a <<< m % 2 ^ w ||| a >>> (w - m) := by
  have hlt : a / 2 ^ (w - m) < 2 ^ m := by
    rw [Nat.div_lt_iff_lt_mul (Nat.two_pow_pos _), ← Nat.pow_add, Nat.add_sub_cancel' hm]
    exact h
  have hs : a * 2 ^ m % 2 ^ w = 2 ^ m * (a % 2 ^ (w - m)) := by
    rw [← Nat.mul_mod_mul_left, ← Nat.pow_add, Nat.add_sub_cancel' hm, Nat.mul_comm]
  rw [Nat.shiftLeft_eq, Nat.shiftRight_eq_div_pow, hs]
  exact Nat.two_pow_add_eq_or_of_lt hlt _

theorem rotlW_eq {w a : Nat} (hw : 0 < w) (h : a < 2 ^ w) (n : Nat) :
    rotlW w a n = ((BitVec.ofNat w a).rotateLeft n).toNat := by
  have hm : n % w < w := Nat.mod_lt _ hw
  rw [BitVec.toNat_rotateLeft, BitVec.toNat_ofNat, Nat.mod_eq_of_lt h, ← shifted_or (Nat.le_of_lt hm) h]
  unfold rotlW shlW
  rw [if_neg (by omega)]

theorem rotrW_eq {w a : Nat} (hw : 0 < w) (h : a < 2 ^ w) (n : Nat) :
    rotrW w a n = ((BitVec.ofNat w a).rotateRight n).toNat := by
  have hm : n % w < w := Nat.mod_lt _ hw
  have ho := shifted_or (m := w - n % w) (by omega) h
  rw [Nat.sub_sub_self (Nat.le_of_lt hm)] at ho
  rw [BitVec.toNat_rotateRight, BitVec.toNat_ofNat, Nat.mod_eq_of_lt h, Nat.or_comm, ← ho]
  unfold rotrW rotlW shlW
  by_cases h0 : n % w = 0
  · simp [h0, Nat.mod_eq_of_lt h, Nat.div_eq_of_lt h, Nat.ne_of_gt hw]
  · rw [Nat.mod_eq_of_lt (a := w - n % w) (by omega), if_neg (by omega), Nat.sub_sub_self (Nat.le_of_lt hm)]

-- Reversal.

theorem sumBits_spec (f : Nat → Bool) (n : Nat) :
    let r := (List.range n).foldl (fun r i => if f i then r + 2 ^ i else r) 0
    r < 2 ^ n ∧ ∀ i, r.testBit i = (decide (i < n) && f i) := by
  induction n with
  | zero => simp
  | succ n ih =>
    rw [List.range_succ, List.foldl_append]
    dsimp only [List.foldl_cons, List.foldl_nil]
    obtain ⟨hlt, hbit⟩ := ih
    generalize (List.range n).foldl (fun r i => if f i then r + 2 ^ i else r) 0 = r at hlt hbit
    have hp : 2 ^ (n + 1) = 2 ^ n + 2 ^ n := by rw [Nat.pow_succ]; omega
    refine ⟨by split <;> omega, fun i => ?_⟩
    have hpow : (r + 2 ^ n).testBit i = if i < n then r.testBit i else decide (i - n = 0) := by
      rw [Nat.add_comm, ← Nat.mul_one (2 ^ n), Nat.testBit_two_pow_mul_add _ hlt, ← Nat.pow_zero 2, Nat.testBit_two_pow]
      simp only [eq_comm]
    by_cases hf : f n = true
    · rw [if_pos hf, hpow, hbit]
      grind
    · rw [if_neg hf, hbit]
      grind

/-- A number made of chosen bits has those bits. -/
theorem sumBits_testBit (f : Nat → Bool) (n i : Nat) :
    ((List.range n).foldl (fun r i => if f i then r + 2 ^ i else r) 0).testBit i = (decide (i < n) && f i) :=
  (sumBits_spec f n).2 i

theorem sumBits_lt (f : Nat → Bool) (n : Nat) :
    (List.range n).foldl (fun r i => if f i then r + 2 ^ i else r) 0 < 2 ^ n := (sumBits_spec f n).1

theorem brevW_lt (w a : Nat) : brevW w a < 2 ^ w := sumBits_lt _ w

theorem brevW_eq (w a : Nat) : brevW w a = (BitVec.ofNat w (a % 2 ^ w)).reverse.toNat := by
  refine Nat.eq_of_testBit_eq fun i => ?_
  unfold brevW
  rw [sumBits_testBit, BitVec.testBit_toNat, BitVec.getLsbD_reverse, BitVec.getMsbD_eq_getLsbD, BitVec.getLsbD_ofNat,
    Nat.testBit_mod_two_pow]
  grind

-- The rule on bits.

/-- An elementwise form on bits keeps its rule. -/
theorem bitRule_of_elem {i : Instr} {x : IArgs} {F : Nat → Nat → Nat → Nat} {f : (w : Nat) → BitVec w → Nat → BitVec w}
    (hi : regForm i = some (x.k, irs x x.ty.regs x.ty.regs x.ty.regs 0, shiftForm x F))
    (hf : ∀ w e n, 0 < w → e < 2 ^ w → F w e n = (f w (BitVec.ofNat w e) n).toNat) : BitRule i x 1 f := by
  intro s
  refine ⟨fun c l => elemwise x.ty (fun e _ _ => F x.ty.width e (c.data x.b l 1)) (c.data x.a l x.ty.regs) 0 0,
    computes_of_regForm hi fun _ _ => rfl, fun c l j hj => ?_⟩
  have he := fun k => hf x.ty.width (elem x.ty.width k (c.data x.a l x.ty.regs)) (c.data x.b l 1) (ITy.width_pos x.ty)
    (elem_lt _ _ _)
  exact (elem_packed (f := fun k => F x.ty.width (elem x.ty.width k (c.data x.a l x.ty.regs)) (c.data x.b l 1))
    (fun k => Nat.lt_of_le_of_lt (Nat.le_of_eq (he k)) (BitVec.isLt _)) hj).trans (he j)

theorem elem_zero (w x : Nat) : elem w 0 x = x % 2 ^ w := by
  unfold elem
  rw [Nat.mul_zero, Nat.pow_zero, Nat.div_one]

/-- Settles O15: each form moves the bits of an element as the operation on bit vectors does. -/
theorem shiftsAndReversals : Obligations.ShiftsAndReversals := by
  intro x
  refine ⟨bitRule_of_elem rfl fun w e n _ _ => shlW_eq w e n, bitRule_of_elem rfl fun w e n _ h => shrW_eq h n,
    bitRule_of_elem rfl fun w e n h0 h => sraW_eq h0 h n, bitRule_of_elem rfl fun w e n h0 h => rotlW_eq h0 h n,
    bitRule_of_elem rfl fun w e n h0 h => rotrW_eq h0 h n, fun hty s => ?_⟩
  refine ⟨fun c l => brevW x.ty.width (c.data x.a l x.ty.regs), computes_of_regForm rfl fun _ _ => rfl, fun c l j hj => ?_⟩
  have hj0 : j = 0 := by
    obtain h | h := hty
    all_goals
      rw [h] at hj
      exact Nat.lt_one_iff.mp hj
  subst hj0
  dsimp only
  rw [elem_zero, elem_zero, Nat.mod_eq_of_lt (brevW_lt _ _), brevW_eq]

-- Truth tables.

/-- Settles O16: a bit of the result depends on the bits in its place alone. -/
theorem truthTables : Obligations.TruthTables := by
  refine ⟨fun x tt s => ⟨fun c l => tableNat tt (32 * x.ty.regs) (c.data x.a l x.ty.regs) (c.data x.b l x.ty.regs)
    (c.data x.c l x.ty.regs), computes_of_regForm rfl fun _ _ => rfl, fun c l j hj => ?_⟩,
    fun k tt pD pA pB pC s => computes_of_regForm rfl fun _ _ => rfl⟩
  exact (sumBits_testBit _ _ j).trans (by rw [decide_eq_true hj, Bool.true_and]; rfl)

-- Carries and compares.

theorem plainImgs_one (p : Bool) (v : Nat) : plainImgs 1 p v = [⟨p, 0, BitVec.ofNat 32 v⟩] := by
  simp [plainImgs]

theorem wrap_toInt {w : Nat} (v : Int) : wrap w v = (BitVec.ofInt w v).toNat := by
  rw [BitVec.toNat_ofInt]
  rfl

theorem ofInt_sub_natCast (a b : Nat) : BitVec.ofInt 32 ((a : Int) - b) = BitVec.ofNat 32 a - BitVec.ofNat 32 b := by
  apply BitVec.eq_of_toNat_eq
  simp only [BitVec.toNat_ofInt, BitVec.toNat_sub, BitVec.toNat_ofNat]
  omega

theorem ofNat_wrap (v : Int) : BitVec.ofNat 32 (wrap 32 v) = BitVec.ofInt 32 v := by
  rw [wrap_toInt, BitVec.ofNat_toNat, BitVec.setWidth_eq]

/-- The carry in of a lane. -/
def carryIn (x : CarryArgs) (c : GCtx) (l : Nat) : Nat := match x.pI with | some p => (c.pf l p).toNat | none => 0

/-- The writes of `addc` and `subb` in a lane. -/
def carryWrites (sub : Bool) (x : CarryArgs) (c : GCtx) (l : Nat) : List RegW :=
  let a : Int := c.data x.a l 1
  let b : Int := c.data x.b l 1
  let v := if sub then a - b - carryIn x c l else a + b + carryIn x c l
  c.wr x.d l (plainImgs 1 false (wrap 32 v)) ++ c.wrP x.pO l (if sub then v < 0 else 2 ^ 32 ≤ v)

theorem opCarry_eq (sub : Bool) (x : CarryArgs) (c : GCtx) :
    opCarry sub x c = c.unpoisoned [(x.a, 1), (x.b, 1)] (Out.of (c.ls.flatMap (carryWrites sub x c))) := by
  unfold opCarry carryWrites carryIn
  cases x.pI <;> rfl

theorem carryWrites_add (x : CarryArgs) (c : GCtx) (l : Nat) :
    let v := c.data x.a l 1 + c.data x.b l 1 + carryIn x c l
    carryWrites false x c l = c.wr x.d l [⟨false, 0, BitVec.ofNat 32 v⟩] ++ c.wrP x.pO l (decide (2 ^ 32 ≤ v)) := by
  intro v
  unfold carryWrites
  have hv : (c.data x.a l 1 : Int) + c.data x.b l 1 + carryIn x c l = (v : Int) := by simp [v]
  have hle : ((2 : Int) ^ 32 ≤ (v : Int)) ↔ 2 ^ 32 ≤ v := by omega
  simp only [Bool.false_eq_true, if_false, hv, plainImgs_one, ofNat_wrap, BitVec.ofInt_natCast, hle]

theorem carryWrites_sub (x : CarryArgs) (c : GCtx) (l : Nat) :
    let a := c.data x.a l 1
    let b := c.data x.b l 1 + carryIn x c l
    carryWrites true x c l =
      c.wr x.d l [⟨false, 0, BitVec.ofNat 32 a - BitVec.ofNat 32 b⟩] ++ c.wrP x.pO l (decide (a < b)) := by
  intro a b
  unfold carryWrites
  have hv : (c.data x.a l 1 : Int) - c.data x.b l 1 - carryIn x c l = (a : Int) - (b : Int) := by
    simp only [a, b]
    omega
  have hlt : ((a : Int) - (b : Int) < 0) ↔ a < b := by omega
  simp only [if_true, hv, plainImgs_one, ofNat_wrap, ofInt_sub_natCast, hlt]

/-- Settles O17: the sum and the difference are taken exactly, then cut to 32 bits. -/
theorem carryChains : Obligations.CarryChains := by
  intro x s gid g h hc cin
  have hcin : cin = carryIn x := rfl
  refine ⟨done_of_unpoisoned rfl h ((opCarry_eq false x _).trans ?_) hc,
    done_of_unpoisoned rfl h ((opCarry_eq true x _).trans ?_) hc⟩
  · refine congrArg (fun w => GCtx.unpoisoned _ _ (Out.of w)) (congrArg (List.flatMap · _) (funext fun l => ?_))
    exact carryWrites_add x _ l
  · refine congrArg (fun w => GCtx.unpoisoned _ _ (Out.of w)) (congrArg (List.flatMap · _) (funext fun l => ?_))
    exact carryWrites_sub x _ l

theorem intBeq_eq_decide (a b : Int) : (a == b) = decide (a = b) := rfl

theorem natBeq_eq_decide (a b : Nat) : (a == b) = decide (a = b) := rfl

/-- Settles O18: the condition is taken of the values, or of the bits, and combined. -/
theorem integerCompares : Obligations.IntegerCompares := by
  intro x ty cc s gid g h hc c cond comb
  have hcond : ∀ l, icond cc (ival ty (c.data x.a l ty.regs)) (ival ty (c.data x.b l ty.regs)) (c.data x.a l ty.regs)
      (c.data x.b l ty.regs) = cond l := fun l => by
    cases cc <;> simp [icond, cond, bne, intBeq_eq_decide, natBeq_eq_decide]
  have hcomb : ∀ l, combine c l x.cb (cond l) = comb l := fun l => by
    obtain ⟨k, pD, cb, a, b⟩ := x
    cases cb with
    | none => rfl
    | some y => obtain ⟨⟨⟩, p⟩ := y <;> rfl
  refine done_of_unpoisoned rfl h ?_ hc
  refine congrArg (fun w => GCtx.unpoisoned _ _ (Out.of w)) (congrArg (List.flatMap · _) (funext fun l => ?_))
  rw [← hcomb l, ← hcond l]

-- Moves.

theorem plainImgs_two (p : Bool) (a b : Word) :
    plainImgs 2 p (a.toNat + b.toNat * 2 ^ 32) = [⟨p, 0, a⟩, ⟨p, 0, b⟩] := by
  have ha := a.isLt
  have h1 : (a.toNat + b.toNat * 2 ^ 32) / 2 ^ 32 = b.toNat := by omega
  have h0 : BitVec.ofNat 32 (a.toNat + b.toNat * 2 ^ 32) = a := by
    apply BitVec.eq_of_toNat_eq
    rw [BitVec.toNat_ofNat]
    omega
  have h1' : BitVec.ofNat 32 ((a.toNat + b.toNat * 2 ^ 32) / 2 ^ 32) = b := by
    rw [h1, BitVec.ofNat_toNat, BitVec.setWidth_eq]
  simp only [plainImgs, List.range_succ, List.range_zero, List.nil_append, List.cons_append, List.map_cons, List.map_nil,
    Nat.mul_zero, Nat.mul_one, Nat.pow_zero, Nat.div_one, h0, h1']

theorem plainImgs_low (p : Bool) (a b : Word) : plainImgs 1 p (a.toNat + b.toNat * 2 ^ 32) = [⟨p, 0, a⟩] := by
  have h := congrArg (List.take 1) (plainImgs_two p a b)
  exact h

theorem slotOf_make (g : Group) (k : Com) (n : Nat) :
    (GCtx.make g k).slotOf n = (maskLanes g.runMask).find? (fun l => g.vlane l == n) :=
  congrArg (fun f => (maskLanes g.runMask).find? f) (funext fun l => congrArg (· == n) (System.seen_vlane g l))

/-- Settles O19: a move writes the images it reads; the literal of `movl` has one image in each word. -/
theorem movesCopyImages : Obligations.MovesCopyImages := by
  intro x s
  refine ⟨fun n i hi => ?_, ?_, ?_, fun p => computes_of_regForm rfl fun _ _ => rfl,
    fun p => computes_of_regForm rfl fun _ _ => rfl, fun gid g n i hi h hc => ?_⟩
  · obtain h | h | h | h := hi
    all_goals
      obtain ⟨rfl, rfl⟩ := Prod.mk.inj h
      exact computes_of_regForm rfl fun _ _ => rfl
  · exact computes_of_regForm rfl fun c hk => congrArg (fun f => Except.ok (perLane c x.d f))
      (funext fun _ => hk ▸ plainImgs_low false c.k.imm c.k.ext)
  · exact computes_of_regForm rfl fun c hk => congrArg (fun f => Except.ok (perLane c x.d f))
      (funext fun _ => hk ▸ plainImgs_two false c.k.imm c.k.ext)
  · obtain h1 | h1 := hi
    all_goals
      obtain ⟨rfl, rfl⟩ := Prod.mk.inj h1
      refine done_of_unpoisoned rfl h ?_ hc
      unfold opRdlane
      rw [slotOf_make] <;> rfl

end Sys2Proof.Proofs.Integer
end

section
/-! PROOFS. Rounding to odd undoes the extended value of an element with its glaze, and what sums and products write. -/

namespace Sys2Proof.Proofs.Float
open Sys2Proof Sys2Proof.Machine

/-- The shape of the carriers' formats: one sign bit, `eb` exponent bits, `fb` fraction bits, and the largest exponent. -/
structure IeeeShape (f : Fmt) : Prop where
  kind : f.kind = .ieee
  width : f.w = f.eb + f.fb + 1
  prec : f.p = f.fb + 1
  emax : f.emax = f.emin + 2 ^ f.eb - 3

theorem ieeeShape_of_carrier {f : Fmt} (h : f = .f64 ∨ f = .f32 ∨ f = .f16 ∨ f = .bf16) : IeeeShape f := by
  obtain rfl | rfl | rfl | rfl := h
  all_goals exact ⟨rfl, rfl, rfl, by decide⟩

variable {f : Fmt}

/-- A value whose last place is already a quarter of the data's unit is encoded as it stands. -/
theorem roundOdd_exact {neg : Bool} {m : Nat} {e : Int} (hm : m ≠ 0) (h : ilog m e < f.emax + 1)
    (he : max (ilog m e) f.emin - f.p - 1 = e) :
    roundOdd f (.fin neg m e) = ⟨f.enc neg (m / 4) (max (ilog m e) f.emin), m % 4⟩ := by
  have hq : quant m e e = (m, false) := by simp [quant]
  rw [Numbers.roundOdd_of_inRange f neg hm (by omega)]
  unfold Numbers.narrowSig Numbers.quarterExp Numbers.narrowExp
  rw [he, hq]
  rfl

/-- The sign, exponent and fraction of an encoding. -/
theorem encoding_parts (hf : IeeeShape f) {x : Nat} (hx : x < 2 ^ f.w) :
    x = f.sign (x / 2 ^ (f.w - 1) % 2 == 1) + x / 2 ^ f.fb % 2 ^ f.eb * 2 ^ f.fb + x % 2 ^ f.fb := by
  have hw : f.w - 1 = f.fb + f.eb := by rw [hf.width]; omega
  have h1 : x / 2 ^ (f.w - 1) = x / 2 ^ f.fb / 2 ^ f.eb := by rw [hw, Nat.pow_add, Nat.div_div_eq_div_mul]
  have h2 : x / 2 ^ (f.w - 1) < 2 := by
    rw [Nat.div_lt_iff_lt_mul (Nat.two_pow_pos _), Nat.mul_comm, Nat.two_pow_pred_mul_two (by rw [hf.width]; omega)]
    exact hx
  have h3 : x = 2 ^ f.fb * (2 ^ f.eb * (x / 2 ^ (f.w - 1)) + x / 2 ^ f.fb % 2 ^ f.eb) + x % 2 ^ f.fb := by
    rw [h1, Nat.div_add_mod, Nat.div_add_mod]
  have hs : f.sign (x / 2 ^ (f.w - 1) % 2 == 1) = 2 ^ f.fb * (2 ^ f.eb * (x / 2 ^ (f.w - 1))) := by
    unfold Fmt.sign
    generalize x / 2 ^ (f.w - 1) = b at h2
    rw [hw, Nat.pow_add]
    obtain rfl | rfl : b = 0 ∨ b = 1 := by omega
    all_goals simp
  rw [hs, Nat.mul_comm (_ % _), Nat.add_assoc, ← Nat.add_assoc, ← Nat.mul_add]
  exact h3

/-- An encoding of a finite number, by its parts. -/
theorem ext_finite (hf : IeeeShape f) {x g : Nat} (hn : ∀ n, f.ext x g ≠ .nan n) (hi : ∀ n, f.ext x g ≠ .inf n) :
    x / 2 ^ f.fb % 2 ^ f.eb < 2 ^ f.eb - 1 ∧
    f.ext x g = if x / 2 ^ f.fb % 2 ^ f.eb == 0 then .fin (x / 2 ^ (f.w - 1) % 2 == 1) (4 * (x % 2 ^ f.fb) + g)
        (f.emin - f.fb - 2)
      else .fin (x / 2 ^ (f.w - 1) % 2 == 1) (4 * (x % 2 ^ f.fb + 2 ^ f.fb) + g)
        (f.emin - f.fb - 2 + (x / 2 ^ f.fb % 2 ^ f.eb : Nat) - 1) := by
  have hlt : x / 2 ^ f.fb % 2 ^ f.eb < 2 ^ f.eb := Nat.mod_lt _ (Nat.two_pow_pos _)
  unfold Fmt.ext at hn hi ⊢
  simp only [hf.kind] at hn hi ⊢
  by_cases ht : x / 2 ^ f.fb % 2 ^ f.eb = 2 ^ f.eb - 1
  · simp only [ht, beq_self_eq_true, if_true] at hn hi
    exfalso
    revert hn hi
    split <;> simp
  · rw [if_neg (by simpa using ht)]
    exact ⟨by omega, rfl⟩

theorem ilog_lt {m n : Nat} {e : Int} (hm : m ≠ 0) (h : m < 2 ^ n) : ilog m e < e + n := by
  have := (Nat.log2_lt hm).mpr h
  unfold ilog
  omega

theorem ilog_eq {m n : Nat} {e : Int} (h1 : 2 ^ n ≤ m) (h2 : m < 2 ^ (n + 1)) : ilog m e = e + n := by
  have hm : m ≠ 0 := by
    have := Nat.two_pow_pos n
    omega
  unfold ilog
  rw [(Nat.log2_eq_iff hm).mpr ⟨h1, h2⟩]

/-- Settles O21: the extended value of a finite element is exact in quarters of its unit, and the glaze is the quarters. -/
theorem roundOddOfExt : Obligations.RoundOddOfExt := by
  intro f x g hc hx hg hn hi
  have hf := ieeeShape_of_carrier hc
  obtain ⟨hex, he⟩ := ext_finite hf hn hi
  have hp := encoding_parts hf hx
  have hfr : x % 2 ^ f.fb < 2 ^ f.fb := Nat.mod_lt _ (Nat.two_pow_pos _)
  rw [he]
  generalize (x / 2 ^ (f.w - 1) % 2 == 1) = neg at hp ⊢
  generalize x / 2 ^ f.fb % 2 ^ f.eb = ex at hex hp ⊢
  generalize x % 2 ^ f.fb = fr at hp hfr ⊢
  have hprec : (f.p : Int) = f.fb + 1 := by rw [hf.prec]; push_cast; rfl
  have hmax := hf.emax
  have hex' : (ex : Int) < 2 ^ f.eb - 1 := by
    have : ((2 ^ f.eb : Nat) : Int) = 2 ^ f.eb := by push_cast; rfl
    omega
  have hpow : 2 ^ (f.fb + 2) = 4 * 2 ^ f.fb := by rw [Nat.pow_add, Nat.mul_comm]
  have hpow' : 2 ^ (f.fb + 3) = 8 * 2 ^ f.fb := by rw [Nat.pow_add, Nat.mul_comm]
  by_cases h0 : ex = 0
  · subst h0
    rw [if_pos (by rfl)]
    by_cases hm : 4 * fr + g = 0
    · have hg0 : g = 0 := by omega
      have hf0 : fr = 0 := by omega
      subst hg0 hf0
      rw [hp]
      simp [roundOdd]
    · have hl := ilog_lt (e := f.emin - f.fb - 2) hm (by omega : 4 * fr + g < 2 ^ (f.fb + 2))
      push_cast at hl
      rw [roundOdd_exact hm (by omega) (by omega), Int.max_eq_right (by omega)]
      have h1 : (4 * fr + g) / 4 = fr := by omega
      have h2 : (4 * fr + g) % 4 = g := by omega
      rw [h1, h2, Fmt.enc, if_pos hfr, hp]
      simp
  · rw [if_neg (by simpa using h0)]
    have hl := ilog_eq (e := f.emin - f.fb - 2 + ex - 1) (by omega : 2 ^ (f.fb + 2) ≤ 4 * (fr + 2 ^ f.fb) + g) (by omega)
    push_cast at hl
    have hm : 4 * (fr + 2 ^ f.fb) + g ≠ 0 := by
      have := Nat.two_pow_pos f.fb
      omega
    have hexp : max (ilog (4 * (fr + 2 ^ f.fb) + g) (f.emin - f.fb - 2 + ex - 1)) f.emin = f.emin + ex - 1 := by omega
    rw [roundOdd_exact hm (by omega) (by omega), hexp]
    have h1 : (4 * (fr + 2 ^ f.fb) + g) / 4 = fr + 2 ^ f.fb := by omega
    have h2 : (4 * (fr + 2 ^ f.fb) + g) % 4 = g := by omega
    have h3 : (f.emin + (ex : Int) - 1 - f.emin + 1).toNat = ex := by omega
    rw [h1, h2, Fmt.enc, if_neg (by omega), h3, hp]
    congr 1
    omega

-- Sums and products.

/-- A lane of a float form of a one-element carrier. -/
theorem computes_fltLane {s : State} {i : Instr} {x : FArgs} {nb nc : Nat} {rs : List (Opnd × Nat)}
    {op : GCtx → Car → FV → FV → FV → FV × Flags} (hi : regForm i = some (x.k, rs, fltLane x nb nc op))
    (hx : x.ft = .f32 ∨ x.ft = .f64) :
    let f := FTy.fmt x.ft
    let car (c : GCtx) (m : FMod) (o : Opnd) (l : Nat) : Car := carMod m f (carOf c x.ft o l 0)
    Computes s i x.k rs (fun c => c.ls.flatMap (fun l => c.wr x.d l
      (carImgs x.ft (c.pois x.a l x.ft.regs || c.pois x.b l nb || c.pois x.c l nc)
        [roundOdd f (op c (car c x.ma x.a l) ((car c x.ma x.a l).ext f) ((car c x.mb x.b l).ext f)
          ((car c x.mc x.c l).ext f)).1]))) := by
  intro f car gid g h
  obtain ⟨t, g', ht, hd⟩ := RegisterForms.registerFormsComplete i x.k rs _ s gid g _ hi h rfl
  have he : FTy.elems x.ft = 1 := by
    obtain h | h := hx
    all_goals
      rw [h]
      rfl
  refine ⟨t, g', ht, hd.grp, hd.regs.trans (congrArg (fun w => List.foldl RegW.onRegs g.final w) ?_)⟩
  unfold gather
  simp only [he]
  rw [List.flatMap_map]
  rfl

/-- Settles O22: the frame of the float forms with their exact sum, product, and product plus addend. -/
theorem floatSumsAndProducts : Obligations.FloatSumsAndProducts := by
  intro x s hx n f ev
  have h0 : ∀ (c : GCtx) o l, c.pois o l 0 = false := fun _ _ _ => rfl
  refine ⟨?_, ?_, ?_⟩
  · have h := computes_fltLane (s := s) (i := .fadd x) (x := x) rfl hx
    simpa only [h0, Bool.or_false] using h
  · have h := computes_fltLane (s := s) (i := .fmul x) (x := x) rfl hx
    simpa only [h0, Bool.or_false] using h
  · have h := computes_fltLane (s := s) (i := .ffma x) (x := x) rfl hx
    exact h

end Sys2Proof.Proofs.Float
end

section
/-! SUPPORT. What an instruction that moves its own lanes leaves, and what path choice keeps of lanes. -/

namespace Sys2Proof.Proofs.Paths
open Sys2Proof Sys2Proof.Machine

-- What an issuing instruction sees of its group (R93).

/-- A group but for what a held copy may change. -/
def beyondHeld (g : Group) : Group := { g with s := [], lanes := [] }

theorem seen_beyondHeld (g : Group) : beyondHeld g.seen = beyondHeld g := by
  unfold Group.seen
  split <;> rfl

theorem seen_stack (g : Group) : g.seen.stack = g.stack := (congrArg Group.stack (seen_beyondHeld g) :)

-- Changes of one group, one after the other.

theorem put_put {α : Type} (m : SMap α) (n : Nat) (x y : α) : SMap.put (SMap.put m n x) n y = SMap.put m n y := by
  induction m with
  | nil => simp [SMap.put]
  | cons e m ih =>
    obtain ⟨k, v⟩ := e
    by_cases heq : n = k
    · simp [SMap.put, heq]
    · by_cases hlt : n < k
      · simp [SMap.put, heq, hlt]
      · simp [SMap.put, heq, hlt, ih]

theorem upd_upd {α : Type} (m : SMap α) (n : Nat) (f h : α → α) :
    SMap.upd (SMap.upd m n f) n h = SMap.upd m n (fun x => h (f x)) := by
  unfold SMap.upd
  cases hm : SMap.get? m n with
  | none => simp [hm]
  | some x => simp [SMap.get?_put_same, put_put]

theorem put_get {α : Type} {m : SMap α} {n : Nat} {x : α} (h : SMap.get? m n = some x) : SMap.put m n x = m := by
  induction m with
  | nil => cases h
  | cons e m ih =>
    obtain ⟨k, v⟩ := e
    unfold SMap.get? at h
    unfold SMap.put
    split at h
    · next hk =>
      cases h
      simp [hk]
    · next hk =>
      split at h
      · cases h
      · next hlt => simp [hk, hlt, ih h]

theorem upd_id {α : Type} (m : SMap α) (n : Nat) : SMap.upd m n (fun x => x) = m := by
  unfold SMap.upd
  split
  · next x h => exact put_get h
  · rfl

theorem updGroup_updGroup (s : State) (gid : Nat) (f h : Group → Group) :
    (s.updGroup gid f).updGroup gid h = s.updGroup gid (fun g => h (f g)) :=
  congrArg (fun m => { s with groups := m }) (upd_upd s.groups gid f h)

theorem updGroup_congr {s : State} {gid : Nat} {g : Group} {f h : Group → Group} (hg : SMap.get? s.groups gid = some g)
    (hf : f g = h g) : s.updGroup gid f = s.updGroup gid h := by
  unfold State.updGroup SMap.upd
  rw [hg]
  simp only [hf]

-- The end of an instruction that moves its lanes itself.

theorem maskLanes_zero : maskLanes 0 = [] := by decide

theorem advance_zero (g : Group) (k : Com) : g.advance 0 k = g := by
  unfold Group.advance Group.mapMask
  rw [maskLanes_zero]
  rfl

theorem jumped_groups_same {s s' : State} {gid : Nat} {g1 : Group} (g : Group) (k : Com)
    (h : SMap.get? s'.groups gid = some g1) :
    SMap.get? (jumped s gid g k s').groups gid = some (g1.complete g.inH k (GCtx.make g k).lowSlot) := by
  have hi : (GCtx.make g k).g.inH = g.inH := System.seen_inH g
  unfold jumped finish
  dsimp only
  rw [State.updGroup_groups, SMap.get?_upd_same, State.issued_groups, h, hi]
  rfl

theorem jumped_groups_other {s s' : State} {gid j : Nat} (g : Group) (k : Com) (hj : j ≠ gid) :
    SMap.get? (jumped s gid g k s').groups j = SMap.get? s'.groups j := by
  unfold jumped finish
  dsimp only
  rw [State.updGroup_groups, SMap.get?_upd_other _ _ _ _ hj, State.issued_groups]

theorem jumped_outside (s s' : State) (gid : Nat) (g : Group) (k : Com) :
    { jumped s gid g k s' with groups := s'.groups, grids := s'.grids, dies := s'.dies } = s' := by
  have h := State.issued_frame s' s (GCtx.make g k).g
  exact congrArg (fun x : State => { x with groups := s'.groups }) h

/-- What completion leaves of a group whose lanes have moved. -/
theorem complete_spec (g : Group) (inH : Bool) (k : Com) (low : Nat) :
    let g' := g.complete inH k low
    g'.final = g.final ∧ (∀ l, (g'.lane l).pc = (g.lane l).pc) ∧ g'.wait = .no ∧ g'.fixed = g.fixed ∧
    g'.prog = (if inH then g.prog else 0) := by
  obtain ⟨hfin, hpc, -, -, hprog, hwait, hfix, -⟩ := Group.complete_spec g 0 inH k low (fun l hl => by
    simp [inMask] at hl)
  rw [advance_zero] at hfin hpc hprog hwait hfix
  exact ⟨hfin, fun l => (hpc l).trans (if_neg (by simp [inMask])), hwait, hfix, hprog⟩

/-- An instruction whose effect is a change `f` of its group that moves the lanes to `pc` goes there. -/
theorem goes_of_updGroup {s : State} {gid : Nat} {g : Group} {k : Com} {f : Group → Group} {pc : Nat → DWord}
    (hg : SMap.get? s.groups gid = some g)
    (hpc : ∀ l, ((f g).lane l).pc = if inMask g.runMask l then pc l else (g.lane l).pc) (hfin : (f g).final = g.final) :
    ∃ g', SMap.get? (jumped s gid g k (s.updGroup gid f)).groups gid = some g' ∧
      g' = (f g).complete g.inH k (GCtx.make g k).lowSlot ∧
      Goes s (jumped s gid g k (s.updGroup gid f)) gid g g' pc [] := by
  have h1 : SMap.get? (s.updGroup gid f).groups gid = some (f g) := by
    rw [State.updGroup_groups, SMap.get?_upd_same, hg]
    rfl
  obtain ⟨cfin, cpc, cwait, -, -⟩ := complete_spec (f g) g.inH k (GCtx.make g k).lowSlot
  refine ⟨_, jumped_groups_same g k h1, rfl, jumped_groups_same g k h1, fun l => (cpc l).trans (hpc l), cfin.trans hfin,
    cwait, fun j hj => ?_, ?_⟩
  · rw [jumped_groups_other g k hj, State.updGroup_groups, SMap.get?_upd_other _ _ _ _ hj]
  · have h := jumped_outside s (s.updGroup gid f) gid g k
    exact congrArg (fun x : State => { x with groups := s.groups, clusters := s.clusters }) h

-- Registers and lanes under changes of lanes.

theorem final_congr {a b : Group} (hr : a.regs = b.regs) (hp : a.pend = b.pend) : a.final = b.final := by
  rw [Group.final_eq, Group.final_eq, hr, hp]

theorem final_mapMask (g : Group) (m : Word) {f : Lane → Lane} (hf : ∀ x, ((f x).v, (f x).pr) = (x.v, x.pr)) :
    (g.mapMask m f).final = g.final := by
  have hk := Group.mapMask_keeps f m g
  have hs : (g.mapMask m f).s = g.s := by
    have q := congrArg Group.s hk
    exact q
  have hp : (g.mapMask m f).pend = g.pend := by
    have q := congrArg Group.pend hk
    exact q
  refine final_congr ?_ hp
  unfold Group.regs
  rw [Group.mapMask_map (fun l => (l.v, l.pr)) f hf, hs]

theorem final_setPc (g : Group) (m : Word) (pc : DWord) : (g.setPc m pc).final = g.final :=
  final_mapMask g m (f := fun x => { x with pc := pc }) fun _ => rfl

theorem final_setSt (g : Group) (m : Word) (st : LaneSt) : (g.setSt m st).final = g.final :=
  final_mapMask g m (f := fun x => { x with st := st }) fun _ => rfl

theorem stack_mapMask (g : Group) (m : Word) (f : Lane → Lane) : (g.mapMask m f).stack = g.stack := by
  have q := congrArg Group.stack (Group.mapMask_keeps f m g)
  exact q

theorem length_mapMask (g : Group) (m : Word) (f : Lane → Lane) : (g.mapMask m f).lanes.length = g.lanes.length := by
  have h := congrArg List.length (Group.mapMask_map (fun _ => ()) f (fun _ => rfl) m g)
  rwa [List.length_map, List.length_map] at h

theorem lane_setPc (g : Group) (m : Word) (pc : DWord) (l : Nat) :
    (g.setPc m pc).lane l = if inMask m l = true ∧ l < g.lanes.length then { g.lane l with pc := pc } else g.lane l :=
  Group.lane_mapMask g m _ l

theorem lane_setSt (g : Group) (m : Word) (st : LaneSt) (l : Nat) :
    (g.setSt m st).lane l = if inMask m l = true ∧ l < g.lanes.length then { g.lane l with st := st } else g.lane l :=
  Group.lane_mapMask g m _ l

-- Masks.

theorem inMask_and (a b : Word) (l : Nat) : inMask (a &&& b) l = (inMask a l && inMask b l) := BitVec.getLsbD_and

theorem inMask_andNot (a b : Word) (l : Nat) : inMask (a &&& ~~~b) l = (inMask a l && !inMask b l) := by
  unfold inMask
  rw [BitVec.getLsbD_and, BitVec.getLsbD_not]
  by_cases h : l < 32
  · simp [h]
  · simp [BitVec.getLsbD_of_ge a l (by omega)]

theorem mask_ext {a b : Word} (h : ∀ l, inMask a l = inMask b l) : a = b :=
  BitVec.eq_of_getLsbD_eq fun l _ => h l

theorem inMask_maskLow {m : Word} (h : m ≠ 0) : inMask m (maskLow m) = true := by
  rw [← mem_maskLanes]
  unfold maskLow
  cases hm : maskLanes m with
  | nil =>
    refine absurd (mask_ext fun l => ?_) h
    have := mem_maskLanes m l
    rw [hm] at this
    cases hl : inMask m l with
    | true => simp [hl] at this
    | false => simp [inMask]
  | cons x xs => exact List.mem_cons_self ..

theorem inMask_runMask (g : Group) (l : Nat) : inMask g.runMask l = (decide (l < 32) && ((g.lane l).st == .active)) :=
  inMask_maskOf _ l

theorem act_subset (g : Group) (k : Com) {l : Nat} (h : inMask (GCtx.make g k).act l = true) :
    inMask g.runMask l = true := by
  unfold GCtx.make at h
  dsimp only at h
  rw [inMask_maskOf] at h
  simp only [Bool.and_eq_true] at h
  exact h.2.1

-- Path choice.

/-- A path that stands elsewhere than at the top focal keeps running. -/
theorem settle_running {g : Group} {prev : Int} (hr : g.runMask ≠ 0) (hs : ∀ e r, g.stack = e :: r → g.runPc ≠ e.focal) :
    settle g prev = g := by
  unfold settle
  rw [if_neg (by simpa using hr)]
  show parkLoop (15 + 1) _ g = g
  unfold parkLoop
  cases h : g.stack with
  | nil => rfl
  | cons e r => simp [hs e r h]

theorem waiting_deferred {g : Group} {e : Entry} {l : Nat} (h : inMask (waiting g e) l = true) :
    (g.lane l).st = .deferred := by
  unfold waiting at h
  rw [inMask_maskOf] at h
  simp only [Bool.and_eq_true, beq_iff_eq] at h
  exact h.2.1.2

theorem arrived_deferred {g : Group} {e : Entry} {l : Nat} (h : inMask (arrived g e) l = true) :
    (g.lane l).st = .deferred := by
  unfold arrived at h
  rw [inMask_maskOf] at h
  simp only [Bool.and_eq_true, beq_iff_eq] at h
  exact h.2.1.2

/-- Two groups have ended the same lanes. -/
def SameExited (a b : Group) : Prop := ∀ l, (b.lane l).st = .exited ↔ (a.lane l).st = .exited

theorem SameExited.trans {a b c : Group} (h : SameExited a b) (h' : SameExited b c) : SameExited a c :=
  fun l => (h' l).trans (h l)

theorem setSt_sameExited {g : Group} {m : Word} {st : LaneSt} (hst : st ≠ .exited)
    (hm : ∀ l, inMask m l = true → (g.lane l).st ≠ .exited) : SameExited g (g.setSt m st) := by
  intro l
  rw [lane_setSt]
  split
  · next h => exact iff_of_false hst (hm l h.1)
  · rfl

theorem chooseNext_sameExited (n : Nat) (g : Group) (prev : Int) : SameExited g (chooseNext n g prev) := by
  induction n generalizing g prev with
  | zero => exact fun _ => Iff.rfl
  | succ n ih =>
    unfold chooseNext
    cases g.stack with
    | nil => exact fun _ => Iff.rfl
    | cons e rest =>
      dsimp only
      split
      · refine setSt_sameExited (by decide) fun l hl => ?_
        rw [inMask_maskOf] at hl
        simp only [Bool.and_eq_true] at hl
        rw [waiting_deferred hl.2.1]
        decide
      · split
        · exact fun _ => Iff.rfl
        · split
          · exact setSt_sameExited (by decide) fun l hl => by
              rw [arrived_deferred hl]
              decide
          · exact ih { g with stack := rest } (-1)

theorem parkLoop_sameExited (n : Nat) (prev : Int) (g : Group) : SameExited g (parkLoop n prev g) := by
  induction n generalizing g prev with
  | zero => exact fun _ => Iff.rfl
  | succ n ih =>
    unfold parkLoop
    cases g.stack with
    | nil => exact fun _ => Iff.rfl
    | cons e rest =>
      dsimp only
      split
      · refine (SameExited.trans (setSt_sameExited (by decide) fun l hl => ?_) (chooseNext_sameExited _ _ _)).trans (ih _ _)
        rw [TrapEntry.active_of_running hl]
        decide
      · exact fun _ => Iff.rfl

/-- Path choice ends no lane and brings none back. -/
theorem settle_sameExited (g : Group) (prev : Int) : SameExited g (settle g prev) := by
  unfold settle
  split
  · exact (chooseNext_sameExited _ _ _).trans (parkLoop_sameExited _ _ _)
  · exact parkLoop_sameExited _ _ _

theorem complete_sameExited (g : Group) (inH : Bool) (k : Com) (low : Nat) : SameExited g (g.complete inH k low) :=
  settle_sameExited _ _

end Sys2Proof.Proofs.Paths
end

section
/-! PROOFS. Control flow: branches, splits of the running path, exits, and returns from compacted groups. -/

namespace Sys2Proof.Proofs.Paths
open Sys2Proof Sys2Proof.Machine

-- A running path that does not stand together.

/-- A group whose lane 1 stands at 64 and whose other lanes stand at 0, all of them running. -/
def apartGroup : Group :=
  { hostGroup 1 with lanes := updAt (hostGroup 1).lanes 1 (fun l => { l with pc := 64 }) }

/-- That group issues. -/
def apartState : State := { State.reset with cur := some 2, groups := [(2, apartGroup)] }

/-- The common fields of a branch under p0, which is false in every lane of that group. -/
def notTaken : Com := ⟨false, false, false, 0, .three, 16, 0⟩

/-- The PC of lane `l` of group 2 after an outcome. -/
def pcAfter (l : Nat) (r : Res) : Option DWord :=
  match r with
  | .next t => (SMap.get? t.groups 2).map (fun g => (g.lane l).pc)
  | _ => none

theorem issues_apart : Issues apartState 2 apartGroup notTaken [] where
  cur := rfl
  grp := rfl
  run := by decide +kernel
  ranges := rfl
  owed := by decide +kernel
  executes := by decide +kernel
  lim := rfl

/-- Refutes O24: a `bra.d` that no lane takes moves each lane of the running path on from its own PC, where the statement
has them all go to the instruction after the path's PC (it leaves out that the lanes of the path stand together). -/
theorem not_branchesGoTogether : ¬ Obligations.BranchesGoTogether := by
  intro h
  obtain ⟨hbra, -⟩ := h notTaken .none .none apartState 2 apartGroup
  obtain ⟨-, hapart⟩ := hbra issues_apart
  obtain ⟨⟨t, g', hexec, hgoes⟩, -⟩ := hapart (.inr (by decide +kernel))
  have hmodel : pcAfter 1 (exec (.braD notTaken) apartState) = some (64 + comBytes notTaken) := by decide +kernel
  have hstated : (g'.lane 1).pc = (GCtx.make apartGroup notTaken).next := (hgoes.pcs 1).trans (by decide +kernel)
  rw [hexec, pcAfter, hgoes.grp, Option.map_some, hstated] at hmodel
  exact absurd hmodel (by decide +kernel)

-- Splits.

/-- What a split of the running path makes of its group. -/
def splitGroup (run minor major : Word) (pcMin pcMaj focal : DWord) (g : Group) : Group :=
  let g1 := ((g.setPc major pcMaj).setPc minor pcMin).setSt minor .deferred
  { g1 with stack := ⟨run, pcMin, focal, 0⟩ :: g1.stack }

section Split

variable {g : Group} {run minor major : Word} {pcMin pcMaj focal : DWord}

theorem splitGroup_stack : (splitGroup run minor major pcMin pcMaj focal g).stack = ⟨run, pcMin, focal, 0⟩ :: g.stack := by
  unfold splitGroup Group.setSt Group.setPc
  simp only [stack_mapMask]

theorem splitGroup_final : (splitGroup run minor major pcMin pcMaj focal g).final = g.final := by
  calc (splitGroup run minor major pcMin pcMaj focal g).final
      = (((g.setPc major pcMaj).setPc minor pcMin).setSt minor .deferred).final := final_congr rfl rfl
    _ = g.final := by rw [final_setSt, final_setPc, final_setPc]

theorem splitGroup_lane (l : Nat) (hdisj : ¬ (inMask minor l = true ∧ inMask major l = true)) :
    (splitGroup run minor major pcMin pcMaj focal g).lane l =
      if inMask minor l = true ∧ l < g.lanes.length then { g.lane l with pc := pcMin, st := .deferred }
      else if inMask major l = true ∧ l < g.lanes.length then { g.lane l with pc := pcMaj } else g.lane l := by
  show (((g.setPc major pcMaj).setPc minor pcMin).setSt minor .deferred).lane l = _
  have hlen1 : (g.setPc major pcMaj).lanes.length = g.lanes.length := length_mapMask ..
  have hlen2 : ((g.setPc major pcMaj).setPc minor pcMin).lanes.length = g.lanes.length :=
    (length_mapMask ..).trans hlen1
  rw [lane_setSt, hlen2, lane_setPc, hlen1, lane_setPc]
  by_cases hl : l < g.lanes.length <;> by_cases hmin : inMask minor l = true <;>
    by_cases hmaj : inMask major l = true <;> simp_all

end Split

/-- What completion leaves of a group that a split has left, unless the side that runs stands at the focal. -/
theorem complete_split {g : Group} {k : Com} {low : Nat} {minor major : Word} {pcMin pcMaj focal : DWord}
    (hmajor : major ≠ 0) (hfocal : pcMaj ≠ focal)
    (hcover : ∀ l, inMask g.runMask l = (inMask minor l || inMask major l))
    (hdisj : ∀ l, ¬ (inMask minor l = true ∧ inMask major l = true)) :
    let g1 := splitGroup g.runMask minor major pcMin pcMaj focal g
    (g1.complete g.inH k low).lanes = g1.lanes ∧ (g1.complete g.inH k low).stack = g1.stack := by
  intro g1
  have hlane (l : Nat) : g1.lane l = _ := splitGroup_lane l (hdisj l)
  have hrun : g1.runMask = major := mask_ext fun l => by
    rw [inMask_runMask, hlane]
    have hc := hcover l
    rw [inMask_runMask] at hc
    have hlt := Group.run_lt g l
    rw [inMask_runMask] at hlt
    have hd := hdisj l
    have hm : inMask major l = true → l < 32 := inMask_lt
    split
    · next h => simp_all
    · split
      · next h => simp_all
      · next h1 h2 => grind
  have hpc : g1.runPc = pcMaj := by
    have hmem := inMask_maskLow hmajor
    unfold Group.runPc
    rw [hrun, hlane, if_neg fun h => hdisj _ ⟨h.1, hmem⟩, if_pos ⟨hmem, Group.run_lt g _ (by rw [hcover, hmem, Bool.or_true])⟩]
  unfold Group.complete
  rw [settle_running]
  · exact ⟨rfl, rfl⟩
  · show g1.runMask ≠ 0
    rwa [hrun]
  · intro e r he
    have he' : g1.stack = e :: r := he
    rw [splitGroup_stack] at he'
    cases he'
    show g1.runPc ≠ focal
    rwa [hpc]

/-- What a split that the group issues leaves. -/
theorem split_spec {s : State} {gid : Nat} {g : Group} {k : Com} {minor major : Word} {pcMin pcMaj focal : DWord}
    (hg : SMap.get? s.groups gid = some g) (hmajor : major ≠ 0) (hfocal : pcMaj ≠ focal)
    (hcover : ∀ l, inMask g.runMask l = (inMask minor l || inMask major l))
    (hdisj : ∀ l, ¬ (inMask minor l = true ∧ inMask major l = true)) :
    let t := jumped s gid g k (s.updGroup gid (splitGroup g.runMask minor major pcMin pcMaj focal))
    ∃ g', SMap.get? t.groups gid = some g' ∧ g'.stack = ⟨g.runMask, pcMin, focal, 0⟩ :: g.stack ∧ g'.final = g.final ∧
      (∀ l, inMask major l = true → (g'.lane l).st = .active ∧ (g'.lane l).pc = pcMaj) ∧
      (∀ l, inMask minor l = true → (g'.lane l).st = .deferred ∧ (g'.lane l).pc = pcMin) ∧
      (∀ l, inMask g.runMask l = false → g'.lane l = g.lane l) ∧
      (∀ j, j ≠ gid → SMap.get? t.groups j = SMap.get? s.groups j) := by
  intro t
  have h1 : SMap.get? (s.updGroup gid (splitGroup g.runMask minor major pcMin pcMaj focal)).groups gid =
      some (splitGroup g.runMask minor major pcMin pcMaj focal g) := by
    rw [State.updGroup_groups, SMap.get?_upd_same, hg]
    rfl
  obtain ⟨hlanes, hstack⟩ := complete_split (g := g) (k := k) (low := (GCtx.make g k).lowSlot) (pcMin := pcMin) hmajor
    hfocal hcover hdisj
  have hfinal := (complete_spec (splitGroup g.runMask minor major pcMin pcMaj focal g) g.inH k
    (GCtx.make g k).lowSlot).1
  have hlane (l : Nat) := (congrArg (fun ls => ls.getD l Lane.none) hlanes).trans
    (splitGroup_lane (pcMin := pcMin) (pcMaj := pcMaj) (focal := focal) (g := g) (run := g.runMask) l (hdisj l))
  refine ⟨_, jumped_groups_same g k h1, hstack.trans splitGroup_stack, hfinal.trans splitGroup_final, fun l hl => ?_,
    fun l hl => ?_, fun l hl => ?_, fun j hj => ?_⟩
  · have hrun : inMask g.runMask l = true := by rw [hcover, hl, Bool.or_true]
    refine (congrArg (fun x : Lane => x.st = .active ∧ x.pc = pcMaj) (hlane l)).mpr ?_
    rw [if_neg fun h => hdisj l ⟨h.1, hl⟩, if_pos ⟨hl, Group.run_lt g l hrun⟩]
    exact ⟨TrapEntry.active_of_running hrun, rfl⟩
  · have hrun : inMask g.runMask l = true := by rw [hcover, hl, Bool.true_or]
    refine (congrArg (fun x : Lane => x.st = .deferred ∧ x.pc = pcMin) (hlane l)).mpr ?_
    rw [if_pos ⟨hl, Group.run_lt g l hrun⟩]
    exact ⟨rfl, rfl⟩
  · rw [hcover, Bool.or_eq_false_iff] at hl
    refine (hlane l).trans ?_
    rw [if_neg (by simp [hl.1]), if_neg (by simp [hl.2])]
  · rw [jumped_groups_other g k hj, State.updGroup_groups, SMap.get?_upd_other _ _ _ _ hj]

/-- A divergent branch with room on the path stack splits, unless it ejects its minority. -/
theorem braSplit_diverges {ej : Bool} {s : State} {gid : Nat} {g : Group} {k : Com} :
    let c := GCtx.make g k
    let n := c.run &&& ~~~c.act
    let taken := maskCount n ≤ maskCount c.act
    let minor := if taken then n else c.act
    let major := if taken then c.act else n
    let pcMin := if taken then c.next else c.target k.imm
    let pcMaj := if taken then c.target k.imm else c.next
    c.act ≠ 0 → n ≠ 0 → g.stack.length < stackMax → (ej = true → 8 < maskCount minor) →
      braSplit ej gid c s =
        .jump (s.updGroup gid (splitGroup g.runMask minor major pcMin pcMaj (c.target k.ext))) := by
  intro c n taken minor major pcMin pcMaj hact hn hroom hlarge
  have hroom' : c.g.stack.length < stackMax := by
    have h : c.g.stack = g.stack := seen_stack g
    rwa [h]
  have hsmall : (ej && decide (maskCount minor ≤ 8) && decide (c.g.stack.length < stackMax)) = false := by
    cases ej with
    | false => rfl
    | true => simp [Nat.not_le.mpr (hlarge rfl)]
  unfold braSplit
  rw [if_neg (by simpa using hact), if_neg (by simpa using hn)]
  dsimp only
  rw [hsmall, if_neg (by simp), if_pos hroom']
  refine congrArg Act.jump ?_
  unfold State.withG
  rw [updGroup_updGroup, updGroup_updGroup]
  rfl

/-- Settles O25: the branch changes its own group by `splitGroup`, whose running side stands apart from the focal. -/
theorem divergentBranchSplits : Obligations.DivergentBranchSplits := by
  intro k s gid g c n taken minor major pcMin pcMaj splits h hact hn hroom hfocal
  have hsub (l : Nat) : inMask c.act l = true → inMask c.run l = true := act_subset g k
  have hnl (l : Nat) : inMask n l = (inMask c.run l && !inMask c.act l) := inMask_andNot ..
  have hmajor : major ≠ 0 := by
    show (if taken then c.act else n) ≠ 0
    split
    · exact hact
    · exact hn
  have hcover (l : Nat) : inMask g.runMask l = (inMask minor l || inMask major l) := by
    show inMask c.run l = (inMask (if taken then n else c.act) l || inMask (if taken then c.act else n) l)
    have := hsub l
    have := hnl l
    split <;> grind
  have hdisj (l : Nat) : ¬ (inMask minor l = true ∧ inMask major l = true) := by
    show ¬ (inMask (if taken then n else c.act) l = true ∧ inMask (if taken then c.act else n) l = true)
    have := hnl l
    split <;> grind
  have hsplit (i : Instr) (ej : Bool) (hi : exec i s = issue i k [] (braSplit ej) s)
      (hlarge : ej = true → 8 < maskCount minor) : splits i := by
    obtain ⟨g', hspec⟩ := split_spec (k := k) (pcMin := pcMin) h.grp hmajor hfocal hcover hdisj
    refine ⟨_, g', ?_, hspec⟩
    rw [hi, issue_runs _ _ _ _ _ _ _ h, braSplit_diverges hact hn hroom hlarge]
    rfl
  exact ⟨hsplit _ false rfl (fun e => nomatch e), fun hlarge => hsplit _ true rfl fun _ => hlarge⟩


end Sys2Proof.Proofs.Paths
end

section
/-! PROOFS. The ends of paths: `exit`, `fcs`, `pswp`, and lanes that return from a compacted group. -/

namespace Sys2Proof.Proofs.Paths
open Sys2Proof Sys2Proof.Machine

-- Settled results.

theorem onRegsAll_owedLeft (ws : List (List RegW)) (r : List (SMap Image × BitVec 7) × SMap Image) :
    onRegsAll r (owedLeft ws) = r := by
  induction ws generalizing r with
  | nil => rfl
  | cons w ws ih =>
    rw [owedLeft, onRegsAll_consNe, ih]
    refine onRegs_owed _ _ (List.all_eq_true.mpr fun x hx => ?_)
    exact (List.mem_filter.mp hx).2

theorem settleResults_final (g : Group) : g.settleResults.final = g.final := by
  rw [Group.final_eq]
  exact onRegsAll_owedLeft g.pend _

theorem settleResults_length (g : Group) : g.settleResults.lanes.length = g.lanes.length := by
  have h := congrArg List.length (TrapEntry.settleResults_lanes_bare g)
  rwa [List.length_map, List.length_map] at h

theorem settleResults_pc (g : Group) (l : Nat) : (g.settleResults.lane l).pc = (g.lane l).pc :=
  (congrArg Lane.pc (TrapEntry.settleResults_lane_bare g l) :)

theorem settleResults_st (g : Group) (l : Nat) : (g.settleResults.lane l).st = (g.lane l).st :=
  (congrArg Lane.st (TrapEntry.settleResults_lane_bare g l) :)

theorem settleResults_home (g : Group) (l : Nat) : (g.settleResults.lane l).home = (g.lane l).home :=
  (congrArg Lane.home (TrapEntry.settleResults_lane_bare g l) :)

theorem settleResults_rng (g : Group) (l : Nat) : (g.settleResults.lane l).rng = (g.lane l).rng :=
  (congrArg Lane.rng (TrapEntry.settleResults_lane_bare g l) :)

-- Lanes that exit outside a compacted group.

/-- A lane that has ended at `pc`. -/
def endedAt (pc : DWord) (x : Lane) : Lane := { x with st := .exited, pc := pc }

theorem exitLane_at_home {s : State} {gid l : Nat} {pc : DWord} {g : Group} (hg : SMap.get? s.groups gid = some g)
    (hh : (g.lane l).home = none) : s.exitLane gid l pc = s.updGroup gid (fun a => a.updLane l (endedAt pc)) := by
  unfold State.exitLane
  simp only [hg, hh]
  rfl

theorem foldl_exitLane (pc : DWord) (gid : Nat) (ls : List Nat) (s : State) (g : Group)
    (hg : SMap.get? s.groups gid = some g) (hh : ∀ l, (g.lane l).home = none) :
    ls.foldl (fun a l => a.exitLane gid l pc) s =
      s.updGroup gid (fun a => ls.foldl (fun b l => b.updLane l (endedAt pc)) a) := by
  induction ls generalizing s g with
  | nil => exact congrArg (fun m => { s with groups := m }) (upd_id s.groups gid).symm
  | cons l ls ih =>
    rw [List.foldl_cons, exitLane_at_home hg (hh l), ih _ (g.updLane l (endedAt pc)), updGroup_updGroup]
    · rfl
    · rw [State.updGroup_groups, SMap.get?_upd_same, hg]
      rfl
    · intro j
      rw [Group.lane_updLane]
      split
      · exact hh j
      · exact hh j

/-- What `exit` makes of a group that is not compacted: the lanes of `m` end, the others of the path go on. -/
def exitGroup (m : Word) (pc : DWord) (k : Com) (g : Group) : Group :=
  (g.settleResults.advance (g.runMask &&& ~~~m) k).mapMask m (endedAt pc)

theorem lane_exitGroup (m : Word) (pc : DWord) (k : Com) (g : Group) (l : Nat) (hm : ∀ l, inMask m l = true → inMask g.runMask l = true) :
    ((exitGroup m pc k g).lane l).pc = (if inMask g.runMask l then (if inMask m l then pc else (g.lane l).pc + comBytes k)
      else (g.lane l).pc) ∧
    (((exitGroup m pc k g).lane l).st = .exited ↔ (g.lane l).st = .exited ∨ inMask m l = true) := by
  have hlen : (g.settleResults.advance (g.runMask &&& ~~~m) k).lanes.length = g.lanes.length :=
    (length_mapMask ..).trans (settleResults_length g)
  have hadv : (g.settleResults.advance (g.runMask &&& ~~~m) k).lane l = _ := Group.lane_mapMask ..
  have hpc := settleResults_pc g l
  have hst := settleResults_st g l
  have hlt := Group.run_lt g l
  have hml := hm l
  unfold exitGroup
  rw [Group.lane_mapMask, hlen, hadv, settleResults_length, inMask_andNot]
  unfold endedAt
  grind

theorem final_exitGroup (m : Word) (pc : DWord) (k : Com) (g : Group) : (exitGroup m pc k g).final = g.final := by
  unfold exitGroup
  rw [final_mapMask _ _ (f := endedAt pc) fun _ => rfl]
  exact (final_mapMask _ _ (f := fun x => { x with pc := x.pc + comBytes k }) fun _ => rfl).trans (settleResults_final g)

theorem actExit_at_home {s : State} {gid : Nat} {g : Group} {k : Com} (hg : SMap.get? s.groups gid = some g)
    (hh : ∀ l, (g.lane l).home = none) :
    actExit gid (GCtx.make g k) s = .jump (s.updGroup gid (exitGroup (GCtx.make g k).act g.runPc k)) := by
  have hadv (l : Nat) : ((g.settleResults.advance (g.runMask &&& ~~~(GCtx.make g k).act) k).lane l).home = none := by
    unfold Group.advance
    rw [Group.lane_mapMask]
    have := (settleResults_home g l).trans (hh l)
    split <;> exact this
  refine congrArg Act.jump ?_
  unfold State.withG
  rw [foldl_exitLane _ gid _ _ _ ((SMap.get?_upd_same ..).trans (congrArg _ hg)) hadv, updGroup_updGroup]
  exact updGroup_congr hg rfl

/-- `exit` in a group that is not compacted. -/
theorem exit_spec {s : State} {gid : Nat} {g : Group} {k : Com} (h : Issues s gid g k [])
    (hh : ∀ l, (g.lane l).home = none) :
    let c := GCtx.make g k
    ∃ t g', exec (.exit k) s = .next t ∧
      Goes s t gid g g' (fun l => if inMask c.act l then c.pc0 else (g.lane l).pc + comBytes k) [] ∧
      ∀ l, (g'.lane l).st = .exited ↔ ((g.lane l).st = .exited ∨ inMask c.act l = true) := by
  intro c
  have hlane (l : Nat) := lane_exitGroup c.act g.runPc k g l fun l => act_subset g k
  obtain ⟨g', -, hg', hgoes⟩ := goes_of_updGroup (k := k) (f := exitGroup c.act g.runPc k) h.grp
    (fun l => (hlane l).1) (final_exitGroup ..)
  refine ⟨_, g', ?_, hgoes, fun l => ?_⟩
  · refine (issue_runs _ _ _ actExit _ _ _ h).trans ?_
    rw [actExit_at_home h.grp hh]
    rfl
  · rw [hg']
    exact (complete_sameExited _ _ _ _ l).trans (hlane l).2

-- Focal points and path swap.

theorem fcs_acts {s : State} {gid : Nat} {g : Group} {k : Com} {e : Entry} {r : List Entry} (h : Issues s gid g k [])
    (hs : g.stack = e :: r) (ha : (GCtx.make g k).act ≠ 0) (hf : e.focal = nullFocal) :
    exec (.fcs k) s = .next (jumped s gid g k
      (s.updGroup gid (fun a => { a with stack := { e with focal := (GCtx.make g k).pc0 } :: r }))) := by
  refine (issue_runs _ _ _ actFcs _ _ _ h).trans ?_
  have hs' : (GCtx.make g k).g.stack = e :: r := (seen_stack g).trans hs
  have hacts : ((GCtx.make g k).act != 0 && e.focal == nullFocal) = true := by
    rw [bne_iff_ne.mpr ha, hf]
    rfl
  unfold actFcs
  rw [hs']
  simp only [hacts]
  rfl

theorem fcs_idle {s : State} {gid : Nat} {g : Group} {k : Com} (h : Issues s gid g k [])
    (hi : g.stack = [] ∨ (GCtx.make g k).act = 0 ∨ g.topFocal ≠ nullFocal) :
    exec (.fcs k) s = .next (completed s gid g k s) := by
  refine (issue_runs _ _ _ actFcs _ _ _ h).trans ?_
  have hs' : (GCtx.make g k).g.stack = g.stack := seen_stack g
  unfold actFcs
  rw [hs']
  unfold Group.topFocal at hi
  cases hs : g.stack with
  | nil => rfl
  | cons e r =>
    rw [hs] at hi
    have hidle : ((GCtx.make g k).act != 0 && e.focal == nullFocal) = false := by
      obtain hi | hi | hi := hi
      · cases hi
      · simp [hi]
      · simp at hi
        simp [hi]
    simp only [hidle]
    rfl

theorem pswp_acts {s : State} {gid : Nat} {g : Group} {k : Com} (h : Issues s gid g k [])
    (hs : g.stack ≠ []) (ha : (GCtx.make g k).act ≠ 0) :
    exec (.pswp k) s = .next (jumped s gid g k (s.updGroup gid (fun a =>
      (a.advance (GCtx.make g k).run k).setSt (GCtx.make g k).run .deferred))) := by
  refine (issue_runs _ _ _ actPswp _ _ _ h).trans ?_
  have hs' : (GCtx.make g k).g.stack = g.stack := seen_stack g
  have hacts : ((GCtx.make g k).g.stack.isEmpty || (GCtx.make g k).act == 0) = false := by
    rw [hs', Bool.or_eq_false_iff]
    exact ⟨by simp [hs], beq_eq_false_iff_ne.mpr ha⟩
  unfold actPswp
  rw [hacts]
  rfl

theorem pswp_idle {s : State} {gid : Nat} {g : Group} {k : Com} (h : Issues s gid g k [])
    (hi : g.stack = [] ∨ (GCtx.make g k).act = 0) : exec (.pswp k) s = .next (completed s gid g k s) := by
  refine (issue_runs _ _ _ actPswp _ _ _ h).trans ?_
  have hs' : (GCtx.make g k).g.stack = g.stack := seen_stack g
  have hidle : ((GCtx.make g k).g.stack.isEmpty || (GCtx.make g k).act == 0) = true := by
    rw [hs']
    obtain hi | hi := hi <;> simp [hi]
  unfold actPswp
  rw [hidle]
  rfl

-- Lanes that go home.

/-- What a returning lane brings to its home lane. -/
def broughtHome (x : Lane) (f : DWord) (y : Lane) : Lane :=
  { y with st := .deferred, pc := f, v := x.v, pr := x.pr, rng := x.rng, foc := 0, home := none }

/-- What the return of its lane `l` leaves of a compacted group. -/
def leftBy (l : Nat) (g : Group) : Group :=
  { g.updLane l (fun _ => Lane.none) with
    stack := g.stack.map (fun e => { e with mask := e.mask &&& ~~~(1#32 <<< l) }) }

theorem returnLane_eq {s : State} {gid l : Nat} {f : DWord} {g : Group} {h : Home} (hg : SMap.get? s.groups gid = some g)
    (hh : (g.lane l).home = some h) :
    s.returnLane gid l f = (s.updGroup gid (leftBy l)).homeLane h (broughtHome (g.lane l) f) := by
  unfold State.returnLane
  simp only [hg, hh]
  rfl

theorem leftBy_lane {l m : Nat} (g : Group) (hm : m ≠ l) : (leftBy l g).lane m = g.lane m := by
  show (g.updLane l (fun _ => Lane.none)).lane m = _
  rw [Group.lane_updLane, if_neg fun h => hm h.1]

theorem runMask_ne_zero_iff (g : Group) : g.runMask ≠ 0 ↔ ∃ l, inMask g.runMask l = true := by
  refine ⟨fun h => ⟨_, inMask_maskLow h⟩, fun ⟨l, hl⟩ h => ?_⟩
  rw [h] at hl
  simp [inMask] at hl

theorem updLane_runMask {g : Group} {n : Nat} {f : Lane → Lane} (hrun : g.runMask ≠ 0) (hst : (g.lane n).st ≠ .active) :
    (g.updLane n f).runMask ≠ 0 := by
  obtain ⟨l, hl⟩ := (runMask_ne_zero_iff g).mp hrun
  refine (runMask_ne_zero_iff _).mpr ⟨l, ?_⟩
  have hne : l ≠ n := fun h => hst (h ▸ TrapEntry.active_of_running hl)
  rw [inMask_runMask] at hl ⊢
  rwa [Group.lane_updLane, if_neg fun h => hne h.1]

/-- A home group whose path runs takes a change of one lane without a choice of path. -/
theorem homeLane_running {s : State} {h : Home} {f : Lane → Lane} {hg : Group} (hget : SMap.get? s.groups h.gid = some hg)
    (hrun : hg.runMask ≠ 0) (hst : (hg.lane h.lane).st ≠ .active) :
    ∃ hg', SMap.get? (s.homeLane h f).groups h.gid = some hg' ∧ hg'.lanes = (hg.updLane h.lane f).lanes := by
  have hrun' : (({ hg.updLane h.lane f with
      stack := joinDrop (hg.updLane h.lane f).stack h.lane }.recount.runMask == 0) : Bool) = false :=
    beq_eq_false_iff_ne.mpr (updLane_runMask (f := f) hrun hst)
  refine ⟨_, (SMap.get?_upd_same ..).trans (congrArg _ hget), ?_⟩
  dsimp only
  rw [hrun']
  rfl

theorem homeLane_other {s : State} {h : Home} {f : Lane → Lane} {j : Nat} (hj : j ≠ h.gid) :
    SMap.get? (s.homeLane h f).groups j = SMap.get? s.groups j := SMap.get?_upd_other _ _ _ _ hj

/-- The home lane of `x`, of another group than `gid`, is ejected, in a group whose path runs. -/
def HomeWaits (s : State) (gid : Nat) (x : Lane) : Prop :=
  ∃ h hg, x.home = some h ∧ h.gid ≠ gid ∧ SMap.get? s.groups h.gid = some hg ∧ hg.runMask ≠ 0 ∧
    (hg.lane h.lane).st = .ejected ∧ h.lane < hg.lanes.length

/-- Two lanes come from one lane. -/
def SameHome (x y : Lane) : Prop :=
  ∃ h h' : Home, x.home = some h ∧ y.home = some h' ∧ h.gid = h'.gid ∧ h.lane = h'.lane

/-- What the return of one lane leaves. -/
theorem returnLane_spec {s : State} {gid l : Nat} {f : DWord} {g hg : Group} {h : Home}
    (hget : SMap.get? s.groups gid = some g) (hh : (g.lane l).home = some h) (hne : h.gid ≠ gid)
    (hhome : SMap.get? s.groups h.gid = some hg) (hrun : hg.runMask ≠ 0) (hst : (hg.lane h.lane).st = .ejected) :
    SMap.get? (s.returnLane gid l f).groups gid = some (leftBy l g) ∧
    (∃ hg', SMap.get? (s.returnLane gid l f).groups h.gid = some hg' ∧
      hg'.lanes = (hg.updLane h.lane (broughtHome (g.lane l) f)).lanes) ∧
    ∀ j, j ≠ gid → j ≠ h.gid → SMap.get? (s.returnLane gid l f).groups j = SMap.get? s.groups j := by
  rw [returnLane_eq hget hh]
  have hleft (j : Nat) (hj : j ≠ gid) : SMap.get? (s.updGroup gid (leftBy l)).groups j = SMap.get? s.groups j :=
    SMap.get?_upd_other _ _ _ _ hj
  refine ⟨?_, homeLane_running ((hleft _ hne).trans hhome) hrun (by simp [hst]), fun j hj hj' => ?_⟩
  · rw [homeLane_other (Ne.symm hne)]
    exact (SMap.get?_upd_same ..).trans (congrArg _ hget)
  · rw [homeLane_other hj', hleft j hj]

theorem lane_of_lanes {a b : Group} (h : a.lanes = b.lanes) (l : Nat) : a.lane l = b.lane l :=
  congrArg (fun ls => ls.getD l Lane.none) h

theorem runMask_of_lanes {a b : Group} (h : a.lanes = b.lanes) : a.runMask = b.runMask :=
  mask_ext fun l => by rw [inMask_runMask, inMask_runMask, lane_of_lanes h]

/-- The return of one lane leaves every other home lane as it stands. -/
theorem returnLane_keeps {s : State} {gid l : Nat} {f : DWord} {g : Group} (hget : SMap.get? s.groups gid = some g)
    (hw : HomeWaits s gid (g.lane l)) {j n : Nat} {a : Group} (hj : j ≠ gid) (ha : SMap.get? s.groups j = some a)
    (hn : ∀ h, (g.lane l).home = some h → h.gid = j → h.lane ≠ n) :
    ∃ b, SMap.get? (s.returnLane gid l f).groups j = some b ∧ b.lane n = a.lane n ∧ b.lanes.length = a.lanes.length ∧
      (a.runMask ≠ 0 → b.runMask ≠ 0) := by
  obtain ⟨h, hg, hh, hne, hhome, hrun, hst, -⟩ := hw
  obtain ⟨-, ⟨hg', hget', hlanes⟩, hother⟩ := returnLane_spec (f := f) hget hh hne hhome hrun hst
  by_cases hjh : j = h.gid
  · subst hjh
    rw [hhome] at ha
    cases ha
    refine ⟨hg', hget', ?_, ?_, fun _ => ?_⟩
    · rw [lane_of_lanes hlanes, Group.lane_updLane, if_neg fun e => hn h hh rfl e.1.symm]
    · rw [hlanes]
      exact length_updAt ..
    · rw [runMask_of_lanes hlanes]
      exact updLane_runMask hrun (by simp [hst])
  · exact ⟨a, (hother j hj hjh).trans ha, rfl, rfl, id⟩

theorem returnLane_waits {s : State} {gid l m : Nat} {f : DWord} {g : Group} (hget : SMap.get? s.groups gid = some g)
    (hl : HomeWaits s gid (g.lane l)) (hm : HomeWaits s gid (g.lane m)) (hd : ¬ SameHome (g.lane l) (g.lane m))
    (hlm : m ≠ l) : HomeWaits (s.returnLane gid l f) gid ((leftBy l g).lane m) := by
  obtain ⟨h, hg, hh, hne, hhome, hrun, hst, hlt⟩ := hm
  obtain ⟨b, hb, hlane, hlen, hbrun⟩ := returnLane_keeps (f := f) hget hl (n := h.lane) hne hhome
    fun h' hh' he hn => hd ⟨h', h, hh', hh, he, hn⟩
  rw [leftBy_lane g hlm]
  exact ⟨h, b, hh, hne, hb, hbrun hrun, hlane ▸ hst, hlen ▸ hlt⟩

/-- What the return of several lanes leaves: each is home, and other home lanes stand as they stood. -/
theorem foldl_returnLane (gid : Nat) (f : DWord) (ls : List Nat) (hnd : ls.Nodup) (s : State) (g : Group)
    (hget : SMap.get? s.groups gid = some g) (hw : ∀ l ∈ ls, HomeWaits s gid (g.lane l))
    (hd : ∀ l ∈ ls, ∀ m ∈ ls, SameHome (g.lane l) (g.lane m) → l = m) :
    let t := ls.foldl (fun a l => a.returnLane gid l f) s
    (∀ l ∈ ls, ∀ h, (g.lane l).home = some h → ∃ hg y, SMap.get? t.groups h.gid = some hg ∧
      hg.lane h.lane = broughtHome (g.lane l) f y) ∧
    ∀ j n a, j ≠ gid → SMap.get? s.groups j = some a →
      (∀ l ∈ ls, ∀ h, (g.lane l).home = some h → h.gid = j → h.lane ≠ n) →
      ∃ b, SMap.get? t.groups j = some b ∧ b.lane n = a.lane n := by
  induction ls generalizing s g with
  | nil => exact ⟨fun l hl => (List.not_mem_nil hl).elim, fun j n a _ ha _ => ⟨a, ha, rfl⟩⟩
  | cons l ls ih =>
    obtain ⟨hl, hnd⟩ := List.nodup_cons.mp hnd
    have hwl := hw l List.mem_cons_self
    have hne (m : Nat) (hm : m ∈ ls) : m ≠ l := fun e => hl (e ▸ hm)
    have hlane (m : Nat) (hm : m ∈ ls) : (leftBy l g).lane m = g.lane m := leftBy_lane g (hne m hm)
    have hmem (m : Nat) (hm : m ∈ ls) : m ∈ l :: ls := List.mem_cons_of_mem _ hm
    obtain ⟨h, hg, hh, hgid, hhome, hrun, hst, hlt⟩ := id hwl
    obtain ⟨hleft, ⟨hg', hget', hlanes⟩, -⟩ := returnLane_spec (f := f) hget hh hgid hhome hrun hst
    obtain ⟨hback, hkeep⟩ := ih hnd (s.returnLane gid l f) (leftBy l g) hleft
      (fun m hm => returnLane_waits hget hwl (hw m (hmem m hm))
        (fun e => hne m hm (hd l List.mem_cons_self m (hmem m hm) e).symm) (hne m hm))
      (fun m hm m' hm' => by
        rw [hlane m hm, hlane m' hm']
        exact hd m (hmem m hm) m' (hmem m' hm'))
    refine ⟨fun m hm h' hh' => ?_, fun j n a hj ha hn => ?_⟩
    · obtain rfl | hm := List.mem_cons.mp hm
      · rw [hh] at hh'
        cases hh'
        obtain ⟨b, hb, hblane⟩ := hkeep h.gid h.lane hg' hgid hget' fun m' hm' h'' hh'' he hn => by
          rw [hlane m' hm'] at hh''
          exact hne m' hm' (hd m' (hmem m' hm') m List.mem_cons_self ⟨h'', h, hh'', hh, he, hn⟩)
        refine ⟨b, hg.lane h.lane, hb, hblane.trans ?_⟩
        rw [lane_of_lanes hlanes, Group.lane_updLane, if_pos ⟨rfl, hlt⟩]
      · have := hback m hm h'
        rw [hlane m hm] at this
        exact this hh'
    · obtain ⟨b, hb, hblane, -, -⟩ := returnLane_keeps (f := f) hget hwl hj ha
        fun h' hh' he => hn l List.mem_cons_self h' hh' he
      obtain ⟨b', hb', hblane'⟩ := hkeep j n b hj hb fun m hm h' hh' he => by
        rw [hlane m hm] at hh'
        exact hn m (hmem m hm) h' hh' he
      exact ⟨b', hb', hblane'.trans hblane⟩

/-- The lanes of a running path that returns, each in its home group. -/
theorem compactReturn_spec {s : State} {gid : Nat} {g : Group} (hget : SMap.get? s.groups gid = some g)
    (hret : g.atReturn = true) (hw : ∀ l, inMask g.runMask l = true → HomeWaits s gid (g.lane l))
    (hd : ∀ l m, inMask g.runMask l = true → inMask g.runMask m = true → SameHome (g.lane l) (g.lane m) → l = m)
    {l : Nat} {h : Home} (hl : inMask g.runMask l = true) (hh : (g.lane l).home = some h) :
    ∃ hg y, SMap.get? (evCompactReturn gid s).groups h.gid = some hg ∧
      hg.lane h.lane = broughtHome (g.settleResults.lane l) g.runPc y := by
  have hget1 : SMap.get? (s.withG gid Group.settleResults).groups gid = some g.settleResults :=
    (SMap.get?_upd_same ..).trans (congrArg _ hget)
  have hhome (m : Nat) := settleResults_home g m
  have hgid : h.gid ≠ gid := by
    obtain ⟨h', -, hh', hne, -⟩ := hw l hl
    rw [hh] at hh'
    cases hh'
    exact hne
  obtain ⟨hback, -⟩ := foldl_returnLane gid g.runPc (maskLanes g.runMask) (nodup_maskLanes _)
    (s.withG gid Group.settleResults) g.settleResults hget1 (fun m hm => by
      obtain ⟨h', hg, hh', hne, hgrp, hrest⟩ := hw m ((mem_maskLanes ..).mp hm)
      exact ⟨h', hg, (hhome m).trans hh', hne, (SMap.get?_upd_other _ _ _ _ hne).trans hgrp, hrest⟩)
    (fun m hm m' hm' ⟨h1, h2, e1, e2, he⟩ => hd m m' ((mem_maskLanes ..).mp hm) ((mem_maskLanes ..).mp hm')
      ⟨h1, h2, (hhome m).symm.trans e1, (hhome m').symm.trans e2, he⟩)
  obtain ⟨hg, y, hgrp, hlane⟩ := hback l ((mem_maskLanes ..).mpr hl) h ((hhome l).trans hh)
  refine ⟨hg, y, ?_, hlane⟩
  unfold evCompactReturn
  simp only [hget, hret, if_true]
  exact (SMap.get?_upd_other _ _ _ _ hgid).trans hgrp

/-- Settles O26: each end of a path by its own lemma above. -/
theorem pathEnds : Obligations.PathEnds := by
  intro k s gid g c
  refine ⟨fun h => ⟨exit_spec h, fun e r => fcs_acts h, fcs_idle h, pswp_acts h, pswp_idle h⟩, fun hget hret hw hd => ?_⟩
  refine ⟨_, rfl, fun l h hl hh => ?_⟩
  obtain ⟨hg, y, hgrp, hlane⟩ := compactReturn_spec hget hret hw
    (fun l m hl hm ⟨h1, h2, e1, e2, he, hn⟩ => hd l m h1 h2 hl hm e1 e2 he hn) hl hh
  refine ⟨hg, hgrp, ?_⟩
  rw [hlane]
  exact ⟨rfl, rfl, rfl, rfl, settleResults_rng g l, rfl⟩

end Sys2Proof.Proofs.Paths
end

section
/-! SUPPORT. What the operations of the memory system leave as it stands: groups, teams, grids, contexts, operations and
the schedule. -/

namespace Sys2Proof.Proofs.Front

-- Theorem by theorem: the many that are elaborated at once would each take a thread.
set_option Elab.async false
open Sys2Proof Sys2Proof.Machine

/-- A state but for what the memory system changes: caches, queues, memory, the device's writes and the module.
    -/
def front (s : State) : State :=
  { s with nid := 0, draws := 0, cores := [], dies := [], hbms := [], mem := [], poison := [], keyOf
      := [],
           vds := [], devQ := [], mod := Module.init }

theorem foldl_front {α : Type} {f : State → α → State} (hf : ∀ s x, front (f s x) = front s) (s : State) (xs : List
    α) :
    front (xs.foldl f s) = front s := by
  induction xs generalizing s with
  | nil => rfl
  | cons x xs ih => exact (ih (f s x)).trans (hf s x)

theorem fst_foldl_front {α β : Type} {f : State × β → α → State × β} (hf : ∀ p x, front (f p x).1 = front p.1)
    (p : State × β) (xs : List α) : front (xs.foldl f p).1 = front p.1 := by
  induction xs generalizing p with
  | nil => rfl
  | cons x xs ih => exact (ih (f p x)).trans (hf p x)

theorem State.setDie_front (s : State) (d x) : front (s.setDie d x) = front s := rfl

theorem State.updDie_front (s : State) (d f) : front (s.updDie d f) = front s := rfl

theorem State.setCore_front (s : State) (c x) : front (s.setCore c x) = front s := rfl

theorem State.updCore_front (s : State) (c f) : front (s.updCore c f) = front s := rfl

theorem State.setStack_front (s : State) (k x) : front (s.setStack k x) = front s := rfl

theorem State.updStack_front (s : State) (k f) : front (s.updStack k f) = front s := rfl

theorem State.setVd_front (s : State) (v x) : front (s.setVd v x) = front s := rfl

theorem State.updVd_front (s : State) (v f) : front (s.updVd v f) = front s := rfl

theorem State.updMod_front (s : State) (f) : front (s.updMod f) = front s := rfl

theorem State.fresh_front (s : State) : front (s.fresh) = front s := rfl

theorem State.draw_front (s : State) : front (s.draw) = front s := rfl

theorem State.emit_front (s : State) (o) : front (s.emit o) = front s := rfl

theorem State.meter_front (s : State) (d v f) : front (s.meter d v f) = front s := rfl

theorem State.count_front (s : State) (d c f) : front (s.count d c f) = front s := rfl

theorem State.stall_front (s : State) (d c cause timed) : front (s.stall d c cause timed) = front s := rfl

theorem State.cxlRead_front (s : State) (d c) : front (s.cxlRead d c) = front s := by
  unfold State.cxlRead
  grind [State.stall_front, State.draw_front]

theorem State.lostHit_front (s : State) (d c) : front (s.lostHit d c) = front s := rfl

theorem State.freeBytes_front (s : State) (n) : front (s.freeBytes n).1 = front s := rfl

theorem State.homeRead_front (s : State) (a n key) : front (s.homeRead a n key).1 = front s := by
  unfold State.homeRead
  grind [State.draw_front]

theorem State.rekey_front (s : State) (key u) : front (s.rekey key u) = front s := by
  unfold State.rekey
  grind [State.freeBytes_front, front]

theorem State.homeWrite_front (s : State) (a bs key) : front (s.homeWrite a bs key) = front s := by
  unfold State.homeWrite
  grind [foldl_front, State.rekey_front, front, fst_foldl_front]

theorem State.homeBytes_front (s : State) (bs clr key) : front (s.homeBytes bs clr key) = front s := by
  unfold State.homeBytes
  grind [foldl_front, State.rekey_front, front, fst_foldl_front]

theorem State.poisonUnits_front (s : State) (us) : front (s.poisonUnits us) = front s := rfl

theorem State.readCyc_front (s : State) (d) : front (s.readCyc d).1 = front s := rfl

theorem State.portReq_front (s : State) (kind pa mask q ctx) : front (s.portReq kind pa mask q ctx) = front s := by
  unfold State.portReq
  grind [State.setStack_front, State.meter_front]

theorem State.portSend_front (s : State) (kind pa mask ctx) : front (s.portSend kind pa mask ctx) = front s := by
  unfold State.portSend
  grind [State.portReq_front]

theorem State.mscOut_front (s : State) (d l) : front (s.mscOut d l) = front s := by
  unfold State.mscOut
  grind [State.portSend_front, State.poisonUnits_front]

theorem State.mscEvict_front (s : State) (d k) : front (s.mscEvict d k) = front s := by
  unfold State.mscEvict
  grind [State.mscOut_front, State.updDie_front]

theorem State.mscReq_front (s : State) (pa mask kind a) : front (s.mscReq pa mask kind a) = front s := by
  unfold State.mscReq
  grind [State.portSend_front, State.updDie_front, State.stall_front, State.mscEvict_front, State.setDie_front]

theorem State.l2Wb_front (s : State) (pa drop) : front (s.l2Wb pa drop) = front s := by
  unfold State.l2Wb
  grind [State.poisonUnits_front, State.mscReq_front, State.updDie_front]

theorem State.guestDrop_front (s : State) (d line) : front (s.guestDrop d line) = front s := rfl

theorem State.cxlMeter_front (s : State) (d ctx n) : front (s.cxlMeter d ctx n) = front s := rfl

theorem State.farWb_front (s : State) (d line drop) : front (s.farWb d line drop) = front s := by
  unfold State.farWb
  grind [State.poisonUnits_front, State.homeBytes_front, State.cxlMeter_front, State.updDie_front]

theorem State.guestsOut_front (s : State) (d line) : front (s.guestsOut d line) = front s := by
  unfold State.guestsOut
  grind [foldl_front, State.guestDrop_front, State.updDie_front, fst_foldl_front]

theorem State.l2Room_front (s : State) (dN line) : front (s.l2Room dN line) = front s := by
  unfold State.l2Room
  grind [State.l2Wb_front, State.guestsOut_front, State.draw_front, State.guestDrop_front, State.farWb_front]

theorem State.l2Use_front (s : State) (line need wr at' a) : front (s.l2Use line need wr at' a) = front s := by
  unfold State.l2Use
  grind [State.l2Room_front, State.mscReq_front, State.updDie_front]

theorem State.stamp_front (s : State) (d) : front (s.stamp d) = front s := rfl

theorem State.sendUpd_front (s : State) (d p) : front (s.sendUpd d p) = front s := rfl

theorem State.fanOut_front (s : State) (home skip p) : front (s.fanOut home skip p) = front s := by
  unfold State.fanOut
  grind [foldl_front, State.sendUpd_front, fst_foldl_front]

theorem State.homeApply_front (s : State) (bs m key at' a) : front (s.homeApply bs m key at' a) = front s := by
  unfold State.homeApply
  grind [State.homeBytes_front, State.l2Use_front, State.updDie_front, State.poisonUnits_front]

theorem State.askHost_front (s : State) (ls) : front (s.askHost ls) = front s := by
  unfold State.askHost
  grind [foldl_front, State.updMod_front, State.emit_front, fst_foldl_front]

theorem State.homeHold_front (s : State) (home line bs m key a) : front (s.homeHold home line bs m key a) = front s
    := by
  unfold State.homeHold
  grind [State.stamp_front, State.askHost_front, State.sendUpd_front]

theorem State.homeStore_front (s : State) (home bs m key a) : front (s.homeStore home bs m key a) = front s := by
  unfold State.homeStore
  grind [State.homeHold_front, State.homeApply_front, State.stamp_front, State.fanOut_front]

theorem State.guestApply_front (s : State) (d p) : front (s.guestApply d p) = front s := by
  unfold State.guestApply
  grind [State.updDie_front]

theorem State.applyUpd_front (s : State) (d idx) : front (s.applyUpd d idx) = front s := by
  unfold State.applyUpd
  grind [State.updDie_front, State.fanOut_front, State.homeApply_front, State.guestApply_front]

theorem State.pump_front (sel : Nat → UpdPkt → Bool) (n : Nat) (s : State) : front (State.pump sel n s) = front s :=
    by
  induction n generalizing s with
  | zero => rfl
  | succ n ih =>
    unfold State.pump
    split
    · exact (ih _).trans (State.applyUpd_front ..)
    · rfl

theorem State.join_front (s : State) (d line c) : front (s.join d line c) = front s := by
  unfold State.join
  grind [State.pump_front, State.updDie_front]

theorem State.meet_front (s : State) (d hd line) : front (s.meet d hd line) = front s := by
  unfold State.meet
  grind [State.join_front]

theorem State.spread_front (s : State) (d) : front (s.spread d) = front s := by
  unfold State.spread
  grind [State.pump_front]

theorem State.joinAll_front (s : State) (d) : front (s.joinAll d) = front s := by
  unfold State.joinAll
  grind [State.join_front]

theorem State.settleUpd_front (s : State) : front (s.settleUpd) = front s := by
  unfold State.settleUpd
  grind [State.pump_front]

theorem State.devStore_front (s : State) (home bs m key a) : front (s.devStore home bs m key a) = front s := by
  unfold State.devStore
  grind [State.homeStore_front, State.mscReq_front, State.poisonUnits_front, State.homeBytes_front]

theorem State.devWrite_front (s : State) (pa bs key ctx cls) : front (s.devWrite pa bs key ctx cls) = front s := by
  unfold State.devWrite
  grind [foldl_front, State.devStore_front, State.homeWrite_front, fst_foldl_front]

theorem State.relNew_front (s : State) (r) : front (s.relNew r) = front s := by
  unfold State.relNew
  grind [State.updDie_front, State.updMod_front, State.devWrite_front]

theorem State.relWrite_front (s : State) (r) : front (s.relWrite r) = front s := by
  unfold State.relWrite
  grind [State.updDie_front, State.devWrite_front, State.relNew_front]

theorem State.relRec_front (s : State) (src sev d unit ctx loc) : front (s.relRec src sev d unit ctx loc) = front s
    := by
  unfold State.relRec
  grind [State.readCyc_front, State.relWrite_front]

theorem State.sysWriteAs_front (s : State) (pa bs key ctx cls) : front (s.sysWriteAs pa bs key ctx cls) = front s :=
    by
  unfold State.sysWriteAs
  grind [State.relRec_front, State.devWrite_front]

theorem State.sysWrite_front (s : State) (pa bs key) : front (s.sysWrite pa bs key) = front s := by
  unfold State.sysWrite
  grind [State.sysWriteAs_front]

theorem State.copyOf_front (s : State) (line key) : front (s.copyOf line key).1 = front s := by
  unfold State.copyOf
  grind [State.homeRead_front]

end Sys2Proof.Proofs.Front
end

section
/-! SUPPORT. Translation, caches and the accesses of the device change the memory system alone. -/

namespace Sys2Proof.Proofs.Front

-- Theorem by theorem: the many that are elaborated at once would each take a thread.
set_option Elab.async false
open Sys2Proof Sys2Proof.Machine

theorem State.guestLine_front (s : State) (d home pa key a) : front (s.guestLine d home pa key a).1 = front s := by
  unfold State.guestLine
  grind [State.join_front, State.copyOf_front, State.updDie_front, State.l2Use_front, State.l2Room_front]

theorem State.farLine_front (s : State) (pa key a) : front (s.farLine pa key a).1 = front s := by
  unfold State.farLine
  grind [State.copyOf_front, State.l2Room_front, State.cxlRead_front, State.cxlMeter_front, State.updDie_front]

theorem State.holeRead_front (s : State) (a pa n) : front (s.holeRead a pa n).1 = front s := by
  unfold State.holeRead
  grind [State.freeBytes_front, State.relRec_front]

theorem State.holeWrite_front (s : State) (a pa) : front (s.holeWrite a pa) = front s := by
  unfold State.holeWrite
  grind [State.relRec_front]

theorem State.l2Get_front (s : State) (a sys pa n key) : front (s.l2Get a sys pa n key).1 = front s := by
  unfold State.l2Get
  grind [State.holeRead_front, State.homeRead_front, State.l2Use_front, State.guestLine_front, State.cxlRead_front,
    State.cxlMeter_front, State.farWb_front, State.farLine_front]

theorem State.l2Read_front (s : State) (a sys pa n key) : front (s.l2Read a sys pa n key).1 = front s := by
  unfold State.l2Read
  grind [State.l2Get_front]

theorem State.l2Write_front (s : State) (a sys bs m key) : front (s.l2Write a sys bs m key) = front s := by
  unfold State.l2Write
  grind [State.holeWrite_front, State.homeStore_front, State.guestLine_front, State.stamp_front, State.updDie_front,
    State.sendUpd_front, State.farWb_front, State.lostHit_front, State.poisonUnits_front, State.homeBytes_front,
    State.cxlMeter_front, State.farLine_front]

theorem State.l1Send_front (s : State) (a c line mask) : front (s.l1Send a c line mask) = front s := by
  unfold State.l1Send
  grind [State.updCore_front, State.l2Write_front]

theorem State.l1Out_front (s : State) (a c line) : front (s.l1Out a c line) = front s := by
  unfold State.l1Out
  grind [State.updCore_front, State.l1Send_front]

theorem State.l1Room_front (s : State) (a c) : front (s.l1Room a c) = front s := by
  unfold State.l1Room
  grind [State.l1Out_front, State.draw_front]

theorem State.l1Line_front (s : State) (a c line key first) : front (s.l1Line a c line key first) = front s := by
  unfold State.l1Line
  grind [State.l1Out_front, State.updCore_front, State.l1Room_front]

theorem State.l1Fill_front (s : State) (a c g first) : front (s.l1Fill a c g first) = front s := by
  unfold State.l1Fill
  grind [State.l2Get_front, State.updCore_front]

theorem State.readPast_front (s : State) (a c g) : front (s.readPast a c g).1 = front s := by
  unfold State.readPast
  grind [State.l2Get_front]

theorem State.msSend_front (s : State) (kind pa n q a) : front (s.msSend kind pa n q a) = front s := by
  unfold State.msSend
  grind [State.portReq_front, State.cxlMeter_front]

theorem State.meetAt_front (s : State) (d pa) : front (s.meetAt d pa) = front s := by
  unfold State.meetAt
  grind [State.meet_front]

theorem State.spoilLine_front (s : State) (line) : front (s.spoilLine line) = front s := rfl

theorem State.msPut_front (s : State) (pa bs) : front (s.msPut pa bs) = front s := by
  unfold State.msPut
  grind [State.freeBytes_front, State.spoilLine_front, State.homeWrite_front]

theorem State.msGet_front (s : State) (pa n) : front (s.msGet pa n).1 = front s := by
  unfold State.msGet
  grind [State.freeBytes_front, State.homeRead_front]

theorem State.msRead_front (s : State) (pa n a) : front (s.msRead pa n a).1 = front s := by
  unfold State.msRead
  grind [State.holeRead_front, State.msGet_front, State.msSend_front, State.meetAt_front]

theorem State.msWrite_front (s : State) (pa bs a) : front (s.msWrite pa bs a) = front s := by
  unfold State.msWrite
  grind [State.holeWrite_front, State.lostHit_front, State.msSend_front, State.msPut_front, State.meetAt_front]

theorem State.ringBell_front (s : State) (k) : front (s.ringBell k) = front s := by
  unfold State.ringBell
  grind [State.updMod_front]

theorem State.taskWrite_front (s : State) (k o bs) : front (s.taskWrite k o bs) = front s := by
  unfold State.taskWrite
  grind [State.updMod_front, foldl_front, State.ringBell_front, fst_foldl_front]

theorem State.readCell_front (s : State) (a sc pol g) : front (s.readCell a sc pol g).1 = front s := by
  unfold State.readCell
  grind [State.holeRead_front, State.msRead_front, State.l2Read_front, State.readPast_front, State.l1Fill_front,
    State.l1Line_front, State.l1Send_front]

theorem State.writeCell_front (s : State) (a sc pol g bs) : front (s.writeCell a sc pol g bs) = front s := by
  unfold State.writeCell
  grind [State.taskWrite_front, State.msWrite_front, State.l2Write_front, State.updCore_front, State.l1Line_front,
    State.l1Send_front]

theorem State.tsWrite_front (s : State) (core a bs p) : front (s.tsWrite core a bs p) = front s := rfl

theorem State.readSeg_front (s : State) (a sc pol g) : front (s.readSeg a sc pol g).1 = front s := by
  unfold State.readSeg
  grind [foldl_front, State.readCell_front, fst_foldl_front]

theorem State.writeSeg_front (s : State) (a sc pol g bs) : front (s.writeSeg a sc pol g bs) = front s := by
  unfold State.writeSeg
  grind [State.tsWrite_front, foldl_front, State.writeCell_front, fst_foldl_front]

theorem State.readSegs_front (s : State) (a sc pol gs) : front (s.readSegs a sc pol gs).1 = front s := by
  unfold State.readSegs
  grind [foldl_front, State.readSeg_front, fst_foldl_front]

theorem State.writeSegs_front (s : State) (a sc pol gs bs) : front (s.writeSegs a sc pol gs bs) = front s := by
  unfold State.writeSegs
  grind [foldl_front, State.writeSeg_front, fst_foldl_front]

theorem State.poisonSegs_front (s : State) (a gs) : front (s.poisonSegs a gs) = front s := by
  unfold State.poisonSegs
  grind [foldl_front, State.updCore_front, State.poisonUnits_front, front, fst_foldl_front]

theorem State.l1Flush_front (s : State) (a c sel) : front (s.l1Flush a c sel) = front s := by
  unfold State.l1Flush
  grind [foldl_front, State.l1Send_front, fst_foldl_front]

theorem State.l1Clean_front (s : State) (c) : front (s.l1Clean c) = front s := rfl

theorem State.fenceCaches_front (s : State) (a sc rel acq push) : front (s.fenceCaches a sc rel acq push) = front s
    := by
  unfold State.fenceCaches
  grind [foldl_front, State.l1Flush_front, State.l1Clean_front, State.spread_front, State.l1Out_front,
    State.farWb_front, fst_foldl_front]

theorem State.vector_front (s : State) (v vec) : front (s.vector v vec).1 = front s := by
  unfold State.vector
  grind [State.setVd_front, State.emit_front]

theorem State.awaitTier_front (s : State) (v n) : front (s.awaitTier v n) = front s := by
  unfold State.awaitTier
  grind [State.updVd_front]

theorem State.tierSeen_front (s : State) (v who) : front (s.tierSeen v who) = front s := rfl

theorem State.devFail_front (s : State) (die ctx who t) : front (s.devFail die ctx who t) = front s := by
  unfold State.devFail
  grind [State.lostHit_front, State.tierSeen_front]

theorem State.devGet_front (s : State) (a who g) : front (s.devGet a who g).1 = front s := by
  unfold State.devGet
  grind [State.freeBytes_front, State.relRec_front, foldl_front, State.msRead_front, State.cxlRead_front,
    State.cxlMeter_front, State.homeRead_front, fst_foldl_front]

theorem State.devSet_front (s : State) (a who g bs) : front (s.devSet a who g bs) = front s := by
  unfold State.devSet
  grind [State.relRec_front, foldl_front, State.msWrite_front, State.cxlMeter_front, State.devWrite_front,
    fst_foldl_front]

theorem State.devGets_front (s : State) (a who gs) : front (s.devGets a who gs).1 = front s := by
  unfold State.devGets
  grind [foldl_front, State.devGet_front, fst_foldl_front]

theorem State.devSets_front (s : State) (a who gs bs) : front (s.devSets a who gs bs) = front s := by
  unfold State.devSets
  grind [foldl_front, State.devSet_front, fst_foldl_front]

/-- What a read of the device leaves as it stood. -/
def DevRd.Fronts (s : State) : DevRd → Prop
  | .ok t _ _ | .bad t _ => front t = front s
  | .tier _ => True

theorem DevRd.after_front {s : State} {r : DevRd} (hr : DevRd.Fronts s r) : front (DevRd.after s r) = front s := by
  cases r
  · exact hr
  · exact hr
  · rfl

/-- What a write of the device leaves as it stood. -/
def DevWr.Fronts (s : State) : DevWr → Prop
  | .ok t | .bad t _ => front t = front s
  | .tier _ => True

theorem State.ctxRead_front (s : State) (die ctx who ap off n piece) :
    DevRd.Fronts s (s.ctxRead die ctx who ap off n piece) := by
  unfold State.ctxRead
  grind [DevRd.Fronts, fst_foldl_front, State.devGets_front, State.devFail_front]

theorem State.ctxWrite_front (s : State) (die ctx cls ap off bs) :
    DevWr.Fronts s (s.ctxWrite die ctx cls ap off bs) := by
  unfold State.ctxWrite
  grind [DevWr.Fronts, State.devSets_front, State.devFail_front]

theorem State.ipaPut_front (s : State) (v ipa bs) : front (s.ipaPut v ipa bs) = front s := by
  unfold State.ipaPut
  grind [State.devSets_front, State.tierSeen_front]

theorem State.raiseVec_front (s : State) (v vec) : front (s.raiseVec v vec) = front s := by
  unfold State.raiseVec
  grind [State.vector_front, front]

theorem State.postNow_front (s : State) (v bs) : front (s.postNow v bs).1 = front s := by
  unfold State.postNow
  grind [State.setVd_front, State.awaitTier_front, State.updVd_front, State.ipaPut_front, State.raiseVec_front]

theorem State.devDo_front (s : State) (x0) : front (s.devDo x0).1 = front s := by
  unfold State.devDo
  grind [State.postNow_front, State.raiseVec_front, State.awaitTier_front, State.ipaPut_front, State.ctxWrite_front,
    DevWr.Fronts]

theorem devLoop_front (as : List DevAct) (kept : List DevAct) (s : State) : front (devLoop as kept s) = front s := by
  induction as generalizing kept s with
  | nil => rfl
  | cons a as ih =>
    unfold devLoop
    split
    · exact ih ..
    · exact (ih ..).trans (State.devDo_front ..)

theorem State.devDrain_front (s : State) : front (s.devDrain) = front s := by
  unfold State.devDrain
  grind [devLoop_front, front]

theorem State.devPut_front (s : State) (a) : front (s.devPut a) = front s := by
  unfold State.devPut
  grind [State.devDrain_front, front]

theorem State.ipaWrite_front (s : State) (v ipa bs) : front (s.ipaWrite v ipa bs) = front s := by
  unfold State.ipaWrite
  grind [State.devPut_front]

theorem State.interrupt_front (s : State) (v vec) : front (s.interrupt v vec) = front s := by
  unfold State.interrupt
  grind [State.devPut_front]

theorem State.fqPost_front (s : State) (v bs) : front (s.fqPost v bs) = front s := by
  unfold State.fqPost
  grind [State.devPut_front]

theorem State.ctxReport_front (s : State) (die ctx ap off bs) : front (s.ctxReport die ctx ap off bs) = front s := by
  unfold State.ctxReport
  grind [State.devPut_front]

end Sys2Proof.Proofs.Front
end

section
/-! SUPPORT. Fetches, copies, fences and the accesses of lanes change the memory system alone. -/

namespace Sys2Proof.Proofs.Front
open Sys2Proof Sys2Proof.Machine

theorem State.copyWord_front (s : State) (a src dst) : front (s.copyWord a src dst) = front s := by
  unfold State.copyWord
  grind [State.readSeg_front, State.writeSeg_front, State.poisonSegs_front]

theorem State.scramble_front (s : State) (a gs) : front (s.scramble a gs) = front s := by
  unfold State.scramble
  grind [foldl_front, State.freeBytes_front, State.writeSeg_front, fst_foldl_front]

theorem State.doCopy_front (s : State) (a rows lost) : front (s.doCopy a rows lost) = front s := by
  unfold State.doCopy
  grind [State.scramble_front, foldl_front, State.copyWord_front, fst_foldl_front]

theorem State.mredRead_front (s : State) (a ty k pa) : front (s.mredRead a ty k pa).1 = front s := by
  unfold State.mredRead
  grind [State.meetAt_front, State.holeRead_front, State.msGet_front, State.msSend_front, State.cxlRead_front,
    State.cxlMeter_front]

theorem State.mredRows_front (s : State) (a ty k rows acc) : front (s.mredRows a ty k rows acc).1 = front s := by
  unfold State.mredRows
  grind [foldl_front, State.mredRead_front, fst_foldl_front]

theorem State.mredReq_front (s : State) (a ty ret dst j rows) : front (s.mredReq a ty ret dst j rows) = front s := by
  unfold State.mredReq
  grind [State.msSend_front]

theorem State.mredLineDo_front (s : State) (a ty dst rows) : front (s.mredLineDo a ty dst rows) = front s := by
  unfold State.mredLineDo
  grind [State.mredReq_front, State.meetAt_front, State.mredRead_front, State.mredRows_front, State.holeWrite_front,
    State.msPut_front, State.poisonUnits_front]

theorem State.mredRetDo_front (s : State) (a ty dst j rows first) :
    front (s.mredRetDo a ty dst j rows first) = front s := by
  unfold State.mredRetDo
  grind [State.mredReq_front, State.mredRows_front, State.tsWrite_front]

theorem State.doMred_front (s : State) (o j) : front (s.doMred o j).1 = front s := by
  unfold State.doMred
  grind [State.scramble_front, State.lostHit_front, State.mredRetDo_front, State.mredLineDo_front]

theorem State.cnRead_front (s : State) (a gs) : front (s.cnRead a gs).1 = front s := by
  unfold State.cnRead
  grind [foldl_front, State.readSeg_front, fst_foldl_front]

theorem State.s2Notice_front (s : State) (cause ctx ipa va kind) :
    front (s.s2Notice cause ctx ipa va kind) = front s := by
  unfold State.s2Notice
  grind [State.fqPost_front]

theorem State.flushTeam_front (s : State) (g) : front (s.flushTeam g) = front s := by
  unfold State.flushTeam
  grind [foldl_front, State.l1Flush_front, fst_foldl_front]

theorem State.unfuse_front (s : State) (a cores) : front (s.unfuse a cores) = front s := by
  unfold State.unfuse
  grind [foldl_front, State.updCore_front, State.l1Flush_front, fst_foldl_front]

theorem State.clearFailed_front (s : State) (gid) : front (s.clearFailed gid) = front s := rfl

theorem State.tierWait_front (s : State) (gid g obj) : front (s.tierWait gid g obj) = front s := by
  unfold State.tierWait
  grind [State.setVd_front, State.stall_front]

theorem State.fence_front (s : State) (g sc pred succ) : front (s.fence g sc pred succ) = front s := by
  unfold State.fence
  grind [State.fenceCaches_front]

theorem State.handOff_front (s : State) (g sc) : front (s.handOff g sc) = front s := by
  unfold State.handOff
  grind [State.joinAll_front, State.fenceCaches_front]

theorem State.tokOrder_front (s : State) (g) : front (s.tokOrder g) = front s := by
  unfold State.tokOrder
  grind [State.handOff_front]

theorem State.readLanes_front (s : State) (a sc pol ls) : front (s.readLanes a sc pol ls).1 = front s := by
  unfold State.readLanes
  grind [foldl_front, State.readSegs_front, fst_foldl_front]

theorem State.writeLanes_front (s : State) (a sc pol ls v) : front (s.writeLanes a sc pol ls v) = front s := by
  unfold State.writeLanes
  grind [foldl_front, State.writeSegs_front, fst_foldl_front]

theorem spillReg_front (s : State) (c a pol r k gs) : front (spillReg c s a pol r k gs) = front s := by
  unfold spillReg
  grind [State.writeSegs_front, foldl_front, fst_foldl_front]

theorem State.atomStore_front (s : State) (home pa bs key a) : front (s.atomStore home pa bs key a) = front s := by
  unfold State.atomStore
  grind [State.homeStore_front, State.stamp_front, State.homeApply_front, State.updDie_front, State.fanOut_front]

theorem State.rmw_front (s : State) (a g q f) : front (s.rmw a g q f).1 = front s := by
  unfold State.rmw
  grind [State.tsWrite_front, State.taskWrite_front, State.holeRead_front, State.farWb_front, State.l1Out_front,
    State.meetAt_front, State.msSend_front, State.l2Use_front, State.cxlRead_front, State.cxlMeter_front,
    State.msGet_front, State.homeRead_front, State.atomStore_front, State.msPut_front, State.homeWrite_front]

theorem State.rmwLanes_front (s : State) (a ls q f) : front (s.rmwLanes a ls q f).1 = front s := by
  unfold State.rmwLanes
  grind [foldl_front, State.rmw_front, fst_foldl_front]

theorem State.fillLevel_front (s : State) (a pol lvl g) : front (s.fillLevel a pol lvl g) = front s := by
  unfold State.fillLevel
  grind [State.readSeg_front, State.l2Read_front, State.mscReq_front]

theorem State.maintain_front (s : State) (a lvl inv g) : front (s.maintain a lvl inv g) = front s := by
  unfold State.maintain
  grind [State.l1Out_front, State.l1Send_front, State.l2Wb_front, State.guestsOut_front, State.guestDrop_front,
    State.farWb_front, State.mscEvict_front, State.updDie_front, State.mscOut_front]

theorem State.icDrop_front (s : State) (a g) : front (s.icDrop a g) = front s := rfl

theorem State.tokTake_front (s : State) (g ks) : front (s.tokTake g ks) = front s := by
  unfold State.tokTake
  grind [foldl_front, State.handOff_front, fst_foldl_front]

theorem State.codeBlock_front (s : State) (a pa key ms) : front (s.codeBlock a pa key ms).1 = front s := by
  unfold State.codeBlock
  grind [State.msRead_front, State.draw_front, State.l2Read_front, State.updCore_front]

/-- A state but for its clusters. -/
def unclustered (s : State) : State := { s with clusters := [] }

theorem tlbFill_unclustered (s : State) (core e) : front (unclustered (s.tlbFill core e)) = front (unclustered s) := rfl

theorem foldl_tlbFill_unclustered (s : State) (core : Nat) (es : List TlbE) :
    front (unclustered (es.foldl (fun s e => s.tlbFill core e) s)) = front (unclustered s) := by
  induction es generalizing s with
  | nil => rfl
  | cons e es ih => exact (ih _).trans (tlbFill_unclustered ..)

theorem front_unclustered {a b : State} (h : front a = front b) : front (unclustered a) = front (unclustered b) := by
  have q := congrArg unclustered h
  exact q

theorem State.fetch_front (s : State) (g gid pc) : front (unclustered (s.fetch g gid pc).1) = front (unclustered s) := by
  unfold State.fetch
  dsimp only
  split
  · rfl
  · split
    · rfl
    · rfl
    · next gs es hchk =>
      have hb (a : Acc) (pa key : Nat) (ms : Bool) := (front_unclustered (State.codeBlock_front
        (es.foldl (fun s e => s.tlbFill g.core e) s) a pa key ms)).trans (foldl_tlbFill_unclustered s g.core es)
      split
      · exact (front_unclustered (State.relRec_front ..)).trans (hb ..)
      · exact hb ..

-- Fields that the memory system leaves.

theorem groups_of_front {a b : State} (h : front a = front b) : a.groups = b.groups := (congrArg State.groups h :)

theorem groups_of_front_unclustered {a b : State} (h : front (unclustered a) = front (unclustered b)) :
    a.groups = b.groups := (congrArg State.groups h :)

theorem clusters_of_front {a b : State} (h : front a = front b) : a.clusters = b.clusters := (congrArg State.clusters h :)

theorem teams_of_front {a b : State} (h : front a = front b) : a.teams = b.teams := (congrArg State.teams h :)

theorem grids_of_front {a b : State} (h : front a = front b) : a.grids = b.grids := (congrArg State.grids h :)

end Sys2Proof.Proofs.Front
end

section
/-! PROOFS. Returns from the handler. -/

namespace Sys2Proof.Proofs.Handlers
open Sys2Proof Sys2Proof.Machine Sys2Proof.Proofs.Paths

/-- The lanes of the handler path. -/
def handlerMask (g : Group) : Word := maskOf (fun l => (g.lane l).hnd && (g.lane l).st != .exited)

/-- Where a lane of the handler path returns to: `r` stands for the trapped instruction. -/
def returnPc (tpc r : DWord) (x : Lane) : DWord := if x.ret == tpc then r else x.ret

/-- A lane that goes where it returns to. -/
def goBack (tpc r : DWord) (x : Lane) : Lane := { x with pc := returnPc tpc r x }

/-- A lane off the handler path. -/
def offPath (x : Lane) : Lane := { x with hnd := false }

/-- A return to `r`, before the paths are counted anew. -/
def returned (g : Group) (nx : Bool) (r : DWord) : Group :=
  let g1 := g.mapMask (handlerMask g) (goBack g.tpc r)
  let keep := !nx && (maskLanes (handlerMask g)).any (fun l => (g1.lane l).pc == g.tpc)
  { g1 with
    prog := if keep then g1.prog else 0
    inH := false, wait := .no, held := none, fresh := false
    lanes := g1.lanes.map offPath }

theorem rteGo_pathOnly (g : Group) (nx : Bool) (r : DWord) : Group.PathOnly (returned g nx r) (g.rteGo nx r) := by
  unfold Group.rteGo
  extract_lets h g1 keep g2 pcs several others g3 run g4
  split
  · exact settle_pathOnly ..
  · have h3 : Group.PathOnly g2 g3 := by
      show Group.PathOnly g2 (if _ then _ else _)
      split
      · exact (Group.PathOnly.refl g2).stack _
      · exact Group.PathOnly.refl g2
    have h4 : Group.PathOnly g3 g4 := ((Group.setSt_pathOnly g3 h .deferred).trans (Group.setSt_pathOnly _ run .active)).stack _
    exact (h3.trans h4).trans (settle_pathOnly ..)

theorem final_pathOnly {a b : Group} (h : Group.PathOnly a b) : b.final = a.final := by
  refine final_congr (Prod.ext ?_ (congrArg Group.s h.rest :)) (congrArg Group.pend h.rest :)
  have hl := congrArg (List.map (fun x : Lane => (x.v, x.pr))) h.lanes
  rw [List.map_map, List.map_map] at hl
  exact hl

theorem returned_final (g : Group) (nx : Bool) (r : DWord) : (returned g nx r).final = g.final := by
  calc (returned g nx r).final
      = (g.mapMask (handlerMask g) (goBack g.tpc r)).final :=
        final_congr (Prod.ext (List.map_map ..) rfl) rfl
    _ = g.final := final_mapMask _ _ fun _ => rfl

theorem returned_lane (g : Group) (nx : Bool) (r : DWord) (l : Nat) :
    (returned g nx r).lane l = offPath ((g.mapMask (handlerMask g) (goBack g.tpc r)).lane l) :=
  getD_map offPath _ l Lane.none

theorem offPath_hnd (x : Lane) : (offPath x).hnd = false := rfl

theorem returned_hnd (g : Group) (nx : Bool) (r : DWord) (l : Nat) : ((returned g nx r).lane l).hnd = false := by
  rw [returned_lane, offPath_hnd]

theorem returned_prog (g : Group) (r : DWord) : (returned g true r).prog = 0 := by
  unfold returned
  simp only [Bool.not_true, Bool.false_and, Bool.false_eq_true, if_false]

theorem handlerMask_lt {g : Group} {l : Nat} (h : inMask (handlerMask g) l = true) : l < g.lanes.length := by
  unfold handlerMask at h
  rw [inMask_maskOf] at h
  refine Nat.lt_of_not_le fun hl => ?_
  rw [Group.lane_ge g l hl] at h
  simp [Lane.none] at h

theorem returned_pc (g : Group) (nx : Bool) (r : DWord) (l : Nat) :
    ((returned g nx r).lane l).pc = if (g.lane l).hnd = true ∧ (g.lane l).st ≠ .exited ∧ l < 32 then
      returnPc g.tpc r (g.lane l) else (g.lane l).pc := by
  have hmask : inMask (handlerMask g) l = true ↔ (g.lane l).hnd = true ∧ (g.lane l).st ≠ .exited ∧ l < 32 := by
    unfold handlerMask
    rw [inMask_maskOf]
    simp only [Bool.and_eq_true, decide_eq_true_eq, bne_iff_ne]
    exact ⟨fun ⟨h1, h2, h3⟩ => ⟨h2, h3, h1⟩, fun ⟨h1, h2, h3⟩ => ⟨h3, h1, h2⟩⟩
  rw [returned_lane, Group.lane_mapMask]
  by_cases h : inMask (handlerMask g) l = true
  · rw [if_pos ⟨h, handlerMask_lt h⟩, if_pos (hmask.mp h)]
    rfl
  · rw [if_neg fun e => h e.1, if_neg fun e => h (hmask.mpr e)]
    rfl

theorem complete_hnd (g : Group) (inH : Bool) (k : Com) (low l : Nat) :
    ((g.complete inH k low).lane l).hnd = (g.lane l).hnd :=
  (congrArg Lane.hnd (Group.still_lane (settle_pathOnly { g with
    prog := if inH then g.prog else 0, parked := k.sw && !g.pend.isEmpty, wait := .no, held := none, fresh := false }
    low).lanes l) :)

/-- What a return leaves of its group. -/
theorem rteGo_group (g : Group) (nx : Bool) (r : DWord) :
    let g' := g.rteGo nx r
    g'.inH = false ∧ g'.final = g.final ∧ (∀ l, (g'.lane l).hnd = false) ∧
    (∀ l, (g'.lane l).pc = ((returned g nx r).lane l).pc) ∧ (nx = true → g'.prog = 0) := by
  obtain ⟨lanes, rest⟩ := rteGo_pathOnly g nx r
  have hstill (l : Nat) := Group.still_lane lanes l
  refine ⟨(congrArg Group.inH rest :), (final_pathOnly ⟨lanes, rest⟩).trans (returned_final g nx r),
    fun l => (congrArg Lane.hnd (hstill l) :).trans (returned_hnd g nx r l), fun l => (congrArg Lane.pc (hstill l) :),
    fun hnx => ?_⟩
  subst hnx
  exact (congrArg Group.prog rest :).trans (returned_prog g r)

/-- What a return from the handler leaves once its instruction has completed. -/
theorem rteGo_spec {s s1 : State} {gid : Nat} {g : Group} {k : Com} (nx : Bool) (r : DWord) (hinH : g.inH = true)
    (hg : SMap.get? s1.groups gid = some g) :
    ∃ g', SMap.get? (jumped s gid g k (s1.updGroup gid (fun g1 => g1.rteGo nx r))).groups gid = some g' ∧
      g'.inH = false ∧ g'.wait = .no ∧ g'.final = g.final ∧ (∀ l, (g'.lane l).hnd = false) ∧
      (∀ l, (g'.lane l).pc = if (g.lane l).hnd = true ∧ (g.lane l).st ≠ .exited ∧ l < 32 then
        (if (g.lane l).ret = g.tpc then r else (g.lane l).ret) else (g.lane l).pc) ∧
      (nx = true → g'.prog = 0) := by
  have hgrp : SMap.get? (s1.updGroup gid (fun g1 => g1.rteGo nx r)).groups gid = some (g.rteGo nx r) :=
    (SMap.get?_upd_same ..).trans (congrArg _ hg)
  have hback := rteGo_group g nx r
  generalize g.rteGo nx r = a at hgrp hback
  obtain ⟨hout, hfinal, hhnd, hpc, hprog⟩ := hback
  obtain ⟨cfinal, cpc, cwait, cfixed, cprog⟩ := complete_spec a g.inH k (GCtx.make g k).lowSlot
  refine ⟨_, jumped_groups_same g k hgrp, (congrArg Group.inH cfixed :).trans hout, cwait, cfinal.trans hfinal,
    fun l => (complete_hnd ..).trans (hhnd l), fun l => ?_, fun hnx => ?_⟩
  · rw [cpc, hpc, returned_pc]
    unfold returnPc
    simp only [beq_iff_eq]
  · rw [cprog, if_pos hinH, hprog hnx]

theorem mayReturn_inH {g : Group} (h : g.mayReturn = true) : g.inH = true := by
  unfold Group.mayReturn at h
  simp only [Bool.and_eq_true] at h
  exact h.1.1

/-- Settles O42: a return is `rteGo` of the group, which path choice does not move any more. -/
theorem returnsFromTheHandler : Obligations.ReturnsFromTheHandler := by
  intro k s gid g h back c
  have htpc : c.g.tpc = g.tpc := (congrArg Group.tpc (seen_beyondHeld g) :)
  refine ⟨fun hno => ⟨?_, ?_⟩, fun hret => ⟨⟨_, ?_, rfl, ?_⟩, fun s1 w ws hf => ⟨_, ?_, rfl, ?_⟩⟩⟩
  · refine (issue_runs _ _ _ (actRte _) _ _ _ h).trans ?_
    unfold actRte
    rw [show c.g.mayReturn = false from hno]
    rfl
  · refine (issue_runs _ _ _ (actRteNx _) _ _ _ h).trans ?_
    unfold actRteNx
    rw [show c.g.mayReturn = false from hno]
    rfl
  · refine (issue_runs _ _ _ (actRte _) _ _ _ h).trans ?_
    unfold actRte
    rw [if_pos hret]
    refine congrArg (fun u => Host.Outcome.next (jumped s gid g k u)) ?_
    exact updGroup_congr h.grp rfl
  · exact rteGo_spec false g.tpc ((System.seen_inH g).symm.trans (mayReturn_inH hret)) h.grp
  · refine (issue_runs _ _ _ (actRteNx _) _ _ _ h).trans ?_
    have hf' : s.fetch c.g gid c.g.tpc = (s1, .ok (w :: ws)) := by rw [htpc, hf]
    have hgrp : SMap.get? s1.groups gid = some g := by
      have := Front.groups_of_front_unclustered (Front.State.fetch_front s c.g gid g.tpc)
      rw [hf] at this
      rw [this, h.grp]
    unfold actRteNx
    rw [show c.g.mayReturn = true from hret, hf']
    refine congrArg (fun u => Host.Outcome.next (jumped s gid g k u)) ?_
    exact updGroup_congr hgrp rfl
  · refine rteGo_spec true _ ((System.seen_inH g).symm.trans (mayReturn_inH hret)) ?_
    have := Front.groups_of_front_unclustered (Front.State.fetch_front s c.g gid g.tpc)
    rw [hf] at this
    rw [this, h.grp]

end Sys2Proof.Proofs.Handlers
end

section
/-! PROOFS. What the ends of groups and of their operations leave of grids, and unhandled traps. -/

namespace Sys2Proof.Proofs.Grids
open Sys2Proof Sys2Proof.Machine Sys2Proof.Proofs.Front

/-- Of each grid, whether it is faulted and the parts of it on its dies. -/
def shape (s : State) (i : Nat) : Option (Bool × List Part) := (SMap.get? s.grids i).map (fun g => (g.fault, g.parts))

theorem shape_of_grids {a b : State} (h : a.grids = b.grids) : shape a = shape b := by
  unfold shape
  rw [h]

theorem shape_of_front {a b : State} (h : front a = front b) : shape a = shape b := shape_of_grids (grids_of_front h)

theorem foldl_shape {α : Type} {f : State → α → State} (hf : ∀ s x, shape (f s x) = shape s) (s : State) (xs : List α) :
    shape (xs.foldl f s) = shape s := by
  induction xs generalizing s with
  | nil => rfl
  | cons x xs ih => exact (ih (f s x)).trans (hf s x)

/-- A change of one grid that leaves whether it is faulted and its parts. -/
theorem updGrid_shape (s : State) (i : Nat) {f : Grid → Grid} (hf : ∀ g, ((f g).fault, (f g).parts) = (g.fault, g.parts)) :
    shape (s.updGrid i f) = shape s := by
  funext j
  unfold shape
  by_cases h : j = i
  · subst h
    show (SMap.get? (SMap.upd s.grids j f) j).map _ = _
    rw [SMap.get?_upd_same, Option.map_map]
    exact congrArg (fun q => Option.map q (SMap.get? s.grids j)) (funext hf)
  · show (SMap.get? (SMap.upd s.grids i f) j).map _ = _
    rw [SMap.get?_upd_other _ _ _ _ h]

theorem charge_shape (s0 s1 : State) (team v : Nat) : shape (s0.charge s1 team v) = shape s1 := by
  unfold State.charge
  dsimp only
  split
  · split
    · rfl
    · exact updGrid_shape _ _ fun _ => rfl
  · rfl

-- Operations of engines and easels.

theorem opEnd_shape (s : State) (id o status) : shape (s.opEnd id o status) = shape s := by
  unfold State.opEnd
  dsimp only
  split <;> rfl

theorem opTry_shape (s : State) (id o force) : shape (s.opTry id o force) = shape s := by
  unfold State.opTry
  dsimp only
  split
  all_goals
    split
    · rfl
    · exact opEnd_shape ..

theorem mredStep_shape (s : State) (id j force) : shape (s.mredStep id j force) = shape s := by
  unfold State.mredStep
  cases SMap.get? s.aops id with
  | none => rfl
  | some o =>
    dsimp only
    have hmred : shape (if o.left.contains j then s.doMred o j else (s, false)).1 = shape s := by
      split
      · exact shape_of_front (State.doMred_front ..)
      · rfl
    generalize (if o.left.contains j then s.doMred o j else (s, false)) = r at hmred ⊢
    split
    · exact ((opTry_shape ..).trans (charge_shape ..)).trans hmred
    · exact (charge_shape ..).trans hmred

theorem copyStep_shape (s : State) (id force) : shape (s.copyStep id force) = shape s := by
  unfold State.copyStep
  cases SMap.get? s.aops id with
  | none => rfl
  | some o =>
    dsimp only
    split
    · refine (opTry_shape ..).trans ?_
      split
      · rfl
      · refine (charge_shape ..).trans ((shape_of_front (State.doCopy_front ..)).trans ?_)
        split
        · exact shape_of_front (State.lostHit_front ..)
        · rfl
    · rfl

theorem updCanvas_shape (s : State) (i f) : shape (s.updCanvas i f) = shape s := rfl

theorem easelApply_shape (s : State) (o) : shape (s.easelApply o) = shape s := by
  unfold State.easelApply
  dsimp only
  split
  case h_3 => split <;> rfl
  case h_5 =>
    refine foldl_shape (fun s row => ?_) _ _
    exact (updCanvas_shape ..).trans (shape_of_front (State.cnRead_front ..))
  case h_8 =>
    refine foldl_shape (fun s x => ?_) _ _
    split
    · exact shape_of_front (State.lostHit_front ..)
    · exact shape_of_front (State.writeSeg_front ..)
  all_goals rfl

theorem easelDo_shape (s : State) (cl o) : shape (s.easelDo cl o) = shape s := by
  unfold State.easelDo
  exact ((shape_of_grids rfl).trans (charge_shape ..)).trans
    ((shape_of_front (State.meter_front ..)).trans (easelApply_shape s o))

theorem easelDrain_shape (s : State) (sel) : shape (s.easelDrain sel) = shape s := by
  refine foldl_shape (fun s e => ?_) _ _
  split
  · refine (foldl_shape (fun s o => ?_) _ _).trans (foldl_shape (fun s o => ?_) _ _)
    · split <;> rfl
    · split
      · rfl
      · exact easelDo_shape ..
  · rfl

theorem engineDrain_shape (s : State) (sel) : shape (s.engineDrain sel) = shape s := by
  refine foldl_shape (fun s e => ?_) _ _
  split
  · exact copyStep_shape ..
  · split
    · exact mredStep_shape ..
    · exact foldl_shape (fun s j => mredStep_shape ..) _ _

-- Groups, teams and grids that end.

theorem removeGroup_shape (s : State) (gid) : shape (s.removeGroup gid) = shape s := by
  unfold State.removeGroup
  cases SMap.get? s.groups gid with
  | none => rfl
  | some g =>
    refine Eq.trans ?_ (shape_of_front (State.flushTeam_front s g))
    rfl

theorem discardGroup_shape (s : State) (gid) : shape (s.discardGroup gid) = shape s :=
  ((removeGroup_shape ..).trans (easelDrain_shape ..)).trans (engineDrain_shape ..)

theorem countRelease_shape (s : State) (tid closing) : shape (s.countRelease tid closing) = shape s := by
  unfold State.countRelease
  dsimp only
  split
  · split
    · rfl
    · exact updGrid_shape _ _ fun _ => rfl
  · rfl

theorem endTeam_shape (s : State) (tid ran) : shape (s.endTeam tid ran) = shape s := by
  unfold State.endTeam
  cases SMap.get? s.teams tid with
  | none => rfl
  | some t =>
    dsimp only
    refine (updGrid_shape _ _ fun g => ?_).trans ?_
    · split <;> rfl
    · refine Eq.trans ?_ (countRelease_shape s tid true)
      generalize s.countRelease tid true = u
      show shape (if _ then _ else _) = _
      split
      · exact shape_of_front (State.unfuse_front ..)
      · rfl

theorem cutGrid_shape (s : State) (i all) : shape (s.cutGrid i all) = shape s :=
  (updGrid_shape _ i (f := fun g => { g with saved := 0 }) fun _ => rfl).trans
    ((foldl_shape (fun s t => endTeam_shape s t false) _ _).trans
      (foldl_shape (fun s g => discardGroup_shape s g) _ _))

-- Unhandled traps.

/-- Grid `i` is faulted and no range of it is left to dispatch. -/
def Stopped (s : State) (i : Nat) : Prop := ∃ ps, shape s i = some (true, ps) ∧ ∀ p ∈ ps, p.ranges = []

theorem stopped_of_shape {a b : State} {i : Nat} (h : shape a = shape b) (hb : Stopped b i) : Stopped a i := by
  unfold Stopped
  rwa [h]

theorem stopDispatch_stopped {s : State} {i : Nat} {gr : Grid} (hg : SMap.get? s.grids i = some gr) (hf : gr.fault = true) :
    Stopped (s.stopDispatch i) i := by
  have hget : SMap.get? (s.stopDispatch i).grids i = some { gr with
      parts := gr.parts.map (fun p => { p with ranges := [], st := .running }) } :=
    (SMap.get?_upd_same ..).trans (congrArg _ hg)
  refine ⟨gr.parts.map (fun p => { p with ranges := [], st := .running }), ?_, fun p hp => ?_⟩
  · unfold shape
    rw [hget, ← hf]
    rfl
  · obtain ⟨q, -, rfl⟩ := List.mem_map.mp hp
    rfl

theorem unhandled_stopped {s : State} {gid kind : Nat} {t : Trap} {pc : DWord} {g : Group} {tm : Team} {gr : Grid}
    (hg : SMap.get? s.groups gid = some g) (htm : SMap.get? s.teams g.team = some tm) (hdet : tm.det = false)
    (hgr : SMap.get? s.grids tm.grid = some gr) : Stopped (s.unhandled gid kind t pc) tm.grid := by
  unfold State.unhandled
  simp only [hg, htm, hdet, Bool.false_eq_true, if_false]
  generalize faultRecord .. = rec
  have hkept := (discardGroup_shape (s.fqPost (g.ctx / 256) rec) gid).trans (shape_of_front (State.fqPost_front ..))
  have hgrid := congrFun hkept tm.grid
  unfold shape at hgrid
  rw [hgr, Option.map_some, Option.map_eq_some_iff] at hgrid
  obtain ⟨gr', hgr', -⟩ := hgrid
  refine stopped_of_shape (cutGrid_shape ..) (stopDispatch_stopped (gr := { gr' with fault := true }) ?_ rfl)
  exact (SMap.get?_upd_same ..).trans (congrArg _ hgr')

theorem reported_front (s : State) (gid : Nat) (t : Trap) : front (TrapEntry.reported s gid t) = front s := by
  unfold TrapEntry.reported
  split
  · exact State.clearFailed_front ..
  · rfl

/-- Settles O40: an unhandled trap stops the dispatch of its grid once it has marked it, and what follows keeps that. -/
theorem unhandledTrapsFaultTheGrid : Obligations.UnhandledTrapsFaultTheGrid := by
  intro s gid g tm gr t hg ho hunhandled htm hdet hgr
  have hfront := reported_front s gid t
  have hstop (kind : Nat) : Stopped ((TrapEntry.reported s gid t).unhandled gid kind t g.runPc) tm.grid :=
    unhandled_stopped ((groups_of_front hfront) ▸ hg) ((teams_of_front hfront) ▸ htm) hdet
      ((grids_of_front hfront) ▸ hgr)
  have hend : Stopped (takeTrap s gid t) tm.grid := by
    cases hh : g.inH with
    | true =>
      rw [TrapEntry.takeTrap_inHandler t hg ho hh]
      exact hstop 2
    | false =>
      rw [TrapEntry.takeTrap_noVector t hg ho hh (hunhandled.resolve_left (by simp [hh]))]
      exact hstop 1
  obtain ⟨ps, hshape, hps⟩ := hend
  unfold shape at hshape
  rw [Option.map_eq_some_iff] at hshape
  obtain ⟨gr', hgr', heq⟩ := hshape
  obtain ⟨hfault, hparts⟩ := Prod.mk.inj heq
  exact ⟨gr', hgr', hfault, hparts ▸ hps⟩

end Sys2Proof.Proofs.Grids
end

section
/-! SUPPORT. What is read of a record of the state after one has been changed. -/

namespace Sys2Proof.Proofs.Records
open Sys2Proof Sys2Proof.Machine

variable {α : Type}

theorem getD_put_same (m : SMap α) (d : α) (n : Nat) (x : α) : SMap.getD (SMap.put m n x) d n = x := by
  unfold SMap.getD
  rw [SMap.get?_put_same]
  rfl

theorem getD_put_other (m : SMap α) (d : α) {n j : Nat} (x : α) (hj : j ≠ n) :
    SMap.getD (SMap.put m n x) d j = SMap.getD m d j := by
  unfold SMap.getD
  rw [SMap.get?_put_other _ _ _ _ hj]

theorem upd_of_get? {m : SMap α} {n : Nat} {x : α} (f : α → α) (h : SMap.get? m n = some x) :
    SMap.upd m n f = SMap.put m n (f x) := by
  unfold SMap.upd
  rw [h]

variable (s : State)

theorem cluster_updCluster (c j : Nat) (f : Cluster → Cluster) :
    (s.updCluster c f).cluster j = if j = c then f (s.cluster c) else s.cluster j := by
  split
  · next h => exact h ▸ getD_put_same ..
  · next h => exact getD_put_other _ _ _ h

theorem core_updCore (c j : Nat) (f : Core → Core) :
    (s.updCore c f).core j = if j = c then f (s.core c) else s.core j := by
  split
  · next h => exact h ▸ getD_put_same ..
  · next h => exact getD_put_other _ _ _ h

theorem die_updDie (d j : Nat) (f : Die → Die) : (s.updDie d f).die j = if j = d then f (s.die d) else s.die j := by
  split
  · next h => exact h ▸ getD_put_same ..
  · next h => exact getD_put_other _ _ _ h

theorem vd_setVd (v j : Nat) (x : Vd) : (s.setVd v x).vd j = if j = v then x else s.vd j := by
  split
  · next h => exact h ▸ getD_put_same ..
  · next h => exact getD_put_other _ _ _ h

theorem stack_setStack (k j : Nat) (x : Stack) : (s.setStack k x).stack j = if j = k then x else s.stack j := by
  split
  · next h => exact h ▸ getD_put_same ..
  · next h => exact getD_put_other _ _ _ h

end Sys2Proof.Proofs.Records
end

section
/-! PROOFS. Loads, stores, atomics, prefetches, maintenance and fences: when they complete, and with what effect. -/

namespace Sys2Proof.Proofs.Access
open Sys2Proof Sys2Proof.Machine

-- Checks of several lanes.

/-- A check has passed. -/
def Passed (x : Chk) : Prop := ∃ gs es, x = .ok gs es

theorem chkLanes_passed (cs : List Chk) (h : ∀ x ∈ cs, Passed x) :
    chkLanes cs = .ok (cs.flatMap Chk.segs) (cs.flatMap Chk.tlbs) := by
  induction cs with
  | nil => rfl
  | cons c cs ih =>
    obtain ⟨gs, es, rfl⟩ := h c List.mem_cons_self
    unfold chkLanes
    rw [ih fun x hx => h x (List.mem_cons_of_mem _ hx)]
    rfl

theorem bySlot_subset (c : GCtx) (ls : List Nat) : c.bySlot ls ⊆ ls := by
  intro l hl
  unfold GCtx.bySlot at hl
  split at hl
  · exact List.contains_iff_mem.mp (List.mem_filter.mp hl).2
  · exact hl

theorem hostLines_subset {s : State} {gs hs : List Seg} (h : gs ⊆ hs) (hh : s.hostLines hs = []) : s.hostLines gs = [] := by
  unfold State.hostLines at hh ⊢
  rw [List.flatMap_eq_nil_iff] at hh ⊢
  exact fun q hq => hh q (h hq)

theorem reachAll_subset {s : State} {core : Nat} {direct : Bool} {gs hs : List Seg} (h : gs ⊆ hs)
    (hh : s.reachAll core direct hs = true) : s.reachAll core direct gs = true := by
  unfold State.reachAll at hh ⊢
  rw [List.all_eq_true] at hh ⊢
  exact fun q hq => hh q (h hq)

section Lanes

variable {s : State} {gid : Nat} {c : GCtx} {sp : AccessSpec} {code : BitVec 3} {n : Nat} {ls : List Nat} {off : Nat → DWord}

theorem segs_bySlot_subset : ((c.bySlot ls).map (fun l => s.chk c.g gid sp code (off l) n)).flatMap Chk.segs ⊆
    ls.flatMap (fun l => (s.chk c.g gid sp code (off l) n).segs) := by
  rw [List.flatMap_map]
  intro q hq
  obtain ⟨l, hl, hq⟩ := List.mem_flatMap.mp hq
  exact List.mem_flatMap.mpr ⟨l, bySlot_subset c ls hl, hq⟩

/-- Accesses that pass, and that no host keeps back, go on with each lane's stretches. -/
theorem memGo_passes {kind : Nat} {k : List (Nat × List Seg) → State → Act} (hp : passes s gid c.g sp code n ls off)
    (hu : sp.need.w = true → unheld s gid c.g sp code n ls off)
    (hr : reaches s gid c.g sp code n ls off (kind == 3)) :
    memGo gid c s kind sp code n ls off k =
      k (laneSegs s gid c.g sp code n ls off) (withTlbs s gid c.g sp code n (c.bySlot ls) off) := by
  have hchk := chkLanes_passed ((c.bySlot ls).map (fun l => s.chk c.g gid sp code (off l) n)) fun x hx => by
    obtain ⟨l, hl, rfl⟩ := List.mem_map.mp hx
    exact hp l (bySlot_subset c ls hl)
  have hheld : (if sp.need.w = true then s.hostLines (((c.bySlot ls).map
      (fun l => s.chk c.g gid sp code (off l) n)).flatMap Chk.segs) else []) = [] := by
    split
    · next hw => exact hostLines_subset segs_bySlot_subset (hu hw)
    · rfl
  unfold memGo
  dsimp only
  rw [hchk]
  dsimp only
  rw [hheld, reachAll_subset segs_bySlot_subset hr, List.flatMap_map]
  rfl

end Lanes

-- Orders.

theorem ordered_ready {ord : MOrd} {sc : Scope} {cls gid : Nat} {c : GCtx} {s : State} (k : State → State)
    (h : orderReady s gid c.g ord sc cls) : ∃ s', ordered ord sc cls gid c s k = .done s' := by
  obtain ⟨hrel, hacq, hall⟩ := h
  have hperformed : ¬ ((MOrd.isRel ord && !s.fenceReady gid c.g sc ordSet ||
      MOrd.isAcq ord && cls == clMS && !s.fenceReady gid c.g sc (1#8 <<< cls)) = true) := by
    intro hwait
    rw [Bool.or_eq_true] at hwait
    simp only [Bool.and_eq_true, Bool.not_eq_true', beq_iff_eq] at hwait
    obtain ⟨hr, hf⟩ | ⟨⟨ha, hc⟩, hf⟩ := hwait
    · rw [(hrel hr).1] at hf
      cases hf
    · rw [hacq ha hc] at hf
      cases hf
  unfold ordered
  dsimp only at hrel hall ⊢
  generalize (ord == MOrd.sc && Scope.wider sc) = all at hrel hall ⊢
  generalize (if all = true then _ else _ : State) = s2 at hrel hall ⊢
  have hsent : ¬ ((MOrd.isRel ord && !s2.fenceSent c.g sc ordSet || all && !s2.quiet) = true) := by
    intro hwait
    rw [Bool.or_eq_true] at hwait
    simp only [Bool.and_eq_true, Bool.not_eq_true'] at hwait
    obtain ⟨hr, hf⟩ | ⟨ha, hf⟩ := hwait
    · rw [(hrel hr).2] at hf
      cases hf
    · rw [hall ha] at hf
      cases hf
  rw [if_neg hperformed, if_neg hsent]
  exact ⟨_, rfl⟩

/-- An instruction whose effect is one action, which completes, goes on with that effect. -/
theorem exec_of_done {i : Instr} {k : Com} {rs : List (Opnd × Nat)} {f : Nat → GCtx → State → Act} {s s' : State} {gid : Nat}
    {g : Group} (hi : exec i s = issue i k rs f s) (h : Issues s gid g k rs) (hf : f gid (GCtx.make g k) s = .done s') :
    exec i s = .next (completed s gid g k s') := by
  rw [hi, issue_runs i k rs f s gid g h, hf]
  rfl

-- Loads and stores.

/-- An order that has nothing to wait for performs its access. -/
theorem exists_ordered {ord : MOrd} {sc : Scope} {cls gid : Nat} {c : GCtx} {s : State} {b : State → State}
    {P : State → Prop} (ho : orderReady s gid c.g ord sc cls)
    (h : ∀ s', ordered ord sc cls gid c s b = .done s' → P s') : ∃ s', ordered ord sc cls gid c s b = .done s' ∧ P s' := by
  obtain ⟨s', hs'⟩ := ordered_ready b ho
  exact ⟨s', hs', h s' hs'⟩

theorem perfScope_of_rel (rel : Bool) (sc : Scope) : perfScope (if rel then .rel else .rlx) sc = sc := by
  unfold perfScope
  cases rel <;> rfl

/-- Settles O27: with its operands clean each form is `memGo` and then its `ordered` access. -/
theorem loadsAndStoresComplete : Obligations.LoadsAndStoresComplete := by
  intro s gid g load store
  refine ⟨?_, ?_, ?_, ?_⟩
  · intro x w h hc hp hr ho
    refine exists_ordered ho fun s' hs' => exec_of_done (f := actLd x w) rfl h ?_
    unfold actLd
    rw [hc]
    exact (memGo_passes (kind := 1) hp (fun hw => nomatch hw) hr).trans hs'
  · intro x f h hc hp hr ho
    refine exists_ordered ho fun s' hs' => exec_of_done (f := actLdc x f) rfl h ?_
    unfold actLdc
    dsimp only
    rw [hc]
    refine (memGo_passes (kind := 1) hp (fun hw => nomatch hw) hr).trans (Eq.trans ?_ hs')
    simp only [List.flatMap_map, List.filterMap_map]
    rfl
  · intro x w h hc hp hu hr ho
    refine exists_ordered ho fun s' hs' => exec_of_done (f := actSt x w) rfl h ?_
    unfold actSt
    rw [hc]
    exact (memGo_passes (kind := 2) hp (fun _ => hu) hr).trans hs'
  · intro x m fin h hc hp hu hr ho
    refine exists_ordered ho fun s' hs' => exec_of_done (f := actStc x) rfl h ?_
    unfold actStc
    dsimp only
    rw [hc]
    refine (memGo_passes (kind := 2) hp (fun _ => hu) hr).trans (Eq.trans ?_ hs')
    dsimp only
    rw [perfScope_of_rel]
    unfold laneSegs
    simp only [List.filterMap_map]
    rfl

-- Atomics.

theorem exec_atomForm {i : Instr} {x : AtArgs} {ms withC : Bool} {fn : Nat} {f : GCtx → Nat → Nat → Nat} (s : State)
    (h : atomForm i = some (x, ms, withC, fn, f)) :
    exec i s = issue i x.k (ars x withC) (actAtomic x ms (if ms then clMS else clAT) fn withC f) s := by
  cases i <;> cases h <;> rfl

/-- Settles O30: an atomic is `memGo` at the home and then its `ordered` access. -/
theorem atomicsComplete : Obligations.AtomicsComplete := by
  intro i x ms withC fn f s gid g hi h c n sp off at' cls s0 hc hp hu hr ho
  refine exists_ordered ho fun s' hs' => exec_of_done (exec_atomForm s hi) h ?_
  unfold actAtomic
  dsimp only
  rw [hc]
  exact (memGo_passes (kind := 3) hp (fun _ => hu) hr).trans hs'

-- Prefetches, maintenance and fences.

theorem exec_prefetchForm {i : Instr} {x : LnArgs} {lvl : CLvl} (s : State) (h : prefetchForm i = some (x, lvl)) :
    exec i s = issue i x.k (lnrs x) (actPf x lvl) s := by
  cases i <;> cases h <;> rfl

theorem exec_maintForm {i : Instr} {x : LnArgs} {f : State → Acc → Seg → State} (s : State) (h : maintForm i = some (x, f)) :
    exec i s = issue i x.k (lnrs x) (actCmnt x f) s := by
  cases i <;> cases h <;> rfl

/-- Settles O34: each form's action, with what it waits for out of the way. -/
theorem prefetchMaintenanceAndFences : Obligations.PrefetchMaintenanceAndFences := by
  intro s gid g
  refine ⟨fun i x lvl hi h => ?_, fun i x f hi h => ?_, fun k sc pred succ h => ⟨fun hnone => ?_, fun ha hp hs hw => ?_,
    fun ha hp hs hr hsent => ?_⟩⟩
  · exact exec_of_done (exec_prefetchForm s hi) h rfl
  · intro c sp off hc hp hr
    refine exec_of_done (exec_maintForm s hi) h ?_
    unfold actCmnt
    rw [hc]
    exact memGo_passes hp (fun hw => nomatch hw) hr
  · refine exec_of_done (f := actFnc sc pred succ) rfl h ?_
    unfold actFnc
    rw [if_pos]
    simpa [Bool.or_eq_true, beq_iff_eq, or_assoc] using hnone
  · refine (issue_runs _ _ _ (actFnc sc pred succ) _ _ _ h).trans ?_
    unfold actFnc
    rw [if_neg, if_pos]
    · rfl
    · rw [hw]
      rfl
    · simp only [Bool.or_eq_true, beq_iff_eq, not_or]
      exact ⟨⟨ha, hp⟩, hs⟩
  · refine exec_of_done (f := actFnc sc pred succ) rfl h ?_
    unfold actFnc
    rw [if_neg, if_neg]
    · exact if_pos hsent
    · rw [hr]
      decide
    · simp only [Bool.or_eq_true, beq_iff_eq, not_or]
      exact ⟨⟨ha, hp⟩, hs⟩

end Sys2Proof.Proofs.Access
end

section
/-! PROOFS. Matrix and canvas instructions that post operations to the easel. -/

namespace Sys2Proof.Proofs.Easel
open Sys2Proof Sys2Proof.Machine Sys2Proof.Proofs.Access

/-- What issues sees of its group, but for registers and lanes. -/
theorem make_beyondHeld (g : Group) (k : Com) : Paths.beyondHeld (GCtx.make g k).g = Paths.beyondHeld g :=
  Paths.seen_beyondHeld g

theorem make_core (g : Group) (k : Com) : (GCtx.make g k).g.core = g.core := (congrArg Group.core (make_beyondHeld g k) :)

theorem make_team (g : Group) (k : Com) : (GCtx.make g k).g.team = g.team := (congrArg Group.team (make_beyondHeld g k) :)

theorem make_prog (g : Group) (k : Com) : (GCtx.make g k).g.prog = g.prog := (congrArg Group.prog (make_beyondHeld g k) :)

/-- An operation posted to its easel. -/
theorem post_frame (s : State) (gid : Nat) (g : Group) (cv : Nat) (cv2 : Option Nat) (kb kn bb br : Nat) (kind : EKind) :
    { s.post gid g cv cv2 kb kn bb br kind with nid := s.nid, clusters := s.clusters } = s := rfl

/-- The operation that a post brings to the easel. -/
def posted (s : State) (gid : Nat) (g : Group) (cv : Nat) (cv2 : Option Nat) (kb kn bb br : Nat) (kind : EKind) : EOp :=
  let old := ((s.cluster (g.core / 4)).ops.filter
    (fun o => o.gid == gid && o.isPass && o.bBase == bb && o.bRegs == br && !o.bw)).getLast?
  ⟨s.nid, gid, (g.ids gid).tail, g.core, g.team, g.ctx, cv, cv2, kind, s.clk, s.prioOf g.team, kb, kn, bb, br,
    old.elim s.nid (fun o => o.ver), false, false⟩

theorem post_ops (s : State) (gid : Nat) (g : Group) (cv : Nat) (cv2 : Option Nat) (kb kn bb br : Nat) (kind : EKind) :
    ((s.post gid g cv cv2 kb kn bb br kind).cluster (g.core / 4)).ops =
      (s.cluster (g.core / 4)).ops ++ [posted s gid g cv cv2 kb kn bb br kind] := by
  unfold State.post
  dsimp only
  rw [Records.cluster_updCluster, if_pos rfl]
  rfl

-- Passes of an `mma`.

/-- Passes of an easel that are not done. -/
def passesOut (s : State) (cl : Nat) : Nat := ((s.cluster cl).ops.filter (fun o => o.isPass && !o.done)).length

theorem tableFull_eq (s : State) (cl : Nat) : s.tableFull cl = decide (32 ≤ passesOut s cl) := rfl

theorem passesOut_post_pass (s : State) (gid : Nat) (g : Group) (cv kb kn bb br : Nat) (f : MFmt) (mx za dk sat tr : Bool)
    (q : Nat) (xs ys : List (List Image)) (sc : List Image) (gam : List Image) :
    passesOut (s.post gid g cv none kb kn bb br (.pass f mx za dk sat tr q xs ys sc gam)) (g.core / 4) =
      passesOut s (g.core / 4) + 1 := by
  unfold passesOut
  rw [post_ops, List.filter_append, List.length_append]
  rfl

/-- The pass of k-block `kb` of an `mma`, posted. -/
def mmaPass (x : MmaArgs) (cv gid : Nat) (c : GCtx) (s : State) (kb : Nat) : State :=
  let b := (mmBlock x.fmt).2
  s.post gid c.g cv none kb x.kn.toNat (opndBase x.b + kb * b) b
    (.pass x.fmt x.mx x.za x.dk x.sat x.tr x.cf.q.toNat (fragImgs c x.a (kb * b) b) (fragImgs c x.b (kb * b) b)
      (if x.mx then scaleImgs c x.c kb else []) (gamImgs c x.dk x.gam (if x.fmt == .f64 then 2 else 1)))

theorem drop_range_cons {n k : Nat} (h : k < n) : (List.range n).drop k = k :: (List.range n).drop (k + 1) := by
  rw [List.drop_eq_getElem_cons (by simpa using h), List.getElem_range]

/-- With room for all its passes an `mma` posts them from a k-block on. -/
theorem mmaPost_room (x : MmaArgs) (cv gid : Nat) (c : GCtx) (s0 : State) (n kb : Nat) (s : State)
    (hn : x.kn.toNat + 1 - kb < n) (hlim : s.lim = none)
    (hroom : passesOut s (c.g.core / 4) + (x.kn.toNat + 1 - kb) ≤ 32) :
    mmaPost x cv gid c s0 n kb s = .done (((List.range (x.kn.toNat + 1)).drop kb).foldl (mmaPass x cv gid c) s) := by
  induction n generalizing kb s with
  | zero => omega
  | succ n ih =>
    unfold mmaPost
    by_cases hk : x.kn.toNat < kb
    · rw [if_pos hk, List.drop_eq_nil_of_le (by rw [List.length_range]; exact hk)]
      rfl
    · have hfull : (s.tableFull (c.g.core / 4) || s.lim == some kb) = false := by
        rw [tableFull_eq, hlim, Bool.or_eq_false_iff, decide_eq_false_iff_not]
        exact ⟨by omega, rfl⟩
      rw [if_neg hk, hfull, if_neg Bool.false_ne_true, drop_range_cons (by omega), List.foldl_cons]
      refine ih (kb + 1) (mmaPass x cv gid c s kb) (by omega) hlim ?_
      unfold mmaPass
      rw [passesOut_post_pass]
      omega

theorem mma_posts {x : MmaArgs} {cv gid : Nat} {s : State} {g : Group}
    (hcv : s.passCvs (GCtx.make g x.k).g [(x.cf.m, fun t => t == mmCanvas x.fmt)] = .ok [cv])
    (h : Issues s gid g x.k [(x.a, (x.kn.toNat + 1) * (mmBlock x.fmt).2), (x.b, (x.kn.toNat + 1) * (mmBlock x.fmt).2),
      (x.c, x.kn.toNat + 1), (x.gam, if x.fmt == .f64 then 2 else 1)])
    (ha : (GCtx.make g x.k).act ≠ 0) (hroom : passesOut s (g.core / 4) + (x.kn.toNat + 1 - g.prog.toNat) ≤ 32) :
    exec (.mma x) s = .next (completed s gid g x.k
      (((List.range (x.kn.toNat + 1)).drop g.prog.toNat).foldl (mmaPass x cv gid (GCtx.make g x.k)) s)) := by
  refine exec_of_done (f := actMma x) rfl h ?_
  unfold actMma
  have hkn := x.kn.isLt
  rw [if_neg (by simpa using ha), hcv, make_prog]
  exact mmaPost_room x cv gid _ s 5 g.prog.toNat s (by omega) h.lim (by rwa [make_core])

-- Operations of one post.

theorem canvasOf_seen (s : State) (g : Group) (k : Com) (m : BitVec 4) (suits : CTy → Bool) :
    s.canvasOf (GCtx.make g k).g m suits = s.canvasOf g m suits := by
  unfold State.canvasOf
  rw [make_team]

/-- The registers of a `cnrow` whose bound canvas passes its checks (R236). -/
theorem rowRanges_eq {s : State} {gid : Nat} {g : Group} {k : Com} {cf : CF} {suits : CTy → Bool} {r : Opnd} {b : Nat}
    {v : Nat × Canvas} (hc : s.cur = some gid) (hg : SMap.get? s.groups gid = some g)
    (hv : s.canvasOf (GCtx.make g k).g cf.m suits = .ok v) (heven : v.2.ty = .f64 → opndBase r % 2 = 0) :
    rowRanges cf suits r b s = [(r, b * rowRegs v.2.ty)] := by
  rw [canvasOf_seen] at hv
  unfold rowRanges
  rw [hc, Option.bind_some, hg]
  dsimp only
  rw [hv]
  dsimp only
  rw [if_neg]
  simp only [Bool.and_eq_true, beq_iff_eq, bne_iff_ne, not_and, Decidable.not_not]
  exact heven

/-- Settles O43: each form's action, its canvas bound, is one post, and an `mma`'s is `mmaPost` with room. -/
theorem easelInstructionsPost : Obligations.EaselInstructionsPost := by
  intro s gid g cl passes32 posts bound
  refine ⟨fun x cv hcv h ha hroom => mma_posts hcv h ha hroom, fun k n1 cf a b v hv h ha => ?_,
    fun x v w hv h ha hroom => ?_, fun k cf v hv h _ => ?_, fun x v hv h ha => ?_, fun k cf r v hv heven => ⟨fun h ha => ?_, fun h _ => ?_⟩,
    fun cv cv2 kb kn bb br kind => ⟨rfl, posted s gid g cv cv2 kb kn bb br kind, post_ops .., rfl, rfl, rfl, rfl, rfl, rfl, rfl, rfl, rfl⟩⟩
  · refine exec_of_done (f := actMlutB n1 cf a b) rfl h ?_
    unfold actMlutB
    rw [if_neg (by simpa using ha), show s.canvasOf _ _ _ = .ok v from hv]
  · refine exec_of_done (f := actMlutA x) rfl h ?_
    unfold actMlutA
    have hfull : s.tableFull ((GCtx.make g x.k).g.core / 4) = false := by
      rw [tableFull_eq, decide_eq_false_iff_not, make_core]
      exact Nat.not_le.mpr hroom
    rw [if_neg (by simpa using ha), hv]
    dsimp only
    rw [hfull]
    rfl
  · refine exec_of_done (f := actCnz cf) rfl h ?_
    unfold actCnz
    rw [show s.canvasOf _ _ _ = .ok v from hv]
  · refine exec_of_done (f := actCnldReg x) rfl h ?_
    unfold actCnldReg
    rw [if_neg (by simpa using ha), show s.canvasOf _ _ _ = .ok v from hv]
  · have hrs := rowRanges_eq (k := k) (b := rowBlocks cf) h.cur h.grp hv heven
    refine exec_of_done (f := actRowScl cf r) (by rw [← hrs]; rfl) h ?_
    unfold actRowScl
    rw [if_neg (by simpa using ha), show s.canvasOf _ _ rowScales = .ok v from hv]
  · have hrs := rowRanges_eq (k := k) (b := 1) h.cur h.grp hv heven
    rw [Nat.one_mul] at hrs
    refine exec_of_done (f := actRowCscl cf r) (by rw [← hrs]; rfl) h ?_
    unfold actRowCscl
    rw [show s.canvasOf _ _ rowScales = .ok v from hv]

end Sys2Proof.Proofs.Easel
end

section
/-! PROOFS. Canvas loads, stores and row results. -/

namespace Sys2Proof.Proofs.Easel
open Sys2Proof Sys2Proof.Machine Sys2Proof.Proofs.Access

-- Results that an instruction leaves outstanding, once it has completed.

theorem completed_outside (s s' : State) (gid : Nat) (g : Group) (k : Com) :
    { completed s gid g k s' with groups := s'.groups, grids := s'.grids, dies := s'.dies } = s' := by
  have h := State.issued_frame s' s (GCtx.make g k).g
  exact congrArg (fun x : State => { x with groups := s'.groups }) h

/-- A state but for its groups and clusters, and for what metering changes. -/
def beyondIssue (s : State) : State := { s with groups := [], grids := [], dies := [], clusters := [] }

theorem completed_beyondIssue (s s' : State) (gid : Nat) (g : Group) (k : Com) :
    beyondIssue (completed s gid g k s') = beyondIssue s' := by
  have h := congrArg beyondIssue (completed_outside s s' gid g k)
  exact h

theorem completed_clusters (s s' : State) (gid : Nat) (g : Group) (k : Com) :
    (completed s gid g k s').clusters = s'.clusters := (congrArg State.clusters (completed_outside s s' gid g k) :)

theorem commit_beyondIssue (s : State) (gid : Nat) (o : Out) : beyondIssue (s.commit gid o) = beyondIssue s := by
  cases hg : SMap.get? s.groups gid with
  | none =>
    unfold State.commit
    rw [hg]
  | some g =>
    have h := congrArg beyondIssue (State.commit_spec s gid g o hg).1
    exact h

/-- A cluster but for its operations. -/
def beyondOps (c : Cluster) : Cluster := { c with ops := [] }

theorem markB_beyondOps (s : State) (g : Group) (gid : Nat) (w : List RegW) (j : Nat) :
    beyondOps ((s.markB g gid w).cluster j) = beyondOps (s.cluster j) := by
  unfold State.markB
  dsimp only
  split
  · rfl
  · rw [Records.cluster_updCluster]
    split
    · next h => rw [h]; rfl
    · rfl

theorem commit_beyondOps (s : State) (gid : Nat) (o : Out) (j : Nat) :
    beyondOps ((s.commit gid o).cluster j) = beyondOps (s.cluster j) := by
  unfold State.commit
  cases SMap.get? s.groups gid with
  | none => rfl
  | some g =>
    dsimp only
    have h := (State.raiseFlags_frame ((s.setGroup gid ((o.rng.foldl (fun g x =>
      g.updLane x.1 (fun l => { l with rng := x.2 })) g).addResults o.w)).markB g gid o.w) gid o.fl).1
    have hc := congrArg (fun x : State => beyondOps (x.cluster j)) h
    exact Eq.trans hc (markB_beyondOps ..)

/-- A completed instruction whose results `o` are outstanding. -/
theorem completed_commit {s s1 : State} {gid : Nat} {g g1 : Group} {k : Com} (o : Out) (hrun : g.runMask ≠ 0)
    (hg1 : SMap.get? s1.groups gid = some g1) (hlen : g1.lanes.length = g.lanes.length) :
    ∃ g', SMap.get? (completed s gid g k (s1.commit gid o)).groups gid = some g' ∧
      g'.final = o.w.foldl RegW.onRegs g1.final := by
  obtain ⟨-, -, g2, hg2, hfinal, hpc, -⟩ := State.commit_spec s1 gid g1 o hg1
  have hlen2 : g2.lanes.length = g.lanes.length := by
    have h := congrArg List.length hpc
    rw [List.length_map, List.length_map] at h
    exact h.trans hlen
  obtain ⟨g', hg', hfinal', -⟩ := RegisterForms.completionAdvances s (s1.commit gid o) gid g g2 k hg2 hlen2 hrun
  exact ⟨g', hg', hfinal'.trans hfinal⟩

-- Checks of the rows of a region.

theorem elemChk_passed {c : GCtx} {gid : Nat} {s : State} {sp : AccessSpec} {ap : BitVec 3} {off : DWord} {n : Nat}
    (h : Passed (s.chk c.g gid sp ap off (n * sp.align))) :
    elemChk c gid s sp ap off n = s.chk c.g gid sp ap off (n * sp.align) := by
  obtain ⟨gs, es, h⟩ := h
  unfold elemChk
  rw [h]

/-- A memory form whose rows all pass goes on with their elements. -/
theorem cnCheck_passed {x : CnMemArgs} {need : Machine.Need} {gid : Nat} {c : GCtx} {s : State}
    {K : List (List Seg) → State → Act} :
    let chks := (List.range (regionN x.cf.wh)).map (fun r =>
      s.chk c.g gid ⟨need, false, true, x.f.bytes⟩ x.ap (rowOff x c r) (regionN x.cf.wh * x.f.bytes))
    c.consume [(x.a, baseRegs x.ap)] [c.low] = none → (∀ b ∈ chks, Passed b) →
    (need.w = true → s.hostLines (chks.flatMap (fun b => b.segs)) = []) →
    cnCheck x need gid c s K =
      K (chks.map (fun b => elemSegs x.f.bytes b.segs)) (s.tlbFills c.g.core (chks.flatMap (fun b => b.tlbs))) := by
  intro chks hc hp hu
  have helem : (List.range (regionN x.cf.wh)).map (fun r =>
      elemChk c gid s ⟨need, false, true, x.f.bytes⟩ x.ap (rowOff x c r) (regionN x.cf.wh)) = chks := by
    refine List.map_congr_left fun r hr => elemChk_passed ?_
    exact hp _ (List.mem_map.mpr ⟨r, hr, rfl⟩)
  have hheld : (if need.w = true then s.hostLines (chks.flatMap Chk.segs) else []) = [] := by
    split
    · next hw => exact hu hw
    · rfl
  unfold cnCheck
  rw [hc]
  dsimp only
  rw [helem, chkLanes_passed chks hp]
  dsimp only
  rw [hheld]
  rfl

theorem tlbFill_ops (s : State) (core : Nat) (e : TlbE) (j : Nat) :
    ((s.tlbFill core e).cluster j).ops = (s.cluster j).ops := by
  unfold State.tlbFill
  dsimp only
  rw [Records.cluster_updCluster]
  split
  · next h => rw [h]; rfl
  · rfl

theorem tlbFills_ops (s : State) (core : Nat) (es : List TlbE) (j : Nat) :
    ((s.tlbFills core es).cluster j).ops = (s.cluster j).ops := by
  unfold State.tlbFills
  induction es generalizing s with
  | nil => rfl
  | cons e es ih => exact (ih _).trans (tlbFill_ops ..)

theorem canvasQuiet_tlbFills (s : State) (core : Nat) (es : List TlbE) (cl cv : Nat) :
    (s.tlbFills core es).canvasQuiet cl cv = s.canvasQuiet cl cv := by
  unfold State.canvasQuiet
  rw [tlbFills_ops]

/-- Register results of an operation on a canvas, once its instruction has completed. -/
theorem completed_commitCv {s : State} {gid cv : Nat} {g : Group} {k : Com} (o : Out) (hrun : g.runMask ≠ 0)
    (hg : SMap.get? s.groups gid = some g) :
    ∃ g', SMap.get? (completed s gid g k (s.commitCv gid cv o)).groups gid = some g' ∧
      g'.final = o.w.foldl RegW.onRegs g.final ∧ (completed s gid g k (s.commitCv gid cv o)).mem = s.mem ∧
      (completed s gid g k (s.commitCv gid cv o)).canvases = s.canvases := by
  obtain ⟨-, -, g2, hg2, hfinal, hpc, -⟩ := State.commit_spec s gid g o hg
  have hlen : g2.lanes.length = g.lanes.length := by
    have h := congrArg List.length hpc
    rwa [List.length_map, List.length_map] at h
  let owed := (g2.eres ++ o.w.map (fun w => (cv, w))).filter (fun e => g2.pend.any (fun p => p.contains e.2))
  have hg3 : SMap.get? (s.commitCv gid cv o).groups gid = some { g2 with eres := owed } :=
    (SMap.get?_upd_same ..).trans (congrArg _ hg2)
  obtain ⟨g', hg', hfinal', -⟩ := RegisterForms.completionAdvances s (s.commitCv gid cv o) gid g _ k hg3 hlen hrun
  have hb := (completed_beyondIssue s (s.commitCv gid cv o) gid g k).trans (commit_beyondIssue s gid o)
  exact ⟨g', hg', hfinal'.trans ((show Group.final { g2 with eres := owed } = g2.final from
    Paths.final_congr rfl rfl).trans hfinal),
    (congrArg State.mem hb :), (congrArg State.canvases hb :)⟩

/-- Settles O44: each form's action, with its canvas bound and its rows checked. -/
theorem canvasLoadsStoresAndRows : Obligations.CanvasLoadsStoresAndRows := by
  intro s gid g cl spec chks checked filled rows ready
  refine ⟨fun x v hv hr => ?_, fun x v hv hr hq hp => ?_, fun x v hv h hq => ?_, fun k cf r v hv heven => ?_⟩
  · obtain ⟨h, hc, hchk, -⟩ := hr
    refine exec_of_done (f := actCnldMem x) rfl h ?_
    unfold actCnldMem
    rw [hv]
    exact cnCheck_passed hc hchk fun hw => nomatch hw
  · obtain ⟨h, hc, hchk, hu⟩ := hr
    refine exec_of_done (f := actCnstMem x) rfl h ?_
    unfold actCnstMem
    rw [hv]
    refine (cnCheck_passed hc hchk hu).trans ?_
    dsimp only
    rw [canvasQuiet_tlbFills, show s.canvasQuiet ((GCtx.make g x.k).g.core / 4) v.1 = true by rwa [make_core], hp]
    rfl
  · intro c q w ha
    have hexec := exec_of_done (i := .cnstReg x) (f := actCnstReg x) (s' := s.commitCv gid v.1 ⟨w, q.2.1, q.2.2⟩) rfl h (by
      unfold actCnstReg
      rw [if_neg (by simpa using ha), hv]
      dsimp only
      rw [show s.canvasQuiet ((GCtx.make g x.k).g.core / 4) v.1 = true by rwa [make_core]]
      rfl)
    obtain ⟨g', hg', hfinal, hmem, hcv⟩ := completed_commitCv (k := x.k) (cv := v.1) ⟨w, q.2.1, q.2.2⟩ h.run h.grp
    exact ⟨_, g', hexec, hg', hfinal, hmem, hcv⟩
  · intro b h hq c ha i f hif
    have hrs := rowRanges_eq (k := k) (b := rowBlocks cf) h.cur h.grp hv heven
    have hrow (F : CTy → List CElem → CElem) (hi : exec i s = issue i k (rowRanges cf cySquare r (rowBlocks cf) s) (actRowGet cf r F) s)
        (hF : F v.2.ty = f) : exec i s = .next (completed s gid g k (s.commitCv gid v.1 (Out.of ((maskLanes c.act).flatMap
          (fun l => c.wr r l ((List.range b).flatMap (fun h => (f (regionRow v.2 cf (32 * h + l))).imgs v.2.ty))))))) := by
      rw [hrs] at hi
      refine exec_of_done hi h ?_
      unfold actRowGet
      rw [if_neg (by simpa using ha), hv]
      dsimp only
      rw [show s.canvasQuiet ((GCtx.make g k).g.core / 4) v.1 = true by rwa [make_core], hF]
      rfl
    obtain ⟨g', hg', hfinal, hmem, hcv⟩ := completed_commitCv (k := k) (cv := v.1) (Out.of ((maskLanes c.act).flatMap
      (fun l => c.wr r l ((List.range b).flatMap (fun h => (f (regionRow v.2 cf (32 * h + l))).imgs v.2.ty))))) h.run h.grp
    refine ⟨_, g', ?_, hg', hmem, hcv, hfinal⟩
    obtain hif | hif := hif
    · cases hif
      exact hrow rowMax rfl rfl
    · cases hif
      exact hrow (fun t => rowTree (sumEntry t) 6) rfl rfl

end Sys2Proof.Proofs.Easel
end

section
/-! PROOFS. The canvas pool: allocation, growing, trimming and freeing. -/

namespace Sys2Proof.Proofs.Easel
open Sys2Proof Sys2Proof.Machine Sys2Proof.Proofs.Access

/-- A form that delivers a predicate, its effect on the state being `s1`. -/
theorem sets_predicate {i : Instr} {k : Com} {rs : List (Opnd × Nat)} {f : Nat → GCtx → State → Act} {s s1 : State}
    {gid : Nat} {g : Group} {pD : BitVec 3} {b : Bool} (hi : exec i s = issue i k rs f s) (h : Issues s gid g k rs)
    (hgroups : s1.groups = s.groups) (hmem : s1.mem = s.mem)
    (hf : f gid (GCtx.make g k) s = .done (s1.commit gid (predAll (GCtx.make g k).act pD b))) :
    ∃ u g', exec i s = .next u ∧ SMap.get? u.groups gid = some g' ∧
      g'.final = ((maskLanes (GCtx.make g k).act).map (fun l => RegW.p l pD.toNat b)).foldl RegW.onRegs g.final ∧
      u.teams = s1.teams ∧ u.canvases = s1.canvases ∧ (u.cluster (g.core / 4)).free = (s1.cluster (g.core / 4)).free ∧
      u.mem = s.mem := by
  obtain ⟨g', hg', hfinal⟩ := completed_commit (s := s) (k := k) (predAll (GCtx.make g k).act pD b) h.run
    (show SMap.get? s1.groups gid = some g from hgroups ▸ h.grp) rfl
  have hb := (completed_beyondIssue s (s1.commit gid (predAll (GCtx.make g k).act pD b)) gid g k).trans
    (commit_beyondIssue ..)
  have hfree : ((completed s gid g k (s1.commit gid (predAll (GCtx.make g k).act pD b))).cluster (g.core / 4)).free =
      (s1.cluster (g.core / 4)).free := by
    unfold State.cluster
    rw [completed_clusters]
    exact (congrArg Cluster.free (commit_beyondOps s1 gid _ (g.core / 4)) :)
  exact ⟨_, g', exec_of_done hi h hf, hg', hfinal, (congrArg State.teams hb :), (congrArg State.canvases hb :), hfree,
    (congrArg State.mem hb :).trans hmem⟩

/-- A grow that is not refused its operand and has no request waiting. -/
theorem actGrow_fresh {wait : Bool} {pD : BitVec 3} {b : Opnd} {gid : Nat} {c : GCtx} {s : State} (ha : c.act ≠ 0)
    (hc : c.consume [(b, 1)] [c.low] = none) (hw : ∀ w ∈ (s.cluster (c.g.core / 4)).grows, w.gid ≠ gid) :
    actGrow wait pD b gid c s = match s.growNow c.g (cnalN c b) with
      | some true =>
        .done ((s.growPool (c.g.core / 4) c.g.team (cnalN c b)).commit gid (predAll c.act pD true))
      | some false => .done (s.commit gid (predAll c.act pD false))
      | none =>
        if wait then .wait (s.updCluster (c.g.core / 4) (fun x =>
          { x with grows := x.grows ++ [⟨gid, cnalN c b, c.k, pD, c.act⟩] })) .grow
        else .done (s.commit gid (predAll c.act pD false)) := by
  have hany : (s.cluster (c.g.core / 4)).grows.any (fun w => w.gid == gid) = false := by
    simpa using hw
  unfold actGrow
  rw [if_neg (by simpa using ha), hc]
  dsimp only
  rw [hany]
  rfl

theorem growPool_groups (s : State) (cl tid n : Nat) : (s.growPool cl tid n).groups = s.groups := rfl

theorem growPool_mem (s : State) (cl tid n : Nat) : (s.growPool cl tid n).mem = s.mem := rfl

theorem growPool_cluster (s : State) (cl tid n : Nat) :
    (s.growPool cl tid n).cluster cl = { s.cluster cl with free := ((s.cluster cl).free - n) } :=
  (Records.cluster_updCluster s cl cl (fun c => { c with free := c.free - n })).trans (if_pos rfl)

theorem lane_pc_of_map {a b : Group} (h : a.lanes.map (fun l => l.pc) = b.lanes.map (fun l => l.pc)) (l : Nat) :
    (a.lane l).pc = (b.lane l).pc := by
  have pc_of_map (c : Group) : (c.lanes.map (fun l => l.pc)).getD l Lane.none.pc = (c.lane l).pc := by
    unfold Group.lane
    rw [List.getD_eq_getElem?_getD, List.getD_eq_getElem?_getD, List.getElem?_map]
    cases c.lanes[l]? <;> rfl
  rw [← pc_of_map a, ← pc_of_map b, h]

/-- What an answer leaves of the grow's group and of the easel. -/
theorem growDone_spec {s : State} {cl : Nat} {w : Grow} {h : Group} (b : Bool) (hg : SMap.get? s.groups w.gid = some h) :
    ∃ h', (s.growDone cl w b).mem = s.mem ∧
      ((s.growDone cl w b).cluster cl).grows = (s.cluster cl).grows.filter (fun x => x.gid != w.gid) ∧
      ((s.growDone cl w b).cluster cl).free = (s.cluster cl).free ∧
      SMap.get? (s.growDone cl w b).groups w.gid = some h' ∧ h'.wait = .no ∧
      h'.final = ((maskLanes w.act).map (fun l => RegW.p l w.pD.toNat b)).foldl RegW.onRegs h.final ∧
      ∀ l, (h'.lane l).pc = if inMask h.runMask l then (h.lane l).pc + comBytes w.k else (h.lane l).pc := by
  unfold State.growDone
  dsimp only
  generalize hs1 : s.updCluster cl (fun c => { c with grows := c.grows.filter (fun x => x.gid != w.gid) }) = s1
  have hg1 : SMap.get? s1.groups w.gid = some h := by rw [← hs1]; exact hg
  have hmem1 : s1.mem = s.mem := by rw [← hs1]; rfl
  have hgrows1 : (s1.cluster cl).grows = (s.cluster cl).grows.filter (fun x => x.gid != w.gid) := by
    rw [← hs1, Records.cluster_updCluster, if_pos rfl]
  have hfree1 : (s1.cluster cl).free = (s.cluster cl).free := by
    rw [← hs1, Records.cluster_updCluster, if_pos rfl]
  rw [hg1]
  dsimp only
  obtain ⟨-, -, g2, hg2, hfinal, hpc, -⟩ := State.commit_spec s1 w.gid h (predAll w.act w.pD b) hg1
  have hlen : g2.lanes.length = h.lanes.length := by
    have q := congrArg List.length hpc
    rwa [List.length_map, List.length_map] at q
  obtain ⟨hfin, hpcs, -, -, -, hwait, -⟩ := Group.complete_spec g2 h.runMask h.inH w.k
    (GCtx.lowSlot ⟨h, w.k, h.runMask, w.act, h.runPc⟩) (fun l hl => hlen ▸ Group.run_lt h l hl)
  have hlane (l : Nat) : (g2.lane l).pc = (h.lane l).pc := lane_pc_of_map hpc l
  have hcom := commit_beyondIssue s1 w.gid (predAll w.act w.pD b)
  have hcl := commit_beyondOps s1 w.gid (predAll w.act w.pD b) cl
  generalize s1.commit w.gid (predAll w.act w.pD b) = s2 at hg2 hcom hcl ⊢
  have hiss := State.issued_frame s2 s1 h
  unfold finish
  dsimp only
  refine ⟨_, ?_, ?_, ?_, ?_, hwait, hfin.trans hfinal, fun l => ?_⟩
  · exact ((congrArg State.mem hiss :).trans (congrArg State.mem hcom :)).trans hmem1
  · have hc : (s2.cluster cl).grows = (s1.cluster cl).grows := (congrArg Cluster.grows hcl :)
    have hi : (s2.issued s1 h).clusters = s2.clusters := (congrArg State.clusters hiss :)
    refine Eq.trans ?_ (hc.trans hgrows1)
    exact congrArg (fun m => (SMap.getD m (Cluster.init (cl % 32)) cl).grows) hi
  · have hc : (s2.cluster cl).free = (s1.cluster cl).free := (congrArg Cluster.free hcl :)
    have hi : (s2.issued s1 h).clusters = s2.clusters := (congrArg State.clusters hiss :)
    refine Eq.trans ?_ (hc.trans hfree1)
    exact congrArg (fun m => (SMap.getD m (Cluster.init (cl % 32)) cl).free) hi
  · rw [State.updGroup_groups, SMap.get?_upd_same, State.issued_groups, hg2]
    rfl
  · rw [hpcs l, hlane l]

/-- A fresh zero canvas bound to a name of a team. -/
def allocated (s : State) (tid m : Nat) (ty : CTy) : State :=
  ({ s.fresh with canvases := SMap.put s.canvases s.nid ⟨tid, ty, true, []⟩ } : State).updTeam tid
    (fun t => { t with binds := SMap.put t.binds m s.nid })

/-- Settles O45: each form's action by its branch; the answer to a waiting grow is `growDone_spec`. -/
theorem canvasPool : Obligations.CanvasPool := by
  intro k s gid g t c cl preds sets ht
  have hupd (f : Team → Team) : SMap.upd s.teams (GCtx.make g k).g.team f = SMap.put s.teams g.team (f t) := by
    rw [make_team]
    exact Records.upd_of_get? f ht
  have htc : SMap.get? s.teams (GCtx.make g k).g.team = some t := by rwa [make_team]
  refine ⟨fun h cf => ⟨fun pD ty ha hm hb => ?_, fun v hv => ?_⟩, fun b h hc => ⟨fun pD i hi ha hw => ?_,
    fun pD ha hw hn => ?_, fun n hn hle => ?_⟩, fun w ok hh hs hgrp => ?_⟩
  · have hact : actAlloc pD ty cf gid (GCtx.make g k) s =
        if s.slotsUsed g.team true + cySlots ty ≤ t.pool then
          .done ((allocated s g.team cf.m.toNat ty).commit gid (predAll (GCtx.make g k).act pD true))
        else if s.slotsUsed g.team false + cySlots ty ≤ t.pool then .wait s .canvas
        else .done (s.commit gid (predAll (GCtx.make g k).act pD false)) := by
      unfold actAlloc
      rw [if_neg (by simpa using ha), htc]
      dsimp only
      rw [if_neg (Nat.not_le.mpr hm), hb, if_neg (by simp), make_team]
      rfl
    have hteams' := Records.upd_of_get? (fun t => { t with binds := SMap.put t.binds cf.m.toNat s.nid }) ht
    refine ⟨fun hle => ?_, fun hlt hlt' => ?_⟩
    · obtain ⟨u, g', hu, hg', hfinal, hteams, hcv, hfree, hmem⟩ :=
        sets_predicate (i := .cnalAlloc k pD ty cf) (s1 := allocated s g.team cf.m.toNat ty) rfl h rfl rfl (hact.trans (if_pos hle))
      exact ⟨u, g', hu, hg', hfinal, hteams.trans hteams', hcv, hfree, hmem⟩
    · refine sets_predicate (i := .cnalAlloc k pD ty cf) (f := actAlloc pD ty cf) rfl h rfl rfl (hact.trans ?_)
      rw [if_neg (Nat.not_le.mpr hlt), if_neg (Nat.not_le.mpr hlt')]
  · refine exec_of_done (i := .cnalFree k cf) (f := actCnFree cf) rfl h ?_
    unfold actCnFree
    rw [hv]
    dsimp only
    unfold State.updTeam
    rw [hupd]
  · have hw' : ∀ w ∈ (s.cluster ((GCtx.make g k).g.core / 4)).grows, w.gid ≠ gid := by rwa [make_core]
    have hform : ∃ wait, exec i s = issue i k [(b, 1)] (actGrow wait pD b) s ∧ (i = .cnalGrow k pD b → wait = false) := by
      obtain rfl | rfl := hi
      · exact ⟨false, rfl, fun _ => rfl⟩
      · exact ⟨true, rfl, fun he => nomatch he⟩
    obtain ⟨wait, hexec, hwait⟩ := hform
    have hact := actGrow_fresh (wait := wait) (pD := pD) ha hc hw'
    refine ⟨fun hn => ?_, fun hn => ?_, fun hn hi => ?_⟩
    · refine sets_predicate hexec h (growPool_groups ..) (growPool_mem ..) (hact.trans ?_)
      rw [hn, make_core, make_team]
    · refine sets_predicate hexec h rfl rfl (hact.trans ?_)
      rw [hn]
    · refine sets_predicate hexec h rfl rfl (hact.trans ?_)
      rw [hn, hwait hi]
      rfl
  · have hw' : ∀ w ∈ (s.cluster ((GCtx.make g k).g.core / 4)).grows, w.gid ≠ gid := by rwa [make_core]
    have hact := actGrow_fresh (wait := true) (pD := pD) ha hc hw'
    rw [hn, make_core] at hact
    exact (issue_runs _ k _ _ s gid g h).trans (congrArg (fun a => Host.Outcome.next (finish s gid (GCtx.make g k) a)) hact)
  · refine exec_of_done (i := .cnalTrim k b) (f := actTrim b) rfl h ?_
    unfold actTrim
    rw [hc, htc]
    dsimp only
    rw [make_team, make_core, ← hn, if_neg (Nat.not_lt.mpr hle), State.updTeam, Records.upd_of_get? _ ht]
  · have hexec : exec (.canvasGrowGrant cl) s = .next (evCanvasGrowGrant cl s) := rfl
    have hev : evCanvasGrowGrant cl s =
        if ok then (s.growPool cl (s.teamOf w.gid) w.n).growDone cl w true
        else (s.count (cl / 32) ((SMap.get? s.groups w.gid).elim 0 (fun g => g.ctx))
          (fun x => { x with cdead := x.cdead + 1 })).growDone cl w false := by
      unfold evCanvasGrowGrant
      rw [hs]
    rw [hexec, hev]
    cases ok with
    | true =>
      obtain ⟨h', hmem, hgrows, hfree, hg', hrest⟩ := growDone_spec (cl := cl) true
        (show SMap.get? (s.growPool cl (s.teamOf w.gid) w.n).groups w.gid = some hh from hgrp)
      rw [growPool_cluster] at hgrows hfree
      exact ⟨_, h', rfl, hmem, hgrows, hfree, hg', hrest⟩
    | false =>
      obtain ⟨h', hmem, hgrows, hfree, hg', hrest⟩ := growDone_spec (cl := cl) false
        (show SMap.get? (s.count (cl / 32) ((SMap.get? s.groups w.gid).elim 0 (fun g => g.ctx))
          (fun x => { x with cdead := x.cdead + 1 })).groups w.gid = some hh from hgrp)
      exact ⟨_, h', rfl, hmem, hgrows, hfree, hg', hrest⟩

end Sys2Proof.Proofs.Easel
end

section
/-! PROOFS. `mwait`, granted passes, and the end of an easel operation. -/

namespace Sys2Proof.Proofs.Easel
open Sys2Proof Sys2Proof.Machine Sys2Proof.Proofs.Access

-- `mwait`.

theorem seen_homes (g : Group) : g.seen.lanes.map (fun l => l.home) = g.lanes.map (fun l => l.home) := by
  unfold Group.seen
  split
  · rfl
  · dsimp only
    rw [List.map_map]
    exact (List.map_map (f := Prod.fst) (g := fun l : Lane => l.home) (l := g.lanes.zipIdx)).symm.trans
      (congrArg _ (List.zipIdx_map_fst 0 g.lanes))

theorem make_ids (g : Group) (k : Com) (gid : Nat) : (GCtx.make g k).g.ids gid = g.ids gid := by
  have h := congrArg (fun m => gid :: (m.filterMap (fun o => o.map (fun h => h.gid))).eraseDups) (seen_homes g)
  simp only [List.filterMap_map] at h
  exact h

/-- An `mwait`'s context owes what its group owes. -/
theorem easelOwes_make (s : State) (gid : Nat) (g : Group) (k : Com) (cvs : Option (List Nat)) :
    s.easelOwes gid (GCtx.make g k).g cvs = s.easelOwes gid g cvs := by
  unfold State.easelOwes
  rw [make_core, make_ids, show (GCtx.make g k).g.eres = g.eres from (congrArg Group.eres (make_beyondHeld g k) :),
    show (GCtx.make g k).g.pend = g.pend from (congrArg Group.pend (make_beyondHeld g k) :)]

theorem mwaitCvs_make (s : State) (g : Group) (k : Com) (m : BitVec 4) :
    s.mwaitCvs (GCtx.make g k).g (some m) =
      some (match g.held with | some h => h.cvs | none => (s.bound? (GCtx.make g k).g m).toList) := by
  unfold State.mwaitCvs
  rw [show (GCtx.make g k).g.held = g.held from (congrArg Group.held (make_beyondHeld g k) :)]
  cases g.held <;> rfl

/-- What a group's easel owes on all canvases. -/
theorem easelOwes_all {s : State} {gid : Nat} {g : Group} : s.easelOwes gid g none = true ↔
    (∃ o ∈ (s.cluster (g.core / 4)).ops, o.mine (g.ids gid) = true) ∨ ∃ e ∈ g.eres, ∃ w ∈ g.pend, e.2 ∈ w := by
  simp [State.easelOwes]

/-- What a group's easel owes on some canvases. -/
theorem easelOwes_some {s : State} {gid : Nat} {g : Group} {cvs : List Nat} : s.easelOwes gid g (some cvs) = true ↔
    (∃ o ∈ (s.cluster (g.core / 4)).ops, o.mine (g.ids gid) = true ∧ ∃ i ∈ cvs, o.cv = i ∨ o.cv2 = some i) ∨
      ∃ e ∈ g.eres, e.1 ∈ cvs ∧ ∃ w ∈ g.pend, e.2 ∈ w := by
  have hsel (o : EOp) : (cvs.contains o.cv || o.cv2.any (fun i => cvs.contains i)) = true ↔
      ∃ i ∈ cvs, o.cv = i ∨ o.cv2 = some i := by
    cases h : o.cv2 with
    | none => simp
    | some j =>
      simp only [Option.any_some, Bool.or_eq_true, List.contains_iff_mem, Option.some.injEq]
      constructor
      · rintro (hi | hj)
        · exact ⟨_, hi, .inl rfl⟩
        · exact ⟨_, hj, .inr rfl⟩
      · rintro ⟨i, hi, rfl | rfl⟩
        · exact .inl hi
        · exact .inr hi
  simp only [State.easelOwes, Option.elim_some, Bool.or_eq_true, List.any_eq_true, Bool.and_eq_true, hsel,
    List.contains_iff_mem]

/-- An `mwait` by what its group's easel owes. -/
theorem actMwait_eq (m : Option (BitVec 4)) (gid : Nat) (c : GCtx) (s : State) {cvs : Option (List Nat)}
    (h : s.mwaitCvs c.g m = cvs) : actMwait m gid c s =
      if s.easelOwes gid c.g cvs then .wait (cvs.elim s (s.holdCvs gid)) .mwait else .done (s.tokOrder c.g) := by
  unfold actMwait
  rw [h]

-- Granted passes.

/-- A state but for its canvases, clusters, and what metering changes. -/
def beyondPass (s : State) : State := { s with canvases := [], clusters := [], grids := [], dies := [] }

theorem groups_of_beyondPass {s t : State} (h : beyondPass t = beyondPass s) : t.groups = s.groups ∧ t.mem = s.mem :=
  ⟨(congrArg State.groups h :), (congrArg State.mem h :)⟩

theorem charge_beyondPass (s0 s1 : State) (t v : Nat) : beyondPass (s0.charge s1 t v) = beyondPass s1 := by
  unfold State.charge
  dsimp only
  split
  · split <;> rfl
  · rfl

theorem charge_cluster (s0 s1 : State) (t v : Nat) : (s0.charge s1 t v).clusters = s1.clusters := by
  unfold State.charge
  dsimp only
  split
  · split <;> rfl
  · rfl

/-- A pass writes entries of its canvas alone. -/
theorem easelApply_pass {s : State} {o : EOp} (h : o.isPass = true) : { s.easelApply o with canvases := s.canvases } = s := by
  unfold EOp.isPass at h
  unfold State.easelApply
  split at h
  · next hk => rw [hk]; rfl
  · next hk =>
    rw [hk]
    dsimp only
    split <;> rfl
  · cases h

theorem easelDo_pass {s : State} {cl : Nat} {o : EOp} (h : o.isPass = true) : beyondPass (s.easelDo cl o) = beyondPass s :=
  (charge_beyondPass s ((s.easelApply o).meter (cl / 32) (o.ctx / 256) (passMeter o.kind)) o.team (o.ctx / 256)).trans
    (congrArg beyondPass (easelApply_pass h) :)

theorem easelDo_pass_ops {s : State} {cl : Nat} {o : EOp} (h : o.isPass = true) : ((s.easelDo cl o).cluster cl).ops =
    (s.cluster cl).ops.map (fun x => if x.id == o.id then { x with done := true } else x) := by
  have hcl := (charge_cluster s ((s.easelApply o).meter (cl / 32) (o.ctx / 256) (passMeter o.kind)) o.team
    (o.ctx / 256)).trans (congrArg State.clusters (easelApply_pass h) :)
  unfold State.easelDo
  dsimp only
  rw [Records.cluster_updCluster, if_pos rfl]
  unfold State.cluster
  rw [hcl]

/-- Every operation of an id is done. -/
def DoneOf (s : State) (cl id : Nat) : Prop := ∀ o ∈ (s.cluster cl).ops, o.id = id → o.done = true

theorem easelDo_doneOf {s : State} {cl id : Nat} {o : EOp} (h : o.isPass = true) (hd : id ≠ o.id → DoneOf s cl id) :
    DoneOf (s.easelDo cl o) cl id := by
  intro y hy hid
  rw [easelDo_pass_ops h, List.mem_map] at hy
  obtain ⟨x, hx, rfl⟩ := hy
  by_cases hxo : x.id = o.id
  · rw [if_pos (by simpa using hxo)]
  · rw [if_neg (by simpa using hxo)] at hid ⊢
    exact hd (fun he => hxo (hid.trans he)) x hx hid

theorem fuse_pass (s : State) (cl : Nat) (e : EOp) (n : Nat) (hd : DoneOf s cl e.id) :
    beyondPass (s.fuse cl e n) = beyondPass s ∧ DoneOf (s.fuse cl e n) cl e.id := by
  induction n with
  | zero => exact ⟨rfl, hd⟩
  | succ n ih =>
    obtain ⟨hb, hdone⟩ := ih
    unfold State.fuse
    dsimp only
    split
    · next o ho =>
      have hp := List.find?_some ho
      simp only [Bool.and_eq_true] at hp
      exact ⟨(easelDo_pass hp.1.1.2).trans hb, easelDo_doneOf hp.1.1.2 fun _ => hdone⟩
    · exact ⟨hb, hdone⟩

theorem nextPass_isPass {s : State} {cl : Nat} {e : EOp} (h : s.nextPass cl = some e) : e.isPass = true := by
  have hgen (f : Option EOp → EOp → Option EOp) (hf : ∀ b o, f b o = some o ∨ f b o = b) (ls : List EOp)
      (hls : ∀ o ∈ ls, o.isPass = true) (b : Option EOp) (hb : ∀ o, b = some o → o.isPass = true) (o : EOp)
      (ho : ls.foldl f b = some o) : o.isPass = true := by
    induction ls generalizing b with
    | nil => exact hb o ho
    | cons x ls ih =>
      refine ih (fun o ho => hls o (List.mem_cons_of_mem x ho)) (f b x) (fun o ho => ?_) ho
      obtain hx | hx := hf b x
      · cases hx.symm.trans ho
        exact hls _ (List.mem_cons_self ..)
      · exact hb o (hx ▸ ho)
  unfold State.nextPass at h
  refine hgen _ (fun b o => ?_) _ (fun o ho => ?_) none (fun _ ho => nomatch ho) e h
  · cases b with
    | none => exact .inl rfl
    | some x =>
      dsimp only
      split
      · exact .inl rfl
      · exact .inr rfl
  · have := (List.mem_filter.mp ho).2
    rw [Bool.and_eq_true] at this
    exact this.1

/-- An operation that has left the easel. -/
theorem easelEnd_removes (s : State) (cl id : Nat) : ∀ x ∈ ((s.easelEnd cl id).cluster cl).ops, x.id ≠ id := by
  intro x hx
  have h : ((s.easelEnd cl id).cluster cl).ops = (s.cluster cl).ops.filter (fun x => x.id != id) := by
    refine Eq.trans (b := ((s.updCluster cl (fun c =>
      { c with ops := c.ops.filter (fun x => x.id != id) })).cluster cl).ops) rfl ?_
    rw [Records.cluster_updCluster, if_pos rfl]
  rw [h, List.mem_filter] at hx
  simpa using hx.2

/-- Settles O46: what an `mwait` waits for, then passes granted and joined, then the easel's next operation. -/
theorem easelCompletion : Obligations.EaselCompletion := by
  refine ⟨fun k cf s gid g h => ?_, fun cl s => ⟨fun e he => ?_, fun o ho hr => ?_, fun o ho hd hr => ?_⟩⟩
  · intro c mine out cvs onIt
    have hall := actMwait_eq none gid c s rfl
    have hsome := actMwait_eq (some cf.m) gid c s (mwaitCvs_make s g k cf.m)
    rw [easelOwes_make] at hall hsome
    refine ⟨fun ho he => ?_, fun ho => ?_, fun ho he => ?_, fun ho => ?_⟩
    · refine exec_of_done (i := .mwait k) rfl h (hall.trans (if_neg fun hw => ?_))
      obtain ⟨o, hm, hi⟩ | ⟨e, hm, hi⟩ := easelOwes_all.mp hw
      · exact ho o ⟨hm, hi⟩
      · exact he e ⟨hm, hi⟩
    · have hw : s.easelOwes gid g none = true := by
        refine easelOwes_all.mpr (ho.imp ?_ ?_)
        · rintro ⟨o, hm, hi⟩
          exact ⟨o, hm, hi⟩
        · rintro ⟨e, hm, hi⟩
          exact ⟨e, hm, hi⟩
      exact (issue_runs _ k _ _ s gid g h).trans (congrArg (fun a => Host.Outcome.next (finish s gid (GCtx.make g k) a)) (hall.trans (if_pos hw)))
    · refine exec_of_done (i := .mwaitM k cf) rfl h (hsome.trans (if_neg fun hw => ?_))
      obtain ⟨o, hm, hi, hon⟩ | ⟨e, hm, hi, hp⟩ := easelOwes_some.mp hw
      · exact ho o ⟨hm, hi⟩ hon
      · exact he e ⟨hm, hp⟩ hi
    · have hw : s.easelOwes gid g (some cvs) = true := by
        refine easelOwes_some.mpr (ho.imp ?_ ?_)
        · rintro ⟨o, ⟨hm, hi⟩, hon⟩
          exact ⟨o, hm, hi, hon⟩
        · rintro ⟨e, ⟨hm, hp⟩, hi⟩
          exact ⟨e, hm, hi, hp⟩
      exact (issue_runs _ k _ _ s gid g h).trans
        (congrArg (fun a => Host.Outcome.next (finish s gid (GCtx.make g k) a)) (hsome.trans (if_pos hw)))
  · have hp := nextPass_isPass he
    obtain ⟨hb, hdone⟩ := fuse_pass (s.easelDo cl e) cl e 3 (easelDo_doneOf hp fun hne => absurd rfl hne)
    have hb' := hb.trans (easelDo_pass hp)
    have hexec : exec (.easelGrant cl) s = .next (evEaselGrant cl s) := rfl
    have hev : evEaselGrant cl s = (s.easelDo cl e).fuse cl e 3 := by
      unfold evEaselGrant
      rw [he]
    rw [hev] at hexec
    exact ⟨_, hexec, rfl, hdone, groups_of_beyondPass hb'⟩
  · have hev : evEaselOpComplete cl s = (if o.done then s else s.easelDo cl o).easelEnd cl o.id := by
      unfold evEaselOpComplete
      rw [ho]
      refine if_neg ?_
      obtain hr | hr := hr <;> rw [hr] <;> simp
    have hexec : exec (.easelOpComplete cl) s = .next (evEaselOpComplete cl s) := rfl
    rw [hev] at hexec
    exact ⟨_, hexec, rfl, easelEnd_removes _ cl o.id⟩
  · refine congrArg Host.Outcome.next ?_
    show evEaselOpComplete cl s = _
    unfold evEaselOpComplete
    rw [ho]
    refine if_pos ?_
    rw [hd, hr]
    rfl

end Sys2Proof.Proofs.Easel
end

section
/-! PROOFS. Fetch: what a line of the own die reads through L2. -/

namespace Sys2Proof.Proofs.Fetch
open Sys2Proof Sys2Proof.Machine

-- What a step of the caches keeps of a line.

/-- The memory-side cache of a die holds no poison of a line. -/
def MscClean (s : State) (line d : Nat) : Prop := ∀ e ∈ (s.die d).msc, e.2.line = line → e.2.p = 0

/-- What stays of a line while the memory-side cache moves: memory, keys, the map, its poison, and L2. -/
structure LineKept (line : Nat) (s t : State) : Prop where
  mem : t.mem = s.mem
  keyOf : t.keyOf = s.keyOf
  mod : t.mod = s.mod
  poison : ∀ u, u / 8 = line → SMap.getD t.poison false u = SMap.getD s.poison false u
  l2 : ∀ d, (t.die d).l2 = (s.die d).l2
  msc : ∀ d, MscClean s line d → MscClean t line d

theorem LineKept.refl (line : Nat) (s : State) : LineKept line s s :=
  ⟨rfl, rfl, rfl, fun _ _ => rfl, fun _ => rfl, fun _ h => h⟩

theorem LineKept.trans {line : Nat} {s t u : State} (h : LineKept line s t) (h' : LineKept line t u) :
    LineKept line s u :=
  ⟨h'.mem.trans h.mem, h'.keyOf.trans h.keyOf, h'.mod.trans h.mod, fun v hv => (h'.poison v hv).trans (h.poison v hv),
    fun d => (h'.l2 d).trans (h.l2 d), fun d hc => h'.msc d (h.msc d hc)⟩

/-- Then a change of one die that keeps its L2 and brings no poison of the line to its memory-side cache. -/
theorem LineKept.updDie {line : Nat} {s t : State} {d : Nat} {f : Die → Die} (h : LineKept line s t)
    (hl : (f (t.die d)).l2 = (t.die d).l2)
    (hm : MscClean s line d → MscClean t line d → ∀ e ∈ (f (t.die d)).msc, e.2.line = line → e.2.p = 0) :
    LineKept line s (t.updDie d f) := by
  refine ⟨h.mem, h.keyOf, h.mod, h.poison, fun j => ?_, fun j hc => ?_⟩
  · rw [Records.die_updDie]
    split
    · next hj => rw [hj, hl, h.l2]
    · exact h.l2 j
  · unfold MscClean
    rw [Records.die_updDie]
    split
    · next hj => exact hm (hj ▸ hc) (h.msc d (hj ▸ hc))
    · exact h.msc j hc

theorem lineKept_meter (line : Nat) (s : State) (d v : Nat) (f : Meter → Meter) : LineKept line s (s.meter d v f) :=
  (LineKept.refl line s).updDie rfl fun _ hc => hc

theorem lineKept_draw (line : Nat) (s : State) : LineKept line s s.draw :=
  ⟨rfl, rfl, rfl, fun _ _ => rfl, fun _ => rfl, fun _ hc => hc⟩

theorem lineKept_count (line : Nat) (s : State) (d c : Nat) (f : CtxCtr → CtxCtr) : LineKept line s (s.count d c f) :=
  (LineKept.refl line s).updDie rfl fun _ hc => hc

theorem lineKept_stall (line : Nat) (s : State) (d c cause : Nat) (timed : Bool) :
    LineKept line s (s.stall d c cause timed) := by
  unfold State.stall
  exact (lineKept_count ..).trans (lineKept_draw ..)

theorem lineKept_setStack (line : Nat) (s : State) (k : Nat) (x : Stack) : LineKept line s (s.setStack k x) :=
  ⟨rfl, rfl, rfl, fun _ _ => rfl, fun _ => rfl, fun _ hc => hc⟩

theorem lineKept_portReq (line : Nat) (s : State) (kind pa mask : Nat) (q : ReqData) (ctx : Nat) :
    LineKept line s (s.portReq kind pa mask q ctx) := by
  unfold State.portReq
  dsimp only
  refine LineKept.trans ?_ (lineKept_meter ..)
  split <;> exact lineKept_setStack ..

/-- Other lines' units may get poison. -/
theorem lineKept_poisonUnits {line : Nat} (s : State) {us : List Nat} (hu : ∀ u ∈ us, u / 8 ≠ line) :
    LineKept line s (s.poisonUnits us) := by
  have hfold : ∀ (us : List Nat) (p : SMap Bool), (∀ u ∈ us, u / 8 ≠ line) → ∀ v, v / 8 = line →
      SMap.getD (us.foldl (fun p u => SMap.set p false u true) p) false v = SMap.getD p false v := by
    intro us
    induction us with
    | nil => exact fun _ _ _ _ => rfl
    | cons u us ih =>
      intro p hu v hv
      refine (ih _ (fun w hw => hu w (List.mem_cons_of_mem u hw)) v hv).trans ?_
      have hne : v ≠ u := fun h => hu u (List.mem_cons_self ..) (h ▸ hv)
      exact Records.getD_put_other p false true hne
  exact ⟨rfl, rfl, rfl, fun v hv => hfold us s.poison hu v hv, fun _ => rfl, fun _ hc => hc⟩

theorem mem_del {α : Type} {m : SMap α} {n : Nat} {x : Nat × α} (h : x ∈ SMap.del m n) : x ∈ m := by
  induction m with
  | nil => exact h
  | cons e m ih =>
    unfold SMap.del at h
    split at h
    · exact List.mem_cons_of_mem _ h
    · split at h
      · exact h
      · obtain rfl | h := List.mem_cons.mp h
        · exact List.mem_cons_self ..
        · exact List.mem_cons_of_mem _ (ih h)

theorem mem_put {α : Type} {m : SMap α} {n : Nat} {v : α} {x : Nat × α} (h : x ∈ SMap.put m n v) :
    x.2 = v ∨ x ∈ m := by
  induction m with
  | nil => exact .inl (congrArg Prod.snd (List.mem_singleton.mp h))
  | cons e m ih =>
    unfold SMap.put at h
    split at h
    · obtain rfl | h := List.mem_cons.mp h
      · exact .inl rfl
      · exact .inr (List.mem_cons_of_mem _ h)
    · split at h
      · obtain rfl | h := List.mem_cons.mp h
        · exact .inl rfl
        · exact .inr h
      · obtain rfl | h := List.mem_cons.mp h
        · exact .inr (List.mem_cons_self ..)
        · exact (ih h).imp id (List.mem_cons_of_mem _)

theorem mem_of_get? {α : Type} {m : SMap α} {n : Nat} {v : α} (h : SMap.get? m n = some v) : ∃ k, (k, v) ∈ m := by
  induction m with
  | nil => cases h
  | cons e m ih =>
    unfold SMap.get? at h
    split at h
    · cases h
      exact ⟨e.1, List.mem_cons_self ..⟩
    · split at h
      · cases h
      · obtain ⟨k, hk⟩ := ih h
        exact ⟨k, List.mem_cons_of_mem _ hk⟩

theorem units8_lt {mask u : Nat} (h : u ∈ units8 mask) : u < 8 := List.mem_range.mp (List.mem_filter.mp h).1

/-- Another line leaves the memory-side cache. -/
theorem lineKept_mscOut {line : Nat} (s : State) (d : Nat) {l : MscLine} (hl : l.line ≠ line) : LineKept line s (s.mscOut d l) := by
  unfold State.mscOut
  split
  · exact .refl ..
  · dsimp only
    refine LineKept.trans (lineKept_poisonUnits _ fun u hu => ?_) (lineKept_portReq ..)
    obtain ⟨v, hv, rfl⟩ := List.mem_map.mp hu
    have := units8_lt hv
    omega

theorem lineKept_mscEvict {line : Nat} (s : State) (d k : Nat) (h : ∀ e ∈ (s.die d).msc, e.2.line ≠ line) :
    LineKept line s (s.mscEvict d k) := by
  unfold State.mscEvict
  split
  · exact .refl ..
  · next l hl =>
    obtain ⟨j, hj⟩ := mem_of_get? hl
    refine LineKept.trans ((LineKept.refl line s).updDie rfl fun _ hc e he => hc e (mem_del he)) (lineKept_mscOut _ d (h _ hj))

/-- A line that no entry of the memory-side cache holds. -/
theorem absent_of_find? {msc : SMap MscLine} {line : Nat} (h : msc.find? (fun e => e.2.line == line) = none) :
    ∀ e ∈ msc, e.2.line ≠ line := by
  simpa using h

/-- A fill through the memory-side cache keeps its line. -/
theorem lineKept_mscReq (s : State) (pa mask : Nat) (a : Acc) : LineKept (pa / 256) s (s.mscReq pa mask 0 a) := by
  unfold State.mscReq
  extract_lets dN d vd line set wr read e pol direct
  have hread (s : State) (m : Nat) : LineKept line s (read s m) := by
    show LineKept line s (if m == 0 then s else s.portSend 1 pa m a.ctx)
    split
    · exact .refl ..
    · exact lineKept_portReq ..
  split
  · next k l hf =>
    refine LineKept.updDie (hread s _) rfl fun hc hc' x hx hxl => ?_
    obtain hx | hx := mem_put hx
    · have h0 : l.p = 0 := hc (k, l) (List.mem_of_find?_eq_some hf) (by simpa using List.find?_some hf)
      rw [hx]
      show maskSub l.p wr = 0
      rw [h0]
      simp [maskSub]
    · exact hc' x hx hxl
  · next hf =>
    have hdirect : LineKept line s (direct s) := hread s mask
    split
    · exact hdirect
    · split
      · exact hdirect.trans (lineKept_stall ..)
      · next k hk =>
        have habs := absent_of_find? hf
        dsimp only
        refine LineKept.trans ?_ (hread _ _)
        refine LineKept.updDie (f := fun _ => _) (lineKept_mscEvict s dN k habs) rfl fun _ hc' x hx hxl => ?_
        obtain hx | hx := mem_put hx
        · rw [hx]
        · exact hc' x hx hxl

-- A read of the own die's memory through L2.

/-- With room in L2 a read of its line keeps the line, and the poison that L2 holds of it. -/
theorem l2Use_keeps {s : State} {line need : Nat} {a : Acc} (hroom : ∀ d, d = (stackOf s.mod (line * 256)).1 / 2 →
      (s.die d).l2.length + (s.die d).guest.length + (s.die d).far.length < 24576)
    (hclean : MscClean s line ((stackOf s.mod (line * 256)).1 / 2)) :
    (s.l2Use line need 0 false a).mem = s.mem ∧ (s.l2Use line need 0 false a).keyOf = s.keyOf ∧
      (s.l2Use line need 0 false a).mod = s.mod ∧
      ∀ u, u / 8 = line → (s.l2Use line need 0 false a).unitP u = s.unitP u := by
  unfold State.l2Use
  extract_lets dN old miss s1 s2 bad
  have h1 : s1 = s := by
    show (if old.isSome then s else s.l2Room dN line) = s
    split
    · rfl
    · unfold State.l2Room
      exact if_pos (hroom dN rfl)
  have hk : LineKept line s s2 := by
    show LineKept line s (if miss == 0 then s1 else s1.mscReq (line * 256) miss 0 a)
    rw [h1]
    split
    · exact .refl ..
    · have h := lineKept_mscReq s (line * 256) miss a
      rwa [Nat.mul_div_cancel _ (by decide)] at h
  have hbad : bad = 0 := by
    show ((s2.die dN).msc.find? (fun e => e.2.line == line)).elim 0 (fun e => e.2.p &&& miss) = 0
    cases hf : (s2.die dN).msc.find? (fun e => e.2.line == line) with
    | none => rfl
    | some e =>
      have h0 := hk.msc dN hclean e (List.mem_of_find?_eq_some hf) (by simpa using List.find?_some hf)
      show e.2.p &&& miss = 0
      rw [h0, Nat.zero_and]
  refine ⟨hk.mem, hk.keyOf, hk.mod, fun u hu => ?_⟩
  have hl2 (d : Nat) : (SMap.get? ((s2.updDie dN (fun d => { d with l2 := SMap.put d.l2 line (match old with
      | some l => { l with val := l.val ||| need ||| 0, wr := l.wr ||| 0, p := l.p ||| bad }
      | none => ⟨a.ctx, a.cls, a.chain, need ||| 0, 0, bad⟩) })).die d).l2 line).elim 0 (fun l => l.p) =
      (SMap.get? (s.die d).l2 line).elim 0 (fun l => l.p) := by
    rw [Records.die_updDie]
    split
    · next hd =>
      dsimp only
      rw [SMap.get?_put_same, hbad, hd]
      show _ = old.elim 0 (fun l => l.p)
      cases old with
      | none => rfl
      | some l => exact Nat.or_zero _
    · rw [hk.l2 d]
  have hmod (f : Die → Die) : (s2.updDie dN f).mod = s.mod := hk.mod
  have hpoison (f : Die → Die) : (s2.updDie dN f).poison = s2.poison := rfl
  unfold State.unitP
  rw [hpoison, hk.poison u hu, hmod, hu]
  cases s.mod.place (32 * u) with
  | die d =>
    exact congrArg (fun p : Nat => (SMap.getD s.poison false u || p.testBit (u % 8))) (hl2 d)
  | cxl => rfl
  | hole => rfl

theorem stackOf_place {m : Module} {pa d : Nat} (h : m.place pa = .die d) : (stackOf m (pa / 256 * 256)).1 / 2 = d := by
  unfold Module.place at h
  unfold stackOf
  split at h
  · next he =>
    split at h
    · cases h
      rw [if_pos he]
      dsimp only
      omega
    · cases h
  · next he =>
    split at h
    · cases h
      rw [if_neg he]
      dsimp only
      omega
    · split at h <;> cases h

theorem testBit_maskOf8 (us : List Nat) (i : Nat) : (maskOf8 us).testBit i = us.contains i := by
  have h (us : List Nat) (m : Nat) : (us.foldl (fun m u => m ||| 2 ^ u) m).testBit i = (m.testBit i || us.contains i) := by
    induction us generalizing m with
    | nil => simp
    | cons u us ih =>
      rw [List.foldl_cons, ih, Nat.testBit_or, Nat.testBit_two_pow, List.contains_cons, Bool.or_assoc]
      congr 2
      exact decide_eq_decide.mpr eq_comm
  exact (h us 0).trans (by rw [Nat.zero_testBit, Bool.false_or])

theorem unitsOf_unit (u : Nat) : unitsOf (u * 32) 32 = [u] := by
  unfold unitsOf
  rw [if_neg (by decide), show (u * 32 + 32 - 1) / 32 - u * 32 / 32 + 1 = 1 by omega]
  simp [List.range_succ]

/-- The poison of one unit of a line. -/
theorem poisonMask_unit (s : State) (u : Nat) : (s.poisonMask (u * 32) 32 != 0) = s.unitP u := by
  have hm : (s.homePoison (u * 32 / 256)).testBit (u % 8) = s.unitP u := by
    unfold State.homePoison
    rw [testBit_maskOf8, show u * 32 / 256 * 8 = u / 8 * 8 by omega]
    have hu : u / 8 * 8 + u % 8 = u := by omega
    cases hp : s.unitP u with
    | true => exact List.contains_iff_mem.mpr (List.mem_filter.mpr ⟨List.mem_range.mpr (by omega), by rw [hu, hp]⟩)
    | false =>
      refine Bool.eq_false_iff.mpr fun hc => ?_
      have h := (List.mem_filter.mp (List.contains_iff_mem.mp hc)).2
      rw [hu, hp] at h
      cases h
  unfold State.poisonMask
  dsimp only
  rw [unitsOf_unit, Nat.mul_div_cancel _ (by decide), List.filter_cons, hm]
  cases s.unitP u with
  | false => rfl
  | true =>
    rw [if_pos rfl, List.filter_nil, List.map_singleton, Nat.sub_self]
    rfl

/-- A unit of the own die's memory, read whole through L2 with room there. -/
theorem l2Read_unit {s : State} {a : Acc} {sys : Bool} {u key : Nat} (hp : s.mod.place (u * 32) = .die a.die)
    (hroom : (s.die a.die).l2.length + (s.die a.die).guest.length + (s.die a.die).far.length < 24576)
    (hclean : MscClean s (u / 8) a.die) (hkey : SMap.getD s.keyOf 0 u = key) :
    (s.l2Read a sys (u * 32) 32 key).2 = (Memory.getBytes s.mem (u * 32) 32, s.unitP u) := by
  have hdie := stackOf_place hp
  have hline : u * 32 / 256 = u / 8 := by omega
  rw [hline] at hdie
  obtain ⟨hmem, hkeys, -, hunit⟩ := l2Use_keeps (line := u / 8) (need := lineMask (u * 32) 32) (a := a)
    (fun d hd => by rw [hd, hdie]; exact hroom) (hdie.symm ▸ hclean)
  unfold State.l2Read State.l2Get
  rw [hp]
  dsimp only
  rw [if_pos (by simp), hline]
  generalize s.l2Use (u / 8) (lineMask (u * 32) 32) 0 false a = t at hmem hkeys hunit
  have hread : t.homeRead (u * 32) 32 key = (t, Memory.getBytes s.mem (u * 32) 32, t.unitP u) := by
    unfold State.homeRead
    dsimp only
    rw [unitsOf_unit, hkeys, List.any_cons, hkey, if_neg (by simp), hmem]
    simp
  rw [hread]
  dsimp only
  rw [poisonMask_unit, hunit u rfl]

theorem length_wordsOfBytes (bs : List Byte) (n : Nat) (h : bs.length = 4 * n) : (wordsOfBytes bs).length = n := by
  induction n generalizing bs with
  | zero => rw [List.length_eq_zero_iff.mp h]; rfl
  | succ n ih =>
    match bs, h with
    | b0 :: b1 :: b2 :: b3 :: bs, h =>
      have h' : bs.length = 4 * n := by simpa [Nat.mul_succ] using h
      show (wordsOfBytes bs).length + 1 = n + 1
      rw [ih bs h']

/-- What a mix of two blocks holds. -/
theorem mixWords_spec (n : Nat) {old new : List Word} (h : new.length = old.length) :
    (mixWords n old new).length = old.length ∧
      ∀ j : Nat, (mixWords n old new)[j]? = old[j]? ∨ (mixWords n old new)[j]? = new[j]? := by
  unfold mixWords
  refine ⟨by simp [h], fun j => ?_⟩
  by_cases hj : j < old.length
  · have hj' : j < new.length := h ▸ hj
    have hz : (old.zip new)[j]? = some (old[j], new[j]) :=
      List.getElem?_zip_eq_some.mpr ⟨List.getElem?_eq_getElem hj, List.getElem?_eq_getElem hj'⟩
    rw [List.getElem?_map, List.getElem?_zipIdx, hz, List.getElem?_eq_getElem hj, List.getElem?_eq_getElem hj']
    simp only [Option.map_some, Option.some.injEq]
    split
    · exact .inr rfl
    · exact .inl rfl
  · left
    rw [List.getElem?_eq_none (by simp; omega), List.getElem?_eq_none (by omega)]

/-- A fetch that passes its check gives the words of its block. -/
theorem fetch_of_block {s : State} {g : Group} {gid : Nat} {pc : DWord} {seg : Seg} {es : List TlbE} {ws : List Word}
    (hpc : pc.toNat % 4 = 0)
    (hchk : s.chkPiece g.core g.ctx gid ⟨needX, false, false, 4⟩ g.code (pc &&& 0xFFFFFFFFFFFFFFE0) 32 = .ok [seg] es)
    (h : ((es.foldl (fun s e => s.tlbFill g.core e) s).codeBlock (s.accOf g 0) seg.pa seg.key seg.ms).2 = (ws, false)) :
    (s.fetch g gid pc).2 = .ok (ws.drop (pc.toNat % 32 / 4)) := by
  unfold State.fetch
  rw [if_neg (by simp [hpc])]
  dsimp only
  rw [hchk]
  dsimp only [List.headD]
  refine (congrArg Prod.snd (if_neg ?_)).trans ?_
  · rw [h]
    exact Bool.false_ne_true
  · rw [h]

/-- A state but for its TLBs. -/
def beyondTlbs (s : State) : State := { s with cores := [], clusters := [] }

theorem tlbFills_beyondTlbs (s : State) (core : Nat) (es : List TlbE) :
    beyondTlbs (es.foldl (fun s e => s.tlbFill core e) s) = beyondTlbs s ∧
      ∀ c, ((es.foldl (fun s e => s.tlbFill core e) s).core c).ic = (s.core c).ic := by
  induction es generalizing s with
  | nil => exact ⟨rfl, fun _ => rfl⟩
  | cons e es ih =>
    obtain ⟨hb, hic⟩ := ih (s.tlbFill core e)
    refine ⟨hb, fun c => (hic c).trans ?_⟩
    have hcl (x : State) (j : Nat) (f : Cluster → Cluster) : (x.updCluster j f).core c = x.core c := rfl
    unfold State.tlbFill
    dsimp only
    rw [hcl, Records.core_updCore]
    split
    · next h => rw [h]
    · rfl

/-- Settles O6: `l2Read_unit` for a block not held; a held one is `mixWords`. -/
theorem fetchReadsBlock : Obligations.FetchReadsBlock := by
  intro s g gid pc seg es hpc hms hchk now d
  obtain ⟨hb, hic⟩ := tlbFills_beyondTlbs s g.core es
  have hfetch (ws : List Word) := fetch_of_block (ws := ws) hpc hchk
  have hnow : now.length = 8 := length_wordsOfBytes _ 8 (by simp [Memory.getBytes])
  rw [hms] at hfetch
  generalize es.foldl (fun s e => s.tlbFill g.core e) s = t at hb hic hfetch
  have hmem : t.mem = s.mem := (congrArg State.mem hb :)
  have hkeys : t.keyOf = s.keyOf := (congrArg State.keyOf hb :)
  have hmod : t.mod = s.mod := (congrArg State.mod hb :)
  have hdie (j : Nat) : t.die j = s.die j := congrArg (fun m => SMap.getD m _ j) (congrArg State.dies hb :)
  have hunit (u : Nat) : t.unitP u = s.unitP u := (congrArg (fun x : State => x.unitP u) hb :)
  refine ⟨fun hno hp hroom hkey hpois hclean => hfetch now ?_, fun held hheld hlen => ?_⟩
  · have hread := l2Read_unit (s := t) (a := s.accOf g 0) (sys := false) (u := seg.pa / 32) (key := seg.key)
      (by rw [hmod]; exact hp) (by rw [hdie]; exact hroom)
      (fun e he hl => hclean e ((hdie _ ▸ he :)) (by omega)) (by rw [hkeys]; exact hkey)
    unfold State.codeBlock
    rw [if_neg Bool.false_ne_true, show (t.core (s.accOf g 0).core).ic = (s.core g.core).ic from hic g.core, hno]
    dsimp only
    rw [hread, hmem, hunit, hpois]
  · have hblock : ∃ n, (t.codeBlock (s.accOf g 0) seg.pa seg.key false).2 = (held, false) ∨
        (t.codeBlock (s.accOf g 0) seg.pa seg.key false).2 = (mixWords n held now, false) := by
      refine ⟨t.draws, ?_⟩
      unfold State.codeBlock
      rw [if_neg Bool.false_ne_true, show (t.core (s.accOf g 0).core).ic = (s.core g.core).ic from hic g.core, hheld]
      dsimp only
      rw [hmem]
      split
      · exact .inl rfl
      · exact .inr rfl
    obtain ⟨n, h | h⟩ := hblock
    · exact ⟨held, hlen, fun _ => .inl rfl, hfetch held h⟩
    · obtain ⟨hl, hj⟩ := mixWords_spec n (hnow.trans hlen.symm)
      exact ⟨mixWords n held now, hl.trans hlen, hj, hfetch _ h⟩

end Sys2Proof.Proofs.Fetch
end

section
/-! PROOFS. Loads, stores, spills and fills of the team store. -/

namespace Sys2Proof.Proofs.TeamStore
open Sys2Proof Sys2Proof.Machine Sys2Proof.Proofs.Access Sys2Proof.Proofs.Easel

-- Bytes written one after the other.

/-- What stands at an address after writes `ws`, the last of which counts. -/
def written (ws : List (Nat × Byte)) (old : Nat → Byte) (a : Nat) : Byte :=
  match ws.reverse.find? (fun e => e.1 == a) with
  | some e => e.2
  | none => old a

theorem written_nil (old : Nat → Byte) (a : Nat) : written [] old a = old a := rfl

theorem written_append (ws vs : List (Nat × Byte)) (old : Nat → Byte) (a : Nat) :
    written (ws ++ vs) old a = written vs (written ws old) a := by
  unfold written
  rw [List.reverse_append, List.find?_append]
  cases vs.reverse.find? (fun e => e.1 == a) <;> rfl

theorem written_singleton (e : Nat × Byte) (old : Nat → Byte) (a : Nat) :
    written [e] old a = if e.1 = a then e.2 else old a := by
  unfold written
  rw [List.reverse_singleton, List.find?_singleton]
  by_cases h : e.1 = a
  · rw [if_pos (by simpa using h), if_pos h]
  · rw [if_neg (by simpa using h), if_neg h]

theorem written_cons (e : Nat × Byte) (ws : List (Nat × Byte)) (old : Nat → Byte) (a : Nat) :
    written (e :: ws) old a = written ws (fun b => if e.1 = b then e.2 else old b) a := by
  rw [← List.singleton_append, written_append]
  exact congrArg (fun f => written ws f a) (funext fun b => written_singleton e old b)

theorem addrBytes_length (pa : Nat) (bs : List Byte) : (addrBytes pa bs).length = bs.length := by
  unfold addrBytes
  rw [List.length_map, List.length_zipIdx]

/-- Bytes with their addresses, as a list of addresses beside them. -/
theorem addrBytes_eq_zip (pa : Nat) (bs : List Byte) :
    addrBytes pa bs = ((List.range bs.length).map (fun j => pa + j)).zip bs := by
  refine List.ext_getElem (by simp [addrBytes_length]) fun j h1 h2 => ?_
  simp [addrBytes]

theorem length_leBytes (n v : Nat) : (leBytes n v).length = n := by
  induction n generalizing v with
  | zero => rfl
  | succ n ih => exact congrArg (· + 1) (ih _)

-- Writes of the team store.

/-- The bytes of a core's team store, `ws` written in turn, and nothing else of the machine but which words are poisoned. -/
structure Wrote (core : Nat) (ws : List (Nat × Byte)) (s t : State) : Prop where
  frame : { t with cores := s.cores } = s
  byte : ∀ a, (t.core core).tsByte a = written ws (s.core core).tsByte a

theorem Wrote.refl (core : Nat) (s : State) : Wrote core [] s s := ⟨rfl, fun _ => rfl⟩

theorem Wrote.trans {core : Nat} {ws vs : List (Nat × Byte)} {s t u : State} (h : Wrote core ws s t) (h' : Wrote core vs t u) :
    Wrote core (ws ++ vs) s u := by
  refine ⟨?_, fun a => ?_⟩
  · have q := congrArg (fun x : State => { x with cores := s.cores }) h'.frame
    exact Eq.trans q h.frame
  · rw [h'.byte, written_append]
    exact congrArg (fun f => written vs f a) (funext h.byte)

theorem foldl_wrote {α : Type} {core : Nat} {f : State → α → State} {ws : α → List (Nat × Byte)} {P : α → Prop}
    (hf : ∀ s x, P x → Wrote core (ws x) s (f s x)) (xs : List α) (hx : ∀ x ∈ xs, P x) (s : State) :
    Wrote core (xs.flatMap ws) s (xs.foldl f s) := by
  induction xs generalizing s with
  | nil => exact .refl core s
  | cons x xs ih =>
    exact (hf s x (hx x List.mem_cons_self)).trans (ih (fun y hy => hx y (List.mem_cons_of_mem x hy)) (f s x))

theorem tsByte_put (c : Core) (m : SMap Byte) (n : Nat) (b : Byte) (a : Nat) :
    ({ c with ts := SMap.put m n b } : Core).tsByte a = if n = a then b else ({ c with ts := m } : Core).tsByte a := by
  unfold Core.tsByte
  by_cases h : a = n
  · rw [h, if_pos rfl, SMap.get?_put_same]
  · rw [if_neg (Ne.symm h), SMap.get?_put_other _ _ _ _ h]

theorem tsByte_puts (c : Core) (ws : List (Nat × Byte)) (m : SMap Byte) (a : Nat) :
    ({ c with ts := ws.foldl (fun m e => SMap.put m e.1 e.2) m } : Core).tsByte a =
      written ws ({ c with ts := m } : Core).tsByte a := by
  induction ws generalizing m with
  | nil => rfl
  | cons e ws ih =>
    rw [List.foldl_cons, ih, written_cons]
    exact congrArg (fun f => written ws f a) (funext fun b => tsByte_put c m e.1 e.2 b)

/-- A stretch of the team store written. -/
theorem tsWrite_wrote (s : State) (core a : Nat) (bs : List Byte) (p : Bool) :
    Wrote core (addrBytes a bs) s (s.tsWrite core a bs p) := by
  refine ⟨rfl, fun x => ?_⟩
  unfold State.tsWrite
  rw [Records.core_updCore, if_pos rfl]
  have h := tsByte_puts (s.core core) (addrBytes a bs) (s.core core).ts x
  unfold addrBytes at h
  rw [List.foldl_map] at h
  exact h

/-- A stretch of the team store. -/
def tsSeg (pa n : Nat) : Seg := ⟨true, pa, false, 0, n⟩

theorem writeSegs_wrote (s : State) (a : Acc) (sc : Scope) (pol : Pol) (pa n : Nat) (bs : List Byte) (h : bs.length = n) :
    Wrote a.core (addrBytes pa bs) s (s.writeSegs a sc pol [tsSeg pa n] bs) := by
  have hw : s.writeSegs a sc pol [tsSeg pa n] bs = s.tsWrite a.core pa (bs.take n) false := rfl
  rw [hw, ← h, List.take_length]
  exact tsWrite_wrote ..

theorem readSegs_ts (s : State) (a : Acc) (sc : Scope) (pol : Pol) (pa n : Nat) :
    s.readSegs a sc pol [tsSeg pa n] = (s, (List.range n).map (fun i => (s.core a.core).tsByte (pa + i)),
      (wordsOf pa n).any (fun w => SMap.getD (s.core a.core).tsP false w)) := by
  have h : s.readSegs a sc pol [tsSeg pa n] =
      (s, [] ++ (s.tsRead a.core pa n).1, false || (s.tsRead a.core pa n).2) := rfl
  rw [h, List.nil_append, Bool.false_or]
  rfl

-- Checks through aperture code 7 (R46).

theorem chk_ts {s : State} {g : Group} {gid : Nat} {sp : AccessSpec} {off : DWord} {n : Nat} (hms : sp.msNeed = false)
    (h32 : off.toNat < 2 ^ 32) (ha : off.toNat % sp.align = 0) (hn : off.toNat + n ≤ (s.scratch g.team).1) :
    s.chk g gid sp 7 off n = .ok [tsSeg ((s.scratch g.team).2 + off.toNat) n] [] := by
  unfold State.chk
  rw [if_pos (show ((7 : BitVec 3) == 7) = true from rfl), Nat.mod_eq_of_lt h32]
  dsimp only
  rw [if_neg (by simp [ha]), if_neg (Nat.not_lt.mpr hn), hms]
  rfl

theorem memOff_ts_lt (c : GCtx) (o : Opnd) (l : Nat) : (c.memOff o 7 l).toNat < 2 ^ 32 := by
  unfold GCtx.memOff
  rw [if_pos (show ((7 : BitVec 3) == 7) = true from rfl), BitVec.toNat_setWidth, Nat.mod_eq_of_lt (Nat.lt_of_lt_of_le (BitVec.isLt _) (by decide))]
  exact BitVec.isLt _

section Lanes

variable {s : State} {gid : Nat} {g : Group} {sp : AccessSpec} {n : Nat} {ls : List Nat} {off : Nat → DWord} {pa : Nat → Nat}

theorem passes_ts (h : ∀ l ∈ ls, s.chk g gid sp 7 (off l) n = .ok [tsSeg (pa l) n] []) : passes s gid g sp 7 n ls off :=
  fun l hl => ⟨_, _, h l hl⟩

theorem laneSegs_ts (h : ∀ l ∈ ls, s.chk g gid sp 7 (off l) n = .ok [tsSeg (pa l) n] []) :
    laneSegs s gid g sp 7 n ls off = ls.map (fun l => (l, [tsSeg (pa l) n])) :=
  List.map_congr_left fun l hl => by rw [h l hl]; rfl

theorem withTlbs_ts (h : ∀ l ∈ ls, s.chk g gid sp 7 (off l) n = .ok [tsSeg (pa l) n] []) :
    withTlbs s gid g sp 7 n ls off = s := by
  unfold withTlbs
  rw [List.flatMap_eq_nil_iff.mpr fun l hl => by rw [h l hl]; rfl]
  rfl

theorem unheld_ts (h : ∀ l ∈ ls, s.chk g gid sp 7 (off l) n = .ok [tsSeg (pa l) n] []) : unheld s gid g sp 7 n ls off := by
  unfold unheld State.hostLines
  refine List.flatMap_eq_nil_iff.mpr fun q hq => ?_
  obtain ⟨l, hl, hq⟩ := List.mem_flatMap.mp hq
  rw [h l hl] at hq
  rw [List.mem_singleton.mp hq]
  rfl

theorem reaches_ts {direct : Bool} (h : ∀ l ∈ ls, s.chk g gid sp 7 (off l) n = .ok [tsSeg (pa l) n] []) :
    reaches s gid g sp 7 n ls off direct := by
  unfold reaches State.reachAll
  refine List.all_eq_true.mpr fun q hq => ?_
  obtain ⟨l, hl, hq⟩ := List.mem_flatMap.mp hq
  rw [h l hl] at hq
  rw [List.mem_singleton.mp hq]
  rfl

end Lanes

/-- An access without an order mark. -/
theorem ordered_rlx (sc : Scope) (cls gid : Nat) (c : GCtx) (s : State) (k : State → State) :
    ordered .rlx sc cls gid c s k = .done (k s) := rfl

/-- Loads of the lanes from the team store. -/
theorem readLanes_ts (s : State) (a : Acc) (sc : Scope) (pol : Pol) (n : Nat) (pa : Nat → Nat) (ls : List Nat) :
    s.readLanes a sc pol (ls.map (fun l => (l, [tsSeg (pa l) n]))) =
      (s, ls.map (fun l => (l, leNat ((List.range n).map (fun i => (s.core a.core).tsByte (pa l + i))),
        (wordsOf (pa l) n).any (fun w => SMap.getD (s.core a.core).tsP false w)))) := by
  unfold State.readLanes
  have h (out : List (Nat × Nat × Bool)) : (ls.map (fun l => (l, [tsSeg (pa l) n]))).foldl (fun x l =>
      let r := x.1.readSegs a sc pol l.2
      (r.1, x.2 ++ [(l.1, leNat r.2.1, r.2.2)])) (s, out) =
      (s, out ++ ls.map (fun l => (l, leNat ((List.range n).map (fun i => (s.core a.core).tsByte (pa l + i))),
        (wordsOf (pa l) n).any (fun w => SMap.getD (s.core a.core).tsP false w)))) := by
    induction ls generalizing out with
    | nil => rw [List.map_nil, List.map_nil, List.append_nil]; rfl
    | cons l ls ih =>
      rw [List.map_cons, List.foldl_cons]
      dsimp only
      rw [readSegs_ts, ih, List.append_assoc]
      rfl
  exact h []

/-- What completes an instruction leaves of the cores. -/
theorem completed_cores (s s' : State) (gid : Nat) (g : Group) (k : Com) : (completed s gid g k s').cores = s'.cores :=
  (congrArg State.cores (completed_beyondIssue s s' gid g k) :)

theorem completed_mem (s s' : State) (gid : Nat) (g : Group) (k : Com) : (completed s gid g k s').mem = s'.mem :=
  (congrArg State.mem (completed_beyondIssue s s' gid g k) :)

theorem completed_core (s s' : State) (gid : Nat) (g : Group) (k : Com) (j : Nat) :
    (completed s gid g k s').core j = s'.core j := congrArg (fun m => SMap.getD m Core.init j) (completed_cores s s' gid g k)

/-- Settles O29: through aperture code 7 each lane's access is one stretch of the team store. -/
theorem teamStoreLoadsAndStores : Obligations.TeamStoreLoadsAndStores := by
  intro x w s gid g c at' hord hap hpol h hc hoff
  have hms : (x.pol == .ms) = false := by simpa using hpol
  have hteam : c.g.team = g.team := make_team g x.k
  have hcore : c.g.core = g.core := make_core g x.k
  have hchk (sp : AccessSpec) (hsp : sp.msNeed = false) (hal : sp.align = w.bytes) :
      ∀ l ∈ c.ls, s.chk c.g gid sp 7 (c.memOff x.a 7 l) w.bytes = .ok [tsSeg (at' l) w.bytes] [] := fun l hl => by
    obtain ⟨h1, h2⟩ := hoff l hl
    have q := chk_ts (s := s) (g := c.g) (gid := gid) (sp := sp) (off := c.memOff x.a 7 l) (n := w.bytes) hsp
      (memOff_ts_lt ..) (by rw [hal]; exact h1) (by rw [hteam]; exact h2)
    rw [q, hteam]
  refine ⟨fun hcs => ?_, ?_⟩
  · intro ws
    have hchk' := hchk (specW x.pol w.bytes) hms rfl
    let wr (s : State) : State := s.writeLanes (s.accOf c.g 0) (perfScope .rlx (c.scopeOf 7 x.scope)) x.pol
      (c.ls.map (fun l => (l, [tsSeg (at' l) w.bytes]))) (fun l => leBytes w.bytes (c.data x.d l w.regs))
    have hwrote : Wrote g.core ws s (wr s) := by
      have q := foldl_wrote (core := c.g.core) (P := fun _ => True) (fun t l _ => writeSegs_wrote t (s.accOf c.g 0)
        (perfScope .rlx (c.scopeOf 7 x.scope)) x.pol (at' l) w.bytes _ (length_leBytes w.bytes (c.data x.d l w.regs)))
        c.ls (fun _ _ => trivial) s
      simp only [addrBytes_eq_zip, length_leBytes] at q
      rw [hcore] at q
      show Wrote g.core ws s (List.foldl _ s (List.map _ c.ls))
      rw [List.foldl_map]
      exact q
    have hexec : exec (.st x w) s = .next (completed s gid g x.k (wr s)) := by
      refine exec_of_done (f := actSt x w) rfl h ?_
      unfold actSt
      rw [hap, hord]
      rw [show c.consume [(x.a, baseRegs 7), (x.d, w.regs)] c.ls = none from hcs]
      dsimp only
      rw [memGo_passes (kind := 2) (passes_ts hchk') (fun _ => unheld_ts hchk') (reaches_ts hchk'), laneSegs_ts hchk',
        withTlbs_ts (fun l hl => hchk' l (bySlot_subset c c.ls hl))]
      rfl
    refine ⟨_, hexec, ?_, fun a => ?_⟩
    · exact (completed_mem ..).trans (congrArg State.mem hwrote.frame :)
    · rw [completed_core]
      exact hwrote.byte a
  · have hchk' := hchk (specR x.pol w.bytes) hms rfl
    let o : Out := Out.of (c.ls.flatMap (fun l =>
      c.wr x.d l (loadImgs w (leNat ((List.range w.bytes).map (fun j => (s.core g.core).tsByte (at' l + j))))
        ((wordsOf (at' l) w.bytes).any (fun u => SMap.getD (s.core g.core).tsP false u)))))
    have hexec : exec (.ld x w) s = .next (completed s gid g x.k (s.commit gid o)) := by
      refine exec_of_done (f := actLd x w) rfl h ?_
      unfold actLd
      rw [hap, hord]
      rw [show c.consume [(x.a, baseRegs 7)] c.ls = none from hc]
      dsimp only
      rw [memGo_passes (kind := 1) (passes_ts hchk') (fun _ => unheld_ts hchk') (reaches_ts hchk'), laneSegs_ts hchk',
        withTlbs_ts (fun l hl => hchk' l (bySlot_subset c c.ls hl)), ordered_rlx, readLanes_ts]
      dsimp only
      rw [List.flatMap_map, show (s.accOf c.g 0).core = g.core from hcore]
    obtain ⟨g', hg', hfinal⟩ := completed_commit (s := s) (s1 := s) (k := x.k) o h.run h.grp rfl
    have hb := commit_beyondIssue s gid o
    refine ⟨_, g', hexec, ?_, hg', fun j => ?_, hfinal⟩
    · exact (completed_mem ..).trans (congrArg State.mem hb :)
    · rw [completed_core]
      exact congrArg (fun m => SMap.getD m Core.init j) (congrArg State.cores hb :)

end Sys2Proof.Proofs.TeamStore
end

section
/-! PROOFS. Spills and fills. -/

namespace Sys2Proof.Proofs.TeamStore
open Sys2Proof Sys2Proof.Machine Sys2Proof.Proofs.Access Sys2Proof.Proofs.Easel

-- Records in the team store.

theorem subSegs_ts {pa len o n : Nat} (hn : 0 < n) (h : o + n ≤ len) : subSegs [tsSeg pa len] o n = [tsSeg (pa + o) n] := by
  unfold subSegs
  rw [if_neg (by simpa using Nat.ne_of_gt hn), if_neg (by show ¬ len ≤ o; omega)]
  show ({ tsSeg pa len with pa := pa + o, len := min n (len - o) } : Seg) :: [] = _
  rw [Nat.min_eq_left (by omega)]
  rfl

/-- What a spill stores of one lane, in the order of `laneBytes`. -/
def imageParts (i : Image) : List (List Byte) := [leBytes 4 i.d.toNat, [i.g], [BitVec.ofNat 8 i.p.toNat]]

theorem spillLane_wrote (s : State) (a : Acc) (pol : Pol) (i : Image) {pa l : Nat} (hl : l < 32) :
    Wrote a.core (addrBytes (pa + 4 * l) (leBytes 4 i.d.toNat) ++
      [(pa + 0x80 + l, i.g), (pa + 0xA0 + l, BitVec.ofNat 8 i.p.toNat)]) s
      (((laneBytes l).zip (imageParts i)).foldl
        (fun s x => s.writeSegs a .grp pol (subSegs [tsSeg pa 192] x.1.1 x.1.2) x.2) s) := by
  have h0 : subSegs [tsSeg pa 192] (4 * l) 4 = [tsSeg (pa + 4 * l) 4] := subSegs_ts (by decide) (by omega)
  have h1 : subSegs [tsSeg pa 192] (0x80 + l) 1 = [tsSeg (pa + 0x80 + l) 1] := by
    rw [subSegs_ts (by decide) (by omega), Nat.add_assoc]
  have h2 : subSegs [tsSeg pa 192] (0xA0 + l) 1 = [tsSeg (pa + 0xA0 + l) 1] := by
    rw [subSegs_ts (by decide) (by omega), Nat.add_assoc]
  unfold laneBytes imageParts
  simp only [List.zip_cons_cons, List.zip_nil_right, List.foldl_cons, List.foldl_nil, h0, h1, h2]
  exact (writeSegs_wrote s a .grp pol _ 4 _ (length_leBytes 4 _)).trans
    ((writeSegs_wrote _ a .grp pol _ 1 [i.g] rfl).trans (writeSegs_wrote _ a .grp pol _ 1 [BitVec.ofNat 8 i.p.toNat] rfl))

theorem lt_of_mem_maskLanes {m : Word} {l : Nat} (h : l ∈ maskLanes m) : l < 32 := by
  unfold maskLanes at h
  exact List.mem_range.mp (List.mem_filter.mp h).1

/-- The lanes whose images a spill or fill moves: under U=1 those of the path, under one number. -/
def moved (c : GCtx) : List Nat := if c.k.u then [0] else maskLanes c.act

/-- Bytes of a record. -/
def recSize (c : GCtx) : Nat := if c.k.u then 8 else 192

/-- What a spill writes of register `j`. -/
def spilled (c : GCtx) (r : Opnd) (base j : Nat) : List (Nat × Byte) :=
  (moved c).flatMap (fun l => recBytes c.k.u base j l (c.img r (if c.k.u then c.low else l) j))

theorem spillReg_wrote (c : GCtx) (s : State) (a : Acc) (pol : Pol) (r : Opnd) (j base : Nat) :
    Wrote a.core (spilled c r base j) s (spillReg c s a pol r j [tsSeg (base + recSize c * j) (recSize c)]) := by
  unfold spillReg spilled moved recSize recBytes
  cases hu : c.k.u with
  | true =>
    simp only [if_true, List.flatMap_cons, List.flatMap_nil, List.append_nil]
    exact writeSegs_wrote s a .grp pol _ 8 _ (by simp [length_leBytes])
  | false =>
    simp only [Bool.false_eq_true, if_false]
    exact foldl_wrote (P := fun l => l < 32) (fun s l hl => spillLane_wrote s a pol (c.img r l j) hl) (maskLanes c.act)
      (fun l hl => lt_of_mem_maskLanes hl) s

/-- A lane's part of a record, read: bytes, and whether a word is poisoned. -/
theorem readLane_ts (s : State) (a : Acc) (pol : Pol) {pa l : Nat} (hl : l < 32) :
    let rd := (laneBytes l).foldl (fun (y : State × List Byte × Bool) p =>
      let z := y.1.readSegs a .grp pol (subSegs [tsSeg pa 192] p.1 p.2)
      (z.1, y.2.1 ++ z.2.1, y.2.2 || z.2.2)) (s, [], false)
    rd.1 = s ∧ (⟨(rd.2.1.getD 5 0).getLsbD 0 || rd.2.2, rd.2.1.getD 4 0, BitVec.ofNat 32 (leNat (rd.2.1.take 4))⟩ : Image) =
      (s.core a.core).recImage ((laneBytes l).map (fun p => (pa + p.1, p.2))) := by
  have h0 : subSegs [tsSeg pa 192] (4 * l) 4 = [tsSeg (pa + 4 * l) 4] := subSegs_ts (by decide) (by omega)
  have h1 : subSegs [tsSeg pa 192] (0x80 + l) 1 = [tsSeg (pa + (0x80 + l)) 1] := subSegs_ts (by decide) (by omega)
  have h2 : subSegs [tsSeg pa 192] (0xA0 + l) 1 = [tsSeg (pa + (0xA0 + l)) 1] := subSegs_ts (by decide) (by omega)
  unfold laneBytes Core.recImage
  simp only [List.foldl_cons, List.foldl_nil, h0, h1, h2, readSegs_ts, List.map_cons, List.map_nil, List.flatMap_cons,
    List.flatMap_nil, List.any_cons, List.any_nil, List.nil_append, List.append_nil, List.append_assoc, Bool.false_or,
    Bool.or_false, Bool.or_assoc, and_self]

/-- A fold that only appends to the second of a pair. -/
theorem foldl_append_of {α β γ : Type} {f : β × List γ → α → β × List γ} {g : α → List γ} {b : β} {P : α → Prop}
    (hf : ∀ x out, P x → f (b, out) x = (b, out ++ g x)) (xs : List α) (hx : ∀ x ∈ xs, P x) (out : List γ) :
    xs.foldl f (b, out) = (b, out ++ xs.flatMap g) := by
  induction xs generalizing out with
  | nil => rw [List.flatMap_nil, List.append_nil]; rfl
  | cons x xs ih =>
    rw [List.foldl_cons, hf x out (hx x List.mem_cons_self), ih (fun y hy => hx y (List.mem_cons_of_mem x hy)),
      List.flatMap_cons, List.append_assoc]

/-- What a fill writes of register `j`. -/
def filled (c : GCtx) (r : Opnd) (co : Core) (base j : Nat) : List RegW :=
  (moved c).flatMap (fun l => fillWrite r l j (co.recImage (recAt c.k.u base j l)))

theorem fillReg_eq (c : GCtx) (s : State) (gid : Nat) (a : Acc) (pol : Pol) (r : Opnd) (j base : Nat) :
    fillReg c s gid a pol r j [tsSeg (base + recSize c * j) (recSize c)] =
      s.commit gid (Out.of (filled c r (s.core a.core) base j)) := by
  unfold fillReg filled moved recSize recAt
  cases hu : c.k.u with
  | true =>
    simp only [if_true, List.flatMap_cons, List.flatMap_nil, List.append_nil, readSegs_ts]
    unfold Core.recImage
    simp only [List.flatMap_cons, List.flatMap_nil, List.append_nil, List.any_cons, List.any_nil, Bool.or_false]
    rfl
  | false =>
    simp only [Bool.false_eq_true, if_false]
    rw [foldl_append_of (b := s) (P := fun l => l < 32) (g := fun l => fillWrite r l j ((s.core a.core).recImage
      ((laneBytes l).map (fun p => (base + 192 * j + p.1, p.2))))) (fun l out hl => ?_) (maskLanes c.act)
      (fun l hl => lt_of_mem_maskLanes hl) []]
    · rfl
    · obtain ⟨hs, himg⟩ := readLane_ts s a pol (pa := base + 192 * j) hl
      rw [← himg]
      exact Prod.ext hs rfl

-- The registers in turn.

/-- A register's record lies in the team store. -/
theorem chk_record {s : State} {c : GCtx} {gid : Nat} {need : Machine.Need} {x : SpArgs} {k : Nat} (hpol : x.pol ≠ .ms)
    (ha : (c.memOff x.a 7 c.low).toNat % (if c.k.u then 8 else 64) = 0)
    (hn : (c.memOff x.a 7 c.low).toNat + recSize c * (k + 1) ≤ (s.scratch c.g.team).1)
    (h32 : (s.scratch c.g.team).1 ≤ 2 ^ 32) :
    s.chk c.g gid ⟨need, x.pol == .ms, false, if c.k.u then 8 else 64⟩ 7
        ((c.memOff x.a 7 c.low + BitVec.ofNat 64 (recSize c * k)) &&& 0xFFFFFFFF) (recSize c) =
      .ok [tsSeg ((s.scratch c.g.team).2 + (c.memOff x.a 7 c.low).toNat + recSize c * k) (recSize c)] [] := by
  have hpos : 0 < recSize c := by unfold recSize; split <;> decide
  have hmul : recSize c * (k + 1) = recSize c * k + recSize c := Nat.mul_succ ..
  have hlt : (c.memOff x.a 7 c.low).toNat + recSize c * k < 2 ^ 32 := by omega
  have hoff : ((c.memOff x.a 7 c.low + BitVec.ofNat 64 (recSize c * k)) &&& 0xFFFFFFFF).toNat =
      (c.memOff x.a 7 c.low).toNat + recSize c * k := by
    have hmask (v : DWord) (hv : v.toNat < 2 ^ 32) : (v &&& 0xFFFFFFFF).toNat = v.toNat := by
      rw [BitVec.toNat_and]
      exact (Nat.and_two_pow_sub_one_eq_mod v.toNat 32).trans (Nat.mod_eq_of_lt hv)
    have hsum : (c.memOff x.a 7 c.low + BitVec.ofNat 64 (recSize c * k)).toNat =
        (c.memOff x.a 7 c.low).toNat + recSize c * k := by
      rw [BitVec.toNat_add, BitVec.toNat_ofNat]
      omega
    rw [hmask _ (by rw [hsum]; exact hlt), hsum]
  have hal : ((c.memOff x.a 7 c.low).toNat + recSize c * k) % (if c.k.u then 8 else 64) = 0 := by
    unfold recSize
    cases hu : c.k.u <;> rw [hu] at ha <;> simp only [Bool.false_eq_true, if_true, if_false] at ha ⊢ <;> omega
  rw [chk_ts (by simpa using hpol) (by rw [hoff]; exact hlt) (by rw [hoff]; exact hal) (by rw [hoff]; omega), hoff,
    Nat.add_assoc]

/-- One register of a `spill` or `fill` through the team store. -/
theorem spillLoop_record {x : SpArgs} {isFill : Bool} {gid : Nat} {c : GCtx} {s0 s : State} {f k : Nat} (hap : x.ap = 7)
    (hpol : x.pol ≠ .ms) (hlim : s.lim = none) (hk : k ≤ x.n1.toNat)
    (ha : (c.memOff x.a 7 c.low).toNat % (if c.k.u then 8 else 64) = 0)
    (hn : (c.memOff x.a 7 c.low).toNat + recSize c * (x.n1.toNat + 1) ≤ (s.scratch c.g.team).1)
    (h32 : (s.scratch c.g.team).1 ≤ 2 ^ 32) :
    let gs := [tsSeg ((s.scratch c.g.team).2 + (c.memOff x.a 7 c.low).toNat + recSize c * k) (recSize c)]
    spillLoop x isFill gid c s0 (f + 1) k s = spillLoop x isFill gid c s0 f (k + 1)
      (if isFill then fillReg c s gid (s.accOf c.g 3) x.pol x.r k gs else spillReg c s (s.accOf c.g 3) x.pol x.r k gs) := by
  have hle : recSize c * (k + 1) ≤ recSize c * (x.n1.toNat + 1) := Nat.mul_le_mul_left _ (by omega)
  have hstep : (s.stepsTo c.g c.g.prog.toNat (x.n1.toNat + 1) == k) = false := by
    unfold State.stepsTo
    rw [hlim]
    simp only [beq_eq_false_iff_ne]
    omega
  have hheld (pa n : Nat) : s.hostLines [tsSeg pa n] = [] := rfl
  have hreach (pa n : Nat) : s.reachAll c.g.core false [tsSeg pa n] = true := rfl
  rw [spillLoop, if_neg (Nat.not_lt.mpr hk), hstep, if_neg Bool.false_ne_true]
  dsimp only
  rw [hap, if_pos (show ((7 : BitVec 3) == 7) = true from rfl)]
  rw [show (if c.k.u then 8 else 192) = recSize c from rfl, chk_record hpol ha (Nat.le_trans (Nat.add_le_add_left hle _) hn) h32]
  dsimp only
  rw [hheld, hreach]
  cases isFill <;> rfl

theorem spillLoop_end {x : SpArgs} {isFill : Bool} {gid : Nat} {c : GCtx} {s0 s : State} {f k : Nat} (hk : x.n1.toNat < k) :
    spillLoop x isFill gid c s0 f k s = .done s := by
  cases f with
  | zero => rfl
  | succ f => rw [spillLoop, if_pos hk]

/-- Registers of a spill or fill from `k` on. -/
theorem registers_from {n k : Nat} (h : k ≤ n) : (List.range (n + 1)).drop k = k :: (List.range (n + 1)).drop (k + 1) :=
  drop_range_cons (Nat.lt_succ_of_le h)

section Loop

variable {x : SpArgs} {gid : Nat} {c : GCtx} {s0 : State} {base : Nat}

/-- A spill through the team store writes its records. -/
theorem spillLoop_spills {f k : Nat} {s : State} (hap : x.ap = 7) (hpol : x.pol ≠ .ms) (hlim : s.lim = none)
    (ha : (c.memOff x.a 7 c.low).toNat % (if c.k.u then 8 else 64) = 0)
    (hn : (c.memOff x.a 7 c.low).toNat + recSize c * (x.n1.toNat + 1) ≤ (s.scratch c.g.team).1)
    (h32 : (s.scratch c.g.team).1 ≤ 2 ^ 32) (hbase : (s.scratch c.g.team).2 + (c.memOff x.a 7 c.low).toNat = base)
    (hf : x.n1.toNat + 1 ≤ f + k) :
    ∃ s', spillLoop x false gid c s0 f k s = .done s' ∧
      Wrote c.g.core (((List.range (x.n1.toNat + 1)).drop k).flatMap (spilled c x.r base)) s s' := by
  induction f generalizing k s with
  | zero =>
    rw [List.drop_eq_nil_of_le (by simp; omega)]
    exact ⟨s, rfl, .refl ..⟩
  | succ f ih =>
    by_cases hk : x.n1.toNat < k
    · rw [List.drop_eq_nil_of_le (by simp; omega)]
      exact ⟨s, spillLoop_end hk, .refl ..⟩
    · have hk' := Nat.not_lt.mp hk
      have hw := spillReg_wrote c s (s.accOf c.g 3) x.pol x.r k base
      rw [spillLoop_record hap hpol hlim hk' ha hn h32, registers_from hk', List.flatMap_cons, hbase]
      rw [if_neg Bool.false_ne_true]
      generalize spillReg c s (s.accOf c.g 3) x.pol x.r k _ = s1 at hw
      have hteams : s1.scratch c.g.team = s.scratch c.g.team := (congrArg (fun t : State => t.scratch c.g.team) hw.frame :)
      obtain ⟨s', hs', hw'⟩ := ih (k := k + 1) (s := s1) ((congrArg State.lim hw.frame :).trans hlim) (by rw [hteams]; exact hn)
        (by rw [hteams]; exact h32) (by rw [hteams]; exact hbase) (by omega)
      exact ⟨s', hs', hw.trans hw'⟩

/-- A fill through the team store delivers the images of its records. -/
theorem spillLoop_fills {f k : Nat} {s : State} {g : Group} (hap : x.ap = 7) (hpol : x.pol ≠ .ms) (hlim : s.lim = none)
    (ha : (c.memOff x.a 7 c.low).toNat % (if c.k.u then 8 else 64) = 0)
    (hn : (c.memOff x.a 7 c.low).toNat + recSize c * (x.n1.toNat + 1) ≤ (s.scratch c.g.team).1)
    (h32 : (s.scratch c.g.team).1 ≤ 2 ^ 32) (hbase : (s.scratch c.g.team).2 + (c.memOff x.a 7 c.low).toNat = base)
    (hf : x.n1.toNat + 1 ≤ f + k) (hg : SMap.get? s.groups gid = some g) :
    ∃ s' g', spillLoop x true gid c s0 f k s = .done s' ∧ beyondIssue s' = beyondIssue s ∧
      SMap.get? s'.groups gid = some g' ∧ g'.lanes.length = g.lanes.length ∧
      g'.final = (((List.range (x.n1.toNat + 1)).drop k).flatMap (filled c x.r (s.core c.g.core) base)).foldl RegW.onRegs
        g.final := by
  induction f generalizing k s g with
  | zero =>
    rw [List.drop_eq_nil_of_le (by simp; omega)]
    exact ⟨s, g, rfl, rfl, hg, rfl, rfl⟩
  | succ f ih =>
    by_cases hk : x.n1.toNat < k
    · rw [List.drop_eq_nil_of_le (by simp; omega)]
      exact ⟨s, g, spillLoop_end hk, rfl, hg, rfl, rfl⟩
    · have hk' := Nat.not_lt.mp hk
      have hfill := fillReg_eq c s gid (s.accOf c.g 3) x.pol x.r k base
      have hb := commit_beyondIssue s gid (Out.of (filled c x.r (s.core c.g.core) base k))
      obtain ⟨-, -, g1, hg1, hfinal, hpc, -⟩ := State.commit_spec s gid g (Out.of (filled c x.r (s.core c.g.core) base k)) hg
      have hlen : g1.lanes.length = g.lanes.length := by
        have q := congrArg List.length hpc
        rwa [List.length_map, List.length_map] at q
      rw [spillLoop_record hap hpol hlim hk' ha hn h32, registers_from hk', List.flatMap_cons, hbase, if_pos rfl, hfill]
      rw [show (s.accOf c.g 3).core = c.g.core from rfl]
      generalize s.commit gid (Out.of (filled c x.r (s.core c.g.core) base k)) = s1 at hb hg1
      have hteams : s1.scratch c.g.team = s.scratch c.g.team := (congrArg (fun t : State => t.scratch c.g.team) hb :)
      have hco : s1.core c.g.core = s.core c.g.core := (congrArg (fun t : State => t.core c.g.core) hb :)
      obtain ⟨s', g', hs', hb', hg', hlen', hfinal'⟩ := ih (k := k + 1) (s := s1) ((congrArg State.lim hb :).trans hlim)
        (by rw [hteams]; exact hn) (by rw [hteams]; exact h32) (by rw [hteams]; exact hbase) (by omega) hg1
      refine ⟨s', g', hs', hb'.trans hb, hg', hlen'.trans hlen, hfinal'.trans ?_⟩
      rw [hfinal, hco, List.foldl_append]
      rfl

end Loop

/-- Settles O32: `spillLoop` from `%prog` on, register by register through the team store. -/
theorem spillsAndFills : Obligations.SpillsAndFills := by
  intro x s gid g c rs base size js ls h
  have hteam : c.g.team = g.team := make_team g x.k
  have hcore : c.g.core = g.core := make_core g x.k
  have hprog : c.g.prog = g.prog := make_prog g x.k
  refine ⟨fun hu ha => ?_, fun hu hc => ?_⟩
  · have hskip (isFill : Bool) : actSpill x isFill gid c s = .done s := by
      unfold actSpill
      exact if_pos (by rw [show c.k.u = false from hu, ha]; rfl)
    exact ⟨exec_of_done (i := .spill x) rfl h (hskip false), exec_of_done (i := .fill x) rfl h (hskip true)⟩
  · have hact (isFill : Bool) : actSpill x isFill gid c s = spillLoop x isFill gid c s 193 g.prog.toNat s := by
      unfold actSpill
      rw [if_neg, hc, hprog]
      rintro hn
      rw [Bool.and_eq_true] at hn
      obtain ⟨hu', ha⟩ := hn
      obtain hu | hu := hu
      · rw [show c.k.u = true from hu] at hu'
        cases hu'
      · exact hu (by simpa using ha)
    refine ⟨fun s' hs' => exec_of_done (i := .spill x) rfl h ((hact false).trans hs'),
      fun s' hs' => exec_of_done (i := .fill x) rfl h ((hact true).trans hs'), fun hap hpol hn1 ha hn h32 => ?_⟩
    rw [← hteam] at hn h32
    have hbase : (s.scratch c.g.team).2 + (c.memOff x.a 7 c.low).toNat = base := by rw [hteam]
    constructor
    · intro ws
      obtain ⟨s', hs', hw⟩ := spillLoop_spills (gid := gid) (s0 := s) (f := 193) (k := g.prog.toNat) hap hpol h.lim ha hn h32
        hbase (by omega)
      obtain ⟨g', hg', hfinal, -⟩ := RegisterForms.completionAdvances s s' gid g g x.k
        ((congrArg (fun t : State => SMap.get? t.groups gid) hw.frame :).trans h.grp) rfl h.run
      refine ⟨_, g', exec_of_done (i := .spill x) rfl h ((hact false).trans hs'), ?_, hg', hfinal, fun a => ?_⟩
      · exact (completed_mem ..).trans (congrArg State.mem hw.frame :)
      · rw [completed_core]
        rw [hcore] at hw
        exact hw.byte a
    · obtain ⟨s', g1, hs', hb, hg1, hlen, hfinal⟩ := spillLoop_fills (s0 := s) (f := 193) (k := g.prog.toNat) hap hpol h.lim
        ha hn h32 hbase (by omega) h.grp
      obtain ⟨g', hg', hfinal', -⟩ := RegisterForms.completionAdvances s s' gid g g1 x.k hg1 hlen h.run
      rw [hcore] at hfinal
      refine ⟨_, g', exec_of_done (i := .fill x) rfl h ((hact true).trans hs'), ?_, ?_, hg', hfinal'.trans hfinal⟩
      · exact (completed_mem ..).trans (congrArg State.mem hb :)
      · exact (completed_cores ..).trans (congrArg State.cores hb :)

end Sys2Proof.Proofs.TeamStore
end

section
/-! PROOFS. Tokens and event records. -/

namespace Sys2Proof.Proofs.Tokens
open Sys2Proof Sys2Proof.Machine Sys2Proof.Proofs.Access Sys2Proof.Proofs.Easel

/-- An instruction whose effect is one action, which waits. -/
theorem exec_of_wait {i : Instr} {k : Com} {rs : List (Opnd × Nat)} {f : Nat → GCtx → State → Act} {s s' : State} {gid : Nat}
    {g : Group} {w : Wait} (hi : exec i s = issue i k rs f s) (h : Issues s gid g k rs)
    (hf : f gid (GCtx.make g k) s = .wait s' w) : exec i s = .next (waited s' gid g k w) := by
  rw [hi, issue_runs i k rs f s gid g h, hf]
  rfl

-- Waits.

theorem ready_of_none {g : Group} {ks : List Nat} (h : ∀ j ∈ ks, (g.tok j).st ≠ .pending) : g.ready ks = ks :=
  List.filter_eq_self.mpr fun j hj => by simpa using h j hj

theorem ready_lt {g : Group} {ks : List Nat} (h : ∃ j ∈ ks, (g.tok j).st = .pending) : (g.ready ks).length < ks.length := by
  obtain ⟨j, hj, hp⟩ := h
  refine List.length_filter_lt_length_iff_exists.mpr ⟨j, hj, ?_⟩
  simp [hp]

/-- A wait whose tokens may be taken. -/
theorem actTkw_done {any clr : Bool} {d a : Opnd} {gid : Nat} {c : GCtx} {s : State}
    (hc : c.consume [(a, 1)] [c.low] = none) :
    let ks := namedToks (c.data a c.low 1)
    let r := c.g.ready ks
    let found := (r.map c.g.tok).filter (fun t => t.st == .complete)
    let freed := if clr then (s.tokTake c.g found).updGroup gid (fun g1 => g1.freeToks r) else s.tokTake c.g found
    (ks = [] ∨ r.length = ks.length ∨ (any = true ∧ r ≠ [])) → (s.tokTake c.g found).tokTook c.g found = true →
    actTkw any clr d a gid c s =
      .done (if any then freed.commit gid (Out.of (c.wr d c.low (plainImgs 1 false (maskNum r)))) else freed) := by
  intro ks r found freed hready htook
  have hcond : (ks.isEmpty || r.length == ks.length || any && !r.isEmpty) = true := by
    obtain h | h | ⟨ha, hr⟩ := hready
    · rw [h]; rfl
    · simp [h]
    · simp [ha, hr]
  unfold actTkw
  rw [hc]
  dsimp only
  rw [if_pos hcond, htook]
  rfl

theorem actTkw_wait {clr : Bool} {d a : Opnd} {gid : Nat} {c : GCtx} {s : State} (hc : c.consume [(a, 1)] [c.low] = none)
    (h : ∃ j ∈ namedToks (c.data a c.low 1), (c.g.tok j).st = .pending) : actTkw false clr d a gid c s = .wait s .tkw := by
  have hlt := ready_lt h
  obtain ⟨j, hj, -⟩ := h
  unfold actTkw
  rw [hc]
  dsimp only
  rw [if_neg]
  simp only [Bool.false_and, Bool.or_false, Bool.or_eq_true, List.isEmpty_iff, beq_iff_eq, not_or]
  exact ⟨List.ne_nil_of_mem hj, Nat.ne_of_lt hlt⟩

/-- A test of a token whose operation's accesses may be taken in. -/
theorem tokTest_done {tk : Tok} {act : Bool} {gid : Nat} {c : GCtx} {s : State} {o : Out} :
    let ks := if act && tk.st == .complete then [tk] else []
    (s.tokTake c.g ks).tokTook c.g ks = true → tokTest tk act gid c s o = .done ((s.tokTake c.g ks).commit gid o) := by
  intro ks h
  exact if_pos h

-- Event records.

/-- A release whose accesses are performed. -/
theorem releaseThen_ready {sc : Scope} {eng : Bool} {w : Wait} {gid : Nat} {c : GCtx} {s : State} {k : State → Act}
    (h : s.released gid c.g sc eng = true) (hs : (s.fence c.g sc ordSet 0).fenceSent c.g sc ordSet = true) :
    releaseThen sc eng w gid c s k = k (s.fence c.g sc ordSet 0) := by
  unfold releaseThen
  rw [h]
  exact if_pos hs

theorem cluster_of_front {a b : State} (h : Front.front a = Front.front b) (j : Nat) : a.cluster j = b.cluster j :=
  congrArg (fun m => SMap.getD m (Cluster.init (j % 32)) j) (Front.clusters_of_front h)

theorem get?_mapV {α β : Type} (f : α → β) (m : SMap α) (n : Nat) : SMap.get? (SMap.mapV f m) n = (SMap.get? m n).map f := by
  induction m with
  | nil => rfl
  | cons e m ih =>
    show (if n == e.1 then some (f e.2) else if n < e.1 then none else SMap.get? (SMap.mapV f m) n) =
      (if n == e.1 then some e.2 else if n < e.1 then none else SMap.get? m n).map f
    rw [ih]
    split
    · rfl
    · split <;> rfl

/-- A grid after the loupe of a cluster has taken a record. -/
def loupe (cl : Nat) (r : EvRec) (g : Grid) : Grid :=
  if g.counts cl r then ({ g with heldSeen := g.heldSeen + 1 } : Grid).unhold else g

/-- Settles O48: each form by its action; a record is posted at the end of the queue and taken at its front. -/
theorem tokensAndEvents : Obligations.TokensAndEvents := by
  refine ⟨fun k s gid g => ?_, fun cl s r rest h => ?_⟩
  · intro c found seen freed
    refine ⟨fun a clr hc => ?_, fun pD t h => ?_, fun d t h => ?_, fun eng a h hc hr hs hq => ?_⟩
    · intro ks
      refine ⟨fun h hn ht => ?_, fun h hp => ?_, fun d h hr ht => ?_⟩
      · exact exec_of_done (i := .tkwAll k clr a) rfl h
          (actTkw_done (any := false) hc (.inr (.inl (congrArg List.length (ready_of_none hn)))) ht)
      · exact exec_of_wait (i := .tkwAll k clr a) rfl h (actTkw_wait hc hp)
      · refine exec_of_done (i := .tkwAny k clr d a) rfl h (actTkw_done (any := true) hc (hr.imp id fun hj => .inr ⟨rfl, ?_⟩) ht)
        obtain ⟨j, hj, hp⟩ := hj
        exact List.ne_nil_of_mem (List.mem_filter.mpr ⟨hj, by simpa using hp⟩)
    · intro tk ks out ht
      exact ⟨exec_of_done (i := .tkt k pD t) rfl h (tokTest_done ht), exec_of_done (i := .tktErr k pD t) rfl h (tokTest_done ht)⟩
    · intro tk ks ht
      exact exec_of_done (i := .tktSt k d t) rfl h (tokTest_done (act := true) ht)
    · have hcore : c.g.core = g.core := make_core g k
      have hf := Front.State.fence_front s c.g .mod ordSet 0
      have hcl := cluster_of_front hf (c.g.core / 4)
      have hclk : (s.fence c.g .mod ordSet 0).clk = s.clk := (congrArg State.clk hf :)
      obtain ⟨r, hact, htag, hvd, hval⟩ : ∃ r : EvRec,
          actEvq eng a gid c s = .done ((s.fence c.g .mod ordSet 0).evPost (g.core / 4) r) ∧
            r.tag = k.imm.toNat % 65536 ∧ r.vd = g.ctx / 256 ∧ r.value = BitVec.ofNat 32 (c.data a c.low 1) := by
        have hctx : c.g.ctx = g.ctx := (congrArg Group.ctx (make_beyondHeld g k) :)
        unfold actEvq
        rw [hc]
        dsimp only
        rw [if_neg (by rw [hcore]; exact Nat.not_le.mpr hq), releaseThen_ready hr hs, hcore, hctx]
        exact ⟨_, rfl, rfl, rfl, rfl⟩
      refine ⟨_, { r with stamp := s.clk }, exec_of_done (i := .evq k eng a) rfl h hact, ?_, htag, hvd, hval, rfl⟩
      unfold State.evPost
      rw [hcore] at hcl
      rw [Records.cluster_updCluster, if_pos rfl, hcl, hclk]
  · have hev : evEventRecordTake cl s = { s.updCluster cl (fun c => { c with evq := rest }) with
        grids := SMap.mapV (loupe cl r) s.grids } := by
      unfold evEventRecordTake
      rw [h]
      rfl
    refine ⟨_, congrArg Host.Outcome.next hev, ?_, rfl, rfl, fun j gr hgr => ?_⟩
    · exact congrArg Cluster.evq ((Records.cluster_updCluster s cl cl (fun c => { c with evq := rest })).trans (if_pos rfl))
    · exact (get?_mapV (loupe cl r) s.grids j).trans (congrArg (Option.map (loupe cl r)) hgr)

end Sys2Proof.Proofs.Tokens
end

section
/-! PROOFS. Barriers, `gate` and `rels`. -/

namespace Sys2Proof.Proofs.Barriers
open Sys2Proof Sys2Proof.Machine Sys2Proof.Proofs.Access Sys2Proof.Proofs.Easel Sys2Proof.Proofs.Tokens

/-- An instruction whose effect is one action, which traps. -/
theorem exec_of_trap {i : Instr} {k : Com} {rs : List (Opnd × Nat)} {f : Nat → GCtx → State → Act} {s s' : State} {gid : Nat}
    {g : Group} {t : Trap} (hi : exec i s = issue i k rs f s) (h : Issues s gid g k rs)
    (hf : f gid (GCtx.make g k) s = .trap s' t) : exec i s = .next (takeTrap s' gid t) := by
  rw [hi, issue_runs i k rs f s gid g h, hf]
  rfl

-- `bar`.

theorem barAt_beyondHeld {s : State} {g h : Group} (hb : Paths.beyondHeld h = Paths.beyondHeld g) (lvl : BLvl) (n : Nat) :
    s.barAt h lvl n = s.barAt g lvl n := by
  have ht : h.team = g.team := (congrArg Group.team hb :)
  have hi : h.id = g.id := (congrArg Group.id hb :)
  unfold State.barAt
  rw [ht, hi]

section Bar

variable {x : BarArgs} {gid : Nat} {c : GCtx} {s : State} {b : BarAt}

/-- An arrival whose release is performed, with room for it on its way. -/
theorem barArrive_counts {k : State → Act} (hr : s.released gid c.g (barScope x.lvl) x.eng = true)
    (hs : (s.fence c.g (barScope x.lvl) ordSet 0).fenceSent c.g (barScope x.lvl) ordSet = true)
    (hroom : x.lvl = .team ∨ (s.fence c.g (barScope x.lvl) ordSet 0).inFlight gid c.g < 16) :
    Machine.barArrive x b gid c s k =
      k ((s.fence c.g (barScope x.lvl) ordSet 0).arrive gid c.g x.lvl x.n.toNat b.arr) := by
  unfold Machine.barArrive
  rw [releaseThen_ready hr hs, if_neg]
  rw [Bool.and_eq_true, decide_eq_true_eq]
  rintro ⟨hl, hfull⟩
  obtain hl' | hlt := hroom
  · rw [hl'] at hl
    cases hl
  · exact Nat.not_le.mpr hlt hfull

variable {g : Group} {sync : Bool} {lvl : BLvl} {n : Nat}

theorem barWait_passes (hg : SMap.get? s.groups gid = some g) (hb : s.barAt g lvl n = some b)
    (hp : exceeds b.gen (g.wCount lvl n b.wai) = true)
    (hc : (s.handOff c.g (barScope lvl)).handedOff c.g (barScope lvl) = true) :
    Machine.barWait sync lvl n gid c s =
      .done ((s.handOff c.g (barScope lvl)).updGroup gid (fun g1 => g1.bumpW lvl n b.wai)) := by
  unfold Machine.barWait
  rw [hg]
  dsimp only
  rw [hb]
  dsimp only
  rw [if_pos hp, if_pos hc]
  rfl

theorem barWait_stays (hg : SMap.get? s.groups gid = some g) (hb : s.barAt g lvl n = some b)
    (hp : exceeds b.gen (g.wCount lvl n b.wai) = false) :
    Machine.barWait sync lvl n gid c s =
      if lvl == .team && (s.updGroup gid (fun g1 => { g1 with wait := .bar lvl n b.wai sync })).deadlocked g.team then
        .trap (s.deadlock g.team gid) (barTrap 3)
      else .wait s (.bar lvl n b.wai sync) := by
  unfold Machine.barWait
  rw [hg]
  dsimp only
  rw [hb]
  dsimp only
  rw [if_neg (by rw [hp]; exact Bool.false_ne_true)]
  rfl

end Bar

-- What a release leaves.

theorem updGrid_groups (s : State) (i : Nat) (f : Grid → Grid) : (s.updGrid i f).groups = s.groups := rfl

theorem countRelease_groups (s : State) (tid : Nat) (closing : Bool) : (s.countRelease tid closing).groups = s.groups := by
  unfold State.countRelease
  split
  · dsimp only
    split <;> rfl
  · rfl

theorem sendRelease_groups (s : State) (gid : Nat) (g : Group) : (s.sendRelease gid g).groups = s.groups := by
  unfold State.sendRelease
  dsimp only
  have h := countRelease_groups s g.team false
  split
  · rfl
  · split
    · split
      · exact h
      · exact h
    · exact h

/-- The group of a completed instruction. -/
theorem completed_group {s s' : State} {gid : Nat} {g1 : Group} (g : Group) (k : Com)
    (h : SMap.get? s'.groups gid = some g1) (hlen : g1.lanes.length = g.lanes.length) :
    ∃ g', SMap.get? (completed s gid g k s').groups gid = some g' ∧ g'.final = g1.final ∧ g'.fixed = g1.fixed := by
  have hgr : (s'.issued s (GCtx.make g k).g).groups = s'.groups := State.issued_groups ..
  obtain ⟨hfin, -, -, -, -, -, hfix, -⟩ := Group.complete_spec g1 g.runMask (GCtx.make g k).g.inH k
    (GCtx.make g k).lowSlot (fun l hl => hlen ▸ Group.run_lt g l hl)
  refine ⟨_, ?_, hfin, hfix⟩
  unfold completed finish
  dsimp only
  rw [State.updGroup_groups, SMap.get?_upd_same, hgr, h]
  rfl

/-- Settles O50: `bar` by its operation, arrivals and forwards by `BarSide.arrive`, `gate` and `rels` by their branches. -/
theorem barriersAndGates : Obligations.BarriersAndGates := by
  refine ⟨fun x s gid g h => ?_, fun s gid g t b n ht hb => ?_, fun i n s gr f hg hf => ?_, fun k eng s gid g h => ?_⟩
  · intro c n sc
    have hbh : Paths.beyondHeld c.g = Paths.beyondHeld g := make_beyondHeld g x.k
    have hat : s.barAt c.g x.lvl x.n.toNat = s.barAt g x.lvl n := barAt_beyondHeld hbh ..
    have hcomp : c.g.compacted = g.compacted := (congrArg Group.compacted hbh :)
    have htraps {t : Trap} (ht : ∀ op, actBar op x gid c s = .trap s t) :
        ∀ i ∈ [Instr.barArrive x, .barWait x, .barSync x], exec i s = .next (takeTrap s gid t) := by
      intro i hi
      simp only [List.mem_cons, List.not_mem_nil, or_false] at hi
      obtain rfl | rfl | rfl := hi
      · exact exec_of_trap (i := .barArrive x) rfl h (ht 0)
      · exact exec_of_trap (i := .barWait x) rfl h (ht 1)
      · exact exec_of_trap (i := .barSync x) rfl h (ht 2)
    refine ⟨fun hno => htraps fun op => ?_, fun b hb => ⟨fun hcompd => htraps fun op => ?_, fun hplain => ?_⟩⟩
    · unfold actBar
      dsimp only
      rw [hat, hno]
    · unfold actBar
      dsimp only
      rw [hat, hb]
      exact if_pos (hcomp.trans hcompd)
    · intro sent arrived counted went came may passed w dead
      have hact (op : Nat) : actBar op x gid c s =
          if op == 0 then Machine.barArrive x b gid c s .done
          else if op == 1 || counted then Machine.barWait (op == 2) x.lvl n gid c s
          else Machine.barArrive x b gid c s
            (fun s => Machine.barWait true x.lvl n gid c (s.withG gid (fun g => g.setProg 1))) := by
        have hcounted : (c.g.prog != 0 || (c.g.inH && c.g.wait == .bar x.lvl n b.wai true)) = counted :=
          (congrArg (fun g : Group => g.prog != 0 || (g.inH && g.wait == .bar x.lvl n b.wai true)) hbh :)
        unfold actBar
        dsimp only
        rw [hat, hb]
        dsimp only
        rw [if_neg (by rw [hcomp, hplain]; exact Bool.false_ne_true), hcounted]
      refine ⟨fun hm => ?_, fun hp hcame => ?_, fun hp hd => ?_, fun hp hd => ?_, fun b1 g1 hcnt hm => ?_⟩
      · obtain ⟨hr, hs, hroom⟩ := hm
        exact exec_of_done (i := .barArrive x) rfl h ((hact 0).trans (barArrive_counts hr hs hroom))
      · have hpass (sync : Bool) := barWait_passes (sync := sync) (c := c) h.grp hb hp hcame
        refine ⟨exec_of_done (i := .barWait x) rfl h ((hact 1).trans (hpass _)), fun hcnt => ?_⟩
        refine exec_of_done (i := .barSync x) rfl h ((hact 2).trans ?_)
        rw [hcnt]
        exact hpass _
      · exact exec_of_wait (i := .barWait x) rfl h ((hact 1).trans ((barWait_stays h.grp hb hp).trans
          (if_neg (Bool.eq_false_iff.mp hd))))
      · exact exec_of_trap (i := .barWait x) rfl h ((hact 1).trans ((barWait_stays h.grp hb hp).trans (if_pos hd)))
      · obtain ⟨hr, hs, hroom⟩ := hm
        intro s1 hg1 hb1 hwai hp hcame
        refine exec_of_done (i := .barSync x) rfl h ((hact 2).trans ?_)
        rw [hcnt]
        show Machine.barArrive x b gid c s
          (fun s => Machine.barWait true x.lvl n gid c (s.withG gid (fun g => g.setProg 1))) = _
        refine (barArrive_counts hr hs hroom).trans ?_
        rw [← hwai] at hp
        refine (barWait_passes (s := s1) hg1 hb1 hp hcame).trans ?_
        rw [hwai]
  · refine ⟨{ t with bars := SMap.put t.bars n { b with full := b.full.arrive } }, { b with full := b.full.arrive }, ?_,
      SMap.get?_put_same .., rfl, ?_, fun hle => ?_, fun hlt => ?_⟩
    · unfold State.arrive
      rw [ht]
      show SMap.get? (SMap.upd s.teams g.team _) g.team = _
      rw [Records.upd_of_get? _ ht, SMap.get?_put_same]
      refine congrArg (fun m => some { t with bars := m }) ?_
      exact Records.upd_of_get? _ hb
    · unfold BarSide.arrive
      split <;> rfl
    · unfold BarSide.arrive
      rw [if_pos hle]
      exact ⟨rfl, rfl⟩
    · unfold BarSide.arrive
      rw [if_neg (Nat.not_le.mpr hlt)]
      exact ⟨rfl, rfl⟩
  · have hev : evBarrierArrivalForward i n s = s.updGrid i (fun g => { g.take f.2 with fwd := g.fwd.eraseIdx n }) := by
      unfold evBarrierArrivalForward
      rw [hg]
      dsimp only
      rw [hf]
    intro gr1 gr2
    refine congrArg Host.Outcome.next (hev.trans ?_)
    unfold State.updGrid
    rw [Records.upd_of_get? _ hg]
    refine congrArg (fun x => { s with grids := SMap.put s.grids i x }) ?_
    show _ = if f.2 = 4 then _ else _
    unfold Grid.take
    by_cases h4 : f.2 = 4
    · rw [if_pos h4, if_pos (by simpa using h4)]
    · rw [if_neg h4, if_neg (by simpa using h4)]
  · intro c
    have hteam : c.g.team = g.team := make_team g k
    refine ⟨fun hp hh => ?_, fun hp => ?_, ?_⟩
    · refine exec_of_done (i := .gate k) rfl h ?_
      unfold actGate
      rw [hp]
      exact if_pos hh
    · refine exec_of_wait (i := .gate k) rfl h ?_
      unfold actGate
      rw [hp]
      rfl
    · intro sent hr hs hroom
      let s' := (sent.withG gid (fun g => { g with released := true })).sendRelease gid c.g
      have hact : actRels eng gid c s = .done s' := by
        unfold actRels
        rw [releaseThen_ready hr hs]
        exact if_neg (Nat.not_le.mpr hroom)
      have hgroups : SMap.get? s'.groups gid = some { g with released := true } := by
        have hsent := Front.groups_of_front (Front.State.fence_front s c.g .mod ordSet 0)
        rw [sendRelease_groups]
        show SMap.get? (SMap.upd sent.groups gid _) gid = _
        rw [SMap.get?_upd_same, hsent, h.grp]
        rfl
      obtain ⟨g', hg', hfinal, hfixed⟩ := completed_group (s := s) g k hgroups rfl
      exact ⟨_, g', exec_of_done (i := .rels k eng) rfl h hact, hg', (congrArg Group.released hfixed :),
        hfinal.trans (Paths.final_congr rfl rfl)⟩

end Sys2Proof.Proofs.Barriers
end

section
/-! PROOFS. Range tasks. -/

namespace Sys2Proof.Proofs.RangeTasks
open Sys2Proof Sys2Proof.Machine Sys2Proof.Proofs.Access Sys2Proof.Proofs.Easel Sys2Proof.Proofs.Tokens
  Sys2Proof.Proofs.Barriers

/-- A charge changes the work units of a grid alone. -/
theorem charge_grid {s0 s1 : State} {team v i : Nat} {gr : Grid} (h : SMap.get? s1.grids i = some gr) :
    ∃ w, SMap.get? (s0.charge s1 team v).grids i = some { gr with wu := w } := by
  unfold State.charge
  dsimp only
  split
  · next t ht =>
    split
    · exact ⟨gr.wu, h⟩
    · by_cases hi : i = t.grid
      · subst hi
        refine ⟨gr.wu + (s1.wuOf v - s0.wuOf v), ?_⟩
        show SMap.get? (SMap.upd s1.grids t.grid _) t.grid = _
        rw [SMap.get?_upd_same, h]
        rfl
      · exact ⟨gr.wu, (SMap.get?_upd_other _ _ _ _ hi).trans h⟩
  · exact ⟨gr.wu, h⟩

/-- A completed instruction leaves each grid but for its work units. -/
theorem completed_grid {s s' : State} {gid : Nat} {g : Group} {k : Com} {i : Nat} {gr : Grid}
    (h : SMap.get? s'.grids i = some gr) :
    ∃ w, SMap.get? (completed s gid g k s').grids i = some { gr with wu := w } := by
  obtain ⟨w, hw⟩ := charge_grid (s0 := s) (s1 := s'.meter ((GCtx.make g k).g.core / 128) ((GCtx.make g k).g.ctx / 256)
    (fun m => { m with issue := satAdd m.issue 1 })) (team := (GCtx.make g k).g.team) (v := (GCtx.make g k).g.ctx / 256)
    h
  exact ⟨w, hw⟩

/-- Settles O51: `rtsk.spawn` by its checks, `rtsk.done` as the stop of its grid's dispatch. -/
theorem rangeTasks : Obligations.RangeTasks := by
  intro k s gid g c
  refine ⟨fun ap tok a gs es h htok hc hchk hr hreach => ?_, fun t gr h ht hgr => ?_⟩
  · have hpend : c.g.tokPending tok = false := (congrArg (fun g : Group => g.tokPending tok) (make_beyondHeld g k) :).trans htok
    refine ⟨fun hn => ?_, fun hn => ?_⟩
    · refine exec_of_wait (i := .rtskSpawn k ap tok a) rfl h ?_
      unfold actSpawn
      rw [hpend, if_neg Bool.false_ne_true, hc]
      dsimp only
      rw [hchk]
      dsimp only
      rw [hr, hreach]
      exact if_pos hn
    · intro s1 r s2 i hl
      refine exec_of_done (i := .rtskSpawn k ap tok a) (f := actSpawn ap tok a) rfl h ?_
      unfold actSpawn
      rw [hpend, if_neg Bool.false_ne_true, hc]
      dsimp only
      rw [hchk]
      dsimp only
      rw [hr, hreach, if_neg (by decide), if_neg (by decide), if_neg (Nat.not_le.mpr hn)]
      rw [show State.acceptLaunch _ _ _ _ _ _ _ _ _ _ _ _ = .ok s2 i from hl]
      rfl
  · let s' := (s.updGrid t.grid (fun g => { g with trunc := true })).stopDispatch t.grid
    have hact : actDone gid c s = .done s' := by
      unfold actDone
      rw [show c.g.team = g.team from make_team g k, ht]
    have hgrid : SMap.get? s'.grids t.grid = some { gr with
        trunc := true, parts := gr.parts.map (fun (p : Part) => { p with ranges := [], st := .running }) } := by
      show SMap.get? (SMap.upd (SMap.upd s.grids t.grid _) t.grid _) t.grid = _
      rw [SMap.get?_upd_same, SMap.get?_upd_same, hgr]
      rfl
    obtain ⟨w, hw⟩ := completed_grid (s := s) (gid := gid) (g := g) (k := k) hgrid
    obtain ⟨g', hg', hfinal, -⟩ := completed_group (s := s) (s' := s') g k h.grp rfl
    refine ⟨_, _, exec_of_done (i := .rtskDone k) rfl h hact, hw, rfl, fun p hp => ?_, TeamStore.completed_mem .., ?_⟩
    · obtain ⟨q, -, rfl⟩ := List.mem_map.mp hp
      rfl
    · rw [hg', Option.map_some, hfinal]

end Sys2Proof.Proofs.RangeTasks
end

section
/-! PROOFS. Memory-side reduces: packets sent and applied. -/

namespace Sys2Proof.Proofs.Reduces
open Sys2Proof Sys2Proof.Machine Sys2Proof.Proofs.Access Sys2Proof.Proofs.Easel Sys2Proof.Proofs.Tokens
  Sys2Proof.Proofs.Barriers

-- Packets not yet applied.

theorem mem_unapplied {ps : List MredPkt} {j : Nat} :
    j ∈ (ps.zipIdx.filter (fun p => !p.1.applied)).map (fun p => p.2) ↔ ∃ p, ps[j]? = some p ∧ p.applied = false := by
  simp only [List.mem_map, List.mem_filter, Prod.exists, List.mk_mem_zipIdx_iff_getElem?, Bool.not_eq_true']
  constructor
  · rintro ⟨p, i, ⟨hp, ha⟩, rfl⟩
    exact ⟨p, hp, ha⟩
  · rintro ⟨p, hp, ha⟩
    exact ⟨p, j, ⟨hp, ha⟩, rfl⟩

theorem getElem?_updAt {α : Type} (xs : List α) (n i : Nat) (f : α → α) :
    (updAt xs n f)[i]? = if i = n then xs[i]?.map f else xs[i]? := by
  induction xs generalizing n i with
  | nil => simp [updAt]
  | cons x xs ih =>
    cases n with
    | zero => cases i <;> simp [updAt]
    | succ n => cases i <;> simp [updAt, ih]

/-- Once its last packet is applied a reduce has none left. -/
theorem applied_left {o : AOp} {idx : Nat} (h : ∀ j ∈ o.left, j = idx) (hc : o.isCopy = false) : (o.applied idx).left = [] := by
  have hps (ps : List MredPkt) (h : ∀ j ∈ (ps.zipIdx.filter (fun p => !p.1.applied)).map (fun p => p.2), j = idx) :
      ((updAt ps idx (fun p => { p with applied := true })).zipIdx.filter (fun p => !p.1.applied)).map (fun p => p.2) = [] := by
    refine List.eq_nil_iff_forall_not_mem.mpr fun j hj => ?_
    obtain ⟨p, hp, ha⟩ := mem_unapplied.mp hj
    rw [getElem?_updAt] at hp
    split at hp
    · obtain ⟨q, -, rfl⟩ := Option.map_eq_some_iff.mp hp
      cases ha
    · next hne => exact hne (h j (mem_unapplied.mpr ⟨p, hp, ha⟩))
  obtain ⟨_, _, _, _, _, _, _, _, kind, _, _, _⟩ := o
  cases kind with
  | copy rs ev => cases hc
  | mredLine ty d ps => exact hps ps h
  | mredRet ty d ps => exact hps ps h

theorem applied_isCopy (o : AOp) (idx : Nat) : (o.applied idx).isCopy = o.isCopy ∧ (o.applied idx).ids = o.ids := by
  obtain ⟨_, _, _, _, _, _, _, _, kind, _, _, _⟩ := o
  cases kind <;> exact ⟨rfl, rfl⟩

-- An operation that is done.

theorem charge_beyondGrids (s0 s1 : State) (team v : Nat) : { s0.charge s1 team v with grids := [] } = { s1 with grids := [] } := by
  unfold State.charge
  dsimp only
  split
  · split <;> rfl
  · rfl

theorem opEnd_spec (s : State) (id : Nat) (o : AOp) (st : Byte) :
    (s.opEnd id o st).mem = s.mem ∧ (s.opEnd id o st).aops = SMap.del s.aops id := by
  unfold State.opEnd
  dsimp only
  split <;> exact ⟨rfl, rfl⟩

theorem opTry_mem (s : State) (id : Nat) (o : AOp) (force : Bool) : (s.opTry id o force).mem = s.mem := by
  unfold State.opTry
  dsimp only
  split
  all_goals
    split
    · rfl
    · exact (opEnd_spec ..).1

/-- A reduce whose packets all are applied stays behind an older one, and else leaves. -/
theorem opTry_mred {s : State} {id : Nat} {o : AOp} (hc : o.isCopy = false) :
    (s.olderOp id o = true → (s.opTry id o false).aops = SMap.put s.aops id o) ∧
      (s.olderOp id o = false → (s.opTry id o false).aops = SMap.del s.aops id) := by
  have hk : ∀ rs ev, o.kind ≠ .copy rs ev := fun rs ev h => by
    unfold AOp.isCopy at hc
    rw [h] at hc
    cases hc
  unfold State.opTry
  split
  · next rs r h => exact absurd h (hk rs _)
  · dsimp only
    rw [Bool.false_or, Bool.not_false, Bool.true_and]
    refine ⟨fun ho => by rw [if_pos ho], fun ho => ?_⟩
    rw [if_neg (Bool.eq_false_iff.mp ho)]
    exact (opEnd_spec ..).2

/-- A reduce that begins sends its packets as a new operation. -/
theorem mredSend_fresh {x : MredArgs} {ret whole : Bool} {gid : Nat} {c : GCtx} {s : State} {ps : List MredPkt}
    (h0 : c.g.prog = 0) (hne : ps ≠ []) : mredSend x ret whole gid c s ps =
      (s.newOp gid c.g x.tok (mredKind x ret (((mredDst x ret gid c s).segs.head?.map (fun g => g.pa)).getD 0) ps)
        (!whole)).withG gid (fun g => g.startTok x.tok .mred s.nid) := by
  have hps : ps.isEmpty = false := by simpa using hne
  unfold mredSend
  rw [h0]
  dsimp only
  rw [if_pos (by rfl)]
  dsimp only
  rw [hps]
  rfl

/-- Settles O33: a packet applied is `mredStep`; those sent are `mredPkts` from `%prog` on. -/
theorem reducesPostAndApply : Obligations.ReducesPostAndApply := by
  refine ⟨fun op idx s o ho => ⟨fun hr => ?_, fun hr => ?_⟩, fun x ret s gid g => ?_⟩
  · refine congrArg Host.Outcome.next ?_
    show evMredPacketApply op idx s = _
    unfold evMredPacketApply
    rw [ho]
    exact if_pos (by rw [hr]; rfl)
  · have hev : evMredPacketApply op idx s = (s.mredStep op idx false).sweepTeam o.team := by
      unfold evMredPacketApply
      rw [ho]
      exact if_neg (by rw [hr]; decide)
    obtain ⟨hcopy, hids⟩ := applied_isCopy o idx
    let r := if o.left.contains idx then s.doMred o idx else (s, false)
    let o' : AOp := { o.applied idx with err := o.err || r.2 }
    let s1 := s.charge r.1 o'.team (o'.ctx / 256)
    have hstep : s.mredStep op idx false =
        if o'.left.isEmpty then s1.opTry op o' false else { s1 with aops := SMap.put s1.aops op o' } := by
      unfold State.mredStep
      rw [ho]
    have hs1 : ({ s1 with grids := [] } : State) = { r.1 with grids := [] } := charge_beyondGrids s r.1 o'.team (o'.ctx / 256)
    have hmem : (s.mredStep op idx false).mem = r.1.mem := by
      have q : s1.mem = r.1.mem := (congrArg State.mem hs1 :)
      rw [hstep]
      split
      · exact (opTry_mem ..).trans q
      · exact q
    have haops : s1.aops = s.aops := by
      have q : r.1.aops = s.aops := by
        show (if o.left.contains idx then s.doMred o idx else (s, false)).1.aops = s.aops
        split
        · exact (congrArg State.aops (Front.State.doMred_front s o idx) :)
        · rfl
      exact (congrArg State.aops hs1 :).trans q
    refine ⟨_, s.mredStep op idx false, congrArg Host.Outcome.next hev, rfl, fun hm => ?_, fun hm => ?_, fun hc hall => ?_⟩
    · rw [hmem]
      exact congrArg (fun x : State × Bool => x.1.mem) (if_pos (List.contains_iff_mem.mpr hm))
    · rw [hmem]
      exact congrArg (fun x : State × Bool => x.1.mem) (if_neg (fun h => hm (List.contains_iff_mem.mp h)))
    · have hleft : o'.left = [] := applied_left (o := o) hall hc
      rw [hstep, hleft, if_pos List.isEmpty_nil]
      obtain ⟨hold, hnew⟩ := opTry_mred (s := s1) (id := op) (o := o') (hcopy.trans hc)
      have holder : s1.olderOp op o' = s.olderOp op o := by
        unfold State.olderOp
        rw [haops, show o'.ids = o.ids from hids, show o'.isCopy = o.isCopy from hcopy]
      rw [holder] at hold hnew
      refine ⟨fun ho' => ?_, fun ho' => (hnew ho').trans (congrArg (fun m => SMap.del m op) haops)⟩
      rw [hold ho', SMap.get?_put_same]
      refine congrArg (fun e => some { o.applied idx with err := e }) ?_
      refine congrArg (o.err || ·) ?_
      show (if o.left.contains idx then s.doMred o idx else (s, false)).2 = _
      cases o.left.contains idx <;> rfl
  · intro i c n ps h htok
    have hprog : c.g.prog = g.prog := make_prog g x.k
    have hpend : (c.g.prog.toNat == 0 && c.g.tokPending x.tok) = false := by
      rw [hprog]
      obtain hp | hp := htok
      · have h0 : g.prog.toNat ≠ 0 := fun h0 => hp (BitVec.eq_of_toNat_eq h0)
        rw [beq_false_of_ne h0, Bool.false_and]
      · rw [show c.g.tokPending x.tok = false from
          (congrArg (fun g : Group => g.tokPending x.tok) (make_beyondHeld g x.k) :).trans hp, Bool.and_false]
    have hi : exec i s = issue i x.k (mrrs x n) (actMred x ret) s := by
      show exec (if ret then .mredRet x else .mredLine x) s = _
      cases ret <;> rfl
    have hskip : c.act = 0 → actMred x ret gid c s = .done (s.updGroup gid (fun g => g.endTok x.tok .mred 0 stOk)) := by
      intro ha
      unfold actMred
      dsimp only
      rw [hpend, if_neg Bool.false_ne_true, ha]
      rfl
    have hgo : c.act ≠ 0 → actMred x ret gid c s =
        let t := (mredSend x ret ps.2.2.isNone gid c s ps.1).tlbFills c.g.core ps.2.1
        match ps.2.2 with
        | none => .done t
        | some (j, .tier o) => chkFail gid c (t.stopAt s gid j c.g) 1 (.tier o)
        | some (j, b) => chkFail gid c (t.withG gid (fun g => g.setProg j)) 1 b := by
      intro ha
      have hto : s.stepsTo c.g c.g.prog.toNat 4 = 4 := by
        unfold State.stepsTo
        rw [h.lim]
      unfold actMred
      dsimp only
      rw [hpend, if_neg Bool.false_ne_true, if_neg (by simpa using ha), hto, hprog]
      rfl
    refine ⟨fun ha => exec_of_done hi h (hskip ha), fun ha hps => ?_, fun ha j r t hps hcause => ?_⟩
    · have hact : actMred x ret gid c s = .done ((mredSend x ret true gid c s ps.1).tlbFills c.g.core ps.2.1) := by
        rw [hgo ha, hps]
        rfl
      refine ⟨exec_of_done hi h hact, fun h0 hne => ?_⟩
      have hsend := mredSend_fresh (x := x) (ret := ret) (whole := true) (gid := gid) (s := s) (hprog.trans h0) hne
      obtain ⟨hb, -⟩ := Fetch.tlbFills_beyondTlbs (mredSend x ret true gid c s ps.1) c.g.core ps.2.1
      change Fetch.beyondTlbs ((mredSend x ret true gid c s ps.1).tlbFills c.g.core ps.2.1) = _ at hb
      rw [hsend] at hb hact
      generalize State.tlbFills _ c.g.core ps.2.1 = t1 at hb hact
      have hgroups : SMap.get? t1.groups gid = some (g.startTok x.tok .mred s.nid) := by
        refine (congrArg (fun u : State => SMap.get? u.groups gid) hb :).trans ?_
        exact (SMap.get?_upd_same ..).trans (congrArg _ h.grp)
      have hbare : (g.startTok x.tok .mred s.nid).lanes = g.lanes ∧ (g.startTok x.tok .mred s.nid).final = g.final := by
        unfold Group.startTok
        split
        · exact ⟨rfl, Paths.final_congr rfl rfl⟩
        · exact ⟨rfl, rfl⟩
      obtain ⟨g', hg', hfinal, hfixed⟩ := completed_group (s := s) g x.k hgroups (congrArg List.length hbare.1)
      have hout := completed_beyondIssue s t1 gid g x.k
      refine ⟨_, g', exec_of_done hi h hact, hg', ?_, hfinal.trans hbare.2, (congrArg Group.toks hfixed :), ?_⟩
      · refine (congrArg (fun u : State => SMap.get? u.aops s.nid) hout :).trans
          ((congrArg (fun u : State => SMap.get? u.aops s.nid) hb :).trans ?_)
        exact SMap.get?_put_same ..
      · exact (congrArg State.mem hout :).trans (congrArg State.mem hb :)
    · refine exec_of_trap hi h ?_
      rw [hgo ha, hps]
      dsimp only
      unfold chkFail
      dsimp only
      rw [if_neg (by simpa using hcause)]
      rfl

end Sys2Proof.Proofs.Reduces
end

section
/-! SUPPORT. What the memory system leaves of the virtual devices and of the device's own queue. -/

namespace Sys2Proof.Proofs.Ledger

-- Theorem by theorem: the many that are elaborated at once would each take a thread.
set_option Elab.async false
open Sys2Proof Sys2Proof.Machine

/-- A virtual device but for the units that its objects count as written. -/
def bareVd (v : Vd) : Vd := { v with objs := SMap.mapV (fun (o : TObj) => { o with wrote := [] }) v.objs }

/-- A state but for what reads, writes and updates of memory change. -/
def ledger (s : State) : State :=
  { s with nid := 0, draws := 0, cores := [], clusters := [], dies := [], hbms := [], mem := [], poison := [],
           keyOf := [], vds := SMap.mapV bareVd s.vds,
           mod := { s.mod with out := [], backInvs := [], rltail := 0 } }

theorem mapV_bareVd_noteUnits (vds : SMap Vd) (us : List Nat) :
    SMap.mapV bareVd (noteUnits vds us) = SMap.mapV bareVd vds := by
  simp [noteUnits, SMap.mapV, bareVd, TObj.note, Function.comp_def]

theorem written_ledger (s : State) (us : List Nat) (m : List Host.Cell) (p : SMap Bool) :
    ledger { s with vds := noteUnits s.vds us, mem := m, poison := p } = ledger s := by
  unfold ledger
  rw [mapV_bareVd_noteUnits]

theorem foldl_ledger {α : Type} {f : State → α → State} (hf : ∀ s x, ledger (f s x) = ledger s) (s : State) (xs : List
    α) :
    ledger (xs.foldl f s) = ledger s := by
  induction xs generalizing s with
  | nil => rfl
  | cons x xs ih => exact (ih (f s x)).trans (hf s x)

theorem fst_foldl_ledger {α β : Type} {f : State × β → α → State × β} (hf : ∀ p x, ledger (f p x).1 = ledger p.1)
    (p : State × β) (xs : List α) : ledger (xs.foldl f p).1 = ledger p.1 := by
  induction xs generalizing p with
  | nil => rfl
  | cons x xs ih => exact (ih (f p x)).trans (hf p x)

theorem State.setDie_ledger (s : State) (d x) : ledger (s.setDie d x) = ledger s := rfl

theorem State.updDie_ledger (s : State) (d f) : ledger (s.updDie d f) = ledger s := rfl

theorem State.setCore_ledger (s : State) (c x) : ledger (s.setCore c x) = ledger s := rfl

theorem State.updCore_ledger (s : State) (c f) : ledger (s.updCore c f) = ledger s := rfl

theorem State.setStack_ledger (s : State) (k x) : ledger (s.setStack k x) = ledger s := rfl

theorem State.updStack_ledger (s : State) (k f) : ledger (s.updStack k f) = ledger s := rfl

theorem State.draw_ledger (s : State) : ledger (s.draw) = ledger s := rfl

theorem State.emit_ledger (s : State) (o) : ledger (s.emit o) = ledger s := rfl

theorem State.meter_ledger (s : State) (d v f) : ledger (s.meter d v f) = ledger s := rfl

theorem State.count_ledger (s : State) (d c f) : ledger (s.count d c f) = ledger s := rfl

theorem State.stall_ledger (s : State) (d c cause timed) : ledger (s.stall d c cause timed) = ledger s := rfl

theorem State.cxlRead_ledger (s : State) (d c) : ledger (s.cxlRead d c) = ledger s := by
  unfold State.cxlRead
  grind [State.stall_ledger, State.draw_ledger]

theorem State.lostHit_ledger (s : State) (d c) : ledger (s.lostHit d c) = ledger s := rfl

theorem State.freeBytes_ledger (s : State) (n) : ledger (s.freeBytes n).1 = ledger s := rfl

theorem State.homeRead_ledger (s : State) (a n key) : ledger (s.homeRead a n key).1 = ledger s := by
  unfold State.homeRead
  grind [State.draw_ledger]

theorem State.rekey_ledger (s : State) (key u) : ledger (s.rekey key u) = ledger s := by
  unfold State.rekey
  grind [State.freeBytes_ledger, ledger]

theorem State.homeWrite_ledger (s : State) (a bs key) : ledger (s.homeWrite a bs key) = ledger s :=
  (written_ledger ..).trans (foldl_ledger (fun s u => State.rekey_ledger s key u) s _)

theorem State.homeBytes_ledger (s : State) (bs clr key) : ledger (s.homeBytes bs clr key) = ledger s :=
  (written_ledger ..).trans (foldl_ledger (fun s u => State.rekey_ledger s key u) s _)

theorem State.poisonUnits_ledger (s : State) (us) : ledger (s.poisonUnits us) = ledger s := rfl

theorem State.readCyc_ledger (s : State) (d) : ledger (s.readCyc d).1 = ledger s := rfl

theorem State.portReq_ledger (s : State) (kind pa mask q ctx) : ledger (s.portReq kind pa mask q ctx) = ledger s := by
  unfold State.portReq
  grind [State.setStack_ledger, State.meter_ledger]

theorem State.portSend_ledger (s : State) (kind pa mask ctx) : ledger (s.portSend kind pa mask ctx) = ledger s := by
  unfold State.portSend
  grind [State.portReq_ledger]

theorem State.mscOut_ledger (s : State) (d l) : ledger (s.mscOut d l) = ledger s := by
  unfold State.mscOut
  grind [State.portSend_ledger, State.poisonUnits_ledger]

theorem State.mscEvict_ledger (s : State) (d k) : ledger (s.mscEvict d k) = ledger s := by
  unfold State.mscEvict
  grind [State.mscOut_ledger, State.updDie_ledger]

theorem State.mscReq_ledger (s : State) (pa mask kind a) : ledger (s.mscReq pa mask kind a) = ledger s := by
  unfold State.mscReq
  grind [State.portSend_ledger, State.updDie_ledger, State.stall_ledger, State.mscEvict_ledger, State.setDie_ledger]

theorem State.l2Wb_ledger (s : State) (pa drop) : ledger (s.l2Wb pa drop) = ledger s := by
  unfold State.l2Wb
  grind [State.poisonUnits_ledger, State.mscReq_ledger, State.updDie_ledger]

theorem State.guestDrop_ledger (s : State) (d line) : ledger (s.guestDrop d line) = ledger s := rfl

theorem State.cxlMeter_ledger (s : State) (d ctx n) : ledger (s.cxlMeter d ctx n) = ledger s := rfl

theorem State.farWb_ledger (s : State) (d line drop) : ledger (s.farWb d line drop) = ledger s := by
  unfold State.farWb
  grind [State.poisonUnits_ledger, State.homeBytes_ledger, State.cxlMeter_ledger, State.updDie_ledger]

theorem State.guestsOut_ledger (s : State) (d line) : ledger (s.guestsOut d line) = ledger s := by
  unfold State.guestsOut
  grind [foldl_ledger, State.guestDrop_ledger, State.updDie_ledger, fst_foldl_ledger]

theorem State.l2Room_ledger (s : State) (dN line) : ledger (s.l2Room dN line) = ledger s := by
  unfold State.l2Room
  grind [State.l2Wb_ledger, State.guestsOut_ledger, State.draw_ledger, State.guestDrop_ledger, State.farWb_ledger]

theorem State.l2Use_ledger (s : State) (line need wr at' a) : ledger (s.l2Use line need wr at' a) = ledger s := by
  unfold State.l2Use
  grind [State.l2Room_ledger, State.mscReq_ledger, State.updDie_ledger]

theorem State.stamp_ledger (s : State) (d) : ledger (s.stamp d) = ledger s := rfl

theorem State.sendUpd_ledger (s : State) (d p) : ledger (s.sendUpd d p) = ledger s := rfl

theorem State.fanOut_ledger (s : State) (home skip p) : ledger (s.fanOut home skip p) = ledger s := by
  unfold State.fanOut
  grind [foldl_ledger, State.sendUpd_ledger, fst_foldl_ledger]

theorem State.homeApply_ledger (s : State) (bs m key at' a) : ledger (s.homeApply bs m key at' a) = ledger s := by
  unfold State.homeApply
  grind [State.homeBytes_ledger, State.l2Use_ledger, State.updDie_ledger, State.poisonUnits_ledger]

theorem State.askHost_ledger (s : State) (ls) : ledger (s.askHost ls) = ledger s := by
  unfold State.askHost
  refine foldl_ledger (fun s l => ?_) s ls
  split
  · rfl
  · exact (show _ = ledger (List.foldl _ s _) from rfl).trans (foldl_ledger (fun s _ => State.emit_ledger s _) s _)

theorem State.homeHold_ledger (s : State) (home line bs m key a) : ledger (s.homeHold home line bs m key a) = ledger s
    := by
  unfold State.homeHold
  grind [State.stamp_ledger, State.askHost_ledger, State.sendUpd_ledger]

theorem State.homeStore_ledger (s : State) (home bs m key a) : ledger (s.homeStore home bs m key a) = ledger s := by
  unfold State.homeStore
  grind [State.homeHold_ledger, State.homeApply_ledger, State.stamp_ledger, State.fanOut_ledger]

theorem State.guestApply_ledger (s : State) (d p) : ledger (s.guestApply d p) = ledger s := by
  unfold State.guestApply
  grind [State.updDie_ledger]

theorem State.applyUpd_ledger (s : State) (d idx) : ledger (s.applyUpd d idx) = ledger s := by
  unfold State.applyUpd
  grind [State.updDie_ledger, State.fanOut_ledger, State.homeApply_ledger, State.guestApply_ledger]

theorem State.pump_ledger (sel : Nat → UpdPkt → Bool) (n : Nat) (s : State) : ledger (State.pump sel n s) = ledger s :=
    by
  induction n generalizing s with
  | zero => rfl
  | succ n ih =>
    unfold State.pump
    split
    · exact (ih _).trans (State.applyUpd_ledger ..)
    · rfl

theorem State.join_ledger (s : State) (d line c) : ledger (s.join d line c) = ledger s := by
  unfold State.join
  grind [State.pump_ledger, State.updDie_ledger]

theorem State.settleUpd_ledger (s : State) : ledger (s.settleUpd) = ledger s := by
  unfold State.settleUpd
  grind [State.pump_ledger]

theorem State.devStore_ledger (s : State) (home bs m key a) : ledger (s.devStore home bs m key a) = ledger s := by
  unfold State.devStore
  grind [State.homeStore_ledger, State.mscReq_ledger, State.poisonUnits_ledger, State.homeBytes_ledger]

theorem State.devWrite_ledger (s : State) (pa bs key ctx cls) : ledger (s.devWrite pa bs key ctx cls) = ledger s := by
  unfold State.devWrite
  grind [foldl_ledger, State.devStore_ledger, State.homeWrite_ledger, fst_foldl_ledger]

theorem State.relNew_ledger (s : State) (r) : ledger (s.relNew r) = ledger s := by
  unfold State.relNew
  split
  · rfl
  · have h := State.devWrite_ledger s (s.mod.rlbase + 32 * (s.mod.rltail % s.mod.rlsize)) r.bytes 0 0 0
    generalize s.devWrite _ _ _ _ _ = t at h ⊢
    exact h

theorem State.relWrite_ledger (s : State) (r) : ledger (s.relWrite r) = ledger s := by
  unfold State.relWrite
  grind [State.updDie_ledger, State.devWrite_ledger, State.relNew_ledger]

theorem State.relRec_ledger (s : State) (src sev d unit ctx loc) : ledger (s.relRec src sev d unit ctx loc) = ledger s
    := by
  unfold State.relRec
  grind [State.readCyc_ledger, State.relWrite_ledger]

theorem State.copyOf_ledger (s : State) (line key) : ledger (s.copyOf line key).1 = ledger s := by
  unfold State.copyOf
  grind [State.homeRead_ledger]

theorem State.guestLine_ledger (s : State) (d home pa key a) : ledger (s.guestLine d home pa key a).1 = ledger s := by
  unfold State.guestLine
  grind [State.join_ledger, State.copyOf_ledger, State.updDie_ledger, State.l2Use_ledger, State.l2Room_ledger]

theorem State.farLine_ledger (s : State) (pa key a) : ledger (s.farLine pa key a).1 = ledger s := by
  unfold State.farLine
  grind [State.copyOf_ledger, State.l2Room_ledger, State.cxlRead_ledger, State.cxlMeter_ledger, State.updDie_ledger]

theorem State.holeWrite_ledger (s : State) (a pa) : ledger (s.holeWrite a pa) = ledger s := by
  unfold State.holeWrite
  grind [State.relRec_ledger]

theorem State.l2Write_ledger (s : State) (a sys bs m key) : ledger (s.l2Write a sys bs m key) = ledger s := by
  unfold State.l2Write
  grind [State.holeWrite_ledger, State.homeStore_ledger, State.guestLine_ledger, State.stamp_ledger, State.updDie_ledger,
    State.sendUpd_ledger, State.farWb_ledger, State.lostHit_ledger, State.poisonUnits_ledger, State.homeBytes_ledger,
    State.cxlMeter_ledger, State.farLine_ledger]

theorem State.l1Send_ledger (s : State) (a c line mask) : ledger (s.l1Send a c line mask) = ledger s := by
  unfold State.l1Send
  grind [State.updCore_ledger, State.l2Write_ledger]

theorem State.l1Flush_ledger (s : State) (a c sel) : ledger (s.l1Flush a c sel) = ledger s := by
  unfold State.l1Flush
  grind [foldl_ledger, State.l1Send_ledger, fst_foldl_ledger]

end Sys2Proof.Proofs.Ledger
end

section
/-! PROOFS. The tier engine: instructions, statuses, promotion, demotion and failure. -/

namespace Sys2Proof.Proofs.Tier
open Sys2Proof Sys2Proof.Machine Sys2Proof.Proofs.Access Sys2Proof.Proofs.Easel Sys2Proof.Proofs.Ledger

-- The instructions.

/-- The object that a page of a range lies in. -/
def tierObj : TrRes → Option Nat
  | .tier n => some n
  | .ok e => e.obj
  | .bad .. => none

/-- A `tier` operation that queues on objects. -/
def tierIssue (s : State) (gid : Nat) (ctx kind : Nat) (d : Option Nat) (objs : List Nat) : State :=
  let s1 := { s.fresh with tops := SMap.put s.tops s.nid ⟨gid, ctx, d, kind, objs, 0⟩ }
  objs.foldl (fun s2 n => (s2.setObj (ctx / 256) n { s2.obj (ctx / 256) n with
    queue := (s2.obj (ctx / 256) n).queue ++ [s.nid] }).tierKick 64 (ctx / 256) n)
    (s1.updGroup gid (fun g => g.addResults (match d with | some r => [.o s.nid r] | none => [])))

theorem filterMap_pairs (os : List Nat) (f : Nat → DWord) (t : Nat → TrRes) :
    (os.map (fun o => (f o, t o))).filterMap (fun r => tierObj r.2) = (os.map t).filterMap tierObj := by
  rw [List.filterMap_map, List.filterMap_map]
  rfl

/-- A `tier` whose pages all translate becomes an operation. -/
theorem actTier_done {kind gid : Nat} {x : TierArgs} {c : GCtx} {s : State} :
    let len := c.data x.b c.low 1
    let off := c.memOff x.a x.ap c.low
    let rs := (if len == 0 then [] else pageOffs off.toNat len).map (fun o =>
      translate s c.g.core c.g.ctx (vaOf (c.g.aper x.ap) (if o < off.toNat then off else BitVec.ofNat 64 o)) needR)
    c.consume [(x.a, 2), (x.b, 1)] c.ls = none → (∀ r ∈ rs, ∀ cs s2, r ≠ .bad cs s2) →
    actTier kind x gid c s = .done (tierIssue s gid c.g.ctx kind (match x.d with | .s n => some n.val | _ => none)
      (rs.filterMap tierObj).eraseDups) := by
  intro len off rs hc hok
  unfold actTier
  rw [hc]
  dsimp only
  split
  · next b hb =>
    obtain ⟨r, hr, hbad⟩ := List.exists_of_findSome?_eq_some hb
    obtain ⟨o, ho, rfl⟩ := List.mem_map.mp hr
    have hno := hok _ (List.mem_map_of_mem ho)
    dsimp only at hbad
    split at hbad
    · next cs s2 heq => exact absurd heq (hno cs s2)
    · cases hbad
  · exact congrArg (fun os => Act.done (tierIssue s gid c.g.ctx kind (match x.d with | .s n => some n.val | _ => none)
      os.eraseDups)) (filterMap_pairs _ _ _)

-- Statuses.

theorem findIdx?_unique {α : Type} {p : α → Bool} {xs : List α} {k : Nat} {x : α} (hx : xs[k]? = some x) (hp : p x = true)
    (h : ∀ j y, j ≠ k → xs[j]? = some y → p y = false) : xs.findIdx? p = some k := by
  obtain ⟨hk, rfl⟩ := List.getElem?_eq_some_iff.mp hx
  refine List.findIdx?_eq_some_iff_getElem.mpr ⟨hk, hp, fun j hj => ?_⟩
  rw [Bool.not_eq_true]
  exact h j _ (Nat.ne_of_lt hj) (List.getElem?_eq_getElem (Nat.lt_trans hj hk))

/-- The write that becomes known when a status returns. -/
def known (op : Nat) (v : Word) (x : RegW) : RegW :=
  match x with
  | .o i r => if i == op then .s r ⟨false, 0, v⟩ else x
  | x => x

/-- The write awaits the status of an operation. -/
def awaits (op : Nat) : RegW → Bool
  | .o i _ => i == op
  | _ => false

theorem awaits_iff {op : Nat} {x : RegW} : awaits op x = true ↔ ∃ r, x = .o op r := by
  cases x with
  | o i r =>
    refine beq_iff_eq.trans ⟨fun h => ⟨r, by rw [h]⟩, ?_⟩
    rintro ⟨_, h⟩
    cases h
    rfl
  | v | s | p => exact iff_of_false Bool.false_ne_true (fun h => by cases h.choose_spec)

theorem returnStatus_eq (g : Group) (op : Nat) (v : Word) :
    g.returnStatus op v = (g.pend.findIdx? (fun w => w.any (awaits op))).elim g (fun k =>
      ({ g with pend := updAt g.pend k (fun w => w.map (known op v)) } : Group).returnResult k 0) := by
  unfold Group.returnStatus
  generalize hk : g.pend.findIdx? (fun w => w.any (awaits op)) = k
  change (match g.pend.findIdx? (fun w => w.any (awaits op)) with | none => _ | some k => _) = _
  rw [hk]
  cases k <;> rfl

theorem mem_owed {g : Group} {op : Nat} : op ∈ g.owed ↔ ∃ w ∈ g.pend, ∃ r, RegW.o op r ∈ w := by
  unfold Group.owed
  simp only [List.mem_flatMap, List.mem_filterMap]
  constructor
  · rintro ⟨w, hw, x, hx, he⟩
    split at he
    · cases he
      exact ⟨w, hw, _, hx⟩
    · cases he
  · rintro ⟨w, hw, r, hr⟩
    exact ⟨w, hw, _, hr, rfl⟩

/-- A status that no result awaits changes nothing. -/
theorem returnStatus_none {g : Group} {op : Nat} (v : Word) (h : op ∉ g.owed) : g.returnStatus op v = g := by
  have hnone : g.pend.findIdx? (fun w => w.any (awaits op)) = none := by
    refine List.findIdx?_eq_none_iff.mpr fun w hw => List.any_eq_false.mpr fun x hx ha => h ?_
    obtain ⟨r, rfl⟩ := awaits_iff.mp ha
    exact mem_owed.mpr ⟨w, hw, r, hx⟩
  rw [returnStatus_eq, hnone]
  rfl

/-- When a scalar result returns alone, the others stay outstanding but for what it overtakes. -/
theorem returnResult_one {g : Group} {k r : Nat} {i : Image} (hk : g.pend[k]? = some [RegW.s r i]) (m : Word) :
    (g.returnResult k m).s = SMap.set g.s Image.zero r i ∧ (g.returnResult k m).lanes = g.lanes ∧
      ∀ w ∈ (g.returnResult k m).pend, w ≠ [] → ∃ j, j ≠ k ∧ ∃ w0, g.pend[j]? = some w0 ∧ w ⊆ w0 := by
  have hret : (g.returnResult k m).pend = ((g.pend.take k).map (dropSame [RegW.s r i]) ++ [[]] ++ g.pend.drop (k + 1)).filter
      (fun x => !x.isEmpty) ∧ (g.returnResult k m).s = SMap.set g.s Image.zero r i ∧ (g.returnResult k m).lanes = g.lanes := by
    unfold Group.returnResult
    rw [hk]
    exact ⟨rfl, rfl, rfl⟩
  obtain ⟨hp, hs, hl⟩ := hret
  refine ⟨hs, hl, fun w hw hne => ?_⟩
  rw [hp] at hw
  obtain hw | hw := List.mem_append.mp (List.mem_filter.mp hw).1
  · obtain hw | hw := List.mem_append.mp hw
    · obtain ⟨w0, hw0, rfl⟩ := List.mem_map.mp hw
      obtain ⟨j, hj, rfl⟩ := List.mem_take_iff_getElem.mp hw0
      exact ⟨j, by omega, _, List.getElem?_eq_getElem _, fun _ h => (List.mem_filter.mp h).1⟩
    · exact absurd (List.mem_singleton.mp hw) hne
  · obtain ⟨j, hj, rfl⟩ := List.mem_drop_iff_getElem.mp hw
    exact ⟨k + 1 + j, by omega, _, List.getElem?_eq_getElem _, fun _ h => h⟩

/-- A status that one result awaits, as its only write, is written to its register. -/
theorem returnStatus_one {g : Group} {op k r : Nat} (v : Word) (hk : g.pend[k]? = some [RegW.o op r])
    (h : ∀ (j : Nat) w r', j ≠ k → g.pend[j]? = some w → RegW.o op r' ∉ w) :
    (g.returnStatus op v).s = SMap.set g.s Image.zero r ⟨false, 0, v⟩ ∧ op ∉ (g.returnStatus op v).owed ∧
      (g.returnStatus op v).lanes = g.lanes := by
  have hidx : g.pend.findIdx? (fun w => w.any (awaits op)) = some k := by
    refine findIdx?_unique hk (by simp [awaits]) fun j w hj hw => List.any_eq_false.mpr fun x hx ha => ?_
    obtain ⟨r', rfl⟩ := awaits_iff.mp ha
    exact h j w r' hj hw hx
  let ws := updAt g.pend k (fun w => w.map (known op v))
  have hws (j : Nat) : ws[j]? = if j = k then g.pend[j]?.map (fun w => w.map (known op v)) else g.pend[j]? :=
    Reduces.getElem?_updAt ..
  have hkws : ws[k]? = some [RegW.s r ⟨false, 0, v⟩] := by
    rw [hws, if_pos rfl, hk]
    simp [known]
  have hret : g.returnStatus op v = ({ g with pend := ws } : Group).returnResult k 0 := by
    rw [returnStatus_eq, hidx]
    rfl
  obtain ⟨hs, hl, hp⟩ := returnResult_one (g := { g with pend := ws }) hkws 0
  rw [hret]
  refine ⟨hs, fun ho => ?_, hl⟩
  obtain ⟨w, hw, r', hr'⟩ := mem_owed.mp ho
  obtain ⟨j, hj, w0, hw0, hsub⟩ := hp w hw (List.ne_nil_of_mem hr')
  refine h j w0 r' hj ?_ (hsub hr')
  rw [← hw0, hws, if_neg hj]

-- Frames.

theorem frameRun_spec {free : List Nat} {k : Nat} {r : List Nat} (h : frameRun free k = some r) :
    r.length = k ∧ (∀ f ∈ r, f ∈ free) ∧
      ∀ (i : Nat) f, r[i]? = some f → f = r.headD 0 + 65536 * i ∧ r.headD 0 % (65536 * k) = 0 := by
  obtain ⟨f0, hf0, hr⟩ := List.exists_of_findSome?_eq_some h
  obtain ⟨-, hal⟩ := List.mem_filter.mp hf0
  dsimp only at hr
  split at hr
  · next hall =>
    cases hr
    refine ⟨by simp, fun f hf => by simpa using List.all_eq_true.mp hall f hf, fun i f hi => ?_⟩
    obtain ⟨j, hj, rfl⟩ := List.mem_map.mp (List.mem_of_getElem? hi)
    rw [List.getElem?_map, Option.map_eq_some_iff] at hi
    obtain ⟨j', hj', he⟩ := hi
    obtain ⟨hlt, rfl⟩ := List.getElem?_eq_some_iff.mp hj'
    rw [List.length_range] at hlt
    have hhead : ((List.range k).map (fun i => f0 + 65536 * i)).headD 0 = f0 := by
      cases k with
      | zero => exact absurd hlt (Nat.not_lt_zero _)
      | succ k => simp [List.range_succ_eq_map]
    rw [hhead, ← he, List.getElem_range]
    exact ⟨rfl, beq_iff_eq.mp hal⟩
  · cases hr

theorem le_foldl_max (xs : List Nat) (n : Nat) : n ≤ xs.foldl max n := by
  induction xs generalizing n with
  | nil => exact Nat.le_refl n
  | cons x xs ih => exact Nat.le_trans (Nat.le_max_left n x) (ih _)

theorem takeFrames_spec (spans : List (Nat × Nat)) (need : Nat) {f i : Nat} {free r : List Nat}
    (h : takeFrames spans need f i free = some r) (hf : need ≤ f + i) : need ≤ i + r.length ∧ ∀ x ∈ r, x ∈ free := by
  induction f generalizing i free r with
  | zero =>
    cases h
    exact ⟨by omega, by simp⟩
  | succ f ih =>
    unfold takeFrames at h
    split at h
    · cases h
      exact ⟨by omega, by simp⟩
    · next hlt =>
      dsimp only at h
      split at h
      · cases h
      · next r1 hr1 =>
        obtain ⟨hlen, hfree, -⟩ := frameRun_spec hr1
        obtain ⟨r2, hr2, rfl⟩ := Option.map_eq_some_iff.mp h
        have hone : 1 ≤ ((spans.filter (fun x => x.1 == i)).map (fun x => x.2)).foldl max 1 := le_foldl_max _ _
        obtain ⟨hle, hmem⟩ := ih hr2 (by omega)
        refine ⟨by rw [List.length_append]; omega, fun x hx => ?_⟩
        obtain hx | hx := List.mem_append.mp hx
        · exact hfree x hx
        · exact (List.mem_filter.mp (hmem x hx)).1

theorem pickFrames_spec {s : State} {v n : Nat} {fs : List Nat} (h : s.pickFrames v n = some fs) :
    s.objFrames v n ≤ fs.length ∧ ∀ f ∈ fs, f ∈ s.freeFrames v := by
  unfold State.pickFrames at h
  dsimp only at h
  split at h
  · cases h
  · simpa using takeFrames_spec _ _ h (by omega)

-- What copying and mapping leave.

theorem cxlRead_vds (s : State) (d ctx : Nat) : (s.cxlRead d ctx).vds = s.vds := by
  unfold State.cxlRead
  split <;> rfl

theorem tlbDrop_ledger (s : State) (f : TlbE → Bool) : ledger (s.tlbDrop f) = ledger s := rfl

theorem dropFrame_ledger (s : State) (f : Nat) : ledger (s.dropFrame f) = ledger s := rfl

theorem flushFrame_ledger (s : State) (f : Nat) : ledger (s.flushFrame f) = ledger s :=
  (State.settleUpd_ledger _).trans (foldl_ledger (fun s _ => State.l1Flush_ledger s ..) s _)

theorem mapObj_ledger (s : State) (v n : Nat) (fs : List Nat) : ledger (s.mapObj v n fs) = ledger s := by
  refine (tlbDrop_ledger _ _).trans (foldl_ledger (fun s a => ?_) s _)
  have hput (c : Bool) (oa : Nat) : ledger (if c then s else
      s.devWrite a.1 (leBytes 8 oa) (SMap.getD s.keyOf 0 (a.1 / 32)) (256 * v) 0) = ledger s := by
    cases c
    · exact State.devWrite_ledger ..
    · rfl
  exact hput _ _

theorem tierCopyIn_ledger (s : State) (v n : Nat) (fs : List Nat) : ledger (s.tierCopyIn v n fs) = ledger s := by
  unfold State.tierCopyIn
  refine foldl_ledger (fun s f => ?_) s _
  exact dropFrame_ledger s f.1

theorem writeBack_ledger (s : State) (v src : Nat) (fs : List Nat) (u : Nat) : ledger (s.writeBack v src fs u) = ledger s := by
  unfold State.writeBack
  grind [State.homeRead_ledger, State.homeWrite_ledger, State.meter_ledger, State.poisonUnits_ledger]

/-- An object but for the units that it counts as written. -/
def bareObj (o : TObj) : TObj := { o with wrote := [] }

theorem getD_mapV {α β : Type} (f : α → β) (m : SMap α) (d : α) (n : Nat) :
    SMap.getD (SMap.mapV f m) (f d) n = f (SMap.getD m d n) := by
  unfold SMap.getD
  rw [Tokens.get?_mapV, Option.getD_map]

theorem bareObj_of_ledger {s t : State} (h : ledger s = ledger t) (v n : Nat) : bareObj (s.obj v n) = bareObj (t.obj v n) := by
  have hvd : bareVd (s.vd v) = bareVd (t.vd v) := by
    have hv : SMap.mapV bareVd s.vds = SMap.mapV bareVd t.vds := (congrArg State.vds h :)
    have q := congrArg (fun m => SMap.getD m (bareVd Vd.init) v) hv
    rw [getD_mapV, getD_mapV] at q
    exact q
  have q := congrArg (fun d : Vd => SMap.getD d.objs (bareObj TObj.init) n) hvd
  exact ((getD_mapV bareObj ..).symm.trans q).trans (getD_mapV bareObj ..)

-- Queues that stand empty.

theorem tierKick_idle {s : State} {v n : Nat} (h : (s.obj v n).queue = []) (f : Nat) : s.tierKick f v n = s := by
  cases f with
  | zero => rfl
  | succ f =>
    unfold State.tierKick
    dsimp only
    rw [h]

theorem devDrain_idle {s : State} (h : s.devQ = []) : s.devDrain = s := by
  unfold State.devDrain
  rw [h]
  show { s with devQ := [] } = s
  rw [← h]

theorem obj_setObj (s : State) (v n : Nat) (o : TObj) : (s.setObj v n o).obj v n = o := by
  unfold State.obj State.setObj State.updVd
  rw [Records.vd_setVd, if_pos rfl, SMap.getD_put_same]

theorem get?_setObj (s : State) (v n : Nat) (o : TObj) : SMap.get? ((s.setObj v n o).vd v).objs n = some o := by
  unfold State.setObj State.updVd
  rw [Records.vd_setVd, if_pos rfl, SMap.get?_put_same]

-- Promotion, demotion and failure.

/-- An object in HBM on which no operation is queued, with the state as its promotion copied and mapped it. -/
def promoted (s : State) (v n : Nat) (fs : List Nat) : State :=
  let s1 := (s.tierCopyIn v n fs).mapObj v n fs
  s1.setVd v { s1.vd v with
    promoted := (s1.vd v).promoted + 1
    objs := SMap.put (s1.vd v).objs n
      { s.obj v n with st := .hbm, frames := fs, order := (s1.vd v).promoted, waiters := [], queue := [], wrote := [] } }

/-- What a promotion counts. -/
def counted (s : State) (flash : Bool) (v : Nat) (fs waiters : List Nat) : State :=
  let s := fs.foldl (fun s f => s.meter (s.frameDie f) v (fun m =>
    if flash then { m with bflash := satAdd m.bflash 65536 } else { m with bcxl := satAdd m.bcxl 65536 })) s
  if flash then s else s.lateWaits waiters

theorem counted_keeps {α : Type} {F : State → α} (hm : ∀ s d v f, F (s.meter d v f) = F s) (hr : ∀ s d c, F (s.cxlRead d c) = F s)
    (s : State) (flash : Bool) (v : Nat) (fs ws : List Nat) : F (counted s flash v fs ws) = F s := by
  have hfold (s : State) (f : State → Nat → State) (hf : ∀ s x, F (f s x) = F s) (xs : List Nat) : F (xs.foldl f s) = F s := by
    induction xs generalizing s with
    | nil => rfl
    | cons x xs ih => exact (ih (f s x)).trans (hf s x)
  have hlate (s : State) : F (s.lateWaits ws) = F s := by
    refine hfold s _ (fun s g => ?_) ws
    split
    · exact hr ..
    · rfl
  unfold counted
  dsimp only
  split
  · exact hfold s _ (fun s f => hm ..) fs
  · exact (hlate _).trans (hfold s _ (fun s f => hm ..) fs)

/-- With no operation queued on it, a promoted object stays in HBM or begins its demotion. -/
theorem promotionComplete_eq {s : State} {v n : Nat} {fs : List Nat} (hst : (s.obj v n).st = .promoting)
    (hl : s.objLost v n = false) (hp : s.pickFrames v n = some fs) (hq : (s.obj v n).queue = []) :
    evTierPromotionComplete v n s =
      (((counted (promoted s v n fs) (s.objKind v n == 1) v fs (s.obj v n).waiters).tierKick 64 v n).chainLeft v n).devDrain := by
  unfold evTierPromotionComplete
  dsimp only
  rw [hst, hl, hp, if_neg (by decide), if_neg Bool.false_ne_true, hq]
  refine congrArg (fun t : State => ((t.tierKick 64 v n).chainLeft v n).devDrain) ?_
  rfl

theorem promoted_obj (s : State) (v n : Nat) (fs : List Nat) : ∃ o, SMap.get? ((promoted s v n fs).vd v).objs n = some o ∧
    o.st = .hbm ∧ o.frames = fs ∧ o.waiters = [] ∧ o.queue = [] ∧ o.chain = (s.obj v n).chain := by
  unfold promoted
  dsimp only
  rw [Records.vd_setVd, if_pos rfl]
  exact ⟨_, SMap.get?_put_same .., rfl, rfl, rfl, rfl, rfl⟩

theorem chainLeft_obj {s : State} {v n : Nat} {o : TObj} (h : SMap.get? (s.vd v).objs n = some o) (hst : o.st = .hbm) :
    ∃ o', SMap.get? ((s.chainLeft v n).vd v).objs n = some o' ∧ (o'.st = .hbm ∨ o'.st = .demoting) ∧
      (o.chain = 0 → o'.st = .hbm) ∧ o'.frames = o.frames ∧ o'.waiters = o.waiters := by
  have ho : s.obj v n = o := by
    unfold State.obj SMap.getD
    rw [h]
    rfl
  unfold State.chainLeft
  dsimp only
  rw [ho]
  split
  · next hc =>
    refine ⟨_, get?_setObj .., .inr rfl, fun h0 => ?_, rfl, rfl⟩
    rw [h0] at hc
    simp at hc
  · exact ⟨o, h, .inl hst, fun _ => hst, rfl, rfl⟩

theorem ledger_fields {s t : State} (h : ledger s = ledger t) : s.groups = t.groups ∧ s.devQ = t.devQ :=
  ⟨(congrArg State.groups h :), (congrArg State.devQ h :)⟩

/-- A promotion that takes its frames. -/
theorem promotionComplete_spec {s : State} {v n : Nat} {fs : List Nat} (hst : (s.obj v n).st = .promoting)
    (hl : s.objLost v n = false) (hp : s.pickFrames v n = some fs) (hq : (s.obj v n).queue = []) (hd : s.devQ = []) :
    ∃ o, SMap.get? ((evTierPromotionComplete v n s).vd v).objs n = some o ∧ (o.st = .hbm ∨ o.st = .demoting) ∧
      ((s.obj v n).chain = 0 → o.st = .hbm) ∧ o.frames = fs ∧ o.waiters = [] ∧
      (evTierPromotionComplete v n s).groups = s.groups := by
  let u := counted (promoted s v n fs) (s.objKind v n == 1) v fs (s.obj v n).waiters
  have hvds : u.vds = (promoted s v n fs).vds := counted_keeps (F := State.vds) (fun _ _ _ _ => rfl) cxlRead_vds ..
  have hled : u.groups = s.groups ∧ u.devQ = s.devQ := by
    obtain ⟨hg, hdq⟩ := ledger_fields (counted_keeps (F := ledger) State.meter_ledger State.cxlRead_ledger (promoted s v n fs)
      (s.objKind v n == 1) v fs (s.obj v n).waiters)
    obtain ⟨hg1, hdq1⟩ := ledger_fields ((mapObj_ledger (s.tierCopyIn v n fs) v n fs).trans (tierCopyIn_ledger s v n fs))
    exact ⟨hg.trans hg1, hdq.trans hdq1⟩
  obtain ⟨o, ho, host, hofs, how, hoq, hoc⟩ := promoted_obj s v n fs
  have huo : SMap.get? (u.vd v).objs n = some o := by
    unfold State.vd
    rw [hvds]
    exact ho
  have hidle : u.tierKick 64 v n = u := tierKick_idle (by unfold State.obj SMap.getD; rw [huo]; exact hoq) 64
  have hleft : (u.chainLeft v n).groups = u.groups ∧ (u.chainLeft v n).devQ = u.devQ := by
    unfold State.chainLeft
    dsimp only
    split <;> exact ⟨rfl, rfl⟩
  have hev : evTierPromotionComplete v n s = u.chainLeft v n := by
    rw [promotionComplete_eq hst hl hp hq]
    show ((u.tierKick 64 v n).chainLeft v n).devDrain = _
    rw [hidle, devDrain_idle (hleft.2.trans (hled.2.trans hd))]
  obtain ⟨o', ho', hst', hchain, hfs', hw'⟩ := chainLeft_obj huo host
  rw [hev]
  exact ⟨o', ho', hst', fun h0 => hchain (hoc.trans h0), hfs'.trans hofs, hw'.trans how, hleft.1.trans hled.1⟩

/-- The bytes of an object leave its frames. -/
def emptied (s : State) (v n : Nat) (fs : List Nat) : State :=
  let s1 := if s.objKind v n == 1 || s.objLost v n then s
    else (s.obj v n).wrote.foldl (fun t u => t.writeBack v (t.objSrc v n) fs u) s
  fs.foldl State.dropFrame s1

theorem emptied_ledger (s : State) (v n : Nat) (fs : List Nat) : ledger (emptied s v n fs) = ledger s := by
  unfold emptied
  refine (foldl_ledger dropFrame_ledger _ _).trans ?_
  split
  · rfl
  · exact foldl_ledger (fun s u => writeBack_ledger s ..) s _

/-- A demotion whose frames no access holds. -/
theorem demotionComplete_eq {s : State} {v n : Nat} (hst : (s.obj v n).st = .demoting) (hq : (s.obj v n).queue = [])
    (hb : (s.obj v n).frames.any ((s.obj v n).frames.foldl State.flushFrame (s.mapObj v n [])).frameBusy = false) :
    let u := emptied ((s.obj v n).frames.foldl State.flushFrame (s.mapObj v n [])) v n (s.obj v n).frames
    evTierDemotionComplete v n s =
      (u.setObj v n { u.obj v n with st := .low, frames := [], chain := 0, wrote := [] }).tierKick 64 v n := by
  intro u
  unfold evTierDemotionComplete
  dsimp only
  rw [hst, if_neg (by decide), hb, if_neg Bool.false_ne_true, hq]
  rfl

theorem demotionComplete_spec {s : State} {v n : Nat} (hst : (s.obj v n).st = .demoting) (hq : (s.obj v n).queue = [])
    (hb : (s.obj v n).frames.any ((s.obj v n).frames.foldl State.flushFrame (s.mapObj v n [])).frameBusy = false) :
    ∃ o, SMap.get? ((evTierDemotionComplete v n s).vd v).objs n = some o ∧ o.st = .low ∧ o.frames = [] ∧
      (evTierDemotionComplete v n s).groups = s.groups := by
  let u := emptied ((s.obj v n).frames.foldl State.flushFrame (s.mapObj v n [])) v n (s.obj v n).frames
  have hled : ledger u = ledger s := (emptied_ledger ..).trans ((foldl_ledger flushFrame_ledger _ _).trans (mapObj_ledger ..))
  have huq : (u.obj v n).queue = [] := (congrArg TObj.queue (bareObj_of_ledger hled v n) :).trans hq
  rw [demotionComplete_eq hst hq hb, tierKick_idle (by rw [obj_setObj]; exact huq)]
  exact ⟨_, get?_setObj .., rfl, rfl, (ledger_fields hled).1⟩

theorem foldl_fixed {α β : Type} {f : α → β → α} {a : α} (h : ∀ b, f a b = a) (xs : List β) : xs.foldl f a = a := by
  induction xs with
  | nil => rfl
  | cons x xs ih => rw [List.foldl_cons, h, ih]

/-- A promotion that the loss of its extent ends. -/
theorem tierFailure_eq {s : State} {v n : Nat} (hst : (s.obj v n).st = .promoting) (hq : (s.obj v n).queue = [])
    (hd : s.devQ = []) : evTierFailure v n true s =
      s.setObj v n { s.obj v n with lost := true, st := .low, waiters := [], failed := [] } := by
  unfold evTierFailure
  dsimp only
  rw [hst, if_neg (by decide), foldl_fixed, hq]
  · simp only [Bool.or_true, if_true]
    rw [tierKick_idle (by rw [obj_setObj])]
    exact devDrain_idle hd
  · intro g
    split
    · rfl
    · rfl

/-- Settles O35: each form queues one operation; statuses, promotion, demotion and failure by what each step leaves. -/
theorem tierOperations : Obligations.TierOperations := by
  refine ⟨fun i x kind s gid g hf h => ?_, fun op s t g ht hobjs hg => ?_, fun v n s => ⟨fun hst hw => ⟨fun hl => ?_, fun hl => ?_⟩,
    fun hst hl => ?_, fun fs hst hl hp hq hd => ?_, fun fs hp => pickFrames_spec hp, fun free k r hr => frameRun_spec hr, ?_,
    fun lost hst => ?_, fun hst hq hd => ?_⟩⟩
  · intro c v len off rs hc hok objs d s1 owes
    have hact : actTier kind x gid c s = _ := actTier_done hc hok
    have hexec : exec i s = issue i x.k (trs x) (actTier kind x) s := by
      unfold tierForm at hf
      split at hf
      case h_5 => cases hf
      all_goals
        cases hf
        rfl
    exact exec_of_done hexec h hact
  · have hev : evTierStatusReturn op s = { s with
        tops := SMap.del s.tops op
        groups := SMap.put s.groups t.gid (g.returnStatus op (BitVec.ofNat 32 t.status)) } := by
      unfold evTierStatusReturn
      rw [ht]
      dsimp only
      rw [hobjs, if_neg (by decide)]
      exact congrArg (fun m => { s with tops := SMap.del s.tops op, groups := m }) (Records.upd_of_get? _ hg)
    exact ⟨_, _, congrArg Host.Outcome.next hev, rfl, SMap.get?_put_same .., rfl, returnStatus_none _,
      fun k r hk hj => returnStatus_one _ hk hj⟩
  · refine congrArg Host.Outcome.next ?_
    unfold evTierPromote
    dsimp only
    rw [hst, hl, if_neg (by simpa using hw)]
    rfl
  · refine congrArg Host.Outcome.next ?_
    unfold evTierPromote
    dsimp only
    rw [hst, hl, if_neg (by simpa using hw)]
    rfl
  · refine congrArg Host.Outcome.next ?_
    unfold evTierPromotionComplete
    dsimp only
    rw [hst, hl]
    rfl
  · obtain ⟨o, ho, hst', hch, hfs, hw, hg⟩ := promotionComplete_spec hst hl hp hq hd
    exact ⟨_, o, rfl, ho, hst', hch, hfs, hw, hg⟩
  · intro s1 hst hq hb
    obtain ⟨o, ho, hst', hfs, hg⟩ := demotionComplete_spec hst hq hb
    exact ⟨_, o, rfl, ho, hst', hfs, hg⟩
  · refine congrArg Host.Outcome.next ?_
    unfold evTierFailure
    exact if_pos (by simpa using hst)
  · exact ⟨_, _, congrArg Host.Outcome.next (tierFailure_eq hst hq hd), get?_setObj .., rfl, rfl, rfl, rfl, rfl⟩

end Sys2Proof.Proofs.Tier
end

section
/-! PROOFS. Collectives: a call joins its instance, and a rank completes. -/

namespace Sys2Proof.Proofs.Collectives
open Sys2Proof Sys2Proof.Machine Sys2Proof.Proofs.Access Sys2Proof.Proofs.Easel Sys2Proof.Proofs.Barriers

-- What a call reads and sends.

theorem acElems_front (s : State) (a : Acc) (w : Nat) (gs : List Seg) (n : Nat) :
    Front.front (s.acElems a w gs n).1 = Front.front s := by
  refine Front.fst_foldl_front (fun p i => ?_) (s, [], []) _
  exact Front.State.readSegs_front ..

theorem acElems_length (s : State) (a : Acc) (w : Nat) (gs : List Seg) (n : Nat) : (s.acElems a w gs n).2.1.length = n := by
  have h (f : State × List Nat × List Bool → Nat → State × List Nat × List Bool)
      (hf : ∀ x i, (f x i).2.1.length = x.2.1.length + 1) (xs : List Nat) (x : State × List Nat × List Bool) :
      (xs.foldl f x).2.1.length = x.2.1.length + xs.length := by
    induction xs generalizing x with
    | nil => rfl
    | cons i xs ih =>
      rw [List.foldl_cons, ih, hf, List.length_cons]
      omega
  refine (h _ (fun x i => ?_) (List.range n) (s, [], [])).trans (by simp)
  exact List.length_append

/-- A state but for what messages change. -/
def beyondNet (s : State) : State := { s with mod := { s.mod with out := [], conns := [] } }

theorem foldl_beyondNet {α : Type} {f : State → α → State} (hf : ∀ s x, beyondNet (f s x) = beyondNet s) (s : State) (xs : List α) :
    beyondNet (xs.foldl f s) = beyondNet s := by
  induction xs generalizing s with
  | nil => rfl
  | cons x xs ih => exact (ih _).trans (hf s x)

theorem netSend_beyondNet (s : State) (c : Conn) (p : NetMsg) : beyondNet (s.netSend c p) = beyondNet s := by
  unfold State.netSend
  split <;> rfl

theorem acSendTo_beyondNet (s : State) (h inst src dst : Nat) (a b : Rank) (x : CollMsg) :
    beyondNet (s.acSendTo h inst src dst a b x) = beyondNet s := by
  refine foldl_beyondNet (fun s k => ?_) s _
  dsimp only
  split
  · rfl
  · exact netSend_beyondNet ..

theorem l1Release_ledger (s : State) (a : Acc) (gs : List Seg) : Ledger.ledger (s.l1Release a gs) = Ledger.ledger s :=
  Ledger.foldl_ledger (fun s _ => Ledger.State.l1Flush_ledger s ..) s _

theorem tlbFills_ledger (s : State) (core : Nat) (es : List TlbE) : Ledger.ledger (s.tlbFills core es) = Ledger.ledger s :=
  Ledger.foldl_ledger (f := fun s e => s.tlbFill core e) (fun _ _ => rfl) s es

/-- A collective's entry, once it has been changed, stands among those pending. -/
theorem mem_updColl (m : Module) (h inst : Nat) (f : Coll → Coll) : ∃ k, f k ∈ (m.updColl h inst f).colls ∧ k.comm = h ∧ k.inst = inst := by
  unfold Module.updColl
  split
  · next hc =>
    obtain ⟨k, hk, his⟩ := List.any_eq_true.mp hc
    unfold Coll.is at his
    obtain ⟨h1, h2⟩ : k.comm = h ∧ k.inst = inst := by simpa using his
    refine ⟨k, List.mem_map.mpr ⟨k, hk, if_pos ?_⟩, h1, h2⟩
    simpa [Coll.is] using ⟨h1, h2⟩
  · exact ⟨_, List.mem_append_right _ (List.mem_singleton.mpr rfl), rfl, rfl⟩

/-- What a rank brings to its collective, and the state once its buffers are read. -/
def called (kind : Nat) (x : AcolArgs) (gid : Nat) (c : GCtx) (s : State) (p : Nat) (snd rcv : List Seg) : State × CollRank :=
  let a := engAcc c.g.core c.g.team c.g.ctx 1 (s.chainOf c.g.team)
  let was := s.readSegs a .die .nrm rcv
  let d := was.1.acElems a (acBytes x.ty) snd (acSend kind (c.data x.c c.low 1) p)
  (d.1, ⟨x.k.ext.toNat % 2 ^ 16, gid, (c.g.ids gid).tail, c.g.ctx, c.g.core, c.g.team, s.teamGrid c.g.team,
    x.tok.map (fun t => t.toNat), s.nid, kind, x.ty, c.data x.c c.low 1, snd, rcv, was.2.1, d.2.1, d.2.2⟩)

/-- A rank joins the next instance of its collective and sends what it brings to the others. -/
def joined (s : State) (cm : Comm) (me : Rank) (h r : Nat) (x : State × CollRank) : State :=
  let inst := SMap.getD s.mod.collSeq 0 (h * 4096 + r)
  let s1 := x.1.fresh.updMod (fun m =>
    ({ m with collSeq := SMap.put m.collSeq (h * 4096 + r) (inst + 1) }).updColl h inst (fun k =>
      { k with ranks := k.ranks ++ [x.2], doneRanks := if x.2.n == 0 then k.doneRanks ++ [r] else k.doneRanks }))
  cm.ranks.zipIdx.foldl (fun s o =>
    if o.2 == r || (Rank.here s.mod o.1 && Rank.cxl me o.1) then s
    else s.acSendTo h (inst % 2 ^ 32) r o.2 me o.1 (acMsg x.2.kind x.2.ty x.2.n x.2.data x.2.pz)) s1

theorem called_spec (kind : Nat) (x : AcolArgs) (gid : Nat) (c : GCtx) (s : State) (p : Nat) (snd rcv : List Seg) :
    Front.front (called kind x gid c s p snd rcv).1 = Front.front s ∧
      (called kind x gid c s p snd rcv).2.data.length = acSend kind (c.data x.c c.low 1) p :=
  ⟨(acElems_front ..).trans (Front.State.readSegs_front ..), acElems_length ..⟩

theorem updColl_collSeq (m : Module) (h inst : Nat) (f : Coll → Coll) : (m.updColl h inst f).collSeq = m.collSeq := by
  unfold Module.updColl
  split <;> rfl

theorem joined_spec (s : State) (cm : Comm) (me : Rank) (h r : Nat) (x : State × CollRank) :
    Front.front (joined s cm me h r x) = Front.front x.1 ∧
      SMap.getD (joined s cm me h r x).mod.collSeq 0 (h * 4096 + r) = SMap.getD s.mod.collSeq 0 (h * 4096 + r) + 1 ∧
      ∃ k ∈ (joined s cm me h r x).mod.colls, k.comm = h ∧ k.inst = SMap.getD s.mod.collSeq 0 (h * 4096 + r) ∧ x.2 ∈ k.ranks := by
  let inst := SMap.getD s.mod.collSeq 0 (h * 4096 + r)
  let m := { x.1.mod with collSeq := SMap.put x.1.mod.collSeq (h * 4096 + r) (inst + 1) }
  let f (k : Coll) : Coll :=
    { k with ranks := k.ranks ++ [x.2], doneRanks := if x.2.n == 0 then k.doneRanks ++ [r] else k.doneRanks }
  have hnet : beyondNet (joined s cm me h r x) = beyondNet { x.1.fresh with mod := m.updColl h inst f } := by
    refine foldl_beyondNet (fun s o => ?_) _ _
    split
    · rfl
    · exact acSendTo_beyondNet ..
  have hseq : (joined s cm me h r x).mod.collSeq = (m.updColl h inst f).collSeq := (congrArg (fun t : State => t.mod.collSeq) hnet :)
  have hcolls : (joined s cm me h r x).mod.colls = (m.updColl h inst f).colls := (congrArg (fun t : State => t.mod.colls) hnet :)
  have hfront := congrArg Front.front hnet
  refine ⟨hfront, ?_, ?_⟩
  · rw [hseq, updColl_collSeq]
    exact SMap.getD_put_same ..
  · obtain ⟨k, hk, hcomm, hinst⟩ := mem_updColl m h inst f
    rw [hcolls]
    exact ⟨f k, hk, hcomm, hinst, List.mem_append_right _ (List.mem_singleton.mpr rfl)⟩

/-- A call whose buffers pass their checks joins its rank's next instance, and its token begins. -/
theorem actAcol_done {kind gid : Nat} {x : AcolArgs} {c : GCtx} {s : State} {cm : Comm} {me : Rank} :
    let w := acBytes x.ty
    let sb := BitVec.ofNat 64 (c.data x.a c.low 2)
    let rb := BitVec.ofNat 64 (c.data x.b c.low 2)
    let n := c.data x.c c.low 1
    let p := cm.ranks.length
    let h := x.k.imm.toNat
    let r := x.k.ext.toNat % 2 ^ 16
    let snd := s.chk c.g gid ⟨needR, false, false, w⟩ x.ap sb (acSend kind n p * w)
    let rcv := s.chk c.g gid ⟨needW, false, false, w⟩ x.ap rb (acRecv kind n p * w)
    c.g.tokPending x.tok = false → c.consume [(x.a, 2), (x.b, 2), (x.c, 1)] [c.low] = none →
    sb.toNat % w = 0 → rb.toNat % w = 0 → s.acolRank c.g x.k = some (cm, me) → Passed snd → Passed rcv →
    s.hostLines rcv.segs = [] → s.reachAll c.g.core false (snd.segs ++ rcv.segs) = true →
    ∃ s0 : State, Ledger.ledger s0 = Ledger.ledger s ∧
      let y := called kind x gid c s0 p snd.segs rcv.segs
      actAcol kind x gid c s = .done ((joined s0 cm me h r y).withG gid (fun g =>
        if n == 0 then g.endTok x.tok .coll y.2.id stOk else g.startTok x.tok .coll y.2.id)) := by
  intro w sb rb n p h r snd rcv htok hc hsb hrb hrank hsnd hrcv hhost hreach
  obtain ⟨gs, es, hgs⟩ := hsnd
  obtain ⟨gr, er, hgr⟩ := hrcv
  have hlanes : chkLanes [snd, rcv] = .ok (gs ++ (gr ++ [])) (es ++ (er ++ [])) := by
    rw [hgs, hgr]
    rfl
  refine ⟨(s.tlbFills c.g.core (es ++ (er ++ []))).l1Release (s.accOf c.g 0) (snd.segs ++ rcv.segs),
    (l1Release_ledger ..).trans (tlbFills_ledger ..), ?_⟩
  unfold actAcol
  rw [htok, if_neg Bool.false_ne_true, hc]
  dsimp only
  rw [if_neg (fun hne => bne_iff_ne.mp hne hsb), if_neg (fun hne => bne_iff_ne.mp hne hrb), hrank]
  dsimp only
  rw [hlanes]
  dsimp only
  rw [if_neg (by rw [hhost]; decide), if_neg (by rw [hreach]; decide)]
  rfl

-- How a rank's collective ends.

/-- The parts of all participants agree, or one of them differs from the first. -/
theorem acOutcome_spec {s : State} {h : Nat} {k : Coll} {x : CollRank} {cm : Comm} (hcm : s.mod.comm? h = some cm) :
    (k.wdrn = true → s.acOutcome h k x = some (stWdrn, none)) ∧
    (k.wdrn = false → k.chg = true → ∃ st, (st = stOk ∨ st = stWdrn) ∧ s.acOutcome h k x = some (st, none)) ∧
    (∀ ps, k.wdrn = false → k.chg = false →
      (List.range cm.ranks.length).map (fun q => k.part cm.ranks x.rank q) = ps.map some →
      let a := ps.headD ⟨0, 0, 0, [], []⟩
      ((∀ o ∈ ps, o.kind = a.kind ∧ o.ty = a.ty ∧ o.n = a.n) →
        s.acOutcome h k x = some (stOk, some (acResult x.kind x.ty x.n x.rank ps))) ∧
      ((∃ o ∈ ps, o.kind ≠ a.kind ∨ o.ty ≠ a.ty ∨ o.n ≠ a.n) → s.acOutcome h k x = some (stMismatch, none))) := by
  refine ⟨fun hw => ?_, fun hw hc => ?_, fun ps hw hc hps => ?_⟩
  · unfold State.acOutcome
    rw [hcm]
    exact if_pos hw
  · unfold State.acOutcome
    rw [hcm]
    dsimp only
    rw [hw, if_neg Bool.false_ne_true, hc, if_pos rfl]
    refine ⟨_, ?_, rfl⟩
    split
    · exact .inr rfl
    · exact .inl rfl
  · have hsome : (ps.map some).any (fun o => o.isNone) = false := by simp
    have hid : (ps.map some).filterMap id = ps := by simp
    have hout : s.acOutcome h k x = some (if ps.any (fun o => o.kind != (ps.headD ⟨0, 0, 0, [], []⟩).kind ||
        o.ty != (ps.headD ⟨0, 0, 0, [], []⟩).ty || o.n != (ps.headD ⟨0, 0, 0, [], []⟩).n) then (stMismatch, none)
        else (stOk, some (acResult x.kind x.ty x.n x.rank ps))) := by
      unfold State.acOutcome
      rw [hcm]
      dsimp only
      rw [hw, if_neg Bool.false_ne_true, hc, if_neg Bool.false_ne_true, hps, hsome, if_neg Bool.false_ne_true, hid]
      cases ps <;> rfl
    intro a
    rw [hout]
    refine ⟨fun hall => ?_, fun ⟨o, ho, hd⟩ => ?_⟩
    · rw [if_neg]
      simp only [Bool.not_eq_true, List.any_eq_false]
      intro o ho
      obtain ⟨h1, h2, h3⟩ := hall o ho
      simp [h1, h2, h3, a]
    · rw [if_pos]
      refine List.any_eq_true.mpr ⟨o, ho, ?_⟩
      simpa [or_assoc, a] using hd

theorem acOutcome_gone {s : State} {h : Nat} {k : Coll} {x : CollRank} (hcm : s.mod.comm? h = none) :
    s.acOutcome h k x = some (stWdrn, none) := by
  unfold State.acOutcome
  rw [hcm]

/-- A rank whose data and writes are there completes with its outcome. -/
theorem collectiveComplete_eq {h r : Nat} {s : State} {k : Coll} {x : CollRank} {o : Byte × Option (List (Nat × Bool))}
    (hk : s.mod.colls.find? (fun c => c.comm == h && c.ranks.any (fun x => x.rank == r) && !c.doneRanks.contains r) = some k)
    (hx : k.ranks.find? (fun x => x.rank == r) = some x) (hold : s.mod.olderColl x = false)
    (hreach : s.reachAll x.core false (x.send ++ x.recv) = true) (hj : (s.joinAll (x.core / 128)).joinedAll (x.core / 128) = true)
    (ho : (s.joinAll (x.core / 128)).acOutcome h k x = some o) :
    exec (.collectiveComplete h r) s = .next (((s.joinAll (x.core / 128)).draw.acEnd h k x o.1 o.2).updMod Module.sweepColls) := by
  refine congrArg Host.Outcome.next ?_
  show evCollectiveComplete h r s = _
  unfold evCollectiveComplete
  rw [hk]
  dsimp only
  rw [hx]
  dsimp only
  rw [hold, if_neg Bool.false_ne_true, hreach, if_neg (by decide), ho]
  exact if_pos hj

theorem make_tokPending (g : Group) (k : Com) (t : Option (BitVec 4)) : (GCtx.make g k).g.tokPending t = g.tokPending t := by
  have h : (GCtx.make g k).g.toks = g.toks := (congrArg Group.toks (make_beyondHeld g k) :)
  unfold Group.tokPending
  rw [h]

theorem tok_bare (g : Group) (t : Option (BitVec 4)) (n op : Nat) :
    (if n == 0 then g.endTok t .coll op stOk else g.startTok t .coll op).lanes = g.lanes ∧
      (if n == 0 then g.endTok t .coll op stOk else g.startTok t .coll op).final = g.final := by
  unfold Group.endTok Group.startTok
  cases t
  · split <;> exact ⟨rfl, rfl⟩
  · split <;> exact ⟨rfl, Paths.final_congr rfl rfl⟩

/-- Settles O49: a call joins as `joined`; a rank completes with its outcome. -/
theorem collectives : Obligations.Collectives := by
  refine ⟨fun x s gid g cm me => ?_, fun h r s k x hk hx => ?_⟩
  · intro c w sb rb n p h r joins hiss htok hc hsb hrb hrank
    have hjoin (i : Instr) (kind : Nat) (hi : exec i s = issue i x.k (acrs x) (actAcol kind x) s) : joins i kind := by
      intro hsnd hrcv hhost hreach
      obtain ⟨s0, hs0, hact⟩ := actAcol_done (kind := kind) (gid := gid) (x := x) (c := c)
        ((make_tokPending g x.k x.tok).trans htok) hc hsb hrb hrank hsnd hrcv hhost hreach
      let snd := s.chk c.g gid ⟨needR, false, false, w⟩ x.ap sb (acSend kind n p * w)
      let rcv := s.chk c.g gid ⟨needW, false, false, w⟩ x.ap rb (acRecv kind n p * w)
      let y := called kind x gid c s0 p snd.segs rcv.segs
      obtain ⟨hfront, hlen⟩ := called_spec kind x gid c s0 p snd.segs rcv.segs
      obtain ⟨hjf, hseq, k, hk, hcomm, hinst, hmem⟩ := joined_spec s0 cm me h r y
      have hs0seq : s0.mod.collSeq = s.mod.collSeq := (congrArg (fun t : State => t.mod.collSeq) hs0 :)
      have hg : SMap.get? (joined s0 cm me h r y).groups gid = some g := by
        rw [Front.groups_of_front (hjf.trans hfront), (Tier.ledger_fields hs0).1]
        exact hiss.grp
      let u := (joined s0 cm me h r y).withG gid (fun g =>
        if n == 0 then g.endTok x.tok .coll y.2.id stOk else g.startTok x.tok .coll y.2.id)
      have hg1 : SMap.get? u.groups gid =
          some (if n == 0 then g.endTok x.tok .coll y.2.id stOk else g.startTok x.tok .coll y.2.id) :=
        (SMap.get?_upd_same ..).trans (congrArg _ hg)
      obtain ⟨hlanes, hfin⟩ := tok_bare g x.tok n y.2.id
      obtain ⟨g', hg', hfinal, hfixed⟩ := completed_group (s := s) g x.k hg1 (congrArg List.length hlanes)
      have hmod : (completed s gid g x.k u).mod = (joined s0 cm me h r y).mod :=
        (congrArg State.mod (completed_beyondIssue s u gid g x.k) :)
      rw [hs0seq] at hseq hinst
      refine ⟨_, g', k, y.2, exec_of_done hi hiss hact, hg', hfinal.trans hfin, ?_, ?_, ?_, hcomm, hinst, hmem, rfl, rfl, rfl, rfl,
        rfl, hlen, rfl, rfl⟩
      · have htoks : g'.toks = (if n == 0 then g.endTok x.tok .coll y.2.id stOk else g.startTok x.tok .coll y.2.id).toks :=
          (congrArg Group.toks hfixed :)
        simpa only [beq_iff_eq] using htoks
      · rw [hmod]
        exact hseq
      · rw [hmod]
        exact hk
    exact ⟨hjoin _ 0 rfl, hjoin _ 1 rfl, hjoin _ 2 rfl⟩
  · intro s1 ends wait may
    have hrk : x.rank = r := by simpa using List.find?_some hx
    refine ⟨fun hw => ?_, fun ⟨hold, hreach, hj⟩ hcm => ?_, fun cm ⟨hold, hreach, hj⟩ hcm => ?_⟩
    · refine congrArg Host.Outcome.next ?_
      show evCollectiveComplete h r s = _
      unfold evCollectiveComplete
      rw [hk]
      dsimp only
      rw [hx]
      exact if_pos hw
    · exact collectiveComplete_eq hk hx hold hreach hj (acOutcome_gone hcm)
    · obtain ⟨hwdrn, hchg, hps⟩ := acOutcome_spec (x := x) (k := k) hcm
      refine ⟨fun hw => collectiveComplete_eq hk hx hold hreach hj (hwdrn hw), fun hw hc => ?_, fun ps hw hc hp => ?_⟩
      · obtain ⟨st, hst, ho⟩ := hchg hw hc
        exact ⟨st, hst, collectiveComplete_eq hk hx hold hreach hj ho⟩
      · rw [hrk] at hps
        obtain ⟨hall, hbad⟩ := hps ps hw hc hp
        exact ⟨fun ha => collectiveComplete_eq hk hx hold hreach hj (hall ha),
          fun hb => collectiveComplete_eq hk hx hold hreach hj (hbad hb)⟩

end Sys2Proof.Proofs.Collectives
end

section
/-! PROOFS. Continuation objects: `susp`, `resm`, `resm.join`, `ccpy` and `cdsc`. -/

namespace Sys2Proof.Proofs.Continuations
open Sys2Proof Sys2Proof.Machine Sys2Proof.Proofs.Access Sys2Proof.Proofs.Easel Sys2Proof.Proofs.Tokens
  Sys2Proof.Proofs.Barriers

theorem exec_of_jump {i : Instr} {k : Com} {rs : List (Opnd × Nat)} {f : Nat → GCtx → State → Act} {s s' : State} {gid : Nat}
    {g : Group} (hi : exec i s = issue i k rs f s) (h : Issues s gid g k rs) (hf : f gid (GCtx.make g k) s = .jump s') :
    exec i s = .next (jumped s gid g k s') := by
  rw [hi, issue_runs i k rs f s gid g h, hf]
  rfl

-- Reads of an object.

theorem homeRd_front (s : State) (a : Acc) (g : Seg) : Front.front (s.homeRd a g).1 = Front.front s := by
  unfold State.homeRd
  grind [Front.State.msRead_front, Front.State.l1Out_front, Front.State.farWb_front, Front.State.meetAt_front,
    Front.State.holeRead_front, Front.State.l2Use_front, Front.State.homeRead_front, Front.State.cxlMeter_front,
    Front.State.cxlRead_front]

theorem objRead_front (s : State) (a : Acc) (gs : List Seg) : Front.front (s.objRead a gs).1 = Front.front s := by
  refine Front.fst_foldl_front (fun p g => ?_) (s, [], false) _
  exact homeRd_front p.1 a g

theorem owner_tlbFills (s : State) (core : Nat) (es : List TlbE) (ctx : Nat) : (s.tlbFills core es).owner ctx = s.owner ctx := by
  have h : (s.tlbFills core es).ctxs = s.ctxs := (congrArg State.ctxs (Collectives.tlbFills_ledger s core es) :)
  unfold State.owner
  rw [h]

theorem dieReg_tlbFills (s : State) (core : Nat) (es : List TlbE) (d : Nat) :
    (s.tlbFills core es).mod.dieReg d = s.mod.dieReg d := by
  have h : (s.tlbFills core es).mod = s.mod := (congrArg State.mod (Fetch.tlbFills_beyondTlbs s core es).1 :)
  rw [h]

-- `cdsc`.

/-- The checks of an object's header are passed, and the header is read. -/
structure HeaderRead (ap : BitVec 3) (a : Opnd) (gid : Nat) (c : GCtx) (s s0 : State) (gs : List Seg) (es : List TlbE)
    (r : State × List Byte × Bool) : Prop where
  sound : c.consume [(a, 2)] [c.low] = none
  aligned : (c.memOff a ap c.low).toNat % 256 = 0
  passes : s.chk c.g gid ⟨needRW, false, false, 1⟩ ap (c.memOff a ap c.low) 0x80 = .ok gs es
  free : s.hostLines gs = []
  reached : s.reachAll c.g.core true gs = true
  filled : s.tlbFills c.g.core es = s0
  read : s0.objRead (s.accOf c.g 3) gs = r

section Cdsc
variable {ap : BitVec 3} {a : Opnd} {gid : Nat} {c : GCtx} {s s0 : State} {gs : List Seg} {es : List TlbE}
  {r : State × List Byte × Bool}

/-- A poisoned header, or one that fails, raises its trap. -/
theorem actCdsc_fails (h : HeaderRead ap a gid c s s0 gs es r) {t : Trap}
    (ht : (if objPois r.1 gs 0x80 then some ((parseHdr r.2.1).trap 0x0A)
      else (parseHdr r.2.1).check 2 (s.mod.dieReg (c.g.core / 128)) (s.owner c.g.ctx)) = some t) :
    actCdsc ap a gid c s = .trap r.1 t := by
  unfold actCdsc
  rw [h.sound]
  dsimp only
  rw [if_neg (fun hne => bne_iff_ne.mp hne h.aligned), h.passes]
  dsimp only
  rw [h.free, if_neg (by decide), h.reached, if_neg (by decide), h.filled, h.read, ht]

/-- An object whose header passes is discarded. -/
theorem actCdsc_passes (h : HeaderRead ap a gid c s s0 gs es r) (hp : objPois r.1 gs 0x80 = false)
    (ht : (parseHdr r.2.1).check 2 (s.mod.dieReg (c.g.core / 128)) (s.owner c.g.ctx) = none) :
    let b := r.1.objRead (s.accOf c.g 3)
      (s.chk c.g gid ⟨needR, false, false, 1⟩ ap (c.memOff a ap c.low) (0x80 + (parseHdr r.2.1).size)).segs
    actCdsc ap a gid c s =
      .done ((b.1.dropToks c.g.ctx (parseHdr r.2.1) (b.2.1.drop 0x80)).objState (s.accOf c.g 3) gs stDiscarded) := by
  unfold actCdsc
  rw [h.sound]
  dsimp only
  rw [if_neg (fun hne => bne_iff_ne.mp hne h.aligned), h.passes]
  dsimp only
  rw [h.free, if_neg (by decide), h.reached, if_neg (by decide), h.filled, h.read, hp, if_neg Bool.false_ne_true, ht]

end Cdsc

-- `susp`.

/-- What `susp` does once its object's header is read. -/
theorem actSusp_read {sc : Scope} {rights : BitVec 4} {ap : BitVec 3} {a b : Opnd} {gid : Nat} {c : GCtx} {s : State}
    {gs : List Seg} {es : List TlbE} (hcm : c.g.compacted = false) (hin : c.g.inH = false)
    (hc : c.consume [(a, 2), (b, 1)] [c.low] = none) (hal : (c.memOff a ap c.low).toNat % 256 = 0)
    (hk : s.chk c.g gid ⟨needW, false, false, 1⟩ ap (c.memOff a ap c.low) (0x80 + bodySize c.g) = .ok gs es)
    (hcap : 0x80 + bodySize c.g ≤ c.data b c.low 1) (hh : s.hostLines gs = []) (hready : s.suspReady gid c.g sc = true)
    (hr : s.reachAll c.g.core true gs = true) :
    let s1 := (s.tlbFills c.g.core es).updGroup gid (fun g1 => g1.settleResults)
    let ac := s1.accOf c.g 3
    let r := s1.objRead ac (subSegs gs 0 0x80)
    let h := parseHdr r.2.1
    let s2 := r.1.fence c.g sc suspSet 0
    actSusp sc rights ap a b gid c s =
      if objPois r.1 gs 0x20 then .trap r.1 (h.trap 0x0A)
      else if !s2.fenceSent c.g sc suspSet then .wait (s2.askHost s2.heldUpd) .susp
      else if h.state == stSusp || h.state == stResuming then .trap r.1 (h.trap 8)
      else
        let g := { ((SMap.get? s2.groups gid).getD c.g).advance c.run c.k with prog := 0 }
        let hd := objHeader g 0 ((h.gen + 1) % 2 ^ 64) stSusp rights.toNat (s2.mod.dieReg (g.core / 128))
          (s2.owner g.ctx) (c.data b c.low 1) (crc64 (objBody g))
        .jump (((s2.objWrite ac gs (hd ++ objBody g)).holdToks g.ctx sc g).suspLeave gid g) := by
  unfold actSusp
  rw [hcm, if_neg Bool.false_ne_true, hin, if_neg Bool.false_ne_true, hc]
  dsimp only
  rw [if_neg (fun hne => bne_iff_ne.mp hne hal), hk]
  dsimp only
  rw [if_neg (Nat.not_lt.mpr hcap), hh, if_neg (by decide), hready, if_neg (by decide), hr, if_neg (by decide)]
  rfl

-- `resm`.

section Resm
variable {join : Bool} {sc : Scope} {ap pD : BitVec 3} {a : Opnd} {gid : Nat} {c : GCtx} {s s0 : State} {gs : List Seg}
  {es : List TlbE} {r : State × List Byte × Bool}

/-- A header that fails raises its trap. -/
theorem actResm_fails (h : HeaderRead ap a gid c s s0 gs es r) {t : Trap}
    (ht : (parseHdr r.2.1).check 0 (s0.mod.dieReg (c.g.core / 128)) (s0.owner c.g.ctx) = some t) :
    actResm join sc ap pD a gid c s = .trap r.1 (if objPois r.1 gs 0x80 then (parseHdr r.2.1).trap 0x0A else t) := by
  unfold actResm
  rw [h.sound]
  dsimp only
  rw [if_neg (fun hne => bne_iff_ne.mp hne h.aligned), h.passes]
  dsimp only
  rw [h.free, if_neg (by decide), h.reached, if_neg (by decide), h.filled, h.read, ht]

/-- A header that passes, in a team: the object is loaded, where there is room. -/
theorem actResm_passes (h : HeaderRead ap a gid c s s0 gs es r) {t : Team}
    (ht : (parseHdr r.2.1).check 0 (s0.mod.dieReg (c.g.core / 128)) (s0.owner c.g.ctx) = none)
    (htm : SMap.get? s0.teams c.g.team = some t) :
    (join = true → s0.spareSlot c.g.team = none →
      actResm join sc ap pD a gid c s = .done (r.1.commit gid (Out.of (c.wrP pD c.low false)))) ∧
    (∀ gs1 es1 s2 q, (join = true →
        (s0.spareSlot c.g.team).isSome = true ∧ (parseHdr r.2.1).vbud ≤ t.maxBud ∧ (parseHdr r.2.1).sregs ≤ t.sregs) →
      s0.chk c.g gid ⟨needRW, false, false, 1⟩ ap (c.memOff a ap c.low) (0x80 + (parseHdr r.2.1).size) = .ok gs1 es1 →
      (r.1.tlbFills c.g.core es1).handOff c.g sc = s2 → s2.objRead (s.accOf c.g 3) gs1 = q →
      s2.handedOff c.g sc = true → s2.reachAll c.g.core true gs1 = true → q.2.2 = false →
      crc64 (q.2.1.drop 0x80) = (parseHdr r.2.1).crc →
      let s3 := q.1.commit gid (Out.of (c.wrP pD c.low true))
      actResm join sc ap pD a gid c s = .done ((if join then
          s3.loadJoined c sc (parseHdr r.2.1) (q.2.1.drop 0x80) ((s0.spareSlot c.g.team).getD 0) t
        else s3.loadDetached c sc (parseHdr r.2.1) (q.2.1.drop 0x80)).objState (s.accOf c.g 3) gs1 stConsumed)) := by
  unfold actResm
  rw [h.sound]
  dsimp only
  rw [if_neg (fun hne => bne_iff_ne.mp hne h.aligned), h.passes]
  dsimp only
  rw [h.free, if_neg (by decide), h.reached, if_neg (by decide), h.filled, h.read, ht, htm]
  dsimp only
  refine ⟨fun hj hs => ?_, fun gs1 es1 s2 q hroom hk hs2 hq hho hre hp hcrc => ?_⟩
  · exact if_pos (by rw [hj, hs]; rfl)
  · have h1 : ¬ ((join && (s0.spareSlot c.g.team).isNone) = true) := by
      intro hn
      obtain ⟨hj, hn⟩ := Bool.and_eq_true_iff.mp hn
      rw [Option.isNone_iff_eq_none.mp hn] at hroom
      cases (hroom hj).1
    have h2 : ¬ ((join && (decide (t.maxBud < (parseHdr r.2.1).vbud) || decide (t.sregs < (parseHdr r.2.1).sregs))) = true) := by
      intro hn
      obtain ⟨hj, hn⟩ := Bool.and_eq_true_iff.mp hn
      obtain ⟨-, hb, hs⟩ := hroom hj
      simp only [Bool.or_eq_true, decide_eq_true_eq] at hn
      omega
    rw [if_neg h1, if_neg h2, hk]
    dsimp only
    rw [hs2, hq, hho, hre, if_neg (by decide), hp, if_neg (by simpa using hcrc)]

end Resm

-- `ccpy`.

/-- The checks that `ccpy` makes of both objects before it reads them are passed. -/
structure Copies (sap dap : BitVec 3) (a b cc : Opnd) (gid : Nat) (c : GCtx) (s s1 : State) (gs dgs : List Seg)
    (es des : List TlbE) (r : State × List Byte × Bool) : Prop where
  sound : c.consume [(a, 2), (b, 2), (cc, 1)] [c.low] = none
  begins : c.g.wait ≠ .ccpy
  target : (c.memOff a dap c.low).toNat % 256 = 0
  source : (c.memOff b sap c.low).toNat % 256 = 0
  passes : s.chk c.g gid ⟨needRW, false, false, 1⟩ sap (c.memOff b sap c.low) 0x80 = .ok gs es
  places : s.chk c.g gid ⟨needRW, false, false, 1⟩ dap (c.memOff a dap c.low) 0x80 = .ok dgs des
  free : s.hostLines (gs ++ dgs) = []
  reached : s.reachAll c.g.core true (gs ++ dgs) = true
  filled : s.tlbFills c.g.core (es ++ des) = s1
  read : s1.objRead (s.accOf c.g 3) gs = r
  clean : objPois r.1 gs 0x80 = false

section Ccpy
variable {rights : BitVec 4} {sap dap : BitVec 3} {a b cc : Opnd} {gid : Nat} {c : GCtx} {s s1 : State} {gs dgs : List Seg}
  {es des : List TlbE} {r : State × List Byte × Bool}

theorem back_eq (s : State) (a : Acc) (gs : List Seg) (st : Nat) : (if gs.isEmpty then s else s.objState a gs st) = s.objState a gs st := by
  cases gs <;> rfl

/-- A header that fails raises its trap. -/
theorem actCcpy_fails (h : Copies sap dap a b cc gid c s s1 gs dgs es des r) {t : Trap}
    (ht : (parseHdr r.2.1).check 1 (s1.mod.dieReg (c.g.core / 128)) (s1.owner c.g.ctx) = some t) :
    actCcpy rights sap dap a b cc gid c s = .trap r.1 t := by
  have hmine : (c.g.wait == Wait.ccpy) = false := beq_eq_false_iff_ne.mpr h.begins
  unfold actCcpy
  rw [h.sound]
  dsimp only
  rw [if_neg (fun hne => bne_iff_ne.mp hne h.target), if_neg (fun hne => bne_iff_ne.mp hne h.source), h.passes, h.places, hmine]
  have hlanes : chkLanes [Chk.ok gs es, .ok dgs des] = .ok (gs ++ dgs) (es ++ des) := by simp [chkLanes]
  rw [hlanes]
  dsimp only [Chk.segs]
  rw [h.free, if_neg (by decide), h.reached, if_neg (by decide), h.filled]
  simp only [Bool.false_and, Bool.false_eq_true, if_false, h.read, h.clean, ht]

/-- A header that passes, over an object that may be written: the copy waits for its tokens, or is written. -/
theorem actCcpy_passes (h : Copies sap dap a b cc gid c s s1 gs dgs es des r) {q v : State × List Byte × Bool}
    {bgs dbs : List Seg} {bes dbe : List TlbE}
    (ht : (parseHdr r.2.1).check 1 (s1.mod.dieReg (c.g.core / 128)) (s1.owner c.g.ctx) = none)
    (hq : (r.1.objState (s.accOf c.g 3) gs stResuming).objRead (s.accOf c.g 3) dgs = q) (hqp : objPois q.1 dgs 0x20 = false)
    (hd1 : (parseHdr q.2.1).state ≠ stSusp) (hd2 : (parseHdr q.2.1).state ≠ stResuming)
    (hcap : 0x80 + (parseHdr r.2.1).size ≤ c.data cc c.low 1)
    (hb : s1.chk c.g gid ⟨needRW, false, false, 1⟩ sap (c.memOff b sap c.low) (0x80 + (parseHdr r.2.1).size) = .ok bgs bes)
    (hdb : s1.chk c.g gid ⟨needRW, false, false, 1⟩ dap (c.memOff a dap c.low) (0x80 + (parseHdr r.2.1).size) = .ok dbs dbe)
    (hfree : s1.hostLines (bgs ++ dbs) = []) (hreach : s1.reachAll c.g.core true (bgs ++ dbs) = true)
    (hv : (q.1.tlbFills c.g.core (bes ++ dbe)).objRead (s.accOf c.g 3) bgs = v) (hvp : v.2.2 = false)
    (hcrc : crc64 (v.2.1.drop 0x80) = (parseHdr r.2.1).crc) :
    let ts := bodyToks (parseHdr r.2.1) (v.2.1.drop 0x80)
    actCcpy rights sap dap a b cc gid c s =
      if ts.any (fun t => t.pending && (s1.tokFound c.g.ctx t).isNone) then .wait v.1 .ccpy
      else .done ((v.1.objWrite (s.accOf c.g 3) dbs (copyObj v.2.1 (parseHdr r.2.1) (doneEntries s1 c.g.ctx ts)
        ((max (parseHdr r.2.1).gen (parseHdr q.2.1).gen + 1) % 2 ^ 64) ((parseHdr r.2.1).rights &&& rights.toNat)
        (s1.mod.dieReg (c.g.core / 128)) (c.data cc c.low 1))).objState (s.accOf c.g 3) gs stSusp) := by
  intro ts
  have hmine : (c.g.wait == Wait.ccpy) = false := beq_eq_false_iff_ne.mpr h.begins
  have hlanes (gs dgs : List Seg) (es des : List TlbE) :
      chkLanes [Chk.ok gs es, .ok dgs des] = .ok (gs ++ dgs) (es ++ des) := by simp [chkLanes]
  unfold actCcpy
  rw [h.sound]
  dsimp only
  rw [if_neg (fun hne => bne_iff_ne.mp hne h.target), if_neg (fun hne => bne_iff_ne.mp hne h.source), h.passes, h.places, hmine,
    hlanes]
  dsimp only [Chk.segs]
  rw [h.free, if_neg (by decide), h.reached, if_neg (by decide), h.filled]
  simp only [Bool.false_and, Bool.false_eq_true, if_false, h.read, h.clean, ht, hq, hqp]
  rw [if_neg (by simp [hd1, hd2]), if_neg (Nat.not_lt.mpr hcap), hb, hdb, hlanes]
  dsimp only
  rw [hfree, if_neg (by decide), hreach, if_neg (by decide), hv, hvp, if_neg (by simpa using hcrc), back_eq]

end Ccpy

/-- A group that leaves keeps its core and context. -/
theorem leaving_core (g : Group) (m : Word) (k : Com) :
    (g.settleResults.advance m k).core = g.core ∧ (g.settleResults.advance m k).ctx = g.ctx := by
  have hres := TrapEntry.settleResults_beyondResults g
  have hadv : ({ g.settleResults.advance m k with lanes := [] } : Group) = { g.settleResults with lanes := [] } :=
    Group.mapMask_keeps ..
  have hcore1 : g.settleResults.core = g.core := (congrArg Group.core hres :)
  have hctx1 : g.settleResults.ctx = g.ctx := (congrArg Group.ctx hres :)
  have hcore2 : (g.settleResults.advance m k).core = g.settleResults.core := (congrArg Group.core hadv :)
  have hctx2 : (g.settleResults.advance m k).ctx = g.settleResults.ctx := (congrArg Group.ctx hadv :)
  exact ⟨hcore2.trans hcore1, hctx2.trans hctx1⟩

/-- Settles O52: each form by what it does once the headers it needs are read. -/
theorem continuations : Obligations.Continuations := by
  intro k s gid g c ac sp die
  have hcore : c.g.core = g.core := make_core g k
  refine ⟨fun sc rights ap a b gs es => ?_, fun a ap gs es hc => ?_⟩
  · intro off size cap h hcm hin hc hal hk hcap hh hready hr s1 at' r hd s2
    have hread := actSusp_read (sc := sc) (rights := rights) (ap := ap) (gid := gid) (c := c) hcm hin hc hal hk hcap hh hready hr
    refine ⟨fun hp => ?_, fun hp hsent hst1 hst2 => ?_⟩
    · exact exec_of_trap (i := .susp k sc rights ap a b) rfl h (hread.trans (if_pos hp))
    · intro g1 hdr
      have hgrp : SMap.get? s2.groups gid = some g.settleResults := by
        have hf : Front.front s2 = Front.front s1 := (Front.State.fence_front ..).trans (objRead_front ..)
        have hs1 : SMap.get? s1.groups gid = (SMap.get? (s.tlbFills c.g.core es).groups gid).map (fun g1 => g1.settleResults) :=
          SMap.get?_upd_same ..
        have htlb : (s.tlbFills c.g.core es).groups = s.groups :=
          (congrArg State.groups (Fetch.tlbFills_beyondTlbs s c.g.core es).1 :)
        rw [Front.groups_of_front hf, hs1, htlb, h.grp]
        rfl
      obtain ⟨hcore1, hctx1⟩ := leaving_core g c.run k
      have hctx : c.g.ctx = g.ctx := (congrArg Group.ctx (make_beyondHeld g k) :)
      have hg1core : g1.core = c.g.core := hcore1.trans hcore.symm
      have hg1ctx : g1.ctx = c.g.ctx := hctx1.trans hctx.symm
      refine exec_of_jump (i := .susp k sc rights ap a b) rfl h (hread.trans ?_)
      refine (if_neg (Bool.eq_false_iff.mp hp)).trans ((if_neg (Bool.eq_false_iff.mp (by rw [hsent]; rfl))).trans
        ((if_neg (Bool.eq_false_iff.mp (Bool.or_eq_false_iff.mpr ⟨beq_eq_false_iff_ne.mpr hst1, beq_eq_false_iff_ne.mpr hst2⟩))).trans
          ?_))
      rw [hgrp]
      show Act.jump (((s2.objWrite at' gs (objHeader g1 0 ((hd.gen + 1) % 2 ^ 64) stSusp rights.toNat
        (s2.mod.dieReg (g1.core / 128)) (s2.owner g1.ctx) cap (crc64 (objBody g1)) ++ objBody g1)).holdToks g1.ctx sc g1).suspLeave
          gid g1) = _
      rw [hg1core, hg1ctx]
  · intro off hal hk hh hr s0 r hd owner
    have hown : s0.owner c.g.ctx = s.owner c.g.ctx := owner_tlbFills ..
    have hdie : s0.mod.dieReg (c.g.core / 128) = die := dieReg_tlbFills ..
    have hres : HeaderRead ap a gid c s s0 gs es r := ⟨hc, hal, hk, hh, hr, rfl, rfl⟩
    refine ⟨fun h => ⟨fun hp => ?_, fun t hp ht => ?_, fun hp ht => ?_, fun sc pD t ht => ?_, fun sc pD join t gs1 es1 htm ht => ?_⟩,
      fun cc rights dap dgs des bgs bes dbs dbe capR => ?_⟩
    · exact exec_of_trap (i := .cdsc k ap a) rfl h (actCdsc_fails hres (if_pos hp))
    · have ht' : hd.check 2 die (s.owner c.g.ctx) = some t := hown ▸ ht
      exact exec_of_trap (i := .cdsc k ap a) rfl h (actCdsc_fails hres ((if_neg (Bool.eq_false_iff.mp hp)).trans ht'))
    · have ht' : hd.check 2 die (s.owner c.g.ctx) = none := hown ▸ ht
      exact exec_of_done (i := .cdsc k ap a) rfl h (actCdsc_passes hres hp ht')
    · rw [← hdie] at ht
      exact ⟨exec_of_trap (i := .resm k sc ap pD a) rfl h (actResm_fails hres ht),
        exec_of_trap (i := .resmJoin k sc ap pD a) rfl h (actResm_fails hres ht)⟩
    · intro p slot s2 q body
      rw [← hdie] at ht
      have hteams : s0.teams = s.teams := (congrArg State.teams (Fetch.tlbFills_beyondTlbs s c.g.core es).1 :)
      rw [← hteams] at htm
      refine ⟨fun hs => ?_, fun hroom hk1 hho hre hqp hcrc => ⟨fun hj => ?_, fun hj => ?_⟩⟩
      · exact exec_of_done (i := .resmJoin k sc ap pD a) rfl h ((actResm_passes hres ht htm).1 rfl hs)
      · subst hj
        exact exec_of_done (i := .resm k sc ap pD a) rfl h
          ((actResm_passes hres ht htm).2 gs1 es1 s2 q hroom hk1 rfl rfl hho hre hqp hcrc)
      · subst hj
        exact exec_of_done (i := .resmJoin k sc ap pD a) rfl h
          ((actResm_passes hres ht htm).2 gs1 es1 s2 q hroom hk1 rfl rfl hho hre hqp hcrc)
    · intro dof h hw hc2 hdal hdk hdh hdr s1 r hd q d cap
      have hwait : c.g.wait ≠ .ccpy := by
        rw [show c.g.wait = g.wait from (congrArg Group.wait (make_beyondHeld g k) :)]
        exact hw
      have hown1 : s1.mod.dieReg (c.g.core / 128) = die := dieReg_tlbFills ..
      have hcopy (hp : objPois r.1 gs 0x80 = false) : Copies ap dap cc a capR gid c s s1 gs dgs es des r :=
        ⟨hc2, hwait, hdal, hal, hk, hdk, hdh, hdr, rfl, rfl, hp⟩
      refine ⟨fun t hp ht => ?_, fun hp ht hqp hd1 hd2 hcap hb hdb hfree hreach => ?_⟩
      · rw [← hown1] at ht
        exact exec_of_trap (i := .ccpy k rights ap dap cc a capR) rfl h (actCcpy_fails (hcopy hp) ht)
      · intro v body hvp hcrc
        have hdie1 : die = s1.mod.dieReg (c.g.core / 128) := hown1.symm
        rw [hdie1] at ht ⊢
        have hact := actCcpy_passes (rights := rights) (hcopy hp) ht rfl hqp hd1 hd2 hcap hb hdb hfree hreach rfl hvp hcrc
        refine ⟨fun hx => ?_, fun hx => ?_⟩
        · refine exec_of_wait (i := .ccpy k rights ap dap cc a capR) rfl h (hact.trans (if_pos ?_))
          obtain ⟨e, he, hpend, hnone⟩ := hx
          exact List.any_eq_true.mpr ⟨e, he, by rw [hpend, hnone]; rfl⟩
        · refine exec_of_done (i := .ccpy k rights ap dap cc a capR) rfl h (hact.trans (if_neg ?_))
          simp only [List.any_eq_true, not_exists, not_and, Bool.and_eq_true, Option.isNone_iff_eq_none]
          exact hx

end Sys2Proof.Proofs.Continuations
end

section
/-! PROOFS. What befalls a group beside its instructions: results, errors, and its end. -/

namespace Sys2Proof.Proofs.GroupEvents
open Sys2Proof Sys2Proof.Machine

-- Results.

theorem returnResult_regs {g : Group} {idx : Nat} {w : List RegW} (m : Word) (h : g.pend[idx]? = some w) :
    (g.returnResult idx m).regs = (w.filter (fun x => match x with
      | .v l _ _ | .p l _ _ => inMask m l
      | .s .. => true
      | .o .. => false)).foldl RegW.onRegs g.regs := by
  unfold Group.returnResult
  rw [h]
  exact Group.regs_applyAll _ g

-- Errors in registers.

/-- A scalar register that an uncorrected error meets is poisoned. -/
theorem poisonReg_scalar {g : Group} (n : Fin 60) (h : SMap.wf Image.zero g.s = true) :
    (g.poisonReg (.s n) 0).sImg n.val = { g.sImg n.val with p := true } :=
  SMap.getD_set_same Image.zero g.s n.val { g.sImg n.val with p := true } h

-- Errors in memory.

theorem testBit_marked (p : Nat) {v i : Nat} (h : v.testBit i = true) : (p ||| (v &&& 2 ^ i)).testBit i = true := by
  simp [Nat.testBit_or, Nat.testBit_and, h]

/-- A unit that L2 has written since is superseded there. -/
theorem memErr_written {s : State} {d u : Nat} {l : L2Line} (hl : SMap.get? (s.die d).l2 (u / 8) = some l)
    (hw : l.wr.testBit (u % 8) = true) : s.memErr d u = s := by
  unfold State.memErr
  dsimp only
  rw [hl]
  refine if_pos (bne_iff_ne.mpr fun h0 => ?_)
  have h1 := congrArg (fun n : Nat => n.testBit (u % 8)) h0
  simp [Nat.testBit_and, Nat.testBit_or, hw] at h1

/-- A unit that neither level holds is poisoned. -/
theorem memErr_poisons {s : State} {d u : Nat} (hl : SMap.get? (s.die d).l2 (u / 8) = none)
    (hm : ∀ x ∈ (s.die d).msc, x.2.line ≠ u / 8) (hp : SMap.wf false s.poison = true) : (s.memErr d u).unitP u = true := by
  have hfind : (s.die d).msc.find? (fun e => e.2.line == u / 8) = none :=
    List.find?_eq_none.mpr fun x hx => by simpa using hm x hx
  have hset : SMap.getD (SMap.set s.poison false u true) false u = true := SMap.getD_set_same _ _ _ _ hp
  unfold State.memErr
  dsimp only
  rw [hl, hfind, if_neg (by simp)]
  exact Bool.or_eq_true_iff.mpr (.inl hset)

/-- A unit that L2 holds is poisoned there. -/
theorem unitErr_l2 {s : State} {d u : Nat} {l : L2Line} (hd : s.mod.place (32 * u) = .die d)
    (hl : SMap.get? (s.die d).l2 (u / 8) = some l) (hv : l.val.testBit (u % 8) = true) : (s.unitErr u .l2).unitP u = true := by
  have herr : s.unitErr u .l2 = s.updDie d (fun x => { x with
      l2 := SMap.upd x.l2 (u / 8) (fun l => { l with p := l.p ||| (l.val &&& 2 ^ (u % 8)) }) }) := by
    unfold State.unitErr
    rw [hd]
  have hmod (f : Die → Die) : (s.updDie d f).mod = s.mod := rfl
  rw [herr]
  unfold State.unitP
  rw [hmod, hd]
  refine Bool.or_eq_true_iff.mpr (.inr ?_)
  dsimp only
  rw [Records.die_updDie, if_pos rfl]
  dsimp only
  rw [SMap.get?_upd_same, hl]
  exact testBit_marked _ hv

theorem unitErr_l1 (s : State) (u cn : Nat) : s.unitErr u (.l1 cn) =
    s.updCore cn (fun x => { x with l1 := SMap.upd x.l1 (u / 8) (Line.mark u) }) := by
  unfold State.unitErr
  cases s.mod.place (32 * u) <;> rfl

/-- What an error poisons is no group. -/
theorem unitErr_front (s : State) (u : Nat) (e : ErrLoc) : Front.front (s.unitErr u e) = Front.front s := by
  have hmem (d : Nat) : Front.front (s.memErr d u) = Front.front s := by
    unfold State.memErr
    dsimp only
    split <;> rfl
  unfold State.unitErr
  split
  case h_1 => exact hmem _
  all_goals rfl

/-- What a record of an error leaves. -/
theorem relRec_keeps (s : State) (src sev d unit ctx loc : Nat) :
    (s.relRec src sev d unit ctx loc).groups = s.groups ∧
      (∀ pa, (s.relRec src sev d unit ctx loc).mod.place pa = s.mod.place pa) ∧
      (∀ pa, stackOf (s.relRec src sev d unit ctx loc).mod pa = stackOf s.mod pa) ∧
      ∀ line, bankRow (s.relRec src sev d unit ctx loc).mod line = bankRow s.mod line := by
  have h := Ledger.State.relRec_ledger s src sev d unit ctx loc
  have hm : ({ (s.relRec src sev d unit ctx loc).mod with out := [], backInvs := [], rltail := 0 } : Module) =
      { s.mod with out := [], backInvs := [], rltail := 0 } := (congrArg State.mod h :)
  exact ⟨(Tier.ledger_fields h).1, fun pa => (congrArg (fun m : Module => m.place pa) hm :),
    fun pa => (congrArg (fun m : Module => stackOf m pa) hm :), fun line => (congrArg (fun m : Module => bankRow m line) hm :)⟩

theorem unitErr_mod (s : State) (u : Nat) (e : ErrLoc) : (s.unitErr u e).mod = s.mod := by
  have hmem (d : Nat) : (s.memErr d u).mod = s.mod := by
    unfold State.memErr
    dsimp only
    split <;> rfl
  unfold State.unitErr
  split
  case h_1 => exact hmem _
  all_goals rfl

theorem corrected_keeps (s : State) (cl : Nat) (c : Bool) : { s.corrected cl c with clusters := s.clusters } = s := by
  unfold State.corrected
  dsimp only
  split <;> rfl

/-- A stack that accounts for an error in a row. -/
def rowErr (corrected : Bool) (row : Nat) (x : Stack) : Stack :=
  if corrected then { x with rowCorr := SMap.put x.rowCorr row (SMap.getD x.rowCorr 0 row + 1) }
  else { x with rowBad := if x.rowBad.contains row then x.rowBad else x.rowBad ++ [row] }

theorem mem_rowErr (row : Nat) (x : Stack) : row ∈ (rowErr false row x).rowBad := by
  show row ∈ if x.rowBad.contains row then x.rowBad else x.rowBad ++ [row]
  split
  · next h => exact List.contains_iff_mem.mp h
  · exact List.mem_append_right _ (List.mem_singleton.mpr rfl)

theorem updStack_same (s : State) (k : Nat) (f : Stack → Stack) : (s.updStack k f).stack k = f (s.stack k) :=
  (Records.stack_setStack s k k _).trans (if_pos rfl)

/-- An error in a unit that a store holds: the record, and the account of its row. -/
theorem memoryUnitError_eq {s : State} {pa : Nat} {e : UnitErr} (h : s.holdsUnit (pa / 32) e.loc = true) :
    let r := s.errUnit pa e.loc
    let s1 := (if e.corrected then s else s.unitErr (pa / 32) e.loc).relRec r.1 (errSev e.corrected) r.2.1 r.2.2 0 pa
    let k := stackOf s.mod pa
    let row := rowKey (bankRow s.mod k.2)
    (∃ t, evMemoryUnitError pa e s = t ∧ t.mem = s1.mem ∧ t.poison = s1.poison ∧ t.groups = s1.groups) ∧
      ∀ d, e.loc = .memory → s.mod.place pa = .die d → evMemoryUnitError pa e s = s1.updStack k.1
        (rowErr e.corrected row) := by
  intro r s1 k row
  have hs1 : (∀ p, s1.mod.place p = s.mod.place p) ∧ stackOf s1.mod pa = k ∧ rowKey (bankRow s1.mod k.2) = row := by
    obtain ⟨-, hplace, hstack, hbank⟩ := relRec_keeps (if e.corrected then s else s.unitErr (pa / 32) e.loc) r.1
      (errSev e.corrected) r.2.1 r.2.2 0 pa
    have hmod : (if e.corrected then s else s.unitErr (pa / 32) e.loc).mod = s.mod := by
      split
      · rfl
      · exact unitErr_mod ..
    rw [hmod] at hplace hstack hbank
    exact ⟨hplace, hstack pa, congrArg rowKey (hbank _)⟩
  obtain ⟨hplace, hstack, hrow⟩ := hs1
  have hev : evMemoryUnitError pa e s = (match e.loc, s1.mod.place pa with
      | .memory, .die _ => s1.updStack (stackOf s1.mod pa).1 (rowErr e.corrected (rowKey (bankRow s1.mod (stackOf s1.mod pa).2)))
      | .l1 c, _ => s1.corrected (c / 4) e.corrected
      | _, _ => s1) := by
    unfold evMemoryUnitError
    rw [h]
    rfl
  rw [hev, hplace, hstack, hrow]
  refine ⟨⟨_, rfl, ?_⟩, fun d hloc hd => ?_⟩
  · split
    · exact ⟨rfl, rfl, rfl⟩
    · next c _ =>
      have q := corrected_keeps s1 (c / 4) e.corrected
      exact ⟨(congrArg State.mem q :), (congrArg State.poison q :), (congrArg State.groups q :)⟩
    · exact ⟨rfl, rfl, rfl⟩
  · rw [hloc, hd]

/-- Settles O53: each event by its equation. -/
theorem groupEvents : Obligations.GroupEvents := by
  intro s gid g hg sev recd ctxOf
  refine ⟨fun idx m hr => ?_, fun idx m w hr hw => ?_, fun part h0 h7 => ⟨?_, fun num => ?_⟩, fun r lane c hreg hrange hl => ?_,
    fun n hwf => poisonReg_scalar n hwf, fun pa e he => ?_, fun pa e he => ?_, fun u d hd => ⟨fun l hl hw => ?_, fun hl hm hp => ?_,
      fun l hl hv => unitErr_l2 hd hl hv⟩, fun u cn => ?_, fun team cid idx c cv t hcv ht hteam => ?_,
    fun team addr c t ht ha hsh => ?_, fun hr => ?_, fun hr => ?_⟩
  · refine congrArg Host.Outcome.next ?_
    unfold evResultReturn
    rw [hg]
    exact if_pos hr
  · have hret : evResultReturn gid idx m s = s.updGroup gid (fun g => g.returnResult idx m) := by
      unfold evResultReturn
      rw [hg]
      exact if_neg (Bool.eq_false_iff.mp hr)
    refine ⟨g.returnResult idx m, congrArg Host.Outcome.next (hret.trans ?_), returnResult_regs m hw⟩
    exact congrArg (fun m => { s with groups := m }) (Records.upd_of_get? _ hg)
  · refine congrArg Host.Outcome.next ?_
    unfold evGroupStateLost
    rw [hg]
    exact if_neg (by simpa using ⟨h0, h7⟩)
  · intro src
    have hsrc : lostSrc part num = src := by simp [lostSrc, src, or_assoc]
    refine congrArg Host.Outcome.next ?_
    unfold evGroupStateLost
    rw [hg]
    dsimp only
    rw [if_neg (by simpa using ⟨h0, h7⟩), hsrc]
    rfl
  · refine congrArg Host.Outcome.next ?_
    unfold evRegfileError
    rw [hg]
    dsimp only
    rw [hreg, hrange, if_neg (by simpa using hl)]
    rfl
  · refine congrArg Host.Outcome.next ?_
    unfold evMemoryUnitError
    rw [he]
    rfl
  · intro u r
    obtain ⟨⟨t, ht, hmem, hpois, hgrp⟩, hrow⟩ := memoryUnitError_eq he
    have hgroups : t.groups = s.groups := by
      rw [hgrp, (relRec_keeps ..).1]
      split
      · rfl
      · exact Front.groups_of_front (unitErr_front ..)
    refine ⟨_, t, congrArg Host.Outcome.next ht, rfl, hmem, hpois, hgroups, fun d hloc hd hc => ?_, fun d hloc hd hc => ?_⟩
    · rw [← ht, hrow d hloc hd, hc]
      rfl
    · rw [← ht, hrow d hloc hd, hc]
      intro k
      rw [updStack_same]
      exact mem_rowErr ..
  · unfold State.unitErr
    rw [hd]
    exact memErr_written hl hw
  · have herr : s.unitErr u .memory = s.memErr d u := by
      unfold State.unitErr
      rw [hd]
    rw [herr]
    exact memErr_poisons hl hm hp
  · rw [unitErr_l1]
    refine ⟨rfl, ?_⟩
    rw [Records.core_updCore, if_pos rfl]
    exact SMap.get?_upd_same ..
  · intro n i hi
    refine congrArg Host.Outcome.next ?_
    unfold evCanvasEntryError
    rw [hcv, ht]
    dsimp only
    rw [hteam, if_neg (by simpa using hi)]
    cases c <;> rfl
  · refine congrArg Host.Outcome.next ?_
    unfold evTeamStoreError
    rw [ht]
    dsimp only
    rw [hsh, if_neg (by simpa using ha)]
    cases c <;> rfl
  · refine congrArg Host.Outcome.next ?_
    unfold evGroupRetire
    rw [hg]
    exact if_pos hr
  · refine congrArg Host.Outcome.next ?_
    unfold evGroupRetire
    rw [hg]
    exact if_neg (Bool.eq_false_iff.mp hr)

end Sys2Proof.Proofs.GroupEvents
end

section
/-! PROOFS. Request packets. -/

namespace Sys2Proof.Proofs.Packets
open Sys2Proof Sys2Proof.Machine

-- What takes a packet.

section Packet
variable {s : State} {kind v die q : Nat} {w : NotifyWr} {act : State → Nat → Nat → Nat → Pkt → State}

theorem packet_off (h : s.full = false) : s.packet true kind w act = s := by
  unfold State.packet
  rw [h]
  rfl

/-- A packet of a kind that decodes is taken, or left. -/
theorem packet_ok (hf : s.full = true) (hn : s.notify w = .ok v die q) (hk : (parsePkt w.bytes).kind = kind) :
    s.packet true kind w act =
      if !(s.takePkt true v w).2 then (s.takePkt true v w).1
      else ((s.takePkt true v w).1.ctTier v).elim (act (s.takePkt true v w).1 v die q (parsePkt w.bytes))
        (fun o => ((s.takePkt true v w).1.awaitTier v o).putBack v w) := by
  unfold State.packet
  dsimp only
  rw [hf, if_neg (by decide), hn]
  dsimp only
  rw [hk, if_neg (by simp)]
  congr 1
  cases (s.takePkt true v w).1.ctTier v <;> rfl

/-- A packet that is taken acts. -/
theorem packet_taken (hf : s.full = true) (hn : s.notify w = .ok v die q) (hk : (parsePkt w.bytes).kind = kind)
    (ht : s.takePkt true v w = (s, true)) (hc : s.ctTier v = none) :
    s.packet true kind w act = act s v die q (parsePkt w.bytes) := by
  rw [packet_ok hf hn hk, ht]
  show (s.ctTier v).elim _ _ = _
  rw [hc]
  rfl

theorem takePkt_reset (h : (s.vd v).reset ≠ 0) : s.takePkt true v w = (s, false) := by
  unfold State.takePkt
  exact if_pos (bne_iff_ne.mpr h)

theorem takePkt_busy (h : (s.vd v).reset = 0) (hb : (s.vd v).saving = true ∨ ∃ x ∈ (s.vd v).queued, sameQueue w x = true) :
    s.takePkt true v w = (s.updVd v (fun d => { d with queued := d.queued ++ [w] }), false) := by
  unfold State.takePkt
  dsimp only
  rw [if_neg (by simp [h]), if_pos]
  · rfl
  · obtain hb | ⟨x, hx, hq⟩ := hb
    · rw [hb]
      rfl
    · have hall : (s.vd v).queued.all (fun x => !sameQueue w x) = false := List.all_eq_false.mpr ⟨x, hx, by simp [hq]⟩
      rw [if_pos rfl, hall, Bool.not_false, Bool.or_true]

theorem takePkt_free (h : (s.vd v).reset = 0) (hb : ¬ ((s.vd v).saving = true ∨ ∃ x ∈ (s.vd v).queued, sameQueue w x = true)) :
    s.takePkt true v w = (s, true) := by
  obtain ⟨hs, hq⟩ := not_or.mp hb
  have hall : (s.vd v).queued.all (fun x => !sameQueue w x) = true := by
    refine List.all_eq_true.mpr fun x hx => ?_
    rw [Bool.not_eq_true']
    exact Bool.eq_false_iff.mpr fun h => hq ⟨x, hx, h⟩
  unfold State.takePkt
  dsimp only
  rw [if_neg (by simp [h]), if_neg]
  · rfl
  · rw [if_pos rfl, hall, Bool.eq_false_iff.mpr hs]
    decide

end Packet

-- LAUNCH.

/-- A launch that is admitted is a grid of its record; one that fails a check has nothing to run. -/
theorem acceptLaunch_ok {s s3 : State} {ctx die q i : Nat} {seq : Word} {addr : DWord} {aper : Half} {b : List Byte} {bad : Bool}
    (h : s.acceptLaunch ctx die q seq addr aper b bad none none 0 = .ok s3 i) :
    ∃ g, SMap.get? s3.grids i = some g ∧
      g.lr = parseRec b ∧ g.ctx = ctx ∧ g.vd = ctx / 256 ∧ g.recv = die ∧ g.queue = q ∧ g.seq = seq ∧
      g.addr = addr ∧ g.aper = aper ∧ g.teams = g.lr.gx * g.lr.gy * g.lr.gz ∧ g.posted = false ∧
      (g.refused ≠ none → ∀ x ∈ g.parts, x.ranges = [] ∧ x.st = .running) ∧
      (bad = true → g.refused = some rsRecord) := by
  unfold State.acceptLaunch at h
  extract_lets v r0 r named holders slots rd at h
  split at h
  · cases h
  · split at h
    · cases h
    · next db s1 d n mk live pred prevQ src why s2 g0 g id s4 s5 s6 s7 _ _ _ =>
      obtain ⟨rfl, rfl⟩ := Accept.ok.inj h
      have hbad (hb : bad = true) : why = some rsRecord := if_pos (by rw [hb]; rfl)
      have hidle : ∀ x ∈ (mk false).map (fun (p : Machine.Part) => { p with st := .running }), x.ranges = [] ∧ x.st = .running := by
        intro x hx
        obtain ⟨p, hp, rfl⟩ := List.mem_map.mp hx
        obtain ⟨y, -, rfl⟩ := List.mem_map.mp hp
        exact ⟨rfl, rfl⟩
      refine ⟨g, SMap.get?_put_same .., ?_⟩
      clear_value why mk
      cases why with
      | some reason => exact ⟨rfl, rfl, rfl, rfl, rfl, rfl, rfl, rfl, rfl, rfl, fun _ => hidle, hbad⟩
      | none =>
        have hno : bad ≠ true := fun hb => by cases hbad hb
        by_cases hn : (n == 0) = true
        · have hg : g = { g0 with parts := (mk false).map (fun (p : Machine.Part) => { p with st := .running }) } := if_pos hn
          rw [hg]
          exact ⟨rfl, rfl, rfl, rfl, rfl, rfl, rfl, rfl, rfl, rfl, fun h => absurd rfl h, fun hb => absurd hb hno⟩
        · have hg : g = g0 := if_neg hn
          rw [hg]
          exact ⟨rfl, rfl, rfl, rfl, rfl, rfl, rfl, rfl, rfl, rfl, fun h => absurd rfl h, fun hb => absurd hb hno⟩

-- Every kind of packet.

/-- An instruction is the arrival of a packet of a kind, which is refused where no entry in force names its PASID. -/
def Arrives (w : NotifyWr) (e : Nat × Instr) : Prop :=
  ∃ act, (∀ s, exec e.2 s = .next (s.packet true e.1 w act)) ∧
    ∀ s s1 v die q p, s.ctxOf v (notifyPas w) = (s1, none) → act s v die q p = s1.refusePkt v rsPasid w

theorem arrives (w : NotifyWr) :
    ∀ e ∈ [(1, Instr.launch w), (2, .destroy w), (3, .destroyF w), (4, .preempt w), (5, .restore w)], Arrives w e := by
  refine List.forall_mem_cons.mpr ⟨⟨_, fun s => rfl, fun s s1 v die q p h => ?_⟩, List.forall_mem_cons.mpr
    ⟨⟨_, fun s => rfl, fun s s1 v die q p h => ?_⟩, List.forall_mem_cons.mpr ⟨⟨_, fun s => rfl, fun s s1 v die q p h => ?_⟩,
      List.forall_mem_cons.mpr ⟨⟨_, fun s => rfl, fun s s1 v die q p h => ?_⟩, List.forall_mem_cons.mpr
        ⟨⟨_, fun s => rfl, fun s s1 v die q p h => ?_⟩, fun e he => by cases he⟩⟩⟩⟩⟩
  all_goals rw [h]

-- PREEMPT.

theorem foldl_keeps {α β : Type} {F : State → β} {f : State → α → State} (hf : ∀ s x, F (f s x) = F s) (s : State) (xs : List α) :
    F (xs.foldl f s) = F s := by
  induction xs generalizing s with
  | nil => rfl
  | cons x xs ih => exact (ih _).trans (hf s x)

theorem withdrawWaits_keeps (s : State) (gs : List Nat) :
    (s.withdrawWaits gs).mem = s.mem ∧ (s.withdrawWaits gs).ctxs = s.ctxs := by
  refine ⟨foldl_keeps (F := State.mem) (fun s i => ?_) s _, foldl_keeps (F := State.ctxs) (fun s i => ?_) s _⟩
  all_goals rfl

theorem unshadow_keeps (s : State) (sel : Team → Bool) :
    (s.unshadow sel).mem = s.mem ∧ (s.unshadow sel).ctxs = s.ctxs := by
  refine ⟨foldl_keeps (F := State.mem) (fun s e => ?_) s _, foldl_keeps (F := State.ctxs) (fun s e => ?_) s _⟩
  all_goals split <;> rfl

theorem beginCut_spec (s : State) (ctx : Nat) (c : Cut) :
    (s.beginCut ctx c).mem = s.mem ∧ (SMap.get? s.ctxs ctx ≠ none → (s.beginCut ctx c).cutOf ctx = some c) := by
  let s1 := s.updCtx ctx (fun x => { x with
    cut := some c, faults := x.faults.filter (fun f => c.target != 0xFFFF && f.1 != c.target) })
  let s2 := s1.withdrawWaits ((s1.cutGroups ctx c.target).map (fun e => e.1))
  have hbegin : s.beginCut ctx c = s2.unshadow (s2.cutHits ctx c.target) := rfl
  obtain ⟨hm2, hc2⟩ := withdrawWaits_keeps s1 ((s1.cutGroups ctx c.target).map (fun e => e.1))
  obtain ⟨hm3, hc3⟩ := unshadow_keeps s2 (s2.cutHits ctx c.target)
  rw [hbegin]
  refine ⟨hm3.trans hm2, fun hne => ?_⟩
  obtain ⟨x, hx⟩ := Option.ne_none_iff_exists'.mp hne
  have hget : SMap.get? s1.ctxs ctx = _ := (SMap.get?_upd_same ..).trans (congrArg _ hx)
  unfold State.cutOf
  rw [hc3, hc2, hget]
  rfl

/-- Settles O54: a packet that is taken acts as its kind does. -/
theorem packetsAct : Obligations.PacketsAct := by
  intro w s p all
  refine ⟨fun hf => ⟨?_, fun e he => ?_⟩, fun hf v r hn => ?_, fun hf v die q hn => ?_, fun v die q e hf hn he hk => ?_,
    fun v die q s1 ctx hf hn ht hc hctx => ?_, fun ctx c => beginCut_spec s ctx c⟩
  · refine congrArg Host.Outcome.next ?_
    unfold evNotifyWrite
    rw [hf]
    rfl
  · obtain ⟨act, hexec, -⟩ := arrives w e he
    rw [hexec, packet_off hf]
  · refine congrArg Host.Outcome.next ?_
    unfold evNotifyWrite
    rw [hf, hn]
    rfl
  · refine congrArg Host.Outcome.next ?_
    unfold evNotifyWrite
    rw [hf, hn]
    rfl
  · obtain ⟨act, hexec, hno⟩ := arrives w e he
    intro busy
    rw [hexec, packet_ok hf hn hk]
    refine ⟨fun hr => ?_, fun hr hb => ?_, fun hr hb => ⟨fun o ho => ?_, fun s1 ho hx => ?_⟩⟩
    · rw [takePkt_reset hr]
      rfl
    · rw [takePkt_busy hr hb]
      rfl
    · rw [takePkt_free hr hb]
      show Host.Outcome.next ((s.ctTier v).elim _ _) = _
      rw [ho]
      rfl
    · rw [takePkt_free hr hb]
      show Host.Outcome.next ((s.ctTier v).elim _ _) = _
      rw [ho]
      exact congrArg Host.Outcome.next (hno _ _ _ _ _ _ hx)
  · refine ⟨fun hk => ?_, fun force hk => ?_, fun k hcut => ⟨fun hk => ?_, fun hk => ?_⟩, fun hk hcut => ?_, fun hk hcut => ?_⟩
    · intro refuse rd
      have hev : exec (.launch w) s = .next (evLaunch true w s) := rfl
      rw [hev]
      unfold evLaunch
      rw [packet_taken hf hn hk ht hc, hctx]
      dsimp only
      refine ⟨fun ha => congrArg Host.Outcome.next (if_pos (bne_iff_ne.mpr ha)), fun ha => ?_⟩
      rw [if_neg (fun hne => bne_iff_ne.mp hne ha)]
      refine ⟨fun o ho => ?_, fun s2 x hx => ?_, fun s2 b ps hok => ?_⟩
      · rw [show s1.ctxRead die ctx 0 _ _ 256 256 = _ from ho]
      · rw [show s1.ctxRead die ctx 0 _ _ 256 256 = _ from hx]
      · rw [show s1.ctxRead die ctx 0 _ _ 256 256 = _ from hok]
        dsimp only
        rw [show s2.acceptLaunch ctx die q (parsePkt w.bytes).seq (parsePkt w.bytes).addr (parsePkt w.bytes).aper b (ps.any id)
          none none 0 = s2.acceptLaunch ctx die q p.seq p.addr p.aper b (ps.any id) none none 0 from rfl]
        refine ⟨fun ha => ?_, fun o ha => ?_, fun s3 i ha => ⟨?_, ?_⟩⟩
        · rw [ha]
        · rw [ha]
        · rw [ha]
        · exact acceptLaunch_ok ha
    · intro i
      have hev : exec i s = .next (evDestroy true (if force then 3 else 2) w s) := by cases force <;> rfl
      rw [hev]
      unfold evDestroy
      rw [packet_taken hf hn hk ht hc, hctx]
      dsimp only
      refine ⟨fun hs => ?_, fun n g hs => ?_⟩
      · rw [show s1.slotGrid v die _ = _ from hs]
      · rw [show s1.slotGrid v die _ = _ from hs]
        dsimp only
        refine ⟨fun hcut => congrArg Host.Outcome.next (if_pos (Option.isSome_iff_ne_none.mpr hcut)), fun hcut => ?_⟩
        rw [hcut, if_neg (by decide)]
        refine ⟨fun hp => congrArg Host.Outcome.next (if_pos (Bool.or_eq_true_iff.mpr hp)), fun hp ho => ?_⟩
        rw [hp, ho, if_neg (by decide)]
        cases force <;> rfl
    · have hev : exec (.preempt w) s = .next (evPreempt true w s) := rfl
      rw [hev]
      unfold evPreempt
      rw [packet_taken hf hn hk ht hc, hctx]
      dsimp only
      rw [hcut]
      rfl
    · have hev : exec (.restore w) s = .next (evRestore true w s) := rfl
      rw [hev]
      unfold evRestore
      rw [packet_taken hf hn hk ht hc, hctx]
      dsimp only
      rw [hcut]
      rfl
    · have hev : exec (.preempt w) s = .next (evPreempt true w s) := rfl
      rw [hev]
      unfold evPreempt
      rw [packet_taken hf hn hk ht hc, hctx]
      dsimp only
      rw [hcut]
      rfl
    · have hev : exec (.restore w) s = .next (evRestore true w s) := rfl
      rw [hev]
      unfold evRestore
      rw [packet_taken hf hn hk ht hc, hctx]
      dsimp only
      rw [hcut, if_neg (by decide)]
      refine ⟨fun hfa => congrArg Host.Outcome.next (if_pos ?_), fun hfa => ?_⟩
      · obtain ⟨x, hx, f, hf, he⟩ := hfa
        rw [hx]
        exact List.any_eq_true.mpr ⟨f, hf, beq_iff_eq.mpr he⟩
      · rw [if_neg fun hx => hfa ?_]
        · refine ⟨fun h => ?_, fun s2 ha h => ?_, fun s2 ha h => ?_⟩
          · obtain ha | h := h
            · exact congrArg Host.Outcome.next (if_pos (bne_iff_ne.mpr ha))
            · rw [show s1.restoreImage ctx _ = _ from h]
              exact congrArg Host.Outcome.next (ite_self _)
          · rw [if_neg (fun hne => bne_iff_ne.mp hne ha), show s1.restoreImage ctx _ = _ from h]
          · rw [if_neg (fun hne => bne_iff_ne.mp hne ha), show s1.restoreImage ctx _ = _ from h]
        · cases hc : SMap.get? s1.ctxs ctx with
          | none => rw [hc] at hx; cases hx
          | some x =>
            rw [hc] at hx
            obtain ⟨f, hf, he⟩ := List.any_eq_true.mp hx
            exact ⟨x, rfl, f, hf, beq_iff_eq.mp he⟩

end Sys2Proof.Proofs.Packets
end

section
/-! PROOFS. The write of an image. -/

namespace Sys2Proof.Proofs.Cuts
open Sys2Proof Sys2Proof.Machine

-- A group that its state lists out of order.

/-- Team 1 with group 3, which stands behind a group of a larger number that is no group of the team. -/
def strayState : State :=
  { State.reset with
    teams := [(1, hostTeam)], groups := [(5, { hostGroup 5 with team := 2 }), (3, { hostGroup 3 with team := 1 })] }

theorem strayState_unloaded :
    ((strayState.unloadTeam 1).groups.map (fun e => (e.1, e.2.team))) = [(5, 2), (3, 1)] := rfl

/-- Refutes O55: the numbers of the groups need not rise, and a group behind one of a larger number is not found, so that it
stays when its team leaves (the statement asks only of the teams that each number names one). -/
theorem not_cutWrites : ¬ Obligations.CutWrites := by
  intro h
  obtain ⟨-, -, hunload⟩ := h 0 strayState
  have hone : ∀ e ∈ strayState.teams, e.1 = 1 → e.2 = hostTeam := by
    rintro e he -
    rw [List.mem_singleton.mp he]
  have hstays : (3, 1) ∈ (strayState.unloadTeam 1).groups.map (fun e => (e.1, e.2.team)) := by
    rw [strayState_unloaded]
    decide
  obtain ⟨e, he, hteam⟩ := List.mem_map.mp hstays
  exact hunload 1 hostTeam rfl hone e he (congrArg Prod.snd hteam)

end Sys2Proof.Proofs.Cuts
end

section
/-! PROOFS. Dispatch: the start and the end of grids, fair shares, work ranges, and the preparation and start of teams. -/

namespace Sys2Proof.Proofs.Dispatch
open Sys2Proof Sys2Proof.Machine

-- The start of a grid.

/-- A queued part once its grid starts. -/
def started (st : SlotSt) (p : Part) : Part :=
  if p.st == .queued then { p with st := if p.ranges.isEmpty && st == .dispatching then .running else st } else p

/-- The status that the queued parts of a grid take. -/
def startSt (g : Grid) : SlotSt := if g.lr.held && g.heldSeen < g.lr.waitcnt then .held else .dispatching

theorem started_keeps (st : SlotSt) (p : Part) :
    ((started st p).die, (started st p).qslot, (started st p).ranges) = (p.die, p.qslot, p.ranges) := by
  unfold started
  split <;> rfl

theorem started_st (g : Grid) (p : Part) : (started (startSt g) p).st ≠ .queued ∧
    (started (startSt g) p = p ∨ (started (startSt g) p).st =
      if g.lr.held = true ∧ g.heldSeen < g.lr.waitcnt then .held else if p.ranges = [] then .running else .dispatching) := by
  unfold started startSt
  by_cases hq : p.st = .queued
  · simp only [hq, beq_self_eq_true, if_true, Bool.and_eq_true, decide_eq_true_eq, List.isEmpty_iff, beq_iff_eq]
    by_cases hh : g.lr.held = true ∧ g.heldSeen < g.lr.waitcnt
    · simp [hh]
    · by_cases hr : p.ranges = [] <;> simp [hh, hr]
  · rw [if_neg (by simpa using hq)]
    exact ⟨hq, .inl rfl⟩

theorem gridDispatchStart_held {s : State} {i : Nat} {g : Grid} (hg : SMap.get? s.grids i = some g)
    (h : s.ctxHeld g.ctx = true) : evGridDispatchStart i s = s := by
  unfold evGridDispatchStart
  rw [hg]
  exact if_neg (by simp [h])

theorem gridDispatchStart_starts {s : State} {i : Nat} {g : Grid} (hg : SMap.get? s.grids i = some g)
    (h : s.ctxHeld g.ctx = false) (hp : g.prevQ = none) (hd : s.drained g.pred = true) (hq : ∃ p ∈ g.parts, p.st = .queued) :
    evGridDispatchStart i s = { s with grids := SMap.put s.grids i { g with parts := g.parts.map (started (startSt g)) } } := by
  have hany : g.parts.any (fun p => p.st == .queued) = true := by simpa using hq
  unfold evGridDispatchStart
  rw [hg]
  dsimp only
  rw [if_pos (by simp [hany, hp, hd, h])]
  unfold State.updGrid
  rw [Records.upd_of_get? _ hg]
  rfl

-- The end of a grid.

theorem askHost_dies (s : State) (ls : List Nat) : (s.askHost ls).dies = s.dies := by
  unfold State.askHost
  refine Packets.foldl_keeps (F := State.dies) (fun s l => ?_) s ls
  split
  · rfl
  · exact Packets.foldl_keeps (F := State.dies) (f := fun s (_ : Nat) => s.emit (.backInv l)) (fun _ _ => rfl) s _

theorem askHost_quiet (s : State) (ls : List Nat) : (s.askHost ls).quiet = s.quiet := by
  unfold State.quiet
  rw [askHost_dies]

theorem gridComplete_stays {s : State} {i : Nat} {g : Grid} (hg : SMap.get? s.grids i = some g)
    (h : s.gridOver i g = false ∨ s.gridBusy i = true ∨ s.olderSpawn i g = true) : evGridComplete i s = s := by
  unfold evGridComplete
  rw [hg]
  refine if_pos ?_
  obtain h | h | h := h <;> simp [h]

/-- The slot that a completion reports: that of the part on the receiving die. -/
def slotOf (g : Grid) : Nat := (g.parts.find? (fun p => p.die == g.recv)).elim 0xFFFF (fun p => p.qslot)

/-- The completion record of a grid, written. -/
def recorded (s : State) (i : Nat) (g : Grid) : State :=
  (s.ctxReport g.recv g.ctx g.lr.compap g.lr.compoff (complRecord g.status (g.refused.getD 0) (slotOf g) g.seq
    g.retired (g.wu / 1024) g.lr.gridid)).updGrid i (fun g => { g with posted := true })

/-- The event record, and what ends the grid; without room for the record nothing. -/
def lastSteps (i : Nat) (g : Grid) (r : State) : State :=
  if g.lr.ev then
    (if 256 ≤ (r.cluster (g.recv * 32 + g.lr.evcl % 32)).evq.length then r
     else (r.evPost (g.recv * 32 + g.lr.evcl % 32) ⟨g.lr.evtag, g.vd, 3, BitVec.ofNat 32 (g.status + 256 * g.refused.getD 0),
       slotOf g, 0, 0, 0, 0⟩).gridEnd i g)
  else r.gridEnd i g

theorem lastSteps_eq (i : Nat) (g : Grid) (r : State) :
    (if g.lr.ev && evqMax ≤ (r.cluster (g.recv * 32 + g.lr.evcl % 32)).evq.length then r
     else (if g.lr.ev then r.evPost (g.recv * 32 + g.lr.evcl % 32) ⟨g.lr.evtag, g.vd, 3,
       BitVec.ofNat 32 (g.status + 256 * g.refused.getD 0), slotOf g, 0, 0, 0, 0⟩ else r).gridEnd i g) = lastSteps i g r := by
  unfold lastSteps evqMax
  cases g.lr.ev with
  | false => rfl
  | true =>
    by_cases h : 256 ≤ (r.cluster (g.recv * 32 + g.lr.evcl % 32)).evq.length <;> simp [h]

/-- The last steps, left for later while a write is on its way. -/
def finish (i : Nat) (g : Grid) (r : State) : State := if !r.quiet && !g.posted then r else lastSteps i g r

section Over
variable {s : State} {i : Nat} {g : Grid} (hg : SMap.get? s.grids i = some g) (ho : s.gridOver i g = true)
  (hb : s.gridBusy i = false) (hs : s.olderSpawn i g = false)
include hg ho hb hs

theorem gridComplete_waits {u : State} (hp : g.posted = false) (hw : s.reportWaits g = some u) : evGridComplete i s = u := by
  unfold evGridComplete
  rw [hg]
  dsimp only
  rw [ho, hb, hs, if_neg (by decide), hp, if_neg (by decide), hw]

/-- What a grid that is over comes to: the record of its completion, then its last steps. -/
theorem gridComplete_record (h : g.posted = true ∨ s.reportWaits g = none) :
    evGridComplete i s = finish i g (if g.posted then s else
      if !s.drainAll.quiet then s.drainAll.askHost s.drainAll.heldUpd else recorded s.drainAll i g) := by
  have hw : (if g.posted then none else s.reportWaits g) = none := by
    obtain h | h := h
    · rw [h]; rfl
    · rw [h]; exact ite_self _
  unfold evGridComplete
  rw [hg]
  dsimp -zeta only
  rw [ho, hb, hs, if_neg (by decide), hw]
  unfold finish
  rw [← lastSteps_eq]
  rfl

theorem gridComplete_over (h : g.posted = true ∨ s.reportWaits g = none) :
    (g.posted = true → evGridComplete i s = lastSteps i g s) ∧
    (g.posted = false → s.drainAll.quiet = false → evGridComplete i s = s.drainAll.askHost s.drainAll.heldUpd) ∧
    (g.posted = false → s.drainAll.quiet = true → evGridComplete i s =
      if (recorded s.drainAll i g).quiet then lastSteps i g (recorded s.drainAll i g) else recorded s.drainAll i g) := by
  rw [gridComplete_record hg ho hb hs h]
  refine ⟨fun hp => ?_, fun hp hq => ?_, fun hp hq => ?_⟩
  · rw [hp, if_pos rfl, finish, hp, if_neg (by simp)]
  · rw [hp, if_neg (by decide), hq, if_pos (by decide), finish, hp, askHost_quiet, hq]
    rfl
  · rw [hp, if_neg (by decide), hq, if_neg (by decide), finish, hp]
    cases (recorded s.drainAll i g).quiet <;> rfl

end Over

-- Fair shares.

/-- The charge of one entry of a die's meter (R398). -/
def charge (x : Die) (e : Nat × Meter) : Die :=
  { x with
    deficit := SMap.put x.deficit e.1 (x.defOf e.1 - ((e.2.wu256 - SMap.getD x.charged 0 e.1 : Nat) : Int))
    charged := SMap.put x.charged e.1 e.2.wu256 }

theorem charge_meter (x : Die) (es : List (Nat × Meter)) : (es.foldl charge x).meter = x.meter := by
  induction es generalizing x with
  | nil => rfl
  | cons e es ih => exact ih _

/-- A charge leaves a VD that it does not name. -/
theorem charge_absent (x : Die) (es : List (Nat × Meter)) (v : Nat) (hv : v ∉ SMap.keys es) :
    SMap.getD (es.foldl charge x).charged 0 v = SMap.getD x.charged 0 v ∧ (es.foldl charge x).defOf v = x.defOf v := by
  induction es generalizing x with
  | nil => exact ⟨rfl, rfl⟩
  | cons e es ih =>
    rw [SMap.keys, List.map_cons, List.mem_cons, not_or] at hv
    obtain ⟨hne, hv⟩ := hv
    obtain ⟨h1, h2⟩ := ih (charge x e) hv
    exact ⟨h1.trans (Records.getD_put_other _ _ _ hne), h2.trans (Records.getD_put_other _ _ _ hne)⟩

/-- Each VD of the meter is charged once. -/
theorem charge_each (x : Die) (es : List (Nat × Meter)) (hnd : (SMap.keys es).Nodup) : ∀ e ∈ es,
    SMap.getD (es.foldl charge x).charged 0 e.1 = e.2.wu256 ∧
    (es.foldl charge x).defOf e.1 = x.defOf e.1 - ((e.2.wu256 - SMap.getD x.charged 0 e.1 : Nat) : Int) := by
  induction es generalizing x with
  | nil => intro e he; cases he
  | cons a es ih =>
    rw [SMap.keys, List.map_cons, List.nodup_cons] at hnd
    obtain ⟨ha, hnd⟩ := hnd
    intro e he
    rw [List.mem_cons] at he
    obtain rfl | he := he
    · obtain ⟨h1, h2⟩ := charge_absent (charge x e) es e.1 ha
      exact ⟨h1.trans (Records.getD_put_same ..), h2.trans (Records.getD_put_same ..)⟩
    · have hne : e.1 ≠ a.1 := fun h => ha (h ▸ List.mem_map_of_mem he)
      obtain ⟨h1, h2⟩ := ih (charge x a) hnd e he
      refine ⟨h1, h2.trans ?_⟩
      rw [show (charge x a).defOf e.1 = _ from Records.getD_put_other _ _ _ hne,
        show SMap.getD (charge x a).charged 0 e.1 = _ from Records.getD_put_other _ _ _ hne]
      rfl

theorem fairShareCharge_die (s : State) (d : Nat) :
    ((evFairShareCharge d s).die d) = (s.die d).meter.foldl charge (s.die d) := by
  unfold evFairShareCharge
  rw [Records.die_updDie, if_pos rfl]
  rfl

-- Work ranges.

/-- The indices that ranges stand for. -/
def rangeSum (rs : List Range) : Nat := (rs.map (fun r => r.hi - r.lo)).sum

theorem rangeSum_updAt (rs : List Range) (k : Nat) (f : Range → Range) (h : ∀ r, (f r).hi - (f r).lo = r.hi - r.lo) :
    rangeSum (updAt rs k f) = rangeSum rs := by
  unfold rangeSum
  induction rs generalizing k with
  | nil => rfl
  | cons r rs ih =>
    cases k with
    | zero => simp [updAt, h]
    | succ k => simp [updAt, ih]

theorem rangeSum_setAt (rs : List Range) (k : Nat) (r y : Range) (h : rs[k]? = some r) :
    rangeSum (setAt rs k y) + (r.hi - r.lo) = rangeSum rs + (y.hi - y.lo) := by
  unfold rangeSum
  induction rs generalizing k with
  | nil => cases h
  | cons a rs ih =>
    cases k with
    | zero =>
      obtain rfl : a = r := by simpa using h
      simp only [setAt, List.map_cons, List.sum_cons]
      omega
    | succ k =>
      have := ih k (by simpa using h)
      simp only [setAt, List.map_cons, List.sum_cons]
      omega

theorem mem_updAt {α : Type} (xs : List α) (k : Nat) (f : α → α) {x : α} (h : xs[k]? = some x) : f x ∈ updAt xs k f := by
  induction xs generalizing k with
  | nil => cases h
  | cons a xs ih =>
    cases k with
    | zero =>
      obtain rfl : a = x := by simpa using h
      exact List.mem_cons_self
    | succ k => exact List.mem_cons_of_mem _ (ih k (by simpa using h))

/-- The range of the most indices, of equals that of the lowest holder, with its place. -/
def widest (b : Option (Range × Nat)) (r : Range × Nat) : Option (Range × Nat) :=
  match b with
  | none => some r
  | some x => if x.1.hi - x.1.lo < r.1.hi - r.1.lo ||
      (x.1.hi - x.1.lo == r.1.hi - r.1.lo && r.1.holder.getD 0 < x.1.holder.getD 0) then some r else some x

theorem widest_mem (xs : List (Range × Nat)) (b : Option (Range × Nat)) (x : Range × Nat)
    (h : xs.foldl widest b = some x) : x ∈ xs ∨ b = some x := by
  induction xs generalizing b with
  | nil => exact .inr h
  | cons a xs ih =>
    obtain h | h := ih _ h
    · exact .inl (List.mem_cons_of_mem _ h)
    · have h : x = a ∨ b = some x := by
        unfold widest at h
        grind
      obtain rfl | h := h
      · exact .inl List.mem_cons_self
      · exact .inr h

theorem takeRange_spec {n who : Nat} {rs rs' : List Range} (hn : 0 < n) (h : takeRange n who rs = some rs') :
    rangeSum rs' = rangeSum rs ∧ ∃ r ∈ rs', r.holder = some who ∧ r.lo < r.hi := by
  unfold takeRange at h
  split at h
  · next k hk =>
    cases h
    obtain ⟨hlt, hr, -⟩ := List.findIdx?_eq_some_iff_getElem.mp hk
    rw [Bool.and_eq_true, decide_eq_true_eq] at hr
    exact ⟨rangeSum_updAt _ _ _ (fun _ => rfl), _, mem_updAt _ _ _ (List.getElem?_eq_getElem hlt), rfl, hr.2⟩
  · split at h
    · cases h
    · next r k hw =>
      dsimp only at h
      split at h
      · cases h
      · next hu =>
        cases h
        have hr : rs[k]? = some r := List.mem_zipIdx_iff_getElem?.mp ((widest_mem _ _ _ hw).resolve_right (by simp))
        have hle : n * ((r.hi - r.lo) / (2 * n)) * 2 ≤ r.hi - r.lo :=
          calc
            n * ((r.hi - r.lo) / (2 * n)) * 2 = (r.hi - r.lo) / (2 * n) * (2 * n) := by
              rw [Nat.mul_right_comm, Nat.mul_comm n 2, Nat.mul_comm]
            _ ≤ r.hi - r.lo := Nat.div_mul_le_self _ _
        have hpos : 0 < n * ((r.hi - r.lo) / (2 * n)) := Nat.mul_pos hn (Nat.div_pos (by omega) (by omega))
        have hset := rangeSum_setAt rs k r { r with hi := r.lo + n * ((r.hi - r.lo) / (2 * n)) } hr
        refine ⟨?_, _, List.mem_append_right _ List.mem_cons_self, rfl, by dsimp only; omega⟩
        unfold rangeSum at hset ⊢
        rw [List.map_append, List.sum_append]
        simp only [List.map_cons, List.map_nil, List.sum_cons, List.sum_nil] at hset ⊢
        omega

-- Preparation and start of teams.

theorem nextTake_spec {s : State} {c : Nat} {g : Grid} {r : Range} {cs : List Nat} (h : s.nextTake c g = some (r, cs)) :
    cs.length = g.desc.n ∧ s.ctxHeld g.ctx = false ∧ r.lo < r.hi ∧
      r.holder = some (if g.desc.n = 1 then c else c / 4) := by
  unfold State.nextTake at h
  extract_lets n who cs' at h
  split at h
  · cases h
  · next hn =>
    obtain ⟨r', hr, he⟩ := Option.map_eq_some_iff.mp h
    obtain rfl : r' = r := congrArg Prod.fst he
    have hcs : cs' = cs := congrArg Prod.snd he
    obtain ⟨p, -, hf⟩ := Option.bind_eq_some_iff.mp hr
    have hr := List.find?_some hf
    rw [Bool.and_eq_true, beq_iff_eq, decide_eq_true_eq] at hr
    rw [Bool.or_eq_true, not_or, decide_eq_true_eq, Bool.not_eq_true] at hn
    refine ⟨?_, hn.2, hr.2, by simpa [who] using hr.1⟩
    have : cs'.length ≤ g.desc.n := List.length_take_le _ _
    rw [← hcs]
    omega

/-- The teams that a core or cluster takes of a range, in shadow slots (R405). -/
def shadowed (s : State) (c i : Nat) (g : Grid) (r : Range) (cs : List Nat) : State :=
  let s1 := s.updGrid i (fun g' => { g' with parts := g'.parts.map (fun (p : Part) =>
    if p.die == c / 128 then
      ({ p with ranges := p.ranges.map (fun (x : Range) => if x == r then { x with lo := x.lo + g.desc.n } else x) } : Part).settle
    else p) })
  (blockTeams g i s.nid cs r.lo).foldl (fun s x =>
    ({ s with teams := SMap.put s.teams x.1 { x.2.2 with core := x.2.1 } }).updCore x.2.1 (fun k =>
      { k with shadow := k.shadow ++ [(⟨x.1, false, [], [], []⟩ : Shadow)] })) { s1 with nid := s.nid + g.desc.n }

/-- What is taken is prepared at once. -/
theorem teamPrepare_taken {s : State} {c i : Nat} {g : Grid} {r : Range} {cs : List Nat}
    (h : s.grids.findSome? (fun e => (s.nextTake c e.2).map (fun x => (e.1, e.2, x))) = some (i, g, r, cs))
    (ho : s.prepTier (c / 128) g = none) :
    evTeamPrepare c s = match (shadowed s c i g r cs).prep 0 (c / 128) g with
      | .tier o => (shadowed s c i g r cs).awaitTier g.vd o
      | .bad t e => t.prepFault i (cs.headD c) (((blockTeams g i s.nid cs r.lo).head?.map (fun x => x.2.2.lin)).getD 0) g e
      | .ok t h => (blockTeams g i s.nid cs r.lo).foldl (fun s x => (s.entryBlock x.2.1 x.1 g).updCore x.2.1 (fun k => { k with
          shadow := k.shadow.map (fun (y : Shadow) => if y.team == x.1 then { h with team := x.1 } else y) })) t := by
  unfold evTeamPrepare
  rw [h]
  dsimp only
  rw [ho]
  rfl

/-- The groups of a team, put one after the other at fresh numbers. -/
def putGroups (h : Nat → Group) (n : Nat) (s : State) : State :=
  (List.range n).foldl (fun s k => (s.setGroup s.nid (h k)).fresh) s

theorem putGroups_get? (h : Nat → Group) (n : Nat) (s : State) :
    (putGroups h n s).nid = s.nid + n ∧
    ∀ k, k < n → SMap.get? (putGroups h n s).groups (s.nid + k) = some (h k) := by
  unfold putGroups
  induction n with
  | zero => exact ⟨rfl, fun k hk => absurd hk (Nat.not_lt_zero k)⟩
  | succ n ih =>
    obtain ⟨hnid, hget⟩ := ih
    rw [List.range_succ, List.foldl_append]
    refine ⟨congrArg (· + 1) hnid, fun k hk => ?_⟩
    show SMap.get? (SMap.put _ _ (h n)) _ = _
    rw [hnid]
    obtain rfl | hne := Decidable.em (k = n)
    · exact SMap.get?_put_same ..
    · rw [SMap.get?_put_other _ _ _ _ (by omega)]
      exact hget k (by omega)

theorem tsPlace_keeps (s : State) (c base size ctx : Nat) : (s.tsPlace c base size ctx).nid = s.nid ∧
    (s.tsPlace c base size ctx).grids = s.grids := by
  unfold State.tsPlace
  split <;> exact ⟨rfl, rfl⟩

theorem startTeam_groups (s : State) (tid : Nat) (h : Shadow) (t : Team) (g : Grid) (ht : SMap.get? s.teams tid = some t)
    (hg : SMap.get? s.grids t.grid = some g) (k : Nat) (hk : k < t.g) :
    SMap.get? (s.startTeam tid h).groups (s.nid + k) = some (startGroup g tid t k s.nid h) := by
  unfold State.startTeam
  rw [ht]
  dsimp -zeta only
  rw [hg]
  dsimp -zeta only
  extract_lets s1 s2 born s3 side s4
  have hnid : s2.nid = s.nid := calc
    s2.nid = s1.nid := Packets.foldl_keeps (F := State.nid) (f := fun s k => s.tsWrite t.core (t.tsBase + 32 * k)
      ((h.init.drop (32 * k)).take 32) (h.initP.getD k false)) (fun _ _ => rfl) s1 _
    _ = s.nid := (tsPlace_keeps ..).1
  have hgr : s4.groups = (putGroups (fun k => startGroup g tid t k born h) t.g s2).groups := rfl
  have hgot : SMap.get? s4.groups (s.nid + k) = some (startGroup g tid t k s.nid h) := by
    rw [hgr, ← hnid]
    exact (putGroups_get? _ _ s2).2 k hk
  split
  · exact hgot
  · exact hgot

/-- A team in a shadow slot that may run: the state with its block's resources held, and the block (R405). -/
def runnable (s : State) (h : Shadow) : Option (State × List (Nat × Team × Shadow)) :=
  (SMap.get? s.teams h.team).bind (fun t =>
    let ms := s.blockOf h.team t
    let held := match SMap.get? s.grids t.grid with | some g => s.ctxHeld g.ctx | none => true
    if held || ms.length != t.span || !ms.all (fun m => m.2.2.ready) then none
    else (s.holdAll (ms.map (fun m => (m.1, m.2.1.core, m.2.1)))).map (fun s' => (s', ms)))

theorem teamRunnable_of_unplaced {s : State} {c : Nat} (hp : s.placingOn (c / 128) = none) :
    evTeamRunnable c s = match (s.core c).shadow.findSome? (runnable s) with
      | none => s
      | some (s', ms) => ms.foldl (fun s m => if m.2.1.det then s else s.startTeam m.1 m.2.2)
          (s'.fuseCores (ms.map (fun m => m.1))) := by
  unfold evTeamRunnable
  rw [hp, if_neg (by decide)]
  have hrun : runnable s = fun h => match SMap.get? s.teams h.team with
      | none => none
      | some t =>
        let ms := s.blockOf h.team t
        let held := match SMap.get? s.grids t.grid with | some g => s.ctxHeld g.ctx | none => true
        if held || ms.length != t.span || !ms.all (fun m => m.2.2.ready) then none
        else (s.holdAll (ms.map (fun m => (m.1, m.2.1.core, m.2.1)))).map (fun s' => (s', ms)) := by
    funext h
    unfold runnable
    cases SMap.get? s.teams h.team <;> rfl
  rw [hrun] <;> rfl

/-- Settles O56: each event by its own lemma; the clauses on preparing and running teams restate their branches. -/
theorem dispatchProceeds : Obligations.DispatchProceeds := by
  unfold Obligations.DispatchProceeds
  refine ⟨fun s i g hg => ⟨fun h => ?_, fun h hp hd hq => ?_, fun h => ?_, fun u ho hb hs hp hw => ?_, fun ho hb hs h => ?_⟩,
    fun s d hnd => ?_, fun s q hp => ⟨fun h => ?_, fun h hs => ?_⟩, fun n who rs rs' hn h => takeRange_spec hn h,
    fun s c => ⟨fun g r cs h => nextTake_spec h, fun h => ?_, fun i g r cs h => ⟨fun o ho => ?_, fun ho => ?_⟩⟩,
    fun s c hp => ⟨fun h => ?_, fun h rest s' ms hs hf => ?_⟩, startTeam_groups⟩
  · exact congrArg Host.Outcome.next (gridDispatchStart_held hg h)
  · refine ⟨_, _, congrArg Host.Outcome.next (gridDispatchStart_starts hg h hp hd hq), SMap.get?_put_same .., rfl, rfl, ?_, ?_⟩
    · rw [List.map_map]
      exact List.map_congr_left (fun p _ => started_keeps _ p)
    · intro p' hp'
      obtain ⟨p, hp, rfl⟩ := List.mem_map.mp hp'
      obtain ⟨hq, he⟩ := started_st g p
      rw [show (started (startSt g) p).ranges = p.ranges from congrArg (fun x => x.2.2) (started_keeps (startSt g) p)]
      exact ⟨hq, he.imp_left (fun e => (congrArg (· ∈ g.parts) e).mpr hp)⟩
  · exact congrArg Host.Outcome.next (gridComplete_stays hg h)
  · exact congrArg Host.Outcome.next (gridComplete_waits hg ho hb hs hp hw)
  · obtain ⟨h1, h2, h3⟩ := gridComplete_over hg ho hb hs h
    exact ⟨fun hp => congrArg Host.Outcome.next (h1 hp), fun hp hq => congrArg Host.Outcome.next (h2 hp hq),
      fun hp hq => congrArg Host.Outcome.next (h3 hp hq)⟩
  · have hd := fairShareCharge_die s d
    refine ⟨_, rfl, (congrArg Die.meter hd).trans (charge_meter ..), rfl, fun e he => ?_⟩
    obtain ⟨h1, h2⟩ := charge_each (s.die d) _ hnd e he
    rw [hd]
    exact ⟨h1, h2⟩
  · refine congrArg Host.Outcome.next ?_
    unfold evWorkRequest
    rw [hp]
    exact if_pos (by simpa using h)
  · refine congrArg Host.Outcome.next ?_
    unfold evWorkRequest
    rw [hp]
    exact if_neg (by simp [h, hs])
  · refine congrArg Host.Outcome.next ?_
    unfold evTeamPrepare
    rw [h]
  · refine congrArg Host.Outcome.next ?_
    unfold evTeamPrepare
    rw [h]
    dsimp only
    rw [ho]
  · refine ⟨fun s3 h' hprep => congrArg Host.Outcome.next ?_, fun s3 e hprep => congrArg Host.Outcome.next ?_⟩
    · rw [teamPrepare_taken h ho, show (shadowed s c i g r cs).prep 0 (c / 128) g = _ from hprep]
    · rw [teamPrepare_taken h ho, show (shadowed s c i g r cs).prep 0 (c / 128) g = _ from hprep]
  · refine congrArg Host.Outcome.next ?_
    have hnone : (s.core c).shadow.findSome? (runnable s) = none := List.findSome?_eq_none_iff.mpr h
    rw [teamRunnable_of_unplaced hp, hnone]
  · refine congrArg Host.Outcome.next ?_
    rw [teamRunnable_of_unplaced hp, hs, List.findSome?_cons, show runnable s h = _ from hf]

end Sys2Proof.Proofs.Dispatch
end

section
/-! PROOFS. Writes of registers. -/

namespace Sys2Proof.Proofs.Registers
open Sys2Proof Sys2Proof.Machine

/-- A module in full function. -/
def fullState : State := { State.reset with dies := (List.range 16).map (fun d => (d, { State.reset.die d with stage := 4 })) }

theorem fullState_config : fullState.config = true := by decide

/-- The write of a function's reset register does not look at the value written: with 0 the reset of VD 1 begins. -/
theorem flr_ignores_value : ((evRegWrite (.flr 1) 0 fullState).vd 1).reset = 2 := by decide

/-- Refutes O57: the write of `flr` begins the reset of a function by the function's number, not by the value written, so that 0
written to the register of VD 1 begins it too. -/
theorem not_memorySideEvents : ¬ Obligations.MemorySideEvents := by
  intro h
  obtain ⟨-, -, -, -, -, -, -, -, -, -, -, hreg, -⟩ := h fullState 0 0
  obtain ⟨t, ht, -, -, -, hconf⟩ := hreg (.flr 1) 0
  have hvd : t.vd 1 = { fullState.vd 1 with reset := if (0 : DWord) ≠ 0 ∧ (fullState.vd 1).reset = 0 then 2
      else (fullState.vd 1).reset } := hconf fullState_config
  have hte : evRegWrite (.flr 1) 0 fullState = t := Host.Outcome.next.inj ht
  have hzero : (t.vd 1).reset = 0 := by
    rw [hvd]
    rfl
  rw [← hte, flr_ignores_value] at hzero
  cases hzero

end Sys2Proof.Proofs.Registers
end

section
/-! PROOFS. Firmware and physical events. -/

namespace Sys2Proof.Proofs.Firmware
open Sys2Proof Sys2Proof.Machine

/-- The reliability log lies at 0x1000, in line 16, which a host may hold. -/
def heldLogState : State :=
  { State.reset with
    dies := [(0, { State.reset.die 0 with hostHeld := [(16, true)] })]
    mod := { State.reset.mod with rlbase := 4096 } }

/-- The record of the viral state asks the host for the line of the log. -/
theorem viral_asks_host : (evViral 0 heldLogState).mod.out = [.viral, .backInv 16] := rfl

/-- Refutes O60: the record of the viral state is written to the log, and where a host may hold the log's line the host is asked for
it, so that the viral notice is not the only message. -/
theorem not_firmwareAndPower : ¬ Obligations.FirmwareAndPower := by
  intro h
  obtain ⟨-, -, -, -, -, -, -, -, -, -, -, -, -, -, -, hviral, -⟩ := h heldLogState
  obtain ⟨t, ht, -, hout, -⟩ := hviral 0
  have hte : evViral 0 heldLogState = t := Host.Outcome.next.inj ht
  rw [← hte, viral_asks_host] at hout
  exact absurd hout (by decide)

end Sys2Proof.Proofs.Firmware
end

section
/-! PROOFS. Loads, stores and atomics of the own die's memory while a write of its own waits at the home. -/

namespace Sys2Proof.Proofs.WaitingWrites
open Sys2Proof Sys2Proof.Machine

/-- The first 64 KiB of aperture 0 stand at physical address 0. -/
def page0 : TlbE := ⟨0, 0, 65536, 0, 0, true, true, true, false, false, 0, none⟩

/-- A write of die 0 to line 0 that waits in the home's queue: the host has given the line up, and the write is not applied yet. -/
def waiting : UpdPkt := ⟨0, 1, [1], true, 0, [(0, 7)], 0, 0, 0, 0, 0, 0, 0, false⟩

/-- A group on die 0 whose memory holds a 5 at address 0, behind which a write waits. -/
def waitingState : State :=
  { State.reset with
    cur := some 3, groups := [(3, hostGroup 2)], teams := [(2, hostTeam)]
    mem := Memory.put [] 0 5
    cores := [(0, { State.reset.core 0 with tlb := [page0] })]
    dies := [(0, { State.reset.die 0 with upd := [waiting] })] }

def plain : Com := ⟨true, false, false, 7, .two, 0, 0⟩

/-- A word store of register 0 to address 0. -/
def zeroStore : MArgs := ⟨plain, .nrm, 0, .team, .rlx, .s 0, .s 2⟩

/-- An exchange of the word at address 0. -/
def zeroXchg : AtArgs := ⟨plain, 0, .u32, .team, .rlx, .s 0, .s 2, .s 4, .none⟩

def hostCtx : GCtx := GCtx.make (hostGroup 2) plain

theorem hostCtx_ls : hostCtx.ls = [0] := by decide

/-- The check of an access of the word at address 0 passes in every lane. -/
theorem waitingState_chk {sp : AccessSpec} (h : waitingState.chk hostCtx.g 3 sp 0 0 4 = .ok [⟨false, 0, false, 0, 4⟩] [page0]) :
    ∀ l ∈ hostCtx.ls, waitingState.chk hostCtx.g 3 sp 0 (hostCtx.memOff (.s 2) 0 l) 4 =
      .ok [⟨false, 0, false, 0, 4⟩] [page0] := by
  rw [hostCtx_ls]
  intro l hl
  rw [List.mem_singleton.mp hl]
  exact h

theorem waitingState_ownMiss : waitingState.ownMiss 0 ⟨false, 0, false, 0, 4⟩ :=
  ⟨rfl, rfl, by decide, by decide, rfl, rfl, fun _ _ => rfl⟩

theorem waitingState_clean : waitingState.cleanSector 0 ⟨false, 0, false, 0, 4⟩ := by
  refine ⟨fun u hu => ?_, fun e he => absurd he List.not_mem_nil⟩
  obtain rfl | rfl : u = 0 ∨ u = 1 := by
    dsimp only at hu
    omega
  · rfl
  · rfl

theorem waitingState_issues (rs : List (Opnd × Nat)) (h : rs.all (hostGroup 2).inRange = true) :
    Issues waitingState 3 (hostGroup 2) plain rs where
  cur := rfl
  grp := rfl
  run := by decide
  ranges := h
  owed := by decide
  executes := by decide
  lim := rfl

/-- The store waits, and the byte stays. -/
theorem store_waits : ∃ t, exec (.st zeroStore .w32) waitingState = .next t ∧ t.coreByte 0 0 = 5 := ⟨_, rfl, rfl⟩

theorem xchg_waits : ∃ t, exec (.atomXchg zeroXchg) waitingState = .next t ∧ Memory.get t.mem 0 = 5 := ⟨_, rfl, rfl⟩

/-- Refutes O28: a write of the die's own that a host kept back still waits at the home after the host has given up the line, and a
store behind it waits too, so that it does not change the byte at once. -/
theorem not_ownDieLoadsAndStores : ¬ Obligations.OwnDieLoadsAndStores := by
  intro h
  obtain ⟨hstore, -⟩ := h zeroStore .w32 waitingState 3 (hostGroup 2) rfl (.inl rfl) (.inr rfl) rfl
    ⟨by decide, by decide⟩ (by decide)
    (waitingState_issues _ (by decide))
  have hchk := waitingState_chk (sp := specW .nrm 4) rfl
  obtain ⟨t, ht, -, hbyte⟩ := hstore (by decide) (fun l hl => ⟨_, _, hchk l hl⟩) rfl
    (fun l hl => ⟨_, _, hchk l hl, rfl, waitingState_ownMiss⟩)
  obtain ⟨u, hu, h5⟩ := store_waits
  obtain rfl : u = t := Host.Outcome.next.inj (hu.symm.trans ht)
  have h0 := (hbyte 0).symm.trans h5
  exact absurd h0 (by decide)

/-- Refutes O31: an exchange behind such a write waits too, so that the location keeps its value. -/
theorem not_atomicsActAtHome : ¬ Obligations.AtomicsActAtHome := by
  intro h
  have hchk := waitingState_chk (sp := ⟨needRW, false, false, 4⟩) rfl
  obtain ⟨t, -, ht, hmem, -⟩ := h (.atomXchg zeroXchg) zeroXchg false _ _ waitingState 3 (hostGroup 2) rfl
    (waitingState_issues _ (by decide)) rfl rfl ⟨by decide, by decide⟩ (by decide) (fun l hl => ⟨_, _, hchk l hl⟩) rfl
    (fun l hl => ⟨_, _, hchk l hl, rfl, waitingState_ownMiss, rfl, rfl, waitingState_clean⟩)
  obtain ⟨u, hu, h5⟩ := xchg_waits
  obtain rfl : u = t := Host.Outcome.next.inj (hu.symm.trans ht)
  rw [hmem] at h5
  exact absurd h5 (by decide)

end Sys2Proof.Proofs.WaitingWrites
end

section
/-! PROOFS. Commands of owner windows, and the writes that arm a tenant. -/

namespace Sys2Proof.Proofs.Tenants
open Sys2Proof Sys2Proof.Machine

-- A command of a window.

/-- A command that completes: its status record is written and it leaves its window's queue. -/
def ended (c : OwnCmd) (op : Nat) (t : State) (st v : Nat) : State :=
  (t.cmdStatus op c st v).updVd c.win (fun d => { d with cmds := [] })

/-- A command that goes on in a phase. -/
def goesOn (c : OwnCmd) (op n : Nat) (t : State) : State := t.updVd c.win (fun d => { d with cmds := [(op + 256 * n, c)] })

/-- What a command that runs alone leaves. -/
def outcome (c : OwnCmd) (op : Nat) : CmdRes → State
  | .done t st v => ended c op t st v
  | .wait t n => goesOn c op n t

section Command
variable {s : State} {c : OwnCmd} {op : Nat} {pf : Bool} {act : Nat → State → CmdRes}

theorem command_off (h : s.full = false) : s.command true op pf c act = s := by
  unfold State.command
  rw [h]
  rfl

theorem command_queued {y : Nat × OwnCmd} {ys : List (Nat × OwnCmd)} (h : s.full = true) (hq : (s.vd c.win).cmds = y :: ys) :
    s.command true op pf c act = s.updVd c.win (fun d => { d with cmds := (y :: ys) ++ [(op, c)] }) := by
  unfold State.command
  rw [h, if_neg (by decide), hq]
  rfl

/-- In a VF's window a command of the PF fails. -/
theorem command_pf (h : s.full = true) (hq : (s.vd c.win).cmds = []) (hw : c.win ≠ 0) :
    s.command true op true c act = ended c op s cmdBad 0 := by
  unfold State.command
  rw [h, if_neg (by decide), hq]
  dsimp only
  rw [if_neg (by decide), if_pos (by simpa using hw)]
  rfl

/-- A command that nothing keeps back acts, in the phase that its window's queue gives. -/
theorem command_acts {new : Bool} (h : s.full = true) (hn : (new && !(s.vd c.win).cmds.isEmpty) = false)
    (hw : pf = true → c.win = 0) (hd : (s.vd c.win).cmds.drop 1 = []) :
    s.command new op pf c act =
      outcome c op (act (match (s.vd c.win).cmds with | x :: _ => x.1 / 256 | [] => 0) s) := by
  have hpf : (pf && c.win != 0) = false := by
    cases pf with
    | false => rfl
    | true => simp [hw rfl]
  unfold State.command
  dsimp only
  rw [h, if_neg (by decide), hn, if_neg (by decide), hpf, if_neg (by decide), hd]
  cases act (match (s.vd c.win).cmds with | x :: _ => x.1 / 256 | [] => 0) s <;> rfl

/-- A command that arrives alone runs. -/
theorem command_runs (h : s.full = true) (hq : (s.vd c.win).cmds = []) (hw : pf = true → c.win = 0) :
    s.command true op pf c act = outcome c op (act 0 s) := by
  rw [command_acts h (by rw [hq]; rfl) hw (by rw [hq]; rfl), hq]

/-- The only command of its window goes on from its phase. -/
theorem command_goes_on {x : Nat} (h : s.full = true) (hq : (s.vd c.win).cmds = [(x, c)]) (hw : pf = true → c.win = 0) :
    s.command false op pf c act = outcome c op (act (x / 256) s) := by
  rw [command_acts h rfl hw (by rw [hq]; rfl), hq]

end Command

-- Translations.

theorem invalidate_outcome (c : OwnCmd) (op : Nat) (s : State) (drop : TlbE → Bool) (sel : Nat → Bool) :
    outcome c op (s.invalidate drop sel) =
      if ((s.tlbDrop drop).performed sel).2 then ended c op ((s.tlbDrop drop).performed sel).1 cmdOk 0
      else goesOn c op 1 (((s.tlbDrop drop).performed sel).1.askHost ((s.tlbDrop drop).performed sel).1.heldUpd) := by
  unfold State.invalidate
  dsimp only
  split <;> rfl

-- Contexts.

/-- What the end of a context leaves: its counters gone on every die. -/
theorem freeCtx_keeps (s : State) (x : Nat) :
    (s.freeCtx x).mem = s.mem ∧ (s.freeCtx x).groups = s.groups ∧ (s.freeCtx x).mod = s.mod ∧ (s.freeCtx x).ctxs = s.ctxs ∧
    ∀ d, SMap.get? s.dies d ≠ none → ((s.freeCtx x).die d).ctr = SMap.del (s.die d).ctr x := by
  refine ⟨rfl, rfl, rfl, rfl, fun d hd => ?_⟩
  obtain ⟨y, hy⟩ := Option.ne_none_iff_exists'.mp hd
  unfold State.freeCtx State.die SMap.getD
  dsimp only
  rw [Tokens.get?_mapV, show (s.tlbDrop _).dies = s.dies from rfl, hy]
  rfl

section Ctxsync
variable {s : State} {c : OwnCmd} (h : s.full = true) (hq : (s.vd c.win).cmds = [])
include h hq

theorem ctxsync_waits {o : Nat} (ho : s.ctTier (c.win % 256) = some o) :
    evCtxsync true c s = goesOn c 3 0 (s.awaitTier (c.win % 256) o) := by
  unfold evCtxsync
  rw [command_runs h hq (fun h => absurd h (by decide))]
  dsimp only
  rw [if_pos (by decide), ho]
  rfl

theorem ctxsync_valid {e : Nat × Nat × Nat} (ho : s.ctTier (c.win % 256) = none)
    (he : (s.ctSync (c.win % 256) (c.ctx % 256)).ctEntry (c.win % 256) (c.ctx % 256) = some e) (hr : e.2.1.testBit 0 = false) :
    let s1 := s.ctSync (c.win % 256) (c.ctx % 256)
    evCtxsync true c s = ended c 3 { s1 with
      ctxs := SMap.put s1.ctxs (cmdCtx c) { (SMap.get? s1.ctxs (cmdCtx c)).getD (deadCtx 0) with
        pasid := e.1 % 2 ^ 20, s1root := e.2.2, revoked := false, dbg := e.2.1.testBit 1 } } cmdOk 0 := by
  unfold evCtxsync
  rw [command_runs h hq (fun h => absurd h (by decide))]
  dsimp only
  rw [if_pos (by decide), ho]
  dsimp only
  rw [if_pos (by decide), he, Option.filter_some, if_pos (by simp [hr])]
  rfl

theorem ctxsync_gone (ho : s.ctTier (c.win % 256) = none)
    (he : ∀ e, (s.ctSync (c.win % 256) (c.ctx % 256)).ctEntry (c.win % 256) (c.ctx % 256) = some e → e.2.1.testBit 0 = true) :
    let s1 := s.ctSync (c.win % 256) (c.ctx % 256)
    let x := cmdCtx c
    let k : Ctx := (SMap.get? s1.ctxs x).getD (deadCtx 0)
    evCtxsync true c s = outcome c 3 (if s1.grids.any (fun g => g.2.ctx == x) then
        .wait (s1.updCtx x (fun k => { k with revoked := true })) 1
      else
        let w := if (SMap.get? s1.ctxs x).isSome then
          s1.withdraw (fun r => Rank.here s1.mod r && r.vd == x / 256 && r.pasid == k.pasid) false else s1
        .done ({ w with ctxs := SMap.del w.ctxs x }.freeCtx x) cmdOk 0) := by
  have hnone : ((s.ctSync (c.win % 256) (c.ctx % 256)).ctEntry (c.win % 256) (c.ctx % 256)).filter
      (fun e => !e.2.1.testBit 0) = none := by
    rw [Option.filter_eq_none_iff]
    intro e hs
    simp [he e hs]
  unfold evCtxsync
  rw [command_runs h hq (fun h => absurd h (by decide))]
  dsimp only
  rw [if_pos (by decide), ho]
  dsimp only
  rw [if_pos (by decide), hnone]

end Ctxsync

/-- The context table is read without a change of the module. -/
theorem ctSync_mod (s : State) (v n : Nat) : (s.ctSync v n).mod = s.mod := by
  unfold State.ctSync State.ctLoad
  dsimp only
  split
  · rfl
  · split <;> rfl

-- Reports.

/-- A die after an LMS signature: a leaf is used. -/
def leafUsed (d : Die) : Die :=
  { d with lmsLeaf := d.lmsLeaf + 1, lmsTop := if d.lmsTop ≤ d.lmsLeaf then d.lmsTop + 1024 else d.lmsTop }

/-- Both signatures of a die that has leaves left. -/
theorem signBoth_ok {s : State} {die : Nat} (h : (s.die die).lmsLeaf < 2 ^ 25) :
    ∃ sg, s.signBoth die = ((s.setDie die (leafUsed (s.die die))).draw.draw, some sg) ∧ sg.length = 96 + 4 + 1932 := by
  unfold State.signBoth State.lmsSign
  dsimp only
  rw [if_neg (Nat.not_le.mpr h)]
  refine ⟨_, rfl, ?_⟩
  simp [State.freeBytes, TeamStore.length_leBytes]

/-- A die without its meters. -/
def unmetered (x : Die) : Die := { x with meter := [] }

theorem laneTime_unmetered (t : State) (g : Group) (d : Nat) : unmetered ((t.laneTime g).die d) = unmetered (t.die d) := by
  unfold State.laneTime State.meter
  dsimp only
  rw [show ∀ x : State, x.draw.die d = x.die d from fun _ => rfl, Records.die_updDie]
  split
  · next h => rw [h]; rfl
  · rfl

/-- Counting lane-cycles touches meters only. -/
theorem countLanes_keeps (s : State) (v : Nat) : (s.countLanes v).mem = s.mem ∧ (s.countLanes v).mod = s.mod ∧
    ∀ d, unmetered ((s.countLanes v).die d) = unmetered (s.die d) := by
  refine ⟨Packets.foldl_keeps (F := State.mem) (fun t g => ?_) s s.groups,
    Packets.foldl_keeps (F := State.mod) (fun t g => ?_) s s.groups, fun d =>
    Packets.foldl_keeps (F := fun t : State => unmetered (t.die d)) (fun t g => ?_) s s.groups⟩
  · split <;> rfl
  · split <;> rfl
  · split
    · exact laneTime_unmetered ..
    · rfl

/-- The blocks of a report. -/
def blocksFor (s : State) (v : Nat) : List Byte := (s.countLanes v).repBlocks v

theorem reportFlash_keeps (s : State) (v : Nat) : (s.reportFlash v).mem = s.mem ∧
    (s.reportFlash v).mod = { s.mod with seq := s.mod.seq + 1, repFlash := SMap.put s.mod.repFlash v (blocksFor s v) } ∧
    ∀ d, unmetered ((s.reportFlash v).die d) = unmetered (s.die d) := by
  obtain ⟨hmem, hmod, hdie⟩ := countLanes_keeps s v
  refine ⟨hmem, ?_, hdie⟩
  unfold State.reportFlash blocksFor
  rw [← hmod]
  rfl

theorem repBlocks_reportFlash (s : State) (v : Nat) : (s.reportFlash v).repBlocks v = blocksFor s v := rfl

theorem blocksFor_eq (s : State) (v : Nat) : blocksFor s v = (List.range s.mod.dies).flatMap (fun d =>
    leBytes 1 d ++ List.replicate 7 0 ++ (SMap.getD ((s.countLanes v).die d).meter Meter.init v).bytes) := by
  unfold blocksFor State.repBlocks
  rw [(countLanes_keeps s v).2.1]

/-- A signed report. -/
def reportBytes (s : State) (v l : Nat) (sg : List Byte) : List Byte :=
  leBytes 4 0x4B544D52 ++ leBytes 2 1 ++ leBytes 1 v ++ leBytes 1 s.mod.dies ++ leBytes 8 (s.mod.seq + 1) ++
    leBytes 4 s.mod.resets ++ leBytes 1 l ++ List.replicate 11 0 ++ blocksFor s v ++ sg

theorem leaseEnd_ends (s : State) (die : Nat) : (s.leaseEnd die).mem = s.mem ∧
    (s.leaseEnd die).mod.seq = s.mod.seq ∧ (s.leaseEnd die).mod.repFlash = s.mod.repFlash ∧
    ((s.leaseEnd die).die die).leaderOf = none := by
  unfold State.leaseEnd
  split
  · next h => exact ⟨rfl, rfl, rfl, h⟩
  · refine ⟨rfl, ?_, ?_, ?_⟩
    · show (if s.mod.leader == die then _ else _ : Module).seq = _
      split <;> rfl
    · show (if s.mod.leader == die then _ else _ : Module).repFlash = _
      split <;> rfl
    · rw [show ∀ (x : State) f, (x.updMod f).die die = x.die die from fun _ _ => rfl, Records.die_updDie, if_pos rfl]

-- Saved contexts.

/-- Entry `i` of a save table names an image for a context that waits for it. -/
def loads (s : State) (c : OwnCmd) (i : Nat) : Bool :=
  s.saveEntry c i != 0 && (SMap.get? s.ctxs (256 * c.vd + i)).elim false (fun k => k.vstop)

/-- One entry of the table. -/
def loadStep (c : OwnCmd) (key : Nat) (a : CmdRes) (i : Nat) : CmdRes :=
  match a with
  | .wait s n => .wait s n
  | .done s st v =>
    if st != cmdOk || s.saveEntry c i == 0 || !((SMap.get? s.ctxs (256 * c.vd + i)).elim false (fun k => k.vstop)) then .done s st v
    else match s.restoreImage (256 * c.vd + i) (.pa (s.saveEntry c i) key) with
      | .refused => .done s cmdFailed 0
      | .wait s => .wait s 1
      | .ok s => .done s cmdOk 0

/-- What a load ends in: acceptance resumes where every image was restored. -/
def loadEnd (c : OwnCmd) : CmdRes → CmdRes
  | .done s st v => .done (if st == cmdOk then s.updVd c.vd (fun d => { d with saving := false }) else s) st v
  | r => r

theorem loadStep_skips {c : OwnCmd} {key i : Nat} {s : State} (h : loads s c i = false) :
    loadStep c key (.done s cmdOk 0) i = .done s cmdOk 0 := by
  unfold loads at h
  unfold loadStep
  dsimp only
  refine if_pos ?_
  rw [Bool.and_eq_false_iff] at h
  obtain h | h := h
  · simp [bne_eq_false_iff_eq.mp h]
  · simp [h]

theorem foldl_loadStep_skips {c : OwnCmd} {key : Nat} {s : State} {is : List Nat} (h : ∀ i ∈ is, loads s c i = false) :
    is.foldl (loadStep c key) (.done s cmdOk 0) = .done s cmdOk 0 := by
  induction is with
  | nil => rfl
  | cons i is ih =>
    rw [List.foldl_cons, loadStep_skips (h i List.mem_cons_self)]
    exact ih (fun j hj => h j (List.mem_cons_of_mem _ hj))

theorem foldl_loadStep_failed (c : OwnCmd) (key : Nat) (s : State) (is : List Nat) :
    is.foldl (loadStep c key) (.done s cmdFailed 0) = .done s cmdFailed 0 := by
  induction is with
  | nil => rfl
  | cons i is ih => exact ih

theorem foldl_loadStep_waits (c : OwnCmd) (key n : Nat) (s : State) (is : List Nat) :
    is.foldl (loadStep c key) (.wait s n) = .wait s n := by
  induction is with
  | nil => rfl
  | cons i is ih => exact ih

theorem loadStep_loads {c : OwnCmd} {key i : Nat} {s : State} (h : loads s c i = true) :
    loadStep c key (.done s cmdOk 0) i = match s.restoreImage (256 * c.vd + i) (.pa (s.saveEntry c i) key) with
      | .refused => .done s cmdFailed 0
      | .wait s => .wait s 1
      | .ok s => .done s cmdOk 0 := by
  unfold loads at h
  rw [Bool.and_eq_true, bne_iff_ne] at h
  unfold loadStep
  dsimp only
  rw [if_neg (by simp [h.1, h.2, cmdOk])]

/-- The entries before, at and after one. -/
theorem range_split {i n : Nat} (h : i < n) : List.range n = List.range i ++ i :: (List.range' (i + 1) (n - i - 1)) := by
  have hn : n = i + (n - i - 1 + 1) := by omega
  conv => lhs; rw [hn, List.range_eq_range', ← List.range'_append_1, List.range'_succ, Nat.zero_add, ← List.range_eq_range']

theorem vdload_runs {s : State} {c : OwnCmd} (h : s.full = true) (hq : (s.vd c.win).cmds = []) (hw : c.win = 0) :
    evVdload true c s = outcome c 0x13 (loadEnd c ((List.range 256).foldl
      (loadStep c (s.mod.keyTag (s.vd c.vd).inf.skey)) (.done (s.loadCtxs c) cmdOk 0))) := by
  unfold evVdload
  rw [command_runs h hq (fun _ => hw)]
  generalize List.range 256 = is
  rfl

section Load
variable {s : State} {c : OwnCmd} (h : s.full = true) (hq : (s.vd c.win).cmds = []) (hw : c.win = 0)
include h hq hw

/-- No image is to be restored. -/
theorem vdload_nothing (hl : ∀ i < 256, loads (s.loadCtxs c) c i = false) :
    evVdload true c s = ended c 0x13 ((s.loadCtxs c).updVd c.vd (fun d => { d with saving := false })) cmdOk 0 := by
  rw [vdload_runs h hq hw, foldl_loadStep_skips (fun i hi => hl i (List.mem_range.mp hi))]
  rfl

/-- The first image is restored, refused, or waits. -/
theorem vdload_first {i : Nat} (hi : i < 256) (hl : loads (s.loadCtxs c) c i = true)
    (hb : ∀ j < i, loads (s.loadCtxs c) c j = false) :
    evVdload true c s = outcome c 0x13 (loadEnd c ((List.range' (i + 1) (256 - i - 1)).foldl
      (loadStep c (s.mod.keyTag (s.vd c.vd).inf.skey))
      (match (s.loadCtxs c).restoreImage (256 * c.vd + i)
          (.pa ((s.loadCtxs c).saveEntry c i) (s.mod.keyTag (s.vd c.vd).inf.skey)) with
        | .refused => .done (s.loadCtxs c) cmdFailed 0
        | .wait s => .wait s 1
        | .ok s => .done s cmdOk 0))) := by
  rw [vdload_runs h hq hw, range_split hi, List.foldl_append,
    foldl_loadStep_skips (fun j hj => hb j (List.mem_range.mp hj)), List.foldl_cons, loadStep_loads hl] <;> rfl

end Load

theorem loads_eq_false {s : State} {c : OwnCmd} {i : Nat}
    (h : s.saveEntry c i = 0 ∨ (SMap.get? s.ctxs (256 * c.vd + i)).elim false (fun k => k.vstop) = false) :
    loads s c i = false := by
  unfold loads
  obtain h | h := h
  · simp [h]
  · simp [h]

-- Registers that arm a tenant.

theorem remapCtl_spec (s : State) (v i : Nat) (valid mask : Bool) :
    let e := SMap.getD (s.vd v).remap Remap.init i
    let send := mask = false ∧ e.pend = true ∧ valid = true
    (s.remapCtl v i valid mask).mem = s.mem ∧
    SMap.getD ((s.remapCtl v i valid mask).vd v).remap Remap.init i =
      { e with valid := valid, mask := mask, pend := e.pend && !decide send } ∧
    (s.remapCtl v i valid mask).mod.out = s.mod.out ++ if send then [.msi e.addr e.data] else [] := by
  intro e send
  have hsend : (!mask && e.pend && valid) = decide send := by
    simp [send, Bool.and_assoc]
  have hget (x : Remap) : SMap.getD ((s.setVd v { s.vd v with remap := SMap.put (s.vd v).remap i x }).vd v).remap Remap.init i = x := by
    rw [Records.vd_setVd, if_pos rfl, Records.getD_put_same]
  unfold State.remapCtl
  dsimp only
  rw [show (!mask && (SMap.getD (s.vd v).remap Remap.init i).pend && valid) = decide send from hsend]
  by_cases h : send
  · rw [decide_eq_true h, if_pos rfl, if_pos h]
    exact ⟨rfl, hget _, rfl⟩
  · rw [decide_eq_false h, if_neg (by decide), if_neg h, List.append_nil]
    exact ⟨rfl, hget _, rfl⟩

theorem vdEnable_reads {s : State} {v : Nat} (hf : s.full = true) (h : (s.vd v).ent.flags.testBit 0 = false) :
    { evVdEnable v s with vds := s.vds } = s ∧
    ((evVdEnable v s).vd v).ent = { (s.vd v).ent with flags := (s.vd v).ent.flags + 1 } ∧
    ((evVdEnable v s).vd v).inf = s.mod.debugOk { (s.vd v).ent with flags := (s.vd v).ent.flags + 1 } := by
  unfold evVdEnable
  rw [hf, h, if_neg (by decide)]
  unfold State.readVd State.updVd
  refine ⟨rfl, ?_⟩
  rw [Records.vd_setVd, if_pos rfl, Records.vd_setVd, if_pos rfl]
  exact ⟨rfl, rfl⟩

-- The commands of any window.

/-- The commands with their operation codes, the ones of the PF last. -/
noncomputable def pfCommands (c : OwnCmd) : List (Instr × Nat) :=
  [(.tlbiS2 c, 0x10), (.vdreset c, 0x11), (.vdsave c, 0x12), (.vdload c, 0x13), (.keygen c, 0x14)]

noncomputable def commands (c : OwnCmd) : List (Instr × Nat) :=
  [(.tlbiCtx c, 1), (.tlbiVa c, 2), (.ctxsync c, 3), (.dbgrel c, 4), (.report c, 5)] ++ pfCommands c

/-- What a command of an owner window does is `State.command` of some action; one of the PF is marked so. -/
theorem exec_command {s : State} {c : OwnCmd} {e : Instr × Nat} (h : e ∈ commands c) :
    ∃ pf act, exec e.1 s = .next (s.command true e.2 pf c act) ∧ (e ∈ pfCommands c → pf = true) := by
  simp only [commands, pfCommands, List.mem_append, List.mem_cons, List.not_mem_nil, or_false] at h ⊢
  obtain (rfl | rfl | rfl | rfl | rfl) | rfl | rfl | rfl | rfl | rfl := h
  · exact ⟨_, _, rfl, by simp⟩
  · exact ⟨_, _, rfl, by simp⟩
  · exact ⟨_, _, rfl, by simp⟩
  · exact ⟨_, _, rfl, by simp⟩
  · exact ⟨_, _, rfl, by simp⟩
  · exact ⟨_, _, rfl, fun _ => rfl⟩
  · exact ⟨_, _, rfl, fun _ => rfl⟩
  · exact ⟨_, _, rfl, fun _ => rfl⟩
  · exact ⟨_, _, rfl, fun _ => rfl⟩
  · exact ⟨_, _, rfl, fun _ => rfl⟩

section Runs
variable {s : State} {c : OwnCmd} (h : s.full = true) (hq : (s.vd c.win).cmds = [])
include h hq

theorem tlbiCtx_runs : evTlbiCtx true c s = outcome c 1 (s.invalidate (fun e => e.ctx == cmdCtx c) (fun x => x == cmdCtx c)) :=
  command_runs h hq (fun h => absurd h (by decide))

theorem tlbiVa_runs : evTlbiVa true c s = outcome c 2 (s.invalidate
    (fun e => e.ctx == cmdCtx c && overlap e.va e.size (c.a.toNat + bits c.b.toNat 15 0 * 2 ^ 64) (65536 * bits c.b.toNat 47 16))
    (fun x => x == cmdCtx c)) :=
  command_runs h hq (fun h => absurd h (by decide))

theorem tlbiS2_runs (hw : c.win = 0) : evTlbiS2 true c s = outcome c 0x10 ((s.readVd c.vd).invalidate
    (fun e => e.ctx / 256 == c.vd && (c.b == 0 || overlap e.ipa e.size c.a.toNat (65536 * c.b.toNat)))
    (fun x => x / 256 == c.vd)) :=
  command_runs h hq (fun _ => hw)

theorem dbgrel_runs : ∃ t : State, evDbgrel true c s = ended c 4 t cmdOk 0 ∧ t.mem = s.mem ∧
    t.groups = s.groups.map (fun e => (e.1, if e.2.ctx = cmdCtx c then { e.2 with halted := none } else e.2)) := by
  refine ⟨_, command_runs h hq (fun h => absurd h (by decide)), rfl, ?_⟩
  show s.groups.map _ = _
  refine List.map_congr_left (fun e _ => ?_)
  simp only [beq_iff_eq]

/-- A context whose entry is revoked waits for its grids. -/
theorem ctxsync_revoked (ho : s.ctTier (c.win % 256) = none)
    (he : ∀ e, (s.ctSync (c.win % 256) (c.ctx % 256)).ctEntry (c.win % 256) (c.ctx % 256) = some e → e.2.1.testBit 0 = true)
    (hg : ∃ g ∈ (s.ctSync (c.win % 256) (c.ctx % 256)).grids, g.2.ctx = cmdCtx c) :
    evCtxsync true c s = goesOn c 3 1
      ((s.ctSync (c.win % 256) (c.ctx % 256)).updCtx (cmdCtx c) (fun k => { k with revoked := true })) := by
  rw [ctxsync_gone h hq ho he]
  dsimp only
  rw [if_pos (by simpa using hg)]
  rfl

/-- A context without grids goes, with its translations and counters. -/
theorem ctxsync_goes (ho : s.ctTier (c.win % 256) = none)
    (he : ∀ e, (s.ctSync (c.win % 256) (c.ctx % 256)).ctEntry (c.win % 256) (c.ctx % 256) = some e → e.2.1.testBit 0 = true)
    (hg : ∀ g ∈ (s.ctSync (c.win % 256) (c.ctx % 256)).grids, g.2.ctx ≠ cmdCtx c) :
    let s1 := s.ctSync (c.win % 256) (c.ctx % 256)
    let x := cmdCtx c
    let k : Ctx := (SMap.get? s1.ctxs x).getD (deadCtx 0)
    let w := if (SMap.get? s1.ctxs x).isSome then
      s1.withdraw (fun r => Rank.here s.mod r && r.vd == x / 256 && r.pasid == k.pasid) false else s1
    evCtxsync true c s = ended c 3 ({ w with ctxs := SMap.del w.ctxs x }.freeCtx x) cmdOk 0 := by
  intro s1 x k w
  rw [ctxsync_gone h hq ho he]
  dsimp only
  rw [if_neg (by simpa using hg), ctSync_mod]
  rfl

-- A report.

theorem report_runs : evReport true c s = outcome c 5 (
    let v := if c.win == 0 then bits c.b.toNat 7 0 else c.win
    match s.leading, c.rep with
    | none, _ | _, .noFlash => .done s cmdFailed 0
    | some l, .lapsed => .done ((s.reportFlash v).leaseEnd l) cmdFailed 0
    | some l, .released =>
      let s := s.reportFlash v
      let n := s.mod.dies
      let head := leBytes 4 0x4B544D52 ++ leBytes 2 1 ++ leBytes 1 v ++ leBytes 1 n ++ leBytes 8 s.mod.seq ++
        leBytes 4 s.mod.resets ++ leBytes 1 l ++ List.replicate 11 0
      let r := s.signBoth l
      match r.2 with
      | none => .done r.1 cmdFailed 0
      | some sg =>
        let out := head ++ s.repBlocks v ++ sg
        .done (r.1.cmdWrite c.win c.a.toNat out) cmdOk out.length) :=
  command_runs h hq (fun h => absurd h (by decide))

theorem report_fails (hl : s.leading = none ∨ c.rep = .noFlash) : evReport true c s = ended c 5 s cmdFailed 0 := by
  rw [report_runs h hq]
  dsimp only
  obtain hl | hl := hl
  · rw [hl]; rfl
  · rw [hl]
    cases s.leading <;> rfl

theorem report_lapses {l : Nat} (hl : s.leading = some l) (hr : c.rep = .lapsed) : evReport true c s =
    ended c 5 ((s.reportFlash (if c.win == 0 then bits c.b.toNat 7 0 else c.win)).leaseEnd l) cmdFailed 0 := by
  rw [report_runs h hq, hl, hr]
  rfl

theorem report_released {l : Nat} (hl : s.leading = some l) (hr : c.rep = .released) (hleaf : (s.die l).lmsLeaf < 2 ^ 25) :
    let v := if c.win == 0 then bits c.b.toNat 7 0 else c.win
    let t := s.reportFlash v
    let t1 := (t.setDie l (leafUsed (t.die l))).draw.draw
    ∃ sg, sg.length = 96 + 4 + 1932 ∧ evReport true c s =
      ended c 5 (t1.cmdWrite c.win c.a.toNat (reportBytes s v l sg)) cmdOk (reportBytes s v l sg).length := by
  intro v t t1
  obtain ⟨_, hmod, hdie⟩ := reportFlash_keeps s v
  have hleaf' : ((s.reportFlash v).die l).lmsLeaf < 2 ^ 25 := by
    rw [show ((s.reportFlash v).die l).lmsLeaf = (s.die l).lmsLeaf from
      (congrArg (fun x : Die => x.lmsLeaf) (hdie l) :)]
    exact hleaf
  obtain ⟨sg, hsg, hlen⟩ := signBoth_ok hleaf'
  refine ⟨sg, hlen, ?_⟩
  rw [report_runs h hq, hl, hr]
  dsimp only
  rw [hsg]
  dsimp only
  rw [repBlocks_reportFlash, hmod]
  rfl

-- Commands of the PF.

theorem vdreset_runs (hw : c.win = 0) : evVdreset true c s = outcome c 0x11 (
    let r := s.vdResetStep c.vd (c.vd == c.win) 1
    if r.2 then .done r.1 cmdOk 0 else .wait r.1 1) :=
  command_runs h hq (fun _ => hw)

theorem vdsave_runs (hw : c.win = 0) : evVdsave true c s = outcome c 0x12 (
    let live := s.liveCtxs c.vd
    let s1 := s.updVd c.vd (fun d => { d with saving := true })
    if live.any (fun i => s.saveEntry c i == 0) then .done s cmdFailed 0
    else if s.ctxs.any (fun e => e.1 / 256 == c.vd && e.2.cut.isSome) then .wait s1 1
    else if live.isEmpty then .done s1 cmdOk 0 else .wait (s1.saveAll c) 2) := by
  unfold evVdsave
  rw [command_runs h hq (fun _ => hw)]
  rfl

theorem keygen_runs (hw : c.win = 0) : evKeygen true c s = outcome c 0x14 (
    let k := bits c.b.toNat 7 0
    if k == 0 then .done s cmdFailed 0
    else
      let s := s.updMod (fun m => { m with keys := SMap.put m.keys k (SMap.getD m.keys 0 k + 1) })
      .done (s.retag k (s.mod.keyTag k)) cmdOk 0) :=
  command_runs h hq (fun _ => hw)

end Runs

/-- A VD in reset, without its groups, grids and ranks. -/
def reclaimed (s : State) (v how : Nat) : State :=
  ((s.updVd v (fun d => { d with queued := [], reset := how })).reclaim v).withdraw (fun r => Rank.here s.mod r && r.vd == v) true

/-- The devices' accesses for a VD are dropped and the engines drained. -/
def dropAccesses (v : Nat) (u : State) : State := { u with devQ := u.devQ.filter (fun a => a.vd != v) }.drainAll

/-- A reset of a VD is complete when what was on its way has drained. -/
theorem vdResetStep_eq (s : State) (v : Nat) (own : Bool) (how : Nat) : s.vdResetStep v own how =
    if !(dropAccesses v (reclaimed s v how)).quiet then (dropAccesses v (reclaimed s v how), false)
    else ((dropAccesses v (reclaimed s v how)).updVd v (fun d => d.ownerReset own), true) := by
  have hmod : (s.updVd v (fun d => { d with queued := [], reset := how })).mod = s.mod := rfl
  generalize hu : reclaimed s v how = u
  unfold reclaimed at hu
  rw [← hmod] at hu
  unfold State.vdResetStep
  extract_lets s1 s2 s3
  have hs3 : s3 = dropAccesses v u := congrArg (dropAccesses v) hu
  rw [hs3]

section Reset
variable {s : State} {c : OwnCmd} (h : s.full = true) (hq : (s.vd c.win).cmds = []) (hw : c.win = 0)
include h hq hw

theorem vdreset_quiet (ht : (dropAccesses c.vd (reclaimed s c.vd 1)).quiet = true) :
    evVdreset true c s = ended c 0x11 ((dropAccesses c.vd (reclaimed s c.vd 1)).updVd c.vd (fun d => d.ownerReset (c.vd == c.win))) cmdOk 0 := by
  rw [vdreset_runs h hq hw, vdResetStep_eq]
  generalize dropAccesses c.vd (reclaimed s c.vd 1) = t at ht ⊢
  rw [ht]
  rfl

theorem vdreset_waits (ht : (dropAccesses c.vd (reclaimed s c.vd 1)).quiet = false) :
    evVdreset true c s = goesOn c 0x11 1 (dropAccesses c.vd (reclaimed s c.vd 1)) := by
  rw [vdreset_runs h hq hw, vdResetStep_eq]
  generalize dropAccesses c.vd (reclaimed s c.vd 1) = t at ht ⊢
  rw [ht]
  rfl

end Reset

-- The save of a VD.

/-- A context of a VD is being cut. -/
def cutting (s : State) (v : Nat) : Prop := ∃ e ∈ s.ctxs, e.1 / 256 = v ∧ e.2.cut.isSome = true

theorem any_cut_iff (s : State) (v : Nat) :
    s.ctxs.any (fun e => e.1 / 256 == v && e.2.cut.isSome) = true ↔ cutting s v := by
  simp [cutting]

theorem any_cut_eq_false {s : State} {v : Nat} (h : ¬ cutting s v) :
    s.ctxs.any (fun e => e.1 / 256 == v && e.2.cut.isSome) = false :=
  Bool.eq_false_iff.mpr (fun hc => h ((any_cut_iff s v).mp hc))

section Save
variable {s : State} {c : OwnCmd} (h : s.full = true) (hq : (s.vd c.win).cmds = []) (hw : c.win = 0)
include h hq hw

theorem vdsave_fails (hl : ∃ i ∈ s.liveCtxs c.vd, s.saveEntry c i = 0) :
    evVdsave true c s = ended c 0x12 s cmdFailed 0 := by
  rw [vdsave_runs h hq hw]
  dsimp only
  rw [if_pos (by simpa using hl)]
  rfl

theorem vdsave_saves (hl : ∀ i ∈ s.liveCtxs c.vd, s.saveEntry c i ≠ 0) :
    let s1 := s.updVd c.vd (fun d => { d with saving := true })
    (cutting s c.vd → evVdsave true c s = goesOn c 0x12 1 s1) ∧
    (¬ cutting s c.vd → s.liveCtxs c.vd = [] → evVdsave true c s = ended c 0x12 s1 cmdOk 0) ∧
    (¬ cutting s c.vd → s.liveCtxs c.vd ≠ [] → evVdsave true c s = goesOn c 0x12 2 (s1.saveAll c)) := by
  intro s1
  rw [vdsave_runs h hq hw]
  dsimp only
  rw [if_neg (by simpa using hl)]
  refine ⟨fun hb => ?_, fun hb he => ?_, fun hb he => ?_⟩
  · rw [if_pos ((any_cut_iff s c.vd).mpr hb)]
    rfl
  · rw [any_cut_eq_false hb, if_neg (by decide), he]
    rfl
  · rw [any_cut_eq_false hb, if_neg (by decide), if_neg (by simpa using he)]
    rfl

end Save

/-- Once its contexts are cut, a save is done. -/
theorem vdsave_cuts {s : State} {c : OwnCmd} (h : s.full = true) (hw : c.win = 0) (hq : (s.vd 0).cmds = [(0x12 + 512, c)]) :
    (cutting s c.vd → evVdsave false c s = goesOn c 0x12 2 s) ∧
    (¬ cutting s c.vd → evVdsave false c s = ended c 0x12 s cmdOk 0) := by
  have hrun : evVdsave false c s = outcome c 0x12
      (if s.ctxs.any (fun e => e.1 / 256 == c.vd && e.2.cut.isSome) then .wait s 2 else .done s cmdOk 0) := by
    unfold evVdsave
    rw [command_goes_on h (by rw [hw]; exact hq) (fun _ => hw)]
    rfl
  rw [hrun]
  refine ⟨fun hb => ?_, fun hb => ?_⟩
  · rw [if_pos ((any_cut_iff s c.vd).mpr hb)]
    rfl
  · rw [any_cut_eq_false hb]
    rfl

-- The clauses of the obligation.

section Clauses
variable {s : State} {c : OwnCmd}

theorem inval_of_outcome {i : Instr} {f : State} {op : Nat} {s1 : State} {drop : TlbE → Bool} {sel : Nat → Bool}
    (hx : exec i s = .next f) (hf : f = outcome c op (s1.invalidate drop sel)) :
    let r := (s1.tlbDrop drop).performed sel
    exec i s = .next (if r.2 then ended c op r.1 cmdOk 0 else goesOn c op 1 (r.1.askHost r.1.heldUpd)) := by
  rw [hx, hf, invalidate_outcome]

theorem flr_steps (s : State) (v : Nat) : ((s.vd v).reset ≠ 2 ∨ s.vdSaving v = true → evFlr v s = s) ∧
    ((s.vd v).reset = 2 → s.vdSaving v = false → evFlr v s = (s.vdResetStep v false 2).1) := by
  refine ⟨fun h => if_pos (by simpa using h), fun hr hs => if_neg (by simp [hr, hs])⟩

theorem vdEnable_clause (s : State) (v : Nat) :
    (s.full = false ∨ (s.vd v).ent.flags.testBit 0 = true → exec (.vdEnable v) s = .next s) ∧
    (s.full = true → (s.vd v).ent.flags.testBit 0 = false → ∃ t, exec (.vdEnable v) s = .next t ∧
      { t with vds := s.vds } = s ∧ (t.vd v).ent = { (s.vd v).ent with flags := (s.vd v).ent.flags + 1 } ∧
      (t.vd v).inf = s.mod.debugOk (t.vd v).ent) := by
  refine ⟨fun h => congrArg Host.Outcome.next (if_pos (by simpa using h)), fun hf hb => ⟨_, rfl, ?_⟩⟩
  obtain ⟨hs, hent, hinf⟩ := vdEnable_reads hf hb
  exact ⟨hs, hent, by rw [hinf, hent]⟩

theorem remapUnmask_clause (s : State) (v i : Nat) :
    (s.full = false ∨ (s.vd v).inf.nvec ≤ i → exec (.remapUnmask v i) s = .next s) ∧
    (s.full = true → i < (s.vd v).inf.nvec →
      let e := SMap.getD (s.vd v).remap Remap.init i
      let send := e.pend = true ∧ e.valid = true
      ∃ t, exec (.remapUnmask v i) s = .next t ∧ t.mem = s.mem ∧
        SMap.getD (t.vd v).remap Remap.init i = { e with mask := false, pend := e.pend && !decide send } ∧
        t.mod.out = s.mod.out ++ if send then [.msi e.addr e.data] else []) := by
  refine ⟨fun h => congrArg Host.Outcome.next (if_pos (by simpa using h)), fun hf hi => ?_⟩
  obtain ⟨hmem, hget, hout⟩ := remapCtl_spec s v i (SMap.getD (s.vd v).remap Remap.init i).valid false
  refine ⟨_, congrArg Host.Outcome.next (if_neg (by simp [hf, hi])), hmem, ?_, ?_⟩
  · simpa using hget
  · simpa using hout

end Clauses

/-- Settles O59: each command runs by `State.command`, which writes its outcome. -/
theorem tenantCommands : Obligations.TenantCommands := by
  intro s c fin on pf all x inval
  refine ⟨fun e he hf => ?_, fun e he hf y ys hq => ?_, fun e he hf hq hw => ?_, fun hf hq =>
    ⟨inval_of_outcome rfl (tlbiCtx_runs hf hq), inval_of_outcome rfl (tlbiVa_runs hf hq), ?_, ?_, ?_, ?_, ?_⟩,
    fun hf hw hq => vdsave_cuts hf hw hq, flr_steps s, vdEnable_clause s, remapUnmask_clause s⟩
  · obtain ⟨_, _, hx, _⟩ := exec_command (s := s) (c := c) he
    rw [hx, command_off hf]
  · obtain ⟨_, _, hx, _⟩ := exec_command (s := s) (c := c) he
    rw [hx, command_queued hf hq]
  · obtain ⟨_, _, hx, hpf⟩ := exec_command (s := s) (c := c) (List.mem_append_right _ he)
    rw [hx, hpf he, command_pf hf hq hw]
    rfl
  · refine ⟨fun o ho => congrArg Host.Outcome.next (ctxsync_waits hf hq ho), fun ho =>
      ⟨fun e he hr => congrArg Host.Outcome.next (ctxsync_valid hf hq ho he hr), fun he =>
      ⟨fun hg => congrArg Host.Outcome.next (ctxsync_revoked hf hq ho he hg), fun hg => ?_⟩⟩⟩
    obtain ⟨hmem, hgroups, hmod, hctxs, hctr⟩ := freeCtx_keeps _ (cmdCtx c)
    exact ⟨_, congrArg Host.Outcome.next (ctxsync_goes hf hq ho he hg), hmem, hgroups, hmod, hctxs, hctr⟩
  · obtain ⟨t, ht, hkeeps⟩ := dbgrel_runs hf hq
    exact ⟨t, congrArg Host.Outcome.next ht, hkeeps⟩
  · exact fun hl => congrArg Host.Outcome.next (report_fails hf hq hl)
  · intro v blocks stored
    obtain ⟨hmem, hmod, hdie⟩ := reportFlash_keeps s v
    have hblocks : SMap.get? (s.reportFlash v).mod.repFlash v = some blocks := by
      rw [hmod, SMap.get?_put_same, blocksFor_eq]
    refine ⟨fun l hl hr => ?_, fun l hl hr hleaf => ?_⟩
    · obtain ⟨hm, hseq, hrep, hnone⟩ := leaseEnd_ends (s.reportFlash v) l
      exact ⟨_, congrArg Host.Outcome.next (report_lapses hf hq hl hr), ⟨hm.trans hmem, by rw [hseq, hmod],
        by rw [hrep, hblocks]⟩, hnone⟩
    · obtain ⟨sg, hlen, hx⟩ := report_released hf hq hl hr hleaf
      refine ⟨((s.reportFlash v).setDie l (leafUsed ((s.reportFlash v).die l))).draw.draw, sg,
        ⟨hmem, congrArg (fun m : Module => m.seq) hmod, hblocks⟩, hlen, ?_⟩
      intro out
      have hout : out = reportBytes s v l sg := by
        unfold reportBytes
        rw [blocksFor_eq]
      rw [hout]
      exact congrArg Host.Outcome.next hx
  · refine fun hw => ⟨inval_of_outcome rfl (tlbiS2_runs hf hq hw), ?_, ⟨?_, ?_⟩, ?_, ?_, ?_⟩
    · intro u t
      have ht : t = dropAccesses c.vd (reclaimed s c.vd 1) := rfl
      rw [ht]
      exact ⟨fun ht => congrArg Host.Outcome.next (vdreset_quiet hf hq hw ht),
        fun ht => congrArg Host.Outcome.next (vdreset_waits hf hq hw ht)⟩
    · exact fun hl => congrArg Host.Outcome.next (vdsave_fails hf hq hw hl)
    · intro hl
      obtain ⟨h1, h2, h3⟩ := vdsave_saves hf hq hw hl
      exact ⟨fun hb => congrArg Host.Outcome.next (h1 hb), fun hb he => congrArg Host.Outcome.next (h2 hb he),
        fun hb he => congrArg Host.Outcome.next (h3 hb he)⟩
    · exact fun hl => congrArg Host.Outcome.next (vdload_nothing hf hq hw (fun i hi => loads_eq_false (hl i hi)))
    · intro i s2 s1 hi hne hstop hb r
      have hl : loads s1 c i = true := by simp [loads, hne, hstop]
      have hx := vdload_first hf hq hw hi hl (fun j hj => loads_eq_false (hb j hj))
      refine ⟨fun hr => ?_, fun hr hrest => ?_, fun hr => ?_⟩
      · rw [show State.restoreImage _ _ _ = _ from hr] at hx
        dsimp only at hx
        rw [foldl_loadStep_failed] at hx
        exact congrArg Host.Outcome.next hx
      · rw [show State.restoreImage _ _ _ = _ from hr] at hx
        dsimp only at hx
        rw [foldl_loadStep_skips (fun j hj => ?_)] at hx
        · exact congrArg Host.Outcome.next hx
        · rw [List.mem_range'_1] at hj
          exact loads_eq_false (hrest j (by omega) (by omega))
      · rw [show State.restoreImage _ _ _ = _ from hr] at hx
        dsimp only at hx
        rw [foldl_loadStep_waits] at hx
        exact congrArg Host.Outcome.next hx
    · refine ⟨fun hk => ?_, fun hk => ?_⟩
      · have hx := keygen_runs hf hq hw
        dsimp only at hx
        rw [if_pos (by simpa using hk)] at hx
        exact congrArg Host.Outcome.next hx
      · have hx := keygen_runs hf hq hw
        dsimp only at hx
        rw [if_neg (by simpa using hk)] at hx
        exact congrArg Host.Outcome.next hx

end Sys2Proof.Proofs.Tenants
end

section
/-! PROOFS. The mesh: routes, links and their failures. -/

namespace Sys2Proof.Proofs.Mesh
open Sys2Proof Sys2Proof.Machine

-- Counting toward a number.

/-- The `k`-th number on the way from `a` to `b`. -/
def toward (a b k : Nat) : Nat := if a < b then a + k else a - k

@[simp] theorem toward_zero (a b : Nat) : toward a b 0 = a := by
  unfold toward
  split <;> rfl

theorem toward_natDist (a b : Nat) : toward a b (natDist a b) = b := by
  unfold toward natDist
  split <;> omega

@[simp] theorem length_countTo (a b : Nat) : (countTo a b).length = natDist a b := by
  simp [countTo]

theorem getElem?_countTo {a b k : Nat} (h : k < natDist a b) : (countTo a b)[k]? = some (toward a b (k + 1)) := by
  unfold countTo toward
  rw [List.getElem?_map, List.getElem?_range h, Option.map_some]
  split <;> simp <;> omega

-- A route of two legs.

/-- The places of two legs, one after the other: the second begins where the first ends. -/
theorem getD_legs {f g : Nat → Nat} {p₁ q₁ p₂ q₂ : Nat} (k : Nat) (hk : k ≤ natDist p₁ q₁ + natDist p₂ q₂) :
    (f p₁ :: ((countTo p₁ q₁).map f ++ (countTo p₂ q₂).map g)).getD k 0 =
      if k ≤ natDist p₁ q₁ then f (toward p₁ q₁ k) else g (toward p₂ q₂ (k - natDist p₁ q₁)) := by
  rw [List.getD_eq_getElem?_getD]
  cases k with
  | zero => simp
  | succ k =>
    rw [List.getElem?_cons_succ]
    by_cases h : k < natDist p₁ q₁
    · rw [List.getElem?_append_left (by simpa using h), List.getElem?_map, getElem?_countTo h, if_pos (by omega)]
      rfl
    · rw [List.getElem?_append_right (by simpa using h), List.getElem?_map, List.length_map, length_countTo,
        getElem?_countTo (by omega), if_neg (by omega), Option.map_some, Option.getD_some]
      congr 2
      omega

/-- A relation that holds along both legs holds from each place of the route to the next. -/
theorem legs_step {f g : Nat → Nat} {p₁ q₁ p₂ q₂ : Nat} {R : Nat → Nat → Prop} (hc : f q₁ = g p₂)
    (hf : ∀ k < natDist p₁ q₁, R (f (toward p₁ q₁ k)) (f (toward p₁ q₁ (k + 1))))
    (hg : ∀ k < natDist p₂ q₂, R (g (toward p₂ q₂ k)) (g (toward p₂ q₂ (k + 1)))) (k : Nat)
    (hk : k < natDist p₁ q₁ + natDist p₂ q₂) :
    let r := f p₁ :: ((countTo p₁ q₁).map f ++ (countTo p₂ q₂).map g)
    R (r.getD k 0) (r.getD (k + 1) 0) := by
  intro r
  rw [getD_legs k (by omega), getD_legs (k + 1) (by omega)]
  by_cases h : k < natDist p₁ q₁
  · rw [if_pos (by omega), if_pos (by omega)]
    exact hf k h
  · rw [if_neg (show ¬ k + 1 ≤ natDist p₁ q₁ by omega), show k + 1 - natDist p₁ q₁ = k - natDist p₁ q₁ + 1 by omega]
    by_cases he : k = natDist p₁ q₁
    · subst he
      rw [if_pos (Nat.le_refl _), toward_natDist, hc, Nat.sub_self]
      simpa using hg 0 (by omega)
    · rw [if_neg (by omega)]
      exact hg _ (by omega)

-- Dies at their places.

/-- Columns, and rows, of a module. -/
def width (m : Module) : Nat := if m.expander then 2 else 4

theorem meshAt_lt {m : Module} {d : Nat} (h : d < m.dies) : (meshAt m d).1 < width m ∧ (meshAt m d).2 < width m := by
  unfold Module.dies at h
  unfold meshAt width
  cases hx : m.expander <;> simp [hx] at h ⊢ <;> omega

theorem meshDie_meshAt (m : Module) (d : Nat) : meshDie m (meshAt m d).1 (meshAt m d).2 = d := by
  unfold meshDie meshAt
  cases m.expander <;> simp <;> omega

theorem meshAt_meshDie {m : Module} {x y : Nat} (hx : x < width m) : meshAt m (meshDie m x y) = (x, y) := by
  unfold width at hx
  unfold meshDie meshAt
  cases h : m.expander <;> simp [h] at hx ⊢ <;> omega

theorem meshDie_lt {m : Module} {x y : Nat} (hx : x < width m) (hy : y < width m) : meshDie m x y < m.dies := by
  unfold width at hx hy
  unfold meshDie Module.dies
  cases h : m.expander <;> simp [h] at hx hy ⊢ <;> omega

theorem dies_le (m : Module) : m.dies ≤ 16 := by
  unfold Module.dies
  split <;> omega

/-- Dies at places at distance 1 share a link. -/
theorem meshLink_meshDie {m : Module} {x y x' y' : Nat} (hx : x < width m) (hy : y < width m) (hx' : x' < width m)
    (hy' : y' < width m) (h : natDist x x' + natDist y y' = 1) : meshLink m (meshDie m x y) (meshDie m x' y') = true := by
  unfold meshLink meshHops
  rw [meshAt_meshDie hx, meshAt_meshDie hx']
  simp [meshDie_lt, hx, hy, hx', hy', h]

theorem toward_lt {a b k w : Nat} (ha : a < w) (hb : b < w) (hk : k ≤ natDist a b) : toward a b k < w := by
  unfold toward
  unfold natDist at hk
  split <;> omega

theorem natDist_toward {a b k : Nat} (hk : k < natDist a b) : natDist (toward a b k) (toward a b (k + 1)) = 1 := by
  unfold toward
  unfold natDist at hk ⊢
  split <;> omega

theorem natDist_self (a : Nat) : natDist a a = 0 := by
  simp [natDist]

theorem natDist_comm (a b : Nat) : natDist a b = natDist b a := by
  unfold natDist
  omega

theorem row_step {m : Module} {a b y k : Nat} (ha : a < width m) (hb : b < width m) (hy : y < width m) (hk : k < natDist a b) :
    meshLink m (meshDie m (toward a b k) y) (meshDie m (toward a b (k + 1)) y) = true :=
  meshLink_meshDie (toward_lt ha hb (by omega)) hy (toward_lt ha hb hk) hy (by rw [natDist_toward hk, natDist_self])

theorem column_step {m : Module} {a b x k : Nat} (ha : a < width m) (hb : b < width m) (hx : x < width m) (hk : k < natDist a b) :
    meshLink m (meshDie m x (toward a b k)) (meshDie m x (toward a b (k + 1))) = true :=
  meshLink_meshDie hx (toward_lt ha hb (by omega)) hx (toward_lt ha hb hk) (by rw [natDist_toward hk, natDist_self])

-- Routes.

theorem length_meshRoute (m : Module) (f : Bool) (a b : Nat) : (meshRoute m f a b).length = meshHops m a b := by
  unfold meshRoute meshHops
  cases f <;> simp <;> omega

/-- A route ends at its destination. -/
theorem getLast?_meshRoute (m : Module) (f : Bool) (a b : Nat) : (a :: meshRoute m f a b).getLast? = some b := by
  have hlen := length_meshRoute m f a b
  have hk : meshHops m a b < (a :: meshRoute m f a b).length := by simp [hlen]
  have hget : (a :: meshRoute m f a b).getD (meshHops m a b) 0 = b := by
    unfold meshHops
    cases f with
    | false =>
      have h := getD_legs (f := fun x => meshDie m x (meshAt m a).2) (g := fun y => meshDie m (meshAt m b).1 y)
        (p₁ := (meshAt m a).1) (q₁ := (meshAt m b).1) (p₂ := (meshAt m a).2) (q₂ := (meshAt m b).2) _ (Nat.le_refl _)
      rw [meshDie_meshAt] at h
      refine h.trans ?_
      split
      · next hz =>
        have he : (meshAt m a).2 = (meshAt m b).2 := by
          have hz : natDist (meshAt m a).2 (meshAt m b).2 = 0 := by omega
          unfold natDist at hz
          omega
        rw [he, natDist_self, Nat.add_zero, toward_natDist, meshDie_meshAt]
      · rw [Nat.add_sub_cancel_left, toward_natDist, meshDie_meshAt]
    | true =>
      have h := getD_legs (f := fun y => meshDie m (meshAt m a).1 y) (g := fun x => meshDie m x (meshAt m b).2)
        (p₁ := (meshAt m a).2) (q₁ := (meshAt m b).2) (p₂ := (meshAt m a).1) (q₂ := (meshAt m b).1) _ (Nat.le_refl _)
      rw [meshDie_meshAt] at h
      rw [Nat.add_comm]
      refine h.trans ?_
      split
      · next hz =>
        have he : (meshAt m a).1 = (meshAt m b).1 := by
          have hz : natDist (meshAt m a).1 (meshAt m b).1 = 0 := by omega
          unfold natDist at hz
          omega
        rw [he, natDist_self, Nat.add_zero, toward_natDist, meshDie_meshAt]
      · rw [Nat.add_sub_cancel_left, toward_natDist, meshDie_meshAt]
  rw [List.getLast?_eq_getElem?, List.length_cons, hlen, Nat.add_sub_cancel]
  rw [List.getD_eq_getElem?_getD, List.getElem?_eq_getElem hk] at hget
  rw [List.getElem?_eq_getElem hk]
  exact congrArg some hget

section Route
variable {m : Module} {a b : Nat} (ha : a < m.dies) (hb : b < m.dies)
include ha hb

/-- A route runs over links. -/
theorem meshRoute_step (f : Bool) (k : Nat) (hk : k < meshHops m a b) :
    meshLink m ((a :: meshRoute m f a b).getD k 0) ((a :: meshRoute m f a b).getD (k + 1) 0) = true := by
  obtain ⟨ha₁, ha₂⟩ := meshAt_lt ha
  obtain ⟨hb₁, hb₂⟩ := meshAt_lt hb
  unfold meshHops at hk
  cases f with
  | false =>
    have h := legs_step (R := fun x y => meshLink m x y = true) (f := fun x => meshDie m x (meshAt m a).2)
      (g := fun y => meshDie m (meshAt m b).1 y) rfl (fun k hk => row_step ha₁ hb₁ ha₂ hk)
      (fun k hk => column_step ha₂ hb₂ hb₁ hk) k hk
    rw [meshDie_meshAt] at h
    exact h
  | true =>
    have h := legs_step (R := fun x y => meshLink m x y = true) (f := fun y => meshDie m (meshAt m a).1 y)
      (g := fun x => meshDie m x (meshAt m b).2) rfl (fun k hk => column_step ha₂ hb₂ ha₁ hk)
      (fun k hk => row_step ha₁ hb₁ hb₂ hk) k (by omega)
    dsimp only at h
    rw [meshDie_meshAt] at h
    exact h

theorem lt_of_mem_meshRoute {f : Bool} {d : Nat} (hd : d ∈ meshRoute m f a b) : d < m.dies := by
  obtain ⟨k, hk, rfl⟩ := List.getElem_of_mem hd
  have h := meshRoute_step ha hb f k (by rwa [length_meshRoute] at hk)
  unfold meshLink at h
  rw [List.getD_cons_succ, List.getD_eq_getElem?_getD (l := meshRoute m f a b), List.getElem?_eq_getElem hk,
    Option.getD_some] at h
  simp only [Bool.and_eq_true, decide_eq_true_eq] at h
  exact h.1.2

end Route

/-- Without a failed link every route runs along its row first. -/
theorem routeDown_nil {m : Module} (h : m.links = []) (a : Nat) (r : List Nat) : m.routeDown a r = false := by
  induction r generalizing a with
  | nil => rfl
  | cons y r ih =>
    unfold Module.routeDown
    rw [ih, Bool.or_false]
    unfold Module.linkDown
    rw [h]
    rfl

theorem route_nil {m : Module} (h : m.links = []) (a b : Nat) : m.route a b = meshRoute m false a b := by
  unfold Module.route
  dsimp only
  rw [routeDown_nil h]
  rfl

-- Links.

theorem meshHops_comm (m : Module) (a b : Nat) : meshHops m a b = meshHops m b a := by
  unfold meshHops
  rw [natDist_comm, natDist_comm (meshAt m a).2]

theorem meshLink_comm (m : Module) (a b : Nat) : meshLink m a b = meshLink m b a := by
  unfold meshLink
  rw [meshHops_comm, Bool.and_comm (decide (a < m.dies))]

theorem linkKey_inj {a b x y : Nat} (hb : b < 16) (hy : y < 16) : linkKey x y = linkKey a b ↔ x = a ∧ y = b := by
  unfold linkKey
  omega

theorem lt_of_meshLink {m : Module} {a b : Nat} (h : meshLink m a b = true) : a < 16 ∧ b < 16 ∧ a ≠ b := by
  unfold meshLink at h
  simp only [Bool.and_eq_true, decide_eq_true_eq, beq_iff_eq] at h
  obtain ⟨⟨ha, hb⟩, hh⟩ := h
  have hd := dies_le m
  refine ⟨by omega, by omega, fun he => ?_⟩
  rw [he, meshHops, natDist_self, natDist_self] at hh
  omega

theorem updLink_eq {s : State} {a b : Nat} (h : meshLink s.mod a b = true) (f : Link → Link) :
    s.updLink a b f = s.updMod (fun m => { m with
      links := SMap.set m.links Link.init (linkKey a b) (f (SMap.getD m.links Link.init (linkKey a b))) }) :=
  if_pos h

/-- Setting a value other than the default is putting it. -/
theorem set_of_ne {α : Type} [DecidableEq α] {d x : α} (h : x ≠ d) (l : SMap α) (n : Nat) : SMap.set l d n x = SMap.put l n x := by
  unfold SMap.set
  rw [if_neg h]

/-- The failure of a direction of a link. -/
def brokenLink (l : Link) : Link := { l with failed := true }

theorem brokenLink_ne_init (l : Link) : brokenLink l ≠ Link.init :=
  fun h => Bool.noConfusion (congrArg Link.failed h)

/-- The links of a module after one of them failed. -/
def failedLinks (l : SMap Link) (a b : Nat) : SMap Link :=
  let k := SMap.set l Link.init (linkKey a b) (brokenLink (SMap.getD l Link.init (linkKey a b)))
  SMap.set k Link.init (linkKey b a) (brokenLink (SMap.getD k Link.init (linkKey b a)))

theorem failedLinks_eq (l : SMap Link) (a b : Nat) : failedLinks l a b =
    let k := SMap.put l (linkKey a b) (brokenLink (SMap.getD l Link.init (linkKey a b)))
    SMap.put k (linkKey b a) (brokenLink (SMap.getD k Link.init (linkKey b a))) := by
  unfold failedLinks
  rw [set_of_ne (brokenLink_ne_init _), set_of_ne (brokenLink_ne_init _)]

theorem getD_failedLinks_back (l : SMap Link) (a b : Nat) :
    (SMap.getD (failedLinks l a b) Link.init (linkKey b a)).failed = true := by
  rw [failedLinks_eq, SMap.getD_put_same]
  rfl

theorem getD_failedLinks {l : SMap Link} {a b : Nat} (h : linkKey a b ≠ linkKey b a) :
    SMap.getD (failedLinks l a b) Link.init (linkKey a b) = brokenLink (SMap.getD l Link.init (linkKey a b)) := by
  rw [failedLinks_eq, SMap.getD_put_other _ _ _ _ _ h, SMap.getD_put_same]

theorem getD_failedLinks_other {l : SMap Link} {a b k : Nat} (h : k ≠ linkKey a b) (h' : k ≠ linkKey b a) :
    SMap.getD (failedLinks l a b) Link.init k = SMap.getD l Link.init k := by
  rw [failedLinks_eq, SMap.getD_put_other _ _ _ _ _ h', SMap.getD_put_other _ _ _ _ _ h]

/-- A link that fails: both directions are gone. -/
theorem linkFail_eq {s : State} {a b : Nat} (h : meshLink s.mod a b = true) :
    evLinkFail a b s = (s.markOld a b).updMod (fun m => { m with links := failedLinks m.links a b }) := by
  have hm : (s.markOld a b).mod = s.mod := rfl
  unfold evLinkFail
  rw [updLink_eq (s := s.markOld a b) (by rw [hm]; exact h), updLink_eq]
  · rfl
  · show meshLink s.mod b a = true
    rw [meshLink_comm]
    exact h

/-- Where one link alone has failed, a route is down that crosses it. -/
theorem routeDown_failedLinks {m : Module} {a b : Nat} (hm : m.links = failedLinks [] a b) (ha : a < 16) (hb : b < 16) (x : Nat)
    (r : List Nat) (hr : ∀ y ∈ r, y < 16) : m.routeDown x r = (routeCrosses a b x r || routeCrosses b a x r) := by
  induction r generalizing x with
  | nil => rfl
  | cons y r ih =>
    have hy : y < 16 := hr y List.mem_cons_self
    have hdown : m.linkDown x y = ((x == a && y == b) || (x == b && y == a)) := by
      unfold Module.linkDown
      rw [hm, Bool.eq_iff_iff]
      simp only [Bool.or_eq_true, Bool.and_eq_true, beq_iff_eq]
      rw [← linkKey_inj hb hy, ← linkKey_inj ha hy]
      by_cases h' : linkKey x y = linkKey b a
      · rw [h']
        simp [getD_failedLinks_back]
      · by_cases h : linkKey x y = linkKey a b
        · rw [h, getD_failedLinks (by rwa [h] at h')]
          simp [brokenLink]
        · rw [getD_failedLinks_other h h']
          simp [h, h']
          rfl
    unfold Module.routeDown routeCrosses
    rw [ih y (fun z hz => hr z (List.mem_cons_of_mem _ hz)), hdown]
    cases x == a && y == b <;> cases x == b && y == a <;> simp

/-- After the only failure of a link the routes that crossed it run column first. -/
theorem route_failedLinks {m : Module} {a b x y : Nat} (hm : m.links = failedLinks [] a b) (ha : a < 16) (hb : b < 16)
    (hx : x < m.dies) (hy : y < m.dies) :
    let r := meshRoute m false x y
    m.route x y = meshRoute m (routeCrosses a b x r || routeCrosses b a x r) x y := by
  intro r
  unfold Module.route
  dsimp only
  rw [routeDown_failedLinks hm ha hb x _ (fun d hd => Nat.lt_of_lt_of_le (lt_of_mem_meshRoute hx hy hd) (dies_le m))]
  cases routeCrosses a b x r || routeCrosses b a x r <;> rfl

-- The clauses of the mesh.

section Clauses
variable {s : State} {a b : Nat} (h : meshLink s.mod a b = true)
include h

theorem meshFlitRetry_counts : ∃ t, exec (.meshFlitRetry a b) s = .next t ∧
    SMap.getD t.mod.links Link.init (linkKey a b) =
      { SMap.getD s.mod.links Link.init (linkKey a b) with retries := (SMap.getD s.mod.links Link.init (linkKey a b)).retries + 1 } ∧
    t.mem = s.mem := by
  refine ⟨_, congrArg Host.Outcome.next (updLink_eq h _), ?_, rfl⟩
  show SMap.getD (SMap.set s.mod.links Link.init (linkKey a b) _) Link.init (linkKey a b) = _
  rw [set_of_ne (fun h => absurd (congrArg Link.retries h) (Nat.succ_ne_zero _)), SMap.getD_put_same]

theorem linkFail_fails : ∃ t, exec (.linkFail a b) s = .next t ∧
    SMap.getD t.mod.links Link.init (linkKey a b) = { SMap.getD s.mod.links Link.init (linkKey a b) with failed := true } ∧
    t.mem = s.mem ∧ (SMap.getD t.mod.links Link.init (linkKey b a)).failed = true ∧
    (s.mod.links = [] → ∀ x y, x < s.mod.dies → y < s.mod.dies →
      let r := meshRoute s.mod false x y
      t.mod.route x y = meshRoute s.mod (routeCrosses a b x r || routeCrosses b a x r) x y) := by
  obtain ⟨ha, hb, hab⟩ := lt_of_meshLink h
  have hkey : linkKey a b ≠ linkKey b a := fun he => hab ((linkKey_inj ha hb).mp he).1
  refine ⟨_, congrArg Host.Outcome.next (linkFail_eq h), getD_failedLinks hkey, rfl, getD_failedLinks_back _ a b,
    fun hl x y hx hy => ?_⟩
  exact route_failedLinks (m := { s.mod with links := failedLinks s.mod.links a b }) (by rw [hl]) ha hb hx hy

theorem meshLaneSpare_none (hs : (SMap.getD s.mod.links Link.init (linkKey a b)).spares = 0) :
    exec (.meshLaneSpare a b) s = exec (.linkFail a b) s := by
  show Host.Outcome.next (evMeshLaneSpare a b s) = .next (evLinkFail a b s)
  unfold evMeshLaneSpare
  rw [h, if_neg (by decide), if_pos (by simpa using hs)]

theorem meshLaneSpare_spares (hs : (SMap.getD s.mod.links Link.init (linkKey a b)).spares ≠ 0) :
    exec (.meshLaneSpare a b) s =
      .next ((s.updLink a b (fun l => { l with spares := l.spares - 1, retries := 0 })).relRec 8 2 a b 0 0) := by
  refine congrArg Host.Outcome.next ?_
  unfold evMeshLaneSpare
  rw [h, if_neg (by decide), if_neg (by simpa using hs)]

end Clauses

/-- A route has a place for each hop, runs over links and ends at its destination. -/
theorem meshRoute_spec {m : Module} (f : Bool) {a b : Nat} (ha : a < m.dies) (hb : b < m.dies) :
    let r := a :: meshRoute m f a b
    r.length = meshHops m a b + 1 ∧ r.getLast? = some b ∧
      (∀ k, k + 1 < r.length → meshLink m (r.getD k 0) (r.getD (k + 1) 0) = true) ∧
      (m.links = [] → m.route a b = meshRoute m false a b) := by
  intro r
  have hlen : r.length = meshHops m a b + 1 := by simp [r, length_meshRoute]
  exact ⟨hlen, getLast?_meshRoute m f a b, fun k hk => meshRoute_step ha hb f k (by omega), fun hl => route_nil hl a b⟩

end Sys2Proof.Proofs.Mesh
end

section
/-! SUPPORT. What the dies' guest and far lines keep under the requests of a home. -/

namespace Sys2Proof.Proofs.Copies
open Sys2Proof Sys2Proof.Machine

theorem die_setDie (s : State) (d j : Nat) (x : Die) : (s.setDie d x).die j = if j = d then x else s.die j :=
  Records.die_updDie s d j (fun _ => x)

-- Guest and far lines stay.

/-- Every die's guest and far lines are the same. -/
structure SameCopies (s t : State) : Prop where
  die (d : Nat) : (t.die d).guest = (s.die d).guest ∧ (t.die d).far = (s.die d).far

theorem SameCopies.refl (s : State) : SameCopies s s := ⟨fun _ => ⟨rfl, rfl⟩⟩

theorem SameCopies.trans {s t u : State} (h : SameCopies s t) (k : SameCopies t u) : SameCopies s u :=
  ⟨fun d => ⟨(k.die d).1.trans (h.die d).1, (k.die d).2.trans (h.die d).2⟩⟩

theorem SameCopies.ite {s t u : State} {p : Prop} [Decidable p] (h : SameCopies s t) (k : SameCopies s u) :
    SameCopies s (if p then t else u) := by
  split
  · exact h
  · exact k

theorem sameCopies_setDie (s : State) (d : Nat) {x : Die} (h : x.guest = (s.die d).guest ∧ x.far = (s.die d).far) :
    SameCopies s (s.setDie d x) := by
  refine ⟨fun j => ?_⟩
  rw [die_setDie]
  split
  · next hj => rw [hj]; exact h
  · exact ⟨rfl, rfl⟩

theorem sameCopies_updDie (s : State) (d : Nat) {f : Die → Die} (hf : ∀ x, (f x).guest = x.guest ∧ (f x).far = x.far) :
    SameCopies s (s.updDie d f) := sameCopies_setDie s d (hf _)

theorem sameCopies_foldl {α : Type} {f : State → α → State} (hf : ∀ s x, SameCopies s (f s x)) (s : State) (xs : List α) :
    SameCopies s (xs.foldl f s) := by
  induction xs generalizing s with
  | nil => exact .refl s
  | cons x xs ih => exact (hf s x).trans (ih (f s x))

theorem sameCopies_meter (s : State) (d v f) : SameCopies s (s.meter d v f) :=
  sameCopies_updDie s d (fun _ => ⟨rfl, rfl⟩)

theorem sameCopies_draw (s : State) : SameCopies s s.draw := ⟨fun _ => ⟨rfl, rfl⟩⟩

theorem sameCopies_stall (s : State) (d c cause timed) : SameCopies s (s.stall d c cause timed) := by
  unfold State.stall State.count
  refine .trans (sameCopies_updDie s d ?_) (sameCopies_draw _)
  exact fun _ => ⟨rfl, rfl⟩

theorem sameCopies_portReq (s : State) (kind pa mask q ctx) : SameCopies s (s.portReq kind pa mask q ctx) := by
  unfold State.portReq
  dsimp only
  split
  · exact (show SameCopies s (s.setStack _ _) from ⟨fun _ => ⟨rfl, rfl⟩⟩).trans (sameCopies_meter ..)
  · exact (show SameCopies s (s.setStack _ _) from ⟨fun _ => ⟨rfl, rfl⟩⟩).trans (sameCopies_meter ..)

theorem sameCopies_portSend (s : State) (kind pa mask ctx) : SameCopies s (s.portSend kind pa mask ctx) :=
  sameCopies_portReq ..

theorem sameCopies_poisonUnits (s : State) (us) : SameCopies s (s.poisonUnits us) := ⟨fun _ => ⟨rfl, rfl⟩⟩

theorem sameCopies_mscOut (s : State) (d l) : SameCopies s (s.mscOut d l) := by
  unfold State.mscOut
  split
  · exact .refl s
  · exact (sameCopies_poisonUnits ..).trans (sameCopies_portSend ..)

theorem sameCopies_mscEvict (s : State) (d k) : SameCopies s (s.mscEvict d k) := by
  unfold State.mscEvict
  split
  · exact .refl s
  · refine .trans (sameCopies_updDie s d ?_) (sameCopies_mscOut ..)
    exact fun _ => ⟨rfl, rfl⟩

theorem sameCopies_mscReq (s : State) (pa mask kind a) : SameCopies s (s.mscReq pa mask kind a) := by
  have hread (t : State) (m : Nat) : SameCopies t (if m == 0 then t else t.portSend 1 pa m a.ctx) :=
    .ite (.refl t) (sameCopies_portSend ..)
  have hdirect (t : State) : SameCopies t (if kind == 1 then t.portSend 2 pa mask a.ctx
      else if mask == 0 then t else t.portSend 1 pa mask a.ctx) := .ite (sameCopies_portSend ..) (hread t mask)
  unfold State.mscReq
  dsimp only
  split
  · refine (hread s _).trans (sameCopies_updDie _ _ ?_)
    exact fun _ => ⟨rfl, rfl⟩
  · split
    · exact hdirect s
    · split
      · exact (hdirect s).trans (sameCopies_stall ..)
      · refine SameCopies.trans (t := (s.mscEvict _ _).setDie _ _) ?_ (.ite (.refl _) (hread _ mask))
        exact (sameCopies_mscEvict s _ _).trans (sameCopies_setDie _ _ ⟨rfl, rfl⟩)

theorem sameCopies_l2Wb (s : State) (pa drop) : SameCopies s (s.l2Wb pa drop) := by
  unfold State.l2Wb
  dsimp only
  split
  · exact .refl s
  · refine .trans ?_ (sameCopies_updDie _ _ ?_)
    · exact (sameCopies_poisonUnits ..).trans (.ite (.refl _) (sameCopies_mscReq ..))
    · exact fun _ => ⟨rfl, rfl⟩

theorem sameCopies_rekey (s : State) (key u) : SameCopies s (s.rekey key u) := by
  unfold State.rekey
  exact .ite (.refl s) ⟨fun _ => ⟨rfl, rfl⟩⟩

theorem sameCopies_homeBytes (s : State) (bs clr key) : SameCopies s (s.homeBytes bs clr key) :=
  (sameCopies_foldl (fun s u => sameCopies_rekey s key u) s _).trans ⟨fun _ => ⟨rfl, rfl⟩⟩

theorem sameCopies_stamp (s : State) (d) : SameCopies s (s.stamp d) := sameCopies_updDie s d (fun _ => ⟨rfl, rfl⟩)

theorem sameCopies_sendUpd (s : State) (d p) : SameCopies s (s.sendUpd d p) := sameCopies_updDie s d (fun _ => ⟨rfl, rfl⟩)

theorem sameCopies_fanOut (s : State) (home skip p) : SameCopies s (s.fanOut home skip p) :=
  sameCopies_foldl (fun s d => sameCopies_sendUpd s d _) s _

theorem die_askHost (s : State) (ls : List Nat) (d : Nat) : (s.askHost ls).die d = s.die d := by
  refine Packets.foldl_keeps (F := fun t : State => t.die d) (fun t l => ?_) s ls
  split
  · rfl
  · exact Packets.foldl_keeps (F := fun t : State => t.die d) (f := fun t _ => t.emit (.backInv l)) (fun _ _ => rfl) t _

theorem sameCopies_askHost (s : State) (ls) : SameCopies s (s.askHost ls) :=
  ⟨fun d => by rw [die_askHost]; exact ⟨rfl, rfl⟩⟩

theorem sameCopies_homeHold (s : State) (home line bs m key a) : SameCopies s (s.homeHold home line bs m key a) :=
  (sameCopies_askHost s _).trans ((sameCopies_stamp _ home).trans (sameCopies_sendUpd ..))

-- Far lines only go.

/-- Every far line of the dies satisfies a test. -/
structure FarIn (P : Nat → Prop) (s : State) : Prop where
  far (d : Nat) : ∀ x ∈ (s.die d).far, P x.1

section Far
variable {P : Nat → Prop} {s : State}

theorem FarIn.same {t : State} (h : FarIn P s) (k : SameCopies s t) : FarIn P t :=
  ⟨fun d x hx => h.far d x ((k.die d).2 ▸ hx)⟩

theorem farIn_updDie (h : FarIn P s) (d : Nat) {f : Die → Die} (hf : ∀ y, ∀ x ∈ (f y).far, x ∈ y.far) :
    FarIn P (s.updDie d f) := by
  refine ⟨fun j x hx => ?_⟩
  rw [Records.die_updDie] at hx
  split at hx
  · exact h.far d x (hf _ x hx)
  · exact h.far j x hx

theorem farIn_foldl {α : Type} {f : State → α → State} (hf : ∀ s x, FarIn P s → FarIn P (f s x)) (xs : List α)
    (h : FarIn P s) : FarIn P (xs.foldl f s) := by
  induction xs generalizing s with
  | nil => exact h
  | cons x xs ih => exact ih (hf s x h)

theorem farIn_farWb_drop (h : FarIn P s) (d line : Nat) : FarIn P (s.farWb d line true) := by
  unfold State.farWb
  split
  · exact h
  · refine farIn_updDie (h.same (.ite (.refl s) ?_)) d (fun _ _ hx => Fetch.mem_del hx)
    exact (sameCopies_meter s ..).trans ((sameCopies_homeBytes ..).trans (sameCopies_poisonUnits ..))

theorem farIn_guestDrop (h : FarIn P s) (d line : Nat) : FarIn P (s.guestDrop d line) := farIn_updDie h d (fun _ _ hx => hx)

theorem farIn_guestsOut (h : FarIn P s) (d line : Nat) : FarIn P (s.guestsOut d line) := by
  unfold State.guestsOut
  refine farIn_updDie (farIn_foldl ?_ _ h) d ?_
  · exact fun _ k h => farIn_guestDrop h k line
  · exact fun _ _ hx => hx

theorem farIn_l2Room (h : FarIn P s) (d line : Nat) : FarIn P (s.l2Room d line) := by
  have hdraw : FarIn P s.draw := ⟨h.far⟩
  unfold State.l2Room
  dsimp only
  split
  · exact h
  · split
    · exact h
    · split
      · exact (farIn_guestsOut hdraw d _).same (sameCopies_l2Wb ..)
      · exact farIn_guestDrop hdraw d _
      · exact farIn_farWb_drop hdraw d _
      · exact h

theorem farIn_l2Use (h : FarIn P s) (line need wr at' a) : FarIn P (s.l2Use line need wr at' a) := by
  unfold State.l2Use
  refine farIn_updDie ?_ _ (fun _ _ hx => hx)
  refine FarIn.same (s := if (SMap.get? (s.die ((stackOf s.mod (line * 256)).1 / 2)).l2 line).isSome then s
    else s.l2Room ((stackOf s.mod (line * 256)).1 / 2) line) ?_ (.ite (.refl _) (sameCopies_mscReq ..))
  split
  · exact h
  · exact farIn_l2Room h _ line

theorem farIn_homeApply (h : FarIn P s) (bs m key at' a) : FarIn P (s.homeApply bs m key at' a) := by
  unfold State.homeApply
  split
  · exact h
  · refine farIn_updDie ?_ _ (fun _ _ hx => hx)
    exact ((farIn_l2Use h ..).same (sameCopies_homeBytes ..)).same (sameCopies_poisonUnits ..)

theorem farIn_homeStore (h : FarIn P s) (home bs m key a) : FarIn P (s.homeStore home bs m key a) := by
  unfold State.homeStore
  split
  · exact h
  · split
    · exact h.same (sameCopies_homeHold ..)
    · next b bs _ =>
      have happly := farIn_homeApply h (b :: bs) m key false a
      dsimp only
      split
      · exact happly
      · exact happly.same ((sameCopies_stamp ..).trans (sameCopies_fanOut ..))

theorem farIn_devStore (h : FarIn P s) (home bs m key a) : FarIn P (s.devStore home bs m key a) := by
  unfold State.devStore
  split
  · exact h
  · split
    · exact farIn_homeStore h ..
    · exact h.same ((sameCopies_homeBytes ..).trans ((sameCopies_poisonUnits ..).trans (sameCopies_mscReq ..)))

end Far

end Sys2Proof.Proofs.Copies
end

section
/-! PROOFS. Updates, the host's requests, and back-invalidations. -/

namespace Sys2Proof.Proofs.HostLink
open Sys2Proof Sys2Proof.Machine

-- Updates and guest copies.

section Update
variable {s : State} {die idx : Nat} {p : UpdPkt} (hp : (s.die die).upd[idx]? = some p)
include hp

theorem updateApply_applies (h : s.canApply die idx p = true) : evUpdateApply die idx s = s.applyUpd die idx := by
  unfold evUpdateApply
  rw [hp]
  dsimp only
  rw [h, if_pos rfl]

theorem updateApply_waits (h : s.canApply die idx p = false) (hh : (p.home && SMap.getD (s.die die).hostHeld false p.line) = false) :
    evUpdateApply die idx s = s := by
  unfold evUpdateApply
  rw [hp]
  dsimp only
  rw [h, if_neg (by decide), hh, if_neg (by decide)]

theorem updateApply_asks (hh : (p.home && SMap.getD (s.die die).hostHeld false p.line) = true) :
    evUpdateApply die idx s = s.askHost [p.line] := by
  have h : s.canApply die idx p = false := by
    unfold State.canApply
    rw [hh]
    rfl
  unfold evUpdateApply
  rw [hp]
  dsimp only
  rw [h, if_neg (by decide), hh, if_pos rfl]

end Update

theorem guest_foldl_guestDrop (line : Nat) {ks : List Nat} (hk : ks.Nodup) (s : State) (d : Nat) :
    ((ks.foldl (fun s k => s.guestDrop k line) s).die d).guest =
      if d ∈ ks then SMap.del (s.die d).guest line else (s.die d).guest := by
  induction ks generalizing s with
  | nil => rfl
  | cons k ks ih =>
    obtain ⟨hnot, hks⟩ := List.nodup_cons.mp hk
    rw [List.foldl_cons, ih hks]
    have hdie : (s.guestDrop k line).die d = if d = k then { s.die k with guest := SMap.del (s.die k).guest line } else s.die d :=
      Records.die_updDie s k d _
    rw [hdie]
    by_cases h : d = k
    · subst h
      rw [if_neg hnot, if_pos rfl, if_pos List.mem_cons_self]
    · rw [if_neg h]
      simp [h]

/-- The guest copies of a line go from the dies that its home names as holders. -/
theorem guest_guestsOut (s : State) (die line d : Nat) (h : d < 16) : ((s.guestsOut die line).die d).guest =
    if (SMap.getD (s.die die).holders 0 line).testBit d then SMap.del (s.die d).guest line else (s.die d).guest := by
  have hfold := guest_foldl_guestDrop line (List.Pairwise.filter
    (fun k => (SMap.getD (s.die die).holders 0 line).testBit k) (List.nodup_range (n := 16))) s d
  unfold State.guestsOut
  dsimp only
  rw [Records.die_updDie]
  split
  · next hd =>
    subst hd
    refine hfold.trans ?_
    simp [h]
  · refine hfold.trans ?_
    simp [h]

theorem guestInvalidate_spec (s : State) (die line : Nat) :
    exec (.guestInvalidate die line) s = .next ((s.guestsOut die line).l2Wb (line * 256) true) ∧
    ∀ d < 16, (((s.guestsOut die line).l2Wb (line * 256) true).die d).guest =
      if (SMap.getD (s.die die).holders 0 line).testBit d then SMap.del (s.die d).guest line else (s.die d).guest :=
  ⟨rfl, fun d h => ((Copies.sameCopies_l2Wb ..).die d).1.trans (guest_guestsOut s die line d h)⟩

theorem farWb_of_none {s : State} {d line : Nat} (h : SMap.get? (s.die d).far line = none) (drop : Bool) :
    s.farWb d line drop = s := by
  unfold State.farWb
  rw [h]

theorem hostSnoop_nothing {s : State} {line : Nat} (h : ∀ d, SMap.get? (s.die d).far line = none) : evHostSnoop line s = s := by
  unfold evHostSnoop
  induction s.dies with
  | nil => rfl
  | cons e es ih => rw [List.foldl_cons, farWb_of_none (h e.1), ih]

-- Requests of the host.

theorem hostMemRequest_off {s : State} (r : HostReq) (h : ¬ (s.full = true ∧ s.mod.featon.testBit 4 = true)) :
    evHostMemRequest r s = s.hostRefuse r := by
  rw [← Bool.and_eq_true, Bool.not_eq_true] at h
  unfold evHostMemRequest
  rw [h]
  rfl

theorem hostMemRequest_nowhere {s : State} (r : HostReq) (h : s.full = true ∧ s.mod.featon.testBit 4 = true)
    (hp : ∀ d, s.mod.place (HostReq.pa r) ≠ .die d) :
    evHostMemRequest r s = (s.relRec 12 1 0 0 0 (HostReq.pa r)).hostRefuse r := by
  unfold evHostMemRequest
  rw [h.1, h.2, if_neg (by decide)]
  cases hd : s.mod.place (HostReq.pa r) with
  | die d => exact absurd hd (hp d)
  | cxl => rfl
  | hole => rfl

theorem hostMemRequest_home {s : State} {r : HostReq} {d : Nat} (h : s.full = true ∧ s.mod.featon.testBit 4 = true)
    (hp : s.mod.place (HostReq.pa r) = .die d) : evHostMemRequest r s = s.hostReq d false r := by
  unfold evHostMemRequest
  rw [h.1, h.2, if_neg (by decide), hp]

/-- An answer without data is poison, or nothing done. -/
theorem hostRefuse_answers (s : State) (r : HostReq) : ∃ t bs, s.hostRefuse r = t ∧ t.mem = s.mem ∧
    t.mod.out = s.mod.out ++ [.hostData (HostReq.pa r) bs (match r with
      | .read a n _ => (unitsOf a n).map (fun _ => true)
      | _ => [true])] := by
  cases r with
  | read => exact ⟨_, _, rfl, rfl, rfl⟩
  | write => exact ⟨_, _, rfl, rfl, rfl⟩
  | atomic => exact ⟨_, _, rfl, rfl, rfl⟩

-- A request at its home.

/-- The lines of a request. -/
def reqLines (r : HostReq) : List Nat := linesOf (HostReq.pa r) (HostReq.len r)

/-- Room in the snoop filter for the lines of a request. -/
def roomFor (s : State) (own : Bool) (r : HostReq) : State × Bool :=
  if own || s.mod.shared (HostReq.pa r) then
    (reqLines r).foldl (fun x l => let y := x.1.snoopRoom l; (y.1, x.2 && y.2)) (s, true)
  else (s, true)

/-- The lines that a request must ask other holders for. -/
def heldLines (s : State) (r : HostReq) : List Nat :=
  if HostReq.isRead r then [] else (reqLines r).filter (fun l => !(s.mod.holdersOf l (some (HostReq.req r))).isEmpty)

/-- Every other holder of some lines is asked. -/
def askAll (s : State) (req : Nat) (ls : List Nat) : State :=
  ls.foldl (fun s l => s.askHolders l (s.mod.holdersOf l (some req))) s

/-- A request with its room. -/
def takeRoom (d : Nat) (own : Bool) (r : HostReq) (t : State × Bool) : State :=
  if !t.2 then t.1.hostQueue own r
  else if !(heldLines t.1 r).isEmpty then (askAll t.1 (HostReq.req r) (heldLines t.1 r)).hostQueue own r
  else if own then
    match r with
    | .write pa x req => (t.1.hostStore d pa x).holdLines d req (reqLines r)
    | _ => t.1
  else t.1.hostServe d r

theorem hostReq_eq (s : State) (d : Nat) (own : Bool) (r : HostReq) : s.hostReq d own r =
    if s.mod.snoopQ.any (fun q => (linesOf (HostReq.pa q.2) (HostReq.len q.2)).any (reqLines r).contains) then s.hostQueue own r
    else takeRoom d own r (roomFor s own r) := rfl

theorem hostReq_behind {s : State} {d : Nat} {own : Bool} {r : HostReq}
    (h : ∃ q ∈ s.mod.snoopQ, ∃ l ∈ reqLines r, l ∈ linesOf (HostReq.pa q.2) (HostReq.len q.2)) :
    s.hostReq d own r = s.hostQueue own r := by
  rw [hostReq_eq]
  refine if_pos ?_
  obtain ⟨q, hq, l, hl, hlq⟩ := h
  rw [List.any_eq_true]
  refine ⟨q, hq, ?_⟩
  rw [List.any_eq_true]
  exact ⟨l, hlq, by simpa using hl⟩

theorem hostReq_first {s : State} (h : s.mod.snoopQ = []) (d : Nat) (own : Bool) (r : HostReq) :
    s.hostReq d own r = takeRoom d own r (roomFor s own r) := by
  rw [hostReq_eq, h]
  rfl

section Take
variable {d : Nat} {own : Bool} {r : HostReq} {t : State}

theorem takeRoom_full : takeRoom d own r (t, false) = t.hostQueue own r := rfl

theorem takeRoom_held (h : heldLines t r ≠ []) :
    takeRoom d own r (t, true) = (askAll t (HostReq.req r) (heldLines t r)).hostQueue own r := by
  unfold takeRoom
  dsimp only
  rw [if_neg (by decide), if_pos (by simpa using h)]

theorem takeRoom_serves (h : heldLines t r = []) : takeRoom d false r (t, true) = t.hostServe d r := by
  unfold takeRoom
  dsimp only
  rw [if_neg (by decide), h]
  rfl

theorem takeRoom_owns {pa req : Nat} {x : LineData} (h : heldLines t (.write pa x req) = []) :
    takeRoom d true (.write pa x req) (t, true) = (t.hostStore d pa x).holdLines d req (reqLines (.write pa x req)) := by
  unfold takeRoom
  dsimp only
  rw [if_neg (by decide), h]
  rfl

end Take

theorem heldLines_eq_nil {s : State} {r : HostReq}
    (h : HostReq.isRead r = true ∨ ∀ l ∈ reqLines r, s.mod.holdersOf l (some (HostReq.req r)) = []) : heldLines s r = [] := by
  unfold heldLines
  obtain h | h := h
  · rw [h]
    rfl
  · split
    · rfl
    · exact List.filter_eq_nil_iff.mpr (fun l hl => by simp [h l hl])

theorem mem_heldLines {s : State} {r : HostReq} (hr : HostReq.isRead r = false) {l : Nat} :
    l ∈ heldLines s r ↔ l ∈ reqLines r ∧ s.mod.holdersOf l (some (HostReq.req r)) ≠ [] := by
  unfold heldLines
  rw [hr, if_neg (by decide), List.mem_filter]
  simp

-- Holders that are asked.

/-- Asking holders keeps memory and the requests that wait, and no back-invalidation goes. -/
structure Asked (s t : State) : Prop where
  mem : t.mem = s.mem
  snoopQ : t.mod.snoopQ = s.mod.snoopQ
  backInvs : ∀ b ∈ s.mod.backInvs, b ∈ t.mod.backInvs

theorem Asked.refl (s : State) : Asked s s := ⟨rfl, rfl, fun _ h => h⟩

theorem Asked.trans {s t u : State} (h : Asked s t) (k : Asked t u) : Asked s u :=
  ⟨k.mem.trans h.mem, k.snoopQ.trans h.snoopQ, fun b hb => k.backInvs b (h.backInvs b hb)⟩

/-- What asking the holders of a line does: one message for each, unless the line is being asked for. -/
theorem askHolders_eq {s : State} {line : Nat} {hs : List Nat} (h : ∀ b ∈ s.mod.backInvs, b.line ≠ line) :
    s.askHolders line hs = s.updMod (fun m => { m with
      out := m.out ++ hs.map (fun _ => .backInv line), backInvs := m.backInvs ++ [⟨line, hs⟩] }) := by
  have hfold : hs.foldl (fun (s : State) _ => s.emit (.backInv line)) s =
      s.updMod (fun m => { m with out := m.out ++ hs.map (fun _ => .backInv line) }) := by
    clear h
    induction hs generalizing s with
    | nil => simp [State.updMod]
    | cons x hs ih =>
      rw [List.foldl_cons, ih]
      simp [State.updMod, State.emit]
  unfold State.askHolders
  rw [if_neg (by simpa using h), hfold]
  rfl

theorem asked_askHolders (s : State) (line : Nat) (hs : List Nat) :
    Asked s (s.askHolders line hs) ∧ ∃ b ∈ (s.askHolders line hs).mod.backInvs, b.line = line := by
  by_cases h : ∀ b ∈ s.mod.backInvs, b.line ≠ line
  · rw [askHolders_eq h]
    exact ⟨⟨rfl, rfl, fun b hb => List.mem_append_left _ hb⟩, _, List.mem_append_right _ List.mem_cons_self, rfl⟩
  · have hany : s.mod.backInvs.any (fun b => b.line == line) = true := by simpa using h
    unfold State.askHolders
    rw [if_pos hany]
    obtain ⟨b, hb, hl⟩ := List.any_eq_true.mp hany
    exact ⟨.refl s, b, hb, by simpa using hl⟩

theorem asked_askAll (s : State) (req : Nat) (ls : List Nat) :
    Asked s (askAll s req ls) ∧ ∀ l ∈ ls, ∃ b ∈ (askAll s req ls).mod.backInvs, b.line = l := by
  unfold askAll
  induction ls generalizing s with
  | nil => exact ⟨.refl s, fun l hl => by simp at hl⟩
  | cons x ls ih =>
    obtain ⟨hx, b, hb, hbl⟩ := asked_askHolders s x (s.mod.holdersOf x (some req))
    obtain ⟨hrest, hls⟩ := ih (s.askHolders x (s.mod.holdersOf x (some req)))
    refine ⟨hx.trans hrest, fun l hl => ?_⟩
    obtain rfl | hl := List.mem_cons.mp hl
    · exact ⟨b, hrest.backInvs b hb, hbl⟩
    · exact hls l hl

-- Requests that are served.

theorem homeRead_keeps (s : State) (a n key : Nat) : (s.homeRead a n key).1.mem = s.mem ∧ (s.homeRead a n key).1.mod = s.mod := by
  unfold State.homeRead
  dsimp only
  split
  · exact ⟨rfl, rfl⟩
  · exact ⟨rfl, rfl⟩

theorem get?_foldl_put (ls : List Nat) (m : SMap Bool) {l : Nat} (h : l ∈ ls ∨ SMap.get? m l = some true) :
    SMap.get? (ls.foldl (fun m l => SMap.put m l true) m) l = some true := by
  induction ls generalizing m with
  | nil => simpa using h
  | cons x ls ih =>
    refine ih (SMap.put m x true) ?_
    by_cases hx : l = x
    · exact .inr (hx ▸ SMap.get?_put_same m x true)
    · rw [SMap.get?_put_other m x l true hx]
      simpa [hx] using h

theorem testBit_foldl_put (req : Nat) (ls : List Nat) (m : SMap Nat) {l : Nat}
    (h : l ∈ ls ∨ (SMap.getD m 0 l).testBit req = true) :
    (SMap.getD (ls.foldl (fun k l => SMap.put k l (SMap.getD k 0 l ||| 2 ^ req)) m) 0 l).testBit req = true := by
  induction ls generalizing m with
  | nil => simpa using h
  | cons x ls ih =>
    refine ih _ ?_
    by_cases hx : l = x
    · refine .inr ?_
      rw [hx, SMap.getD_put_same, Nat.testBit_or, Nat.testBit_two_pow_self, Bool.or_true]
    · rw [SMap.getD_put_other _ _ _ _ _ hx]
      simpa [hx] using h

/-- A requester that may hold lines. -/
theorem holdLines_holds (s : State) (d req : Nat) (ls : List Nat) : ∀ l ∈ ls,
    SMap.get? ((s.holdLines d req ls).die d).hostHeld l = some true ∧
    (SMap.getD (s.holdLines d req ls).mod.snoop 0 l).testBit req = true := by
  intro l hl
  refine ⟨?_, testBit_foldl_put req ls _ (.inl hl)⟩
  unfold State.holdLines
  rw [show ∀ (x : State) f, (x.updMod f).die d = x.die d from fun _ _ => rfl, Records.die_updDie, if_pos rfl]
  exact get?_foldl_put ls _ (.inl hl)

theorem hostServe_read (s : State) (d pa n req : Nat) :
    (s.hostServe d (.read pa n req)).mem = s.mem ∧
    (s.hostServe d (.read pa n req)).mod.out = s.mod.out ++ [.hostData pa (s.homeRead pa n 0).2.1 ((unitsOf pa n).map s.unitP)] ∧
    ∀ l ∈ linesOf pa n, SMap.get? ((s.hostServe d (.read pa n req)).die d).hostHeld l = some true ∧
      (SMap.getD (s.hostServe d (.read pa n req)).mod.snoop 0 l).testBit req = true := by
  obtain ⟨hmem, hmod⟩ := homeRead_keeps s pa n 0
  unfold State.hostServe
  dsimp only
  generalize s.homeRead pa n 0 = v at hmem hmod ⊢
  refine ⟨hmem, ?_, holdLines_holds v.1 d req _⟩
  show v.1.mod.out ++ _ = _
  rw [hmod]

-- Room in the snoop filter.

section Room
variable {s : State} {line : Nat}

/-- The snoop filter has room for a line. -/
def HasRoom (s : State) (line : Nat) : Prop := SMap.get? s.mod.snoop line ≠ none ∨ (s.mod.snoopSet line).length < 16

theorem snoopRoom_room (h : HasRoom s line) : s.snoopRoom line = (s, true) := by
  unfold State.snoopRoom
  refine if_pos ?_
  rw [Bool.or_eq_true]
  exact h.imp (fun h => Option.isSome_iff_ne_none.mpr h) (fun h => decide_eq_true h)

/-- In a full set an entry is picked, and its holders asked. -/
theorem snoopRoom_full (h : ¬ HasRoom s line) (hv : ∀ v ∈ s.mod.snoopSet line, s.mod.holdersOf v none ≠ []) :
    (s.snoopRoom line).2 = false ∧ Asked s (s.snoopRoom line).1 ∧
    (s.mod.backInvs = [] → ∃ v ∈ s.mod.snoopSet line,
      (s.snoopRoom line).1.mod.backInvs = [⟨v, s.mod.holdersOf v none⟩]) := by
  obtain ⟨hget, hlen⟩ := not_or.mp h
  unfold State.snoopRoom
  dsimp only
  rw [if_neg (by simpa [Decidable.not_not.mp hget] using hlen)]
  split
  · next hnone =>
    refine ⟨rfl, .refl s, fun hb => ?_⟩
    have hpos : 0 < (s.mod.snoopSet line).length := by omega
    rw [hb] at hnone
    simp only [List.all_nil] at hnone
    rw [List.filter_eq_self.mpr fun _ _ => rfl, List.getElem?_eq_none_iff] at hnone
    exact absurd (Nat.mod_lt (Config.freeNat s.draws) hpos) (by omega)
  · next v hsome =>
    have hmem : v ∈ s.mod.snoopSet line := (List.mem_filter.mp (List.mem_of_getElem? hsome)).1
    rw [if_neg (by simpa using hv v hmem)]
    have hdraw : Asked s s.draw := ⟨rfl, rfl, fun _ h => h⟩
    refine ⟨rfl, hdraw.trans (asked_askHolders s.draw v (s.mod.holdersOf v none)).1, fun hb => ⟨v, hmem, ?_⟩⟩
    rw [askHolders_eq (by rw [show s.draw.mod = s.mod from rfl, hb]; simp)]
    show s.mod.backInvs ++ _ = _
    rw [hb]
    rfl

end Room

-- Back-invalidations.

/-- A write of at most a line from its start lies in that line. -/
theorem linesOf_line (line : Nat) {n : Nat} (h : 0 < n) (h' : n ≤ 256) : linesOf (line * 256) n = [line] := by
  have hsame : ∀ (k : Nat), (List.replicate (k + 1) line).eraseDups = [line] := by
    intro k
    rw [List.replicate_succ, List.eraseDups_cons, List.filter_eq_nil_iff.mpr (fun x hx => by simp [List.eq_of_mem_replicate hx])]
    rfl
  have hunits : (unitsOf (line * 256) n).map (fun u => u / 8) = List.replicate ((n - 1) / 32 + 1) line := by
    unfold unitsOf
    rw [if_neg (by simpa using Nat.ne_of_gt h), List.map_map]
    refine List.eq_replicate_iff.mpr ⟨by simp; omega, fun x hx => ?_⟩
    obtain ⟨i, hi, rfl⟩ := List.mem_map.mp hx
    rw [List.mem_range] at hi
    simp only [Function.comp_apply]
    omega
  unfold linesOf
  rw [hunits, hsame]

section BackInvalidate
variable {s : State} {line req d : Nat} {data : LineData}

theorem backInvalidate_module (h : s.mod.expander = false) :
    evBackInvalidate line req data s = (s.dropLine line).emit (.backInvResp line) := by
  unfold evBackInvalidate
  rw [h]
  rfl

theorem backInvalidate_expander (h : s.mod.expander = true) (hp : s.mod.place (line * 256) = .die d) :
    evBackInvalidate line req data s = s.hostReq d true (.write (line * 256) data req) := by
  unfold evBackInvalidate
  rw [h, if_neg (by decide), hp]

theorem reqLines_line (hd : data.bytes.length ≤ 256) : reqLines (.write (line * 256) data req) = [line] := by
  have h : 0 < max 1 data.bytes.length ∧ max 1 data.bytes.length ≤ 256 := by omega
  exact linesOf_line line h.1 h.2

theorem roomFor_line (hd : data.bytes.length ≤ 256) : roomFor s true (.write (line * 256) data req) = s.snoopRoom line := by
  unfold roomFor
  rw [reqLines_line hd, Bool.true_or, if_pos rfl]
  show ((s.snoopRoom line).1, true && (s.snoopRoom line).2) = _
  rw [Bool.true_and]

theorem heldLines_line (hd : data.bytes.length ≤ 256) (ho : s.mod.holdersOf line (some req) ≠ []) :
    heldLines s (.write (line * 256) data req) = [line] := by
  unfold heldLines
  rw [reqLines_line hd, if_neg (fun h => Bool.noConfusion h)]
  refine List.filter_eq_self.mpr (fun l hl => ?_)
  rw [List.mem_singleton.mp hl, show HostReq.req (.write (line * 256) data req) = req from rfl]
  simpa using ho

variable (h : s.mod.expander = true) (hp : s.mod.place (line * 256) = .die d) (hd : data.bytes.length ≤ 256)
  (hq : s.mod.snoopQ = [])
include h hp hd hq

theorem backInvalidate_takes : evBackInvalidate line req data s =
    takeRoom d true (.write (line * 256) data req) (s.snoopRoom line) := by
  rw [backInvalidate_expander h hp, hostReq_first hq, roomFor_line hd]

theorem backInvalidate_owns (hr : HasRoom s line) (ho : s.mod.holdersOf line (some req) = []) :
    evBackInvalidate line req data s = (s.hostStore d (line * 256) data).holdLines d req [line] := by
  rw [backInvalidate_takes h hp hd hq, snoopRoom_room hr, takeRoom_owns, reqLines_line hd]
  refine heldLines_eq_nil (.inr (fun l hl => ?_))
  rw [reqLines_line hd, List.mem_singleton] at hl
  rw [hl]
  exact ho

theorem backInvalidate_asks (hr : HasRoom s line) (ho : s.mod.holdersOf line (some req) ≠ []) :
    ∃ t, evBackInvalidate line req data s = t ∧ t.mem = s.mem ∧ t.mod.snoopQ = [(true, .write (line * 256) data req)] ∧
      (∃ b ∈ t.mod.backInvs, b.line = line) ∧
      (s.mod.backInvs = [] → t.mod.backInvs = [⟨line, s.mod.holdersOf line (some req)⟩] ∧
        t.mod.out = s.mod.out ++ (s.mod.holdersOf line (some req)).map (fun _ => .backInv line)) := by
  have hl := heldLines_line hd ho
  obtain ⟨hasked, hline⟩ := asked_askAll s req [line]
  refine ⟨(askAll s req [line]).hostQueue true (.write (line * 256) data req), ?_, hasked.mem, ?_, hline line List.mem_cons_self,
    fun hb => ?_⟩
  · rw [backInvalidate_takes h hp hd hq, snoopRoom_room hr, takeRoom_held (by rw [hl]; simp), hl]
    rfl
  · show (askAll s req [line]).mod.snoopQ ++ _ = _
    rw [hasked.snoopQ, hq]
    rfl
  · have heq : askAll s req [line] = s.askHolders line (s.mod.holdersOf line (some req)) := rfl
    show (askAll s req [line]).mod.backInvs = _ ∧ (askAll s req [line]).mod.out = _
    rw [heq, askHolders_eq (by rw [hb]; simp)]
    refine ⟨?_, rfl⟩
    show s.mod.backInvs ++ _ = _
    rw [hb]
    rfl

theorem backInvalidate_full (hr : ¬ HasRoom s line) (hv : ∀ v ∈ s.mod.snoopSet line, s.mod.holdersOf v none ≠ []) :
    ∃ t, evBackInvalidate line req data s = t ∧ t.mem = s.mem ∧ t.mod.snoopQ = [(true, .write (line * 256) data req)] ∧
      (s.mod.backInvs = [] → ∃ v ∈ s.mod.snoopSet line, t.mod.backInvs = [⟨v, s.mod.holdersOf v none⟩]) := by
  obtain ⟨hfull, hasked, hpick⟩ := snoopRoom_full hr hv
  have hpair : s.snoopRoom line = ((s.snoopRoom line).1, false) := by rw [← hfull]
  refine ⟨(s.snoopRoom line).1.hostQueue true (.write (line * 256) data req), ?_, hasked.mem, ?_, hpick⟩
  · rw [backInvalidate_takes h hp hd hq, hpair, takeRoom_full]
  · show (s.snoopRoom line).1.mod.snoopQ ++ _ = _
    rw [hasked.snoopQ, hq]
    rfl

end BackInvalidate

-- Responses.

theorem backInvalidateResponse_none {s : State} {line : Nat} (h : ∀ b ∈ s.mod.backInvs, b.line ≠ line) (holder : Nat) :
    evBackInvalidateResponse line holder s = s := by
  unfold evBackInvalidateResponse
  rw [List.find?_eq_none.mpr (fun b hb => by simpa using h b hb)]

section Response
variable {s : State} {line holder : Nat} {b : BackInv} (hf : s.mod.backInvs.find? (fun b => b.line == line) = some b)
include hf

theorem backInvalidateResponse_some : evBackInvalidateResponse line holder s = s.backInvResponse b holder := by
  unfold evBackInvalidateResponse
  rw [hf]

theorem backInvResponse_waits (hw : b.wait.filter (fun h => h != holder) ≠ []) :
    ∃ t, evBackInvalidateResponse line holder s = t ∧ t.mem = s.mem ∧
      ({ b with wait := b.wait.filter (fun h => h != holder) } : BackInv) ∈ t.mod.backInvs := by
  refine ⟨_, (backInvalidateResponse_some hf).trans (if_neg (by simpa using hw)), rfl, ?_⟩
  exact List.mem_map.mpr ⟨b, List.mem_of_find?_eq_some hf, if_pos (beq_self_eq_true b)⟩

end Response

/-- What a last response leaves before the requests that wait try again. -/
theorem backInvEnd_retries (s : State) (b : BackInv) : ∃ t : State, s.backInvEnd b = t.hostRetry ∧ t.mem = s.mem ∧
    t.mod.snoopQ = s.mod.snoopQ ∧ t.mod.backInvs = s.mod.backInvs.eraseP (fun x => x.line == b.line) ∧
    ∀ pa, t.mod.place pa = s.mod.place pa := by
  unfold State.backInvEnd
  dsimp only
  split
  · exact ⟨_, rfl, rfl, rfl, rfl, fun _ => rfl⟩
  · exact ⟨_, rfl, rfl, rfl, rfl, fun _ => rfl⟩

section Last
variable {s : State} {line holder : Nat} {b : BackInv} (hf : s.mod.backInvs.find? (fun b => b.line == line) = some b)
  (hw : b.wait.filter (fun h => h != holder) = [])
include hf hw

theorem backInvResponse_last : ∃ t : State, evBackInvalidateResponse line holder s = t.hostRetry ∧ t.mem = s.mem ∧
    t.mod.snoopQ = s.mod.snoopQ ∧ t.mod.backInvs = s.mod.backInvs.eraseP (fun x => x.line == line) ∧
    ∀ pa, t.mod.place pa = s.mod.place pa := by
  have hline : b.line = line := by simpa using List.find?_some hf
  obtain ⟨t, ht, hkeeps⟩ := backInvEnd_retries s b
  rw [hline] at hkeeps
  refine ⟨t, ?_, hkeeps⟩
  rw [backInvalidateResponse_some hf]
  unfold State.backInvResponse
  rw [hw]
  exact ht

theorem backInvResponse_alone (hq : s.mod.snoopQ = []) : ∃ t, evBackInvalidateResponse line holder s = t ∧
    t.mem = s.mem ∧ t.mod.snoopQ = [] ∧ t.mod.backInvs = s.mod.backInvs.eraseP (fun x => x.line == line) := by
  obtain ⟨t, ht, hmem, hsnoop, hback, _⟩ := backInvResponse_last hf hw
  refine ⟨_, ht, ?_⟩
  unfold State.hostRetry
  rw [hsnoop, hq]
  exact ⟨hmem, rfl, hback⟩

/-- The request that waits tries again. -/
theorem backInvResponse_retries {own : Bool} {r : HostReq} {d : Nat} (hq : s.mod.snoopQ = [(own, r)])
    (hp : s.mod.place (HostReq.pa r) = .die d) : ∃ t : State, (t.mem = s.mem ∧ t.mod.snoopQ = [] ∧
      t.mod.backInvs = s.mod.backInvs.eraseP (fun x => x.line == line)) ∧
      evBackInvalidateResponse line holder s = t.hostReq d own r := by
  obtain ⟨t, ht, hmem, hsnoop, hback, hplace⟩ := backInvResponse_last hf hw
  refine ⟨t.updMod (fun m => { m with snoopQ := [] }), ⟨hmem, rfl, hback⟩, ?_⟩
  have hp' : (t.updMod (fun m => { m with snoopQ := [] })).mod.place (HostReq.pa r) = .die d := (hplace _).trans hp
  rw [ht]
  unfold State.hostRetry
  rw [hsnoop, hq, List.foldl_cons, List.foldl_nil]
  dsimp only
  rw [hp']

end Last

end Sys2Proof.Proofs.HostLink
end

section
/-! PROOFS. Tables taken into force, and the reliable transport. -/

namespace Sys2Proof.Proofs.Transport
open Sys2Proof Sys2Proof.Machine

-- Tables.

section Tables
variable {s : State} (v : Word)

theorem tables_off (h : s.config = false) : exec (.fwtcntWrite v) s = .next s ∧ exec (.commcntWrite v) s = .next s ∧
    exec (.netcntWrite v) s = .next s ∧ exec (.tacccntWrite v) s = .next s := by
  have hif (x : State) : (if !s.config then s else x) = s := by rw [h]; rfl
  have hor : (!s.config || !s.mod.expander) = true := by rw [h]; rfl
  exact ⟨congrArg Host.Outcome.next (hif _), congrArg Host.Outcome.next (hif _), congrArg Host.Outcome.next (hif _),
    congrArg Host.Outcome.next (if_pos hor)⟩

section On
variable (h : s.config = true)
include h

theorem ite_config (x : State) : (if !s.config then s else x) = x := by
  rw [h]
  rfl

theorem fwtcntWrite_switches : ∃ t, exec (.fwtcntWrite v) s = .next t ∧ t.mem = s.mem ∧ t.mod.fwtcnt = min v.toNat 4096 ∧
    t.mod.lost = [] ∧ t.mod.lostExt = [] ∧ t.mod.fwt = (List.range (min v.toNat 4096)).map s.fwtEntry :=
  ⟨_, congrArg Host.Outcome.next (ite_config h _), rfl, rfl, rfl, rfl, rfl⟩

theorem commcntWrite_switches : exec (.commcntWrite v) s = .next { s with mod := { s.mod with
    commcnt := min v.toNat 65536, comms := (List.range (min v.toNat 65536)).map s.commEntry,
    colls := s.mod.colls.map (fun c =>
      if s.mod.comms[c.comm]? = ((List.range (min v.toNat 65536)).map s.commEntry)[c.comm]? then c
      else { c with chg := true }) } } := by
  refine congrArg Host.Outcome.next ((ite_config h _).trans ?_)
  simp only [State.updMod, beq_iff_eq]

theorem netcntWrite_switches : exec (.netcntWrite v) s = .next { s with mod := { s.mod with
    netcnt := min v.toNat 65536,
    nets := (List.range (min v.toNat 65536)).map (fun i => ⟨Memory.getBytes s.mem (s.mod.netbase + 32 * i) 32⟩) } } :=
  congrArg Host.Outcome.next (ite_config h _)

theorem tacccntWrite_switches : exec (.tacccntWrite v) s = .next (if s.mod.expander then { s with mod := { s.mod with
    tacccnt := min v.toNat 4096, taccs := (List.range (min v.toNat 4096)).map s.taccEntry } } else s) := by
  refine congrArg Host.Outcome.next ?_
  unfold evTacccntWrite
  rw [h]
  cases s.mod.expander <;> rfl

end On
end Tables

-- A packet read back from its bytes.

theorem leNat_leBytes {n v : Nat} (h : v < 256 ^ n) : leNat (leBytes n v) = v := by
  induction n generalizing v with
  | zero =>
    rw [Nat.pow_zero] at h
    show 0 = v
    omega
  | succ n ih =>
    have hv : v / 256 < 256 ^ n := by
      rw [Nat.pow_succ] at h
      exact Nat.div_lt_of_lt_mul (by rwa [Nat.mul_comm])
    show (BitVec.ofNat 8 v).toNat + 256 * leNat (leBytes n (v / 256)) = v
    rw [ih hv, BitVec.toNat_ofNat]
    omega

theorem crc32Bit_lt {c : Nat} (h : c < 2 ^ 32) : crc32Bit c < 2 ^ 32 := by
  unfold crc32Bit
  split
  · exact Nat.xor_lt_two_pow (by omega) (by decide)
  · omega

theorem crc32c_lt (bs : List Byte) : crc32c bs < 2 ^ 32 := by
  have hbyte (c : Nat) (b : Byte) (h : c < 2 ^ 32) : crc32Byte c b < 2 ^ 32 := by
    have hb : b.toNat < 2 ^ 32 := Nat.lt_trans b.isLt (by decide)
    unfold crc32Byte
    repeat' apply crc32Bit_lt
    exact Nat.xor_lt_two_pow h hb
  have hfold (c : Nat) (h : c < 2 ^ 32) : bs.foldl crc32Byte c < 2 ^ 32 := by
    induction bs generalizing c with
    | nil => exact h
    | cons b bs ih => exact ih _ (hbyte c b h)
  exact Nat.xor_lt_two_pow (hfold _ (by decide)) (by decide)

/-- The header of a packet. -/
def header (p : NetMsg) : List Byte :=
  [1] ++ leBytes 1 p.opc ++ [0, 0] ++ leBytes 4 p.comm ++ leBytes 2 p.src ++ leBytes 2 p.dst ++ leBytes 4 p.psn ++
    leBytes 4 p.msg ++ leBytes 4 p.offset ++ leBytes 4 p.ack ++ leBytes 2 p.data.length ++ [0, 0]

theorem body_eq (p : NetMsg) : p.body = header p ++ p.data := rfl

theorem bytes_eq (p : NetMsg) : p.bytes = header p ++ (p.data ++ leBytes 4 (crc32c p.body)) :=
  List.append_assoc ..

theorem length_header (p : NetMsg) : (header p).length = 32 := rfl

theorem fld_append_left {a b : List Byte} {off n : Nat} (h : off + n ≤ a.length) : fld (a ++ b) off n = fld a off n := by
  unfold fld
  rw [List.drop_append_of_le_length (by omega), List.take_append_of_le_length (by rw [List.length_drop]; omega)]

/-- A number in the header of a packet. -/
theorem fld_bytes {p : NetMsg} {off n v : Nat} (h : off + n ≤ 32) (hv : v < 256 ^ n)
    (hf : fld (header p) off n = leNat (leBytes n v)) : fld p.bytes off n = v := by
  rw [bytes_eq, fld_append_left (by rwa [length_header]), hf, leNat_leBytes hv]

theorem drop_bytes (p : NetMsg) : p.bytes.drop 32 = p.data ++ leBytes 4 (crc32c p.body) := by
  rw [bytes_eq, List.drop_left' (length_header p)]

theorem take_bytes (p : NetMsg) : p.bytes.take (32 + p.data.length) = p.body := by
  refine List.take_left' ?_
  rw [body_eq, List.length_append, length_header]

theorem fld_crc (p : NetMsg) : fld p.bytes (32 + p.data.length) 4 = crc32c p.body := by
  unfold fld
  rw [← List.drop_drop, drop_bytes, List.drop_left' rfl, List.take_of_length_le (Nat.le_of_eq (TeamStore.length_leBytes ..)),
    leNat_leBytes (crc32c_lt _)]

theorem length_bytes (p : NetMsg) : p.bytes.length = 36 + p.data.length := by
  rw [bytes_eq, List.length_append, List.length_append, length_header, TeamStore.length_leBytes]
  omega

/-- A packet is read back whole from its bytes. -/
theorem msg?_bytes (p : NetMsg) (psn : Nat) (hopc : p.opc < 256) (hcomm : p.comm < 2 ^ 32) (hsrc : p.src < 65536)
    (hdst : p.dst < 65536) (hpsn : p.psn < 2 ^ 32) (hmsg : p.msg < 2 ^ 32) (hoff : p.offset < 2 ^ 32) (hack : p.ack < 2 ^ 32)
    (hdata : p.data.length ≤ 4096) : NetPkt.msg? ⟨p.bytes, psn⟩ = some p := by
  have hn : fld p.bytes 0x1C 2 = p.data.length := fld_bytes (by decide) (by omega) rfl
  have hone : fld p.bytes 0 1 = 1 := fld_bytes (by decide) (by decide) rfl
  unfold NetPkt.msg?
  dsimp only
  rw [hn, hone, fld_crc, take_bytes, if_pos (by simp [length_bytes, hdata]), drop_bytes, List.take_left' rfl,
    fld_bytes (off := 1) (v := p.opc) (by decide) (by omega) rfl,
    fld_bytes (off := 4) (v := p.comm) (by decide) (by omega) rfl,
    fld_bytes (off := 8) (v := p.src) (by decide) (by omega) rfl,
    fld_bytes (off := 0x0A) (v := p.dst) (by decide) (by omega) rfl,
    fld_bytes (off := 0x0C) (v := p.psn) (by decide) (by omega) rfl,
    fld_bytes (off := 0x10) (v := p.msg) (by decide) (by omega) rfl,
    fld_bytes (off := 0x14) (v := p.offset) (by decide) (by omega) rfl,
    fld_bytes (off := 0x18) (v := p.ack) (by decide) (by omega) rfl]

-- Frames.

section Frames
variable {s : State} {c : Conn} {p : NetMsg}

theorem netSend_none (h : s.mod.netPair c = none) : s.netSend c p = s := by
  unfold State.netSend
  rw [h]

/-- The endpoints of a connection are enabled. -/
theorem netPair_some {m : Module} {d : Nat} {a b : NetE} (h : m.netPair c = some (d, a, b)) :
    m.neten = true ∧ a.flag 0 = true ∧ b.flag 0 = true := by
  unfold Module.netPair at h
  split at h
  · split at h
    · split at h
      · next hf =>
        simp only [Option.some.injEq, Prod.mk.injEq] at h
        obtain ⟨_, rfl, rfl⟩ := h
        simpa [and_assoc] using hf
      · exact absurd h (by simp)
    · exact absurd h (by simp)
  · exact absurd h (by simp)

theorem netSend_some {d : Nat} {a b : NetE} (h : s.mod.netPair c = some (d, a, b)) :
    s.mod.neten = true ∧ a.flag 0 = true ∧ b.flag 0 = true ∧
    ∃ f : NetFrame, s.netSend c p = s.emit (.net f) ∧ f.die = d ∧ f.payload = p.bytes ∧
      f.srcIp = (a.bytes.drop 0).take 16 ∧ f.dstIp = (b.bytes.drop 0).take 16 ∧ f.mac = (b.bytes.drop 0x10).take 6 ∧
      f.srcPort = leNat ((a.bytes.drop 0x1A).take 2) ∧ f.dstPort = leNat ((b.bytes.drop 0x1A).take 2) := by
  obtain ⟨hen, ha, hb⟩ := netPair_some h
  refine ⟨hen, ha, hb, netFrame d a b p, ?_, rfl, rfl, rfl, rfl, rfl, rfl, rfl⟩
  unfold State.netSend
  rw [h]

end Frames

-- Packets.

theorem onPacket_damaged {opc : Nat} {q : NetPkt} {f : NetMsg → State → State} {s : State} (h : NetPkt.msg? q = none) :
    onPacket opc q f s = s := by
  unfold onPacket
  rw [h]

section Packets
variable {opc : Nat} {q : NetPkt} {p : NetMsg} {f : NetMsg → State → State} {s : State} (h : NetPkt.msg? q = some p)
include h

theorem onPacket_other (ho : p.opc ≠ opc) : onPacket opc q f s = s := by
  unfold onPacket
  rw [h]
  exact if_neg (by simpa using ho)

theorem onPacket_acts (ho : p.opc = opc) : onPacket opc q f s = f p s := by
  unfold onPacket
  rw [h]
  exact if_pos (by simpa using ho)

end Packets

section Data
variable {s : State} {p : NetMsg} {bad : Nat}

theorem onData_cxl (h : cxlPath s.mod p = true) : s.onData p bad = s.deliver p bad := if_pos h

theorem onData_off (h : cxlPath s.mod p = false) (hn : s.mod.neten = false) : s.onData p bad = s := by
  unfold State.onData
  rw [h, hn]
  rfl

variable (h : cxlPath s.mod p = false) (hn : s.mod.neten = true)
include h hn

/-- The next packet of a connection is delivered and acknowledged. -/
theorem onData_next (hd : psnDiff p.psn ((connOf s.mod p).retire p.ack).expect = 0) :
    let c := (connOf s.mod p).retire p.ack
    let c1 := { c with expect := (c.expect + 1) % 2 ^ 32 }
    s.onData p bad = ((s.deliver p 0).updMod (fun m => m.setConn c1)).netSend c1 (ackPkt c1 2) := by
  intro c c1
  unfold State.onData
  dsimp only
  rw [h, hn, if_neg (by decide), if_neg (by decide), if_pos (by simpa using hd)]

/-- Any other is not, and is answered. -/
theorem onData_other (hd : psnDiff p.psn ((connOf s.mod p).retire p.ack).expect ≠ 0) :
    let c := (connOf s.mod p).retire p.ack
    s.onData p bad = (s.updMod (fun m => m.setConn c)).netSend c
      (ackPkt c (if psnDiff p.psn c.expect < 2 ^ 31 then 3 else 2)) := by
  intro c
  unfold State.onData
  dsimp only
  rw [h, hn, if_neg (by decide), if_neg (by decide), if_neg (by simpa using hd)]
  split <;> rfl

end Data

section Resend
variable {s : State} {c : Conn}

theorem resend_nothing : s.resend c [] = s.updMod (fun m => m.setConn c) := rfl

theorem resend_fails {ps : List NetMsg} (hp : ps ≠ []) (h : 16 ≤ c.resends) : s.resend c ps = s.connFail c.comm c.src c.dst := by
  unfold State.resend
  rw [if_neg (by simpa using hp), if_pos h]

theorem resend_again {ps : List NetMsg} (hp : ps ≠ []) (h : c.resends < 16) :
    let c1 := { c with resends := c.resends + 1 }
    s.resend c ps = ps.foldl (fun s p => s.netSend c1 p) (s.updMod (fun m => m.setConn c1)) := by
  unfold State.resend
  rw [if_neg (by simpa using hp), if_neg (by omega)]

end Resend

/-- The connection of a rank pair names that pair. -/
theorem conn_names (m : Module) (h src dst : Nat) :
    (m.conn h src dst).comm = h ∧ (m.conn h src dst).src = src ∧ (m.conn h src dst).dst = dst := by
  unfold Module.conn
  cases hf : m.conns.find? (fun c => c.is h src dst) with
  | none => exact ⟨rfl, rfl, rfl⟩
  | some c =>
    have hc := List.find?_some hf
    unfold Conn.is at hc
    simpa [and_assoc] using hc

-- The clauses of the transport.

section Clauses
variable {s : State} {q : NetPkt} {p : NetMsg}

theorem packets_damaged (h : NetPkt.msg? q = none) : exec (.data q) s = .next s ∧ exec (.ack q) s = .next s ∧
    exec (.nack q) s = .next s ∧ exec (.abort q) s = .next s :=
  ⟨congrArg Host.Outcome.next (onPacket_damaged h), congrArg Host.Outcome.next (onPacket_damaged h),
    congrArg Host.Outcome.next (onPacket_damaged h), congrArg Host.Outcome.next (onPacket_damaged h)⟩

theorem packets_act (h : NetPkt.msg? q = some p) :
    let c := (connOf s.mod p).retire p.ack
    (p.opc ≠ 1 → exec (.data q) s = .next s) ∧ (p.opc ≠ 2 → exec (.ack q) s = .next s) ∧
    (p.opc ≠ 3 → exec (.nack q) s = .next s) ∧ (p.opc ≠ 4 → exec (.abort q) s = .next s) ∧
    (p.opc = 1 → cxlPath s.mod p = true → exec (.data q) s = .next (s.deliver p q.psn)) ∧
    (s.mod.neten = false → (p.opc = 1 → cxlPath s.mod p = false → exec (.data q) s = .next s) ∧
      (p.opc = 2 → exec (.ack q) s = .next s) ∧ (p.opc = 3 → exec (.nack q) s = .next s) ∧
      (p.opc = 4 → exec (.abort q) s = .next s)) ∧
    (s.mod.neten = true →
      (p.opc = 1 → cxlPath s.mod p = false →
        (psnDiff p.psn c.expect = 0 → let c1 := { c with expect := (c.expect + 1) % 2 ^ 32 }
          exec (.data q) s = .next (((s.deliver p 0).updMod (fun m => m.setConn c1)).netSend c1 (ackPkt c1 2))) ∧
        (psnDiff p.psn c.expect ≠ 0 → exec (.data q) s = .next ((s.updMod (fun m => m.setConn c)).netSend c
          (ackPkt c (if psnDiff p.psn c.expect < 2 ^ 31 then 3 else 2))))) ∧
      (p.opc = 2 → exec (.ack q) s = .next (s.updMod (fun m => m.setConn c))) ∧
      (p.opc = 3 → (c.unacked = [] → exec (.nack q) s = .next (s.updMod (fun m => m.setConn c))) ∧
        (c.unacked ≠ [] → 16 ≤ c.resends → exec (.nack q) s = .next (s.connFail c.comm c.src c.dst)) ∧
        (c.unacked ≠ [] → c.resends < 16 → let c1 := { c with resends := c.resends + 1 }
          exec (.nack q) s = .next (c.unacked.foldl (fun s p => s.netSend c1 p) (s.updMod (fun m => m.setConn c1))))) ∧
      (p.opc = 4 → exec (.abort q) s = .next (s.connFail p.comm p.dst p.src))) := by
  intro c
  have hoff (hn : s.mod.neten = false) (x : State) : (if !s.mod.neten then s else x) = s := by rw [hn]; rfl
  have hon (hn : s.mod.neten = true) (x : State) : (if !s.mod.neten then s else x) = x := by rw [hn]; rfl
  refine ⟨fun ho => congrArg Host.Outcome.next (onPacket_other h ho), fun ho => congrArg Host.Outcome.next (onPacket_other h ho),
    fun ho => congrArg Host.Outcome.next (onPacket_other h ho), fun ho => congrArg Host.Outcome.next (onPacket_other h ho),
    fun ho hc => congrArg Host.Outcome.next ((onPacket_acts h ho).trans (onData_cxl hc)), fun hn => ⟨?_, ?_, ?_, ?_⟩,
    fun hn => ⟨fun ho hc => ⟨?_, ?_⟩, ?_, fun ho => ⟨?_, ?_, ?_⟩, ?_⟩⟩
  · exact fun ho hc => congrArg Host.Outcome.next ((onPacket_acts h ho).trans (onData_off hc hn))
  · exact fun ho => congrArg Host.Outcome.next ((onPacket_acts h ho).trans (hoff hn _))
  · exact fun ho => congrArg Host.Outcome.next ((onPacket_acts h ho).trans (hoff hn _))
  · exact fun ho => congrArg Host.Outcome.next ((onPacket_acts h ho).trans (hoff hn _))
  · exact fun hd => congrArg Host.Outcome.next ((onPacket_acts h ho).trans (onData_next hc hn hd))
  · exact fun hd => congrArg Host.Outcome.next ((onPacket_acts h ho).trans (onData_other hc hn hd))
  · exact fun ho => congrArg Host.Outcome.next ((onPacket_acts h ho).trans (hon hn _))
  · exact fun hu => congrArg Host.Outcome.next ((onPacket_acts h ho).trans ((hon hn _).trans
      ((congrArg (s.resend c) hu).trans resend_nothing)))
  · exact fun hu hr => congrArg Host.Outcome.next ((onPacket_acts h ho).trans ((hon hn _).trans (resend_fails hu hr)))
  · exact fun hu hr => congrArg Host.Outcome.next ((onPacket_acts h ho).trans ((hon hn _).trans (resend_again hu hr)))
  · exact fun ho => congrArg Host.Outcome.next ((onPacket_acts h ho).trans (hon hn _))

theorem resendTimeout_resends (s : State) (h src dst : Nat) :
    let c := s.mod.conn h src dst
    (c.unacked = [] → exec (.resendTimeout h src dst) s = .next s) ∧
    (∀ p ps, c.unacked = p :: ps →
      (16 ≤ c.resends → exec (.resendTimeout h src dst) s = .next (s.connFail h src dst)) ∧
      (c.resends < 16 → let c1 := { c with resends := c.resends + 1 }
        exec (.resendTimeout h src dst) s = .next ((s.updMod (fun m => m.setConn c1)).netSend c1 p))) := by
  intro c
  obtain ⟨hcomm, hsrc, hdst⟩ := conn_names s.mod h src dst
  refine ⟨fun hu => congrArg Host.Outcome.next (if_pos (by simpa using hu)), fun p ps hu => ?_⟩
  have hrun : evResendTimeout h src dst s = s.resend c [p] := by
    unfold evResendTimeout
    rw [if_neg (by simp [c, hu]), hu]
    rfl
  refine ⟨fun hr => congrArg Host.Outcome.next (hrun.trans ?_), fun hr => congrArg Host.Outcome.next (hrun.trans ?_)⟩
  · rw [resend_fails (by simp) hr, hcomm, hsrc, hdst]
  · exact resend_again (by simp) hr

end Clauses

end Sys2Proof.Proofs.Transport
end

section
/-! PROOFS. Task packets, extents, and the ports. -/

namespace Sys2Proof.Proofs.Expander
open Sys2Proof Sys2Proof.Machine

-- Task slots.

/-- The key of a task slot names its die, and no key names the reserved slot. -/
theorem taskKey_die (vd slot : Nat) {die : Nat} (h : die < 16) :
    taskKey vd die slot / 65 % 16 = die ∧ taskKey vd die slot % 65 ≠ 64 := by
  unfold taskKey
  omega

/-- The status of a slot. -/
def slotSt (m : Module) (k : Nat) : TaskSt := (SMap.getD m.tasks TaskSlot.init k).st

/-- A slot whose packet has left, signed. -/
def signedSlot (s : State) (vd die slot : Nat) (sg : List Byte) : State :=
  let k := taskKey vd die slot
  let t := SMap.getD s.mod.tasks TaskSlot.init k
  let d := Tenants.leafUsed (s.die die)
  let out := t.body ++ leBytes 1 s.mod.modid ++ leBytes 1 (s.mod.dieReg die) ++ [0, 0] ++ leBytes 4 s.mod.resets ++
    leBytes 8 d.taskSeq ++ sg
  (((((s.setDie die d).draw.draw).setDie die { d with taskSeq := d.taskSeq + 1 }).emit
    (.task die (s.mod.taskTarget slot) (s.mod.portOf die) out))).updMod
      (fun m => { m with tasks := SMap.put m.tasks k { t with st := .sent } })

section Slot
variable {s : State} {vd die slot : Nat}

theorem doorbell_closed (h : (SMap.getD s.mod.tasks TaskSlot.init (taskKey vd die slot)).open' = false) :
    exec (.doorbell vd die slot) s = .next s := by
  refine congrArg Host.Outcome.next (if_pos ?_)
  rw [h]
  simp

theorem doorbell_rings (hd : die < 16) (h : (SMap.getD s.mod.tasks TaskSlot.init (taskKey vd die slot)).open' = true) :
    ∃ u, exec (.doorbell vd die slot) s = .next u ∧ u.mem = s.mem ∧ slotSt u.mod (taskKey vd die slot) =
      if (SMap.getD s.mod.tasks TaskSlot.init (taskKey vd die slot)).bodyOk = true ∧ (s.die die).lmsLeaf < 2 ^ 25 then .signing
      else .badbody := by
  obtain ⟨hdie, hslot⟩ := taskKey_die vd slot hd
  refine ⟨_, congrArg Host.Outcome.next (if_neg (by simp [h, hslot])), rfl, ?_⟩
  rw [hdie]
  refine (congrArg TaskSlot.st (SMap.getD_put_same ..)).trans ?_
  simp

theorem taskSigned_other (h : (SMap.getD s.mod.tasks TaskSlot.init (taskKey vd die slot)).st ≠ .signing) :
    exec (.taskSigned vd die slot) s = .next s :=
  congrArg Host.Outcome.next (if_pos (by simpa using h))

theorem taskSigned_sends (h : (SMap.getD s.mod.tasks TaskSlot.init (taskKey vd die slot)).st = .signing)
    (hl : (s.die die).lmsLeaf < 2 ^ 25) :
    ∃ u sg, exec (.taskSigned vd die slot) s = .next u ∧ u.mem = s.mem ∧ slotSt u.mod (taskKey vd die slot) = .sent ∧
      (u.die die).taskSeq = (s.die die).taskSeq + 1 ∧ sg.length = 96 + 4 + 1932 ∧
      u.mod.out = s.mod.out ++ [.task die (s.mod.taskTarget slot) (s.mod.portOf die)
        ((SMap.getD s.mod.tasks TaskSlot.init (taskKey vd die slot)).body ++ leBytes 1 s.mod.modid ++
          leBytes 1 (s.mod.dieReg die) ++ [0, 0] ++ leBytes 4 s.mod.resets ++ leBytes 8 (s.die die).taskSeq ++ sg)] := by
  obtain ⟨sg, hsg, hlen⟩ := Tenants.signBoth_ok hl
  have hdie : ((s.setDie die (Tenants.leafUsed (s.die die))).draw.draw).die die = Tenants.leafUsed (s.die die) := by
    rw [show ∀ x : State, x.draw.draw.die die = x.die die from fun _ => rfl, Copies.die_setDie, if_pos rfl]
  have hrun : evTaskSigned vd die slot s = signedSlot s vd die slot sg := by
    unfold evTaskSigned signedSlot
    dsimp only
    rw [if_neg (by simp [h]), hsg]
    dsimp only
    rw [hdie]
  refine ⟨_, sg, congrArg Host.Outcome.next hrun, rfl, ?_, ?_, hlen, rfl⟩
  · exact congrArg TaskSlot.st (SMap.getD_put_same ..)
  · unfold signedSlot
    dsimp only
    rw [show ∀ (x : State) f o, ((x.emit o).updMod f).die die = x.die die from fun _ _ _ => rfl, Copies.die_setDie, if_pos rfl]
    rfl

theorem taskAck_frees (h : (SMap.getD s.mod.tasks TaskSlot.init (taskKey vd die slot)).st = .sent) :
    ∃ u, exec (.taskAck vd die slot) s = .next u ∧ slotSt u.mod (taskKey vd die slot) = .free ∧ u.mem = s.mem := by
  refine ⟨_, congrArg Host.Outcome.next (if_pos (by simp [h])), ?_, rfl⟩
  exact congrArg TaskSlot.st (SMap.getD_put_same ..)

theorem taskAck_other (h : (SMap.getD s.mod.tasks TaskSlot.init (taskKey vd die slot)).st ≠ .sent) :
    exec (.taskAck vd die slot) s = .next s :=
  congrArg Host.Outcome.next (if_neg (by simpa using h))

end Slot

-- Task packets.

section Packet
variable {s : State} {b e l : List Byte}

theorem taskPacket_off (h : s.mod.expander = false ∨ s.full = false ∨ s.mod.featon.testBit 5 = false) :
    exec (.taskPacket b e l) s = .next s :=
  congrArg Host.Outcome.next (if_pos (by obtain h | h | h := h <;> simp [h]))

theorem taskPacket_on (hx : s.mod.expander = true) (hf : s.full = true) (h5 : s.mod.featon.testBit 5 = true) (x : State) :
    (if !s.mod.expander || !s.full || !s.mod.featon.testBit 5 then s else x) = x :=
  if_neg (by simp [hx, hf, h5])

/-- An entry takes a packet. -/
theorem takes_iff (x : TaskAcc) (b e l : List Byte) : x.takes b e l = true ↔
    x.valid = true ∧ x.modid = fld b 0x140 1 ∧ x.die = fld b 0x141 1 ∧
      x.xvd = fld b 8 1 ∧ x.xpasid = fld b 0x0C 4 % 2 ^ 20 ∧ Config.sigOk 0 x.epub b e = true ∧
      Config.sigOk 1 (x.lpub.take 56) b l = true ∧
      (x.lastrst < fld b 0x144 4 ∨ (x.lastrst = fld b 0x144 4 ∧ x.lastseq < fld b 0x148 8)) := by
  unfold TaskAcc.takes
  simp [and_assoc]

end Packet

-- The queue of task packets.

theorem taskTry_launches {s s1 s2 : State} {q : TaskIn} {ctx i : Nat} (h : s.ctTier q.xvd = none)
    (hc : s.ctxOf q.xvd q.pasid = (s1, some ctx))
    (ha : s1.acceptLaunch ctx taskDie (2 ^ 32 + q.entry) 0 0 0 q.body false none none 0 = .ok s2 i) :
    s.taskTry q = (evGridComplete i s2, true) := by
  unfold State.taskTry
  dsimp only
  rw [h]
  dsimp only
  rw [hc]
  dsimp only
  rw [ha]

section Queue
variable {s : State} {q : TaskIn} (hq : s.mod.taskQ = [q])
include hq

/-- The only packet that waits is tried. -/
theorem taskDrain_one : s.taskDrain =
    let r := (s.updMod (fun m => { m with taskQ := [] })).taskTry q
    if r.2 then r.1 else r.1.updMod (fun m => { m with taskQ := m.taskQ ++ [q] }) := by
  unfold State.taskDrain
  rw [hq]
  rfl

theorem taskDrain_waits {o : Nat} (h : (s.updMod (fun m => { m with taskQ := [] })).ctTier q.xvd = some o) :
    s.taskDrain = ((s.updMod (fun m => { m with taskQ := [] })).awaitTier q.xvd o).updMod
      (fun m => { m with taskQ := m.taskQ ++ [q] }) := by
  rw [taskDrain_one hq]
  unfold State.taskTry
  dsimp only
  rw [h]
  rfl

section Read
variable (h : (s.updMod (fun m => { m with taskQ := [] })).ctTier q.xvd = none)
include h

theorem taskDrain_refuses {s1 : State} (hc : (s.updMod (fun m => { m with taskQ := [] })).ctxOf q.xvd q.pasid = (s1, none)) :
    s.taskDrain = s1.refusePkt q.xvd rsPasid ⟨q.xvd, 0, true, some q.pasid, [1] ++ List.replicate 63 0⟩ := by
  rw [taskDrain_one hq]
  unfold State.taskTry
  dsimp only
  rw [h]
  dsimp only
  rw [hc]
  rfl

theorem taskDrain_launches {s1 s2 : State} {ctx i : Nat}
    (hc : (s.updMod (fun m => { m with taskQ := [] })).ctxOf q.xvd q.pasid = (s1, some ctx))
    (ha : s1.acceptLaunch ctx taskDie (2 ^ 32 + q.entry) 0 0 0 q.body false none none 0 = .ok s2 i) :
    s.taskDrain = evGridComplete i s2 := by
  rw [taskDrain_one hq, taskTry_launches h hc ha]
  rfl

end Read
end Queue

-- Extents.

/-- Below its first key a map has no entry. -/
theorem get?_of_le {α : Type} [DecidableEq α] {d : α} {k n : Nat} {m : SMap α} (h : SMap.wfFrom d (some k) m = true) (hn : n ≤ k) :
    SMap.get? m n = none := by
  cases m with
  | nil => rfl
  | cons e m =>
    simp only [SMap.wfFrom, Bool.and_eq_true, decide_eq_true_eq] at h
    obtain ⟨⟨hk, _⟩, _⟩ := h
    unfold SMap.get?
    rw [if_neg (by simp; omega), if_pos (by omega)]

/-- Reading what is left of the entries of some keys. -/
theorem get?_filter {α : Type} [DecidableEq α] {d : α} (p : Nat → Bool) (n : Nat) (lo : Option Nat) (m : SMap α)
    (h : SMap.wfFrom d lo m = true) : SMap.get? (m.filter (fun e => p e.1)) n = if p n then SMap.get? m n else none := by
  induction m generalizing lo with
  | nil => cases p n <;> rfl
  | cons e m ih =>
    obtain ⟨k, v⟩ := e
    simp only [SMap.wfFrom, Bool.and_eq_true] at h
    have hm : SMap.wfFrom d (some k) m = true := h.2
    rw [List.filter_cons]
    by_cases hk : n = k
    · subst hk
      cases hp : p n
      · rw [if_neg (by simp), ih _ hm, hp]
        rfl
      · rw [if_pos (by simp)]
        simp [SMap.get?]
    · by_cases hlt : n < k
      · have hnone : SMap.get? m n = none := get?_of_le hm (Nat.le_of_lt hlt)
        split
        · simp [SMap.get?, hk, hlt]
        · rw [ih _ hm, hnone]
          simp [SMap.get?, hk, hlt]
      · split
        · simp [SMap.get?, hk, hlt, ih _ hm]
        · rw [ih _ hm]
          simp [SMap.get?, hk, hlt]

theorem get_filter {m : List Host.Cell} (h : Memory.wf m = true) (p : Nat → Bool) (a : Nat) :
    Memory.get (m.filter (fun c => p c.1)) a = if p a then Memory.get m a else 0 := by
  unfold Memory.get SMap.getD
  rw [get?_filter p a none m h]
  split <;> rfl

section Grant
variable {s : State} {base size tag holder : Nat} (hx : s.mod.expander = true) (hs : size ≠ 0) (hb : base % 2 ^ 28 = 0)
  (hz : size % 2 ^ 28 = 0)
include hx hs hb hz

theorem extentGrant_good (ho : ∀ x ∈ s.mod.extents, overlap x.base x.size base size = true →
    x.is base size tag = true ∧ x.holder ≠ holder) :
    (!s.mod.expander || size == 0 || base % 2 ^ 28 != 0 || size % 2 ^ 28 != 0 ||
      s.mod.extents.any (fun e => overlap e.base e.size base size && (!e.is base size tag || e.holder == holder))) = false := by
  have hany : s.mod.extents.any (fun e => overlap e.base e.size base size && (!e.is base size tag || e.holder == holder)) = false := by
    refine List.any_eq_false.mpr (fun e he => ?_)
    cases h : overlap e.base e.size base size with
    | false => simp
    | true => simpa using ho e he h
  rw [hany, hb, hz]
  simp [hx, hs]

/-- A further holder of a tag shares the extent. -/
theorem extentGrant_shares {e : Extent} (ho : ∀ x ∈ s.mod.extents, overlap x.base x.size base size = true →
    x.is base size tag = true ∧ x.holder ≠ holder) (he : s.mod.extents.find? (fun x => x.is base size tag) = some e) :
    exec (.extentGrant base size tag holder) s =
      .next { s with mod := { s.mod with extents := s.mod.extents ++ [{ e with holder := holder }] } } := by
  refine congrArg Host.Outcome.next ?_
  unfold evExtentGrant
  dsimp only
  rw [extentGrant_good hx hs hb hz ho, if_neg (by decide), he]
  rfl

/-- An extent that meets no other is granted erased. -/
theorem extentGrant_erases (ho : ∀ x ∈ s.mod.extents, overlap x.base x.size base size = false) (hw : Memory.wf s.mem = true) :
    ∃ t, exec (.extentGrant base size tag holder) s = .next t ∧
      t.mod.extents = s.mod.extents ++ [⟨base, size, tag, holder, s.nid + 1⟩] ∧
      ∀ a, Memory.get t.mem a = if base ≤ a ∧ a < base + size then 0 else Memory.get s.mem a := by
  have hnone : s.mod.extents.find? (fun x => x.is base size tag) = none := by
    refine List.find?_eq_none.mpr (fun x hx hi => ?_)
    have hlap := ho x hx
    unfold Extent.is at hi
    simp only [Bool.and_eq_true, beq_iff_eq] at hi
    obtain ⟨⟨rfl, rfl⟩, _⟩ := hi
    unfold overlap at hlap
    simp at hlap
    omega
  obtain ⟨t, ht⟩ : ∃ t, t = evExtentGrant base size tag holder s := ⟨_, rfl⟩
  have hrun : exec (.extentGrant base size tag holder) s = .next t := congrArg Host.Outcome.next ht.symm
  unfold evExtentGrant at ht
  dsimp only at ht
  rw [extentGrant_good hx hs hb hz (fun x hx h => by rw [ho x hx] at h; exact absurd h (by decide)), if_neg (by decide),
    hnone] at ht
  refine ⟨t, hrun, by rw [ht]; rfl, fun a => ?_⟩
  rw [ht]
  refine (get_filter hw (fun a => !(decide (base ≤ a) && decide (a < base + size))) a).trans ?_
  by_cases h : base ≤ a ∧ a < base + size
  · rw [if_pos h]
    simp [h.1, h.2]
  · rw [if_neg h, if_pos]
    simp only [Bool.not_eq_true', Bool.and_eq_false_iff, decide_eq_false_iff_not]
    exact Decidable.not_and_iff_not_or_not.mp h

end Grant

-- Ports.

/-- Setting a clear bit leaves the others. -/
theorem testBit_add_two_pow {n i : Nat} (h : n.testBit i = false) (j : Nat) :
    (n + 2 ^ i).testBit j = (decide (j = i) || n.testBit j) := by
  induction i generalizing n j with
  | zero =>
    rw [Nat.testBit_zero, decide_eq_false_iff_not] at h
    cases j with
    | zero =>
      rw [Nat.testBit_zero, Nat.testBit_zero]
      simp
      omega
    | succ j =>
      rw [Nat.testBit_add_one, Nat.testBit_add_one, show (n + 2 ^ 0) / 2 = n / 2 by omega]
      simp
  | succ i ih =>
    rw [Nat.testBit_add_one] at h
    cases j with
    | zero =>
      rw [Nat.testBit_zero, Nat.testBit_zero, Nat.pow_succ, Nat.add_mul_mod_self_right]
      simp
    | succ j =>
      rw [Nat.testBit_add_one, Nat.testBit_add_one, Nat.pow_succ, Nat.add_mul_div_right _ _ (by decide), ih h]
      simp

/-- Clearing a set bit leaves the others. -/
theorem testBit_sub_two_pow {n i : Nat} (h : n.testBit i = true) (j : Nat) :
    (n - 2 ^ i).testBit j = (!decide (j = i) && n.testBit j) := by
  have hbit (j : Nat) : (n ^^^ 2 ^ i).testBit j = (!decide (j = i) && n.testBit j) := by
    rw [Nat.testBit_xor, Nat.testBit_two_pow]
    by_cases hj : j = i
    · subst hj
      simp [h]
    · simp [hj, Ne.symm hj]
  have hsum : (n ^^^ 2 ^ i) + 2 ^ i = n := by
    refine Nat.eq_of_testBit_eq (fun j => ?_)
    rw [testBit_add_two_pow (by rw [hbit]; simp), hbit]
    by_cases hj : j = i
    · subst hj
      simp [h]
    · simp [hj]
  have hsub : n - 2 ^ i = n ^^^ 2 ^ i := by omega
  rw [hsub, hbit]

theorem cxlPortDown_up (s : State) (port : Nat) (h : port < 4 ∧ s.mod.portup.testBit port = true) :
    (evCxlPortDown port s).mod.portup = s.mod.portup - 2 ^ port := by
  unfold evCxlPortDown
  show (if _ then _ else _ : Module).portup = _
  rw [if_pos (by simpa using h)]

theorem cxlPortDown_other (s : State) (port : Nat) (h : ¬ (port < 4 ∧ s.mod.portup.testBit port = true)) :
    (evCxlPortDown port s).mod.portup = s.mod.portup := by
  unfold evCxlPortDown
  show (if _ then _ else _ : Module).portup = _
  rw [if_neg (by simpa using h)]

theorem cxlPortUp_same (s : State) (port : Nat) (h : 4 ≤ port ∨ s.mod.portup.testBit port = true) : evCxlPortUp port s = s :=
  if_pos (by simpa using h)

/-- A free value picks one of the numbers. -/
theorem freePick_mem (s : State) {l : List Nat} (h : l ≠ []) : (s.freePick l).2 ∈ l := by
  have hlt : Config.freeNat s.draws % l.length < l.length := Nat.mod_lt _ (List.length_pos_iff.mpr h)
  unfold State.freePick
  dsimp only
  rw [List.getElem?_eq_getElem hlt]
  exact List.getElem_mem hlt

/-- A port that comes up trains to a rate and lanes. -/
theorem cxlPortUp_trains (s : State) (port : Nat) (h : port < 4) (hb : s.mod.portup.testBit port = false) :
    (evCxlPortUp port s).mod.portup = s.mod.portup + 2 ^ port ∧ ∃ x, SMap.get? (evCxlPortUp port s).mod.ports port = some x ∧
      (x.rate = 128 ∨ x.rate = 64 ∨ x.rate = 32) ∧ (x.lanes = 16 ∨ x.lanes = 8) := by
  have hrate := freePick_mem s (l := [128, 64, 32]) (by simp)
  have hlanes := freePick_mem (s.freePick [128, 64, 32]).1 (l := [16, 8]) (by simp)
  have hrun : evCxlPortUp port s = _ := if_neg (by simp [h, hb])
  rw [hrun]
  refine ⟨rfl, _, SMap.get?_put_same .., ?_, ?_⟩
  · simpa using hrate
  · simpa using hlanes

theorem ports_spec (s : State) (port : Nat) : ∃ t u, exec (.cxlPortDown port) s = .next t ∧ exec (.cxlPortUp port) s = .next u ∧
    (port < 4 → t.mod.portup.testBit port = false ∧ u.mod.portup.testBit port = true) ∧
    (port < 4 → s.mod.portup.testBit port = false → ∃ x, SMap.get? u.mod.ports port = some x ∧
      (x.rate = 128 ∨ x.rate = 64 ∨ x.rate = 32) ∧ (x.lanes = 16 ∨ x.lanes = 8)) ∧
    (∀ q, q ≠ port → t.mod.portup.testBit q = s.mod.portup.testBit q ∧ u.mod.portup.testBit q = s.mod.portup.testBit q) := by
  refine ⟨_, _, rfl, rfl, fun hp => ?_, fun hp hb => (cxlPortUp_trains s port hp hb).2, fun q hq => ⟨?_, ?_⟩⟩
  · cases hb : s.mod.portup.testBit port with
    | false =>
      rw [cxlPortDown_other s port (by simp [hb]), (cxlPortUp_trains s port hp hb).1, testBit_add_two_pow hb]
      simpa using hb
    | true =>
      rw [cxlPortDown_up s port ⟨hp, hb⟩, cxlPortUp_same s port (.inr hb), testBit_sub_two_pow hb]
      simpa using hb
  · by_cases h : port < 4 ∧ s.mod.portup.testBit port = true
    · rw [cxlPortDown_up s port h, testBit_sub_two_pow h.2]
      simp [hq]
    · rw [cxlPortDown_other s port h]
  · by_cases h : 4 ≤ port ∨ s.mod.portup.testBit port = true
    · rw [cxlPortUp_same s port h]
    · obtain ⟨hp, hb⟩ := not_or.mp h
      rw [Bool.not_eq_true] at hb
      rw [(cxlPortUp_trains s port (by omega) hb).1, testBit_add_two_pow hb]
      simp [hq]

-- The nearest port.

/-- The fold that picks the first of the numbers with the least cost. -/
def nearest (cost : Nat → Nat) (b : Option Nat) (ks : List Nat) : Option Nat :=
  ks.foldl (fun (b : Option Nat) k => match b with
    | none => some k
    | some x => if cost k < cost x then some k else some x) b

theorem portOf_eq (m : Module) (d : Nat) : m.portOf d =
    nearest (fun k => meshHops m d (m.portDie k)) none ((List.range 4).filter (fun k => m.portup.testBit k)) := rfl

/-- A number stands before another: it costs less, or as much and is not greater. -/
def Before (cost : Nat → Nat) (x y : Nat) : Prop := cost x < cost y ∨ (cost x = cost y ∧ x ≤ y)

theorem nearest_some {cost : Nat → Nat} {x : Nat} {ks : List Nat} (hs : (x :: ks).Pairwise (· < ·)) :
    ∃ k ∈ x :: ks, nearest cost (some x) ks = some k ∧ ∀ j ∈ x :: ks, Before cost k j := by
  induction ks generalizing x with
  | nil => exact ⟨x, List.mem_cons_self, rfl, fun j hj => .inr (by rw [List.mem_singleton.mp hj]; exact ⟨rfl, Nat.le_refl _⟩)⟩
  | cons y ks ih =>
    obtain ⟨hx, hyks⟩ := List.pairwise_cons.mp hs
    by_cases h : cost y < cost x
    · obtain ⟨k, hk, hn, hbefore⟩ := ih hyks
      refine ⟨k, List.mem_cons_of_mem _ hk, (congrArg (fun b => nearest cost b ks) (if_pos h)).trans hn, fun j hj => ?_⟩
      obtain rfl | hj := List.mem_cons.mp hj
      · have hy := hbefore y List.mem_cons_self
        unfold Before at hy ⊢
        omega
      · exact hbefore j hj
    · have hxks : (x :: ks).Pairwise (· < ·) :=
        List.pairwise_cons.mpr ⟨fun j hj => hx j (List.mem_cons_of_mem _ hj), (List.pairwise_cons.mp hyks).2⟩
      obtain ⟨k, hk, hn, hbefore⟩ := ih hxks
      refine ⟨k, ?_, (congrArg (fun b => nearest cost b ks) (if_neg h)).trans hn, fun j hj => ?_⟩
      · obtain rfl | hk := List.mem_cons.mp hk
        · exact List.mem_cons_self
        · exact List.mem_cons_of_mem _ (List.mem_cons_of_mem _ hk)
      · obtain rfl | hj := List.mem_cons.mp hj
        · exact hbefore j List.mem_cons_self
        · obtain rfl | hj := List.mem_cons.mp hj
          · have hxy := hbefore x List.mem_cons_self
            have hlt := hx j List.mem_cons_self
            unfold Before at hxy ⊢
            omega
          · exact hbefore j (List.mem_cons_of_mem _ hj)

theorem portOf_spec (m : Module) (d : Nat) : (m.portOf d = none ↔ ∀ k < 4, m.portup.testBit k = false) ∧
    (∀ k, m.portOf d = some k → k < 4 ∧ m.portup.testBit k = true ∧ ∀ j < 4, m.portup.testBit j = true →
      meshHops m d (m.portDie k) < meshHops m d (m.portDie j) ∨
      (meshHops m d (m.portDie k) = meshHops m d (m.portDie j) ∧ k ≤ j)) := by
  have hmem (j : Nat) : j ∈ (List.range 4).filter (fun k => m.portup.testBit k) ↔ j < 4 ∧ m.portup.testBit j = true := by
    rw [List.mem_filter, List.mem_range]
  rw [portOf_eq]
  have hsorted : ((List.range 4).filter (fun k => m.portup.testBit k)).Pairwise (· < ·) :=
    List.Pairwise.filter _ (List.pairwise_lt_range)
  cases hl : (List.range 4).filter (fun k => m.portup.testBit k) with
  | nil =>
    refine ⟨⟨fun _ k hk => ?_, fun _ => rfl⟩, fun k hk => absurd hk (by simp [nearest])⟩
    have hk' := mt (hmem k).mpr (by rw [hl]; simp)
    simpa [hk] using hk'
  | cons x ks =>
    rw [hl] at hsorted hmem
    obtain ⟨k, hk, hn, hbefore⟩ := nearest_some (cost := fun k => meshHops m d (m.portDie k)) hsorted
    have hn' : nearest (fun k => meshHops m d (m.portDie k)) none (x :: ks) = some k := hn
    rw [hn']
    refine ⟨⟨fun h => absurd h (by simp), fun h => ?_⟩, fun k' hk' => ?_⟩
    · obtain ⟨hlt, hb⟩ := (hmem k).mp hk
      rw [h k hlt] at hb
      exact absurd hb (by decide)
    · obtain rfl := Option.some.inj hk'
      obtain ⟨hlt, hb⟩ := (hmem k).mp hk
      exact ⟨hlt, hb, fun j hj hbj => hbefore j ((hmem j).mpr ⟨hj, hbj⟩)⟩

end Sys2Proof.Proofs.Expander
end

section
/-! SUPPORT. What accesses and collectives leave of a module's ranges and of what is lost of them. -/

namespace Sys2Proof.Proofs.Ranges

-- Theorem by theorem: the many that are elaborated at once would each take a thread.
set_option Elab.async false
open Sys2Proof Sys2Proof.Machine
open Sys2Proof.Proofs.Ledger

/-- What decides where an address leads, and what of it is lost. -/
structure Roads where
  expander : Bool
  featon : Nat
  fwt : List Fwt
  lost : List Nat
  lostExt : List (Nat × Nat)

def roadsOf (m : Module) : Roads := ⟨m.expander, m.featon, m.fwt, m.lost, m.lostExt⟩

/-- The ranges of a state's module. -/
def roads (s : State) : Roads := roadsOf s.mod

theorem roads_ledger (s : State) : roads s = roadsOf (ledger s).mod := rfl

theorem roads_of_ledger {s t : State} (h : ledger t = ledger s) : roads t = roads s := by
  have hmod := congrArg (fun x : State => roadsOf x.mod) h
  exact hmod

theorem place_of_roads {m n : Module} (h : roadsOf m = roadsOf n) (pa : Nat) : m.place pa = n.place pa := by
  simp only [roadsOf, Roads.mk.injEq] at h
  obtain ⟨hx, hf, hw, _, _⟩ := h
  unfold Module.place fwtFind Fwt.holds
  rw [hx, hf, hw]

theorem isLost_of_roads {m n : Module} (h : roadsOf m = roadsOf n) (pa : Nat) : m.isLost pa = n.isLost pa := by
  have hp := place_of_roads h pa
  simp only [roadsOf, Roads.mk.injEq] at h
  obtain ⟨_, _, _, hl, he⟩ := h
  unfold Module.isLost
  rw [hp, hl, he]

theorem foldl_roads {α : Type} {f : State → α → State} (hf : ∀ s x, roads (f s x) = roads s) (s : State) (xs : List α) :
    roads (xs.foldl f s) = roads s := Packets.foldl_keeps hf s xs

theorem fst_foldl_roads {α β : Type} {f : State × β → α → State × β} (hf : ∀ p x, roads (f p x).1 = roads p.1)
    (p : State × β) (xs : List α) : roads (xs.foldl f p).1 = roads p.1 := by
  induction xs generalizing p with
  | nil => rfl
  | cons x xs ih => exact (ih (f p x)).trans (hf p x)

theorem State.holeRead_roads (s : State) (a pa n) : roads (s.holeRead a pa n).1 = roads s := by
  unfold State.holeRead
  grind [roads_ledger, State.freeBytes_ledger, State.relRec_ledger]

theorem State.l2Get_roads (s : State) (a sys pa n key) : roads (s.l2Get a sys pa n key).1 = roads s := by
  unfold State.l2Get
  grind [roads_ledger, State.holeRead_roads, State.homeRead_ledger, State.l2Use_ledger, State.guestLine_ledger, State.cxlRead_ledger,
    State.cxlMeter_ledger, State.farWb_ledger, State.farLine_ledger]

theorem State.l2Read_roads (s : State) (a sys pa n key) : roads (s.l2Read a sys pa n key).1 = roads s := by
  unfold State.l2Read
  grind [State.l2Get_roads]

theorem State.l1Out_roads (s : State) (a c line) : roads (s.l1Out a c line) = roads s := by
  unfold State.l1Out
  grind [roads_ledger, State.updCore_ledger, State.l1Send_ledger]

theorem State.l1Room_roads (s : State) (a c) : roads (s.l1Room a c) = roads s := by
  unfold State.l1Room
  grind [roads_ledger, State.l1Out_roads, State.draw_ledger]

theorem State.l1Line_roads (s : State) (a c line key first) : roads (s.l1Line a c line key first) = roads s := by
  unfold State.l1Line
  grind [roads_ledger, State.l1Out_roads, State.updCore_ledger, State.l1Room_roads]

theorem State.l1Fill_roads (s : State) (a c g first) : roads (s.l1Fill a c g first) = roads s := by
  unfold State.l1Fill
  grind [roads_ledger, State.l2Get_roads, State.updCore_ledger]

theorem State.readPast_roads (s : State) (a c g) : roads (s.readPast a c g).1 = roads s := by
  unfold State.readPast
  grind [State.l2Get_roads]

theorem State.msSend_roads (s : State) (kind pa n q a) : roads (s.msSend kind pa n q a) = roads s := by
  unfold State.msSend
  grind [roads_ledger, State.portReq_ledger, State.cxlMeter_ledger]

theorem State.meet_roads (s : State) (d h line) : roads (s.meet d h line) = roads s := by
  unfold State.meet
  grind [roads_ledger, State.join_ledger]

theorem State.meetAt_roads (s : State) (d pa) : roads (s.meetAt d pa) = roads s := by
  unfold State.meetAt
  grind [State.meet_roads]

theorem State.msPut_roads (s : State) (pa bs) : roads (s.msPut pa bs) = roads s := by
  have hspoil (t : State) (line) : roads (t.spoilLine line) = roads t := rfl
  unfold State.msPut
  grind [roads_ledger, State.freeBytes_ledger, State.homeWrite_ledger]

theorem State.msGet_roads (s : State) (pa n) : roads (s.msGet pa n).1 = roads s := by
  unfold State.msGet
  grind [roads_ledger, State.freeBytes_ledger, State.homeRead_ledger]

theorem State.msRead_roads (s : State) (pa n a) : roads (s.msRead pa n a).1 = roads s := by
  unfold State.msRead
  grind [State.holeRead_roads, State.msGet_roads, State.msSend_roads, State.meetAt_roads]

theorem State.msWrite_roads (s : State) (pa bs a) : roads (s.msWrite pa bs a) = roads s := by
  unfold State.msWrite
  grind [roads_ledger, State.holeWrite_ledger, State.lostHit_ledger, State.msSend_roads, State.msPut_roads, State.meetAt_roads]

theorem State.ringBell_roads (s : State) (k) : roads (s.ringBell k) = roads s := by
  unfold State.ringBell
  dsimp only
  split
  · rfl
  · rfl

theorem State.taskWrite_roads (s : State) (k o bs) : roads (s.taskWrite k o bs) = roads s := by
  have hset (p : Bool) (f : Module → SMap TaskSlot) :
      roads (if p then s else s.updMod (fun m => { m with tasks := f m })) = roads s := by
    cases p <;> rfl
  unfold State.taskWrite
  dsimp only
  split
  · exact (State.ringBell_roads ..).trans (hset _ _)
  · exact hset _ _

theorem State.readCell_roads (s : State) (a sc pol g) : roads (s.readCell a sc pol g).1 = roads s := by
  unfold State.readCell
  grind [roads_ledger, State.holeRead_roads, State.msRead_roads, State.l2Read_roads, State.readPast_roads, State.l1Fill_roads,
    State.l1Line_roads, State.l1Send_ledger]

theorem State.writeCell_roads (s : State) (a sc pol g bs) : roads (s.writeCell a sc pol g bs) = roads s := by
  unfold State.writeCell
  grind [roads_ledger, State.taskWrite_roads, State.msWrite_roads, State.l2Write_ledger, State.updCore_ledger,
    State.l1Line_roads, State.l1Send_ledger]

theorem State.readSeg_roads (s : State) (a sc pol g) : roads (s.readSeg a sc pol g).1 = roads s := by
  unfold State.readSeg
  grind [State.readCell_roads, fst_foldl_roads]

theorem State.writeSeg_roads (s : State) (a sc pol g bs) : roads (s.writeSeg a sc pol g bs) = roads s := by
  have hts (t : State) (core x bs p) : roads (t.tsWrite core x bs p) = roads t := rfl
  unfold State.writeSeg
  grind [fst_foldl_roads, State.writeCell_roads]

theorem State.readSegs_roads (s : State) (a sc pol gs) : roads (s.readSegs a sc pol gs).1 = roads s := by
  unfold State.readSegs
  grind [State.readSeg_roads, fst_foldl_roads]

theorem State.writeSegs_roads (s : State) (a sc pol gs bs) : roads (s.writeSegs a sc pol gs bs) = roads s := by
  unfold State.writeSegs
  grind [State.writeSeg_roads, fst_foldl_roads]

theorem State.poisonSegs_roads (s : State) (a gs) : roads (s.poisonSegs a gs) = roads s := by
  refine foldl_roads (fun s g => ?_) s gs
  split
  · rfl
  · rfl

theorem State.scramble_roads (s : State) (a gs) : roads (s.scramble a gs) = roads s := by
  unfold State.scramble
  grind [roads_ledger, foldl_roads, State.freeBytes_ledger, State.writeSeg_roads]

-- Collectives.

theorem State.acElems_roads (s : State) (a w gs n) : roads (s.acElems a w gs n).1 = roads s := by
  refine fst_foldl_roads (fun p i => ?_) _ _
  exact State.readSegs_roads ..

theorem roadsOf_updColl (m : Module) (h i f) : roadsOf (m.updColl h i f) = roadsOf m := by
  unfold Module.updColl
  split
  · rfl
  · rfl

theorem State.acEnd_roads (s : State) (h c x status res) : roads (s.acEnd h c x status res) = roads s := by
  unfold State.acEnd
  extract_lets a w lost s1 now sent s2 s3 s4
  have h1 : roads s1 = roads s := by
    unfold s1
    split
    · exact roads_of_ledger (State.lostHit_ledger ..)
    · rfl
  have h2 : roads s2 = roads s := by
    unfold s2
    split
    · exact h1
    · exact (State.scramble_roads ..).trans h1
  have h3 : roads s3 = roads s := by
    unfold s3
    split
    · refine (foldl_roads (fun t e => ?_) s2 _).trans h2
      dsimp only
      split
      · exact (State.poisonSegs_roads ..).trans (State.writeSegs_roads ..)
      · exact State.writeSegs_roads ..
    · exact (State.scramble_roads ..).trans h2
  have h4 : roads s4 = roads s := by
    unfold s4
    split
    · exact h3
    · exact h3
  exact (roadsOf_updColl ..).trans h4

theorem State.connFail_roads (s : State) (h src dst) : roads (s.connFail h src dst) = roads s := by
  unfold State.connFail
  refine (foldl_roads (fun t c => ?_) (s.updMod (fun m => { m with conns := m.conns.filter (fun c => !c.is h src dst) })) _)
  split
  · rfl
  · split
    · exact State.acEnd_roads ..
    · rfl

theorem State.cutOff_roads (s : State) : roads s.cutOff = roads s := by
  have hdraw (t : State) : roads t.draw = roads t := rfl
  unfold State.cutOff
  refine foldl_roads (fun t c => foldl_roads (fun t x => ?_) t _) s _
  grind [State.connFail_roads]

end Sys2Proof.Proofs.Ranges
end

section
/-! PROOFS. A target or an extent that is lost. -/

namespace Sys2Proof.Proofs.Containment
open Sys2Proof Sys2Proof.Machine
open Sys2Proof.Proofs.Copies Sys2Proof.Proofs.Ranges Sys2Proof.Proofs.HostLink

-- What the requests that try again leave: the module's ranges, and no far line that did not stand before.

/-- The module's ranges stay, and far lines only go. -/
structure Sheds (s t : State) : Prop where
  roads : roads t = roads s
  far (P : Nat → Prop) : FarIn P s → FarIn P t

theorem Sheds.refl (s : State) : Sheds s s := ⟨rfl, fun _ h => h⟩

theorem Sheds.trans {s t u : State} (h : Sheds s t) (k : Sheds t u) : Sheds s u :=
  ⟨k.roads.trans h.roads, fun P hP => k.far P (h.far P hP)⟩

theorem Sheds.ite {s t u : State} {p : Prop} [Decidable p] (h : Sheds s t) (k : Sheds s u) : Sheds s (if p then t else u) := by
  split
  · exact h
  · exact k

theorem sheds_foldl {α : Type} {f : State → α → State} (hf : ∀ s x, Sheds s (f s x)) (s : State) (xs : List α) :
    Sheds s (xs.foldl f s) := by
  induction xs generalizing s with
  | nil => exact .refl s
  | cons x xs ih => exact (hf s x).trans (ih (f s x))

theorem sheds_updDie (s : State) (d : Nat) {f : Die → Die} (hf : ∀ x, (f x).far = x.far) : Sheds s (s.updDie d f) :=
  ⟨rfl, fun _ hP => farIn_updDie hP d (fun y _ hx => hf y ▸ hx)⟩

theorem sheds_updMod (s : State) {f : Module → Module} (hf : roadsOf (f s.mod) = roadsOf s.mod) : Sheds s (s.updMod f) :=
  ⟨hf, fun _ hP => ⟨hP.far⟩⟩

theorem sheds_draw (s : State) : Sheds s s.draw := ⟨rfl, fun _ hP => ⟨hP.far⟩⟩

theorem sheds_emit (s : State) (o) : Sheds s (s.emit o) := ⟨rfl, fun _ hP => ⟨hP.far⟩⟩

theorem sheds_devStore (s : State) (home bs m key a) : Sheds s (s.devStore home bs m key a) :=
  ⟨roads_of_ledger (Ledger.State.devStore_ledger ..), fun _ hP => farIn_devStore hP ..⟩

theorem sheds_hostStore (s : State) (d pa x) : Sheds s (s.hostStore d pa x) := by
  unfold State.hostStore
  refine sheds_foldl (fun t c => ?_) s _
  dsimp only
  split
  · refine Sheds.trans ?_ (sheds_updDie _ d ?_)
    · refine Sheds.trans (sheds_updDie t d ?_) (sheds_devStore ..)
      exact fun _ => rfl
    · exact fun _ => rfl
  · refine Sheds.trans (sheds_updDie t d ?_) (sheds_devStore ..)
    exact fun _ => rfl

theorem sheds_holdLines (s : State) (d req ls) : Sheds s (s.holdLines d req ls) := by
  refine Sheds.trans (sheds_updDie s d ?_) (sheds_updMod _ rfl)
  exact fun _ => rfl

theorem sheds_homeRead (s : State) (a n key) : Sheds s (s.homeRead a n key).1 := by
  unfold State.homeRead
  dsimp only
  split
  · exact sheds_draw s
  · exact .refl s

theorem sheds_hostServe (s : State) (d r) : Sheds s (s.hostServe d r) := by
  unfold State.hostServe
  cases r with
  | read => exact (sheds_homeRead s ..).trans ((sheds_holdLines ..).trans (sheds_emit ..))
  | write => exact (sheds_hostStore s ..).trans (sheds_emit ..)
  | atomic =>
    refine Sheds.trans ?_ (sheds_emit ..)
    exact (sheds_homeRead s ..).trans (.ite (.refl _) (sheds_hostStore ..))

theorem sheds_askHolders (s : State) (line hs) : Sheds s (s.askHolders line hs) := by
  unfold State.askHolders
  refine .ite (.refl s) ?_
  exact (sheds_foldl (fun t _ => sheds_emit t (.backInv line)) s hs).trans (sheds_updMod _ rfl)

theorem sheds_snoopRoom (s : State) (line) : Sheds s (s.snoopRoom line).1 := by
  unfold State.snoopRoom
  dsimp only
  split
  · exact .refl s
  · split
    · exact .refl s
    · next v _ =>
      split
      · exact (sheds_draw s).trans (sheds_updMod s.draw (f := fun m => { m with snoop := SMap.del m.snoop v }) rfl)
      · exact (sheds_draw s).trans (sheds_askHolders ..)

theorem sheds_roomFor (s : State) (own r) : Sheds s (roomFor s own r).1 := by
  unfold roomFor
  split
  · have hfold (p : State × Bool) (ls : List Nat) :
        Sheds p.1 (ls.foldl (fun x l => let y := x.1.snoopRoom l; (y.1, x.2 && y.2)) p).1 := by
      induction ls generalizing p with
      | nil => exact .refl p.1
      | cons l ls ih => exact (sheds_snoopRoom p.1 l).trans (ih ((p.1.snoopRoom l).1, p.2 && (p.1.snoopRoom l).2))
    exact hfold (s, true) _
  · exact .refl s

theorem sheds_hostQueue (s : State) (own r) : Sheds s (s.hostQueue own r) := sheds_updMod s rfl

theorem sheds_takeRoom (d own r) (t : State × Bool) : Sheds t.1 (takeRoom d own r t) := by
  unfold takeRoom
  refine .ite (sheds_hostQueue ..) (.ite ?_ (.ite ?_ (sheds_hostServe ..)))
  · exact (sheds_foldl (fun s l => sheds_askHolders s l _) t.1 _).trans (sheds_hostQueue ..)
  · cases r with
    | write => exact (sheds_hostStore ..).trans (sheds_holdLines ..)
    | read => exact .refl _
    | atomic => exact .refl _

theorem sheds_hostReq (s : State) (d own r) : Sheds s (s.hostReq d own r) := by
  rw [hostReq_eq]
  exact .ite (sheds_hostQueue ..) ((sheds_roomFor s own r).trans (sheds_takeRoom ..))

theorem sheds_hostRetry (s : State) : Sheds s s.hostRetry := by
  refine (sheds_updMod s (f := fun m => { m with snoopQ := [] }) rfl).trans (sheds_foldl (fun t q => ?_) _ _)
  split
  · exact sheds_hostReq ..
  · exact .refl t

theorem sheds_backInvResponse (s : State) (b holder) : Sheds s (s.backInvResponse b holder) := by
  unfold State.backInvResponse
  dsimp only
  split
  · unfold State.backInvEnd
    dsimp only
    split
    · refine Sheds.trans (t := s.updMod _) (sheds_updMod s rfl) (Sheds.trans (sheds_updDie _ _ ?_) (sheds_hostRetry _))
      exact fun _ => rfl
    · exact (sheds_updMod s rfl).trans (sheds_hostRetry _)
  · exact sheds_updMod s rfl

theorem forgetLost_keeps (s : State) : s.forgetLost.vds = s.vds ∧ s.forgetLost.mem = s.mem ∧ Sheds s s.forgetLost := by
  refine ⟨Packets.foldl_keeps (F := State.vds) (fun t l => ?_) s _, Packets.foldl_keeps (F := State.mem) (fun t l => ?_) s _,
    sheds_foldl (fun t l => ?_) s _⟩
  · split
    · rfl
    · dsimp only
      split <;> rfl
  · split
    · rfl
    · dsimp only
      split <;> rfl
  · refine .ite (.refl t) (Sheds.trans (t := t.updMod (fun m => { m with snoop := SMap.del m.snoop l })) (sheds_updMod t rfl) ?_)
    dsimp only
    split
    · refine sheds_updDie _ _ ?_
      exact fun _ => rfl
    · exact .refl _

-- A lost target.

/-- A target, or an extent, is marked lost. -/
def markLost (target : Nat) (ext : Option (Nat × Nat)) (m : Module) : Module :=
  match ext with
  | none => { m with lost := if m.lost.contains target then m.lost else m.lost ++ [target] }
  | some e => { m with lostExt := m.lostExt ++ [e] }

/-- The record of a loss, and the ranks that it cuts off. -/
def recordLoss (target : Nat) (ext : Option (Nat × Nat)) (s : State) : State :=
  let t := s.relRec 9 1 0 0 0 (ext.elim target (fun e => e.1))
  if ext.isNone then t.cutOff else t

/-- The far and guest lines of what is lost go. -/
def dropLost (s : State) : State :=
  { s with dies := SMap.mapV (fun (d : Die) => { d with
    far := d.far.filter (fun l => !s.mod.isLost (l.1 * 256)), guest := d.guest.filter (fun l => !s.mod.isLost (l.1 * 256)) }) s.dies }

/-- A lost requester counts as having responded. -/
def respondFor (target : Nat) (s : State) : State :=
  s.mod.backInvs.foldl (fun s b => if b.wait.contains target then s.backInvResponse b target else s) s

/-- A loss, before the tier objects there fail. -/
def lose (target : Nat) (ext : Option (Nat × Nat)) (s : State) : State :=
  (respondFor target (dropLost (recordLoss target ext (s.updMod (markLost target ext))))).forgetLost

theorem targetLost_eq {s : State} (target : Nat) {ext : Option (Nat × Nat)} (h : s.mod.expander = false ∨ ext = none) :
    evTargetLost target ext s = (lose target ext s).vds.foldl (fun x v => v.2.objs.foldl (fun x o =>
      if x.objLost v.1 o.1 then evTierFailure v.1 o.1 true x else x) x) (lose target ext s) := by
  have hmark : s.updMod (fun m => match ext with
      | none => { m with lost := if m.lost.contains target then m.lost else m.lost ++ [target] }
      | some e => { m with lostExt := m.lostExt ++ [e] }) = s.updMod (markLost target ext) := by
    cases ext <;> rfl
  cases ext with
  | none => rfl
  | some e =>
    obtain h | h := h
    · unfold evTargetLost
      rw [h]
      rfl
    · exact absurd h (by simp)

theorem roads_recordLoss (target ext) (s : State) : roads (recordLoss target ext s) = roads s := by
  have hrec := roads_of_ledger (Ledger.State.relRec_ledger s 9 1 0 0 0 (ext.elim target (fun e => e.1)))
  unfold recordLoss
  dsimp only
  split
  · exact (State.cutOff_roads _).trans hrec
  · exact hrec

/-- No far line of what is lost is left. -/
theorem farIn_dropLost (s : State) : FarIn (fun l => s.mod.isLost (l * 256) = false) (dropLost s) := by
  refine ⟨fun d x hx => ?_⟩
  unfold dropLost State.die SMap.getD at hx
  dsimp only at hx
  rw [Tokens.get?_mapV] at hx
  cases hd : SMap.get? s.dies d with
  | none =>
    rw [hd] at hx
    exact absurd hx (by simp [Die.init])
  | some y =>
    rw [hd] at hx
    simpa using (List.mem_filter.mp hx).2

theorem sheds_respondFor (target : Nat) (s : State) : Sheds s (respondFor target s) :=
  sheds_foldl (fun _ _ => .ite (sheds_backInvResponse ..) (.refl _)) s _

theorem sheds_lose (target ext) (s : State) :
    Sheds (dropLost (recordLoss target ext (s.updMod (markLost target ext)))) (lose target ext s) :=
  (sheds_respondFor ..).trans (forgetLost_keeps _).2.2

theorem roads_lose (target ext) (s : State) : roads (lose target ext s) = roadsOf (markLost target ext s.mod) :=
  (sheds_lose target ext s).roads.trans (roads_recordLoss target ext (s.updMod (markLost target ext)))

theorem lost_lose (target : Nat) (s : State) : target ∈ (lose target none s).mod.lost := by
  have h := congrArg Roads.lost (roads_lose target none s)
  rw [show (lose target none s).mod.lost = (markLost target none s.mod).lost from h]
  show target ∈ if s.mod.lost.contains target then s.mod.lost else s.mod.lost ++ [target]
  split
  · next hc => simpa using hc
  · exact List.mem_append_right _ List.mem_cons_self

theorem lostExt_lose (target : Nat) (e : Nat × Nat) (s : State) : e ∈ (lose target (some e) s).mod.lostExt := by
  have h := congrArg Roads.lostExt (roads_lose target (some e) s)
  rw [show (lose target (some e) s).mod.lostExt = (markLost target (some e) s.mod).lostExt from h]
  exact List.mem_append_right _ List.mem_cons_self

theorem far_lose (target ext) (s : State) (d : Nat) : ∀ x ∈ ((lose target ext s).die d).far,
    (lose target ext s).mod.isLost (x.1 * 256) = false := by
  intro x hx
  have hsheds := sheds_lose target ext s
  rw [isLost_of_roads (m := (lose target ext s).mod) hsheds.roads]
  exact (hsheds.far _ (farIn_dropLost _)).far d x hx

/-- While the log has no base a record changes dies alone. -/
theorem relRec_keeps {s : State} (h : s.mod.rlbase = 0) (src sev d unit ctx loc) :
    (s.relRec src sev d unit ctx loc).vds = s.vds ∧ (s.relRec src sev d unit ctx loc).mod = s.mod := by
  have hnew (t : State) (r : RelRec) (ht : t.mod.rlbase = 0) : (t.relWrite r).vds = t.vds ∧ (t.relWrite r).mod = t.mod := by
    unfold State.relWrite
    split
    · next o ho =>
      have hhold := List.find?_some ho
      dsimp only
      split
      · exact ⟨rfl, rfl⟩
      · next i hi =>
        simp [State.relHolds, hi, ht] at hhold
    · have hrel : t.relNew r = t.updDie r.die (fun x => { x with relBuf := x.relBuf.drop (x.relBuf.length - 63) ++ [r] }) :=
        if_pos (by simpa using ht)
      dsimp only
      rw [hrel]
      split
      · exact ⟨rfl, rfl⟩
      · exact ⟨rfl, rfl⟩
  exact hnew (s.readCyc d).1 _ h

theorem vds_lose {s : State} (target ext) (hr : s.mod.rlbase = 0) (hc : s.mod.colls = []) (hb : s.mod.backInvs = []) :
    (lose target ext s).vds = s.vds := by
  have hm : (markLost target ext s.mod).rlbase = 0 ∧ (markLost target ext s.mod).colls = [] ∧
      (markLost target ext s.mod).backInvs = [] := by
    cases ext <;> exact ⟨hr, hc, hb⟩
  obtain ⟨hr', hc', hb'⟩ := hm
  obtain ⟨hvds, hmod⟩ := relRec_keeps (s := s.updMod (markLost target ext)) hr' 9 1 0 0 0 (ext.elim target (fun e => e.1))
  have hrec : recordLoss target ext (s.updMod (markLost target ext)) =
      (s.updMod (markLost target ext)).relRec 9 1 0 0 0 (ext.elim target (fun e => e.1)) := by
    unfold recordLoss
    dsimp only
    split
    · unfold State.cutOff
      rw [show (State.relRec (s.updMod (markLost target ext)) 9 1 0 0 0 _).mod.colls = [] from (congrArg Module.colls hmod).trans hc']
      rfl
    · rfl
  unfold lose
  rw [(forgetLost_keeps _).1, hrec]
  unfold respondFor
  rw [show (dropLost (State.relRec (s.updMod (markLost target ext)) 9 1 0 0 0 _)).mod.backInvs = [] from
    (congrArg Module.backInvs hmod).trans hb']
  exact hvds

-- An extent that is taken from its holder.

theorem targetLost_expander {s : State} (target : Nat) (e : Nat × Nat) (h : s.mod.expander = true) :
    evTargetLost target (some e) s = ((s.takeExtent target e).forgetLost).relRec 9 1 0 0 0 e.1 := by
  unfold evTargetLost
  rw [h]

/-- A holder is taken from the entry of a line of an extent. -/
def unholdLine (holder : Nat) (e : Nat × Nat) (s : State) (l : Nat) : State :=
  if inExt e (256 * l) && (s.mod.holdersOf l none).contains holder then
    s.updMod (fun m => { m with snoop := SMap.put m.snoop l (SMap.getD m.snoop 0 l - 2 ^ holder) })
  else s

/-- Without back-invalidations a holder leaves the entries of the snoop filter. -/
theorem takeExtent_eq {s : State} (holder : Nat) (e : Nat × Nat) (hb : s.mod.backInvs = []) : s.takeExtent holder e =
    (SMap.keys s.mod.snoop).foldl (unholdLine holder e)
      (s.updMod (fun m => { m with extents := m.extents.filter (fun x => !(x.base == e.1 && x.holder == holder)) })) := by
  unfold State.takeExtent
  dsimp only
  rw [show (s.updMod (fun m => { m with extents := m.extents.filter (fun x => !(x.base == e.1 && x.holder == holder)) })).mod.backInvs =
    [] from hb]
  rfl

theorem unholdLine_keeps (holder : Nat) (e : Nat × Nat) (s : State) (l : Nat) :
    (unholdLine holder e s l).mem = s.mem ∧ (unholdLine holder e s l).mod.extents = s.mod.extents := by
  unfold unholdLine
  split
  · exact ⟨rfl, rfl⟩
  · exact ⟨rfl, rfl⟩

theorem not_mem_holdersOf {m : Module} {l i : Nat} (h : (SMap.getD m.snoop 0 l).testBit i = false) : i ∉ m.holdersOf l none := by
  intro hi
  have hbit := (List.mem_filter.mp hi).2
  simp [h] at hbit

theorem testBit_of_mem_holdersOf {m : Module} {l i : Nat} (h : i ∈ m.holdersOf l none) :
    (SMap.getD m.snoop 0 l).testBit i = true := by
  have hbit := (List.mem_filter.mp h).2
  simp only [Bool.and_eq_true] at hbit
  exact hbit.1.1

theorem holdersOf_congr {m n : Module} {l : Nat} {but : Option Nat} (hs : SMap.getD m.snoop 0 l = SMap.getD n.snoop 0 l)
    (hl : m.lost = n.lost) : m.holdersOf l but = n.holdersOf l but := by
  unfold Module.holdersOf
  rw [hs, hl]

section Unhold
variable {holder l : Nat} {e : Nat × Nat} (hl : inExt e (256 * l) = true)
include hl

/-- An entry of the extent loses the holder. -/
theorem unholdLine_same (s : State) : holder ∉ (unholdLine holder e s l).mod.holdersOf l none := by
  unfold unholdLine
  by_cases h : holder ∈ s.mod.holdersOf l none
  · rw [if_pos (by simp [hl, h])]
    refine not_mem_holdersOf ?_
    show (SMap.getD (SMap.put s.mod.snoop l _) 0 l).testBit holder = false
    rw [SMap.getD_put_same, Expander.testBit_sub_two_pow (testBit_of_mem_holdersOf h)]
    simp
  · rw [if_neg (by simp [h])]
    exact h

/-- What an entry lost it does not get back. -/
theorem unholdLine_other {s : State} (h : holder ∉ s.mod.holdersOf l none) (k : Nat) :
    holder ∉ (unholdLine holder e s k).mod.holdersOf l none := by
  by_cases hk : l = k
  · subst hk
    exact unholdLine_same hl s
  · unfold unholdLine
    split
    · have hget : SMap.getD (SMap.put s.mod.snoop k (SMap.getD s.mod.snoop 0 k - 2 ^ holder)) 0 l = SMap.getD s.mod.snoop 0 l :=
        SMap.getD_put_other _ _ _ _ _ hk
      exact holdersOf_congr (n := s.mod) (m := { s.mod with
        snoop := SMap.put s.mod.snoop k (SMap.getD s.mod.snoop 0 k - 2 ^ holder) }) hget rfl ▸ h
    · exact h

theorem foldl_unholdLine (ks : List Nat) (s : State) (h : l ∈ ks ∨ holder ∉ s.mod.holdersOf l none) :
    holder ∉ (ks.foldl (unholdLine holder e) s).mod.holdersOf l none := by
  induction ks generalizing s with
  | nil => simpa using h
  | cons k ks ih =>
    refine ih _ ?_
    obtain h | h := h
    · obtain rfl | h := List.mem_cons.mp h
      · exact .inr (unholdLine_same hl s)
      · exact .inl h
    · exact .inr (unholdLine_other hl h k)

end Unhold

theorem getD_of_not_mem_keys {m : SMap Nat} {l : Nat} (h : l ∉ SMap.keys m) : SMap.getD m 0 l = 0 := by
  have hget : SMap.get? m l = none := by
    induction m with
    | nil => rfl
    | cons x m ih =>
      have hne : l ≠ x.1 := fun he => h (he ▸ List.mem_cons_self)
      unfold SMap.get?
      rw [if_neg (by simpa using hne)]
      split
      · rfl
      · exact ih (fun hm => h (List.mem_cons_of_mem _ hm))
  unfold SMap.getD
  rw [hget]
  rfl

/-- A holder that did not release an extent holds it, and lines of it, no more. -/
theorem takeExtent_takes {s : State} (holder : Nat) (e : Nat × Nat) (hb : s.mod.backInvs = []) :
    (s.takeExtent holder e).mem = s.mem ∧
    (∀ x ∈ (s.takeExtent holder e).mod.extents, ¬ (x.base = e.1 ∧ x.holder = holder)) ∧
    ∀ l, inExt e (256 * l) = true → holder ∉ (s.takeExtent holder e).mod.holdersOf l none := by
  rw [takeExtent_eq holder e hb]
  refine ⟨?_, fun x hx => ?_, fun l hl => foldl_unholdLine hl _ _ ?_⟩
  · exact Packets.foldl_keeps (F := State.mem) (fun t l => (unholdLine_keeps holder e t l).1) _ _
  · rw [Packets.foldl_keeps (F := fun t : State => t.mod.extents) (fun t l => (unholdLine_keeps holder e t l).2)] at hx
    have hne := (List.mem_filter.mp hx).2
    rintro ⟨hbase, hholder⟩
    simp [hbase, hholder] at hne
  · by_cases hk : l ∈ SMap.keys s.mod.snoop
    · exact .inl hk
    · refine .inr (not_mem_holdersOf ?_)
      show (SMap.getD s.mod.snoop 0 l).testBit holder = false
      rw [getD_of_not_mem_keys hk, Nat.zero_testBit]

end Sys2Proof.Proofs.Containment
end

section
/-! PROOFS. The events of the fabric. -/

namespace Sys2Proof.Proofs.Fabric
open Sys2Proof Sys2Proof.Machine

-- The clauses of the host link.

section Host
variable {s : State} {r : HostReq} {d : Nat} (hon : s.full = true ∧ s.mod.featon.testBit 4 = true)
  (hp : s.mod.place (HostReq.pa r) = .die d)
include hon hp

/-- A request waits behind an earlier one of its lines. -/
theorem hostMemRequest_behind
    (h : ∃ q ∈ s.mod.snoopQ, ∃ l ∈ HostLink.reqLines r, l ∈ linesOf (HostReq.pa q.2) (HostReq.len q.2)) :
    exec (.hostMemRequest r) s = .next { s with mod := { s.mod with snoopQ := s.mod.snoopQ ++ [(false, r)] } } :=
  congrArg Host.Outcome.next ((HostLink.hostMemRequest_home hon hp).trans (HostLink.hostReq_behind h))

variable (hq : s.mod.snoopQ = []) (hs : s.mod.shared (HostReq.pa r) = false)
include hq hs

theorem hostMemRequest_takes : evHostMemRequest r s = HostLink.takeRoom d false r (s, true) := by
  have hroom : HostLink.roomFor s false r = (s, true) := by
    unfold HostLink.roomFor
    rw [hs]
    rfl
  rw [HostLink.hostMemRequest_home hon hp, HostLink.hostReq_first hq, hroom]

/-- A write waits while other requesters hold its lines, and they are asked. -/
theorem hostMemRequest_asks (hr : HostReq.isRead r = false)
    (hh : ∃ l ∈ HostLink.reqLines r, s.mod.holdersOf l (some (HostReq.req r)) ≠ []) :
    ∃ t, exec (.hostMemRequest r) s = .next t ∧ t.mem = s.mem ∧ t.mod.snoopQ = [(false, r)] ∧
      ∀ l ∈ HostLink.reqLines r, s.mod.holdersOf l (some (HostReq.req r)) ≠ [] → ∃ b ∈ t.mod.backInvs, b.line = l := by
  obtain ⟨l, hl, hne⟩ := hh
  have hheld : HostLink.heldLines s r ≠ [] := List.ne_nil_of_mem ((HostLink.mem_heldLines hr).mpr ⟨hl, hne⟩)
  obtain ⟨hasked, hlines⟩ := HostLink.asked_askAll s (HostReq.req r) (HostLink.heldLines s r)
  refine ⟨(HostLink.askAll s (HostReq.req r) (HostLink.heldLines s r)).hostQueue false r, congrArg Host.Outcome.next ?_, hasked.mem, ?_,
    fun l hl hne => hlines l ((HostLink.mem_heldLines hr).mpr ⟨hl, hne⟩)⟩
  · rw [hostMemRequest_takes hon hp hq hs, HostLink.takeRoom_held hheld]
  · show (HostLink.askAll s _ _).mod.snoopQ ++ _ = _
    rw [hasked.snoopQ, hq]
    rfl

theorem hostMemRequest_serves (h : HostReq.isRead r = true ∨
    ∀ l ∈ HostLink.reqLines r, s.mod.holdersOf l (some (HostReq.req r)) = []) :
    exec (.hostMemRequest r) s = .next (s.hostServe d r) := by
  refine congrArg Host.Outcome.next ?_
  rw [hostMemRequest_takes hon hp hq hs, HostLink.takeRoom_serves (HostLink.heldLines_eq_nil h)]

end Host

-- The clauses of task packets.

section Packet
variable {s : State} {b e l : List Byte} (hx : s.mod.expander = true) (hf : s.full = true) (h5 : s.mod.featon.testBit 5 = true)
include hx hf h5

theorem taskPacket_accepted {i : Nat} (hi : s.mod.taccs.findIdx? (fun x => x.takes b e l) = some i) :
    let ack := s.emit (.taskAck (fld b 0x140 1) (fld b 0x141 1) (fld b 0x148 8))
    let s1 := ack.updMod (fun m => { m with
      taccs := updAt m.taccs i (fun y => { y with lastrst := fld b 0x144 4, lastseq := fld b 0x148 8 }) })
    let a := s.mod.taccbase + 256 * i
    exec (.taskPacket b e l) s = .next ((((s1.sysWrite (a + 8) (leBytes 4 (fld b 0x144 4)) 0).sysWrite (a + 16)
      (leBytes 8 (fld b 0x148 8)) 0).updMod (fun m => { m with taskQ := m.taskQ ++
        [⟨i, fld b 8 1, fld b 0x0C 4 % 2 ^ 20, (b.drop 0x40).take 256⟩] })).taskDrain) := by
  refine congrArg Host.Outcome.next ((Expander.taskPacket_on hx hf h5 _).trans ?_)
  dsimp only
  rw [show (s.emit _).mod.taccs = s.mod.taccs from rfl, hi]
  rfl

theorem taskPacket_refused (hi : s.mod.taccs.findIdx? (fun x => x.takes b e l) = none) :
    let ack := s.emit (.taskAck (fld b 0x140 1) (fld b 0x141 1) (fld b 0x148 8))
    exec (.taskPacket b e l) s = .next (ack.taskRefuse
      (if s.mod.taccs.any (fun x => x.valid && x.xvd == fld b 8 1) then fld b 8 1 else 0)
      (fld b 0x140 1) (fld b 0x141 1) (fld b 0x148 8)) := by
  refine congrArg Host.Outcome.next ((Expander.taskPacket_on hx hf h5 _).trans ?_)
  dsimp only
  rw [show (s.emit _).mod.taccs = s.mod.taccs from rfl, hi]

end Packet

/-- Settles O58: each event has its part above, from the mesh to the ports. -/
theorem fabricEvents : Obligations.FabricEvents := by
  intro s
  refine ⟨fun a b h hw => ?_, fun f a b ha hb => Mesh.meshRoute_spec f ha hb, fun die idx p hp => ?_,
    fun die line => HostLink.guestInvalidate_spec s die line, fun line => ?_, fun r => ?_, fun line req data => ?_,
    fun line holder h => congrArg Host.Outcome.next (HostLink.backInvalidateResponse_none h holder), fun line holder b hb => ?_,
    fun target ext h => ?_, fun target e h => ?_, fun h v => Transport.tables_off v h, fun h v => ?_,
    fun p psn => Transport.msg?_bytes p psn, fun c p => ?_, fun q h => Transport.packets_damaged h,
    fun q p h => Transport.packets_act h, fun h src dst => Transport.resendTimeout_resends s h src dst, fun vd die slot hd => ?_,
    fun b e l h => Expander.taskPacket_off h, fun b e l hx hf h5 => ?_, fun x b e l => Expander.takes_iff x b e l, fun q => ?_,
    fun base size tag holder hx hs hb hz ho hw => Expander.extentGrant_erases hx hs hb hz ho hw,
    fun base size tag holder e hx hs hb hz ho he => Expander.extentGrant_shares hx hs hb hz ho he, fun r => rfl,
    fun port => Expander.ports_spec s port, fun d => Expander.portOf_spec s.mod d⟩
  · exact ⟨Mesh.meshFlitRetry_counts h, Mesh.linkFail_fails h, Mesh.meshLaneSpare_none h, Mesh.meshLaneSpare_spares h⟩
  · exact ⟨fun h => congrArg Host.Outcome.next (HostLink.updateApply_applies hp h),
      fun h hh => congrArg Host.Outcome.next (HostLink.updateApply_waits hp h hh),
      fun hh => congrArg Host.Outcome.next (HostLink.updateApply_asks hp hh)⟩
  · exact ⟨rfl, fun h => congrArg Host.Outcome.next (HostLink.hostSnoop_nothing h)⟩
  · refine ⟨fun h => congrArg Host.Outcome.next (HostLink.hostMemRequest_off r h),
      fun h hp => congrArg Host.Outcome.next (HostLink.hostMemRequest_nowhere r h hp), HostLink.hostRefuse_answers s r,
      fun d hon hp => ⟨fun h => hostMemRequest_behind hon hp h, fun hq hs => ⟨fun hh hr => hostMemRequest_asks hon hp hq hs hr hh,
        fun h => ?_⟩⟩⟩
    have hserve := hostMemRequest_serves hon hp hq hs h
    cases r with
    | read a n req => exact ⟨_, hserve, HostLink.hostServe_read s d a n req⟩
    | write a x req => exact hserve
    | atomic a opc b c req => exact hserve
  · refine ⟨fun h => congrArg Host.Outcome.next (HostLink.backInvalidate_module h), fun d h hp hd hq => ⟨fun hr ho => ?_,
      fun hr ho => ?_, fun hr hv => ?_⟩⟩
    · exact congrArg Host.Outcome.next (HostLink.backInvalidate_owns h hp hd hq hr ho)
    · obtain ⟨t, ht, hkeeps⟩ := HostLink.backInvalidate_asks h hp hd hq hr ho
      exact ⟨t, congrArg Host.Outcome.next ht, hkeeps⟩
    · obtain ⟨t, ht, hkeeps⟩ := HostLink.backInvalidate_full h hp hd hq hr hv
      exact ⟨t, congrArg Host.Outcome.next ht, hkeeps⟩
  · refine ⟨fun hw => ?_, fun hw => ⟨fun hq => ?_, fun own r d hq hp => ?_⟩⟩
    · obtain ⟨t, ht, hkeeps⟩ := HostLink.backInvResponse_waits hb hw
      exact ⟨t, congrArg Host.Outcome.next ht, hkeeps⟩
    · obtain ⟨t, ht, hkeeps⟩ := HostLink.backInvResponse_alone hb hw hq
      exact ⟨t, congrArg Host.Outcome.next ht, hkeeps⟩
    · obtain ⟨t, hkeeps, ht⟩ := HostLink.backInvResponse_retries hb hw hq hp
      exact ⟨t, hkeeps, congrArg Host.Outcome.next ht⟩
  · refine ⟨Containment.lose target ext s, congrArg Host.Outcome.next (Containment.targetLost_eq target h),
      fun hr hc hb => Containment.vds_lose target ext hr hc hb, fun hb => ⟨fun he => ?_, fun e he => ?_,
      fun d _ _ => Containment.far_lose target ext s d⟩⟩
    · rw [he]
      exact Containment.lost_lose target s
    · rw [he]
      exact Containment.lostExt_lose target e s
  · exact ⟨congrArg Host.Outcome.next (Containment.targetLost_expander target e h), Containment.takeExtent_takes target e⟩
  · exact ⟨Transport.fwtcntWrite_switches v h, Transport.commcntWrite_switches v h, Transport.netcntWrite_switches v h,
      Transport.tacccntWrite_switches v h⟩
  · exact ⟨fun h => Transport.netSend_none h, fun d a b h => Transport.netSend_some h⟩
  · exact ⟨fun h => Expander.doorbell_rings hd h, fun h => Expander.doorbell_closed h, fun h => Expander.taskSigned_other h,
      fun h hl => Expander.taskSigned_sends h hl, fun h => Expander.taskAck_frees h, fun h => Expander.taskAck_other h⟩
  · exact ⟨fun i hi => taskPacket_accepted hx hf h5 hi, fun hi => taskPacket_refused hx hf h5 hi⟩
  · intro w t wait hq
    exact ⟨fun o h => Expander.taskDrain_waits hq h, fun h => ⟨fun s1 hc => Expander.taskDrain_refuses hq h hc,
      fun s1 ctx hc s2 i ha => Expander.taskDrain_launches hq h hc ha⟩⟩

end Sys2Proof.Proofs.Fabric
end

section
/-! PROOFS. What O47 (`Obligations.CopiesPost`) comes down to. Every clause of it holds but one: of a copy that loses a
place the statement takes the unpredictable bytes at the state's own draw, and `copyStep` at the next, because `lostHit`
draws first. The two agree only as far as the opaque `Config.freeByte` gives both draws the same bytes, which neither a
proof nor a refutation can use. -/

namespace Sys2Proof.Proofs.CopyPosts
open Sys2Proof Sys2Proof.Machine Sys2Proof.Proofs.Access Sys2Proof.Proofs.Easel Sys2Proof.Proofs.Reduces

-- Rows and lanes that pass are posted.

theorem map_range'_succ {α : Type} (f : Nat → α) (k n : Nat) :
    (List.range' k (n + 1)).map f = f k :: (List.range' (k + 1) n).map f := by
  rw [List.range'_succ, List.map_cons]

/-- Rows that all pass their checks, with no destination line held by a host, are all posted. -/
theorem copyRows_pass {x : AcpyArgs} {q : Geom} {gid : Nat} {c : GCtx} {s : State} (f k : Nat)
    (h : ∀ j, k ≤ j → j < k + f → Passed (rowChk x q gid c s j).1 ∧ Passed (rowChk x q gid c s j).2 ∧
      s.hostLines (rowChk x q gid c s j).2.segs = []) :
    ∃ es, copyRows x q gid c s f k = ((List.range' k f).map
      (fun j => ⟨(rowChk x q gid c s j).1.segs, (rowChk x q gid c s j).2.segs⟩), es, none) := by
  induction f generalizing k with
  | zero => exact ⟨[], rfl⟩
  | succ f ih =>
    obtain ⟨hsrc, hdst, hheld⟩ := h k (Nat.le_refl k) (by omega)
    obtain ⟨es, hes⟩ := ih (k + 1) fun j h1 h2 => h j (by omega) (by omega)
    have hchk := chkLanes_passed [(rowChk x q gid c s k).1, (rowChk x q gid c s k).2] fun y hy => by
      obtain rfl | hy := List.mem_cons.mp hy
      · exact hsrc
      · rw [List.mem_singleton.mp hy]
        exact hdst
    unfold copyRows
    dsimp only
    rw [hchk]
    dsimp only
    rw [hheld, hes, map_range'_succ]
    exact ⟨_, rfl⟩

/-- What posting leaves but for translations: the new operation, and its token. -/
theorem posted_spec {tok : Option (BitVec 4)} {gid core : Nat} {g h : Group} {s : State} {kind : AKind}
    {es : List TlbE} (hg : SMap.get? s.groups gid = some g) :
    let t := ((s.newOp gid h tok kind false).withG gid (fun g => g.startTok tok .copy s.nid)).tlbFills core es
    t.mem = s.mem ∧ SMap.get? t.aops s.nid = some (s.opOf gid h tok kind false) ∧
      SMap.get? t.groups gid = some (g.startTok tok .copy s.nid) := by
  intro t
  obtain ⟨hb, -⟩ := Fetch.tlbFills_beyondTlbs
    ((s.newOp gid h tok kind false).withG gid (fun g => g.startTok tok .copy s.nid)) core es
  change Fetch.beyondTlbs t = _ at hb
  refine ⟨(congrArg State.mem hb :), ?_, ?_⟩
  · exact (congrArg (fun u : State => SMap.get? u.aops s.nid) hb :).trans (SMap.get?_put_same ..)
  · exact (congrArg (fun u : State => SMap.get? u.groups gid) hb :).trans
      ((SMap.get?_upd_same ..).trans (congrArg _ hg))

theorem copySend_mem (tok : Option (BitVec 4)) (whole : Bool) (gid : Nat) (c : GCtx) (s : State) (rows ev) :
    (copySend tok whole gid c s rows ev).mem = s.mem := by
  unfold copySend
  split <;> rfl

theorem tlbFills_mem (s : State) (core : Nat) (es : List TlbE) : (s.tlbFills core es).mem = s.mem :=
  (congrArg State.mem (Fetch.tlbFills_beyondTlbs s core es).1 :)

theorem make_tokPending (g : Group) (k : Com) (tok : Option (BitVec 4)) : (GCtx.make g k).g.tokPending tok = g.tokPending tok :=
  (congrArg (fun g : Group => g.tokPending tok) (make_beyondHeld g k) :)

-- acpy.

section Acpy

variable {x : AcpyArgs} {s : State} {gid : Nat} {g : Group}

/-- What an `acpy` does once its token, its operands and its geometry let it. -/
theorem actAcpy_eq (ht : g.prog ≠ 0 ∨ g.tokPending x.tok = false) (hlim : s.lim = none)
    (hc : (GCtx.make g x.k).consume [(x.a, baseRegs x.dap), (x.b, baseRegs x.sap), (x.c, geomRegs x.dims.val)]
      [(GCtx.make g x.k).low] = none) (hgeo : geomTrap (GCtx.make g x.k) x (geomOf (GCtx.make g x.k) x) = none) :
    let c := GCtx.make g x.k
    let q := geomOf c x
    let n := if q.x == 0 then 0 else q.y * q.z
    let ev := (acpyEv x.k).map (copyRec c s)
    (n = 0 → (ev = none ∨ (s.cluster (c.g.core / 4)).evq.length < evqMax) →
      actAcpy x gid c s = .done (copyNone x.tok gid c s ev)) ∧
    (n ≠ 0 → n ≤ g.prog.toNat → actAcpy x gid c s = .done s) ∧
    (∀ rows es, g.prog.toNat < n → copyRows x q gid c s (n - g.prog.toNat) g.prog.toNat = (rows, es, none) → rows ≠ [] →
      actAcpy x gid c s = .done ((copySend x.tok true gid c s rows ev).tlbFills c.g.core es)) := by
  intro c q n ev
  have hprog : c.g.prog = g.prog := make_prog g x.k
  have hpend : (c.g.prog == 0 && c.g.tokPending x.tok) = false := by
    rw [hprog, show c.g.tokPending x.tok = g.tokPending x.tok from make_tokPending g x.k x.tok]
    obtain hp | hp := ht
    · rw [beq_false_of_ne hp, Bool.false_and]
    · rw [hp, Bool.and_false]
  have hto : s.stepsTo c.g g.prog.toNat n = n := by
    unfold State.stepsTo
    rw [hlim]
  have hgo : actAcpy x gid c s =
      if n == 0 then
        if ev.isSome && evqMax ≤ (s.cluster (c.g.core / 4)).evq.length then .wait s .evq
        else .done (copyNone x.tok gid c s ev)
      else if n ≤ g.prog.toNat then .done s
      else
        let r := copyRows x q gid c s (n - g.prog.toNat) g.prog.toNat
        let whole := n == n && r.2.2.isNone
        let sent := if r.1.isEmpty then s
          else (copySend x.tok whole gid c s r.1 (if whole then ev else none)).tlbFills c.g.core r.2.1
        match r.2.2 with
        | none => if n < n then .wait (sent.stopAt s gid n c.g) .step else .done sent
        | some (k, b) =>
          let t := sent.stopAt s gid k c.g
          match b with
          | .bad (.tier o) => chkFail gid c t 2 (.tier o)
          | .bad b => chkFail gid c (sent.withG gid (fun g => g.setProg k)) 2 b
          | .held ls => .wait (t.askHost ls) .fence := by
    unfold actAcpy
    rw [hpend, if_neg Bool.false_ne_true, hc]
    dsimp only
    rw [hgeo]
    dsimp only
    rw [hprog, hto] <;> rfl
  refine ⟨fun h0 hev => ?_, fun h0 hle => ?_, fun rows es hlt hrows hne => ?_⟩
  · have hroom : ¬ (ev.isSome && decide (evqMax ≤ (s.cluster (c.g.core / 4)).evq.length)) = true := by
      intro hfull
      rw [Bool.and_eq_true, decide_eq_true_eq] at hfull
      obtain ⟨hsome, hmax⟩ := hfull
      obtain hnone | hlt := hev
      · rw [hnone] at hsome
        cases hsome
      · omega
    rw [hgo, if_pos (beq_iff_eq.mpr h0), if_neg hroom]
  · rw [hgo, if_neg (fun h => h0 (beq_iff_eq.mp h)), if_pos hle]
  · have h0 : n ≠ 0 := by omega
    have hfilled : rows.isEmpty = false := by
      cases rows with
      | nil => exact absurd rfl hne
      | cons => rfl
    rw [hgo, if_neg (fun h => h0 (beq_iff_eq.mp h)), if_neg (Nat.not_le.mpr hlt), hrows]
    dsimp only
    rw [hfilled, beq_self_eq_true, if_neg (Nat.lt_irrefl n)]
    rfl

end Acpy

/-- R243 to R245: the clauses of O47 about `acpy`. -/
theorem acpy_posts (x : AcpyArgs) (s : State) (gid : Nat) (g : Group) :
    let c := GCtx.make g x.k
    let q := geomOf c x
    let n := if q.x == 0 then 0 else q.y * q.z
    let os := [(x.a, baseRegs x.dap), (x.b, baseRegs x.sap), (x.c, geomRegs x.dims.val)]
    let row (j : Nat) : CopyRow := ⟨(rowChk x q gid c s j).1.segs, (rowChk x q gid c s j).2.segs⟩
    let ev := (acpyEv x.k).map (copyRec c s)
    Issues s gid g x.k os → (g.prog ≠ 0 ∨ g.tokPending x.tok = false) → c.consume os [c.low] = none →
    geomTrap c x q = none →
    (n = 0 → (ev = none ∨ (s.cluster (c.g.core / 4)).evq.length < evqMax) →
      exec (.acpy x) s = .next (completed s gid g x.k (copyNone x.tok gid c s ev))) ∧
    (n ≠ 0 → n ≤ g.prog.toNat → exec (.acpy x) s = .next (completed s gid g x.k s)) ∧
    (g.prog.toNat < n → (∀ j, g.prog.toNat ≤ j → j < n →
        (∃ gs es, (rowChk x q gid c s j).1 = .ok gs es) ∧ (∃ gs es, (rowChk x q gid c s j).2 = .ok gs es) ∧
          s.hostLines (rowChk x q gid c s j).2.segs = []) →
      ∃ s', exec (.acpy x) s = .next (completed s gid g x.k s') ∧ s'.mem = s.mem ∧
        (g.prog = 0 →
          SMap.get? s'.aops s.nid = some (s.opOf gid c.g x.tok (.copy ((List.range n).map row) ev) false) ∧
          (SMap.get? s'.groups gid) = some (g.startTok x.tok .copy s.nid))) := by
  intro c q n os row ev h ht hc hgeo
  obtain ⟨hnone, hover, hsend⟩ := actAcpy_eq (gid := gid) ht h.lim hc hgeo
  refine ⟨fun h0 hev => exec_of_done rfl h (hnone h0 hev), fun h0 hle => exec_of_done rfl h (hover h0 hle),
    fun hlt hrows => ?_⟩
  obtain ⟨es, hes⟩ := copyRows_pass (n - g.prog.toNat) g.prog.toNat fun j h1 h2 => hrows j h1 (by omega)
  have hne : (List.range' g.prog.toNat (n - g.prog.toNat)).map row ≠ [] := fun he => by
    have hl := congrArg List.length he
    rw [List.length_map, List.length_range', List.length_nil] at hl
    omega
  refine ⟨_, exec_of_done rfl h (hsend _ es hlt hes hne), (tlbFills_mem ..).trans (copySend_mem ..), fun h0 => ?_⟩
  have hfresh : copySend x.tok true gid c s ((List.range' g.prog.toNat (n - g.prog.toNat)).map row) ev =
      (s.newOp gid c.g x.tok (.copy ((List.range n).map row) ev) false).withG gid
        (fun g => g.startTok x.tok .copy s.nid) := by
    unfold copySend
    rw [show c.g.prog = 0 from (make_prog g x.k).trans h0, h0, List.range_eq_range']
    rfl
  rw [hfresh]
  exact (posted_spec h.grp).2

-- agth and asct.

/-- R246: the clauses of O47 about `agth` and `asct`. -/
theorem gather_posts (x : GthArgs) (i : Instr) (scatter : Bool) (s : State) (gid : Nat) (g : Group)
    (hi : exec i s = issue i x.k (gthRs x) (actGth x scatter) s) (h : Issues s gid g x.k (gthRs x)) :
    let c := GCtx.make g x.k
    let mem (l : Nat) : Chk :=
      s.chk c.g gid ⟨if scatter then needW else needR, false, false, 4⟩ x.ap (gthRow x c l) x.k.imm.toNat
    let blk (l : Nat) : Chk :=
      s.chk c.g gid ⟨if scatter then needR else needW, false, false, 4⟩ 7 (gthBlk x c l) x.k.imm.toNat
    (c.act = 0 → exec i s = .next (completed s gid g x.k s)) ∧
    (c.act ≠ 0 → g.tokPending x.tok = false → c.consume (gthRs x) (maskLanes c.act) = none →
      (∀ l, inMask c.act l = true → (∃ gs es, mem l = .ok gs es) ∧ (∃ gs es, blk l = .ok gs es) ∧
        (scatter = true → s.hostLines ((mem l).segs ++ (blk l).segs) = [])) →
      ∃ s', exec i s = .next (completed s gid g x.k s') ∧ s'.mem = s.mem ∧
        SMap.get? s'.groups gid = some (g.startTok x.tok .copy s.nid) ∧
        SMap.get? s'.aops s.nid = some (s.opOf gid c.g x.tok
          (.copy ((maskLanes c.act).map (fun l => if scatter then ⟨(blk l).segs, (mem l).segs⟩
            else ⟨(mem l).segs, (blk l).segs⟩)) none) false)) := by
  intro c mem blk
  refine ⟨fun ha => exec_of_done hi h ?_, fun ha ht hc hl => ?_⟩
  · unfold actGth
    exact if_pos (beq_iff_eq.mpr ha)
  · have lanes (l : Nat) (hm : l ∈ maskLanes c.act) := hl l (List.mem_filter.mp hm).2
    have hpair (l : Nat) (hm : l ∈ maskLanes c.act) :
        chkLanes [mem l, blk l] = .ok ((mem l).segs ++ (blk l).segs) ((mem l).tlbs ++ (blk l).tlbs) := by
      obtain ⟨hmem, hblk, -⟩ := lanes l hm
      refine (chkLanes_passed [mem l, blk l] fun y hy => ?_).trans ?_
      · obtain rfl | hy := List.mem_cons.mp hy
        · exact hmem
        · rw [List.mem_singleton.mp hy]
          exact hblk
      · rw [List.flatMap_cons, List.flatMap_singleton, List.flatMap_cons, List.flatMap_singleton]
    let pairs := ((maskLanes c.act).map (fun l => (mem l, blk l))).map (fun p => chkLanes [p.1, p.2])
    have hpairs : ∀ y ∈ pairs, ∃ l ∈ maskLanes c.act, chkLanes [mem l, blk l] = y := fun y hy => by
      obtain ⟨p, hp, rfl⟩ := List.mem_map.mp hy
      obtain ⟨l, hm, rfl⟩ := List.mem_map.mp hp
      exact ⟨l, hm, rfl⟩
    have hchk := chkLanes_passed pairs fun y hy => by
      obtain ⟨l, hm, rfl⟩ := hpairs y hy
      exact ⟨_, _, hpair l hm⟩
    have hheld : (if scatter then s.hostLines (pairs.flatMap Chk.segs) else []) = [] := by
      split
      · next hs =>
        unfold State.hostLines
        rw [List.flatMap_eq_nil_iff]
        intro sg hsg
        obtain ⟨y, hy, hsg⟩ := List.mem_flatMap.mp hsg
        obtain ⟨l, hm, rfl⟩ := hpairs y hy
        rw [hpair l hm] at hsg
        obtain ⟨-, -, hfree⟩ := lanes l hm
        exact List.flatMap_eq_nil_iff.mp (hfree hs) sg hsg
      · rfl
    have hact : actGth x scatter gid c s = .done (((s.newOp gid c.g x.tok
        (.copy ((maskLanes c.act).map (fun l => if scatter then ⟨(blk l).segs, (mem l).segs⟩
          else ⟨(mem l).segs, (blk l).segs⟩)) none) false).withG gid
            (fun g => g.startTok x.tok .copy s.nid)).tlbFills c.g.core (pairs.flatMap Chk.tlbs)) := by
      have hpend : c.g.tokPending x.tok = false := (make_tokPending g x.k x.tok).trans ht
      unfold actGth
      rw [if_neg (fun h => ha (beq_iff_eq.mp h)), hpend, if_neg Bool.false_ne_true, show c.consume [(x.a, 1), (x.b, 2), (x.c, 1)]
        (maskLanes c.act) = none from hc]
      dsimp only
      rw [show chkLanes (((maskLanes c.act).map (fun l =>
        (s.chk c.g gid ⟨if scatter then needW else needR, false, false, 4⟩ x.ap (gthRow x c l) x.k.imm.toNat,
         s.chk c.g gid ⟨if scatter then needR else needW, false, false, 4⟩ 7 (gthBlk x c l) x.k.imm.toNat))).map
           (fun p => chkLanes [p.1, p.2])) = _ from hchk]
      dsimp only
      rw [hheld, List.map_map]
      rfl
    obtain ⟨hmem, haops, hgroups⟩ := posted_spec (tok := x.tok) (core := c.g.core) (h := c.g) (es := pairs.flatMap Chk.tlbs)
      (kind := .copy ((maskLanes c.act).map (fun l => if scatter then ⟨(blk l).segs, (mem l).segs⟩
          else ⟨(mem l).segs, (blk l).segs⟩)) none) h.grp
    exact ⟨_, exec_of_done hi h hact, hmem, hgroups, haops⟩

-- The end of a copy.

theorem cluster_congr {s t : State} (h : s.clusters = t.clusters) (cl : Nat) : s.cluster cl = t.cluster cl := by
  unfold State.cluster
  rw [h]

/-- A copy that is performed stays behind an older one of its group, or for want of room for its record, and else leaves. -/
theorem opTry_copy {s : State} {id : Nat} {o : AOp} {rows : List CopyRow} {ev : Option EvRec} (hk : o.kind = .copy rows ev) :
    let cl := o.core / 4
    let ends := s.olderOp id o = false ∧ (ev ≠ none → (s.cluster cl).evq.length < evqMax)
    (¬ ends → SMap.get? (s.opTry id o false).aops id = some o ∧ ((s.opTry id o false).cluster cl).evq = (s.cluster cl).evq) ∧
    (ends → (s.opTry id o false).aops = SMap.del s.aops id ∧
      ((s.opTry id o false).cluster cl).evq = (s.cluster cl).evq ++ ev.toList.map (fun r => { r with stamp := s.clk })) := by
  intro cl ends
  have hclosed (st : Byte) : (s.opEnd id o st).clusters = s.clusters ∧ (s.opEnd id o st).clk = s.clk := by
    unfold State.opEnd
    dsimp only
    split <;> exact ⟨rfl, rfl⟩
  have hcl (st : Byte) : (s.opEnd id o st).cluster cl = s.cluster cl :=
    cluster_congr (hclosed st).1 cl
  cases ev with
  | none =>
    have heq : s.opTry id o false = if s.olderOp id o then { s with aops := SMap.put s.aops id o }
        else s.opEnd id o (if o.err then stErr else stOk) := by
      unfold State.opTry
      rw [hk]
      rfl
    rw [heq]
    refine ⟨fun hn => ?_, fun he => ?_⟩
    · have hold : s.olderOp id o = true := by
        cases h : s.olderOp id o with
        | true => rfl
        | false => exact absurd ⟨h, fun hne => absurd rfl hne⟩ hn
      rw [if_pos hold]
      exact ⟨SMap.get?_put_same .., rfl⟩
    · rw [if_neg (Bool.eq_false_iff.mp he.1), hcl]
      exact ⟨(opEnd_spec ..).2, (List.append_nil _).symm⟩
  | some r =>
    have heq : s.opTry id o false = if decide (evqMax ≤ (s.cluster cl).evq.length) || s.olderOp id o then
        { s with aops := SMap.put s.aops id o }
        else (s.opEnd id o (if o.err then stErr else stOk)).evPost cl r := by
      unfold State.opTry
      rw [hk]
      rfl
    rw [heq]
    refine ⟨fun hn => ?_, fun he => ?_⟩
    · have hstay : (decide (evqMax ≤ (s.cluster cl).evq.length) || s.olderOp id o) = true := by
        rw [Bool.or_eq_true, decide_eq_true_eq]
        cases h : s.olderOp id o with
        | true => exact .inr rfl
        | false => exact .inl (Nat.not_lt.mp fun hlt => hn ⟨h, fun _ => hlt⟩)
      rw [if_pos hstay]
      exact ⟨SMap.get?_put_same .., rfl⟩
    · obtain ⟨hold, hroom⟩ := he
      have hgo : ¬ (decide (evqMax ≤ (s.cluster cl).evq.length) || s.olderOp id o) = true := by
        rw [hold, Bool.or_false, decide_eq_true_eq]
        exact Nat.not_le.mpr (hroom (Option.some_ne_none r))
      rw [if_neg hgo]
      refine ⟨(opEnd_spec ..).2, ?_⟩
      unfold State.evPost
      rw [Records.cluster_updCluster, if_pos rfl, hcl, (hclosed _).2]
      rfl

/-- The bytes that a copy leaves behind when it loses a place do not depend on the draw that `lostHit` makes. -/
def LostBytesAgree : Prop := ∀ (s : State) (a : Acc) (d ctx : Nat) (rows : List CopyRow),
  ((s.lostHit d ctx).doCopy a rows true).mem = (s.doCopy a rows true).mem

/-- R242, R244: the clause of O47 about the end of a copy, as far as lost copies agree. -/
theorem copy_completes (agree : LostBytesAgree) (op : Nat) (s : State) (o : AOp) (rows : List CopyRow) (ev : Option EvRec)
    (ho : SMap.get? s.aops op = some o) (hk : o.kind = .copy rows ev) :
    let cl := o.core / 4
    let reach := s.reachAll o.core false o.kind.segs
    let lost := !o.ran && s.copyLost rows
    let done := s.doCopy (engAcc o.core o.team o.ctx 1 o.chain) rows (o.err || lost)
    let ends := s.olderOp op o = false ∧ (ev ≠ none → (s.cluster cl).evq.length < evqMax)
    (o.ran = false → reach = false → exec (.copyComplete op) s = .next (s.askHost s.heldUpd)) ∧
    ((o.ran = true ∨ reach = true) → ∃ u : State, exec (.copyComplete op) s = .next (u.sweepTeam o.team) ∧
      u.mem = (if o.ran then s else done).mem ∧
      (¬ ends → SMap.get? u.aops op = some { o with ran := true, err := o.err || lost } ∧
        (u.cluster cl).evq = (s.cluster cl).evq) ∧
      (ends → u.aops = SMap.del s.aops op ∧
        (u.cluster cl).evq = (s.cluster cl).evq ++ ev.toList.map (fun r => { r with stamp := s.clk }))) := by
  intro cl reach lost done ends
  have hev : evCopyComplete op s =
      if !o.ran && !reach then s.askHost s.heldUpd else (s.copyStep op false).sweepTeam o.team := by
    unfold evCopyComplete
    rw [ho]
  refine ⟨fun hran hreach => ?_, fun hgo => ?_⟩
  · exact congrArg Host.Outcome.next (hev.trans (if_pos (by rw [hran, hreach]; rfl)))
  · have hgoes : ¬ (!o.ran && !reach) = true := by
      obtain h | h := hgo
      · rw [h, Bool.not_true, Bool.false_and]
        exact Bool.false_ne_true
      · rw [h, Bool.not_true, Bool.and_false]
        exact Bool.false_ne_true
    let o' : AOp := { o with ran := true, err := o.err || lost }
    let performed := (if lost then s.lostHit (o.core / 128) o.ctx else s).doCopy
      (engAcc o.core o.team o.ctx 1 o.chain) rows (o.err || lost)
    let s1 := if o.ran then s else s.charge performed o.team (o.ctx / 256)
    have hstep : s.copyStep op false = s1.opTry op o' false := by
      unfold State.copyStep
      rw [ho]
      dsimp only
      split
      · next he =>
        obtain ⟨rfl, rfl⟩ := AKind.copy.inj (hk.symm.trans he)
        rfl
      · next hne => exact absurd hk (hne _ _)
    have hfront : Front.front performed = Front.front s := by
      refine (Front.State.doCopy_front ..).trans ?_
      split <;> rfl
    have hcharged : ({ s.charge performed o.team (o.ctx / 256) with grids := [] } : State) = { performed with grids := [] } :=
      charge_beyondGrids ..
    have hs1 : s1.aops = s.aops ∧ s1.clusters = s.clusters ∧ s1.clk = s.clk := by
      show (if o.ran then s else s.charge performed o.team (o.ctx / 256)).aops = _ ∧ _
      split
      · next h => rw [show s1 = s from if_pos h]; exact ⟨rfl, rfl, rfl⟩
      · next h =>
        rw [show s1 = s.charge performed o.team (o.ctx / 256) from if_neg h]
        exact ⟨(congrArg State.aops hcharged :).trans (congrArg State.aops hfront :),
          (congrArg State.clusters hcharged :).trans (congrArg State.clusters hfront :),
          (congrArg State.clk hcharged :).trans (congrArg State.clk hfront :)⟩
    have hmem : s1.mem = (if o.ran then s else done).mem := by
      show (if o.ran then s else s.charge performed o.team (o.ctx / 256)).mem = _
      split
      · rfl
      · refine (congrArg State.mem hcharged :).trans ?_
        show ((if lost then s.lostHit (o.core / 128) o.ctx else s).doCopy _ rows (o.err || lost)).mem = _
        show _ = (s.doCopy _ rows (o.err || lost)).mem
        cases lost with
        | false => rfl
        | true =>
          rw [Bool.or_true]
          exact agree ..
    obtain ⟨haops, hclusters, hclk⟩ := hs1
    have holder : s1.olderOp op o' = s.olderOp op o := by
      unfold State.olderOp
      rw [haops]
      rfl
    have hcl : s1.cluster cl = s.cluster cl := cluster_congr hclusters cl
    obtain ⟨hstays, hleaves⟩ := opTry_copy (s := s1) (id := op) (o := o') hk
    rw [holder, show s1.cluster (o'.core / 4) = s.cluster cl from hcl] at hstays hleaves
    rw [haops, hclk] at hleaves
    refine ⟨s.copyStep op false, congrArg Host.Outcome.next (hev.trans (if_neg hgoes)), ?_⟩
    rw [hstep]
    exact ⟨(opTry_mem ..).trans hmem, hstays, hleaves⟩

/-- O47 holds as far as lost copies agree. -/
theorem copiesPost_of_lostBytesAgree (agree : LostBytesAgree) : Obligations.CopiesPost := by
  refine ⟨acpy_posts, fun x s gid g => ?_, copy_completes agree⟩
  exact fun h => ⟨gather_posts x (.agth x) false s gid g rfl h, gather_posts x (.asct x) true s gid g rfl h⟩

-- A copy from a lost place.

theorem endTeam_groups (s : State) (tid : Nat) (ran : Bool) : (s.endTeam tid ran).groups = s.groups := by
  have hcount (s : State) : (s.countRelease tid true).groups = s.groups := by
    unfold State.countRelease
    dsimp only
    split
    · split <;> rfl
    · rfl
  have hunfuse (s : State) (p : Bool) (a cores) : (if p then s.unfuse a cores else s).groups = s.groups := by
    split
    · exact Front.groups_of_front (Front.State.unfuse_front ..)
    · rfl
  unfold State.endTeam
  split
  · rfl
  · exact (hunfuse (s.countRelease tid true) ..).trans (hcount s)

/-- A team that has a group left after the sweep was not swept. -/
theorem sweepTeam_resident {u t : State} {tid : Nat} (h : u.sweepTeam tid = t) (ht : t.groups.any (fun e => e.2.team == tid) = true) :
    u = t := by
  unfold State.sweepTeam at h
  split at h
  · exact h
  · next hswept =>
    have hu : u.groups = t.groups := (endTeam_groups u tid true).symm.trans (congrArg State.groups h)
    rw [hu, ht, Bool.true_or] at hswept
    exact absurd rfl hswept

theorem msSend_mem (s : State) (kind pa n : Nat) (q : ReqData) (a : Acc) : (s.msSend kind pa n q a).mem = s.mem := by
  unfold State.msSend
  split
  · unfold State.portReq
    dsimp only
    split <;> rfl
  · rfl

/-- A copy of one byte from a window whose target is lost to address 0 of die 0, on a memory-side page. -/
def lostOp : AOp :=
  ⟨3, [], 0, 0, 2, 0, 0, none, .copy [⟨[⟨false, 2 ^ 42, false, 0, 1⟩], [⟨false, 0, true, 0, 1⟩]⟩] none, false, false, false⟩

/-- Its group is resident, and `n` draws were made before. -/
def lostState (n : Nat) : State :=
  { State.reset with
    draws := n, groups := [(3, hostGroup 2)], aops := [(7, lostOp)]
    mod := { State.reset.mod with fwt := [⟨2 ^ 42, 2 ^ 28, 1, 1, 0, [3], []⟩], lost := [3] } }

/-- A byte written at the home of an address whose unit is in plaintext. -/
theorem homeWrite_byte {s : State} (b : Byte) (hkey : SMap.getD s.keyOf 0 0 = 0) :
    (s.homeWrite 0 [b] 0).mem = Memory.put s.mem 0 b := by
  have hrekey : s.rekey 0 0 = s := if_pos (beq_iff_eq.mpr hkey)
  have hunits : unitsOf 0 [b].length = [0] := (rfl : unitsOf 0 1 = [0])
  have hplain : (unitsOf 0 [b].length).foldl (fun s u => s.rekey 0 u) s = s := by
    rw [hunits]
    exact hrekey
  exact congrArg (fun t : State => Memory.put t.mem 0 b) hplain

/-- The copy loses its byte, and writes the one of the state's draw. -/
theorem lostState_doCopy (n : Nat) :
    ((lostState n).doCopy (engAcc 0 2 0 1 0) lostOp.kind.rows true).mem = Memory.put [] 0 (Config.freeByte n 0) :=
  (msSend_mem (((lostState n).draw.meetAt 0 0).msPut 0 [Config.freeByte n 0]) 2 0 1 ReqData.none (engAcc 0 2 0 1 0)).trans
    (homeWrite_byte (s := (lostState n).draw) _ rfl)

/-- Performed, it writes the byte of the next draw. -/
theorem lostHit_doCopy (n : Nat) :
    (((lostState n).lostHit 0 0).doCopy (engAcc 0 2 0 1 0) lostOp.kind.rows true).mem =
      Memory.put [] 0 (Config.freeByte (n + 1) 0) :=
  (msSend_mem ((((lostState n).lostHit 0 0).draw.meetAt 0 0).msPut 0 [Config.freeByte (n + 1) 0]) 2 0 1 ReqData.none
    (engAcc 0 2 0 1 0)).trans (homeWrite_byte (s := ((lostState n).lostHit 0 0).draw) _ rfl)

theorem opTry_groups {s : State} {id : Nat} {o : AOp} {force : Bool} (ht : o.tok = none) :
    (s.opTry id o force).groups = s.groups := by
  have hend (st : Byte) : (s.opEnd id o st).groups = s.groups := by
    unfold State.opEnd
    rw [ht]
    rfl
  unfold State.opTry
  dsimp only
  split
  all_goals
    split
    · rfl
    · exact hend _

theorem lostState_completes (n : Nat) :
    ∃ t, exec (.copyComplete 7) (lostState n) = .next t ∧ t.mem = Memory.put [] 0 (Config.freeByte (n + 1) 0) ∧
      t.groups.any (fun e => e.2.team == 2) = true := by
  let performed := ((lostState n).lostHit 0 0).doCopy (engAcc 0 2 0 1 0) lostOp.kind.rows true
  have hgroups : performed.groups = [(3, hostGroup 2)] := Front.groups_of_front (Front.State.doCopy_front ..)
  let t := ((lostState n).charge performed 2 0).opTry 7 { lostOp with ran := true, err := true } false
  have hcharged : ({ (lostState n).charge performed 2 0 with grids := [] } : State) = { performed with grids := [] } :=
    charge_beyondGrids ..
  have hteam : t.groups.any (fun e => e.2.team == 2) = true := by
    rw [opTry_groups rfl, (congrArg State.groups hcharged :).trans hgroups]
    rfl
  have hstep : (lostState n).copyStep 7 false = t := rfl
  refine ⟨t, ?_, (opTry_mem ..).trans ((congrArg State.mem hcharged :).trans (lostHit_doCopy n)), hteam⟩
  refine congrArg Host.Outcome.next ?_
  show ((lostState n).copyStep 7 false).sweepTeam 2 = t
  rw [hstep]
  unfold State.sweepTeam
  rw [hteam, Bool.true_or, if_pos rfl]

/-- O47 asks the opaque `Config.freeByte` for the same byte at two draws. -/
theorem freeByte_succ_of_copiesPost (h : Obligations.CopiesPost) (n : Nat) :
    Config.freeByte n 0 = Config.freeByte (n + 1) 0 := by
  obtain ⟨-, -, hends⟩ := h
  obtain ⟨-, hperformed⟩ := hends 7 (lostState n) lostOp _ none rfl rfl
  obtain ⟨u, hu, hmem, -⟩ := hperformed (.inr rfl)
  obtain ⟨t, ht, htmem, hteam⟩ := lostState_completes n
  have hswept : u.sweepTeam 2 = t := Host.Outcome.next.inj (hu.symm.trans ht)
  obtain rfl : u = t := sweepTeam_resident hswept hteam
  have hbyte := congrArg (fun m => Memory.get m 0) ((lostState_doCopy n).symm.trans (hmem.symm.trans htmem))
  rw [Memory.get_put_same _ _ _ rfl, Memory.get_put_same _ _ _ rfl] at hbyte
  exact hbyte

end Sys2Proof.Proofs.CopyPosts
end
